-- ==== Sys2Proof/Word.lean ====
section
/-! DEFINITION. The word types of the Vorzin and the plainest reading of their fields (R1, R87). -/
namespace Sys2Proof

/-- A 32-bit register or instruction word (R12, R87). -/
abbrev Word := BitVec 32
/-- A 64-bit pair or address (R13, R30). -/
abbrev DWord := BitVec 64
/-- One byte of memory (R1). -/
abbrev Byte := BitVec 8
/-- A 56-bit virtual code address (R88). -/
abbrev Pc := BitVec 56

/-- The field [hi:lo] of a word, both ends included (R1). -/
abbrev fieldOf {n : Nat} (w : BitVec n) (hi lo : Nat) : BitVec (hi - lo + 1) := w.extractLsb' lo (hi - lo + 1)

end Sys2Proof
end

