-- ==== Sys2Proof/Syntax.lean ====
section
/-! DEFINITION. The instructions and the indivisible events of the Vorzin, one constructor a row of the
opcode table. Rows with an encoding are instruction words (R87-R108); rows without one are the steps that
the other agents of the device take (spec/95), whose arguments name what they act on. -/
namespace Sys2Proof

/-- v0 to v127 (R90). -/
abbrev VReg := BitVec 7
/-- A source or destination of major 0x1F: 0-63 names s0-s63, 64-127 names v(value - 64) (R93). -/
abbrev UReg := BitVec 7
/-- p0 to p7 (R14). -/
abbrev PReg := BitVec 3
/-- s0 to s63 (R19). -/
abbrev SReg := BitVec 6
/-- The uniform pair s(2k):s(2k+1) (R90). -/
abbrev SPair := BitVec 5
/-- h0 to h15 (R15). -/
abbrev HReg := BitVec 4
/-- t0 to t63 (R35). -/
abbrev Tag := BitVec 6
/-- Field slots 0 to 7 (R237). -/
abbrev FSlot := BitVec 3
/-- A format code of R42; all 32 values are assigned. -/
abbrev Fmt := BitVec 5

/-- Conditions of ICMP (R92, R136). -/
inductive ICond | eq | ne | lt | le | gt | ge | ltu | leu | gtu | geu
  deriving DecidableEq, Repr
/-- Conditions of FCMP (R92, R136). -/
inductive FCond | eq | ne | lt | le | gt | ge | un | ord
  deriving DecidableEq, Repr
/-- How a compare combines into pd (R136). -/
inductive Combine | set | and | or
  deriving DecidableEq, Repr
/-- The element format of FCMP (R92). -/
inductive FWidth | fp32 | fp16 | bf16
  deriving DecidableEq, Repr
/-- Element sizes of loads (R95). -/
inductive LdSize | b | sb | h | sh | w | d | q
  deriving DecidableEq, Repr
/-- Element sizes of stores (R95). -/
inductive StSize | b | h | w | d | q
  deriving DecidableEq, Repr
/-- The space an atomic names (R96). -/
inductive Space | global | near
  deriving DecidableEq, Repr
/-- Operations of ATOM (R96, R171). -/
inductive AtomOp | add | fadd | min | max | minu | maxu | and | or | xor | xchg | cas
  deriving DecidableEq, Repr
/-- Operations of RED and of the collectives (R96, R171, R286). -/
inductive RedOp | add | fadd | min | max | minu | maxu | and | or | xor
  deriving DecidableEq, Repr
/-- Scopes of FENCE (R97, R288). -/
inductive Scope | workgroup | core | cluster | device | system
  deriving DecidableEq, Repr
/-- Kinds of FENCE (R97). -/
inductive FenceKind | full | acquire | release
  deriving DecidableEq, Repr
/-- Kinds of BRA; likely and unlikely only guide fetch (R107). -/
inductive BraKind | plain | likely | unlikely
  deriving DecidableEq, Repr
/-- The sides of a CPY (R98, R199). -/
inductive CpyDir | gn | ng | nn | gg
  deriving DecidableEq, Repr
/-- 4, 8 or 16 bytes (R98). -/
inductive VecSize | b4 | b8 | b16
  deriving DecidableEq, Repr
/-- Kept elements in each group of 12 (R98, R220). -/
inductive SparseN | n6 | n4 | n3
  deriving DecidableEq, Repr
/-- Placement asked for by an MV (R223, R226). -/
inductive MvMode | auto | bank | core
  deriving DecidableEq, Repr
/-- Payload kinds of HAND (R98, R263). -/
inductive Payload | none | value | buffer
  deriving DecidableEq, Repr

/-- A thread: the identifier of its workgroup and its thread index (R10). -/
structure ThreadRef where
  wg  : Nat
  tid : Nat
  deriving DecidableEq, Repr

/-- A unit that issues words: a quarter of a physical core (R151), or the sequencer of an engine role of a
launch's team (R256). -/
inductive IssueUnit | quarter (core q : Nat) | engine (launch team role : Nat)
  deriving DecidableEq, Repr

/-- A place for a workgroup: physical core, quarter, first lane, first byte of near memory (R363). -/
structure Placement where
  core    : Nat
  quarter : Nat
  lane    : Nat
  near    : Nat
  deriving DecidableEq, Repr

/-- PCIe functions: the physical function, or the virtual function of a partition (R397, R398). -/
inductive PcieFn | pf | vf (p : Nat)
  deriving DecidableEq, Repr

/-- PCIe AtomicOps (R301, R397). -/
inductive HostAtom | fetchAdd | swap | cas
  deriving DecidableEq, Repr

/-- What a push of a deterministic launch brings: whether the launch record names the queue, the logical workgroup, and its
earlier pushes to the queue (R280, R281). -/
structure DetPush where
  named  : Bool
  log    : Nat
  before : Nat
  deriving DecidableEq, Repr

/-- Requests of a peer device over the orbit links (R173, R279, R404): LR and SC come with the number by which the peer tells
its threads apart. -/
inductive PeerReq
  | read (off n : Nat) | write (off : Nat) (data : List Byte) | atomic (off : Nat) (op : AtomOp) (b c : Word)
  | red (off : Nat) (op : RedOp) (b : Word) | lr (off thread : Nat) | sc (off thread : Nat) (b : Word)
  | push (off : Nat) (value : Word) (det : Option DetPush) | pop (off : Nat)
  deriving DecidableEq, Repr

/-- Where an error is detected (R375). -/
inductive McPlace
  /-- A unit's own state, which names no item. -/
  | control
  /-- A thread's own instruction: a register or operand-bus parity, or a residue of its FDOT4 (R85). -/
  | thread (t : ThreadRef)
  /-- An asynchronous operation: its datapath, or its storage (`store`, R346). -/
  | op (id : Nat) (store : Bool)
  /-- The lanes of one field access whose sums passed through the datapath that failed (R84, R245). -/
  | lanes (reqs : List Nat)
  /-- A 128-byte line of an L1, FFU cache, L2, DRAM channel or regolith read path, by physical address. -/
  | line (pa : Nat)
  | near (core off : Nat)
  | slot (core i : Nat)
  | book (core i line : Nat)
  /-- A word of a tile whose parity has become wrong: the reading operation finds it (R59). -/
  | acc (wg tile cell : Nat)
  /-- The thermal trip (R414). -/
  | trip
  deriving DecidableEq, Repr

/-- How an error is detected, with what its SYNDROME holds (R384, R388): STAGE, INDEX, EXPECTED and OBSERVED, or the
code's syndrome. -/
inductive McKind
  | ecc (code : Word) | parity (stage index : Byte) | residue (stage index : Byte) (expected observed : BitVec 2) | protocol
  deriving DecidableEq, Repr

/-- A detected error: where, how, and whether the hardware could correct it. The record, the class and what fails follow
from these (R374, R375, R387). -/
structure McEvent where
  place       : McPlace
  kind        : McKind
  correctable : Bool
  deriving DecidableEq, Repr

/-- What patrol scrub reads (R413): a DRAM sector or an L2 line by physical address, a near word by its key. -/
inductive ScrubPlace | dram | l2 | near
  deriving DecidableEq, Repr
/-- What patrol scrub finds in a sector or word (R413). -/
inductive ScrubFound | clean | correctable | uncorrectable
  deriving DecidableEq, Repr

/-- The rows of the opcode table. -/
inductive Instr where
  -- System, major 0x00
  /-- R148. -/
  | nop
  /-- R40, R148. -/
  | exit
  /-- R271. -/
  | trap (code : BitVec 7)
  /-- R270. -/
  | eret
  /-- R272. -/
  | srd (vd : VReg) (sr : BitVec 7)
  /-- R272. -/
  | swr (sr : BitVec 7) (va : VReg)
  /-- R271. -/
  | brk (code : BitVec 7)
  /-- R232, R233. -/
  | ppt (sk : SReg)
  /-- R274. -/
  | dsav (va : VReg)
  /-- R275. -/
  | drst (va : VReg)
  -- Integer register operations, major 0x01 (R132)
  /-- R132. -/
  | add (vd va vb : VReg)
  /-- R132. -/
  | sub (vd va vb : VReg)
  /-- R132. -/
  | mul (vd va vb : VReg)
  /-- R132. -/
  | mulh (vd va vb : VReg)
  /-- R132. -/
  | mulhu (vd va vb : VReg)
  /-- R132. -/
  | and (vd va vb : VReg)
  /-- R132. -/
  | or (vd va vb : VReg)
  /-- R132. -/
  | xor (vd va vb : VReg)
  /-- R132. -/
  | shl (vd va vb : VReg)
  /-- R132. -/
  | shr (vd va vb : VReg)
  /-- R132. -/
  | sar (vd va vb : VReg)
  /-- R132. -/
  | rol (vd va vb : VReg)
  /-- R132. -/
  | min (vd va vb : VReg)
  /-- R132. -/
  | max (vd va vb : VReg)
  /-- R132. -/
  | minu (vd va vb : VReg)
  /-- R132. -/
  | maxu (vd va vb : VReg)
  /-- R132. -/
  | div (vd va vb : VReg)
  /-- R132. -/
  | divu (vd va vb : VReg)
  /-- R132. -/
  | rem (vd va vb : VReg)
  /-- R132. -/
  | remu (vd va vb : VReg)
  /-- R132. -/
  | adds (vd va vb : VReg)
  /-- R132. -/
  | subs (vd va vb : VReg)
  /-- R132. -/
  | popc (vd va : VReg)
  /-- R132. -/
  | clz (vd va : VReg)
  /-- R132. -/
  | brev (vd va : VReg)
  /-- R132. -/
  | add64 (vd va vb : VReg)
  /-- R132. -/
  | sub64 (vd va vb : VReg)
  -- Uniform operations, major 0x1F (R133); operand fields as R93 reads them
  /-- R133. -/
  | uadd (ud ua ub : UReg)
  /-- R133. -/
  | usub (ud ua ub : UReg)
  /-- R133. -/
  | umul (ud ua ub : UReg)
  /-- R133. -/
  | umulh (ud ua ub : UReg)
  /-- R133. -/
  | umulhu (ud ua ub : UReg)
  /-- R133. -/
  | uand (ud ua ub : UReg)
  /-- R133. -/
  | uor (ud ua ub : UReg)
  /-- R133. -/
  | uxor (ud ua ub : UReg)
  /-- R133. -/
  | ushl (ud ua ub : UReg)
  /-- R133. -/
  | ushr (ud ua ub : UReg)
  /-- R133. -/
  | usar (ud ua ub : UReg)
  /-- R133. -/
  | urol (ud ua ub : UReg)
  /-- R133. -/
  | umin (ud ua ub : UReg)
  /-- R133. -/
  | umax (ud ua ub : UReg)
  /-- R133. -/
  | uminu (ud ua ub : UReg)
  /-- R133. -/
  | umaxu (ud ua ub : UReg)
  /-- R133. -/
  | udiv (ud ua ub : UReg)
  /-- R133. -/
  | udivu (ud ua ub : UReg)
  /-- R133. -/
  | urem (ud ua ub : UReg)
  /-- R133. -/
  | uremu (ud ua ub : UReg)
  /-- R133. -/
  | uadds (ud ua ub : UReg)
  /-- R133. -/
  | usubs (ud ua ub : UReg)
  /-- R133. -/
  | upopc (ud ua : UReg)
  /-- R133. -/
  | uclz (ud ua : UReg)
  /-- R133. -/
  | ubrev (ud ua : UReg)
  /-- R133. -/
  | uadd64 (ud ua ub : UReg)
  /-- R133. -/
  | usub64 (ud ua ub : UReg)
  -- Immediate forms, majors 0x02 to 0x08
  /-- R134. -/
  | addi (vd va : VReg) (imm : BitVec 12)
  /-- R134. -/
  | andi (vd va : VReg) (imm : BitVec 12)
  /-- R134. -/
  | ori (vd va : VReg) (imm : BitVec 12)
  /-- R134. -/
  | xori (vd va : VReg) (imm : BitVec 12)
  /-- R134. -/
  | shli (vd va : VReg) (cnt : BitVec 5)
  /-- R134. -/
  | shri (vd va : VReg) (cnt : BitVec 5)
  /-- R134. -/
  | sari (vd va : VReg) (cnt : BitVec 5)
  /-- R134. -/
  | roli (vd va : VReg) (cnt : BitVec 5)
  /-- R134. -/
  | lui (vd : VReg) (imm : BitVec 19)
  /-- R135. -/
  | bfx (vd va : VReg) (sign : Bool) (lenM1 pos : BitVec 5)
  /-- R135. -/
  | bfi (vd va : VReg) (lenM1 pos : BitVec 5)
  -- Compare, select (R136, R137)
  /-- R136. -/
  | icmp (pd : PReg) (cond : ICond) (va vb : VReg) (wide : Bool) (mode : Combine)
  /-- R136. -/
  | fcmp (pd : PReg) (cond : FCond) (va vb : VReg) (fmt : FWidth) (mode : Combine)
  /-- R137. -/
  | sel (vd va vb : VReg) (wide inv : Bool) (p : PReg)
  -- Scalar float, major 0x0C (R139)
  /-- R139. -/
  | fadd (vd va vb : VReg)
  /-- R139. -/
  | fsub (vd va vb : VReg)
  /-- R139. -/
  | fmul (vd va vb : VReg)
  /-- R139. -/
  | ffma (vd va vb : VReg)
  /-- R139. -/
  | fmin (vd va vb : VReg)
  /-- R139. -/
  | fmax (vd va vb : VReg)
  /-- R139. -/
  | fabs (vd va : VReg)
  /-- R139. -/
  | fneg (vd va : VReg)
  /-- R139. -/
  | fdiv (vd va vb : VReg)
  /-- R139. -/
  | fsqrt (vd va : VReg)
  /-- R139. -/
  | fsgnj (vd va vb : VReg)
  -- Special functions, major 0x0D (R140)
  /-- R140. -/
  | frcp (vd va : VReg)
  /-- R140. -/
  | frsq (vd va : VReg)
  /-- R140. -/
  | fexp2 (vd va : VReg)
  /-- R140. -/
  | flog2 (vd va : VReg)
  /-- R140. -/
  | fsin (vd va : VReg)
  /-- R140. -/
  | fcos (vd va : VReg)
  /-- R140. -/
  | ftanh (vd va : VReg)
  /-- R140. -/
  | fsigm (vd va : VReg)
  -- Conversion, major 0x0E (R141); formats as R42 codes them
  /-- R141. -/
  | fcvt (vd va : VReg) (dfmt sfmt : Fmt)
  -- Packed and dot operations, major 0x0F (R142-R144)
  /-- R142. -/
  | pkadd (vd va vb : VReg)
  /-- R142. -/
  | pkmul (vd va vb : VReg)
  /-- R142. -/
  | pkfma (vd va vb : VReg)
  /-- R142. -/
  | pkmin (vd va vb : VReg)
  /-- R142. -/
  | pkmax (vd va vb : VReg)
  /-- R142. -/
  | pksub (vd va vb : VReg)
  /-- R142. -/
  | pkaddBf16 (vd va vb : VReg)
  /-- R142. -/
  | pkmulBf16 (vd va vb : VReg)
  /-- R142. -/
  | pkfmaBf16 (vd va vb : VReg)
  /-- R142. -/
  | pkminBf16 (vd va vb : VReg)
  /-- R142. -/
  | pkmaxBf16 (vd va vb : VReg)
  /-- R142. -/
  | pksubBf16 (vd va vb : VReg)
  /-- R143. -/
  | fdot4E4m3 (vd va vb : VReg)
  /-- R143. -/
  | fdot4E5m2 (vd va vb : VReg)
  /-- R144. -/
  | idp4Ss (vd va vb : VReg)
  /-- R144. -/
  | idp4Su (vd va vb : VReg)
  /-- R144. -/
  | idp4Us (vd va vb : VReg)
  /-- R144. -/
  | idp4Uu (vd va vb : VReg)
  -- Branches, calls, returns (R145-R147)
  /-- R145. -/
  | bra (ps : PReg) (neg : Bool) (kind : BraKind) (off : BitVec 20)
  /-- R146. -/
  | call (ps : PReg) (neg : Bool) (off : BitVec 20)
  /-- R147. -/
  | jr (va : VReg)
  /-- R147. -/
  | callr (va : VReg)
  /-- R147. -/
  | ret
  -- Predicate logic, major 0x13 (R138)
  /-- R138. -/
  | pand (pd pa pb : PReg)
  /-- R138. -/
  | por (pd pa pb : PReg)
  /-- R138. -/
  | pxor (pd pa pb : PReg)
  /-- R138. -/
  | pandn (pd pa pb : PReg)
  /-- R138. -/
  | pnot (pd pa : PReg)
  /-- R138. -/
  | pmov (pd pa : PReg)
  /-- R138. -/
  | pset (pd : PReg)
  /-- R138. -/
  | pclr (pd : PReg)
  -- Loads and stores (R160)
  /-- R160. -/
  | ld (vd vo : VReg) (sb : SPair) (sz : LdSize) (imm : BitVec 4)
  /-- R160. -/
  | st (vd vo : VReg) (sb : SPair) (sz : StSize) (imm : BitVec 4)
  /-- R160. -/
  | ldn (vd vo : VReg) (sz : LdSize) (imm : BitVec 4)
  /-- R160. -/
  | stn (vd vo : VReg) (sz : StSize) (imm : BitVec 4)
  -- Full/empty operations, major 0x18 (R165)
  /-- R165. -/
  | ldnf (vd va : VReg)
  /-- R165. -/
  | ldnw (vd va : VReg)
  /-- R165. -/
  | stne (va vb : VReg)
  /-- R165. -/
  | stnf (va vb : VReg)
  /-- R165. -/
  | fesetE (va : VReg)
  /-- R165. -/
  | fesetF (va : VReg)
  /-- R165. -/
  | feq (vd va : VReg)
  -- Atomics (R171, R172)
  /-- R171. -/
  | atom (vd va vb : VReg) (sp : Space) (op : AtomOp)
  /-- R171. -/
  | red (va vb : VReg) (sp : Space) (op : RedOp)
  /-- R172. -/
  | lr (vd va : VReg) (sp : Space)
  /-- R172. -/
  | sc (vd va vb : VReg) (sp : Space)
  -- Fences, barriers, WAIT (R175, R177, R180, R182)
  /-- R175. -/
  | fence (kind : FenceKind) (scope : Scope)
  /-- R175. -/
  | fencePath
  /-- R177. -/
  | bar (n : BitVec 2)
  /-- R180. -/
  | tbar (pd : PReg) (k : BitVec 2)
  /-- R182. -/
  | wait (nld nst : BitVec 6) (ncp ntl : BitVec 4)
  -- Row operations, major 0x1E (R190-R194); sm names the mask pair
  /-- R190. -/
  | voteEvery (vd : VReg) (sm : SPair) (pp : PReg)
  /-- R190. -/
  | voteSome (vd : VReg) (sm : SPair) (pp : PReg)
  /-- R190. -/
  | voteMask (vd : VReg) (sm : SPair) (pp : PReg)
  /-- R190. -/
  | voteCount (vd : VReg) (sm : SPair) (pp : PReg)
  /-- R191. -/
  | shflAt (vd va : VReg) (sm : SPair)
  /-- R191. -/
  | shflRot (vd va : VReg) (sm : SPair)
  /-- R191. -/
  | shflRev (vd va : VReg) (sm : SPair)
  /-- R191. -/
  | shflSwap (vd va : VReg) (sm : SPair)
  /-- R192. -/
  | matchSame (vd va : VReg) (sm : SPair)
  /-- R192. -/
  | matchUnif (vd va : VReg) (sm : SPair)
  /-- R193. -/
  | confd (vd va : VReg) (sm : SPair)
  /-- R194. -/
  | cmpk (vd : VReg) (sm : SPair) (pp : PReg)
  /-- R192. -/
  | matchLead (vd va : VReg) (sm : SPair)
  -- Asynchronous copy (R199-R208)
  /-- R199. -/
  | cpy (hd : HReg) (tag : Tag) (sp : SPair) (va : VReg) (dir : CpyDir) (sz : VecSize)
  /-- R206. -/
  | cpym (hd : HReg) (tag : Tag) (sp : SPair) (va : VReg) (near : Bool)
  /-- R203. -/
  | cpyq (hd : HReg) (tag : Tag) (sp : SPair) (va : VReg) (idx8 : Bool) (table : BitVec 2)
  /-- R202. -/
  | cbook (hd : HReg) (tag : Tag) (sp : SPair) (vec : VecSize) (table : BitVec 2)
  -- Tags and batches, major 0x24 (R209)
  /-- R209. -/
  | bseal
  /-- R209. -/
  | twany (va : VReg)
  /-- R209. -/
  | twall (va : VReg)
  /-- R209. -/
  | tffr (vd va : VReg)
  /-- R209. -/
  | tclr (va : VReg)
  -- Handles, major 0x25 (R211)
  /-- R211. -/
  | htest (vd : VReg) (hs : HReg)
  /-- R211, R212. -/
  | hcan (hs : HReg)
  /-- R211. -/
  | hstat (vd : VReg) (hs : HReg)
  /-- R211. -/
  | hmov (hs hd : HReg)
  -- Matrix and matrix-vector (R213-R230)
  /-- R213. -/
  | oclm (mask : BitVec 8)
  /-- R214. -/
  | orel (mask : BitVec 8)
  /-- R215. -/
  | old (hd : HReg) (tag : Tag) (sp : SPair) (va : VReg) (slot : BitVec 3)
  /-- R218, R219. -/
  | mma (hd : HReg) (tag : Tag) (sp : SPair) (va : VReg) (ov : Bool)
  /-- R218, R220. -/
  | mmas (hd : HReg) (tag : Tag) (sp : SPair) (va : VReg) (ov : Bool) (n : SparseN)
  /-- R223. -/
  | mv (hd : HReg) (tag : Tag) (sp : SPair) (va : VReg) (tile : Bool) (mode : MvMode)
  /-- R217. -/
  | accld (hd : HReg) (tag : Tag) (sp : SPair) (va : VReg)
  /-- R217. -/
  | accst (hd : HReg) (tag : Tag) (sp : SPair) (va : VReg)
  /-- R217. -/
  | acz (hd : HReg) (tag : Tag) (sp : SPair) (va : VReg)
  /-- R227. -/
  | scacc (hd : HReg) (tag : Tag) (va : VReg) (code : Bool)
  /-- R222. -/
  | oprdy
  /-- R228, R229. -/
  | nprune (hd : HReg) (tag : Tag) (va : VReg) (n : SparseN)
  /-- R228, R230. -/
  | cmpkSparse (hd : HReg) (tag : Tag) (va : VReg)
  -- Field access (R238-R246)
  /-- R238. -/
  | fbind (fs : FSlot) (sp : SPair) (va : VReg)
  /-- R238. -/
  | fbindNear (fs : FSlot) (va : VReg)
  /-- R244. -/
  | fld (vd va : VReg) (fs : FSlot)
  /-- R244. -/
  | fldg (vd va : VReg) (fs : FSlot)
  /-- R246. -/
  | fspl (vd va : VReg) (fs : FSlot)
  -- Choreography (R253-R264)
  /-- R257. -/
  | chor (k : BitVec 2) (pair : SPair)
  /-- R262. -/
  | cend
  /-- R263, R264. -/
  | hand (ch snd rcv : BitVec 4) (pk : Payload) (va : VReg)
  /-- R260. -/
  | cloop (cnt : BitVec 11) (back : BitVec 14)
  /-- R260. -/
  | cloopReg (sk : SReg) (back : BitVec 14)
  /-- R258. -/
  | epset (role eidx : BitVec 4) (va : VReg)
  -- Launch, queues, random, collectives, digest (R277-R286)
  /-- R277. -/
  | launch (hd : HReg) (tag : Tag) (sp : SPair) (va : VReg) (near : Bool)
  /-- R278. -/
  | gcinc (vd va : VReg)
  /-- R280. -/
  | qpush (vd va : VReg) (pair : SPair)
  /-- R280. -/
  | qpop (vd : VReg) (pair : SPair)
  /-- R285. -/
  | rnd (vd : VReg)
  /-- R286. -/
  | ared (hd : HReg) (tag : Tag) (va : VReg)
  /-- R286. -/
  | agath (hd : HReg) (tag : Tag) (va : VReg)
  /-- R286. -/
  | bcast (hd : HReg) (tag : Tag) (va : VReg)
  /-- R284. -/
  | dgstRead (vd : VReg)
  /-- R284. -/
  | dgstFold (va : VReg)
  -- CUE (R253) and the hints (R99-R103)
  /-- R253. -/
  | cue (rmask : BitVec 16) (len : BitVec 10)
  /-- R100. -/
  | imm (payload : BitVec 20)
  /-- R101. -/
  | pred (p : PReg) (neg : Bool)
  /-- R102. -/
  | ipf (cntM1 : BitVec 4) (off : BitVec 18)
  /-- R102. -/
  | sched (yield : Bool) (holdoff : BitVec 4)
  /-- R62. -/
  | rmode (mode : BitVec 2)
  -- Events of the other agents (the table's rows without an encoding; spec/95)
  /-- R151: the unit whose turn it is. -/
  | issueGroupFormation (u : IssueUnit)
  /-- R102. -/
  | schedHoldoffExpiry (t : ThreadRef)
  /-- R311: the physical line filled. -/
  | instructionCacheFill (cluster line : Nat)
  /-- R161, R162; evict: the core's clean copy of the line was evicted first (R291). -/
  | loadReturn (req : Nat) (evict : Bool)
  /-- R161; drain: a near store's bytes also left the slice's merge buffer. -/
  | storePerformed (req : Nat) (drain : Bool)
  /-- R165, R167. -/
  | fullEmptyPerform (req : Nat)
  /-- R170, R317. -/
  | homeRequestServe (req : Nat)
  /-- R171, R318. -/
  | atomicReply (req : Nat)
  /-- R280, R319. -/
  | queuePushServe (req : Nat)
  /-- R280, R319. -/
  | queuePopServe (req : Nat)
  /-- R278. -/
  | gcincRequest (req : Nat)
  /-- R293: core dst performs its release for core src. -/
  | promotionRequest (src dst : Nat)
  /-- R291, R308: the line recalled for the core named, or evicted by its owner, if that is the core named. -/
  | lineRecall (line core : Nat)
  /-- R197, R199, R203. -/
  | copyItemCompletion (op : Nat)
  /-- R202. -/
  | codebookLoadCompletion (op : Nat)
  /-- R207: the next line for the member. -/
  | cpymLineDelivery (op member : Nat)
  /-- R207. -/
  | cpymCompletion (op : Nat)
  /-- R215. -/
  | slotFillCompletion (op : Nat)
  /-- R217, R219, R220, R227, R229. -/
  | matrixOperationCompletion (op : Nat)
  /-- R230. -/
  | cmpkSparseCountPass (op : Nat)
  /-- R224, R337. -/
  | mvDispatch (op : Nat)
  /-- R334. -/
  | flushForBank (op : Nat)
  /-- R331, R332. -/
  | mvJob (op unit : Nat)
  /-- R331. -/
  | mvRowResult (op row : Nat)
  /-- R225, R347. -/
  | mvCompletion (op : Nat)
  /-- R244, R245. -/
  | fieldLoadReturn (req : Nat)
  /-- R246. -/
  | splatRequestApply (req : Nat)
  /-- R248, R251. -/
  | splatLogAppend (req : Nat)
  /-- R286. -/
  | collectiveCompletion (launch team idx : Nat)
  /-- R277, R352. -/
  | launchPacketAppend (op : Nat)
  /-- R40. -/
  | exitCompletion (t : ThreadRef)
  /-- R233, R369. -/
  | preemptionTrap (wg : Nat)
  /-- R368. -/
  | preemptionTermination (wg : Nat)
  /-- R367. -/
  | firmwarePreemption (wg : Nat)
  /-- R370, R276, R390. -/
  | workgroupRestore (wg : Nat) (pl : Placement)
  /-- R353. -/
  | packetRead (queue : Nat)
  /-- R359, R419. -/
  | launchAdmission (queue : Nat)
  /-- R361, R363; pl: the place policy picks. -/
  | queueVisit (queue : Nat) (pl : Placement)
  /-- R360. -/
  | launchCompletion (launch : Nat)
  /-- R393, R394; broke: the unit of the core that fails, by TYPE and, for a quarter, its number; none if all pass. -/
  | selfTest (queue : Nat) (core : Nat) (broke : Option (Nat × Nat))
  /-- R324, R326: page is VA / 4096. -/
  | translationWalk (part : Nat) (page : Nat)
  /-- R325. -/
  | invalidationComplete (part : Nat)
  /-- R352. -/
  | lqNotify (part : Nat) (value : Word)
  /-- R367, R370. -/
  | preReqPreempt (part : Nat) (value : DWord)
  /-- R370, R391. -/
  | preReqHoldOnly (part : Nat) (value : DWord)
  /-- R391. -/
  | launchAbort (part : Nat) (value : Word)
  /-- R347. -/
  | mvcCtlClr (part : Nat) (value : Word)
  /-- R325. -/
  | xltInvPage (part : Nat) (value : Word)
  /-- R325. -/
  | xltInvRange (part : Nat) (value : Word)
  /-- R325. -/
  | xltInvPartition (part : Nat) (value : Word)
  /-- R327. -/
  | fqRespReplay (part index : Nat)
  /-- R327. -/
  | fqRespDecline (part index : Nat)
  /-- R385. -/
  | mcAck (type inst : Nat) (seq : Word)
  /-- R403. -/
  | irqStatusClear (fn : PcieFn) (value : Word)
  /-- R403. -/
  | irqMaskWrite (fn : PcieFn) (value : Word)
  /-- R408. -/
  | bootCtlLoad (value : Word)
  /-- R411. -/
  | partSet
  /-- R411, R412. -/
  | policySet
  /-- R409. -/
  | attest
  /-- R409. -/
  | cert
  /-- R415. -/
  | retireAck
  /-- R411. -/
  | fuseSvn
  /-- R411. -/
  | telemetry
  /-- R6, R329, R372. -/
  | registerWrite (fn : PcieFn) (offset width : Nat) (value : DWord)
  /-- R300, R399. -/
  | hostWrite (fn : PcieFn) (offset : Nat) (data : List Byte)
  /-- R300, R399. -/
  | hostRead (fn : PcieFn) (bar offset n : Nat)
  /-- R301, R401. -/
  | hostAtomicop (fn : PcieFn) (bar offset size : Nat) (kind : HostAtom) (value cmp : Word)
  /-- R404. -/
  | peerRequest (dev : Nat) (what : PeerReq)
  /-- R406. -/
  | flitReplay (link : Nat)
  /-- R406. -/
  | linkDown (link : Nat)
  /-- R374, R375, R384, R385. -/
  | machineCheckEvent (type inst : Nat) (ev : McEvent)
  /-- R377. -/
  | coreControlError (core : Nat)
  /-- R379. -/
  | fatalStop (type inst : Nat) (ev : McEvent)
  /-- R380-R382. -/
  | inventoryWrite (ok : Bool)
  /-- R413. -/
  | patrolScrub (place : ScrubPlace) (addr : Nat) (found : ScrubFound)
  /-- R343, R344; bank: DRAM bank, (quadrant x 512 + unit) x 4 + PA[8:7] (R313). -/
  | activationAlert (bank row : Nat)
  /-- R344. -/
  | alertRefreshDone (bank row : Nat)
  /-- R403, R414. -/
  | throttleCrossing (quadrant level : Nat)
  /-- R415, R416. -/
  | frameRetirement (frame cause : Nat)
  /-- R418. -/
  | pcieReset
  /-- R343. -/
  | dramRefresh (bank row : Nat)
  /-- R418. -/
  | powerDown
  deriving DecidableEq, Repr

end Sys2Proof
end

