-- ==== Sys2Proof/Config.lean ====
section
/-! DEFINITION. What the spec leaves open (free values, which nothing in Lean can evaluate) and what belongs to one
package: keys, certificates and fuses. -/
namespace Sys2Proof.Config

/-- A fresh undefined word (R4), by the counter of free values (log entry 1). -/
opaque freeWord : Nat → Word
/-- A fresh undefined byte, by epoch and index (log entry 1). -/
opaque freeByte : Nat → Nat → Byte
/-- The data bits of a fresh undefined accumulator word, by epoch and index (log entry 1). -/
opaque freeAcc : Nat → Nat → BitVec 35
/-- Whether a firmware image passes the checks 1 and 2 of R408 (SHA-256, RSASSA-PSS) under the fused key hash (log entry 10). -/
opaque imageVerified : List Byte → Bool
/-- The image in the package flash (R408, log entry 10). -/
opaque flashImage : List Byte
/-- The fused security version at manufacture (R408, log entry 10). -/
opaque fusedVersion : Word
/-- SHA-256 of a byte string, as the report of R409 holds it (log entry 10). -/
opaque sha256 : List Byte → List Byte
/-- The byte form of the policy block in force, of the image and the policies' values, and of the partition configuration,
of each partition's resources, that R409 hashes; the spec gives neither form (log entry 10). -/
opaque policyForm : List Byte → List Nat → List Byte
opaque partitionForm : List (List Nat) → List Byte
/-- RSASSA-PSS with the identity key (R409, log entry 10). -/
opaque identitySign : List Byte → List Byte
/-- The identity certificate (R409, log entry 10). -/
opaque certificate : List Byte
/-- The serial number (R409, log entry 10). -/
opaque serial : List Byte
/-- The retirement list of the package flash: frames (R415, log entry 10). -/
opaque flashRetired : List Nat
/-- Sensors of the telemetry snapshot (R411, log entry 10), by snapshot number and byte. -/
opaque sensor : Nat → Nat → Byte
/-- Cores that fail self-test at bring-up (R418, log entry 10). -/
opaque bootFails : Nat → Bool
/-- The domain number, 0 to 63, that firmware gives at bring-up (R404, log entry 10). -/
opaque orbitDevice : BitVec 6
/-- Frames exported to each peer device at bring-up (R404, log entry 10). -/
opaque bootExports : List (Nat × List (Nat × Nat))

/-- Whether an orbit link trains at bring-up (R404, R418, log entry 10). -/
opaque linkTrains : Nat → Bool
/-- The fused current limit of a compute die, in mA (R412, log entry 10). -/
opaque fusedCurrent : Nat → Nat
/-- Which 64 KiB of quadrant 0 the retirement list takes, and from which 4 KiB on the firmware log, as firmware chooses at
boot (R416, R417, log entry 10). -/
opaque retireList : Nat
opaque fwlogRegion : Nat

/-- The routes to a peer device as firmware builds them at bring-up, each a list of links (R404, R405, log entry 10). -/
opaque routes : Nat → List (List Nat)
/-- Whether a peer device exports a frame of its memory to this device (R402, R404, log entry 10). -/
opaque peerExports : Nat → Nat → Bool

end Sys2Proof.Config
end

