-- ==== Sys2Proof/Machine/State.lean ====
section
/-! DEFINITION. The state of the device, as plain data: what the spec names (INVENTORY.md lists it with its
rules), the requests and operations in flight, and the few fields of the model itself, which say so. Tables
are lists of pairs with rising keys that leave out every entry equal to the table's default (Tables.lean). -/
namespace Sys2Proof.Machine

/-- A table: key and value, keys rising. -/
abbrev Tbl (α : Type) := List (Nat × α)
/-- Bytes by address, in the canonical form of Tables.lean; an unlisted byte reads zero (log entry 2). -/
abbrev Memory := List Host.Cell

/-- Why the machine stops. -/
inductive Fault
  /-- Raised by the events that read or fill a launch ring (PACKET_READ, LAUNCH_PACKET_APPEND) when LQ_BASE.RING names
  no byte of device memory, whose effect the spec does not give (R312, R351). Safe: the hardware may go on. -/
  | absentRing
  deriving DecidableEq, Repr

/-- Why the machine refuses an instruction. -/
inductive Refusal
  /-- Raised by an arm of `exec` whose instruction has no meaning yet. Safe. -/
  | notModelled (mnemonic : String)
  deriving DecidableEq, Repr

/-! Threads -/

/-- A handle register (R15). -/
inductive Handle | empty | pending (op : Nat) | done (status : Byte)
  deriving DecidableEq, Repr

/-- The hint run in progress: its first word and the hints met (R99-R104). -/
structure HintRun where
  first : Pc
  imm   : Option (BitVec 20)
  pred  : Option (PReg × Bool)
  ipf   : Bool
  sched : Option (Bool × BitVec 4)
  rmode : Option (BitVec 2)
  deriving DecidableEq, Repr

/-- A loop-stack entry: CLOOP address and executions remaining (R260). -/
structure LoopEntry where
  pc        : Pc
  remaining : Nat
  deriving DecidableEq, Repr

/-- A register-writing read that no WAIT has covered (R38, R162): its number in issue order, its destination, the
bytes once they have arrived, and the destination registers that the thread wrote meanwhile. -/
structure LoadRec where
  seq   : Nat
  dest  : Nat
  count : Nat
  value : Option (List Word)
  dirty : List Nat
  /-- What the destination held before the load issued. -/
  old   : List Word
  /-- Registers v0 to v3 that a trap's frame has taken with their loaded value: the load is over for them (R183, R269). -/
  gone  : List Nat
  /-- The poisoned reply of R376: the address of the word. -/
  poison : Option DWord
  deriving DecidableEq, Repr

/-- What a thread waits for (R149). `again i`: the word i is executed again once it can go on; the others are ended by
the event or the other thread named. -/
inductive Stall
  | none
  | again (i : Instr)
  /-- A full/empty operation, a queue operation or a collective DSAV write in flight (R166, R280). -/
  | request (req : Nat)
  /-- Arrived at a barrier (R177). -/
  | barrier (n : BitVec 2)
  /-- Arrived at a team barrier (R180). -/
  | team (k : BitVec 2) (pd : PReg)
  /-- Waits at a row operation, with the mask it read (R184, R185). -/
  | row (i : Instr) (mask : BitVec 64)
  /-- Queued at OCLM (R213). -/
  | claim (mask : BitVec 8)
  /-- Arrived at CLOOP, CEND or HAND of a choreography stream (R260, R262, R263). -/
  | control (i : Instr)
  /-- EXIT executed; the thread's operations have not all completed (R40). -/
  | exiting
  /-- A translation is needed: the walk of this page goes on (R324). kind as R326; cyc is the core's cycle of the issue,
  which tells the issues of one word apart. -/
  | walk (page : Nat) (kind : Nat) (va : DWord) (cyc : DWord)
  /-- Stopped at a failed walk that the driver has not answered (R326): the index of its record, once it has one. -/
  | fault (index : Option Nat) (kind : Nat) (va : DWord) (walkInfo : Byte) (cyc : DWord)
  /-- Stopped at a PPT while a pre-emption request is pending (R233). -/
  | point
  /-- The fetch misses (R149, R311). -/
  | fetch
  deriving DecidableEq, Repr

/-- Where a thread stands in its quarter's grouping table (R150): out of it, on its lane's wait list, or in an entry. -/
inductive Grouping | out | waiting | listed
  deriving DecidableEq, Repr

/-- A thread (R10-R18, R39). -/
structure Thread where
  ref      : ThreadRef
  /-- v registers; unlisted is zero (R12). -/
  v        : Tbl Word
  /-- p1 to p7 in bits 1 to 7 (R14). -/
  p        : BitVec 8
  /-- h registers; unlisted is EMPTY (R15). -/
  h        : Tbl Handle
  fpflags  : Word
  draw     : Word
  pc       : Pc
  /-- Hardware return entries, newest first: address bits [33:2] (R17, R146). -/
  ret      : List Word
  depth    : Nat
  /-- The open batch (R37) and the batches that hold operations: number and incomplete operations, newest first. -/
  batch    : BitVec 16
  batches  : List (BitVec 16 × Nat)
  /-- Loads, stores and tile operations issued so far, and the numbers of those outstanding (R38). -/
  nld      : Nat
  nst      : Nat
  ntl      : Nat
  outLd    : List Nat
  outSt    : List Nat
  outTl    : List Nat
  loads    : List LoadRec
  /-- Asynchronous operations of the thread not complete (R40). -/
  ops      : List Nat
  /-- %role (R22). -/
  role     : Word
  chorDep  : Nat
  chorRes  : Pc
  /-- The first and the last word of the run being executed, or 0 (R252, R273). -/
  runLo    : Pc
  runHi    : Pc
  loops    : List LoopEntry
  /-- Handler mode (R269), and the class the thread entered with. -/
  handler  : Bool
  hclass   : Byte
  hint     : Option HintRun
  grouping : Grouping
  /-- Issue steps left of a SCHED holdoff, and the yield (R102). -/
  holdoff  : Nat
  yield    : Bool
  /-- Nothing has been executed since the field access that the thread issued last (R84, R245). -/
  fresh    : Bool
  stall    : Stall
  /-- The core's cycle at which the thread became ready (R150). -/
  since    : Nat
  /-- Barriers at which the thread has arrived (R273). -/
  bars     : BitVec 4
  /-- Barriers that completed while the thread, restored as arrived, had not come back to its BAR (R275). -/
  rebars   : BitVec 4
  /-- Why the instance of the thread's stream was aborted, until the thread takes the fault: role and cause (R266). -/
  orphan   : Option (Nat × Nat)
  exited   : Bool
  /-- The thread has made its save exit; it stays live until its workgroup is saved (R370). -/
  saved    : Bool
  deriving DecidableEq, Repr

/-! Workgroups -/

/-- A field slot (R237): the descriptor's bytes and where it was read. -/
structure Field where
  desc   : List Byte
  near   : Bool
  origin : DWord
  deriving DecidableEq, Repr

/-- One accumulator tile: words with their parity bit by row x 64 + column; the unlisted are undefined, with the
epoch that names their free values (R33, R55). -/
structure Tile where
  epoch : Nat
  cells : Tbl (BitVec 36)
  deriving DecidableEq, Repr

/-- A pending pre-emption of a workgroup (R233, R367). -/
structure Preempt where
  since    : Nat
  byPolicy : Bool
  /-- Threads already entered the pre-emption trap. -/
  taken    : Bool
  live     : BitVec 24
  deriving DecidableEq, Repr

/-- A workgroup (R10, R19, R304, R363). -/
structure Workgroup where
  launch   : Nat
  log      : Nat
  width    : Nat
  depth    : Nat
  nregs    : Nat
  calls    : Nat
  near     : Nat
  tiles    : Nat
  core     : Nat
  quarter  : Nat
  lane     : Nat
  slot     : Nat
  /-- First byte of the allocation and its generation (R304, R305). -/
  base     : Nat
  gen      : BitVec 32
  /-- The epoch of the free values that its near bytes hold until they are stored to (R306). -/
  epoch    : Nat
  /-- s registers; unlisted is zero (R19). -/
  s        : Tbl Word
  teams    : List Word
  mflags   : Word
  acc      : List Tile
  fields   : Tbl Field
  phases   : BitVec 4
  /-- Pushes made to each deterministic queue DQ0 to DQ3 (R280). -/
  pushes   : Tbl Nat
  digest   : DWord
  preempt  : Option Preempt
  /-- Residency in core cycles before this placement, and the cycle of this placement (R362). -/
  ran      : Nat
  placed   : Nat
  /-- The j-th collective of each team register (R286). -/
  colls    : Tbl Nat
  /-- ROLE and LOOPS of the images that DRST has installed, by thread index (R275). -/
  images   : Tbl (List Byte)
  faulted  : Bool
  deriving DecidableEq, Repr

/-! Cores -/

/-- An operand slot's state (R32). -/
inductive SlotState | free | claimed (wg : Nat) | filling (wg op : Nat) | ready (wg : Nat)
  deriving DecidableEq, Repr

/-- An operand slot: state, bytes, and the epoch of the bytes that are undefined (R32, R214). -/
structure Slot where
  state : SlotState
  epoch : Nat
  bytes : Memory
  damaged : Bool
  deriving DecidableEq, Repr

/-- A codebook table: owner, vector size, origin and bytes (R202). -/
structure Codebook where
  owner  : Option Nat
  vec    : Nat
  origin : DWord
  loaded : Bool
  epoch  : Nat
  bytes  : Memory
  /-- Damaged 128-byte lines (R375). -/
  damaged : List Nat
  deriving DecidableEq, Repr

/-- A tag: pending count, and whether TCLR has cleared the bit of a count of zero (R35). -/
structure TagSt where
  count : Nat
  clear : Bool
  deriving DecidableEq, Repr

/-- A held translation: the first 4 KiB page, the leaf's PA and attributes, and its size in pages (R323). -/
structure TlbEntry where
  page : Nat
  leaf : DWord
  size : Nat
  deriving DecidableEq, Repr

/-- A cached pointer entry of a walk (R323): its partition, the level of the table that holds it, the part of the virtual
address that leads to it, and the table it names. -/
structure PtrEntry where
  part  : Nat
  level : Nat
  index : Nat
  table : Nat
  deriving DecidableEq, Repr

/-- One core (R35, R32, R202, R213, R291, R292, R305, R323). -/
structure CoreSt where
  cyc      : DWord
  tags     : Tbl TagSt
  slots    : Tbl Slot
  claims   : List (Nat × BitVec 8 × List ThreadRef)
  books    : Tbl Codebook
  gen      : BitVec 32
  /-- Clean copies in the L1: line address and its bytes as they were read (R291). -/
  clean    : Tbl (List Byte)
  /-- Lines whose release bit is set (R292). -/
  release  : List Nat
  promote  : BitVec 256
  /-- Lines in the FFU cache (R310). -/
  ffu      : Tbl (List Byte)
  /-- Return slots held, by quarter x 64 + lane (R318). -/
  returns  : Tbl Nat
  accepts  : Bool
  /-- The L1 TLB, newest entry first (R323). -/
  tlb      : List TlbEntry
  deriving DecidableEq, Repr

/-! Requests and operations in flight -/

/-- What a request does (R160-R172, R244-R246, R278-R280). -/
inductive ReqKind
  | load (sz : LdSize) | store
  | fullEmpty (fn : Nat) | atom (op : AtomOp) | red (op : RedOp) | lr | sc
  | push | pop | gcinc | field (grad : Bool) | splat | splatLog
  deriving DecidableEq, Repr

/-- A tap of a field access that reads or writes memory (R241-R246): its number, where its entry lies, and what a splat
adds there. -/
structure Tap where
  idx   : Nat
  near  : Bool
  addr  : Nat
  va    : DWord
  cp    : Nat
  /-- Its page is poisoned (R321). -/
  poison : Bool
  value : Word
  deriving DecidableEq, Repr

/-- A request of one thread that has issued and not been performed. `addr` is the near key (core x 2^19 + offset) when
`near`, else the physical address. -/
structure Req where
  kind   : ReqKind
  thread : ThreadRef
  core   : Nat
  near   : Bool
  addr   : Nat
  va     : DWord
  size   : Nat
  data   : List Byte
  dest   : Nat
  seq    : Nat
  /-- Made in handler mode: no digest (R269). -/
  quiet  : Bool
  /-- Cache policy and system-atomic attribute of its page (R309, R321). -/
  cp     : Nat
  sa     : Bool
  /-- Its page is poisoned (R321). -/
  poison : Bool
  /-- Parked at the word or queue, after arriving (R167, R280), or performed with its reply on the way (R318). -/
  parked : Bool
  served : Bool
  /-- The word that made it, and the first word of its hint run. -/
  pc     : Pc
  resume : Pc
  /-- Operands of field and splat requests: the slot's descriptor, the coordinates or operand words, and the taps. -/
  field  : Option Field
  args   : List Word
  taps   : List Tap
  deriving DecidableEq, Repr

/-- A rectangle of a slot (lines and bytes of a line) or tile (rows and columns) that an operation reads or writes (R221). -/
structure Rect where
  tile  : Bool
  index : Nat
  write : Bool
  row0  : Nat
  rows  : Nat
  col0  : Nat
  cols  : Nat
  deriving DecidableEq, Repr

/-- Who issued an asynchronous operation: threads, with the batch each joined, or an engine role (R196, R256). -/
inductive Issuer | threads (l : List (ThreadRef × BitVec 16)) | role (launch team role : Nat)
  deriving DecidableEq, Repr

/-- A named member of a CPYM (R206, R207): the workgroup, its core and its allocation's generation and epoch captured at
issue, the near key of its destination, the next line, and its status so far. -/
structure MemberSt where
  index  : Nat
  wg     : Nat
  gen    : BitVec 32
  epoch  : Nat
  dst    : Nat
  next   : Nat
  status : Byte
  deriving DecidableEq, Repr

/-- An asynchronous operation in flight (R196-R197). -/
structure Op where
  instr   : Instr
  wg      : Nat
  core    : Nat
  part    : Nat
  issuer  : Issuer
  hd      : Option (List (ThreadRef × HReg))
  tag     : Option Tag
  base    : DWord
  /-- The parameter block as captured, or the lane's operands (R196, R216); the x vectors of an MV, once read (R331). -/
  block   : List Byte
  args    : List Word
  x       : List Byte
  quiet   : Bool
  /-- Of a LAUNCH that its full queue delays: when it reached the queue, among the others; else 0 (R352). -/
  order   : Nat
  /-- Of a CPY item: what its issue and row have in common, (cycle of the core x 64 + row) + 1; else 0 (R200). -/
  group   : Nat
  rects   : List Rect
  /-- The conflicting words of R221. -/
  torn    : List Rect
  members : List MemberSt
  /-- Progress of an MV: 0 issued, 1 placed on the core, 2 placed on the bank, 3 flushed (R331). A CMPK.SPARSE is at 4
  while its count pass runs and at 5 once counted (R230). -/
  phase   : Nat
  pa      : Nat
  jobs    : List Nat
  /-- The source lines of a CPYM as they were read, once (R207); the row results of an MV (R331). -/
  rows    : Tbl (List (BitVec 35))
  /-- Of an MV's accumulators, row by row: NV of the products and segments alone, and NV with the tile's word (R221). -/
  nvs     : Tbl (List (Bool × Bool))
  outRows : List Nat
  reason  : Nat
  failed  : Nat
  flags   : BitVec 4
  /-- The page that W lies in is a poisoned page (R321). -/
  pagePoison : Bool
  canceled : Bool
  stseq   : List (ThreadRef × Nat)
  deriving DecidableEq, Repr

/-- Numbering of free values that a step uses (log entry 1). -/
abbrev FreeNo := Nat

/-! Launches and dispatch -/

/-- One member word of the group table (R357). -/
structure MemberWord where
  role  : Nat
  bound : Bool
  kind  : Nat
  unit  : Nat
  dev   : Nat
  index : Nat
  deriving DecidableEq, Repr

/-- A saved workgroup (R370): its number, what the workgroup keeps, its live threads at the save, and the codebook
tables it owned (R205). -/
structure SavedWg where
  id     : Nat
  wg     : Workgroup
  tids   : List Nat
  books  : Tbl Codebook
  deriving DecidableEq, Repr

/-- One record of the splat log (R248): the key, the request, and the generation of a near target's allocation. -/
structure SplatRec where
  wglog : Nat
  tid   : Nat
  tap   : Tap
  gen   : BitVec 32
  quiet : Bool
  deriving DecidableEq, Repr

/-- A live launch (R354, R355, R359). -/
structure Launch where
  part     : Nat
  queue    : Nat
  test     : Bool
  mask     : BitVec 256
  irq      : Bool
  args     : DWord
  record   : DWord
  entry    : Pc
  width    : Nat
  depth    : Nat
  nregs    : Nat
  acc      : Nat
  near     : Nat
  calls    : Nat
  progress : Nat
  det      : Nat
  tagMask  : DWord
  groups   : Nat
  /-- The group count at admission, from which a re-execution starts (R283). -/
  groups0  : Nat
  gmax     : Nat
  lc       : Nat
  seed     : DWord
  genid    : Word
  tframe   : DWord
  tvec     : DWord
  digestAt : DWord
  splatAt  : DWord
  splatCap : Nat
  saveAt   : DWord
  saveSz   : Nat
  dq       : List DWord
  teams    : Tbl (List MemberWord)
  /-- Physical cores of the logical indices at admission (R395). -/
  cores    : List Nat
  next     : Nat
  /-- Logical indices of the workgroups that have retired (R40). -/
  retired  : List Nat
  done     : Nat
  failed   : Nat
  cycles   : Nat
  hold     : Bool
  /-- LAUNCH_ABORT has named the launch (R391). -/
  aborted  : Bool
  saved    : List SavedWg
  digests  : Tbl DWord
  splats   : List SplatRec
  reexec   : Bool
  /-- Re-executing: one workgroup at a time in logical order (R283). -/
  serial   : Bool
  /-- PRE_REQ busy for this launch (R372). -/
  preBusy  : Bool
  /-- TEST results (R394). -/
  passed   : BitVec 256
  broke    : BitVec 256
  tested   : BitVec 256
  deriving DecidableEq, Repr

/-- A packet that a queue holds between PACKET_READ and admission (R353, R359). -/
structure Packet where
  bytes : List Byte
  /-- The previous launch of the queue, if still live (SERIAL, R359). -/
  after : Option Nat
  /-- What the one reading of the kernel descriptor and the record has given (R355, R359): a launch, or a refusal. -/
  read  : Option (Option Launch)
  /-- The dependences that have completed, from DEP0 on, and whether one of them with a status other than OK (R359). -/
  met   : Nat
  broke : Bool
  deriving DecidableEq, Repr

/-- A launch queue (R351, R372). -/
structure Queue where
  owner   : Option Nat
  ring    : BitVec 40
  en      : Bool
  dev     : Bool
  log2    : BitVec 4
  err     : Bool
  quantum : BitVec 16
  rd      : BitVec 16
  wr      : BitVec 16
  deficit : DWord
  packet  : Option Packet
  last    : Option Nat
  deriving DecidableEq, Repr

/-- A waiting record of the fault ring (R326, R327). -/
structure FaultWait where
  index   : Option Nat
  va      : DWord
  lanes   : DWord
  launch  : Word
  wglog   : Word
  core    : Byte
  quarter : Byte
  kind    : Nat
  walk    : Byte
  threads : List ThreadRef
  deriving DecidableEq, Repr

/-- The control page of a partition and its resources (R329, R347, R372, R392, R402, R403). -/
structure Partition where
  xltRoot  : DWord
  invVa    : DWord
  inv      : Word
  invBusy  : Bool
  /-- Translations that the invalidation in progress has removed, and the requests and operations that went through one
  (R325). -/
  invGone  : List TlbEntry
  invWaits : List Nat
  fqBase   : DWord
  fqHead   : BitVec 12
  /-- Parity of the ring lap (PHASE, R326). -/
  fqLap    : Bool
  fqTail   : BitVec 12
  fqOvf    : Bool
  fqEn     : Bool
  /-- MVC_BANK to MVC_PAUSE, in order of offset. -/
  mvc      : Tbl DWord
  slip     : DWord
  preTerm  : DWord
  mcCont   : DWord
  rstLaunch : Word
  rstReason : BitVec 7
  rstValid : Bool
  rstWg    : Word
  rstCnt   : DWord
  cap      : DWord
  irqStatus : BitVec 6
  irqMask  : BitVec 6
  aturCnt  : DWord
  aturLast : DWord
  reexec   : DWord
  linkDrop : DWord
  clusters : DWord
  frames   : List (Nat × Nat)
  hostBase : Nat
  hostLen  : Nat
  waits    : List FaultWait
  /-- The queue the next DRR visit starts from (R361). -/
  visit    : Nat
  /-- The concurrent launch that room is reserved for (R365). -/
  reserve  : Option Nat
  deriving DecidableEq, Repr

/-- A machine-check record (R384). -/
structure McRecord where
  seq      : Word
  cls      : BitVec 2
  source   : Byte
  akind    : Byte
  addr     : DWord
  syndrome : Word
  launch   : Word
  wglog    : Word
  cyc      : Word
  deriving DecidableEq, Repr

/-- A machine-check bank (R384, R385); the slots by SEQ mod 4. -/
structure Bank where
  next    : Word
  dropped : BitVec 16
  ovl     : Bool
  slots   : Tbl McRecord
  deriving DecidableEq, Repr

/-- One retirement-list entry (R416). -/
structure Retired where
  frame : Nat
  cause : Nat
  state : Nat
  part  : Option Nat
  deriving DecidableEq, Repr

/-- The management page (R403, R408, R410, R412, R416, R417). -/
structure Management where
  bootState : BitVec 2
  orbitDev  : Byte
  svn       : BitVec 16
  /-- The header of the image that runs (R408, R409). -/
  image     : List Byte
  mboxCmd   : Byte
  mboxBusy  : Bool
  mboxStatus : BitVec 16
  mboxData  : Memory
  staging   : Memory
  fwlogBase : DWord
  fwlogHead : BitVec 12
  retireBase : DWord
  retired   : List Retired
  retireFull : Bool
  /-- Frames that the package flash lists besides those of Config.flashRetired; a reset keeps them (R415). -/
  flash     : List Nat
  fatal     : Bool
  fatalDone : Bool
  fatalInv  : Bool
  fatalRegion : DWord
  /-- The causing record's bank and SEQ (R381). -/
  cause     : Nat × Word
  irqStatus : BitVec 6
  irqMask   : BitVec 6
  aturCnt   : DWord
  aturLast  : DWord
  /-- AER: functions that have logged Unsupported Request, VF p at bit p and the PF at bit 8 (R397). -/
  aer       : BitVec 9
  mvdPolicy : Word
  preBound  : Nat
  actAlert  : Nat
  /-- The other policy items of R411 by ITEM x 2^16 + INDEX. -/
  policy    : Tbl Nat
  snap      : DWord
  mcCorr    : DWord
  /-- CHECK re-executions of all partitions (R411). -/
  reexec    : DWord
  mcCont    : DWord
  fusedSvn  : Word
  /-- Throttle levels of the quadrants (R414). -/
  throttle  : Tbl Nat
  power     : Bool
  deriving DecidableEq, Repr

/-- A home's reservation (R172, R173): the thread, of this device or of a peer, the space and the line. -/
structure Reserve where
  home   : Nat
  peer   : Option Nat
  thread : ThreadRef
  near   : Bool
  line   : Nat
  deriving DecidableEq, Repr

/-- A push or pop that a peer has sent to a queue of this device, by the descriptor's offset in device memory (R279, R404). -/
structure PeerOp where
  dev   : Nat
  off   : Nat
  push  : Bool
  value : Word
  det   : Option DetPush
  deriving DecidableEq, Repr

/-- A token of a channel (R264). -/
structure Token where
  payload : Option Word
  status  : Byte
  deriving DecidableEq, Repr

/-- A hand-over channel (R264). -/
structure Channel where
  pair   : Option (Nat × Nat)
  posted : Nat
  taken  : Nat
  tokens : List Token
  deriving DecidableEq, Repr

/-- An engine role of an open instance (R256, R260, R264): its kind and unit, and its host by logical index. -/
structure RoleSt where
  kind  : Nat
  unit  : Nat
  host  : Nat
  pc    : Pc
  e     : Tbl Word
  loops : List LoopEntry
  hint  : Option HintRun
  /-- Operations issued since the role started, with the status once complete, oldest first. -/
  ops   : List (Nat × Option Byte)
  /-- Position in `ops` after the previous sending HAND on each channel, and at 16 on any (R262, R264). -/
  marks : Tbl Nat
  /-- Pushes at each level of the loop stack (R261). -/
  pushes : Tbl Nat
  runHi : Pc
  runLo : Pc
  atEnd : Bool
  stall : Stall
  deriving DecidableEq, Repr

/-- The operations, marks and pushes of a workgroup role (R261, R264). -/
structure WgRole where
  ops    : List (Nat × Option Byte)
  marks  : Tbl Nat
  pushes : Tbl Nat
  deriving DecidableEq, Repr

/-- An open instance of a team's stream (R257, R260-R266). -/
structure Stream where
  addr     : Pc
  drift    : Nat
  nch      : Nat
  channels : Tbl Channel
  /-- Loop records: level, activation number and count (R261). -/
  records  : List (Nat × Nat × Nat)
  roles    : Tbl RoleSt
  wgRoles  : Tbl WgRole
  /-- The instance is aborted: the role and its cause (R266). -/
  aborted  : Option (Nat × Nat)
  deriving DecidableEq, Repr

/-- A team barrier (R180, R181, R183): logical indices arrived, in order, and the threads (logical index, thread index)
that were not back at their TBAR when it completed, with the epilogue flag they are owed. -/
structure TeamBar where
  arrived : List Nat
  owed    : List (Nat × Nat × Bool)
  deriving DecidableEq, Repr

/-- One collective of a team: the members' contributions (R286). -/
structure Collective where
  ops : Tbl Nat
  deriving DecidableEq, Repr

/-- An issue group whose word is being executed (R151). -/
structure IssueGroup where
  unit    : IssueUnit
  pc      : Pc
  members : List ThreadRef
  deriving DecidableEq, Repr

/-- A trap raised in the step (R268), before its entry. -/
structure TrapReq where
  thread : ThreadRef
  cls    : Byte
  detail : Word
  aux    : Word
  addr   : DWord
  resume : Pc
  deriving DecidableEq, Repr

/-- Something the device sends out: an MSI-X message (R403), an answer to a request of the host or a peer. -/
inductive Message
  | msix (fn : PcieFn) (vector : Nat)
  | readData (data : List Byte)
  | atomicOld (old : Word)
  | unsupported
  | peerNegative
  | peerData (data : List Byte)
  | peerPoison
  /-- A peer's push or pop on the queue at an offset: its result, or its trap (R280, R281, R406). -/
  | peerResult (dev off : Nat) (data : List Byte)
  | peerTrap (dev off : Nat) (cls : Byte) (detail : Word)
  /-- A request to host memory, with its requester ID (R398): the address, its length, and whether it writes. -/
  | hostRequest (fn : PcieFn) (pa n : Nat) (write : Bool)
  deriving DecidableEq, Repr

/-- An orbit link (R404-R406). -/
structure Link where
  up      : Bool
  budget  : Nat
  deriving DecidableEq, Repr

/-- The refresh of the neighbours of a DRAM row (R343, R344): the bank and the row, and the partitions whose MVC_PAUSE
the pause has advanced. -/
structure Alert where
  bank    : Nat
  row     : Nat
  counted : List Nat
  deriving DecidableEq, Repr

/-- The device. -/
structure State where
  /-- Resident threads by `ThreadRef.key`, workgroups and launches by their numbers. -/
  threads  : Tbl Thread
  wgs      : Tbl Workgroup
  launches : Tbl Launch
  cores    : Tbl CoreSt
  /-- Online physical cores (R392, R395). -/
  online   : BitVec 256
  /-- Near bytes by core x 2^19 + offset, as the slice arrays hold them (R28, R303). -/
  near     : Memory
  /-- Near stores that engines do not see yet: byte and the keys of the threads that stored to it (R175, R222). -/
  merge    : Tbl (Byte × List Nat)
  /-- Near words, by address / 4, whose full/empty bit is empty (R31). -/
  empties  : List Nat
  /-- Near spans (address / 128) that are poisoned, and writer marks of spans (R306, R292). -/
  nearPoison : List Nat
  nearMarks : Tbl Nat
  /-- Near bytes stored to since their allocation was created; the others are undefined (R306). -/
  nearWrote : List Nat
  /-- Physical bytes as the L2 serves them (R291, R312). -/
  mem      : Memory
  /-- Poisoned lines, owners, writer marks and the lines of the L2 with their dirty bit (R291, R292, R308, R314). -/
  poison   : List Nat
  owners   : Tbl Nat
  marks    : Tbl Nat
  l2       : Tbl Bool
  /-- The policy under which a line was last accessed, where it is not WB (R309). -/
  l2cp     : Tbl Nat
  /-- 2 MiB frames whose bytes are undefined since RETIRE_ACK: epoch (R415). -/
  frameFresh : Tbl Nat
  /-- Bytes of those frames written since. -/
  frameWrote : List Nat
  /-- Channel occupancies OCC_c as last sampled, by quadrant x 64 + channel (R336). -/
  occ      : Tbl Nat
  /-- Instruction-cache lines by cluster x 2^45 + line, as filled, and whether the partition wrote since (R311). -/
  icache   : Tbl (List Byte)
  reqs     : Tbl Req
  ops      : Tbl Op
  /-- Operations that a detected error has ended, while their workgroups are there: checks of other units may still fail
  (R86). -/
  struckOps : Tbl Op
  reserves : List Reserve
  /-- Peers' pushes and pops parked at this device's homes, by arrival, in one order with `reqs` (R280, R319, R404). -/
  peerOps  : Tbl PeerOp
  queues   : Tbl Queue
  parts    : Tbl Partition
  mgmt     : Management
  banks    : Tbl Bank
  streams  : Tbl Stream
  teamBars : Tbl TeamBar
  colls    : Tbl Collective
  links    : Tbl Link
  /-- Frames exported to each peer, by device number (R404). -/
  exports  : Tbl (List (Nat × Nat))
  /-- Routes to each destination device, each a list of links (R405). -/
  routes   : Tbl (List (List Nat))
  /-- The clusters' TLBs, newest entry first, and the pointer entries of the quadrants' walkers (R323). -/
  ctlbs    : Tbl (List TlbEntry)
  ptrs     : Tbl (List PtrEntry)
  /-- Neighbour refreshes in progress (R343, R344). -/
  alerts   : List Alert
  /-- Activation counts of DRAM rows since they were refreshed, by bank x 2^32 + row (R343). -/
  acts     : Tbl Nat
  nextLaunch : Word
  /-- The model's own fields: identifiers, the counter of free values (log entry 1), the issue in progress, its traps,
  the agenda of events the environment has chosen, and what the device has sent. -/
  nextId   : Nat
  free     : FreeNo
  issue    : Option IssueGroup
  traps    : List TrapReq
  agenda   : List Instr
  sent     : List Message
  deriving DecidableEq, Repr

/-! Reset (R7) -/

/-- A queue at reset (R372): LOG2SIZE 4, the default quantum (R412). -/
def Queue.reset : Queue :=
  { owner := none, ring := 0, en := false, dev := false, log2 := 4, err := false, quantum := 64, rd := 0, wr := 0,
    deficit := 0, packet := none, last := none }

/-- A partition at reset: PART_CAP 8, 512, 381, 16, 256 (R392), IRQ_MASK 0x3F (R403), every other register 0. -/
def Partition.reset : Partition :=
  { xltRoot := 0, invVa := 0, inv := 0, invBusy := false, invGone := [], invWaits := [], fqBase := 0, fqHead := 0, fqLap := false, fqTail := 0, fqOvf := false,
    fqEn := false, mvc := [], slip := 0, preTerm := 0, mcCont := 0, rstLaunch := 0, rstReason := 0,
    rstValid := false, rstWg := 0, rstCnt := 0,
    cap := 8 + 512 * 2 ^ 4 + 381 * 2 ^ 14 + 16 * 2 ^ 24 + 256 * 2 ^ 29,
    irqStatus := 0, irqMask := 0x3F, aturCnt := 0, aturLast := 0, reexec := 0, linkDrop := 0, clusters := 0,
    frames := [], hostBase := 0, hostLen := 0, waits := [], visit := 0, reserve := none }

/-- The policies with no register of their own at their defaults (R411, R412), by ITEM x 2^16 + INDEX: the DRAM patrol
period, 480 minutes; the SRAM patrol period, 100 ms; the background share, 2 %; the throttle point, 100 °C; the current
limits, fused; the self-test bound. -/
def Management.policies : Tbl Nat :=
  [(5 * 2 ^ 16, 480), (6 * 2 ^ 16, 100), (7 * 2 ^ 16, 20), (8 * 2 ^ 16, 100)]
    ++ (List.range 4).map (fun i => (9 * 2 ^ 16 + i, Config.fusedCurrent i)) ++ [(11 * 2 ^ 16, 2 ^ 28)]
/-- The management page at reset (R386, R403, R410, R416-R418); MVD_POLICY and PRE_BOUND at their defaults (R339, R412). -/
def Management.reset : Management :=
  { bootState := 0, orbitDev := 0, svn := 0, image := [], mboxCmd := 0, mboxBusy := false, mboxStatus := 0, mboxData := [],
    staging := [], fwlogBase := 0, fwlogHead := 0, retireBase := 0, retired := [], retireFull := false, flash := [],
    fatal := false, fatalDone := false, fatalInv := false, fatalRegion := 0, cause := (0, 0), irqStatus := 0,
    irqMask := 0x3F, aturCnt := 0, aturLast := 0, aer := 0, mvdPolicy := 2 + 128 * 2 ^ 8 + 16 * 2 ^ 16, preBound := 2 ^ 24,
    actAlert := 2048, policy := Management.policies, snap := 0, mcCorr := 0, reexec := 0, mcCont := 0, fusedSvn := 0, throttle := [], power := true }

/-- A core at reset: tags with count 0 and bit 1, slots FREE (R22, R32, R35); log entries 3 and 4. -/
def CoreSt.reset : CoreSt :=
  { cyc := 0, tags := [], slots := [], claims := [], books := [], gen := 0, clean := [], release := [], promote := 0,
    ffu := [], returns := [], accepts := true, tlb := [] }

/-- The device right after PCIe reset: no launch, nothing resident, every table empty, every core offline until
bring-up (R418, log entry 4). -/
def State.reset : State :=
  { threads := [], wgs := [], launches := [], cores := [], online := 0, near := [], merge := [], empties := [],
    nearPoison := [], nearMarks := [], nearWrote := [], mem := [], poison := [], owners := [], marks := [], l2 := [], l2cp := [],
    frameFresh := [], frameWrote := [], occ := [], icache := [], reqs := [], ops := [], struckOps := [], reserves := [], peerOps := [], queues := [], parts := [],
    mgmt := Management.reset, banks := [], streams := [], teamBars := [], colls := [], links := [], exports := [],
    routes := [], ctlbs := [], ptrs := [], alerts := [], acts := [],
    nextLaunch := 1, nextId := 0, free := 0, issue := none, traps := [], agenda := [], sent := [] }

end Sys2Proof.Machine
end

