-- ==== Sys2Proof/Machine/Tables.lean ====
section
/-! DEFINITION. The operations on tables: looking a key up, writing it, and the canonical form (keys strictly
rising, no entry equal to the default). Memories are tables of bytes with default zero. -/
namespace Sys2Proof.Machine

/-- The entry of a key. -/
def Tbl.find {α : Type} (m : Tbl α) (k : Nat) : Option α :=
  match m with
  | [] => none
  | (j, a) :: l => if k = j then some a else Tbl.find l k

/-- Write an entry, keys rising. -/
def Tbl.insert {α : Type} (m : Tbl α) (k : Nat) (a : α) : Tbl α :=
  match m with
  | [] => [(k, a)]
  | (j, b) :: l => if k < j then (k, a) :: (j, b) :: l else if k = j then (k, a) :: l else (j, b) :: Tbl.insert l k a

/-- Remove a key. -/
def Tbl.erase {α : Type} (m : Tbl α) (k : Nat) : Tbl α := m.filter (fun e => e.1 != k)

/-- What a key reads as, with the default of an unlisted key. -/
def Tbl.get {α : Type} (d : α) (m : Tbl α) (k : Nat) : α := (Tbl.find m k).getD d

/-- Write a key, leaving out the default. -/
def Tbl.put {α : Type} [DecidableEq α] (d : α) (m : Tbl α) (k : Nat) (a : α) : Tbl α :=
  if a = d then Tbl.erase m k else Tbl.insert m k a

/-- Change the entry of a key that is listed. -/
def Tbl.modify {α : Type} (m : Tbl α) (k : Nat) (f : α → α) : Tbl α := m.map (fun e => if e.1 = k then (e.1, f e.2) else e)

/-- The values, keys rising. -/
def Tbl.vals {α : Type} (m : Tbl α) : List α := m.map Prod.snd
/-- The keys. -/
def Tbl.keys {α : Type} (m : Tbl α) : List Nat := m.map Prod.fst

/-- Keys strictly rise from `lo`. -/
def Tbl.risingFrom {α : Type} (lo : Nat) (m : Tbl α) : Bool :=
  match m with
  | [] => true
  | (j, _) :: l => decide (lo ≤ j) && Tbl.risingFrom (j + 1) l

/-- The canonical form: keys strictly rising, no entry equal to the default. -/
def Tbl.wf {α : Type} [DecidableEq α] (d : α) (m : Tbl α) : Bool := Tbl.risingFrom 0 m && m.all (fun e => decide (e.2 ≠ d))

/-- The canonical form of a memory: what an unlisted address reads as is zero (log entry 2). -/
def Memory.wf (m : Memory) : Bool := Tbl.wf (0 : Byte) m
/-- One byte; an unlisted byte reads zero (log entry 2). -/
def Memory.read (m : Memory) (a : Nat) : Byte := Tbl.get 0 m a
/-- Write one byte, keeping the canonical form. -/
def Memory.write (m : Memory) (a : Nat) (b : Byte) : Memory := Tbl.put 0 m a b
/-- The n bytes from a on. -/
def Memory.readN (m : Memory) (a n : Nat) : List Byte := (List.range n).map (fun i => Memory.read m (a + i))
/-- Write bytes from a on. -/
def Memory.writeN (m : Memory) (a : Nat) (bs : List Byte) : Memory :=
  match bs with
  | [] => m
  | b :: l => Memory.writeN (Memory.write m a b) (a + 1) l

/-- Add a number to a set kept as a rising list. -/
def setInsert (l : List Nat) (k : Nat) : List Nat :=
  match l with
  | [] => [k]
  | j :: t => if k < j then k :: j :: t else if k = j then j :: t else j :: setInsert t k
/-- Remove a number from a set. -/
def setErase (l : List Nat) (k : Nat) : List Nat := l.filter (· != k)

/-- The little-endian value of bytes (R1). -/
def leNat (bs : List Byte) : Nat :=
  match bs with
  | [] => 0
  | b :: l => b.toNat + 256 * leNat l
/-- The n low bytes of a number, little-endian (R1). -/
def leBytes (n v : Nat) : List Byte :=
  match n with
  | 0 => []
  | n + 1 => BitVec.ofNat 8 v :: leBytes n (v / 256)
/-- The bytes [hi:lo] of a block as a number. -/
def bytesAt (bs : List Byte) (lo n : Nat) : Nat := leNat ((bs.drop lo).take n)

end Sys2Proof.Machine
end

