-- ==== Sys2Proof/Machine/Access.lean ====
section
/-! DEFINITION. Reading and writing the registers of threads, workgroups and cores, and finding the records that
hold them. -/
namespace Sys2Proof.Machine

/-- The table key of a thread: a workgroup holds at most 64 x 8 threads (R10). -/
def refKey (r : ThreadRef) : Nat := r.wg * 512 + r.tid

def State.thread (s : State) (r : ThreadRef) : Option Thread := Tbl.find s.threads (refKey r)
def State.putThread (s : State) (t : Thread) : State := { s with threads := Tbl.insert s.threads (refKey t.ref) t }
/-- A change of a thread, which never changes whose registers they are. -/
def Thread.kept (f : Thread → Thread) (t : Thread) : Thread := { f t with ref := t.ref }
/-- Change a resident thread. -/
def State.onThread (s : State) (r : ThreadRef) (f : Thread → Thread) : State :=
  { s with threads := Tbl.modify s.threads (refKey r) (Thread.kept f) }
def State.wg (s : State) (g : Nat) : Option Workgroup := Tbl.find s.wgs g
/-- Change a workgroup. -/
def State.onWg (s : State) (g : Nat) (f : Workgroup → Workgroup) : State := { s with wgs := Tbl.modify s.wgs g f }
def State.launch (s : State) (l : Nat) : Option Launch := Tbl.find s.launches l
def State.onLaunch (s : State) (l : Nat) (f : Launch → Launch) : State := { s with launches := Tbl.modify s.launches l f }
def State.core (s : State) (c : Nat) : CoreSt := Tbl.get CoreSt.reset s.cores c
/-- Change a core. -/
def State.onCore (s : State) (c : Nat) (f : CoreSt → CoreSt) : State := { s with cores := Tbl.insert s.cores c (f (s.core c)) }
def State.part (s : State) (p : Nat) : Partition := Tbl.get Partition.reset s.parts p
def State.onPart (s : State) (p : Nat) (f : Partition → Partition) : State := { s with parts := Tbl.insert s.parts p (f (s.part p)) }
def State.queue (s : State) (q : Nat) : Queue := Tbl.get Queue.reset s.queues q
def State.onQueue (s : State) (q : Nat) (f : Queue → Queue) : State := { s with queues := Tbl.insert s.queues q (f (s.queue q)) }
def State.onOp (s : State) (o : Nat) (f : Op → Op) : State := { s with ops := Tbl.modify s.ops o f }
def State.onReq (s : State) (r : Nat) (f : Req → Req) : State := { s with reqs := Tbl.modify s.reqs r f }
/-- Take the next identifier. -/
def State.takeId (s : State) : Nat × State := (s.nextId, { s with nextId := s.nextId + 1 })
/-- A fresh free word (log entry 1). -/
def State.freshWord (s : State) : Word × State := (Config.freeWord s.free, { s with free := s.free + 1 })
/-- A fresh epoch of free values (log entry 1). -/
def State.freshEpoch (s : State) : Nat × State := (s.free, { s with free := s.free + 1 })

/-- The workgroup of a thread. -/
def State.wgOf (s : State) (r : ThreadRef) : Option Workgroup := s.wg r.wg
/-- The threads of a workgroup that have not exited (R40), by thread index. -/
def State.live (s : State) (g : Nat) : List Thread := (Tbl.vals s.threads).filter (fun t => t.ref.wg == g && !t.exited)
/-- All threads of a workgroup. -/
def State.threadsOf (s : State) (g : Nat) : List Thread := (Tbl.vals s.threads).filter (fun t => t.ref.wg == g)
/-- Change every live thread of a workgroup. -/
def State.onLive (s : State) (g : Nat) (f : Thread → Thread) : State :=
  { s with threads := s.threads.map (fun e => if e.2.ref.wg == g && !e.2.exited then (e.1, Thread.kept f e.2) else e) }

/-! Registers of a thread -/

/-- v(k) (R12). -/
def Thread.getV (t : Thread) (k : Nat) : Word := Tbl.get 0 t.v k
/-- Write v(k); a load destination that no WAIT has covered becomes undefined after the covering WAIT (R162). -/
def Thread.setV (t : Thread) (k : Nat) (w : Word) : Thread :=
  { t with v := Tbl.put 0 t.v k w,
           loads := t.loads.map (fun l => if l.dest ≤ k && decide (k < l.dest + l.count) && !l.gone.contains k then { l with dirty := setInsert l.dirty k } else l) }
/-- Write consecutive registers. -/
def Thread.setVs (t : Thread) (k : Nat) (ws : List Word) : Thread :=
  match ws with
  | [] => t
  | w :: l => (t.setV k w).setVs (k + 1) l
/-- The pair at k, low half in the even register (R13). -/
def Thread.getPair (t : Thread) (k : Nat) : DWord := t.getV (k + 1) ++ t.getV k
/-- Write the pair at k (R13). -/
def Thread.setPair (t : Thread) (k : Nat) (d : DWord) : Thread := (t.setV k (fieldOf d 31 0)).setV (k + 1) (fieldOf d 63 32)
/-- p(k): p0 reads true (R14). -/
def Thread.getP (t : Thread) (k : PReg) : Bool := k == 0 || t.p.getLsbD k.toNat
/-- Write p(k); a write to p0 is discarded (R14). -/
def Thread.setP (t : Thread) (k : PReg) (b : Bool) : Thread :=
  if k == 0 then t
  else { t with p := if b then t.p ||| (1#8 <<< k.toNat) else t.p &&& ~~~(1#8 <<< k.toNat) }
/-- h(k) (R15). -/
def Thread.getH (t : Thread) (k : HReg) : Handle := Tbl.get .empty t.h k.toNat
def Thread.setH (t : Thread) (k : HReg) (h : Handle) : Thread := { t with h := Tbl.put .empty t.h k.toNat h }
/-- OR float exceptions into %fpflags (R26). -/
def Thread.orFlags (t : Thread) (f : BitVec 5) : Thread := { t with fpflags := t.fpflags ||| f.zeroExtend 32 }
/-- The rounding code: the RMODE hint's, else DRM (R26, R61, R62). -/
def Thread.rounding (t : Thread) : BitVec 2 :=
  match t.hint with
  | some r => r.rmode.getD (fieldOf t.fpflags 9 8)
  | none => fieldOf t.fpflags 9 8
/-- The IMM hint's payload, if the run holds one (R100). -/
def Thread.immHint (t : Thread) : Option (BitVec 20) := t.hint.bind (·.imm)
/-- Where a trap of the word at the PC reports and resumes: the first hint of its run (R104). -/
def Thread.resumePc (t : Thread) : Pc :=
  match t.hint with
  | some r => r.first
  | none => t.pc
/-- Whether an address lies in the thread's run (R252, R273: RUNLO and RUNHI are its first and last word). -/
def Thread.runHas (t : Thread) (pc : Pc) : Bool :=
  t.runLo != 0 && decide (t.runLo.toNat ≤ pc.toNat) && decide (pc.toNat ≤ t.runHi.toNat)
/-- Whether the thread executes a word of its run: active, not in a handler, not in a callee (R259). -/
def Thread.inRun (t : Thread) : Bool := t.role.getLsbD 31 && !t.handler && decide (t.depth ≤ t.chorDep) && t.runHas t.pc
/-- A thread that goes to a word outside its run, and not into a callee or a handler, has left the run (R259). -/
def Thread.leaveRun (t : Thread) (pc : Pc) : Thread :=
  if !t.handler && decide (t.depth ≤ t.chorDep) && !t.runHas pc then { t with runLo := 0, runHi := 0 } else t
/-- The word of a run issues: its SCHED hint arms the holdoff and the yield (R102). DESIGN CHOICE (log entry 42): the yield
begins with the holdoff, so it bears on the selection after that of the run's last word. -/
def Thread.arm (t : Thread) : Thread :=
  match t.hint.bind (·.sched) with
  | some (y, n) => { t with holdoff := n.toNat, yield := y, hint := t.hint.map (fun h => { h with sched := none }) }
  | none => t
/-- The thread has issued its word, whose effect it waits for. -/
def Thread.park (t : Thread) (x : Stall) : Thread := { t.arm with stall := x }
/-- The thread has executed its word: it goes on at `pc`, its run of hints is over. -/
def Thread.goto (t : Thread) (pc : Pc) : Thread := { t.arm.leaveRun pc with pc := pc, hint := none, stall := .none, fresh := false }
/-- The next word (R145). -/
def Thread.advance (t : Thread) : Thread := t.goto (t.pc + 4)

/-! Identities (R10) -/

def Workgroup.column (g : Workgroup) (tid : Nat) : Nat := if g.width = 0 then 0 else tid % g.width
def Workgroup.row (g : Workgroup) (tid : Nat) : Nat := if g.width = 0 then 0 else tid / g.width
/-- %lane (R10). -/
def Workgroup.laneOf (g : Workgroup) (tid : Nat) : Nat := g.lane + g.column tid
/-- s(k) (R19). -/
def Workgroup.getS (g : Workgroup) (k : Nat) : Word := Tbl.get 0 g.s k
def Workgroup.setS (g : Workgroup) (k : Nat) (w : Word) : Workgroup := { g with s := Tbl.put 0 g.s k w }
/-- The pair s(2k):s(2k+1) (R90). -/
def Workgroup.sPair (g : Workgroup) (k : SPair) : DWord := g.getS (2 * k.toNat + 1) ++ g.getS (2 * k.toNat)
/-- %team k (R11, R22). -/
def Workgroup.team (g : Workgroup) (k : Nat) : Word := g.teams.getD k 0
/-- %teamk.VALID. -/
def teamValid (w : Word) : Bool := w.getLsbD 31
/-- %teamk.TEAM. -/
def teamIndex (w : Word) : Nat := (fieldOf w 7 0).toNat
/-- %teamk.ROLE. -/
def teamRole (w : Word) : Nat := (fieldOf w 11 8).toNat

/-! %role (R22) -/
def Thread.active (t : Thread) : Bool := t.role.getLsbD 31
def Thread.roleNo (t : Thread) : Nat := (fieldOf t.role 3 0).toNat
def Thread.roleSlot (t : Thread) : Nat := (fieldOf t.role 5 4).toNat

/-- The team key of a launch's team: its instance and its barrier. -/
def teamKey (launch team : Nat) : Nat := launch * 256 + team
/-- The key of the stream that an active thread executes (R257). -/
def State.streamKeyOf (s : State) (t : Thread) : Option Nat :=
  if t.active then (s.wgOf t.ref).map (fun g => teamKey g.launch (teamIndex (g.team t.roleSlot))) else none

/-! Cores -/

/-- The cluster of a physical core (R383: quadrant x 64 + cluster x 4 + core). -/
def clusterOf (core : Nat) : Nat := core / 4
def State.isOnline (s : State) (core : Nat) : Bool := s.online.getLsbD core
/-- The online cores of a partition, in ascending physical number (R395, R402). -/
def State.partCores (s : State) (p : Nat) : List Nat :=
  (List.range 256).filter (fun c => s.isOnline c && (s.part p).clusters.getLsbD (clusterOf c))
/-- The physical core that serves a logical index of a launch: its own, or the substitute of R395. -/
def State.physCore (s : State) (l : Launch) (i : Nat) : Option Nat :=
  match l.cores[i]? with
  | none => none
  | some c =>
    if s.isOnline c then some c
    else match (s.partCores l.part).filter (fun d => clusterOf d == clusterOf c) with
      | d :: _ => some d
      | [] => (s.partCores l.part).head?
/-- The logical index of a physical core in a launch (R24). -/
def Launch.logicalOf (l : Launch) (core : Nat) : Nat := l.cores.idxOf core

def State.launchOf (s : State) (g : Workgroup) : Option Launch := s.launch g.launch
/-- The partition of a workgroup. -/
def State.partOf (s : State) (g : Workgroup) : Nat := ((s.launchOf g).map (·.part)).getD 0
/-- Whether two workgroups share a team of their launch (R157). -/
def shareTeam (g h : Workgroup) : Bool :=
  g.launch == h.launch &&
    g.teams.any (fun a => teamValid a && h.teams.any (fun b => teamValid b && teamIndex a == teamIndex b))
/-- Bytes of a workgroup's allocation: NEAR rounded up to 64 (R304). -/
def Workgroup.nearSize (g : Workgroup) : Nat := (g.near + 63) / 64 * 64
/-- Bytes of spill area a thread (R18). -/
def Workgroup.spillSize (g : Workgroup) : Nat := (g.calls - 8) * 4
/-- A, the end offset of the allocation, and the start of the spill reservation (R18). -/
def Workgroup.spillEnd (g : Workgroup) : Nat := g.base + g.nearSize
def Workgroup.spillStart (g : Workgroup) : Nat := g.spillEnd - g.width * g.depth * g.spillSize

/-- Sum of the counts of the batches with incomplete operations (R37, %pendcp). -/
def Thread.pendingBatches (t : Thread) : Nat := (t.batches.filter (fun b => b.2 != 0)).length
/-- A tag's bit: 1 exactly when the count is zero, unless TCLR has cleared it (R35). -/
def TagSt.bit (t : TagSt) : Bool := t.count == 0 && !t.clear
def CoreSt.tag (c : CoreSt) (i : Nat) : TagSt := Tbl.get { count := 0, clear := false } c.tags i
def CoreSt.setTag (c : CoreSt) (i : Nat) (t : TagSt) : CoreSt := { c with tags := Tbl.put { count := 0, clear := false } c.tags i t }
/-- %tagbits (R22). -/
def CoreSt.tagBits (c : CoreSt) : DWord :=
  (List.range 64).foldl (fun a i => if (c.tag i).bit then a ||| (1#64 <<< i) else a) 0
def CoreSt.slot (c : CoreSt) (i : Nat) : Slot := Tbl.get { state := .free, epoch := 0, bytes := [], damaged := false } c.slots i
def CoreSt.setSlot (c : CoreSt) (i : Nat) (x : Slot) : CoreSt := { c with slots := Tbl.insert c.slots i x }
/-- The workgroup that owns a slot (R32). -/
def Slot.owner (x : Slot) : Option Nat :=
  match x.state with
  | .free => none
  | .claimed g => some g
  | .filling g _ => some g
  | .ready g => some g
def CoreSt.book (c : CoreSt) (i : Nat) : Codebook :=
  Tbl.get { owner := none, vec := 0, origin := 0, loaded := false, epoch := 0, bytes := [], damaged := [] } c.books i
def CoreSt.setBook (c : CoreSt) (i : Nat) (b : Codebook) : CoreSt := { c with books := Tbl.insert c.books i b }

/-- Send a message. -/
def State.send (s : State) (m : Message) : State := { s with sent := s.sent ++ [m] }

end Sys2Proof.Machine
end

