-- ==== Sys2Proof/Machine/Mem.lean ====
section
/-! DEFINITION. Memory: near addresses and their checks (R28, R157), translation (R320-R323, R402), the L1 and L2 as
far as they can be seen (R290-R293, R308-R310), reservations (R172) and the digest (R282). -/
namespace Sys2Proof.Machine

/-! Near addresses -/

/-- Bytes of a slice (R28). -/
def sliceBytes : Nat := 390144
/-- The key of a near byte: physical core x 2^19 + offset. -/
def nearKey (core off : Nat) : Nat := core * 2 ^ 19 + off

/-- R28: the physical core and offset of a near address issued by workgroup g; none where decoding fails (cause 0). -/
def State.decodeNear (s : State) (g : Workgroup) (na : Word) : Option (Nat × Nat) :=
  let off := (fieldOf na 18 0).toNat
  if off ≥ sliceBytes then none
  else if na.getLsbD 31 then
    if fieldOf na 22 19 == 0 then
      match (s.launchOf g).bind (fun l => s.physCore l (fieldOf na 30 23).toNat) with
      | some c => some (c, off)
      | none => none
    else none
  else if fieldOf na 30 21 == 0 then
    let c := clusterOf g.core * 4 + (fieldOf na 20 19).toNat
    if s.isOnline c then some (c, off) else none
  else none

/-- The workgroup on a core whose allocation holds the first byte (R304). -/
def State.allocAt (s : State) (core off : Nat) : Option (Nat × Workgroup) :=
  s.wgs.find? (fun e => e.2.core == core && decide (e.2.base ≤ off) && decide (off < e.2.base + e.2.nearSize))

/-- Why a near access fails: the alignment trap or a cause of R158. -/
inductive NearError | align | cause (c : Nat)
  deriving DecidableEq, Repr

/-- R157: the checks of a near access of n bytes aligned to al by workgroup gid; the answer is the key of the first byte
and the target workgroup. -/
def State.checkNear (s : State) (gid : Nat) (handler : Bool) (na : Word) (n al : Nat) : Except NearError (Nat × Nat) :=
  match s.wg gid with
  | none => .error (.cause 0)
  | some g =>
    match s.decodeNear g na with
    | none => .error (.cause 0)
    | some (c, off) =>
      if off % al ≠ 0 then .error .align
      else match s.allocAt c off with
        | none => .error (.cause 1)
        | some (tid, t) =>
          if off + n > t.base + t.nearSize then .error (.cause 1)
          else if tid ≠ gid ∧ ¬ shareTeam g t then .error (.cause 2)
          else if off < t.spillEnd ∧ t.spillStart < off + n ∧ ¬ (tid = gid ∧ handler) then .error (.cause 3)
          else .ok (nearKey c off, tid)

/-- The native form of a near key, as thread g's launch numbers cores (R28, R282). -/
def State.nativeNear (s : State) (g : Workgroup) (key : Nat) : Word :=
  let i := ((s.launchOf g).map (fun l => l.logicalOf (key / 2 ^ 19))).getD 0
  1#1 ++ BitVec.ofNat 8 i ++ 0#4 ++ BitVec.ofNat 19 key

/-- The epoch of the undefined bytes of the allocation that holds a near byte (R306). -/
def State.nearEpoch (s : State) (key : Nat) : Nat :=
  match s.allocAt (key / 2 ^ 19) (key % 2 ^ 19) with
  | some (_, g) => g.epoch
  | none => 0
/-- A near byte as the slice array holds it: undefined until something is stored (R306). -/
def State.nearByte (s : State) (key : Nat) : Byte :=
  if s.nearWrote.contains key then Memory.read s.near key else Config.freeByte (s.nearEpoch key) key
/-- A near byte as threads see it: the write-merge buffer first. -/
def State.nearSeen (s : State) (key : Nat) : Byte :=
  match Tbl.find s.merge key with
  | some (b, _) => b
  | none => s.nearByte key
/-- Near bytes as engines read them (R176). -/
def State.nearRead (s : State) (key n : Nat) : List Byte := (List.range n).map (fun i => s.nearByte (key + i))
/-- Near bytes as threads read them. -/
def State.nearLoad (s : State) (key n : Nat) : List Byte := (List.range n).map (fun i => s.nearSeen (key + i))
/-- Write bytes into the slice arrays. -/
def State.nearPut (s : State) (key : Nat) (bs : List Byte) : State :=
  { s with near := Memory.writeN s.near key bs,
           nearWrote := (List.range bs.length).foldl (fun w i => setInsert w (key + i)) s.nearWrote,
           merge := s.merge.filter (fun e => !(decide (key ≤ e.1) && decide (e.1 < key + bs.length))) }
/-- A span of a near slice that holds a byte (R292, R306). -/
def spanOf (a : Nat) : Nat := a / 128
/-- The spans that bytes [a, a + n) meet. -/
def linesOf (a n : Nat) : List Nat := if n = 0 then [] else (List.range ((a + n - 1) / 128 - a / 128 + 1)).map (· + a / 128)

/-- Any write clears the reservations of its lines (R172). -/
def State.clearReserves (s : State) (near : Bool) (a n : Nat) : State :=
  { s with reserves := s.reserves.filter (fun r => !(r.near == near && (linesOf a n).contains r.line)) }

/-- Set or clear the writer marks of near spans (R292). -/
def State.markNear (s : State) (a n : Nat) (core : Option Nat) : State :=
  { s with nearMarks := (linesOf a n).foldl (fun m l => match core with
      | some c => Tbl.insert m l c
      | none => Tbl.erase m l) s.nearMarks }

/-- The threads with a store to a near byte that engines do not see yet. -/
def mergeWriters (m : Tbl (Byte × List Nat)) (key : Nat) : List Nat := ((Tbl.find m key).map (·.2)).getD []
/-- Bytes enter the write-merge buffer for a thread. -/
def State.mergePut (s : State) (key : Nat) (bs : List Byte) (by_ : Nat) : State :=
  { s with merge := (bs.zipIdx).foldl (fun m e => Tbl.insert m (key + e.2) (e.1, setInsert (mergeWriters m (key + e.2)) by_)) s.merge }
/-- Move write-merge entries to the slice arrays: those of every 16-byte block with an entry that satisfies p for one of
its storing threads. No near store of a thread crosses a block, so that none is seen in part (R157, R164, R175, R222). -/
def State.drainMerge (s : State) (p : Nat → Nat → Bool) : State :=
  (s.merge.filter (fun e => s.merge.any (fun x => x.1 / 16 == e.1 / 16 && x.2.2.any (p x.1)))).foldr
    (fun e s => s.nearPut e.1 [e.2.1]) s
/-- Write bytes into the slice arrays after every earlier store to their blocks (R164). -/
def State.nearOver (s : State) (key : Nat) (bs : List Byte) : State :=
  (s.drainMerge (fun k _ => decide (key / 16 ≤ k / 16) && decide (k < key + bs.length))).nearPut key bs
/-- A thread's near store: performed for threads now; engines see it once drained (R161, R175, R290, R292). -/
def State.nearStore (s : State) (key : Nat) (bs : List Byte) (core : Nat) (by_ : Nat) (drain : Bool) : State :=
  let s := (s.clearReserves true key bs.length).markNear key bs.length (some core)
  if drain then s.nearOver key bs else s.mergePut key bs by_
/-- An engine's near write: performed at once, mark NONE (R290, R292). -/
def State.nearEngine (s : State) (key : Nat) (bs : List Byte) : State :=
  ((s.clearReserves true key bs.length).markNear key bs.length none).nearOver key bs
/-- A home's near write for a core, or for no thread (R292). -/
def State.nearHome (s : State) (key : Nat) (bs : List Byte) (core : Option Nat) : State :=
  ((s.clearReserves true key bs.length).markNear key bs.length core).nearOver key bs
/-- Whether bytes [key, key + n) meet a poisoned span (R306). -/
def State.nearPoisoned (s : State) (key n : Nat) : Bool := (linesOf key n).any (fun l => s.nearPoison.contains l)

/-! Physical memory -/

/-- The region bits of a physical address (R312). -/
def regionOf (pa : Nat) : Nat := pa / 2 ^ 50
/-- 96 GiB (R312). -/
def stackBytes : Nat := 0x1800000000
/-- R312: whether the physical address names a byte. -/
def validPa (own : Nat) (pa : Nat) : Bool :=
  match regionOf pa with
  | 0 => decide (pa / 2 ^ 39 = 0) && decide (pa % 2 ^ 37 < stackBytes)
  | 1 => decide (pa / 2 ^ 45 % 2 ^ 5 = 0) && decide (pa / 2 ^ 39 % 2 ^ 6 ≠ own) && decide (pa % 2 ^ 37 < stackBytes)
  | 2 => true
  | _ => false
/-- Frames are numbered quadrant x 49,152 + PA[36:21] (R411). -/
def frameOf (pa : Nat) : Nat := pa / 2 ^ 37 % 4 * 49152 + pa % 2 ^ 37 / 2 ^ 21
/-- The first address of a frame. -/
def frameBase (f : Nat) : Nat := f / 49152 * 2 ^ 37 + f % 49152 * 2 ^ 21
/-- Device memory (R312). -/
def isDevice (pa : Nat) : Bool := regionOf pa == 0
/-- The home of a physical address, as a global cluster number; at a peer device it is 64 + the device's number (R173, R315). -/
def homeOf (pa : Nat) : Nat :=
  let g := pa / 256
  let x := fun k => g / 2 ^ k % 64
  if regionOf pa = 1 then 64 + pa / 2 ^ 39 % 64
  else ((((((x 0 ^^^ x 6) ^^^ x 12) ^^^ x 18) ^^^ x 24) ^^^ x 30) ^^^ x 36) ^^^ (g / 2 ^ 42 % 4)

/-- One byte of physical memory: undefined in a frame that RETIRE_ACK removed, until written (R415). -/
def State.memByte (s : State) (pa : Nat) : Byte :=
  if isDevice pa && (Tbl.find s.frameFresh (frameOf pa)).isSome && !s.frameWrote.contains pa then
    Config.freeByte ((Tbl.find s.frameFresh (frameOf pa)).getD 0) pa
  else Memory.read s.mem pa
def State.memRead (s : State) (pa n : Nat) : List Byte := (List.range n).map (fun i => s.memByte (pa + i))
/-- Write bytes of physical memory. -/
def State.memPut (s : State) (pa : Nat) (bs : List Byte) : State :=
  { s with mem := Memory.writeN s.mem pa bs,
           frameWrote := if s.frameFresh.isEmpty then s.frameWrote else
             (List.range bs.length).foldl (fun w i => if isDevice (pa + i) && (Tbl.find s.frameFresh (frameOf (pa + i))).isSome then
               setInsert w (pa + i) else w) s.frameWrote }
/-- The DRAM bank of a device address, (quadrant x 512 + unit) x 4 + PA[8:7] (R313). -/
def dramBank (pa : Nat) : Nat := (pa / 2 ^ 37 % 4 * 512 + pa / 2 ^ 12 % 512) * 4 + pa / 2 ^ 7 % 4
/-- The DRAM row of a device address in its bank: the lines that one frame has there (log entry 40). -/
def dramRow (pa : Nat) : Nat := pa % 2 ^ 37 / 2 ^ 21
/-- The key of a DRAM row's count. -/
def rowKey (bank row : Nat) : Nat := bank * 2 ^ 32 + row
/-- An access to DRAM activates its row, which its bank counts (R343; log entry 40: every access activates). -/
def State.activate (s : State) (pa : Nat) : State :=
  let k := rowKey (dramBank pa) (dramRow pa)
  { s with acts := Tbl.insert s.acts k (Tbl.get 0 s.acts k + 1) }
/-- The quadrant of a line, and the lines of its L2: 64 MiB (R309, R312). -/
def quadOf (line : Nat) : Nat := line * 128 / 2 ^ 37
def l2Lines : Nat := 2 ^ 19
/-- The lines of a quadrant's L2 that leave first: those of STREAM pages, then those of WB, at last those of KEEP (R309). -/
def State.l2Victims (s : State) (qd : Nat) : List Nat :=
  let held := (s.l2.map (·.1)).filter (fun l => quadOf l == qd)
  let at_ := fun (cp : Nat) => held.filter (fun l => Tbl.get 0 s.l2cp l == cp)
  if !(at_ 1).isEmpty then at_ 1 else if !(at_ 0).isEmpty then at_ 0 else at_ 2
/-- Where a quadrant's L2 is full, a line leaves it, and is written to its row if it is dirty; a free value picks among
those that leave first (R309, log entry 36). -/
def State.l2Room (s : State) (qd : Nat) : State :=
  if (s.l2.filter (fun e => quadOf e.1 == qd)).length < l2Lines then s
  else
    let (w, s) := s.freshWord
    match (s.l2Victims qd)[w.toNat % (s.l2Victims qd).length]? with
    | none => s
    | some l =>
      let s := if Tbl.get false s.l2 l then s.activate (l * 128) else s
      { s with l2 := Tbl.erase s.l2 l }
/-- The L2 holds a line, clean or dirty (R309, R336), from DRAM if it did not; a dirty line stays dirty. -/
def State.l2Touch (s : State) (line : Nat) (dirty : Bool) : State :=
  if isDevice (line * 128) then
    let s := if (Tbl.find s.l2 line).isSome then s else (s.l2Room (quadOf line)).activate (line * 128)
    { s with l2 := Tbl.insert s.l2 line (dirty || Tbl.get false s.l2 line) }
  else s
/-- Bytes are read at the L2, whose lines hold them then, poisoned or not (R309, R336). -/
def State.l2Read (s : State) (pa n : Nat) : State := (linesOf pa n).foldl (fun s l => s.l2Touch l false) s
/-- Lines are accessed under the policy of a page (R309). -/
def State.l2Policy (s : State) (pa n cp : Nat) : State :=
  { s with l2cp := (linesOf pa n).foldl (fun m l => if isDevice pa then Tbl.put 0 m l cp else m) s.l2cp }
/-- A core drops its clean copy of a line. -/
def State.dropClean (s : State) (core line : Nat) : State := s.onCore core (fun k => { k with clean := Tbl.erase k.clean line })
/-- The owner gives a line up: it is written back, its release bit is cleared (R291, R292, R308). -/
def State.recall (s : State) (line : Nat) : State :=
  match Tbl.find s.owners line with
  | none => s
  | some c => ({ s with owners := Tbl.erase s.owners line }.onCore c
      (fun k => { k with release := setErase k.release line })).l2Touch line true
/-- A line is written by an agent that is no thread's L1; a core that it is written for drops its older copy (R161, R290-R292). -/
def State.lineWritten (s : State) (line : Nat) (mark : Option Nat) : State :=
  let s := (s.recall line).l2Touch line true
  match mark with
  | some c => { s with marks := Tbl.insert s.marks line c }.dropClean c line
  | none => { s with marks := Tbl.erase s.marks line }
/-- A write at the L2: engines, PCIe and peers leave mark NONE, a home the requester's core (R290, R292). -/
def State.memEngine (s : State) (pa : Nat) (bs : List Byte) (mark : Option Nat) : State :=
  ((linesOf pa bs.length).foldl (fun s l => s.lineWritten l mark) (s.clearReserves false pa bs.length)).memPut pa bs
/-- An engine of a core writes at the L2: performed for the core's threads too, whose clean copies go (R161, R197, R290). -/
def State.memCore (s : State) (pa : Nat) (bs : List Byte) (core : Nat) : State :=
  (linesOf pa bs.length).foldl (fun s l => s.dropClean core l) (s.memEngine pa bs none)
/-- A thread's store enters its core's L1 on a line the core owns (R290, R291, R308); STREAM, host and peer stores
write through, and leave the core no older copy (R161, R308, R309). -/
def State.memStore (s : State) (pa : Nat) (bs : List Byte) (core cp : Nat) : State :=
  let s := s.l2Policy pa bs.length cp
  if cp == 1 || !isDevice pa then s.memEngine pa bs (some core)
  else
    let s := (linesOf pa bs.length).foldl (fun s l =>
      let s := if Tbl.find s.owners l == some core then s else (s.recall l).l2Touch l false
      let s := { s with owners := Tbl.insert s.owners l core, marks := Tbl.insert s.marks l core }
      s.onCore core (fun k => { k with clean := Tbl.erase k.clean l, release := setInsert k.release l }))
      (s.clearReserves false pa bs.length)
    s.memPut pa bs
/-- An engine's read through the L2 (R291, R309). -/
def State.memFetch (s : State) (pa n : Nat) : List Byte × State :=
  (s.memRead pa n, s.l2Read pa n)
/-- Whether bytes meet a poisoned line (R314). -/
def State.memPoisoned (s : State) (pa n : Nat) : Bool := (linesOf pa n).any (fun l => s.poison.contains l)
/-- A thread reads a line: the reading core gathers the writer mark (R292). -/
def State.gather (s : State) (core : Nat) (mark : Option Nat) : State :=
  match mark with
  | none => s
  | some m => if m == core then s else s.onCore core (fun k => { k with promote := k.promote ||| (1#256 <<< m) })
/-- A thread's load of bytes in one line through the core's L1: its own lines and clean copies first, else the L2, whose
line is then kept clean where the page allows; a load past the L1 leaves no older copy behind (R163, R291, R298, R308, R309). -/
def State.memLoad (s : State) (pa n core cp : Nat) : List Byte × State :=
  let line := pa / 128
  let s := (s.gather core (Tbl.find s.marks line)).l2Policy pa n cp
  if !isDevice pa || cp == 1 then (s.memRead pa n, (s.l2Touch line false).dropClean core line)
  else if Tbl.find s.owners line == some core then (s.memRead pa n, s)
  else match Tbl.find (s.core core).clean line with
    | some bs => ((bs.drop (pa % 128)).take n, s)
    | none =>
      let bs := s.memRead (line * 128) 128
      ((bs.drop (pa % 128)).take n,
        (s.l2Touch line false).onCore core (fun k => { k with clean := Tbl.insert k.clean line bs }))

/-- Device-scope release actions of a core: its release set is written back (R293). -/
def State.releaseCore (s : State) (core : Nat) : State :=
  ((s.core core).release.foldl (fun s l => s.l2Touch l true) s).onCore core (fun k => { k with release := [] })
/-- Clean global lines and FFU lines are discarded (R293, R310). -/
def State.discardClean (s : State) (core : Nat) : State := s.onCore core (fun k => { k with clean := [], ffu := [] })
/-- The cores of a promotion vector. -/
def promoted (v : BitVec 256) : List Nat := (List.range 256).filter (fun i => v.getLsbD i)
/-- Acquire actions at cluster scope or wider: promotion, then the discard (R293). -/
def State.acquireWide (s : State) (core : Nat) : State :=
  let s := (promoted (s.core core).promote).foldl (fun s c => s.releaseCore c) s
  (s.onCore core (fun k => { k with promote := 0 })).discardClean core

/-! Translation -/

/-- A translation: physical address and the leaf's attributes (R321). -/
structure Xlate where
  pa     : Nat
  r      : Bool
  w      : Bool
  x      : Bool
  sa     : Bool
  cc     : Bool
  cp     : Nat
  poison : Bool
  size   : Nat
  deriving DecidableEq, Repr

/-- The lowest virtual-address bit a level indexes (R320). -/
def levelShift (level : Nat) : Nat :=
  match level with
  | 4 => 47
  | 3 => 38
  | 2 => 29
  | 1 => 21
  | _ => 12
/-- The entry a level reads (R320). -/
def levelIndex (level va : Nat) : Nat := if level = 1 then va / 2 ^ 21 % 256 else va / 2 ^ levelShift level % 512

/-- R322: a valid entry that is malformed, by its own bits. -/
def malformed (own level va : Nat) (e : DWord) : Bool :=
  let pa := (fieldOf e 51 12).toNat * 4096
  let leaf := e.getLsbD 1
  let contig := e.getLsbD 10
  e.getLsbD 11 || fieldOf e 63 52 != 0
  || (!leaf && (fieldOf e 10 2 != 0 || level == 0))
  || (leaf && (level == 3 || level == 4 || (contig && level == 2)))
  || (leaf && level == 2 && decide (pa % 2 ^ 29 ≠ 0))
  || (leaf && level == 1 && decide (pa % 2 ^ 21 ≠ 0))
  || (leaf && contig && level == 1 && decide (pa / 2 ^ 21 % 16 ≠ va / 2 ^ 21 % 16))
  || (leaf && contig && level == 0 && decide (pa / 2 ^ 12 % 16 ≠ va / 2 ^ 12 % 16))
  || (leaf && e.getLsbD 6 && (level == 0 || regionOf pa != 0))
  || (leaf && fieldOf e 8 7 == 3)
  || !validPa own pa

/-- The partition that owns a frame. -/
def State.frameOwner (s : State) (f : Nat) : Option Nat :=
  (List.range 8).find? (fun p => (s.part p).frames.any (fun r => decide (r.1 ≤ f) && decide (f < r.1 + r.2)))
/-- R402: whether the partition may map the pages [pa, pa + bytes). -/
def State.partMayMap (s : State) (p pa bytes : Nat) : Bool :=
  let part := s.part p
  match regionOf pa with
  | 0 => (List.range ((bytes + 2 ^ 21 - 1) / 2 ^ 21)).all (fun i =>
      part.frames.any (fun r => decide (r.1 ≤ frameOf pa + i) && decide (frameOf pa + i < r.1 + r.2)))
  | 1 => (List.range ((bytes + 2 ^ 21 - 1) / 2 ^ 21)).all (fun i => Config.peerExports (pa / 2 ^ 39 % 64) (frameOf pa + i))
  | 2 => decide (part.hostBase * 2 ^ 21 ≤ pa % 2 ^ 50) && decide (pa % 2 ^ 50 + bytes ≤ (part.hostBase + part.hostLen) * 2 ^ 21)
  | _ => false

/-- The size of the page a leaf maps, a contiguous group whole (R320, R322). -/
def leafBytes (level : Nat) (contig : Bool) : Nat := 2 ^ levelShift level * (if contig then 16 else 1)

/-- R320-R322: walk from a table of a level down; the failure is (level, CAUSE) of R326. -/
def State.walkFrom (s : State) (p va table level : Nat) : Except (Nat × Nat) TlbEntry :=
  let e : DWord := BitVec.ofNat 64 (leNat (s.memRead (table + 8 * levelIndex level va) 8))
  if !e.getLsbD 0 then .error (level, 0)
  else if malformed s.mgmt.orbitDev.toNat level va e then .error (level, 1)
  else if e.getLsbD 1 then
    let bytes := leafBytes level (e.getLsbD 10)
    let base := (fieldOf e 51 12).toNat * 4096 / bytes * bytes
    if s.partMayMap p base bytes then
      .ok { page := va / bytes * (bytes / 4096), leaf := (BitVec.ofNat 64 base) ||| (e &&& 0x3FF), size := bytes / 4096 }
    else .error (level, 1)
  else match level with
    | 0 => .error (0, 1)
    | l + 1 => s.walkFrom p va ((fieldOf e 51 12).toNat * 4096) l
/-- The part of a virtual address that leads to a pointer entry of a level. -/
def ptrIndex (level va : Nat) : Nat := va / 2 ^ levelShift level
/-- Where a walk of a quadrant starts: at the table that the deepest cached pointer entry names, else at the root (R323). -/
def State.walkStart (s : State) (qd p va : Nat) : Nat × Nat :=
  (((List.range 4).findSome? (fun l => ((Tbl.get [] s.ptrs qd).find? (fun e =>
    e.part == p && e.level == l + 1 && e.index == ptrIndex (l + 1) va)).map (fun e => (e.table, l))))).getD
    ((fieldOf (s.part p).xltRoot 51 12).toNat * 4096, 4)
/-- A walk of the partition's tree by the walkers of a quadrant (R320, R324, R329). -/
def State.walk (s : State) (qd p va : Nat) : Except (Nat × Nat) TlbEntry :=
  if !(s.part p).xltRoot.getLsbD 0 then .error (4, 0)
  else s.walkFrom p va (s.walkStart qd p va).1 (s.walkStart qd p va).2
/-- Put an entry into a list of at most n; where it is full, a free value picks the entry that goes (R323, log entry 1). -/
def State.holdEntry {α : Type} (s : State) (n : Nat) (l : List α) (x : α) : List α × State :=
  if l.length < n then (x :: l, s)
  else
    let (w, s) := s.freshWord
    (x :: l.eraseIdx (w.toNat % n), s)
/-- A quadrant's walkers keep a pointer entry, one of 256 (R323). -/
def State.putPtr (s : State) (qd : Nat) (e : PtrEntry) : State :=
  let l := Tbl.get [] s.ptrs qd
  if l.any (fun x => x.part == e.part && x.level == e.level && x.index == e.index) then s
  else
    let r := s.holdEntry 256 l e
    { r.2 with ptrs := Tbl.insert r.2.ptrs qd r.1 }
/-- What a walk leaves behind: the lines of the tables in the L2 (R309), and the pointer entries (R323). -/
def State.walkTrace (s : State) (qd p va table level : Nat) : State :=
  let a := table + 8 * levelIndex level va
  let e : DWord := BitVec.ofNat 64 (leNat (s.memRead a 8))
  let s := s.l2Touch (a / 128) false
  if !e.getLsbD 0 || malformed s.mgmt.orbitDev.toNat level va e || e.getLsbD 1 then s
  else match level with
    | 0 => s
    | l + 1 =>
      let next := (fieldOf e 51 12).toNat * 4096
      (s.putPtr qd { part := p, level := l + 1, index := ptrIndex (l + 1) va, table := next }).walkTrace qd p va next l
/-- The walk has been made. -/
def State.walked (s : State) (qd p va : Nat) : State :=
  if !(s.part p).xltRoot.getLsbD 0 then s else s.walkTrace qd p va (s.walkStart qd p va).1 (s.walkStart qd p va).2

/-- The translation an entry gives an address. -/
def xlateOf (x : TlbEntry) (va : Nat) : Xlate :=
  let e := x.leaf
  { pa := (fieldOf e 51 12).toNat * 4096 + va % (x.size * 4096), r := e.getLsbD 2, w := e.getLsbD 3, x := e.getLsbD 4,
    sa := e.getLsbD 5, cc := e.getLsbD 6, cp := (fieldOf e 8 7).toNat, poison := e.getLsbD 9, size := x.size }
/-- Whether an entry maps a page; whether it meets pages [page, page + n). -/
def TlbEntry.has (e : TlbEntry) (page : Nat) : Bool := decide (e.page ≤ page) && decide (page < e.page + e.size)
def TlbEntry.meets (e : TlbEntry) (page n : Nat) : Bool := decide (e.page < page + n) && decide (page < e.page + e.size)
/-- The entry that a core's L1 TLB holds for a page; its cluster's (R323). -/
def State.tlb1 (s : State) (core page : Nat) : Option TlbEntry := (s.core core).tlb.find? (fun e => e.has page)
def State.tlb2 (s : State) (core page : Nat) : Option TlbEntry := (Tbl.get [] s.ctlbs (clusterOf core)).find? (fun e => e.has page)
/-- The translation that a core's TLBs hold for an address: the L1's, else the cluster's (R324). -/
def State.tlbLook (s : State) (p core va : Nat) : Option Xlate :=
  if (s.part p).xltRoot.getLsbD 0 then
    match s.tlb1 core (va / 4096) with
    | some e => some (xlateOf e va)
    | none => (s.tlb2 core (va / 4096)).map (fun e => xlateOf e va)
  else none
/-- Put an entry into a core's L1 TLB; entries that it overlaps go (R323). -/
def State.install1 (s : State) (core : Nat) (e : TlbEntry) : State :=
  let r := s.holdEntry 64 ((s.core core).tlb.filter (fun x => !x.meets e.page e.size)) e
  r.2.onCore core (fun c => { c with tlb := r.1 })
/-- Put an entry into a cluster's TLB. -/
def State.install2 (s : State) (cluster : Nat) (e : TlbEntry) : State :=
  let r := s.holdEntry 1024 ((Tbl.get [] s.ctlbs cluster).filter (fun x => !x.meets e.page e.size)) e
  { r.2 with ctlbs := Tbl.insert r.2.ctlbs cluster r.1 }
/-- A walked entry goes to the cluster's TLB and to the core's (R323, R324). -/
def State.tlbInstall (s : State) (core : Nat) (e : TlbEntry) : State := (s.install2 (clusterOf core) e).install1 core e
/-- A core looks an address up: what its L1 TLB misses and its cluster holds enters the L1 (R324). -/
def State.tlbTouch (s : State) (core va : Nat) : State :=
  match s.tlb1 core (va / 4096) with
  | some _ => s
  | none => match s.tlb2 core (va / 4096) with
    | some e => s.install1 core e
    | none => s
/-- An engine's translation: what the TLBs of its core hold, or the walk the engine waits for (R324). The dispatcher and
the homes, `via` none, walk each time (log entry 41). -/
def State.translate (s : State) (p : Nat) (via : Option Nat) (va : Nat) : Except (Nat × Nat) Xlate :=
  match via.bind (fun c => s.tlbLook p c va) with
  | some x => .ok x
  | none => (s.walk (via.getD 0 / 64) p va).map (fun e => xlateOf e va)
/-- The translation has been made: the L1 TLB refilled, or the walk traced and its entry held. -/
def State.translated (s : State) (p : Nat) (via : Option Nat) (va : Nat) : State :=
  match via with
  | none => s.walked 0 p va
  | some c => match s.tlbLook p c va with
    | some _ => s.tlbTouch c va
    | none =>
      let t := s.walked (c / 64) p va
      match s.walk (c / 64) p va with
      | .ok e => t.tlbInstall c e
      | .error _ => t
/-- Whether the walkers' cached pointer entry lies on the path to one of pages [page, page + n) (R325). -/
def PtrEntry.meets (e : PtrEntry) (page n : Nat) : Bool :=
  decide (ptrIndex e.level (page * 4096) ≤ e.index) && decide (e.index ≤ ptrIndex e.level ((page + n - 1) * 4096))

/-- Whether a link is up. -/
def State.linkUp (s : State) (l : Nat) : Bool := (Tbl.get { up := false, budget := 64 } s.links l).up
/-- The route of a request to a peer's address: entry PA[12:7] mod n of its destination (R405). -/
def State.routeOf (s : State) (pa : Nat) : Option (List Nat) :=
  let rs := Tbl.get [] s.routes (pa / 2 ^ 39 % 64)
  if rs.isEmpty then none else rs[pa / 2 ^ 7 % 64 % rs.length]?
/-- Whether a peer's address can be reached: its route has all its links up (R405, R406). -/
def State.peerUp (s : State) (pa : Nat) : Bool :=
  match s.routeOf pa with
  | some r => r.all s.linkUp
  | none => false
/-- Whether no route to a device is left (R406). -/
def State.peerLost (s : State) (dev : Nat) : Bool := (Tbl.get [] s.routes dev).all (fun r => !r.all s.linkUp)
/-- Whether an access of a peer page fails for a lost link (R406). -/
def State.linkLost (s : State) (pa : Nat) : Bool := regionOf pa == 1 && !s.peerUp pa
/-- Whether the peer gives a negative reply: it does not export the frame (R404). -/
def peerRefuses (pa : Nat) : Bool := regionOf pa == 1 && !Config.peerExports (pa / 2 ^ 39 % 64) (frameOf pa)
/-- A request of a partition to host memory carries the requester ID of its VF (R398). -/
def State.asFunction (s : State) (p pa n : Nat) (write : Bool) : State :=
  if regionOf pa == 2 then s.send (.hostRequest (.vf p) pa n write) else s

/-! Accesses of engines by virtual address, for the copy unit, the matrix engine, the dispatcher and the homes -/

/-- Statuses of asynchronous items (R198) that a virtual access can end in. -/
inductive AccessErr | address | page (level cause : Nat) | access | poison | link
  deriving DecidableEq, Repr

/-- Whether the route of a line of bytes is lost (R405, R406). -/
def State.linkLostIn (s : State) (pa n : Nat) : Bool := (linesOf pa n).any (fun l => s.linkLost (l * 128))
/-- R30, R159, R314, R404, R406: the checks of an engine's access of n bytes in one page, in the order of R198's codes. -/
def State.engineVa (s : State) (p : Nat) (via : Option Nat) (va : DWord) (n : Nat) (write : Bool) : Except AccessErr Xlate :=
  if fieldOf va 63 56 != 0 then .error .address
  else match s.translate p via va.toNat with
    | .error (l, c) => .error (.page l c)
    | .ok x =>
      if (write && !x.w) || (!write && !x.r) then .error .access
      else if peerRefuses x.pa && !s.linkLostIn x.pa n then .error .access
      else if !write && (x.poison || s.memPoisoned x.pa n) then .error .poison
      else if s.linkLostIn x.pa n then .error .link
      else .ok x

/-- Cut [va, va + n) at 4 KiB pages: address and length of each piece (fuel: the pieces). -/
def pagePieces (fuel va n : Nat) : List (Nat × Nat) :=
  match fuel with
  | 0 => []
  | f + 1 => if n = 0 then [] else
    let k := min n (4096 - va % 4096)
    (va, k) :: pagePieces f (va + k) (n - k)

/-- The place of a failure in R198's table. -/
def AccessErr.rank (e : AccessErr) : Nat :=
  match e with
  | .page _ _ => 2
  | .access => 3
  | .address => 4
  | .poison => 6
  | .link => 15
/-- A failure of one more piece, beside those before: the first in table order stands (R198). -/
def worseVa (acc : Option (DWord × AccessErr)) (x : DWord × AccessErr) : Option (DWord × AccessErr) :=
  match acc with
  | some y => if y.2.rank ≤ x.2.rank then some y else some x
  | none => some x
/-- The failure that an access of n bytes by virtual address reports: of its pieces' failures the first in table order, with
the piece's address (R198). -/
def State.vaFailure (s : State) (p : Nat) (via : Option Nat) (va : DWord) (n : Nat) (write : Bool) : Option (DWord × AccessErr) :=
  (pagePieces (n / 4096 + 2) va.toNat n).foldl (fun acc e =>
    match s.engineVa p via (BitVec.ofNat 64 e.1) e.2 write with
    | .error x => worseVa acc (BitVec.ofNat 64 e.1, x)
    | .ok _ => acc) none
/-- The physical pieces of n bytes that pass the checks. -/
def State.vaPieces (s : State) (p : Nat) (via : Option Nat) (va : DWord) (n : Nat) (write : Bool) : List (Nat × Nat) :=
  (pagePieces (n / 4096 + 2) va.toNat n).filterMap (fun e =>
    match s.engineVa p via (BitVec.ofNat 64 e.1) e.2 write with
    | .error _ => none
    | .ok x => some (x.pa, e.2))
/-- The translations of n bytes have been made, whether they give an address or not: the walks have read their tables, and
lines read or written are accessed under the policy of their page (R309, R323). -/
def State.translatedAll (s : State) (p : Nat) (via : Option Nat) (va : DWord) (n : Nat) : State :=
  (pagePieces (n / 4096 + 2) va.toNat n).foldl (fun s e =>
    let t := s.translated p via e.1
    match s.translate p via e.1 with
    | .ok x => t.l2Policy x.pa e.2 x.cp
    | .error _ => t) s
/-- What a read of n bytes that fails leaves behind: the lines of the tables, and the lines that it did read, those that
are poisoned too (R309, R336). -/
def State.readTrace (s : State) (p : Nat) (via : Option Nat) (va : DWord) (n : Nat) : State :=
  (pagePieces (n / 4096 + 2) va.toNat n).foldl (fun t e =>
    match s.engineVa p via (BitVec.ofNat 64 e.1) e.2 false, s.translate p via e.1 with
    | .ok x, _ => t.l2Read x.pa e.2
    | .error .poison, .ok x => t.l2Read x.pa e.2
    | _, _ => t) (s.translatedAll p via va n)
/-- An engine reads n bytes by virtual address. -/
def State.readVa (s : State) (p : Nat) (via : Option Nat) (va : DWord) (n : Nat) : Except (DWord × AccessErr) (List Byte × State) :=
  match s.vaFailure p via va n false with
  | some e => .error e
  | none => .ok ((s.vaPieces p via va n false).foldl (fun acc e =>
      let r := (acc.2.asFunction p e.1 e.2 false).memFetch e.1 e.2
      (acc.1 ++ r.1, r.2)) ([], s.translatedAll p via va n))

/-- Check an engine's write of n bytes by virtual address: the pieces' physical addresses. -/
def State.checkWriteVa (s : State) (p : Nat) (via : Option Nat) (va : DWord) (n : Nat) : Except (DWord × AccessErr) (List (Nat × Nat)) :=
  match s.vaFailure p via va n true with
  | some e => .error e
  | none => .ok (s.vaPieces p via va n true)
/-- An engine writes bytes by virtual address, whole or not at all. -/
def State.writeVa (s : State) (p : Nat) (via : Option Nat) (va : DWord) (bs : List Byte) (mark : Option Nat) :
    Except (DWord × AccessErr) State :=
  match s.checkWriteVa p via va bs.length with
  | .error x => .error x
  | .ok pieces => .ok ((pieces.foldl (fun (acc : State × List Byte) e =>
      ((acc.1.asFunction p e.1 e.2 true).memEngine e.1 (acc.2.take e.2) mark, acc.2.drop e.2)) (s.translatedAll p via va bs.length, bs)).1)

/-- A read that may fail: its bytes, where it does not, and the state with the lines that it has read (R309, R336). -/
def State.tryRead (s : State) (p : Nat) (via : Option Nat) (va : DWord) (n : Nat) : Option (List Byte) × State :=
  match s.readVa p via va n with
  | .ok (b, s) => (some b, s)
  | .error _ => (none, s.readTrace p via va n)
/-- A write that may fail: whether it was made, and the state after it. -/
def State.tryWrite (s : State) (p : Nat) (via : Option Nat) (va : DWord) (bs : List Byte) (mark : Option Nat) : Bool × State :=
  match s.writeVa p via va bs mark with
  | .ok s => (true, s)
  | .error _ => (false, s.translatedAll p via va bs.length)

/-! The digest (R282) -/

def digestMix (z : DWord) : DWord :=
  let z := (z ^^^ (z >>> 31)) * 0xD6E8FEB86659FD93
  let z := (z ^^^ (z >>> 29)) * 0xA0761D6478BD642F
  z ^^^ (z >>> 32)
/-- H(a, m, d) of R282; d is the sector's 32 bytes, unmasked bytes 0. -/
def digestH (a : DWord) (m : BitVec 32) (d : List Byte) : DWord :=
  let h := (fieldOf a 55 5).zeroExtend 64 * 0x9E3779B97F4A7C15 + m.zeroExtend 64
  (List.range 4).foldl (fun h i => digestMix (h ^^^ BitVec.ofNat 64 (leNat ((d.drop (8 * i)).take 8)))) h
/-- The contribution of a write of bytes at address a, sector by sector. -/
def digestOf (a : Nat) (bs : List Byte) : DWord :=
  let n := bs.length
  if n = 0 then 0 else
  (List.range ((a + n - 1) / 32 - a / 32 + 1)).foldl (fun w i =>
    let base := (a / 32 + i) * 32
    let inside := fun k => decide (a ≤ base + k) && decide (base + k < a + n)
    let m := (List.range 32).foldl (fun m k => if inside k then m ||| (1#32 <<< k) else m) 0#32
    let d := (List.range 32).map (fun k => if inside k then bs.getD (base + k - a) 0 else 0)
    w + digestH (BitVec.ofNat 64 base) m d) 0
/-- A committed store of a workgroup adds to its digest in RECORD and CHECK mode, outside handler mode (R269, R282). -/
def State.digestStore (s : State) (g : Nat) (a : Nat) (bs : List Byte) (quiet : Bool) : State :=
  if quiet then s
  else match (s.wg g).bind (fun w => s.launchOf w) with
    | some l => if 2 ≤ l.det then s.onWg g (fun w => { w with digest := w.digest + digestOf a bs }) else s
    | none => s

end Sys2Proof.Machine
end

