-- ==== Sys2Proof/Machine/Num.lean ====
section
/-! DEFINITION. Number formats: exact values, decoding and conversion (R42-R69), the accumulator format, and the
scalar arithmetic of R71, R139 and R140 on exact values. -/
namespace Sys2Proof.Machine

/-- An exact value: NaN, an infinity, or (-1)^neg x m x 2^e; m = 0 is a zero with its sign (R71). An odd m may stand for
a value strictly between its neighbours where a quotient, a root or a series has been cut far below any rounding. -/
inductive Val | nan | inf (neg : Bool) | fin (neg : Bool) (m : Nat) (e : Int)
  deriving DecidableEq, Repr

/-- Float exceptions as %fpflags orders them: NV, DZ, OF, UF, NX in bits 0 to 4 (R26). -/
abbrev Flags := BitVec 5
def flagNV : Flags := 1
def flagDZ : Flags := 2
def flagOF : Flags := 4
def flagUF : Flags := 8
def flagNX : Flags := 16

def Val.zero (neg : Bool) : Val := .fin neg 0 0
def Val.isZero (v : Val) : Bool :=
  match v with
  | .fin _ 0 _ => true
  | _ => false
def Val.neg (v : Val) : Val :=
  match v with
  | .nan => .nan
  | .inf s => .inf (!s)
  | .fin s m e => .fin (!s) m e
def Val.sign (v : Val) : Bool :=
  match v with
  | .nan => false
  | .inf s => s
  | .fin s _ _ => s
/-- floor(log2 |v|) of a non-zero finite value. -/
def Val.log2 (m : Nat) (e : Int) : Int := (Nat.log2 m : Int) + e
/-- An integer as a value. -/
def Val.ofInt (i : Int) : Val := .fin (decide (i < 0)) i.natAbs 0

/-- The exact product (R71) and whether it raises NV. -/
def Val.mul (a b : Val) : Val × Bool :=
  match a, b with
  | .nan, _ => (.nan, false)
  | _, .nan => (.nan, false)
  | .inf s, .inf t => (.inf (s != t), false)
  | .inf s, .fin t m _ => if m = 0 then (.nan, true) else (.inf (s != t), false)
  | .fin s m _, .inf t => if m = 0 then (.nan, true) else (.inf (s != t), false)
  | .fin s m e, .fin t n f => (.fin (s != t) (m * n) (if m * n = 0 then 0 else e + f), false)

/-- A finite value as an integer multiple of 2^q, for q at most its exponent. -/
def scaled (s : Bool) (m : Nat) (e q : Int) : Int :=
  let k : Int := ((m * 2 ^ (e - q).toNat : Nat) : Int)
  if s then -k else k

/-- The exact sum (R71) and whether it raises NV. -/
def Val.add (a b : Val) : Val × Bool :=
  match a, b with
  | .nan, _ => (.nan, false)
  | _, .nan => (.nan, false)
  | .inf s, .inf t => if s = t then (.inf s, false) else (.nan, true)
  | .inf s, .fin _ _ _ => (.inf s, false)
  | .fin _ _ _, .inf t => (.inf t, false)
  | .fin s m e, .fin t n f =>
    if m = 0 ∧ n = 0 then (.zero (s && t), false)
    else if m = 0 then (.fin t n f, false)
    else if n = 0 then (.fin s m e, false)
    else
      let q := min e f
      let k := scaled s m e q + scaled t n f q
      (if k = 0 then .zero false else .fin (decide (k < 0)) k.natAbs q, false)

/-- Compare finite values: a < b, a = b, a > b. -/
def cmpFin (s : Bool) (m : Nat) (e : Int) (t : Bool) (n : Nat) (f : Int) : Ordering :=
  let q := min e f
  compare (scaled s m e q) (scaled t n f q)
/-- Numeric order; none where an operand is NaN (R136). -/
def Val.cmp (a b : Val) : Option Ordering :=
  match a, b with
  | .nan, _ => none
  | _, .nan => none
  | .inf s, .inf t => some (if s = t then .eq else if s then .lt else .gt)
  | .inf s, .fin _ _ _ => some (if s then .lt else .gt)
  | .fin _ _ _, .inf t => some (if t then .gt else .lt)
  | .fin s m e, .fin t n f => some (if m = 0 ∧ n = 0 then .eq else if m = 0 then (if t then .gt else .lt)
      else if n = 0 then (if s then .lt else .gt) else cmpFin s m e t n f)

/-! Rounding (R61) -/

/-- Where a cut magnitude lies between its neighbours. -/
inductive Rest | exact | low | half | high
  deriving DecidableEq, Repr

/-- m x 2^e cut to a multiple of 2^q. -/
def cutAt (m : Nat) (e q : Int) : Nat × Rest :=
  if q ≤ e then (m * 2 ^ (e - q).toNat, .exact)
  else
    let k := (q - e).toNat
    if Nat.log2 m + 1 < k then (0, if m = 0 then .exact else .low)
    else
      let r := m % 2 ^ k
      let h := 2 ^ (k - 1)
      (m / 2 ^ k, if r = 0 then .exact else if r < h then .low else if r = h then .half else .high)

/-- Whether the mode takes the next greater magnitude; `odd`: the lower candidate's code is odd. -/
def roundsUp (mode : BitVec 2) (neg : Bool) (rest : Rest) (odd : Bool) : Bool :=
  match rest with
  | .exact => false
  | r =>
    match mode.toNat with
    | 0 => r == .high || (r == .half && odd)
    | 1 => false
    | 2 => neg
    | _ => !neg

/-! Float and scale formats (R45, R47, R48) -/

/-- A float or scale format: exponent and fraction bits, bias, the largest finite code of the magnitude, kind. -/
structure FloatFmt where
  ebits  : Nat
  mbits  : Nat
  bias   : Int
  maxc   : Nat
  /-- Infinities and NaNs under the all-ones exponent. -/
  ieee   : Bool
  signed : Bool
  /-- The canonical NaN's magnitude code; none where the format has no NaN. -/
  nan    : Option Nat
  /-- Spare bits below the value field (F19). -/
  shift  : Nat
  deriving DecidableEq, Repr

/-- The float and scale formats by their codes of R42. -/
def floatFmt (f : Fmt) : Option FloatFmt :=
  match f.toNat with
  | 0 => some ⟨8, 23, 127, 0x7F7FFFFF, true, true, some 0x7FC00000, 0⟩
  | 1 => some ⟨8, 10, 127, 0x3FBFF, true, true, some 0x3FE00, 13⟩
  | 2 => some ⟨5, 10, 15, 0x7BFF, true, true, some 0x7E00, 0⟩
  | 3 => some ⟨8, 7, 127, 0x7F7F, true, true, some 0x7FC0, 0⟩
  | 4 => some ⟨5, 2, 15, 0x7B, true, true, some 0x7E, 0⟩
  | 5 => some ⟨4, 3, 7, 0x7E, false, true, some 0x7F, 0⟩
  | 6 => some ⟨3, 4, 3, 0x7F, false, true, none, 0⟩
  | 7 => some ⟨2, 5, 1, 0x7F, false, true, none, 0⟩
  | 8 => some ⟨3, 2, 3, 0x1F, false, true, none, 0⟩
  | 9 => some ⟨2, 3, 1, 0x1F, false, true, none, 0⟩
  | 10 => some ⟨2, 1, 1, 7, false, true, none, 0⟩
  | 11 => some ⟨3, 0, 3, 7, false, true, none, 0⟩
  | 13 => some ⟨5, 3, 15, 0xFE, false, false, some 0xFF, 0⟩
  | 14 => some ⟨4, 4, 7, 0xFE, false, false, some 0xFF, 0⟩
  | 15 => some ⟨4, 3, 7, 0x7E, false, false, some 0x7F, 0⟩
  | _ => none

/-- The magnitude of a float code (R46). -/
def magVal (p : FloatFmt) (neg : Bool) (c : Nat) : Val :=
  let e := c / 2 ^ p.mbits
  let f := c % 2 ^ p.mbits
  if e = 0 then (if f = 0 then .zero neg else .fin neg f (1 - p.bias - p.mbits))
  else .fin neg (2 ^ p.mbits + f) ((e : Int) - p.bias - p.mbits)

/-- Decode a float or scale element (R44-R48). -/
def decFloatVal (p : FloatFmt) (raw : Nat) : Val :=
  let v := raw / 2 ^ p.shift
  let c := v % 2 ^ (p.ebits + p.mbits)
  let neg := p.signed && (v / 2 ^ (p.ebits + p.mbits)) % 2 == 1
  if p.ieee && c / 2 ^ p.mbits == 2 ^ p.ebits - 1 then (if c % 2 ^ p.mbits = 0 then .inf neg else .nan)
  else if !p.ieee && p.nan == some c then .nan
  else magVal p neg c

/-- The monotone code of n x 2^q as a magnitude of the format. -/
def magCode (p : FloatFmt) (n : Nat) (q : Int) : Int :=
  if n < 2 ^ p.mbits then (n : Int) else (q + p.mbits + p.bias) * (2 ^ p.mbits : Nat) + ((n : Int) - (2 ^ p.mbits : Nat))

/-- Round a magnitude to the format, exponents unbounded above: its code, and whether it is inexact (R61, R64). -/
def roundMag (p : FloatFmt) (mode : BitVec 2) (neg : Bool) (m : Nat) (e : Int) : Int × Bool :=
  let q := max (Val.log2 m e - p.mbits) (1 - p.bias - p.mbits)
  let (n, r) := cutAt m e q
  let c := magCode p n q
  (if roundsUp mode neg r (c % 2 == 1) then c + 1 else c, r != .exact)

/-- R64: tiny, the source rounded with the exponent range unbounded below lies below the smallest normal. -/
def isTiny (p : FloatFmt) (mode : BitVec 2) (neg : Bool) (m : Nat) (e : Int) : Bool :=
  let q := Val.log2 m e - p.mbits
  let (n, r) := cutAt m e q
  let c := (q + p.mbits + p.bias) * (2 ^ p.mbits : Nat) + ((n : Int) - (2 ^ p.mbits : Nat))
  let c := if roundsUp mode neg r (c % 2 == 1) then c + 1 else c
  decide (c < (2 ^ p.mbits : Nat))

/-- A magnitude code with its sign, as stored (R44). -/
def packFloat (p : FloatFmt) (neg : Bool) (c : Nat) : Nat :=
  (c + (if p.signed && neg then 2 ^ (p.ebits + p.mbits) else 0)) * 2 ^ p.shift

/-- R64-R66: conversion to a float format, or to a scale format with a zero. -/
def encFloat (p : FloatFmt) (mode : BitVec 2) (v : Val) : Nat × Flags :=
  match v with
  | .nan => match p.nan with
    | some c => (c * 2 ^ p.shift, 0)
    | none => (0, flagNV)
  | .inf s =>
    if p.ieee then (packFloat p s ((2 ^ p.ebits - 1) * 2 ^ p.mbits), 0)
    else if !p.signed && s then (0, flagNV)
    else (packFloat p s p.maxc, flagNV)
  | .fin s m e =>
    if m = 0 then (packFloat p s 0, 0)
    else if !p.signed && s then (0, flagNV)
    else
      let (c, inexact) := roundMag p mode s m e
      if c > p.maxc then
        let toInf := match mode.toNat with
          | 0 => true
          | 1 => false
          | 2 => s
          | _ => !s
        (packFloat p s (if p.ieee && toInf then (2 ^ p.ebits - 1) * 2 ^ p.mbits else p.maxc), flagOF ||| flagNX)
      else
        let fl := if inexact then flagNX ||| (if isTiny p mode s m e then flagUF else 0) else 0
        (packFloat p s c.toNat, fl)

/-- R66: conversion to UE8M0, the powers of two 2^-127 to 2^127. -/
def encUe8m0 (mode : BitVec 2) (v : Val) : Nat × Flags :=
  match v with
  | .nan => (0xFF, 0)
  | .inf s => if s then (0xFF, flagNV) else (0xFE, flagNV)
  | .fin s m e =>
    if m = 0 ∨ s then (0xFF, flagNV)
    else
      let k := Val.log2 m e
      if k < -127 then (0, flagUF ||| flagNX)
      else
        let (_, r) := cutAt m e k
        let c := k + 127
        let c := if roundsUp mode false r (c % 2 == 1) then c + 1 else c
        if c > 254 then (0xFE, flagOF ||| flagNX) else (c.toNat, if r == .exact then 0 else flagNX)

/-! Integer formats (R49, R50, R67) -/

/-- Width and range of an integer format. -/
def intFmt (f : Fmt) : Option (Nat × Int × Int) :=
  match f.toNat with
  | 16 => some (16, -32768, 32767)
  | 17 => some (8, -128, 127)
  | 18 => some (8, 0, 255)
  | 19 => some (4, -8, 7)
  | 20 => some (4, 0, 15)
  | 21 => some (2, -2, 1)
  | 22 => some (2, 0, 3)
  | 24 => some (1, 0, 1)
  | 25 => some (2, -1, 1)
  | _ => none

/-- Decode an integer element; T2 0b10 is 0 with NV (R49, R50). -/
def decInt' (f : Fmt) (w : Nat) (lo : Int) (raw : Nat) : Val × Bool :=
  let c : Nat := raw % 2 ^ w
  if f = 25 ∧ c = 2 then (.zero false, true)
  else if lo < 0 ∧ c ≥ 2 ^ (w - 1) then (Val.ofInt ((c : Int) - (2 ^ w : Nat)), false)
  else (Val.ofInt c, false)

/-- R67: conversion to an integer format. -/
def encInt (w : Nat) (lo hi : Int) (mode : BitVec 2) (v : Val) : Nat × Flags :=
  let code := fun (i : Int) => (i % (2 ^ w : Nat)).toNat
  match v with
  | .nan => (0, flagNV)
  | .inf s => (code (if s then lo else hi), flagNV)
  | .fin s m e =>
    if m = 0 then (0, 0)
    else if v.cmp (Val.ofInt lo) = some .lt then (code lo, flagNV)
    else if v.cmp (Val.ofInt hi) = some .gt then (code hi, flagNV)
    else
      let (n, r) := cutAt m e 0
      let n := if roundsUp mode s r (n % 2 == 1) then n + 1 else n
      (code (if s then -(n : Int) else n), if r == .exact then 0 else flagNX)

/-- R67: conversion to BIN1. -/
def encBin1 (mode : BitVec 2) (v : Val) : Nat × Flags :=
  match v with
  | .nan => (0, flagNV)
  | .inf s => (if s then 1 else 0, flagNV)
  | .fin s m e =>
    match v.cmp (Val.ofInt (if s then -1 else 1)) with
    | some .eq => (if s then 1 else 0, 0)
    | some o =>
      if m ≠ 0 ∧ ((s = false ∧ o = .gt) ∨ (s = true ∧ o = .lt)) then (if s then 1 else 0, flagNV)
      else
        let neg := match mode.toNat with
          | 2 => true
          | 3 => false
          | _ => decide (m ≠ 0) && s
        ((if neg then 1 else 0), (if e = e then flagNX else 0))
    | none => (0, flagNV)

/-! Codebook formats (R51, R52, R68): levels in units of 1/512 -/

def levels (f : Fmt) : Option (List Int) :=
  match f.toNat with
  | 26 => some [-512, -352, -260, -192, -136, -86, -41, 0, 36, 72, 112, 156, 208, 272, 360, 512]
  | 27 => some [-512, -328, -224, -156, -108, -72, -36, 0, 32, 68, 104, 144, 192, 256, 352, 512]
  | 28 => some [-512, -272, -128, 0, 96, 208, 336, 512]
  | 29 => some [-512, -152, 152, 512]
  | _ => none

/-- A level as a value; the level 0.0 is +0. -/
def levelVal (k : Int) : Val := if k = 0 then .zero false else .fin (decide (k < 0)) k.natAbs (-9)

/-- The index of the greatest level not above v (ascending levels, from index i). -/
def levelBelow (l : List Int) (i : Nat) (v : Val) (best : Nat) : Nat :=
  match l with
  | [] => best
  | k :: t => if (levelVal k).cmp v = some .gt then best else levelBelow t (i + 1) v i

/-- R68: conversion to a codebook format with levels l. -/
def encLevel (l : List Int) (mode : BitVec 2) (v : Val) : Nat × Flags :=
  let last := l.length - 1
  let zeroIx := if l.contains 0 then l.idxOf 0 else 2
  match v with
  | .nan => (zeroIx, flagNV)
  | .inf s => (if s then 0 else last, flagNV)
  | .fin s m e =>
    if m = 0 ∧ l.contains 0 then (zeroIx, 0)
    else if v.cmp (levelVal (l.headD 0)) = some .lt then (0, flagOF ||| flagNX)
    else if v.cmp (levelVal (l.getD last 0)) = some .gt then (last, flagOF ||| flagNX)
    else
      let i := levelBelow l 0 v 0
      let lo := levelVal (l.getD i 0)
      if v.cmp lo = some .eq then (i, 0)
      else
        let hi := levelVal (l.getD (i + 1) 0)
        let twice := (Val.fin s m (e + 1))
        let mid := (lo.add hi).1
        let nearest := match (twice.cmp mid) with
          | some .lt => i
          | some .gt => i + 1
          | _ => if i % 2 = 0 then i else i + 1
        let pick := match mode.toNat with
          | 0 => nearest
          | 1 => if lo.sign && !hi.isZero && !hi.sign then nearest else if s then i + 1 else i
          | 2 => i
          | _ => i + 1
        (pick, flagNX)

/-! Logarithmic formats (R53, R69): T in units of 1/128 -/

def lnsT (k : Nat) : Nat := [128, 140, 152, 166, 181, 197, 215, 235].getD k 128
/-- The magnitude of a logarithm L. -/
def lnsVal (eight : Bool) (neg : Bool) (L : Int) : Val :=
  if eight then (if L = -64 then .zero neg else .fin neg (lnsT (L % 8).toNat) (L / 8 - 7))
  else (if L = -4 then .zero neg else .fin neg (lnsT (4 * (L % 2)).toNat) (L / 2 - 7))
/-- Decode an LNS element. -/
def decLns (eight : Bool) (raw : Nat) : Val :=
  let w : Nat := if eight then 7 else 3
  let c : Nat := raw % 2 ^ w
  lnsVal eight ((raw / 2 ^ w) % 2 == 1) (if c ≥ 2 ^ (w - 1) then (c : Int) - (2 ^ w : Nat) else c)
/-- Search the greatest logarithm whose magnitude is at most |v|, from L up (fuel). -/
def lnsBelow (fuel : Nat) (eight : Bool) (L : Int) (v : Val) : Int :=
  match fuel with
  | 0 => L
  | f + 1 => if (lnsVal eight false (L + 1)).cmp v = some .gt then L else lnsBelow f eight (L + 1) v
/-- R69: conversion to an LNS format. -/
def encLns (eight : Bool) (mode : BitVec 2) (v : Val) : Nat × Flags :=
  let w : Nat := if eight then 7 else 3
  let top : Int := if eight then 63 else 3
  let zero : Int := if eight then -64 else -4
  let code := fun (s : Bool) (L : Int) => (L % (2 ^ w : Nat)).toNat + (if s then 2 ^ w else 0)
  match v with
  | .nan => (code false zero, flagNV)
  | .inf s => (code s top, flagNV)
  | .fin s m e =>
    if m = 0 then (code s zero, 0)
    else
      let a := Val.fin false m e
      if a.cmp (lnsVal eight false top) = some .gt then (code s top, flagOF ||| flagNX)
      else
        let L := lnsBelow 127 eight zero a
        let lo := lnsVal eight false L
        if a.cmp lo = some .eq then (code s L, 0)
        else
          let mid := (lo.add (lnsVal eight false (L + 1))).1
          let up := match mode.toNat with
            | 0 => match (Val.fin false m (e + 1)).cmp mid with
              | some .lt => false
              | some .gt => true
              | _ => L % 2 == 1 && L != zero
            | 1 => false
            | 2 => s
            | _ => !s
          let fl := if L = zero then flagUF ||| flagNX else flagNX
          (code s (if up then L + 1 else L), fl)

/-! The formats of R42 together -/

/-- Storage bits (R42). -/
def storageBits (f : Fmt) : Nat :=
  [32, 32, 16, 16, 8, 8, 8, 8, 8, 8, 4, 4, 8, 8, 8, 8, 16, 8, 8, 4, 4, 2, 2, 1, 1, 2, 4, 4, 4, 2, 8, 4].getD f.toNat 8

/-- Decode an element from its storage bits; the flag is NV of T2 0b10 (R50). -/
def decodeFmt (f : Fmt) (raw : Nat) : Val × Bool :=
  match floatFmt f with
  | some p => (decFloatVal p raw, false)
  | none => match intFmt f with
    | some (w, lo, _) => decInt' f w lo raw
    | none => match levels f with
      | some l => (levelVal (l.getD (raw % l.length) 0), false)
      | none => match f.toNat with
        | 12 => (if raw % 256 = 255 then .nan else .fin false 1 (Int.ofNat (raw % 256) - 127), false)
        | 23 => (Val.ofInt (if raw % 2 = 0 then 1 else -1), false)
        | 30 => (decLns true raw, false)
        | _ => (decLns false raw, false)

/-- to_format(x, fmt, mode): the element's storage bits and the flags (R63-R69). -/
def toFormat (f : Fmt) (mode : BitVec 2) (v : Val) : Nat × Flags :=
  match floatFmt f with
  | some p => encFloat p mode v
  | none => match intFmt f with
    | some (w, lo, hi) => encInt w lo hi mode v
    | none => match levels f with
      | some l => encLevel l mode v
      | none => match f.toNat with
        | 12 => encUe8m0 mode v
        | 23 => encBin1 mode v
        | 30 => encLns true mode v
        | _ => encLns false mode v

/-- Element i of packed storage (R43). -/
def elemAt (f : Fmt) (bs : List Byte) (i : Nat) : Nat :=
  let w := storageBits f
  if 8 ≤ w then leNat ((bs.drop (i * (w / 8))).take (w / 8))
  else (bs.getD (i * w / 8) 0).toNat / 2 ^ (i * w % 8) % 2 ^ w

/-- Bytes that n packed elements occupy (R43). -/
def packedBytes (f : Fmt) (n : Nat) : Nat := (n * storageBits f + 7) / 8

/-- Pack elements (R43); bits past the last element are zero. -/
def packElems (f : Fmt) (l : List Nat) : List Byte :=
  leBytes (packedBytes f l.length) ((l.zipIdx).foldl (fun a e => a + e.1 % 2 ^ storageBits f * 2 ^ (e.2 * storageBits f)) 0)

/-! FP32 and 16-bit scalars -/

def fp32 : Fmt := 0
def ofFp32 (w : Word) : Val := decFloatVal ⟨8, 23, 127, 0x7F7FFFFF, true, true, some 0x7FC00000, 0⟩ w.toNat
/-- Round a value into FP32 (R64). -/
def toFp32 (mode : BitVec 2) (v : Val) : Word × Flags :=
  let r := encFloat ⟨8, 23, 127, 0x7F7FFFFF, true, true, some 0x7FC00000, 0⟩ mode v
  (BitVec.ofNat 32 r.1, r.2)
/-- fp32_add_rne (R171). -/
def fp32AddRne (a b : Word) : Word := (toFp32 0 ((ofFp32 a).add (ofFp32 b)).1).1

def nvFlag (b : Bool) : Flags := if b then flagNV else 0

/-- An exact zero sum of opposite signs is -0 under RDN (R139). -/
def sumSign (mode : BitVec 2) (a b : Val) (r : Val) : Val :=
  match r with
  | .fin _ 0 _ => if mode == 2 && (a.sign || b.sign) then .zero true else r
  | _ => r

/-- The element operations of R139 and R142 on exact operands: value before rounding, and flags. -/
def fAdd (mode : BitVec 2) (a b : Val) : Val × Flags :=
  let r := a.add b
  (sumSign mode a b r.1, nvFlag r.2)
def fMul (a b : Val) : Val × Flags :=
  let r := a.mul b
  (r.1, nvFlag r.2)
/-- a x b + d: the product's NV stands even when d is NaN (R139). -/
def fFma (mode : BitVec 2) (a b d : Val) : Val × Flags :=
  let p := a.mul b
  let r := p.1.add d
  (sumSign mode p.1 d r.1, nvFlag (p.2 || r.2))
/-- a / b (R139). -/
def fDiv (a b : Val) : Val × Flags :=
  match a, b with
  | .nan, _ => (.nan, 0)
  | _, .nan => (.nan, 0)
  | .inf _, .inf _ => (.nan, flagNV)
  | .inf s, .fin t _ _ => (.inf (s != t), 0)
  | .fin s _ _, .inf t => (.zero (s != t), 0)
  | .fin s m e, .fin t n f =>
    if n = 0 then (if m = 0 then (.nan, flagNV) else (.inf (s != t), flagDZ))
    else if m = 0 then (.zero (s != t), 0)
    else
      let q := m * 2 ^ 80 / n
      let j := if m * 2 ^ 80 % n = 0 then 0 else 1
      (.fin (s != t) (2 * q + j) (e - f - 81), 0)

/-- The greatest r with r x r at most n (fuel: bits of the root). -/
def isqrtGo (bits n r : Nat) : Nat :=
  match bits with
  | 0 => r
  | b + 1 => if (r + 2 ^ b) * (r + 2 ^ b) ≤ n then isqrtGo b n (r + 2 ^ b) else isqrtGo b n r
def isqrt (n : Nat) : Nat := isqrtGo (Nat.log2 n / 2 + 1) n 0

/-- The square root of a (R139). -/
def fSqrt (a : Val) : Val × Flags :=
  match a with
  | .nan => (.nan, 0)
  | .inf s => if s then (.nan, flagNV) else (.inf false, 0)
  | .fin s m e =>
    if m = 0 then (.zero s, 0)
    else if s then (.nan, flagNV)
    else
      let odd := e % 2 == 1
      let n := (if odd then 2 * m else m) * 2 ^ 80
      let k := (if odd then e - 1 else e) / 2
      let r := isqrt n
      (.fin false (2 * r + (if r * r = n then 0 else 1)) (k - 41), 0)

/-- FMIN (R139): one NaN gives the other operand, -0 < +0. -/
def fMin (a b : Val) : Val :=
  match a.cmp b with
  | none => match a, b with
    | .nan, y => y
    | x, _ => x
  | some .lt => a
  | some .gt => b
  | some .eq => if a.sign then a else b
/-- FMAX (R139). -/
def fMax (a b : Val) : Val :=
  match a.cmp b with
  | none => match a, b with
    | .nan, y => y
    | x, _ => x
  | some .lt => b
  | some .gt => a
  | some .eq => if a.sign then b else a

/-! Special functions (R140). Fixed point with 640 fraction bits; the argument and result ranges of FP32 leave more
than 400 bits below any rounding. -/

def fxBits : Nat := 640
def fxOne : Nat := 2 ^ fxBits
/-- floor(pi x 2^640). -/
def fxPi : Nat := 0x3243f6a8885a308d313198a2e03707344a4093822299f31d0082efa98ec4e6c89452821e638d01377be5466cf34e90c6cc0ac29b7c97c50dd3f84d5b5b54709179216d5d98979fb1bd1310ba698dfb5ac
/-- floor(ln 2 x 2^640). -/
def fxLn2 : Nat := 0xb17217f7d1cf79abc9e3b39803f2f6af40f343267298b62d8a0d175b8baafa2be7b876206debac98559552fb4afa1b10ed2eae35c138214427573b291169b8253e96ca16224ae8c51acbda11317c387e

/-- sum of z^k / k! terms from term t = z^k / k! on (fuel). -/
def expGo (fuel k t z acc : Nat) : Nat :=
  match fuel with
  | 0 => acc
  | f + 1 => expGo f (k + 1) (t * z / fxOne / (k + 1)) z (acc + t)
/-- e^z for 0 ≤ z < 1. -/
def fxExp (z : Nat) : Nat := expGo 160 0 fxOne z 0
/-- alternating series: sine terms from t = x^k / k! (fuel). -/
def sinGo (fuel k t x2 : Nat) (plus : Bool) (acc : Int) : Int :=
  match fuel with
  | 0 => acc
  | f + 1 => sinGo f (k + 2) (t * x2 / fxOne / ((k + 1) * (k + 2))) x2 (!plus) (if plus then acc + t else acc - t)
/-- sin(pi r) for 0 ≤ r ≤ 1/2. -/
def fxSinPi (r : Nat) : Nat := let x := fxPi * r / fxOne; (sinGo 100 1 x (x * x / fxOne) true 0).toNat
/-- cos(pi r) for 0 ≤ r ≤ 1/2. -/
def fxCosPi (r : Nat) : Nat := let x := fxPi * r / fxOne; (sinGo 100 0 fxOne (x * x / fxOne) true 0).toNat
/-- atanh series: z^k / k terms (fuel). -/
def atanhGo (fuel k t z2 acc : Nat) : Nat :=
  match fuel with
  | 0 => acc
  | f + 1 => atanhGo f (k + 2) (t * z2 / fxOne) z2 (acc + t / k)
/-- ln(y) for 1 ≤ y < 2. -/
def fxLn (y : Nat) : Nat :=
  let z := (y - fxOne) * fxOne / (y + fxOne)
  2 * atanhGo 220 1 z (z * z / fxOne) 0
/-- A fixed-point magnitude that is not a representable value, as a value. -/
def jammed (neg : Bool) (x : Nat) : Val := .fin neg (2 * x + 1) (-(fxBits : Int) - 1)
/-- Just below one. -/
def belowOne (neg : Bool) : Val := .fin neg (2 ^ 200 - 1) (-200)
/-- Below every format's range, and above it. -/
def tinyVal (neg : Bool) : Val := .fin neg 1 (-400)
def hugeVal (neg : Bool) : Val := .fin neg 1 400
/-- |a| as fixed point, for |a| < 2^200. -/
def fxOf (m : Nat) (e : Int) : Nat := if 0 ≤ e + fxBits then m * 2 ^ (e + fxBits).toNat else m / 2 ^ (-(e + fxBits)).toNat
/-- e^-y for a fixed-point y below 2^7. -/
def fxExpNeg (y : Nat) : Nat :=
  let i := y / fxLn2
  let f := y % fxLn2
  (fxOne * fxOne / fxExp f) / 2 ^ i

/-- 2^a (R140). -/
def fExp2 (a : Val) : Val × Flags :=
  match a with
  | .nan => (.nan, 0)
  | .inf s => (if s then .zero false else .inf false, 0)
  | .fin s m e =>
    if m = 0 then (.fin false 1 0, 0)
    else if Val.log2 m e ≥ 9 then (if s then tinyVal false else hugeVal false, 0)
    else
      let x := fxOf m e
      let i := x / fxOne
      let f := x % fxOne
      if f = 0 then (.fin false 1 (if s then -(i : Int) else i), 0)
      else
        let z := if s then fxOne - f else f
        let k : Int := if s then -(i : Int) - 1 else i
        let y := fxExp (fxLn2 * z / fxOne)
        (.fin false (2 * y + 1) (k - fxBits - 1), 0)

/-- log2 a (R140). -/
def fLog2 (a : Val) : Val × Flags :=
  match a with
  | .nan => (.nan, 0)
  | .inf s => if s then (.nan, flagNV) else (.inf false, 0)
  | .fin s m e =>
    if m = 0 then (.inf true, flagDZ)
    else if s then (.nan, flagNV)
    else
      let k := Val.log2 m e
      if m = 2 ^ Nat.log2 m then (Val.ofInt k, 0)
      else
        let y := fxOf m (-(Nat.log2 m : Int))
        let l : Int := ((fxLn y * fxOne / fxLn2 : Nat) : Int) + k * (fxOne : Nat)
        (if l < 0 then jammed true (-l - 1).toNat else jammed false l.toNat, 0)

/-- Reduce |a| modulo 2 in units of 2^-640 (R140: exact). -/
def halfTurns (m : Nat) (e : Int) : Nat := if e ≥ 1 then 0 else fxOf m e % (2 * fxOne)

/-- sin(pi x) of a fixed-point x in [0, 2): sign, and the magnitude, exact or not. -/
def sinTurn (x : Nat) : Bool × Nat × Bool :=
  let neg := decide (x ≥ fxOne)
  let r := x % fxOne
  let r := if 2 * r > fxOne then fxOne - r else r
  if r = 0 then (neg, 0, true)
  else if 2 * r = fxOne then (neg, fxOne, true)
  else if 4 * r > fxOne then (neg, fxCosPi (fxOne / 2 - r), false)
  else (neg, fxSinPi r, false)

/-- sin(pi a) (R140). -/
def fSin (a : Val) : Val × Flags :=
  match a with
  | .nan => (.nan, 0)
  | .inf _ => (.nan, flagNV)
  | .fin s m e =>
    if m = 0 then (.zero s, 0)
    else
      let (n, v, ex) := sinTurn (halfTurns m e)
      if ex then (if v = 0 then .zero s else .fin (s != n) 1 0, 0) else (jammed (s != n) v, 0)
/-- cos(pi a) (R140): cos(pi x) = sin(pi (x + 1/2)). -/
def fCos (a : Val) : Val × Flags :=
  match a with
  | .nan => (.nan, 0)
  | .inf _ => (.nan, flagNV)
  | .fin _ m e =>
    let (n, v, ex) := sinTurn ((halfTurns m e + fxOne / 2) % (2 * fxOne))
    if ex then (if v = 0 then .zero false else .fin n 1 0, 0) else (jammed n v, 0)
/-- tanh a (R140). -/
def fTanh (a : Val) : Val × Flags :=
  match a with
  | .nan => (.nan, 0)
  | .inf s => (.fin s 1 0, 0)
  | .fin s m e =>
    if m = 0 then (.zero s, 0)
    else if Val.log2 m e ≥ 5 then (belowOne s, 0)
    else
      let u := fxExpNeg (2 * fxOf m e)
      (jammed s ((fxOne - u) * fxOne / (fxOne + u)), 0)
/-- 1 / (1 + e^-a) (R140). -/
def fSigm (a : Val) : Val × Flags :=
  match a with
  | .nan => (.nan, 0)
  | .inf s => (if s then .zero false else .fin false 1 0, 0)
  | .fin s m e =>
    if m = 0 then (.fin false 1 (-1), 0)
    else if Val.log2 m e ≥ 7 then (if s then tinyVal false else belowOne false, 0)
    else
      let u := fxExpNeg (fxOf m e)
      (jammed false (if s then u * fxOne / (fxOne + u) else fxOne * fxOne / (fxOne + u)), 0)
/-- 1 / a (R140). -/
def fRcp (a : Val) : Val × Flags := fDiv (.fin false 1 0) a
/-- 1 / sqrt a (R140). -/
def fRsq (a : Val) : Val × Flags :=
  match a with
  | .nan => (.nan, 0)
  | .inf s => if s then (.nan, flagNV) else (.zero false, 0)
  | .fin s m e =>
    if m = 0 then (.inf s, flagDZ)
    else if s then (.nan, flagNV)
    else
      let odd := e % 2 == 1
      let n := if odd then 2 * m else m
      let k := (if odd then e - 1 else e) / 2
      let r := isqrt (2 ^ 160 / n)
      (.fin false (2 * r + (if r * r * n = 2 ^ 160 then 0 else 1)) (-k - 81), 0)

/-! The accumulator format (R55-R60); the data word of 35 bits -/

/-- acc_round (R73). -/
def accRound (v : Val) : Val :=
  match v with
  | .fin s m e =>
    if m = 0 then .zero s
    else
      let q := Val.log2 m e - 24
      let (n, r) := cutAt m e q
      let n := if roundsUp 0 s r (n % 2 == 1) then n + 1 else n
      let k := Val.log2 n q
      if k ≥ 512 then .inf s else if k < -510 then .zero s else .fin s n q
  | v => v
/-- The data word of a value that accRound has rounded (R56). -/
def accEncode (v : Val) : BitVec 35 :=
  match v with
  | .nan => 0x3FF800000
  | .inf s => BitVec.ofNat 35 (1023 * 2 ^ 24 + if s then 2 ^ 34 else 0)
  | .fin s m e =>
    let sg := if s then 2 ^ 34 else 0
    if m = 0 then BitVec.ofNat 35 sg
    else
      let k := Val.log2 m e
      let (n, _) := cutAt m e (k - 24)
      BitVec.ofNat 35 ((k + 511).toNat * 2 ^ 24 + n % 2 ^ 24 + sg)
/-- The value of a data word (R56). -/
def accDecode (w : BitVec 35) : Val :=
  let s := w.getLsbD 34
  let e := (fieldOf w 33 24).toNat
  let f := (fieldOf w 23 0).toNat
  if e = 0 then .zero s
  else if e = 1023 then (if f = 0 then .inf s else .nan)
  else .fin s (2 ^ 24 + f) ((e : Int) - 511 - 24)
/-- The 8-byte raw image (R60). -/
def accImage (w : BitVec 35) : List Byte := (List.range 8).map (fun i => BitVec.ofNat 8 (w.toNat / 2 ^ (8 * i)))
/-- Read an image: bits [63:35] are ignored (R60). -/
def accOfImage (n : Nat) : BitVec 35 := BitVec.ofNat 35 n

/-! The canonical order (R72-R75) -/

/-- Align one magnitude into the window, jamming (R72). -/
def jamAt (s : Bool) (m : Nat) (e lsb : Int) : Int :=
  let (n, r) := cutAt m e lsb
  let n := if r = .exact then n else if n % 2 = 0 then n + 1 else n
  if s then -(n : Int) else n

/-- chunk_sum (R72) of the present products of a chunk, in position order; with NV. -/
def chunkSum (q : List Val) : Val × Bool :=
  if q.isEmpty then (.zero false, false)
  else if q.any (· == .nan) then (.nan, false)
  else if q.contains (.inf false) && q.contains (.inf true) then (.nan, true)
  else if q.contains (.inf false) then (.inf false, false)
  else if q.contains (.inf true) then (.inf true, false)
  else
    let z := q.filter (fun v => !v.isZero)
    match z with
    | [] => (.zero (q.all (·.sign)), false)
    | _ =>
      let top := z.foldl (fun (a : Option Int) v => match v, a with
        | .fin _ m e, some t => some (max t (Val.log2 m e))
        | .fin _ m e, none => some (Val.log2 m e)
        | _, a => a) none
      let lsb := top.getD 0 - 89
      let total := z.foldl (fun (a : Int) v => match v with
        | .fin s m e => a + jamAt s m e lsb
        | _ => a) 0
      if total = 0 then (.zero false, false)
      else (accRound (.fin (decide (total < 0)) total.natAbs lsb), false)

/-- acc_round(a + b) with NV. -/
def accAdd (a b : Val) : Val × Bool := let r := a.add b; (accRound r.1, r.2)

/-- Cut a list into pieces of n (fuel: the pieces). -/
def piecesOf {α : Type} (fuel n : Nat) (l : List α) : List (List α) :=
  match fuel with
  | 0 => []
  | f + 1 => if l.isEmpty then [] else l.take n :: piecesOf f n (l.drop n)

/-- segment_sum (R74) of the products of one segment; absent positions are none. -/
def segmentSum (p : List (Option Val)) : Val × Bool :=
  (piecesOf (p.length / 16 + 1) 16 p).foldl (fun acc c =>
    let h := chunkSum (c.filterMap id)
    let r := accAdd acc.1 h.1
    (r.1, acc.2 || h.2 || r.2)) (.zero true, false)

/-- dot_canonical (R74). -/
def dotCanonical (p : List (Option Val)) (init : Val) : Val × Bool :=
  (piecesOf (p.length / 512 + 1) 512 p).foldl (fun acc g =>
    let h := segmentSum g
    let r := accAdd acc.1 h.1
    (r.1, acc.2 || h.2 || r.2)) (init, false)

/-- scacc_step (R75). -/
def scaccStep (out partial_ scale : Val) : Val × Bool :=
  let p := partial_.mul scale
  let r := accAdd out p.1
  (r.1, p.2 || r.2)

/-- The products of two rows of elements, with NV (R71, R81). -/
def products (a b : List (Option Val)) : List (Option Val) × Bool :=
  let l := (a.zip b).map (fun e => match e with
    | (some x, some y) => (some (x.mul y).1, (x.mul y).2)
    | _ => (none, false))
  (l.map (·.1), l.any (·.2))

end Sys2Proof.Machine
end

