-- ==== Sys2Proof/Machine/Complete.lean ====
section
/-! DEFINITION. The bookkeeping of asynchronous operations: issue (R196, R35-R38) and completion (R197). -/
namespace Sys2Proof.Machine

/-- Status codes (R198). -/
def stOK : Byte := 0x00
def stCancelled : Byte := 0x01
def stPageFault : Byte := 0x02
def stAccess : Byte := 0x03
def stAddress : Byte := 0x04
def stNearAccess : Byte := 0x05
def stPoison : Byte := 0x06
def stTargetGone : Byte := 0x07
def stNotTarget : Byte := 0x08
def stCodebookBusy : Byte := 0x09
def stParam : Byte := 0x0A
def stMemberFail : Byte := 0x0B
def stContained : Byte := 0x0C
def stArithCheck : Byte := 0x0D
def stMvReject : Byte := 0x0E
def stLink : Byte := 0x0F
def stNone : Byte := 0xFF

/-- The status of a failed virtual access (R198). -/
def AccessErr.status (e : AccessErr) : Byte :=
  match e with
  | .address => stAddress
  | .page _ _ => stPageFault
  | .access => stAccess
  | .poison => stPoison
  | .link => stLink
/-- The status of a failed near access (R198, R199). -/
def NearError.status (e : NearError) : Byte :=
  match e with
  | .align => stAddress
  | .cause _ => stNearAccess

/-- Whether the tile counter counts an operation (R38). -/
def isTileOp (i : Instr) : Bool :=
  match i with
  | .old _ _ _ _ _ => true
  | .mma _ _ _ _ _ => true
  | .mmas _ _ _ _ _ _ => true
  | .mv _ _ _ _ _ _ => true
  | .accld _ _ _ _ => true
  | .accst _ _ _ _ => true
  | .acz _ _ _ _ => true
  | .scacc _ _ _ _ => true
  | .nprune _ _ _ _ => true
  | .cmpkSparse _ _ _ => true
  | _ => false

/-- An operation joins the open batch (R37): the newest entry is the open batch's when it holds operations. Batches that
have finished stay listed while they are among the sixteen newest, which is all that WAIT can exempt (R182). -/
def joinBatch (l : List (BitVec 16 × Nat)) (b : BitVec 16) : List (BitVec 16 × Nat) :=
  match l with
  | (c, n) :: t => if c = b then (c, n + 1) :: t else (b, 1) :: ((c, n) :: t).zipIdx.filterMap (fun e =>
      if e.1.2 ≠ 0 ∨ e.2 < 16 then some e.1 else none)
  | [] => [(b, 1)]
/-- An operation of a batch has completed. -/
def leaveBatch (l : List (BitVec 16 × Nat)) (b : BitVec 16) : List (BitVec 16 × Nat) :=
  match l with
  | [] => []
  | (c, n) :: t => if c = b then (c, n - 1) :: t else (c, n) :: leaveBatch t b

/-- The thread's side of issuing operation id (R196): handle, batch, tile counter. -/
def Thread.startOp (t : Thread) (id : Nat) (hd : HReg) (tile : Bool) : Thread :=
  let t := { t.setH hd (.pending id) with batches := joinBatch t.batches t.batch, ops := id :: t.ops }
  if tile then { t with ntl := t.ntl + 1, outTl := (t.ntl + 1) :: t.outTl } else t

/-- Issue an operation (R196): a record for the engine, the tag's count, and the threads' handles and batches. -/
def State.issueOp (s : State) (op : Op) (hd : HReg) (refs : List ThreadRef) : State :=
  let (id, s) := s.takeId
  let tile := isTileOp op.instr
  let seqs := refs.filterMap (fun r => (s.thread r).map (fun t => (r, t.ntl + 1)))
  let issuer := match op.issuer with
    | .threads _ => .threads (refs.filterMap (fun r => (s.thread r).map (fun t => (r, t.batch))))
    | x => x
  let s := { s with ops := Tbl.insert s.ops id { op with issuer := issuer, stseq := if tile then seqs else [] } }
  let s := match op.tag with
    | some t => s.onCore op.core (fun c => c.setTag t.toNat { count := (c.tag t.toNat).count + 1, clear := false })
    | none => s
  let s := refs.foldl (fun s r => s.onThread r (fun t => t.startOp id hd tile)) s
  let note := fun (w : WgRole) => { w with ops := w.ops ++ [(id, none)] }
  match op.issuer with
  | .threads _ =>
    match (refs.filterMap (fun r => (s.thread r).bind (fun t => s.streamKeyOf t))).head? with
    | some k => { s with streams := Tbl.modify s.streams k (fun x => { x with wgRoles := Tbl.modify x.wgRoles op.wg note }) }
    | none => s
  | .role l tm rl => { s with streams := Tbl.modify s.streams (l * 256 + tm) (fun x =>
      { x with roles := Tbl.modify x.roles rl (fun r => { r with ops := r.ops ++ [(id, none)] }) }) }

/-- The tag's count falls; at zero the bit is set (R35, R210). -/
def CoreSt.tagDone (c : CoreSt) (i : Nat) : CoreSt := c.setTag i { count := (c.tag i).count - 1, clear := false }

/-- The thread's side of the completion of operation id (R197 step 3). -/
def Thread.finishOp (t : Thread) (id : Nat) (batch : BitVec 16) (seq : Option Nat) (status : Byte) : Thread :=
  { t with h := t.h.map (fun e => if e.2 = .pending id then (e.1, .done status) else e),
           batches := leaveBatch t.batches batch, ops := t.ops.filter (· != id),
           outTl := match seq with
             | some q => t.outTl.filter (· != q)
             | none => t.outTl }

/-- Whether a wait on tags is over (R209). -/
def tagsHold (any : Bool) (bits m : DWord) : Bool := m == 0 || (if any then bits &&& m != 0 else bits &&& m == m)
/-- Whether a thread waits at TWANY or TWALL for what the tags now show (R210). -/
def Thread.tagsMet (t : Thread) (bits : DWord) : Bool :=
  match t.stall with
  | .again (.twany va) => tagsHold true bits (t.getPair va.toNat)
  | .again (.twall va) => tagsHold false bits (t.getPair va.toNat)
  | _ => false
/-- A tag's bit has been set: the waits of its core that it fulfils complete, so that no later clear undoes them (R210). -/
def State.tagsWake (s : State) (core : Nat) : State :=
  let bits := (s.core core).tagBits
  { s with threads := s.threads.map (fun e =>
      if ((s.wgOf e.2.ref).map (·.core)) == some core && e.2.tagsMet bits then (e.1, Thread.kept Thread.advance e.2) else e) }
/-- R197: the operation completes with its status; the tag, the batches and the handles record it. -/
def State.completeOp (s : State) (id : Nat) (status : Byte) : State :=
  match Tbl.find s.ops id with
  | none => s
  | some op =>
    let s := { s with ops := Tbl.erase s.ops id }
    let s := match op.tag with
      | some t => s.onCore op.core (fun c => c.tagDone t.toNat)
      | none => s
    let mark := fun (l : List (Nat × Option Byte)) => l.map (fun e => if e.1 = id then (e.1, some status) else e)
    let s := { s with streams := s.streams.map (fun e => (e.1, { e.2 with
      roles := e.2.roles.map (fun r => (r.1, { r.2 with ops := mark r.2.ops })),
      wgRoles := e.2.wgRoles.map (fun r => (r.1, { r.2 with ops := mark r.2.ops })) })) }
    let s := match op.issuer with
      | .threads l => l.foldl (fun s e => s.onThread e.1 (fun t =>
          t.finishOp id e.2 ((op.stseq.find? (fun q => q.1 == e.1)).map (·.2)) status)) s
      | .role _ _ _ => s
    if op.tag.isSome then s.tagsWake op.core else s

/-- Advance a counter of a partition's control page: 0 MVC_BANK to 8 MVC_PAUSE (R347). -/
def State.mvcAdd (s : State) (p i n : Nat) : State :=
  s.onPart p (fun x => { x with mvc := Tbl.put 0 x.mvc i (Tbl.get 0 x.mvc i + BitVec.ofNat 64 n) })
/-- RAN: 0 not run, 1 the cores, 2 the regolith units (R225). -/
def Op.ran (op : Op) : Nat := if op.phase = 0 then 0 else if op.phase = 1 then 1 else 2
/-- An MV that completes is counted by where it ran, and by why .AUTO took the cores (R347); any other operation is not. -/
def State.mvCount (s : State) (op : Op) : State :=
  match op.instr with
  | .mv _ _ _ _ _ _ =>
    let s := s.mvcAdd op.part (if op.ran = 2 then 0 else if op.ran = 1 then 1 else 2) 1
    if op.reason = 0 then s else s.mvcAdd op.part (2 + op.reason) 1
  | _ => s

/-- OR exceptions into %mflags (R27): NV, OF, UF, NX in bits 0 to 3. -/
def State.orMflags (s : State) (g : Nat) (f : BitVec 4) : State := s.onWg g (fun w => { w with mflags := w.mflags ||| f.zeroExtend 32 })
/-- Float exceptions as %mflags orders them (R26, R27). -/
def toMflags (f : Flags) : BitVec 4 := fieldOf f 4 2 ++ fieldOf f 0 0

/-- An engine's near write with the digest of the issuing workgroup (R174, R201, R282). -/
def State.opNear (s : State) (g key : Nat) (bs : List Byte) (quiet : Bool) : State :=
  let a := match s.wg g with
    | some w => (s.nativeNear w key).toNat
    | none => key
  (s.nearEngine key bs).digestStore g a bs quiet

/-- An engine's write of one piece for a workgroup: at the L2, and performed for its core (R197, R290, R398). -/
def State.engineWrite (s : State) (g pa : Nat) (bs : List Byte) : State :=
  match s.wg g with
  | some w => (s.asFunction (s.partOf w) pa bs.length true).memCore pa bs w.core
  | none => s.memEngine pa bs none
/-- An engine's write of pieces already checked, with the digest (R290, R282). -/
def State.opMem (s : State) (g : Nat) (va : DWord) (pieces : List (Nat × Nat)) (bs : List Byte) (quiet : Bool) : State :=
  ((pieces.foldl (fun (acc : State × List Byte) e =>
    (acc.1.engineWrite g e.1 (acc.2.take e.2), acc.2.drop e.2)) (s, bs)).1).digestStore g va.toNat bs quiet

end Sys2Proof.Machine
end

