-- ==== Sys2Proof/Machine/RowOps.lean ====
section
/-! DEFINITION. The results of the row operations (R190-R194): what one participant writes, from the participants of
its row. -/
namespace Sys2Proof.Machine

/-- The participants of a row operation: column and thread. -/
abbrev Row := List (Nat × Thread)

/-- The sum of 2^y over the columns that satisfy q. -/
def Row.mask (P : Row) (q : Nat × Thread → Bool) : DWord :=
  P.foldl (fun m e => if q e then m ||| (1#64 <<< e.1) else m) 0
/-- How many columns satisfy q. -/
def Row.count (P : Row) (q : Nat × Thread → Bool) : Nat := (P.filter q).length

/-- SHFL's value: the source column's if it takes part, else the thread's own (R191). -/
def Row.shuffle (P : Row) (va : VReg) (y : Nat) (own : Word) : Word :=
  match P.find? (fun e => e.1 == y) with
  | some e => e.2.getV va.toNat
  | none => own

/-- (c - x) mod W on unsigned 32-bit c and a column x (R191). -/
def revColumn (c x w : Nat) : Nat := (c + w * x + w - x) % w

/-- What the participant t in column x writes (R190-R194), for a row of width w. -/
def rowWrite (i : Instr) (P : Row) (w x : Nat) (t : Thread) : Thread :=
  let bit := fun (b : Bool) => if b then 1#32 else 0#32
  match i with
  | .voteEvery vd _ pp => t.setV vd.toNat (bit (P.all (fun e => e.2.getP pp)))
  | .voteSome vd _ pp => t.setV vd.toNat (bit (P.any (fun e => e.2.getP pp)))
  | .voteMask vd _ pp => t.setPair vd.toNat (P.mask (fun e => e.2.getP pp))
  | .voteCount vd _ pp => t.setV vd.toNat (BitVec.ofNat 32 (P.count (fun e => e.2.getP pp)))
  | .shflAt vd va _ => t.setV vd.toNat (P.shuffle va ((t.getV vd.toNat).toNat % w) (t.getV va.toNat))
  | .shflRot vd va _ => t.setV vd.toNat (P.shuffle va ((x + (t.getV vd.toNat).toNat) % w) (t.getV va.toNat))
  | .shflRev vd va _ => t.setV vd.toNat (P.shuffle va (revColumn (t.getV vd.toNat).toNat x w) (t.getV va.toNat))
  | .shflSwap vd va _ => t.setV vd.toNat (P.shuffle va ((x ^^^ (t.getV vd.toNat).toNat) % w) (t.getV va.toNat))
  | .matchSame vd va _ => t.setPair vd.toNat (P.mask (fun e => e.2.getV va.toNat == t.getV va.toNat))
  | .matchUnif vd va _ =>
    t.setPair vd.toNat (if P.all (fun e => e.2.getV va.toNat == t.getV va.toNat) then P.mask (fun _ => true) else 0)
  | .confd vd va _ =>
    t.setPair vd.toNat (P.mask (fun e => decide (e.1 < x) && e.2.getV va.toNat == t.getV va.toNat))
  | .cmpk vd _ pp =>
    let nt := P.count (fun e => e.2.getP pp)
    t.setV vd.toNat (BitVec.ofNat 32 (if t.getP pp then P.count (fun e => decide (e.1 < x) && e.2.getP pp)
      else nt + P.count (fun e => decide (e.1 < x) && !e.2.getP pp)))
  | .matchLead vd va _ =>
    t.setV vd.toNat (BitVec.ofNat 32 (((P.filter (fun e => e.2.getV va.toNat == t.getV va.toNat)).map (·.1)).foldl min x))
  | _ => t

end Sys2Proof.Machine
end

