-- ==== Sys2Proof/Machine/Sync.lean ====
section
/-! DEFINITION. What threads wait for together: barriers (R177-R179), team barriers (R180, R181), row operations
(R185-R188) and the slot claim queue (R213); and the raising of traps and choreography faults (R266, R268). -/
namespace Sys2Proof.Machine

/-! Trap classes (R268) -/
def clIllegal : Byte := 0x01
def clInsnAddress : Byte := 0x02
def clAddress : Byte := 0x03
def clAlign : Byte := 0x04
def clNear : Byte := 0x05
def clPage : Byte := 0x06
def clAccess : Byte := 0x07
def clMachine : Byte := 0x08
def clCallOver : Byte := 0x09
def clCallUnder : Byte := 0x0A
def clBarrier : Byte := 0x0B
def clTeam : Byte := 0x0C
def clRow : Byte := 0x0D
def clSlot : Byte := 0x0E
def clTile : Byte := 0x0F
def clCodebook : Byte := 0x10
def clCompact : Byte := 0x11
def clField : Byte := 0x12
def clChor : Byte := 0x13
def clPreempt : Byte := 0x14
def clSoftware : Byte := 0x15
def clBreak : Byte := 0x16
def clMode : Byte := 0x17
def clQueue : Byte := 0x18
def clRestore : Byte := 0x19

/-- Raise a trap of a thread, taken when the step ends (R268). -/
def State.raise (s : State) (r : ThreadRef) (cls : Byte) (detail aux : Word) (addr : DWord) (resume : Pc) : State :=
  { s with traps := s.traps ++ [{ thread := r, cls := cls, detail := detail, aux := aux, addr := addr, resume := resume }] }
/-- Raise a trap that reports and resumes at the word, or at the first hint of its run (R104, R268). -/
def State.trapWord (s : State) (t : Thread) (cls : Byte) (detail : Word) : State := s.raise t.ref cls detail 0 0 t.resumePc
/-- The same with the data address of a memory trap. -/
def State.trapData (s : State) (t : Thread) (cls : Byte) (detail : Word) (addr : DWord) : State := s.raise t.ref cls detail 0 addr t.resumePc
/-- The trap of a failed near access (R158). -/
def State.trapNear (s : State) (t : Thread) (e : NearError) (na : Word) : State :=
  match e with
  | .align => s.trapData t clAlign 0 (na.zeroExtend 64)
  | .cause c => s.trapData t clNear (BitVec.ofNat 32 c) (na.zeroExtend 64)

/-! Barriers (R177-R179) -/

/-- Barrier n of workgroup g completes: its phase flips, and every arrived thread goes on. A thread that a restored
image counts as arrived passes when it comes back to its BAR (R275). -/
def State.barrierDone (s : State) (g : Nat) (n : BitVec 2) : State :=
  let bit := 1#4 <<< n.toNat
  (s.onWg g (fun w => { w with phases := w.phases ^^^ bit })).onLive g (fun t =>
    let t := { t with bars := t.bars &&& ~~~bit }
    if t.stall = .barrier n then t.advance else { t with rebars := t.rebars ||| bit })

/-- A thread leaves the barrier it waits at: stopped in a trap it has not arrived (R177). -/
def leaveBarrier (t : Thread) : Thread :=
  match t.stall with
  | .barrier n => { t with bars := t.bars &&& ~~~(1#4 <<< n.toNat), stall := .none }
  | _ => t

/-- Whether the thread counts as arrived: it waits at the barrier, or it holds an arrival and is not stopped in a trap
(R177, R275). -/
def Thread.arrivedAt (t : Thread) (n : BitVec 2) : Bool :=
  t.bars.getLsbD n.toNat && (t.stall == .barrier n || !t.handler)
/-- Complete the barriers at which every live thread has arrived, and detect a mismatch (R177, R179). -/
def State.barrierCheck (s : State) (g : Nat) : State :=
  let live := s.live g
  if live.isEmpty then s
  else match ([0, 1, 2, 3] : List (BitVec 2)).filter (fun n => live.all (fun t => t.arrivedAt n)) with
    | n :: ns => (n :: ns).foldl (fun s n => s.barrierDone g n) s
    | [] =>
      if live.all (fun t => match t.stall with
          | .barrier _ => true
          | _ => false) then
        live.foldl (fun s t => (s.onThread t.ref leaveBarrier).trapWord t clBarrier 0) s
      else s

/-! Team barriers (R180, R181) -/

/-- The workgroup members of a team on this device, by logical index. -/
def Launch.members (l : Launch) (own team : Nat) : List MemberWord :=
  ((Tbl.get [] l.teams team).filter (fun m => m.kind == 0 && m.dev == own))
/-- Whether every workgroup member of the team is on this device. -/
def Launch.local_ (l : Launch) (own team : Nat) : Bool := (Tbl.get [] l.teams team).all (fun m => m.kind != 0 || m.dev == own)
/-- The resident workgroup of a logical index. -/
def State.resident (s : State) (launch log : Nat) : Option Nat :=
  (s.wgs.find? (fun e => e.2.launch == launch && e.2.log == log)).map (·.1)

/-- The threads of workgroup g that wait at the TBAR of a team (R180). -/
def waitsTeam (g : Workgroup) (team : Nat) (t : Thread) : Bool :=
  match t.stall with
  | .team k _ => teamIndex (g.team k.toNat) == team
  | _ => false

/-- A thread at the TBAR of a completed barrier: the flag, and on (R181). -/
def passTeam (pd : PReg) (flag : Bool) (t : Thread) : Thread := (t.setP pd flag).advance
/-- Release the threads of one member; those not back at their TBAR (saved, or still in a handler) are owed the flag
(R180, R181, R183). -/
def State.teamRelease (s : State) (launch team log : Nat) (flag : Bool) : State × List (Nat × Nat × Bool) :=
  match s.resident launch log with
  | none =>
    let tids := match s.launch launch with
      | some l => (l.saved.filter (fun (x : SavedWg) => x.wg.log == log)).flatMap SavedWg.tids
      | none => []
    (s, tids.map (fun i => (log, i, flag)))
  | some g => match s.wg g with
    | none => (s, [])
    | some w =>
      let s := (s.releaseCore w.core).acquireWide w.core
      (s.onLive g (fun t => match t.stall with
          | .team k pd => if teamIndex (w.team k.toNat) = team then passTeam pd flag t else t
          | _ => t),
        ((s.live g).filter (fun t => !waitsTeam w team t)).map (fun t => (log, t.ref.tid, flag)))
/-- Release the members of a completed team barrier, each with acquire and release at device scope (R180, R181). -/
def State.teamDone (s : State) (launch team : Nat) (arrived : List Nat) (epilogue : Option Nat) : State :=
  let (s, owed) := arrived.foldl (fun (acc : State × List (Nat × Nat × Bool)) log =>
    let r := acc.1.teamRelease launch team log (epilogue == some log)
    (r.1, acc.2 ++ r.2)) (s, [])
  { s with teamBars := Tbl.insert s.teamBars (teamKey launch team) { arrived := [], owed := owed } }

/-- Add arrivals of the workgroups whose live threads all wait at the TBAR, and complete the barrier when every member
has arrived or retired (R180, R181). DESIGN CHOICE (log entry 42): where the member that arrived last outside
deterministic mode has been terminated since, the epilogue flag goes to the last to arrive of those that have not retired. A
thread of a workgroup that has not wholly arrived arrives again when it executes its TBAR after a restore. -/
def State.teamCheck (s : State) (launch team : Nat) : State :=
  match s.launch launch with
  | none => s
  | some l =>
    let key := teamKey launch team
    let bar := Tbl.get { arrived := [], owed := [] } s.teamBars key
    let members := l.members s.mgmt.orbitDev.toNat team
    let fresh := members.filterMap (fun m => match s.resident launch m.index with
      | some g => match s.wg g with
        | some w => if !bar.arrived.contains m.index && !(s.live g).isEmpty && (s.live g).all (waitsTeam w team)
            then some m.index else none
        | none => none
      | none => none)
    let arrived := bar.arrived ++ fresh
    let s := { s with teamBars := Tbl.insert s.teamBars key { bar with arrived := arrived } }
    let waiting := arrived.filter (fun i => !l.retired.contains i)
    if waiting.isEmpty || !l.local_ s.mgmt.orbitDev.toNat team then s
    else if members.all (fun m => arrived.contains m.index || l.retired.contains m.index) then
      s.teamDone launch team waiting
        (if 1 ≤ l.det then some (waiting.foldl max 0) else waiting.getLast?)
    else s

/-- The teams of a workgroup. -/
def Workgroup.teamList (g : Workgroup) : List Nat := (g.teams.filter teamValid).map teamIndex

/-! Row operations (R184-R188) -/

/-- The threads of a row that masks can name, with their columns: those that have not exited, by an ordinary exit or a
save exit (R184, R188). -/
def State.rowThreads (s : State) (g : Nat) (w : Workgroup) (d : Nat) : Row :=
  ((s.live g).filter (fun t => w.row t.ref.tid == d && !t.saved)).map (fun t => (w.column t.ref.tid, t))
/-- Whether every live thread of a row waits at a row operation (R186, R187): one that has made its save exit is live. -/
def State.rowStuck (s : State) (g : Nat) (w : Workgroup) (d : Nat) : Bool :=
  ((s.live g).filter (fun t => w.row t.ref.tid == d)).all (fun t => match t.stall with
    | .row _ _ => true
    | _ => false)
/-- The participants that a mask names (R184). -/
def participants (row : Row) (mask : BitVec 64) : Row := row.filter (fun e => mask.getLsbD e.1)
/-- The effective mask: restricted to columns of live threads (R184). -/
def effective (row : Row) (mask : BitVec 64) : DWord := Row.mask (participants row mask) (fun _ => true)

/-- Whether the operation that thread t waits at is complete (R185). -/
def rowReady (row : Row) (t : Thread) : Bool :=
  match t.stall with
  | .row _ m => (participants row m).all (fun e => e.2.pc == t.pc && match e.2.stall with
      | .row _ n => effective row n == effective row m
      | _ => false)
  | _ => false

/-- Complete the row operations of a row whose participants have all arrived; else detect that none can (R185, R186). -/
def State.rowCheck (s : State) (g : Nat) (d : Nat) : State :=
  match s.wg g with
  | none => s
  | some w =>
    let row := s.rowThreads g w d
    let ready := row.filter (fun e => rowReady row e.2)
    if !ready.isEmpty then
      ready.foldl (fun s e => match e.2.stall with
        | .row i m => s.onThread e.2.ref (fun t => (rowWrite i (participants row m) w.width e.1 t).advance)
        | _ => s) s
    else if !row.isEmpty && s.rowStuck g w d then
      row.foldl (fun s e => (s.onThread e.2.ref (fun t => { t with stall := .none })).trapWord e.2 clRow 2) s
    else s

/-! The slot claim queue (R213) -/

/-- Slots of a mask. -/
def slotsOf (m : BitVec 8) : List Nat := (List.range 8).filter (fun i => m.getLsbD i)
/-- Grant head requests while all of their slots are FREE (fuel: the queue's length). -/
def State.grantClaims (fuel : Nat) (s : State) (c : Nat) : State :=
  match fuel with
  | 0 => s
  | f + 1 =>
    match (s.core c).claims with
    | [] => s
    | (g, m, refs) :: rest =>
      if (slotsOf m).all (fun i => ((s.core c).slot i).state == .free) then
        let s := s.onCore c (fun k => (slotsOf m).foldl (fun k i => k.setSlot i { k.slot i with state := .claimed g })
          { k with claims := rest })
        State.grantClaims f (refs.foldl (fun s r => s.onThread r Thread.advance) s) c
      else s
/-- Serve the claim queue of a core. -/
def State.claimCheck (s : State) (c : Nat) : State := State.grantClaims ((s.core c).claims.length + 1) s c

/-! Choreography faults (R266) -/

/-- Whether a member word binds a workgroup of this device: its kind, its DEV and its logical index (R255, R357). -/
def MemberWord.binds (x : MemberWord) (own log : Nat) : Bool := x.kind == 0 && x.bound && x.dev == own && x.index == log

/-- The choreography fault of a thread at its word. -/
def State.chorFault (s : State) (t : Thread) (cause : Nat) : State := s.trapWord t clChor (BitVec.ofNat 32 cause)
/-- Cause 8, with the reason (R266). -/
def State.abortFault (s : State) (t : Thread) (why : Nat × Nat) : State :=
  (s.onThread t.ref (fun u => { u with stall := .none })).trapWord t clChor
    (BitVec.ofNat 32 (8 + 256 * (why.1 % 256) + 65536 * (why.2 % 256)))
/-- Abort the open instance of a team: engine roles stop, and every workgroup member takes cause 8 at its next control
word, or at once if it waits at one (R266). The instance stays aborted as long as its launch (log entry 39). -/
def State.abortStream (s : State) (key : Nat) (why : Nat × Nat) : State :=
  match Tbl.find s.streams key with
  | none => s
  | some st =>
    if st.aborted.isSome then s
    else
      let active := (Tbl.vals s.threads).filter (fun t => !t.exited && s.streamKeyOf t == some key)
      let s := { s with streams := Tbl.insert s.streams key { st with roles := [], aborted := some why } }
      active.foldl (fun s t => match t.stall with
        | .control _ => s.abortFault t why
        | _ => s) s
/-- Why a thread's control word takes cause 8: its instance is aborted, or none is open (R266). -/
def State.stopCause (s : State) (t : Thread) : Option (Nat × Nat) :=
  match t.orphan with
  | some why => some why
  | none => match (s.streamKeyOf t).bind (fun key => Tbl.find s.streams key) with
    | some st => st.aborted
    | none => some (0xFF, 0)
/-- A workgroup leaves: the open instances of its teams are aborted (R266). -/
def State.abortMember (s : State) (w : Workgroup) : State :=
  w.teams.foldl (fun s m => if teamValid m then
    let bound := match s.launch w.launch with
      | some l => (Tbl.get [] l.teams (teamIndex m)).any (fun x => x.binds s.mgmt.orbitDev.toNat w.log)
      | none => false
    s.abortStream (teamKey w.launch (teamIndex m)) (if bound then teamRole m else 0xFF, 0) else s) s

end Sys2Proof.Machine
end

