-- ==== Sys2Proof/Machine/Report.lean ====
section
/-! DEFINITION. Reporting: interrupt bits (R403), machine-check banks (R383-R385, R417), requests that the device does not serve
(R397, R399, R418) and the fault ring (R326). -/
namespace Sys2Proof.Machine

/-- Set a bit of a VF's IRQ_STATUS; its message goes out on the change from 0 to 1 while unmasked (R403). -/
def State.irqPart (s : State) (p bit : Nat) : State :=
  let x := s.part p
  let s := s.onPart p (fun y => { y with irqStatus := y.irqStatus ||| (1#6 <<< bit) })
  if !x.irqStatus.getLsbD bit && !x.irqMask.getLsbD bit then s.send (.msix (.vf p) bit) else s
/-- Set a bit of the PF's IRQ_STATUS (R403). -/
def State.irqPf (s : State) (bit : Nat) : State :=
  let m := s.mgmt
  let s := { s with mgmt := { m with irqStatus := m.irqStatus ||| (1#6 <<< bit) } }
  if !m.irqStatus.getLsbD bit && !m.irqMask.getLsbD bit then s.send (.msix .pf bit) else s

/-- A bank's key: its identifier (R383). -/
def bankId (type inst : Nat) : Nat := type * 2 ^ 16 + inst
/-- Instances of a unit type (R383). -/
def bankCount (type : Nat) : Nat :=
  match type with
  | 0x01 => 1024
  | 0x02 => 256
  | 0x03 => 256
  | 0x04 => 256
  | 0x05 => 256
  | 0x06 => 256
  | 0x07 => 64
  | 0x08 => 64
  | 0x09 => 64
  | 0x0A => 4
  | 0x0B => 4
  | 0x0C => 256
  | 0x0D => 2048
  | 0x0E => 4
  | 0x0F => 4
  | 0x10 => 12
  | 0x11 => 1
  | 0x12 => 4
  | 0x13 => 1
  | _ => 0
def State.bank (s : State) (id : Nat) : Bank := Tbl.get { next := 0, dropped := 0, ovl := false, slots := [] } s.banks id
/-- The 32 bytes of a record (R384). -/
def McRecord.bytes (r : McRecord) : List Byte :=
  leBytes 4 r.seq.toNat ++ [(1#1 ++ 0#5 ++ r.cls), r.source, r.akind, 0] ++ leBytes 8 r.addr.toNat ++ leBytes 4 r.syndrome.toNat
    ++ leBytes 4 r.launch.toNat ++ leBytes 4 r.wglog.toNat ++ leBytes 4 r.cyc.toNat
/-- A saturating count of 16 bits (R385). -/
def satInc (d : BitVec 16) : BitVec 16 := if d = 0xFFFF then d else d + 1
/-- The slot of the oldest unacknowledged corrected record (R385). -/
def Bank.oldestCorrected (b : Bank) : Option Nat :=
  ((b.slots.filter (fun e => e.2.cls == 1)).foldl (fun (a : Option (Nat × Nat)) e =>
    let age := (b.next - e.2.seq).toNat
    match a with
    | some (k, g) => if g < age then some (e.1, age) else some (k, g)
    | none => some (e.1, age)) none).map (·.1)

/-- Append a record to the firmware machine-check log (R417): a ring of 4,096 entries of 64 bytes. -/
def State.fwLog (s : State) (id : Nat) (r : McRecord) : State :=
  let base := (fieldOf s.mgmt.fwlogBase 51 12).toNat * 4096
  let s := s.memEngine (base + 64 * s.mgmt.fwlogHead.toNat) (r.bytes ++ leBytes 4 id ++ List.replicate 28 0) none
  ({ s with mgmt := { s.mgmt with fwlogHead := s.mgmt.fwlogHead + 1 } }).irqPf 5

/-- Store an event in its bank (R385). -/
def State.bankStore (s : State) (id : Nat) (r : McRecord) : State :=
  let b := s.bank id
  let r := { r with seq := b.next }
  let b := { b with next := b.next + 1 }
  let slot := r.seq.toNat % 4
  if (Tbl.find b.slots slot).isNone then { s with banks := Tbl.insert s.banks id { b with slots := Tbl.insert b.slots slot r } }
  else if r.cls = 1 then { s with banks := Tbl.insert s.banks id { b with dropped := satInc b.dropped } }
  else match b.oldestCorrected with
    | some k => { s with banks := Tbl.insert s.banks id { b with dropped := satInc b.dropped, slots := Tbl.insert b.slots k r } }
    | none => ({ s with banks := Tbl.insert s.banks id { b with ovl := true } }).fwLog id r

/-- Whether the next event of a class is written in the bank: a corrected one into a free slot only, another also over the oldest
corrected record (R385). -/
def Bank.takes (b : Bank) (cls : BitVec 2) : Bool :=
  (Tbl.find b.slots (b.next.toNat % 4)).isNone || (cls != 1 && b.oldestCorrected.isSome)
/-- The counts and interrupts of an event (R387, R403, R411): the snapshot counts the records written in a bank (log entry 23), and a
contained one raises MCREC; MC_CONT of the partition concerned counts every contained event. -/
def State.mcCount (s : State) (cls : BitVec 2) (written : Bool) (launch : Word) : State :=
  if cls = 1 then { s with mgmt := { s.mgmt with mcCorr := s.mgmt.mcCorr + (if written then 1 else 0) } }
  else if cls = 2 then
    let s := if written then ({ s with mgmt := { s.mgmt with mcCont := s.mgmt.mcCont + 1 } }).irqPf 1 else s
    match s.launch launch.toNat with
    | some l => (s.onPart l.part (fun p => { p with mcCont := p.mcCont + 1 })).irqPart l.part 4
    | none => s
  else s
/-- Detect an event (R384, R385): the record, the counts and the interrupts. -/
def State.mcEvent (s : State) (type inst : Nat) (cls : BitVec 2) (source akind : Byte) (addr : DWord) (syndrome launch wglog : Word) : State :=
  let (c, s) := if type ≤ 6 then ((fieldOf (s.core (if type = 1 then inst / 4 else inst)).cyc 31 0), s) else s.freshWord
  let written := (s.bank (bankId type inst)).takes cls
  (s.bankStore (bankId type inst)
    { seq := 0, cls := cls, source := source, akind := akind, addr := addr, syndrome := syndrome, launch := launch, wglog := wglog, cyc := c }).mcCount
    cls written launch

/-! Requests of the host (R397, R399, R418) -/

/-- Whether a function's requests are served: before READY, only those to the PF's management page (R418); after a
fatal stop, none but what R379 allows. -/
def State.serves (s : State) (fn : PcieFn) (bar : Nat) : Bool :=
  s.mgmt.power && !s.mgmt.fatal && (s.mgmt.bootState == 2 || (fn == .pf && bar == 0))
    && (match fn with
      | .pf => true
      | .vf p => decide (p < 8))
/-- The bit of a function in the log of Unsupported Requests: VF p at bit p, the PF at bit 8. -/
def aerBit (fn : PcieFn) : BitVec 9 :=
  match fn with
  | .pf => 1#9 <<< 8
  | .vf p => if p < 8 then 1#9 <<< p else 0
/-- A request of the host completes with Unsupported Request, which AER logs at the function (R397, R399); without power
nothing answers (R418). -/
def State.unsupported (s : State) (fn : PcieFn) : State :=
  if s.mgmt.power then { s.send .unsupported with mgmt := { s.mgmt with aer := s.mgmt.aer ||| aerBit fn } } else s
/-- A write of the host to a register of a function takes effect, or is not served. -/
def State.hostSets (s : State) (fn : PcieFn) (f : State → State) : Host.Outcome State Fault Refusal :=
  if s.serves fn 0 then .next (f s) else .next (s.unsupported fn)

/-! The fault ring (R326) -/

/-- The 32 bytes of a fault record (R326). -/
def FaultWait.bytes (f : FaultWait) (phase : Bool) : List Byte :=
  leBytes 8 f.va.toNat ++ leBytes 8 f.lanes.toNat ++ leBytes 4 f.launch.toNat ++ leBytes 4 f.wglog.toNat
    ++ [f.core, f.quarter, BitVec.ofNat 8 f.kind, (if phase then f.walk ||| 0x80 else f.walk)] ++ List.replicate 4 0
/-- HEAD + 1 = TAIL (R329). -/
def Partition.ringFull (p : Partition) : Bool := p.fqHead + 1 == p.fqTail
/-- Write a record at HEAD, with the parity of the ring lap, and raise the FAULT interrupt; a ring in host memory is written
under the requester ID of the partition's VF (R326, R398, R403). -/
def State.ringWrite (s : State) (p : Nat) (f : FaultWait) : State :=
  let x := s.part p
  let a := (fieldOf x.fqBase 51 17).toNat * 2 ^ 17 + 32 * x.fqHead.toNat
  (((s.asFunction p a 32 true).memEngine a (f.bytes x.fqLap) none).onPart p (fun y =>
    { y with fqHead := y.fqHead + 1, fqLap := if y.fqHead = 0xFFF then !y.fqLap else y.fqLap })).irqPart p 1

end Sys2Proof.Machine
end

