-- ==== Sys2Proof/Machine/Ops.lean ====
section
/-! DEFINITION. The shared operations: the end of a workgroup (R40, R299, R362, R370), taking a trap (R268, R269) and
returning from one (R270), translation misses and page faults of threads (R159, R326), and the executing of a word by
an issue group (R101, R105, R106, R151). -/
namespace Sys2Proof.Machine

/-! Ends of threads and workgroups -/

/-- A queue descriptor (R279). -/
structure QDesc where
  ring  : DWord
  cap   : Nat
  quota : Nat
  tbase : Word
  pushc : Word
  popc  : Word
  zeros : Bool
  deriving DecidableEq, Repr
def qdescOf (b : List Byte) : QDesc :=
  { ring := BitVec.ofNat 64 (bytesAt b 0 8), cap := bytesAt b 8 4, quota := bytesAt b 12 1, tbase := BitVec.ofNat 32 (bytesAt b 16 4),
    pushc := BitVec.ofNat 32 (bytesAt b 20 4), popc := BitVec.ofNat 32 (bytesAt b 24 4),
    zeros := bytesAt b 13 3 == 0 && bytesAt b 28 36 == 0 }
/-- The address of entry t (R279). -/
def QDesc.entry (q : QDesc) (t : Word) : DWord := q.ring + BitVec.ofNat 64 (8 * (if q.cap = 0 then 0 else t.toNat % q.cap))
/-- An entry's bytes: VALUE and t[29:0] x 4 + KIND (R279). -/
def qEntry (value t : Word) (kind : Nat) : List Byte :=
  leBytes 4 value.toNat ++ leBytes 4 ((t.toNat % 2 ^ 30) * 4 + kind)

/-- The home writes the unused tickets of a workgroup's quota as VOID (2) or VOID_FAULT (3) entries (R281). -/
def State.voidTickets (s : State) (p : Nat) (l : Launch) (w : Workgroup) (kind : Nat) : State :=
  if l.det = 0 then s
  else (l.dq.zipIdx).foldl (fun (s : State) (e : DWord × Nat) =>
    if e.1 = 0 ∨ l.dq.idxOf e.1 ≠ e.2 then s
    else match s.tryRead p none e.1 64 with
      | (none, s) => s
      | (some b, s) =>
        let q := qdescOf b
        let used := Tbl.get 0 w.pushes e.2
        (List.range (q.quota - used)).foldl (fun s j =>
          let t := q.tbase + BitVec.ofNat 32 (w.log * q.quota + used + j)
          (s.tryWrite p none (q.entry t) (qEntry 0 t kind) none).2) s) s

def ReqKind.isFullEmpty : ReqKind → Bool
  | .fullEmpty _ => true
  | _ => false
/-- Whether a request is counted among its thread's stores (R38, R165, R246). -/
def ReqKind.storing : ReqKind → Bool
  | .store => true
  | .red _ => true
  | .splat => true
  | .splatLog => true
  | .fullEmpty fn => !(fn == 0 || fn == 1 || fn == 6)
  | _ => false
/-- Whether it is counted among its thread's loads (R38); QPUSH and QPOP are counted in neither. -/
def ReqKind.loading : ReqKind → Bool
  | .push => false
  | .pop => false
  | k => !k.storing
/-- Forget a request in the counter that holds it, and let the thread run on to a trap. -/
def Thread.dropReq (u : Thread) (q : Req) : Thread :=
  { u with stall := .none, outLd := if q.kind.loading then u.outLd.filter (· != q.seq) else u.outLd,
           outSt := if q.kind.storing then u.outSt.filter (· != q.seq) else u.outSt }
/-- The parked full/empty operations on bytes of a retired allocation are withdrawn; their threads take the near-access
trap with cause 4 (R169). -/
def State.withdrawParked (s : State) (core base size : Nat) : State :=
  let gone : List (Nat × Req) := s.reqs.filter (fun e => e.2.parked && e.2.near && e.2.kind.isFullEmpty && decide (nearKey core base ≤ e.2.addr) && decide (e.2.addr < nearKey core base + size))
  gone.foldl (fun (s : State) (e : Nat × Req) =>
    let s := { s with reqs := Tbl.erase s.reqs e.1 }
    match s.thread e.2.thread with
    | none => s
    | some t => (s.onThread t.ref (fun u => u.dropReq e.2)).trapNear t (.cause 4) (BitVec.ofNat 32 e.2.va.toNat)) s

/-- Threads are withdrawn from the waiting fault records; a record never outlives the threads it names (R328). -/
def Partition.dropWaits (p : Partition) (gone : ThreadRef → Bool) : Partition :=
  { p with waits := (p.waits.map (fun f => { f with threads := f.threads.filter (fun r => !gone r) })).filter (fun f => !f.threads.isEmpty) }
/-- Whether a request holds a return slot of its lane (R318). -/
def ReqKind.returning (k : ReqKind) : Bool :=
  match k with
  | .atom _ => true
  | .lr => true
  | .sc => true
  | .push => true
  | .pop => true
  | _ => false
/-- The lane's key in its core's return slots (R318). -/
def laneKey (w : Workgroup) (tid : Nat) : Nat := w.quarter * 64 + w.laneOf tid
/-- Free a return slot. -/
def CoreSt.freeReturn (c : CoreSt) (k : Nat) : CoreSt := { c with returns := Tbl.put 0 c.returns k (Tbl.get 0 c.returns k - 1) }
/-- Return a workgroup's resources: slots, tables, tiles, near bytes, lanes and return slots (R40, R318, R370). DESIGN
CHOICE (log entry 42): a full/empty operation of another workgroup that is parked in the allocation is withdrawn with
near-access cause 4 also where the allocation goes because its workgroup is saved; R169 names retirement only. -/
def State.releaseWg (s : State) (g : Nat) (w : Workgroup) : State :=
  let (ep, s) := s.freshEpoch
  let held : List (Nat × Req) := s.reqs.filter (fun e => e.2.thread.wg == g && e.2.kind.returning)
  let s := s.onCore w.core (fun c => held.foldl (fun (c : CoreSt) (e : Nat × Req) => c.freeReturn (laneKey w e.2.thread.tid)) c)
  let s := s.onCore w.core (fun c =>
    let c := (List.range 8).foldl (fun c i => if (c.slot i).owner = some g
      then c.setSlot i { state := .free, epoch := ep, bytes := [], damaged := false } else c) c
    let c := (List.range 4).foldl (fun c i => if (c.book i).owner = some g then c.setBook i { c.book i with owner := none } else c) c
    { c with claims := c.claims.filter (fun e => e.1 != g) })
  let lo := nearKey w.core w.base
  let out := fun (a : Nat) => !(decide (lo ≤ a) && decide (a < lo + w.nearSize))
  let s := { s with wgs := Tbl.erase s.wgs g, threads := s.threads.filter (fun e => e.2.ref.wg != g),
                    near := s.near.filter (fun e => out e.1), nearWrote := s.nearWrote.filter out,
                    merge := s.merge.filter (fun e => out e.1),
                    reserves := s.reserves.filter (fun r => r.peer.isSome || r.thread.wg != g),
                    reqs := s.reqs.filter (fun e => e.2.thread.wg != g), struckOps := s.struckOps.filter (fun e => e.2.wg != g),
                    parts := s.parts.map (fun (e : Nat × Partition) => (e.1, e.2.dropWaits (fun r => r.wg == g))) }
  (s.withdrawParked w.core w.base w.nearSize).claimCheck w.core

/-- The charge of R362 for a residency that ends now. -/
def State.residency (s : State) (w : Workgroup) : Nat := w.ran + ((s.core w.core).cyc.toNat - w.placed)
def State.chargeOf (s : State) (w : Workgroup) : Nat := s.residency w * w.width * w.depth / 2048
/-- PRE_REQ.BUSY falls once no workgroup of the launch is resident (R372). -/
def State.preSettle (s : State) (l : Nat) : State :=
  if s.wgs.any (fun e => e.2.launch == l) then s else s.onLaunch l (fun x => { x with preBusy := false })

/-- A workgroup leaves its launch, normally or terminated (R40, R266, R281, R362, R368). -/
def State.retireWg (s : State) (g : Nat) (failed : Bool) : State :=
  match s.wg g with
  | none => s
  | some w =>
    match s.launchOf w with
    | none => s.releaseWg g w
    | some l =>
      let c := s.chargeOf w
      let s := s.voidTickets l.part l w (if failed || w.faulted then 3 else 2)
      let s := s.abortMember w
      let s := s.releaseWg g w
      let s := s.onLaunch w.launch (fun x => { x with
        done := if failed then x.done else x.done + 1, failed := if failed then x.failed + 1 else x.failed,
        retired := setInsert x.retired w.log, cycles := x.cycles + c, digests := Tbl.insert x.digests w.log w.digest })
      let s := s.onQueue l.queue (fun q => { q with deficit := q.deficit - BitVec.ofNat 64 c })
      (w.teamList.foldl (fun s t => s.teamCheck w.launch t) s).preSettle w.launch

/-- Termination: the threads stop, the operations end, then the workgroup leaves as failed (R368, R378). Its issued
requests are not performed; its operations complete CONTAINED. -/
def State.terminateWg (s : State) (g : Nat) : State :=
  let ops := s.ops.filter (fun e => e.2.wg == g)
  (ops.foldl (fun s e => (s.mvCount e.2).completeOp e.1 stContained) s).retireWg g true

/-- Every live thread has made a save exit: the core performs its release, the workgroup is saved and rejoins its launch as
a pending restore (R299, R370). -/
def State.saveWg (s : State) (g : Nat) : State :=
  match s.wg g with
  | none => s
  | some w =>
    let tids := ((s.threadsOf g).filter (·.saved)).map (·.ref.tid)
    let w' := { w with ran := s.residency w, preempt := none }
    let books := (s.core w.core).books.filter (fun e => e.2.owner == some g)
    let s := (s.releaseCore w.core).releaseWg g w
    (s.onLaunch w.launch (fun l =>
      { l with saved := l.saved ++ [{ id := g, wg := w', tids := tids, books := books }] })).preSettle w.launch

/-- The reservation of a thread of this device is cleared (R172). -/
def State.dropReserve (s : State) (r : ThreadRef) : State :=
  { s with reserves := s.reserves.filter (fun x => !(x.peer.isNone && x.thread == r)) }
/-- A thread has ended (R40): barriers, rows and team barriers that waited for it go on, and with the last live thread
the workgroup retires. One that makes its save exit stays live, with its lane slot and registers, until every live thread
has made one; then the workgroup is saved (R177, R188, R370). -/
def State.threadEnd (s : State) (r : ThreadRef) (save : Bool) : State :=
  match s.thread r, s.wgOf r with
  | some _, some w =>
    let s := s.onThread r (fun u => { u with exited := !save, saved := save, stall := if save then .exiting else .none })
    let s := s.dropReserve r
    let live := s.live r.wg
    if live.isEmpty then s.retireWg r.wg false
    else if live.all (·.saved) then s.saveWg r.wg
    else if save then s.rowCheck r.wg (w.row r.tid)
    else w.teamList.foldl (fun s t => s.teamCheck w.launch t) ((s.barrierCheck r.wg).rowCheck r.wg (w.row r.tid))
  | _, _ => s

/-! Virtual accesses of a thread that are made whole at once: trap frames (R269, R270) -/

/-- Write bytes within one page as a thread's store through its core's L1. -/
def State.threadWriteVa (s : State) (w : Workgroup) (va : DWord) (bs : List Byte) : Except AccessErr State :=
  match s.engineVa (s.partOf w) (some w.core) va bs.length true with
  | .error e => .error e
  | .ok x => if x.poison || s.memPoisoned x.pa bs.length then .error .poison
    else .ok (((s.translated (s.partOf w) (some w.core) va.toNat).asFunction (s.partOf w) x.pa bs.length true).memStore x.pa bs w.core x.cp)
/-! Taking a trap (R268, R269) -/

/-- The frame slot of a thread (R269). -/
def frameAddr (l : Launch) (w : Workgroup) (tid : Nat) : DWord := l.tframe + BitVec.ofNat 64 (64 * (w.log * 512 + tid))
/-- The 64 bytes of a frame (R269). -/
def frameBytes (q : TrapReq) (lanes : DWord) (t : Thread) : List Byte :=
  leBytes 8 q.resume.toNat ++ leBytes 8 q.addr.toNat ++ leBytes 8 lanes.toNat ++ leBytes 4 q.detail.toNat
    ++ [q.cls, 0, 0, 0] ++ leBytes 4 q.aux.toNat ++ List.replicate 12 0
    ++ leBytes 4 (t.getV 0).toNat ++ leBytes 4 (t.getV 1).toNat ++ leBytes 4 (t.getV 2).toNat ++ leBytes 4 (t.getV 3).toNat

/-- The registers v0 to v3 that a returned load writes and no software has written since. -/
def LoadRec.early (l : LoadRec) : List Nat :=
  if l.value.isSome then ((List.range l.count).map (l.dest + ·)).filter (fun k => decide (k < 4) && !l.dirty.contains k && !l.gone.contains k)
  else []
/-- A load to v0 to v3 that has returned is written before a trap saves these registers, and is over for them: its value
survives the handler, pre-emption and restore (R34, R183, R269; log entry 44). -/
def Thread.land (t : Thread) : Thread :=
  let put := fun (v : Tbl Word) (l : LoadRec) => l.early.foldl (fun v k => Tbl.put 0 v k ((l.value.getD []).getD (k - l.dest) 0)) v
  { t with v := t.loads.foldl put t.v, loads := t.loads.map (fun l => { l with gone := l.early ++ l.gone }) }
/-- Whether a load to v0 to v3 is outstanding: pre-emption waits for it (R183, log entry 44). -/
def Thread.owesEarly (t : Thread) : Bool := t.loads.any (fun l => decide (l.dest < 4) && t.outLd.contains l.seq)
/-- The thread in its handler: v0:v1 the frame, v2 the class, v3 the detail, the PC at TVEC (R269).
DESIGN CHOICE (log entry 42): R162 speaks of software's writes; where a load to v0 to v3 is still outstanding at a trap other
than pre-emption, the entry counts as a write of its destination, and so do the writes of ERET. -/
def Thread.enterHandler (t : Thread) (frame tvec : DWord) (cls : Byte) (detail : Word) : Thread :=
  let t := ((t.setPair 0 frame).setV 2 (cls.zeroExtend 32)).setV 3 detail
  { t with handler := true, hclass := cls, pc := fieldOf tvec 55 0, hint := none, stall := .none, grouping := .out, fresh := false }

/-- Take one trap (R269): write the frame. The flag says that the trap ends the workgroup: a failed frame write, TVEC = 0
or a trap in handler mode. -/
def State.enterTrap (s : State) (q : TrapReq) (lanes : DWord) : State × Bool :=
  match s.thread q.thread, s.wgOf q.thread with
  | some t, some w =>
    if t.exited then (s, false)
    else match s.launchOf w with
      | none => (s, false)
      | some l =>
        let frame := frameAddr l w q.thread.tid
        match s.threadWriteVa w frame (frameBytes q lanes t.land) with
        | .error _ => (s.translated (s.partOf w) (some w.core) frame.toNat, true)
        | .ok s' =>
          if t.handler || l.tvec == 0 then (s', true)
          else (s'.onThread q.thread (fun t => t.land.enterHandler frame l.tvec q.cls q.detail), false)
  | _, _ => (s, false)

/-- LANES: the lanes of the quarter whose threads took the class at this word (R269). -/
def State.lanesOf (s : State) (q : TrapReq) : DWord :=
  let place := fun (r : ThreadRef) => (s.wgOf r).map (fun w => (w.core, w.quarter, s.partOf w))
  let word := fun (r : ThreadRef) => (s.thread r).map (·.pc)
  s.traps.foldl (fun m x => if x.cls == q.cls && place x.thread == place q.thread && word x.thread == word q.thread then
    match s.wgOf x.thread with
    | some w => m ||| (1#64 <<< w.laneOf x.thread.tid)
    | none => m else m) 0

/-- Whether a trap is a fault of its workgroup for VOID_FAULT: every class but pre-emption, TRAP, BRK and the restore
(R281, log entry 17). -/
def faultClass (c : Byte) : Bool := c != clPreempt && c != clSoftware && c != clBreak && c != clRestore
/-- Note that a workgroup has faulted (R281). -/
def State.noteFault (s : State) (q : TrapReq) : State :=
  if faultClass q.cls then s.onWg q.thread.wg (fun w => { w with faulted := true }) else s
/-- Take the traps that the step has raised: every thread's frame is written before a workgroup ends (R269). -/
def State.deliver (s : State) : State :=
  let lanes := s.traps.map (fun q => (q, s.lanesOf q))
  let r := lanes.foldl (fun (a : State × List Nat) e =>
    let x := (a.1.noteFault e.1).enterTrap e.1 e.2
    (x.1, if x.2 then a.2 ++ [e.1.thread.wg] else a.2)) ({ s with traps := [] }, [])
  r.2.foldl (fun s g => s.terminateWg g) r.1

/-- Take traps round by round: a trap can end its workgroup, and that raises others (R169, R266). A round that raises
traps has ended a workgroup, so that there are no more rounds than threads. -/
def State.deliverRounds (fuel : Nat) (s : State) : State :=
  match fuel with
  | 0 => { s with traps := [] }
  | f + 1 => if s.traps.isEmpty then s else State.deliverRounds f s.deliver
/-- Take every trap raised. -/
def State.settleTraps (s : State) : State := State.deliverRounds (s.threads.length + 1) s
/-- The end of an issue: its traps are taken. -/
def State.finish (s : State) : State := ({ s with issue := none }).settleTraps

/-! Translation of a thread's access (R159, R324, R326) -/

/-- Kinds of fault records (R326). -/
def kLoad : Nat := 0
def kStore : Nat := 1
def kAtomic : Nat := 2
def kFetch : Nat := 3
def kAsync : Nat := 4

/-- A thread's translation of a global address of n bytes, with the checks of R30, R156 and R159 in their order; on a
miss the thread waits at the word for the walk (R324). A peer that does not export the frame refuses the access (R404). -/
def State.globalAccess (s : State) (t : Thread) (w : Workgroup) (va : DWord) (n kind : Nat) (read write sysAtomic : Bool)
    (k : Xlate → State → State) : State :=
  if fieldOf va 63 56 != 0 then s.trapData t clAddress 0 va
  else if va.toNat % n ≠ 0 then s.trapData t clAlign 0 va
  else match s.tlbLook (s.partOf w) w.core va.toNat with
    | none => s.onThread t.ref (fun u => { u with stall := .walk (va.toNat / 4096) kind va (s.core w.core).cyc })
    | some x =>
      if (read && !x.r) || (write && !x.w) || (sysAtomic && regionOf x.pa == 2 && !x.sa)
          || (peerRefuses x.pa && !s.linkLost x.pa) then s.trapData t clAccess 0 va
      else k x (s.tlbTouch w.core va.toNat)

/-! Returning from a trap (R270) -/

/-- The thread after ERET of a frame: v0 to v3 from SAVEV, the PC at RESUME. -/
def Thread.leaveHandler (t : Thread) (frame : List Byte) (pc : Pc) : Thread :=
  let t := t.setVs 0 ((List.range 4).map (fun i => BitVec.ofNat 32 (bytesAt frame (48 + 4 * i) 4)))
  { t.goto pc with handler := false, hclass := 0 }
/-- ERET (R270). -/
def State.eret (s : State) (t : Thread) (w : Workgroup) : State :=
  if !t.handler then s.trapWord t clMode 1
  else match s.launchOf w with
    | none => s
    | some l =>
      let a := frameAddr l w t.ref.tid
      s.globalAccess t w a 64 kLoad true false false (fun x s =>
        if s.linkLost x.pa then s.trapData t clMachine 3 a
        else if x.poison || s.memPoisoned x.pa 64 then ((s.l2Read x.pa 64).l2Policy x.pa 64 x.cp).trapData t clMachine 2 a
        else
          let (b, s) := (s.asFunction (s.partOf w) x.pa 64 false).memLoad x.pa 64 w.core x.cp
          let r : DWord := BitVec.ofNat 64 (bytesAt b 0 8)
          if fieldOf r 63 56 != 0 then s.trapData t clAddress 0 r
          else if fieldOf r 1 0 != 0 then s.trapWord t clInsnAddress 0
          else (s.onThread t.ref (fun t => t.leaveHandler b (fieldOf r 55 0))).barrierCheck t.ref.wg)

/-! Executing a word -/

/-- Change the threads by a function of each, in order. -/
def State.lanes (s : State) (refs : List ThreadRef) (f : Thread → Workgroup → State → State) : State :=
  refs.foldl (fun s r => match s.thread r, s.wgOf r with
    | some t, some w => f t w s
    | _, _ => s) s
/-- Each executing thread changes itself and goes on. -/
def State.eachLane (s : State) (refs : List ThreadRef) (f : Thread → Thread) : State :=
  refs.foldl (fun s r => s.onThread r (fun t => (f t).advance)) s

/-- The executing threads by workgroup; the first of each is the thread with the lowest index (R90, R151). -/
def byWg (refs : List ThreadRef) : List (Nat × List ThreadRef) :=
  (refs.foldl (fun m r => Tbl.insert m r.wg (Tbl.get [] m r.wg ++ [r])) ([] : Tbl (List ThreadRef)))
def leader (refs : List ThreadRef) : Option ThreadRef :=
  refs.foldl (fun a r => match a with
    | some b => if r.tid < b.tid then some r else some b
    | none => some r) none
/-- An elected instruction acts once for each workgroup with an executing thread (R98, R151). -/
def State.elected (s : State) (refs : List ThreadRef) (f : Thread → Workgroup → List ThreadRef → State → State) : State :=
  (byWg refs).foldl (fun s e => match leader e.2 with
    | some r => match s.thread r, s.wgOf r with
      | some t, some w => f t w e.2 s
      | _, _ => s
    | none => s) s

end Sys2Proof.Machine
end

