-- ==== Sys2Proof/Machine/Operands.lean ====
section
/-! DEFINITION. The operand forms: which registers, tags and handles a word names, and the checks of R105 that depend on
the thread (R13, R36, R90, R93, R99-R103), in their order. -/
namespace Sys2Proof.Machine

/-- A use of v registers: first number, how many, and the alignment of the first. -/
structure VUse where
  k     : Nat
  count : Nat
  align : Nat
  deriving DecidableEq, Repr
/-- One v register. -/
def vOne (r : VReg) : VUse := { k := r.toNat, count := 1, align := 1 }
/-- An even-odd pair (R13). -/
def vPair (r : VReg) : VUse := { k := r.toNat, count := 2, align := 2 }
/-- A group of four (R90). -/
def vQuad (r : VReg) : VUse := { k := r.toNat, count := 4, align := 4 }
/-- n consecutive registers with no alignment rule (R90). -/
def vRun (r : VReg) (n : Nat) : VUse := { k := r.toNat, count := n, align := 1 }
/-- A register or a pair. -/
def vWide (wide : Bool) (r : VReg) : VUse := if wide then vPair r else vOne r
/-- The v register of a field of major 0x1F (R93). -/
def uUse (c : Nat) (r : UReg) : List VUse := if r.toNat < 64 then [] else [{ k := r.toNat - 64, count := c, align := c }]
/-- The data registers of a load or store of an element size (R95). -/
def ldUse (vd : VReg) (sz : LdSize) : VUse :=
  match sz with
  | .d => vPair vd
  | .q => vQuad vd
  | _ => vOne vd
def stUse (vd : VReg) (sz : StSize) : VUse :=
  match sz with
  | .d => vPair vd
  | .q => vQuad vd
  | _ => vOne vd
/-- An address operand: a pair for global, one register for near (R96). -/
def spaceUse (sp : Space) (va : VReg) : VUse := vWide (sp == .global) va

/-- The width of a special register: none where the number is unassigned (R22). -/
def specialWidth (sr : BitVec 7) : Option Nat :=
  let n := sr.toNat
  if n ≤ 0x19 then some (if n = 0x0D ∨ n = 0x10 ∨ n = 0x15 then 64 else 32) else none

/-- The v registers that a word names; those of the field instructions by the descriptor bound (R244). -/
def vUses (i : Instr) : List VUse :=
  match i with
  | .srd vd sr => [vWide (specialWidth sr == some 64) vd]
  | .swr sr va => [vWide (specialWidth sr == some 64) va]
  | .dsav va => [vOne va]
  | .drst va => [vOne va]
  | .add vd va vb => [vOne vd, vOne va, vOne vb]
  | .sub vd va vb => [vOne vd, vOne va, vOne vb]
  | .mul vd va vb => [vOne vd, vOne va, vOne vb]
  | .mulh vd va vb => [vOne vd, vOne va, vOne vb]
  | .mulhu vd va vb => [vOne vd, vOne va, vOne vb]
  | .and vd va vb => [vOne vd, vOne va, vOne vb]
  | .or vd va vb => [vOne vd, vOne va, vOne vb]
  | .xor vd va vb => [vOne vd, vOne va, vOne vb]
  | .shl vd va vb => [vOne vd, vOne va, vOne vb]
  | .shr vd va vb => [vOne vd, vOne va, vOne vb]
  | .sar vd va vb => [vOne vd, vOne va, vOne vb]
  | .rol vd va vb => [vOne vd, vOne va, vOne vb]
  | .min vd va vb => [vOne vd, vOne va, vOne vb]
  | .max vd va vb => [vOne vd, vOne va, vOne vb]
  | .minu vd va vb => [vOne vd, vOne va, vOne vb]
  | .maxu vd va vb => [vOne vd, vOne va, vOne vb]
  | .div vd va vb => [vOne vd, vOne va, vOne vb]
  | .divu vd va vb => [vOne vd, vOne va, vOne vb]
  | .rem vd va vb => [vOne vd, vOne va, vOne vb]
  | .remu vd va vb => [vOne vd, vOne va, vOne vb]
  | .adds vd va vb => [vOne vd, vOne va, vOne vb]
  | .subs vd va vb => [vOne vd, vOne va, vOne vb]
  | .popc vd va => [vOne vd, vOne va]
  | .clz vd va => [vOne vd, vOne va]
  | .brev vd va => [vOne vd, vOne va]
  | .add64 vd va vb => [vPair vd, vPair va, vPair vb]
  | .sub64 vd va vb => [vPair vd, vPair va, vPair vb]
  | .uadd ud ua ub => uUse 1 ud ++ uUse 1 ua ++ uUse 1 ub
  | .usub ud ua ub => uUse 1 ud ++ uUse 1 ua ++ uUse 1 ub
  | .umul ud ua ub => uUse 1 ud ++ uUse 1 ua ++ uUse 1 ub
  | .umulh ud ua ub => uUse 1 ud ++ uUse 1 ua ++ uUse 1 ub
  | .umulhu ud ua ub => uUse 1 ud ++ uUse 1 ua ++ uUse 1 ub
  | .uand ud ua ub => uUse 1 ud ++ uUse 1 ua ++ uUse 1 ub
  | .uor ud ua ub => uUse 1 ud ++ uUse 1 ua ++ uUse 1 ub
  | .uxor ud ua ub => uUse 1 ud ++ uUse 1 ua ++ uUse 1 ub
  | .ushl ud ua ub => uUse 1 ud ++ uUse 1 ua ++ uUse 1 ub
  | .ushr ud ua ub => uUse 1 ud ++ uUse 1 ua ++ uUse 1 ub
  | .usar ud ua ub => uUse 1 ud ++ uUse 1 ua ++ uUse 1 ub
  | .urol ud ua ub => uUse 1 ud ++ uUse 1 ua ++ uUse 1 ub
  | .umin ud ua ub => uUse 1 ud ++ uUse 1 ua ++ uUse 1 ub
  | .umax ud ua ub => uUse 1 ud ++ uUse 1 ua ++ uUse 1 ub
  | .uminu ud ua ub => uUse 1 ud ++ uUse 1 ua ++ uUse 1 ub
  | .umaxu ud ua ub => uUse 1 ud ++ uUse 1 ua ++ uUse 1 ub
  | .udiv ud ua ub => uUse 1 ud ++ uUse 1 ua ++ uUse 1 ub
  | .udivu ud ua ub => uUse 1 ud ++ uUse 1 ua ++ uUse 1 ub
  | .urem ud ua ub => uUse 1 ud ++ uUse 1 ua ++ uUse 1 ub
  | .uremu ud ua ub => uUse 1 ud ++ uUse 1 ua ++ uUse 1 ub
  | .uadds ud ua ub => uUse 1 ud ++ uUse 1 ua ++ uUse 1 ub
  | .usubs ud ua ub => uUse 1 ud ++ uUse 1 ua ++ uUse 1 ub
  | .upopc ud ua => uUse 1 ud ++ uUse 1 ua
  | .uclz ud ua => uUse 1 ud ++ uUse 1 ua
  | .ubrev ud ua => uUse 1 ud ++ uUse 1 ua
  | .uadd64 ud ua ub => uUse 2 ud ++ uUse 2 ua ++ uUse 2 ub
  | .usub64 ud ua ub => uUse 2 ud ++ uUse 2 ua ++ uUse 2 ub
  | .addi vd va _ => [vOne vd, vOne va]
  | .andi vd va _ => [vOne vd, vOne va]
  | .ori vd va _ => [vOne vd, vOne va]
  | .xori vd va _ => [vOne vd, vOne va]
  | .shli vd va _ => [vOne vd, vOne va]
  | .shri vd va _ => [vOne vd, vOne va]
  | .sari vd va _ => [vOne vd, vOne va]
  | .roli vd va _ => [vOne vd, vOne va]
  | .lui vd _ => [vOne vd]
  | .bfx vd va _ _ _ => [vOne vd, vOne va]
  | .bfi vd va _ _ => [vOne vd, vOne va]
  | .icmp _ _ va vb wide _ => [vWide wide va, vWide wide vb]
  | .fcmp _ _ va vb _ _ => [vOne va, vOne vb]
  | .sel vd va vb wide _ _ => [vWide wide vd, vWide wide va, vWide wide vb]
  | .fadd vd va vb => [vOne vd, vOne va, vOne vb]
  | .fsub vd va vb => [vOne vd, vOne va, vOne vb]
  | .fmul vd va vb => [vOne vd, vOne va, vOne vb]
  | .ffma vd va vb => [vOne vd, vOne va, vOne vb]
  | .fmin vd va vb => [vOne vd, vOne va, vOne vb]
  | .fmax vd va vb => [vOne vd, vOne va, vOne vb]
  | .fabs vd va => [vOne vd, vOne va]
  | .fneg vd va => [vOne vd, vOne va]
  | .fdiv vd va vb => [vOne vd, vOne va, vOne vb]
  | .fsqrt vd va => [vOne vd, vOne va]
  | .fsgnj vd va vb => [vOne vd, vOne va, vOne vb]
  | .frcp vd va => [vOne vd, vOne va]
  | .frsq vd va => [vOne vd, vOne va]
  | .fexp2 vd va => [vOne vd, vOne va]
  | .flog2 vd va => [vOne vd, vOne va]
  | .fsin vd va => [vOne vd, vOne va]
  | .fcos vd va => [vOne vd, vOne va]
  | .ftanh vd va => [vOne vd, vOne va]
  | .fsigm vd va => [vOne vd, vOne va]
  | .fcvt vd va _ _ => [vOne vd, vOne va]
  | .pkadd vd va vb => [vOne vd, vOne va, vOne vb]
  | .pkmul vd va vb => [vOne vd, vOne va, vOne vb]
  | .pkfma vd va vb => [vOne vd, vOne va, vOne vb]
  | .pkmin vd va vb => [vOne vd, vOne va, vOne vb]
  | .pkmax vd va vb => [vOne vd, vOne va, vOne vb]
  | .pksub vd va vb => [vOne vd, vOne va, vOne vb]
  | .pkaddBf16 vd va vb => [vOne vd, vOne va, vOne vb]
  | .pkmulBf16 vd va vb => [vOne vd, vOne va, vOne vb]
  | .pkfmaBf16 vd va vb => [vOne vd, vOne va, vOne vb]
  | .pkminBf16 vd va vb => [vOne vd, vOne va, vOne vb]
  | .pkmaxBf16 vd va vb => [vOne vd, vOne va, vOne vb]
  | .pksubBf16 vd va vb => [vOne vd, vOne va, vOne vb]
  | .fdot4E4m3 vd va vb => [vOne vd, vOne va, vOne vb]
  | .fdot4E5m2 vd va vb => [vOne vd, vOne va, vOne vb]
  | .idp4Ss vd va vb => [vOne vd, vOne va, vOne vb]
  | .idp4Su vd va vb => [vOne vd, vOne va, vOne vb]
  | .idp4Us vd va vb => [vOne vd, vOne va, vOne vb]
  | .idp4Uu vd va vb => [vOne vd, vOne va, vOne vb]
  | .jr va => [vPair va]
  | .callr va => [vPair va]
  | .ld vd vo _ sz _ => [ldUse vd sz, vOne vo]
  | .st vd vo _ sz _ => [stUse vd sz, vOne vo]
  | .ldn vd vo sz _ => [ldUse vd sz, vOne vo]
  | .stn vd vo sz _ => [stUse vd sz, vOne vo]
  | .ldnf vd va => [vOne vd, vOne va]
  | .ldnw vd va => [vOne vd, vOne va]
  | .stne va vb => [vOne va, vOne vb]
  | .stnf va vb => [vOne va, vOne vb]
  | .fesetE va => [vOne va]
  | .fesetF va => [vOne va]
  | .feq vd va => [vOne vd, vOne va]
  | .atom vd va vb sp op => [vOne vd, spaceUse sp va, vWide (op == .cas) vb]
  | .red va vb sp _ => [spaceUse sp va, vOne vb]
  | .lr vd va sp => [vOne vd, spaceUse sp va]
  | .sc vd va vb sp => [vOne vd, spaceUse sp va, vOne vb]
  | .voteEvery vd _ _ => [vOne vd]
  | .voteSome vd _ _ => [vOne vd]
  | .voteMask vd _ _ => [vPair vd]
  | .voteCount vd _ _ => [vOne vd]
  | .shflAt vd va _ => [vOne vd, vOne va]
  | .shflRot vd va _ => [vOne vd, vOne va]
  | .shflRev vd va _ => [vOne vd, vOne va]
  | .shflSwap vd va _ => [vOne vd, vOne va]
  | .matchSame vd va _ => [vPair vd, vOne va]
  | .matchUnif vd va _ => [vPair vd, vOne va]
  | .confd vd va _ => [vPair vd, vOne va]
  | .cmpk vd _ _ => [vOne vd]
  | .matchLead vd va _ => [vOne vd, vOne va]
  | .cpy _ _ _ va _ _ => [vPair va]
  | .cpym _ _ _ va _ => [vOne va]
  | .cpyq _ _ _ va _ _ => [vPair va]
  | .twany va => [vPair va]
  | .twall va => [vPair va]
  | .tffr vd va => [vOne vd, vPair va]
  | .tclr va => [vPair va]
  | .htest vd _ => [vOne vd]
  | .hstat vd _ => [vOne vd]
  | .old _ _ _ va _ => [vOne va]
  | .mma _ _ _ va _ => [vOne va]
  | .mmas _ _ _ va _ _ => [vOne va]
  | .mv _ _ _ va _ _ => [vOne va]
  | .accld _ _ _ va => [vOne va]
  | .accst _ _ _ va => [vOne va]
  | .acz _ _ _ va => [vOne va]
  | .scacc _ _ va _ => [vOne va]
  | .nprune _ _ va _ => [vOne va]
  | .cmpkSparse _ _ va => [vOne va]
  | .fbind _ _ va => [vOne va]
  | .fbindNear _ va => [vOne va]
  | .fld vd va _ => [vOne vd, vOne va]
  | .fldg vd va _ => [vOne vd, vOne va]
  | .fspl vd va _ => [vOne vd, vOne va]
  | .hand _ _ _ pk va => if pk = .none then [] else [vOne va]
  | .epset _ _ va => [vOne va]
  | .launch _ _ _ va _ => [vOne va]
  | .gcinc vd va => [vOne vd, vOne va]
  | .qpush vd va _ => [vOne vd, vOne va]
  | .qpop vd _ => [vPair vd]
  | .rnd vd => [vOne vd]
  | .ared _ _ va => [vOne va]
  | .agath _ _ va => [vOne va]
  | .bcast _ _ va => [vOne va]
  | .dgstRead vd => [vPair vd]
  | .dgstFold va => [vPair va]
  | _ => []

/-- Whether a 64-bit operand of major 0x1F starts at an odd s number (R93). -/
def oddS (r : UReg) : Bool := decide (r.toNat < 64) && r.getLsbD 0
def uPairOdd (i : Instr) : Bool :=
  match i with
  | .uadd64 ud ua ub => oddS ud || oddS ua || oddS ub
  | .usub64 ud ua ub => oddS ud || oddS ua || oddS ub
  | _ => false

/-- Axes of a bound descriptor (R234). -/
def Field.dims (f : Field) : Nat := bytesAt f.desc 8 1 / 4 % 4 + 1
/-- The register groups of the field instructions, by the descriptor bound to the slot (R90, R244, R246). -/
def fieldUses (w : Workgroup) (i : Instr) : List VUse :=
  let dims := fun (fs : FSlot) => (Tbl.find w.fields fs.toNat).map Field.dims
  match i with
  | .fld _ va fs => (dims fs).toList.map (fun d => vRun va d)
  | .fldg vd va fs => (dims fs).toList.flatMap (fun d => [vRun vd (d + 1), vRun va d])
  | .fspl _ va fs => (dims fs).toList.map (fun d => vRun va d)
  | _ => []

/-- The tag a word names (R36); engine roles name none (R256). -/
def tagOf (i : Instr) : Option Tag :=
  match i with
  | .cpy _ t _ _ _ _ => some t
  | .cpym _ t _ _ _ => some t
  | .cpyq _ t _ _ _ _ => some t
  | .cbook _ t _ _ _ => some t
  | .old _ t _ _ _ => some t
  | .mma _ t _ _ _ => some t
  | .mmas _ t _ _ _ _ => some t
  | .mv _ t _ _ _ _ => some t
  | .accld _ t _ _ => some t
  | .accst _ t _ _ => some t
  | .acz _ t _ _ => some t
  | .scacc _ t _ _ => some t
  | .nprune _ t _ _ => some t
  | .cmpkSparse _ t _ => some t
  | .launch _ t _ _ _ => some t
  | .ared _ t _ => some t
  | .agath _ t _ => some t
  | .bcast _ t _ => some t
  | _ => none
/-- Whether a word starts an asynchronous operation (R196). -/
def isAsync (i : Instr) : Bool := (tagOf i).isSome

/-- Row operations (R190-R194), with their mask pair. -/
def rowMaskOf (i : Instr) : Option SPair :=
  match i with
  | .voteEvery _ sm _ => some sm
  | .voteSome _ sm _ => some sm
  | .voteMask _ sm _ => some sm
  | .voteCount _ sm _ => some sm
  | .shflAt _ _ sm => some sm
  | .shflRot _ _ sm => some sm
  | .shflRev _ _ sm => some sm
  | .shflSwap _ _ sm => some sm
  | .matchSame _ _ sm => some sm
  | .matchUnif _ _ sm => some sm
  | .confd _ _ sm => some sm
  | .cmpk _ sm _ => some sm
  | .matchLead _ _ sm => some sm
  | _ => none

/-! Hints (R99-R103) -/

/-- IMM applies before majors 0x02-0x05, 0x07 and 0x14-0x17. -/
def immApplies (i : Instr) : Bool :=
  match i with
  | .addi _ _ _ => true
  | .andi _ _ _ => true
  | .ori _ _ _ => true
  | .xori _ _ _ => true
  | .lui _ _ => true
  | .ld _ _ _ _ _ => true
  | .st _ _ _ _ _ => true
  | .ldn _ _ _ _ => true
  | .stn _ _ _ _ => true
  | _ => false
/-- PRED applies before every word but those R101 lists. -/
def predApplies (i : Instr) : Bool :=
  match i with
  | .bra _ _ _ _ => false
  | .call _ _ _ => false
  | .bar _ => false
  | .tbar _ _ => false
  | .chor _ _ => false
  | .cend => false
  | .hand _ _ _ _ _ => false
  | .cloop _ _ => false
  | .cloopReg _ _ => false
  | .cue _ _ => false
  | i => (rowMaskOf i).isNone
/-- RMODE applies before majors 0x0C, 0x0D, 0x0E and, of 0x0F, fn 0-5, 8-13, 16 and 17. -/
def rmodeApplies (i : Instr) : Bool :=
  match i with
  | .fadd _ _ _ => true
  | .fsub _ _ _ => true
  | .fmul _ _ _ => true
  | .ffma _ _ _ => true
  | .fmin _ _ _ => true
  | .fmax _ _ _ => true
  | .fabs _ _ => true
  | .fneg _ _ => true
  | .fdiv _ _ _ => true
  | .fsqrt _ _ => true
  | .fsgnj _ _ _ => true
  | .frcp _ _ => true
  | .frsq _ _ => true
  | .fexp2 _ _ => true
  | .flog2 _ _ => true
  | .fsin _ _ => true
  | .fcos _ _ => true
  | .ftanh _ _ => true
  | .fsigm _ _ => true
  | .fcvt _ _ _ _ => true
  | .pkadd _ _ _ => true
  | .pkmul _ _ _ => true
  | .pkfma _ _ _ => true
  | .pkmin _ _ _ => true
  | .pkmax _ _ _ => true
  | .pksub _ _ _ => true
  | .pkaddBf16 _ _ _ => true
  | .pkmulBf16 _ _ _ => true
  | .pkfmaBf16 _ _ _ => true
  | .pkminBf16 _ _ _ => true
  | .pkmaxBf16 _ _ _ => true
  | .pksubBf16 _ _ _ => true
  | .fdot4E4m3 _ _ _ => true
  | .fdot4E5m2 _ _ _ => true
  | _ => false
/-- A hint of the run that does not apply before the word (R103). -/
def hintMisused (t : Thread) (i : Instr) : Bool :=
  match t.hint with
  | none => false
  | some r => (r.imm.isSome && !immApplies i) || (r.pred.isSome && !predApplies i) || (r.rmode.isSome && !rmodeApplies i)
/-- LUI after IMM must have zero in imm19[18:12] (R100). -/
def luiHigh (t : Thread) (i : Instr) : Bool :=
  match i with
  | .lui _ imm => t.immHint.isSome && fieldOf imm 18 12 != 0
  | _ => false
/-- The numbers of the special registers of R22 end at 0x19. -/
def specialBad (i : Instr) : Bool :=
  match i with
  | .srd _ sr => (specialWidth sr).isNone
  | .swr sr _ => (specialWidth sr).isNone
  | _ => false

/-- Whether a use lies at or beyond n registers: a field or a group that runs past them. A pair is named by its first
register, so that an odd base below n is only odd (R13, R90, R195). -/
def VUse.beyond (u : VUse) (n : Nat) : Bool :=
  decide (n ≤ u.k) || (decide (n < u.k + u.count) && !(u.count == 2 && u.align == 2 && u.k % 2 == 1))
/-- The register checks of R105 for a thread of n registers: 0x04 before 0x05. -/
def regDetail (uses : List VUse) (odd : Bool) (n : Nat) : Option Word :=
  if uses.any (fun u => u.beyond n) then some 4
  else if uses.any (fun u => decide (u.k % u.align ≠ 0)) || odd then some 5
  else none
/-- The tag lies outside the launch's mask (R36). -/
def State.tagBad (s : State) (w : Workgroup) (i : Instr) : Bool :=
  match tagOf i, s.launchOf w with
  | some t, some l => !l.tagMask.getLsbD t.toNat
  | _, _ => false
/-- The DETAIL of the first failing check of R105 that the decoded word does not settle by itself. -/
def State.checkDetail (s : State) (t : Thread) (w : Workgroup) (i : Instr) : Option Word :=
  if luiHigh t i then some 3
  else match regDetail (vUses i ++ fieldUses w i) (uPairOdd i) w.nregs with
    | some d => some d
    | none =>
      if hintMisused t i then some 6
      else if specialBad i then some 7
      else if s.tagBad w i then some 8
      else none

/-- Whether the run's PRED hint suppresses the word in this thread (R101). -/
def Thread.suppressed (t : Thread) : Bool :=
  match t.hint.bind (·.pred) with
  | some (p, neg) => t.getP p == neg
  | none => false

/-- The scaled immediate of the M layout (R100). -/
def Thread.scaledImm (t : Thread) (imm : BitVec 4) : Nat :=
  match t.immHint with
  | some h => h.toNat * 16 + imm.toNat
  | none => imm.toNat
/-- The immediate of the I layout (R94, R100); `ext` is its value without a hint. -/
def Thread.fullImm (t : Thread) (imm : BitVec 12) (ext : Word) : Word :=
  match t.immHint with
  | some h => h ++ imm
  | none => ext
/-- Element sizes in bytes (R95). -/
def ldBytes (sz : LdSize) : Nat :=
  match sz with
  | .b => 1
  | .sb => 1
  | .h => 2
  | .sh => 2
  | .w => 4
  | .d => 8
  | .q => 16
def stBytes (sz : StSize) : Nat :=
  match sz with
  | .b => 1
  | .h => 2
  | .w => 4
  | .d => 8
  | .q => 16
/-- The words a load of these bytes writes (R95). -/
def ldWords (sz : LdSize) (bs : List Byte) : List Word :=
  let w := fun k => BitVec.ofNat 32 (bytesAt bs (4 * k) 4)
  match sz with
  | .b => [BitVec.ofNat 32 (bytesAt bs 0 1)]
  | .sb => [(BitVec.ofNat 8 (bytesAt bs 0 1)).signExtend 32]
  | .h => [BitVec.ofNat 32 (bytesAt bs 0 2)]
  | .sh => [(BitVec.ofNat 16 (bytesAt bs 0 2)).signExtend 32]
  | .w => [w 0]
  | .d => [w 0, w 1]
  | .q => [w 0, w 1, w 2, w 3]
/-- How many registers a load writes. -/
def ldRegs (sz : LdSize) : Nat :=
  match sz with
  | .d => 2
  | .q => 4
  | _ => 1
/-- The bytes a store takes from its data registers (R95, R161). -/
def Thread.storeData (t : Thread) (vd : VReg) (sz : StSize) : List Byte :=
  (List.range 4).flatMap (fun k => leBytes 4 (t.getV (vd.toNat + k)).toNat) |>.take (stBytes sz)
/-- The global address of an M-layout access (R156). -/
def globalAddr (t : Thread) (w : Workgroup) (vo : VReg) (sb : SPair) (n : Nat) (imm : BitVec 4) : DWord :=
  w.sPair sb + BitVec.ofNat 64 ((t.getV vo.toNat).toNat * n) + BitVec.ofNat 64 (t.scaledImm imm * n)
/-- The near address of LDN and STN (R157). -/
def nearAddr (t : Thread) (vo : VReg) (n : Nat) (imm : BitVec 4) : Word :=
  t.getV vo.toNat + BitVec.ofNat 32 (t.scaledImm imm * n)

end Sys2Proof.Machine
end

