-- ==== Sys2Proof/Machine/Issue.lean ====
section
/-! DEFINITION. Executing a word: what makes a thread wait at it (R38, R149, R175, R182, R209-R214, R222), and the split
of an issue group into the threads that trap, skip, wait and execute (R101, R105, R106, R151). -/
namespace Sys2Proof.Machine

/-- What executing a word or an event answers. -/
abbrev Out := Host.Outcome State Fault Refusal

/-! Waiting -/

/-- Words that join the load counter (R38, R245, R278). -/
def isLoad (i : Instr) : Bool :=
  match i with
  | .ld _ _ _ _ _ => true
  | .ldn _ _ _ _ => true
  | .ldnf _ _ => true
  | .ldnw _ _ => true
  | .feq _ _ => true
  | .atom _ _ _ _ _ => true
  | .lr _ _ _ => true
  | .sc _ _ _ _ => true
  | .gcinc _ _ => true
  | .fld _ _ _ => true
  | .fldg _ _ _ => true
  | _ => false
/-- Words that join the store counter (R38, R165, R246). -/
def isStore (i : Instr) : Bool :=
  match i with
  | .st _ _ _ _ _ => true
  | .stn _ _ _ _ => true
  | .stne _ _ => true
  | .stnf _ _ => true
  | .fesetE _ => true
  | .fesetF _ => true
  | .red _ _ _ _ => true
  | .fspl _ _ _ => true
  | _ => false
/-- Words that take a return slot of the lane (R318). -/
def takesReturn (i : Instr) : Bool :=
  match i with
  | .atom _ _ _ _ _ => true
  | .lr _ _ _ => true
  | .sc _ _ _ _ => true
  | .qpush _ _ _ => true
  | .qpop _ _ => true
  | _ => false
/-- Requests that write their bytes. -/
def ReqKind.writes (k : ReqKind) : Bool :=
  match k with
  | .load _ => false
  | .lr => false
  | .gcinc => false
  | .field _ => false
  | _ => true
/-- Near bytes that the core reads at issue in program order (R163, R206, R216, R238, R275): the address register and
the size. -/
def blockOf (i : Instr) : Option (VReg × Nat) :=
  match i with
  | .cpym _ _ _ va _ => some (va, 32)
  | .old _ _ _ va _ => some (va, 16)
  | .mma _ _ _ va _ => some (va, 32)
  | .mmas _ _ _ va _ _ => some (va, 32)
  | .mv _ _ _ va _ _ => some (va, 32)
  | .accld _ _ _ va => some (va, 16)
  | .accst _ _ _ va => some (va, 16)
  | .acz _ _ _ va => some (va, 16)
  | .scacc _ _ va _ => some (va, 16)
  | .nprune _ _ va _ => some (va, 32)
  | .cmpkSparse _ _ va => some (va, 32)
  | .ared _ _ va => some (va, 16)
  | .agath _ _ va => some (va, 16)
  | .bcast _ _ va => some (va, 16)
  | .fbindNear _ va => some (va, 64)
  | .drst va => some (va, 128)
  | _ => none

/-- Whether two byte ranges meet. -/
def meets (a n b m : Nat) : Bool := decide (a < b + m) && decide (b < a + n)
/-- A thread has a write on bytes that has not been performed. -/
def State.ownWrite (s : State) (r : ThreadRef) (near : Bool) (a n : Nat) : Bool :=
  s.reqs.any (fun e => e.2.thread == r && e.2.near == near && e.2.kind.writes && !e.2.served && meets a n e.2.addr e.2.size)
/-- A thread of the workgroup at this word has a write under way to its block: all of them wait for it (R163). -/
def State.blockBusy (s : State) (t : Thread) (w : Workgroup) (va : VReg) (n : Nat) : Bool :=
  (s.live t.ref.wg).any (fun u => u.pc == t.pc && match s.decodeNear w (u.getV va.toNat) with
    | some (c, off) => s.ownWrite u.ref true (nearKey c off) n
    | none => false)
/-- The same for words that read global memory at issue: the descriptor of FBIND and the frame of ERET (R163). -/
def State.globalBusy (s : State) (r : ThreadRef) : Bool :=
  s.reqs.any (fun e => e.2.thread == r && !e.2.near && e.2.kind.writes && !e.2.served)

/-- The condition of WAIT (R182). -/
def waitOver (t : Thread) (nld nst : BitVec 6) (ncp ntl : BitVec 4) : Bool :=
  let upTo := fun (out : List Nat) (issued k : Nat) => out.all (fun q => decide (issued < q + k))
  (nld == 63 || upTo t.outLd t.nld nld.toNat) && (nst == 63 || upTo t.outSt t.nst nst.toNat)
    && (ncp == 15 || (t.batches.drop ncp.toNat).all (fun b => b.2 == 0))
    && (ntl == 15 || upTo t.outTl t.ntl ntl.toNat)

/-- No earlier load of the thread is outstanding; no earlier store or RED. -/
def Thread.loaded (t : Thread) : Bool := t.outLd.isEmpty
def Thread.stored (t : Thread) : Bool := t.outSt.isEmpty
/-- Whether a tag mask lies in the launch's (R209). -/
def State.tagsIn (s : State) (w : Workgroup) (m : DWord) : Bool :=
  match s.launchOf w with
  | some l => m &&& ~~~l.tagMask == 0
  | none => true
/-- The conditions that belong to the word; the releases of CEND and of the sender of a HAND wait as FENCE does (R293, R297). -/
def State.wordBusy (s : State) (t : Thread) (w : Workgroup) (i : Instr) : Bool :=
  let bits := (s.core w.core).tagBits
  match i with
  | .bseal => decide (t.pendingBatches ≥ 15)
  | .wait a b c d => !waitOver t a b c d
  | .twany va => let m := t.getPair va.toNat; s.tagsIn w m && m != 0 && bits &&& m == 0
  | .twall va => let m := t.getPair va.toNat; s.tagsIn w m && bits &&& m != m
  | .hstat _ hs => match t.getH hs with
    | .pending _ => true
    | _ => false
  | .fence .full _ => !t.loaded || !t.stored
  | .fence .release _ => !t.loaded || !t.stored
  | .fence .acquire _ => !t.loaded
  | .fencePath => !t.stored
  | .bar _ => !t.loaded || !t.stored
  | .tbar _ _ => !t.loaded || !t.stored
  | .oprdy => s.reqs.any (fun e => e.2.thread == t.ref && e.2.kind == .store && e.2.near && e.2.addr / 2 ^ 19 == w.core)
  | .orel mask => (slotsOf mask).all (fun i => ((s.core w.core).slot i).owner == some t.ref.wg)
      && s.ops.any (fun e => e.2.wg == t.ref.wg && e.2.rects.any (fun r => !r.tile && mask.getLsbD r.index))
  | .eret => s.globalBusy t.ref
  | .exit => !t.loaded
  | .cend => !t.loaded || !t.stored
  | .hand _ snd _ _ _ => t.active && t.roleNo == snd.toNat && (!t.loaded || !t.stored)
  | _ => false
def isBind (i : Instr) : Bool :=
  match i with
  | .fbind _ _ _ => true
  | _ => false
/-- FBIND waits for every thread of its workgroup that is at the word (R163, R238). -/
def State.bindBusy (s : State) (t : Thread) (i : Instr) : Bool :=
  isBind i && (s.live t.ref.wg).any (fun u => u.pc == t.pc && s.globalBusy u.ref)
/-- A tag whose count has reached its limit stalls an issue that names it (R35). -/
def State.tagFull (s : State) (w : Workgroup) (i : Instr) : Bool :=
  match tagOf i with
  | some k => decide (((s.core w.core).tag k.toNat).count ≥ 65535)
  | none => false
/-- Whether the thread waits at the word before it acts (R38, R149). -/
def State.blocked (s : State) (t : Thread) (w : Workgroup) (i : Instr) : Bool :=
  (isLoad i && decide (t.outLd.length ≥ 63)) || (isStore i && decide (t.outSt.length ≥ 63))
  || (isTileOp i && decide (t.outTl.length ≥ 15))
  || (takesReturn i && decide (Tbl.get 0 (s.core w.core).returns (laneKey w t.ref.tid) ≥ 16))
  || (isAsync i && decide (t.pendingBatches ≥ 15) && !t.batches.any (fun b => b.1 == t.batch && b.2 != 0))
  || s.tagFull w i
  || (match blockOf i with
      | some (va, n) => s.blockBusy t w va n
      | none => false)
  || s.bindBusy t i || s.wordBusy t w i

/-! Executing -/

/-- What the word does in one thread before it acts: the illegal-instruction trap, no effect, waiting, or acting. -/
inductive Fate
  | trap (detail : Word) | skip | stall | run
  deriving DecidableEq, Repr
/-- R101, R105, R106: the checks come before the predicate, the predicate before waiting. -/
def State.fate (s : State) (t : Thread) (w : Workgroup) (i : Instr) : Fate :=
  match s.checkDetail t w i with
  | some d => .trap d
  | none => if t.suppressed then .skip else if s.blocked t w i then .stall else .run
/-- The thread's side of a fate that is not acting. -/
def State.settle (s : State) (t : Thread) (i : Instr) (f : Fate) : State :=
  match f with
  | .trap d => s.trapWord t clIllegal d
  | .skip => s.onThread t.ref Thread.advance
  | .stall => s.onThread t.ref (fun u => { u with stall := .again i })
  | .run => s

/-- An engine role that reaches a word it may not execute aborts its instance (R256, R266). -/
def State.engineFault (s : State) (launch team role cause : Nat) : State := s.abortStream (teamKey launch team) (role, cause)

/-- One member of the group: `f` acts if the thread executes the word. -/
def lane (i : Instr) (f : Thread → Workgroup → State → State) (t : Thread) (w : Workgroup) (s : State) : State :=
  match s.fate t w i with
  | .run => f t w s
  | x => s.settle t i x
/-- Execute a word in every member in turn: `f` acts for the threads that execute it, `e` for an engine role. -/
def issueWith (i : Instr) (f : Thread → Workgroup → State → State) (e : Nat → Nat → Nat → State → State) (s : State) : Out :=
  match s.issue with
  | none => .next s
  | some g => match g.unit with
    | .engine l tm r => .next (e l tm r s).finish
    | .quarter _ _ => .next (s.lanes g.members (lane i f)).finish
/-- A word that no engine role may execute (R256). -/
def issueLanes (i : Instr) (f : Thread → Workgroup → State → State) (s : State) : Out :=
  issueWith i f (fun l tm r s => s.engineFault l tm r 3) s
/-- A word that only changes its own thread. -/
def issueThread (i : Instr) (f : Thread → Workgroup → Thread) (s : State) : Out :=
  issueLanes i (fun t w s => s.onThread t.ref (fun _ => (f t w).advance)) s

/-- One member: it executes the word, or its fate is settled. -/
def gatherOne (i : Instr) (acc : List ThreadRef × State) (r : ThreadRef) : List ThreadRef × State :=
  match acc.2.thread r, acc.2.wgOf r with
  | some t, some w => match acc.2.fate t w i with
    | .run => (acc.1 ++ [r], acc.2)
    | x => (acc.1, acc.2.settle t i x)
  | _, _ => acc
/-- Settle the members that do not execute; the others, in order, are those that do. -/
def State.gatherRun (s : State) (i : Instr) (refs : List ThreadRef) : List ThreadRef × State := refs.foldl (gatherOne i) ([], s)
/-- One turn of an issue that acts for several threads: where the turns before have filled the word's tag, the threads wait
(R35); else `f` acts. -/
def State.inTurn (s : State) (i : Instr) (w : Workgroup) (refs : List ThreadRef) (f : State → State) : State :=
  if s.tagFull w i then refs.foldl (fun s r => s.onThread r (fun u => { u with stall := .again i })) s else f s
/-- Execute an elected or uniform word: `f` acts once for each workgroup with executing threads (R98, R133, R151). -/
def issueGroup (i : Instr) (f : Thread → Workgroup → List ThreadRef → State → State) (e : Nat → Nat → Nat → State → State)
    (s : State) : Out :=
  match s.issue with
  | none => .next s
  | some g => match g.unit with
    | .engine l tm r => .next (e l tm r s).finish
    | .quarter _ _ =>
      let (run, s) := s.gatherRun i g.members
      .next (s.elected run (fun t w refs s => s.inTurn i w refs (f t w refs))).finish
def issueElected (i : Instr) (f : Thread → Workgroup → List ThreadRef → State → State) (s : State) : Out :=
  issueGroup i f (fun l tm r s => s.engineFault l tm r 3) s
/-- Put a thread into a list that a key orders. -/
def insertBy (key : ThreadRef → Nat) (r : ThreadRef) (l : List ThreadRef) : List ThreadRef :=
  match l with
  | [] => [r]
  | x :: t => if key x ≤ key r then x :: insertBy key r t else r :: x :: t
/-- Execute a word in the executing threads in the order of a key (R277, R278, R280). -/
def issueSorted (i : Instr) (key : State → ThreadRef → Nat) (f : Thread → Workgroup → State → State) (s : State) : Out :=
  match s.issue with
  | none => .next s
  | some g => match g.unit with
    | .engine l tm r => .next (s.engineFault l tm r 3).finish
    | .quarter _ _ =>
      let (run, s) := s.gatherRun i g.members
      .next (s.lanes (run.foldl (fun l r => insertBy (key s) r l) []) (fun t w s => s.inTurn i w [t.ref] (f t w))).finish
/-- The executing threads go on. -/
def State.advanceAll (s : State) (refs : List ThreadRef) : State := refs.foldl (fun s r => s.onThread r Thread.advance) s
/-- The executing threads take one trap each (R106). -/
def State.trapAll (s : State) (refs : List ThreadRef) (f : Thread → State → State) : State :=
  refs.foldl (fun s r => match s.thread r with
    | some t => f t s
    | none => s) s

end Sys2Proof.Machine
end

