-- ==== Sys2Proof/Machine/Request.lean ====
section
/-! DEFINITION. Requests of threads: making one (R38, R161, R162), the order of one thread's accesses to one address
(R163), the reply of a register-writing read, and the covering WAIT (R182, R376). -/
namespace Sys2Proof.Machine

/-! Making a request -/

/-- A store's bytes that are lost on a link are counted (R406). -/
def State.linkDrop (s : State) (p : Nat) : State := (s.onPart p (fun x => { x with linkDrop := x.linkDrop + 1 })).irqPart p 5

/-- Registers that a new load shares with loads no WAIT has covered (R162). -/
def Thread.shared (t : Thread) (dest count : Nat) : List Nat :=
  ((List.range count).map (dest + ·)).filter (fun k => t.loads.any (fun l => decide (l.dest ≤ k) && decide (k < l.dest + l.count)))
/-- The destination holds undefined values until a WAIT covers the load (R162). -/
def State.freshRegs (s : State) (r : ThreadRef) (dest count : Nat) : State :=
  (List.range count).foldl (fun s i =>
    let (w, s) := s.freshWord
    s.onThread r (fun t => t.setV (dest + i) w)) s
/-- The request record of a thread. -/
def newReq (t : Thread) (w : Workgroup) (kind : ReqKind) (near : Bool) (addr : Nat) (va : DWord) (size : Nat) : Req :=
  { kind := kind, thread := t.ref, core := w.core, near := near, addr := addr, va := va, size := size, data := [], dest := 0,
    seq := 0, quiet := t.handler, cp := 0, sa := false, poison := false, parked := false, served := false, pc := t.pc, resume := t.resumePc,
    field := none, args := [], taps := [] }
def State.addReq (s : State) (q : Req) : State :=
  let (id, s) := s.takeId
  { s with reqs := Tbl.insert s.reqs id q }
/-- The thread's side of a load: the counter and its record. -/
def Thread.joinLoad (u : Thread) (dest count : Nat) (dirty : List Nat) (old : List Word) : Thread :=
  { u with nld := u.nld + 1, outLd := (u.nld + 1) :: u.outLd,
           loads := u.loads ++ [{ seq := u.nld + 1, dest := dest, count := count, value := none, dirty := dirty, old := old, gone := [], poison := none }] }
/-- Whether a request is a field access, which can fail in the FFU after its word has issued (R84, R245). -/
def ReqKind.isField (k : ReqKind) : Bool :=
  match k with
  | .field _ => true
  | .splat => true
  | .splatLog => true
  | _ => false
/-- Registers k to k + n - 1. -/
def Thread.getVs (t : Thread) (k n : Nat) : List Word := (List.range n).map (fun i => t.getV (k + i))
/-- The thread's side of a store. -/
def Thread.joinStore (u : Thread) : Thread := { u with nst := u.nst + 1, outSt := (u.nst + 1) :: u.outSt }
/-- The thread has issued a load and goes on; a field access of it can still fail in the FFU (R84, R245). -/
def Thread.loadIssued (u : Thread) (dest count : Nat) (dirty : List Nat) (old : List Word) (field : Bool) : Thread :=
  { (u.joinLoad dest count dirty old).advance with fresh := field }
/-- A register-writing read joins the load counter, and the thread goes on (R38, R162). -/
def State.startLoad (s : State) (t : Thread) (q : Req) (dest count : Nat) : State :=
  let s := s.freshRegs t.ref dest count
  let s := s.onThread t.ref (fun u => u.loadIssued dest count (t.shared dest count) (t.getVs dest count) q.kind.isField)
  s.addReq { q with dest := dest, seq := t.nld + 1 }
/-- A store or RED joins the store counter, and the thread goes on (R38, R161). -/
def State.startStore (s : State) (t : Thread) (q : Req) : State :=
  (s.onThread t.ref (fun u => u.joinStore.advance)).addReq { q with seq := t.nst + 1 }
/-- A store or RED with no route left to its peer is dropped: the counter falls as if it were performed, and LINK_DROP
advances (R406). -/
def State.dropStore (s : State) (t : Thread) (w : Workgroup) : State :=
  (s.onThread t.ref (fun u => { u with nst := u.nst + 1 }.advance)).linkDrop (s.partOf w)
/-- A request that the thread waits for at its word (R166, R280). -/
def State.startWaiting (s : State) (t : Thread) (q : Req) (load store : Bool) : State :=
  let id := s.nextId
  let s := s.onThread t.ref (fun u =>
    let u := if load then { u with nld := u.nld + 1, outLd := (u.nld + 1) :: u.outLd } else u
    let u := if store then u.joinStore else u
    u.park (.request id))
  s.addReq { q with seq := if load then t.nld + 1 else if store then t.nst + 1 else 0 }
/-- Take a return slot of the lane (R318). -/
def State.takeReturn (s : State) (t : Thread) (w : Workgroup) : State :=
  s.onCore w.core (fun c => { c with returns := Tbl.put 0 c.returns (laneKey w t.ref.tid) (Tbl.get 0 c.returns (laneKey w t.ref.tid) + 1) })
/-- Free a return slot. -/
def State.freeReturn (s : State) (r : ThreadRef) : State :=
  match s.wgOf r with
  | some w => s.onCore w.core (fun c => c.freeReturn (laneKey w r.tid))
  | none => s

/-! Order and replies -/

/-- A plain load (R160). -/
def ReqKind.plainLoad : ReqKind → Bool
  | .load _ => true
  | _ => false

/-- No earlier request of the same thread meets the bytes (R163), and a load of a global line waits for the home's reply to
the atomics of its core to that line (R291); other requests of different threads have no order (R170). -/
def State.inOrder (s : State) (id : Nat) (q : Req) : Bool :=
  s.reqs.all (fun e => decide (id ≤ e.1)
    || (!(e.2.thread == q.thread && e.2.near == q.near && !e.2.served && meets e.2.addr e.2.size q.addr q.size)
        && !(q.kind.plainLoad && !q.near && !e.2.near && e.2.core == q.core && e.2.addr / 128 == q.addr / 128 && (match e.2.kind with
            | .atom _ => true
            | .lr => true
            | .sc => true
            | .red _ => true
            | _ => false))))
/-- The request is over. -/
def State.dropReq (s : State) (id : Nat) : State := { s with reqs := Tbl.erase s.reqs id }
/-- A load's value arrives: it leaves the counter, and the covering WAIT will show it (R162). -/
def Thread.loadDone (t : Thread) (seq : Nat) (value : Option (List Word)) (poison : Option DWord) : Thread :=
  { t with outLd := t.outLd.filter (· != seq),
           loads := t.loads.map (fun l => if l.seq = seq then { l with value := value, poison := poison } else l) }
/-- A store leaves the counter (R161). -/
def Thread.storeDone (t : Thread) (seq : Nat) : Thread := { t with outSt := t.outSt.filter (· != seq) }
/-- A near access's writer mark is gathered by the reading core (R292). -/
def State.gatherNear (s : State) (core key : Nat) : State := s.gather core (Tbl.find s.nearMarks (spanOf key))

/-! The covering WAIT (R182) -/

/-- The first poisoned reply among loads up to a number (R376). -/
def Thread.poisonedUpTo (t : Thread) (seq : Nat) : Option LoadRec := t.loads.find? (fun l => decide (l.seq ≤ seq) && l.poison.isSome)
/-- The machine-check trap of a poisoned reply, at the covering WAIT or EXIT; the reply is then spent (R376). -/
def State.poisonTrap (s : State) (t : Thread) (l : LoadRec) : State :=
  (s.onThread t.ref (fun u => { u with loads := u.loads.map (fun x => if x.seq = l.seq then { x with poison := none } else x) })).trapData
    t clMachine 2 (l.poison.getD 0)

/-- One covered load shows its value; a register that the thread wrote meanwhile becomes undefined (R162). -/
def State.coverLoad (s : State) (r : ThreadRef) (l : LoadRec) : State :=
  (List.range l.count).foldl (fun s i =>
    if l.gone.contains (l.dest + i) then s
    else if l.dirty.contains (l.dest + i) then
      let (w, s) := s.freshWord
      s.onThread r (fun t => t.setV (l.dest + i) w)
    else match l.value with
      | some ws => s.onThread r (fun t => t.setV (l.dest + i) (ws.getD i 0))
      | none => s) s
/-- Cover the loads up to a number. -/
def State.cover (s : State) (t : Thread) (seq : Nat) : State :=
  let done := t.loads.filter (fun l => decide (l.seq ≤ seq))
  done.foldl (fun s l => s.coverLoad t.ref l)
    (s.onThread t.ref (fun u => { u with loads := u.loads.filter (fun l => !decide (l.seq ≤ seq)) }))

end Sys2Proof.Machine
end

