-- ==== Sys2Proof/Machine/Barrier.lean ====
section
/-! DEFINITION. Fences (R175, R293), OPRDY (R222), barriers (R177-R181), WAIT (R182) and the row operations
(R184-R195). What they wait for before they act is in Issue.lean. -/
namespace Sys2Proof.Machine

/-! Fences -/

/-- Whether a scope is wider than the core (R289, R293). -/
def scopeWide (c : Scope) : Bool := c == .cluster || c == .device || c == .system
/-- Release actions (R293): the thread's counters are clear already. -/
def State.release (s : State) (core : Nat) (c : Scope) : State := if scopeWide c then s.releaseCore core else s
/-- Acquire actions (R293). -/
def State.acquire (s : State) (core : Nat) (c : Scope) : State := if scopeWide c then s.acquireWide core else s
/-- R175: fence.S performs the release actions and then the acquire actions of its scope. -/
def execFence (kind : FenceKind) (scope : Scope) (s : State) : Out :=
  issueLanes (.fence kind scope) (fun t w s =>
    let s := s.onThread t.ref Thread.advance
    match kind with
    | .release => s.release w.core scope
    | .acquire => s.acquire w.core scope
    | .full => (s.release w.core scope).acquire w.core scope) s
/-- R175: the thread's near stores leave the merge buffers; the FFU lines of its core are discarded (R310). -/
def execFencePath (s : State) : Out :=
  issueLanes .fencePath (fun t w s =>
    ((s.onThread t.ref Thread.advance).drainMerge (fun _ by_ => by_ == refKey t.ref)).onCore w.core (fun c => { c with ffu := [] })) s
/-- R222: the thread's stores to its own core's slice leave the merge buffer. -/
def execOprdy (s : State) : Out :=
  issueLanes .oprdy (fun t w s =>
    (s.onThread t.ref Thread.advance).drainMerge (fun a by_ => by_ == refKey t.ref && a / 2 ^ 19 == w.core)) s

/-! Barriers -/

/-- Forget a completed barrier that the thread had not come back to (R275). -/
def Thread.pass (t : Thread) (n : BitVec 2) : Thread := { t with rebars := t.rebars &&& ~~~(1#4 <<< n.toNat) }
/-- Arrive at barrier n (R177): an arrival that a restored image holds counts once, and a barrier that completed
meanwhile lets the thread pass (R275). -/
def State.arrive (s : State) (t : Thread) (n : BitVec 2) : State :=
  if t.rebars.getLsbD n.toNat then
    s.onThread t.ref (fun u => (u.pass n).advance)
  else (s.onThread t.ref (fun u => { u.park (.barrier n) with bars := u.bars ||| (1#4 <<< n.toNat) })).barrierCheck t.ref.wg
/-- R177. -/
def execBar (n : BitVec 2) (s : State) : Out := issueLanes (.bar n) (fun t _ s => s.arrive t n) s

/-- The flag a thread is owed by a team barrier that completed without it (R183). -/
def State.owedFlag (s : State) (key log tid : Nat) : Option Bool :=
  match Tbl.find s.teamBars key with
  | some b => (b.owed.find? (fun (e : Nat × Nat × Bool) => e.1 == log && e.2.1 == tid)).map (fun e => e.2.2)
  | none => none
/-- Arrive at the team barrier of %team k (R180). -/
def State.arriveTeam (s : State) (t : Thread) (w : Workgroup) (pd : PReg) (k : BitVec 2) : State :=
  let m := w.team k.toNat
  if !teamValid m then s.trapWord t clTeam 0
  else
    let key := teamKey w.launch (teamIndex m)
    match s.owedFlag key w.log t.ref.tid with
    | some flag =>
      let s := s.onThread t.ref (passTeam pd flag)
      { s with teamBars := Tbl.modify s.teamBars key (fun b =>
          { b with owed := b.owed.filter (fun (e : Nat × Nat × Bool) => !(e.1 == w.log && e.2.1 == t.ref.tid)) }) }
    | none => (s.onThread t.ref (fun u => u.park (.team k pd))).teamCheck w.launch (teamIndex m)
/-- R180. -/
def execTbar (pd : PReg) (k : BitVec 2) (s : State) : Out := issueLanes (.tbar pd k) (fun t w s => s.arriveTeam t w pd k) s

/-! WAIT -/

/-- R182: the wait is over; poisoned replies it covers trap first (R376), else the covered loads show their values. -/
def execWait (nld nst : BitVec 6) (ncp ntl : BitVec 4) (s : State) : Out :=
  issueLanes (.wait nld nst ncp ntl) (fun t _ s =>
    if nld = 63 then s.onThread t.ref Thread.advance
    else match t.poisonedUpTo (t.nld - nld.toNat) with
      | some l => s.poisonTrap t l
      | none => (s.cover t (t.nld - nld.toNat)).onThread t.ref Thread.advance) s

/-! Row operations -/

/-- Threads of the row that wait at the same word with another effective mask (R186, cause 3). -/
def maskClash (row : Row) (t : Thread) (mask : BitVec 64) : Row :=
  let there := row.filter (fun e => e.2.pc == t.pc && match e.2.stall with
    | .row _ _ => true
    | _ => false)
  if there.any (fun e => match e.2.stall with
    | .row _ m => effective row m != effective row mask
    | _ => false) then there else []
/-- The trap of R186, once for a thread. -/
def State.rowTrap (s : State) (t : Thread) (cause : Word) : State :=
  if s.traps.any (fun q => q.thread == t.ref) then s else s.trapWord t clRow cause
/-- A thread arrives at a row operation (R184-R187). The threads of one issue arrive in one cycle: those that a clash
stops keep their places until their traps are taken, so that every later thread of the issue meets them (R151, R186). -/
def State.rowArrive (s : State) (t : Thread) (w : Workgroup) (i : Instr) (sm : SPair) : State :=
  let mask := w.sPair sm
  let d := w.row t.ref.tid
  let row := s.rowThreads t.ref.wg w d
  if !mask.getLsbD (w.column t.ref.tid) then s.trapWord t clRow 1
  else
    let clash := maskClash row t mask
    if !clash.isEmpty then
      clash.foldl (fun s e => s.rowTrap e.2 3) (s.rowTrap t 3)
    else (s.onThread t.ref (fun u => u.park (.row i mask))).rowCheck t.ref.wg d
/-- R190; the result is in RowOps.lean. -/
def execVoteEvery (vd : VReg) (sm : SPair) (pp : PReg) (s : State) : Out :=
  issueLanes (.voteEvery vd sm pp) (fun t w s => s.rowArrive t w (.voteEvery vd sm pp) sm) s
/-- R190; the result is in RowOps.lean. -/
def execVoteSome (vd : VReg) (sm : SPair) (pp : PReg) (s : State) : Out :=
  issueLanes (.voteSome vd sm pp) (fun t w s => s.rowArrive t w (.voteSome vd sm pp) sm) s
/-- R190; the result is in RowOps.lean. -/
def execVoteMask (vd : VReg) (sm : SPair) (pp : PReg) (s : State) : Out :=
  issueLanes (.voteMask vd sm pp) (fun t w s => s.rowArrive t w (.voteMask vd sm pp) sm) s
/-- R190; the result is in RowOps.lean. -/
def execVoteCount (vd : VReg) (sm : SPair) (pp : PReg) (s : State) : Out :=
  issueLanes (.voteCount vd sm pp) (fun t w s => s.rowArrive t w (.voteCount vd sm pp) sm) s
/-- R191; the result is in RowOps.lean. -/
def execShflAt (vd va : VReg) (sm : SPair) (s : State) : Out :=
  issueLanes (.shflAt vd va sm) (fun t w s => s.rowArrive t w (.shflAt vd va sm) sm) s
/-- R191; the result is in RowOps.lean. -/
def execShflRot (vd va : VReg) (sm : SPair) (s : State) : Out :=
  issueLanes (.shflRot vd va sm) (fun t w s => s.rowArrive t w (.shflRot vd va sm) sm) s
/-- R191; the result is in RowOps.lean. -/
def execShflRev (vd va : VReg) (sm : SPair) (s : State) : Out :=
  issueLanes (.shflRev vd va sm) (fun t w s => s.rowArrive t w (.shflRev vd va sm) sm) s
/-- R191; the result is in RowOps.lean. -/
def execShflSwap (vd va : VReg) (sm : SPair) (s : State) : Out :=
  issueLanes (.shflSwap vd va sm) (fun t w s => s.rowArrive t w (.shflSwap vd va sm) sm) s
/-- R192; the result is in RowOps.lean. -/
def execMatchSame (vd va : VReg) (sm : SPair) (s : State) : Out :=
  issueLanes (.matchSame vd va sm) (fun t w s => s.rowArrive t w (.matchSame vd va sm) sm) s
/-- R192; the result is in RowOps.lean. -/
def execMatchUnif (vd va : VReg) (sm : SPair) (s : State) : Out :=
  issueLanes (.matchUnif vd va sm) (fun t w s => s.rowArrive t w (.matchUnif vd va sm) sm) s
/-- R193; the result is in RowOps.lean. -/
def execConfd (vd va : VReg) (sm : SPair) (s : State) : Out :=
  issueLanes (.confd vd va sm) (fun t w s => s.rowArrive t w (.confd vd va sm) sm) s
/-- R194; the result is in RowOps.lean. -/
def execCmpk (vd : VReg) (sm : SPair) (pp : PReg) (s : State) : Out :=
  issueLanes (.cmpk vd sm pp) (fun t w s => s.rowArrive t w (.cmpk vd sm pp) sm) s
/-- R192; the result is in RowOps.lean. -/
def execMatchLead (vd va : VReg) (sm : SPair) (s : State) : Out :=
  issueLanes (.matchLead vd va sm) (fun t w s => s.rowArrive t w (.matchLead vd va sm) sm) s

end Sys2Proof.Machine
end

