-- ==== Sys2Proof/Machine/AsyncOp.lean ====
section
/-! DEFINITION. Issuing asynchronous operations from threads (R196, R216) and from engine roles (R256), the parameter
block, and the ends that the engines share: failures of accesses (R198, R326) and cancellation (R212, R231). -/
namespace Sys2Proof.Machine

/-! Operations -/

/-- The record of an operation as issued. -/
def newOp (i : Instr) (g : Nat) (w : Workgroup) (part : Nat) (issuer : Issuer) (base : DWord) (quiet : Bool) (tag : Option Tag) : Op :=
  { instr := i, wg := g, core := w.core, part := part, issuer := issuer, hd := none, tag := tag, base := base, block := [], args := [], x := [],
    quiet := quiet, order := 0, group := 0, rects := [], torn := [], members := [], phase := 0, pa := 0, jobs := [], rows := [], nvs := [],
    outRows := [], reason := 0, failed := 0, flags := 0, pagePoison := false, canceled := false, stseq := [] }
/-- The operation of a thread, or of the threads of a workgroup, with the base pair sp. -/
def State.threadOp (s : State) (i : Instr) (t : Thread) (w : Workgroup) (sp : SPair) : Op :=
  newOp i t.ref.wg w (s.partOf w) (.threads []) (w.sPair sp) t.handler (tagOf i)
/-- Issue for the executing threads, which go on (R196). -/
def State.issueFor (s : State) (op : Op) (hd : HReg) (refs : List ThreadRef) : State := (s.issueOp op hd refs).advanceAll refs
/-- An operation that completes at issue (R216 stage 1): it is issued and completed with its status. -/
def State.issueDone (s : State) (op : Op) (hd : HReg) (refs : List ThreadRef) (status : Byte) : State :=
  let id := s.nextId
  (s.issueFor op hd refs).completeOp id status

/-! Parameter blocks (R216) -/

/-- A byte of the block, and whether bytes of it are all zero. -/
def blk (b : List Byte) (i : Nat) : Nat := (b.getD i 0).toNat
def blkZero (b : List Byte) (lo hi : Nat) : Bool := bytesAt b lo (hi + 1 - lo) == 0

/-- Read the block of n bytes at v(va), or take the precise trap of R158 in every executing thread. -/
def State.withBlock (s : State) (t : Thread) (refs : List ThreadRef) (va : VReg) (n al : Nat)
    (k : Nat → Nat → List Byte → State) : State :=
  let na := t.getV va.toNat
  match s.checkNear t.ref.wg t.handler na n al with
  | .error e => s.trapAll refs (fun u s => s.trapNear u e na)
  | .ok (key, target) =>
    if s.nearPoisoned key n then s.trapAll refs (fun u s => s.trapData u clMachine 2 (na.zeroExtend 64))
    else k key target (s.nearLoad key n)
/-- The precise slot-ownership or tile-range trap of every executing thread. -/
def State.trapRefs (s : State) (refs : List ThreadRef) (cls : Byte) (detail : Word) : State :=
  s.trapAll refs (fun u s => s.trapWord u cls detail)

/-! Engine roles (R256) -/

/-- Kinds of member words (R357). -/
def kindWg : Nat := 0
def kindCopy : Nat := 1
def kindMatrix : Nat := 2
def kindMv : Nat := 3
/-- The engine role that executes a word, with its host workgroup. -/
def State.roleAt (s : State) (l tm r : Nat) : Option (RoleSt × Nat × Workgroup) :=
  match (Tbl.find s.streams (teamKey l tm)).bind (fun x => Tbl.find x.roles r) with
  | some role => match s.resident l role.host with
    | some g => (s.wg g).map (fun w => (role, g, w))
    | none => none
  | none => none
/-- Change an engine role. -/
def State.onRole (s : State) (l tm r : Nat) (f : RoleSt → RoleSt) : State :=
  { s with streams := Tbl.modify s.streams (teamKey l tm) (fun x => { x with roles := Tbl.modify x.roles r f }) }
/-- e(k) (R21). -/
def RoleSt.getE (r : RoleSt) (k : Nat) : Word := Tbl.get 0 r.e k
def RoleSt.pair (r : RoleSt) (k : Nat) : DWord := r.getE (2 * k + 1) ++ r.getE (2 * k)
/-- The sequencer goes on at an address: its hint is over, and it has left its run if the address lies outside. -/
def RoleSt.goto (r : RoleSt) (pc : Pc) : RoleSt :=
  let out := !(r.runLo != 0 && decide (r.runLo.toNat ≤ pc.toNat) && decide (pc.toNat ≤ r.runHi.toNat))
  let r := if out then { r with runLo := 0, runHi := 0 } else r
  { r with pc := pc, hint := none, stall := .none }
def RoleSt.advance (r : RoleSt) : RoleSt := r.goto (r.pc + 4)
/-- Execute an instruction of a class in an engine role: hd and tag zero, va an e register, sp one of e0 to e15 in
pairs; anything else is cause 3. `k` gets the host, the operation so far and the value of e(va). -/
def State.engineWord (s : State) (i : Instr) (kinds : List Nat) (hd : HReg) (tag : Tag) (sp va : Nat) (l tm r : Nat)
    (k : RoleSt → Nat → Workgroup → Op → Word → State) : State :=
  match s.roleAt l tm r with
  | none => s.engineFault l tm r 3
  | some (role, g, w) =>
    if !kinds.contains role.kind || hd != 0 || tag != 0 || sp ≥ 8 || va ≥ 16 then s.engineFault l tm r 3
    else k role g w (newOp i g w (s.partOf w) (.role l tm r) (role.pair sp) false none) (role.getE va)
/-- Issue an operation of an engine role. -/
def State.issueRole (s : State) (op : Op) (l tm r : Nat) : State := (s.issueOp op 0 []).onRole l tm r RoleSt.advance
def State.issueRoleDone (s : State) (op : Op) (l tm r : Nat) (status : Byte) : State :=
  let id := s.nextId
  (s.issueRole op l tm r).completeOp id status
/-- The block of an engine word: a failing address is cause 3 (R256, R216). -/
def State.withRoleBlock (s : State) (g : Nat) (na : Word) (n al l tm r : Nat) (k : Nat → Nat → List Byte → State) : State :=
  match s.checkNear g false na n al with
  | .error _ => s.engineFault l tm r 3
  | .ok (key, target) => if s.nearPoisoned key n then s.engineFault l tm r 3 else k key target (s.nearLoad key n)

/-! Failures and cancellation -/

/-- The native near address of an operation's parameter block, where it has one (R216, R387). -/
def State.blockAddr (s : State) (op : Op) : Option Word :=
  match s.wg op.wg with
  | none => none
  | some w =>
    let native := fun (na : Nat) => (s.decodeNear w (BitVec.ofNat 32 na)).map (fun e => s.nativeNear w (nearKey e.1 e.2))
    match op.instr with
    | .cpym _ _ _ _ _ => native op.pa
    | .cmpkSparse _ _ _ => native op.pa
    | .ared _ _ _ => native op.pa
    | .agath _ _ _ => native op.pa
    | .bcast _ _ _ => native op.pa
    | i => if isTileOp i then some (s.nativeNear w (op.args.getD 0 0).toNat) else none
/-- The launch and the logical index of a workgroup, as records name them. -/
def State.nameOf (s : State) (g : Nat) : Word × Word :=
  match s.wg g with
  | some w => (BitVec.ofNat 32 w.launch, BitVec.ofNat 32 w.log)
  | none => (0xFFFFFFFF, 0xFFFFFFFF)
/-- The contained record of an error in an operation: its issuer, and the address of its block (R387). -/
def State.opRecord (s : State) (op : Op) (type inst : Nat) (source : Byte) (syndrome : Word) : State :=
  let n := s.nameOf op.wg
  match s.blockAddr op with
  | some a => s.mcEvent type inst 2 source 2 (a.zeroExtend 64) syndrome n.1 n.2
  | none => s.mcEvent type inst 2 source 0 0 syndrome n.1 n.2

/-- The lanes of the threads that issued an operation. -/
def State.opLanes (s : State) (op : Op) : DWord :=
  match op.issuer, s.wg op.wg with
  | .threads l, some w => l.foldl (fun m e => m ||| (1#64 <<< w.laneOf e.1.tid)) 0
  | _, _ => 0
/-- The fault record of KIND 4 of an item that fails translation (R326). -/
def State.asyncFault (s : State) (op : Op) (va : DWord) (level cause : Nat) : State :=
  let p := s.part op.part
  if !p.fqEn then s
  else if p.ringFull then s.onPart op.part (fun p => { p with fqOvf := true })
  else match s.wg op.wg with
    | none => s
    | some w =>
      let core := ((s.launchOf w).map (fun l => l.logicalOf w.core)).getD 0
      s.ringWrite op.part
        { index := none, va := va, lanes := s.opLanes op, launch := BitVec.ofNat 32 w.launch,
          wglog := BitVec.ofNat 32 w.log, core := BitVec.ofNat 8 core, quarter := BitVec.ofNat 8 w.quarter, kind := kAsync,
          walk := BitVec.ofNat 8 (level + 8 * cause), threads := [] }
/-- The failing access of an operation ends it with its status (R198), with the fault record of a failed walk; the walk has
been made (R309). -/
def State.failAccess (s : State) (id : Nat) (op : Op) (va : DWord) (e : AccessErr) : State :=
  match e with
  | .address => s.completeOp id stAddress
  | .page l c => ((s.translated op.part (some op.core) va.toNat).asyncFault op va l c).completeOp id stPageFault
  | e => (s.translated op.part (some op.core) va.toNat).completeOp id e.status
/-- Request cancellation (R212): whether the item has already started is not fixed by the spec, and a free value
decides it (log entry 1); an operation past its boundary, or with none, runs on (R231). -/
def State.cancelOp (s : State) (id : Nat) : State :=
  match Tbl.find s.ops id with
  | none => s
  | some op =>
    let (w, s) := s.freshWord
    let started := w.getLsbD 0
    match op.instr with
    | .cpy _ _ _ _ _ _ => if started then s else s.onOp id (fun o => { o with canceled := true })
    | .cpyq _ _ _ _ _ _ => if started then s else s.onOp id (fun o => { o with canceled := true })
    | .cbook _ _ _ _ _ => if started then s else s.onOp id (fun o => { o with canceled := true })
    | .old _ _ _ _ _ => if started then s else s.onOp id (fun o => { o with canceled := true })
    | .cpym _ _ _ _ _ => if started then s else s.onOp id (fun o => { o with canceled := true })
    | .mv _ _ _ _ _ _ => if op.phase = 0 then s.onOp id (fun o => { o with canceled := true }) else s
    | _ => s

end Sys2Proof.Machine
end

