-- ==== Sys2Proof/Machine/Copy.lean ====
section
/-! DEFINITION. Asynchronous copy (R199-R208), tags and batches (R209, R210), handles (R211, R212). -/
namespace Sys2Proof.Machine

/-! CPY (R199) -/

/-- One side of a copy, checked: near key, or virtual and physical address. -/
inductive Side
  | near (key : Nat) | global (va : DWord) (x : Xlate)
  deriving DecidableEq, Repr
/-- Why a side fails. -/
inductive SideErr
  | access (va : DWord) (e : AccessErr) | near (e : NearError)
  deriving DecidableEq, Repr
/-- A failing item ends its operation with its status (R198). -/
def State.failSide (s : State) (id : Nat) (op : Op) (e : SideErr) : State :=
  match e with
  | .access va e => s.failAccess id op va e
  | .near e => s.completeOp id e.status
/-- The checks of a global side: [63:56], alignment, translation, attributes; poison comes with the read. DESIGN CHOICE
(log entry 42): R199's sequence does not name LINK; a lost link is met after the side's attributes, before the
destination side and before POISON. A peer that refuses the frame gives ACCESS (R404). -/
def State.sideGlobal (s : State) (op : Op) (va : DWord) (n : Nat) (write : Bool) : Except SideErr Side :=
  if fieldOf va 63 56 != 0 || va.toNat % n ≠ 0 then .error (.access va .address)
  else match s.translate op.part (some op.core) va.toNat with
    | .error (l, c) => .error (.access va (.page l c))
    | .ok x =>
      if (write && !x.w) || (!write && !x.r) then .error (.access va .access)
      else if s.linkLost x.pa then .error (.access va .link)
      else if peerRefuses x.pa then .error (.access va .access)
      else .ok (.global va x)
/-- Whether an operation is a copy that a handler issued: it reaches the spill range of its workgroup (R18). -/
def Op.reachesSpill (op : Op) : Bool :=
  op.quiet && match op.instr with
    | .cpy _ _ _ _ _ _ => true
    | .cpyq _ _ _ _ _ _ => true
    | .cpym _ _ _ _ _ => true
    | _ => false
/-- The checks of a near side. -/
def State.sideNear (s : State) (op : Op) (na : Word) (n al : Nat) : Except SideErr Side :=
  match s.checkNear op.wg op.reachesSpill na n al with
  | .error e => .error (.near e)
  | .ok (key, _) => .ok (.near key)
/-- One side of a CPY by its operand. -/
def State.copySide (s : State) (op : Op) (isNear : Bool) (operand : Word) (n : Nat) (write : Bool) : Except SideErr Side :=
  if isNear then s.sideNear op operand n n else s.sideGlobal op (op.base + operand.zeroExtend 64) n write
/-- A checked global side has been translated, and its lines are accessed under its page's policy (R309, R323). -/
def State.sideReach (s : State) (op : Op) (va : DWord) (x : Xlate) (n : Nat) : State :=
  (s.translated op.part (some op.core) va.toNat).l2Policy x.pa n x.cp
/-- Read a checked source: its bytes, none where it is poisoned, and what the read leaves behind. -/
def State.sideRead (s : State) (op : Op) (x : Side) (n : Nat) : Option (List Byte) × State :=
  match x with
  | .near key => (if s.nearPoisoned key n then none else some (s.nearRead key n), s)
  | .global va x =>
    let r := ((s.sideReach op va x n).asFunction op.part x.pa n false).memFetch x.pa n
    (if x.poison || s.memPoisoned x.pa n then none else some r.1, r.2)
/-- Write a checked destination. -/
def State.sideWrite (s : State) (op : Op) (x : Side) (bs : List Byte) : State :=
  match x with
  | .near key => s.opNear op.wg key bs op.quiet
  | .global va x => (s.sideReach op va x bs.length).opMem op.wg va [(x.pa, bs.length)] bs op.quiet
/-- Bytes of a vector size (R98). -/
def vecBytes (v : VecSize) : Nat :=
  match v with
  | .b4 => 4
  | .b8 => 8
  | .b16 => 16
/-- Whether the source and the destination of a direction are near. -/
def dirNear (d : CpyDir) : Bool × Bool :=
  match d with
  | .gn => (false, true)
  | .ng => (true, false)
  | .nn => (true, true)
  | .gg => (false, false)
/-- The item of a CPY (R199): source checks, destination checks, read, write. -/
def State.copyItem (s : State) (id : Nat) (op : Op) (dir : CpyDir) (n : Nat) : State :=
  match s.copySide op (dirNear dir).1 (op.args.getD 0 0) n false with
  | .error e => s.failSide id op e
  | .ok src => match s.copySide op (dirNear dir).2 (op.args.getD 1 0) n true with
    | .error e => s.failSide id op e
    | .ok dst => match s.sideRead op src n with
      | (none, s) => s.completeOp id stPoison
      | (some bs, s) => (s.sideWrite op dst bs).completeOp id stOK
/-- The 128-byte lines of the global sides of a CPY item, with the side (R200). -/
def Op.lines (op : Op) (dir : CpyDir) : List (Bool × Nat) :=
  let line := fun (i : Nat) => (op.base + (op.args.getD i 0).zeroExtend 64).toNat / 128
  (if (dirNear dir).1 then [] else [(false, line 0)]) ++ (if (dirNear dir).2 then [] else [(true, line 1)])
/-- The CPY items in flight that one issue of one row has merged with an item: those that share a line of a global side
with it or with one merged already (R200). -/
def mergedItems (fuel : Nat) (dir : CpyDir) (all got : List (Nat × Op)) : List (Nat × Op) :=
  match fuel with
  | 0 => got
  | f + 1 =>
    let next := all.filter (fun e => got.any (fun x => x.1 == e.1 || (e.2.lines dir).any (fun l => (x.2.lines dir).contains l)))
    if next.length = got.length then got else mergedItems f dir all next
/-- The items that complete together with item id (R200). -/
def State.copyGroup (s : State) (id : Nat) (op : Op) (dir : CpyDir) : List (Nat × Op) :=
  if op.group = 0 then [(id, op)]
  else mergedItems 64 dir (s.ops.filter (fun e => e.2.wg == op.wg && e.2.group == op.group && e.2.instr == op.instr)) [(id, op)]
/-- The group of a lane's item (R200). -/
def State.copyGroupNo (s : State) (t : Thread) (w : Workgroup) : Nat := (s.core w.core).cyc.toNat * 64 + w.row t.ref.tid + 1
/-- R199; an engine role's operands are e(va) and e(va + 1). -/
def execCpy (hd : HReg) (tag : Tag) (sp : SPair) (va : VReg) (dir : CpyDir) (sz : VecSize) (s : State) : Out :=
  let i : Instr := .cpy hd tag sp va dir sz
  issueWith i (fun t w s =>
      s.issueFor { s.threadOp i t w sp with args := [t.getV va.toNat, t.getV (va.toNat + 1)], group := s.copyGroupNo t w } hd [t.ref])
    (fun l tm r s => s.engineWord i [kindCopy] hd tag sp.toNat va.toNat l tm r (fun role _ _ op a =>
      if va.getLsbD 0 then s.engineFault l tm r 3
      else s.issueRole { op with args := [a, role.getE (va.toNat + 1)] } l tm r)) s

/-! Codebooks (R202-R204) -/

/-- Whether no earlier operation of the workgroup on this table that satisfies p is under way (R204). -/
def State.tableFree (s : State) (id : Nat) (op : Op) (p : Instr → Bool) : Bool :=
  s.ops.all (fun e => decide (id ≤ e.1) || e.2.wg != op.wg || !p e.2.instr)
def loadsTable (k : BitVec 2) (i : Instr) : Bool :=
  match i with
  | .cbook _ _ _ _ t => t == k
  | _ => false
def readsTable (k : BitVec 2) (i : Instr) : Bool :=
  match i with
  | .cpyq _ _ _ _ _ t => t == k
  | _ => false
/-- A byte of a table; undefined where no load has filled it. -/
def Codebook.byte (b : Codebook) (i : Nat) : Byte := if b.loaded then Memory.read b.bytes i else Config.freeByte b.epoch i
/-- The item of a CBOOK (R202). DESIGN CHOICE (log entry 42): the operation reaches the copy unit, and takes ownership,
when it is carried out; until then a CPYQ of the table takes the codebook trap. -/
def State.bookItem (s : State) (id : Nat) (op : Op) (k : BitVec 2) (v : Nat) : State :=
  let book := (s.core op.core).book k.toNat
  let other := match book.owner with
    | some g => g != op.wg && (s.wg g).isSome
    | none => false
  if op.canceled then s.completeOp id stCancelled
  else if other then s.completeOp id stCodebookBusy
  else
    let own := fun (s : State) (loaded : Bool) (bytes : Memory) =>
      let (ep, s) := s.freshEpoch
      s.onCore op.core (fun c => c.setBook k.toNat
        { owner := some op.wg, vec := v, origin := op.base, loaded := loaded, epoch := ep, bytes := bytes, damaged := [] })
    if op.base.toNat % 128 ≠ 0 then (own s false []).completeOp id stAddress
    else match s.readVa op.part (some op.core) op.base (256 * v) with
      | .error (va, e) => (own (s.readTrace op.part (some op.core) op.base (256 * v)) false []).failAccess id op va e
      | .ok (bs, s) => (own s true (Memory.writeN [] 0 bs)).completeOp id stOK
/-- R202. -/
def execCbook (hd : HReg) (tag : Tag) (sp : SPair) (vec : VecSize) (table : BitVec 2) (s : State) : Out :=
  let i : Instr := .cbook hd tag sp vec table
  issueElected i (fun t w refs s => s.issueFor (s.threadOp i t w sp) hd refs) s
/-- R202, R204. -/
def execCodebookLoadCompletion (id : Nat) (s : State) : Out :=
  match Tbl.find s.ops id with
  | none => .next s
  | some op => match op.instr with
    | .cbook _ _ _ vec k =>
      if s.tableFree id op (fun i => loadsTable k i || readsTable k i) then .next (s.bookItem id op k (vecBytes vec)) else .next s
    | _ => .next s

/-- The item of a CPYQ (R203). -/
def State.quantItem (s : State) (id : Nat) (op : Op) (idx8 : Bool) (k : BitVec 2) : State :=
  let book := (s.core op.core).book k.toNat
  let src := op.args.getD 0 0
  let a := op.base + BitVec.ofNat 64 (if idx8 then src.toNat else src.toNat / 2)
  match s.sideGlobal op a 1 false with
  | .error e => s.failSide id op e
  | .ok x => match s.sideRead op x 1 with
    | (none, s) => s.completeOp id stPoison
    | (some bs, s) => match s.sideNear op (op.args.getD 1 0) book.vec book.vec with
      | .error e => s.failSide id op e
      | .ok dst =>
        let b := (bs.getD 0 0).toNat
        let e := if idx8 then b else b / 16 ^ (src.toNat % 2) % 16
        if book.damaged.contains (e * book.vec / 128) then s.completeOp id stContained
        else (s.sideWrite op dst ((List.range book.vec).map (fun j => book.byte (e * book.vec + j)))).completeOp id stOK
/-- R203: a lane whose workgroup does not own the table takes the codebook trap. -/
def execCpyq (hd : HReg) (tag : Tag) (sp : SPair) (va : VReg) (idx8 : Bool) (table : BitVec 2) (s : State) : Out :=
  let i : Instr := .cpyq hd tag sp va idx8 table
  issueLanes i (fun t w s =>
    if ((s.core w.core).book table.toNat).owner != some t.ref.wg then s.trapWord t clCodebook 0
    else s.issueFor { s.threadOp i t w sp with args := [t.getV va.toNat, t.getV (va.toNat + 1)] } hd [t.ref]) s

/-- A copy item ends, and with it the items merged with it (R197, R199, R200, R203, R204). DESIGN CHOICE (R200, log entry 42):
merged items are performed in ascending order of issue, those of one issue in lane order. -/
def execCopyItemCompletion (id : Nat) (s : State) : Out :=
  match Tbl.find s.ops id with
  | none => .next s
  | some op => match op.instr with
    | .cpy _ _ _ _ dir sz => .next ((s.copyGroup id op dir).foldl (fun s e =>
        if e.2.canceled then s.completeOp e.1 stCancelled else s.copyItem e.1 e.2 dir (vecBytes sz)) s)
    | .cpyq _ _ _ _ idx8 k =>
      if !s.tableFree id op (loadsTable k) then .next s
      else .next (if op.canceled then s.completeOp id stCancelled else s.quantItem id op idx8 k)
    | _ => .next s

/-! CPYM (R206-R208) -/

/-- The fields of a CPYM block (R206). -/
def cpymSrc (b : List Byte) : Nat := bytesAt b 0 4
def cpymLen (b : List Byte) : Nat := bytesAt b 4 4
def cpymDoff (b : List Byte) : Nat := bytesAt b 8 4
def cpymStat (b : List Byte) : Word := BitVec.ofNat 32 (bytesAt b 12 4)
def cpymMembers (b : List Byte) : DWord := BitVec.ofNat 64 (bytesAt b 16 8)
def cpymTeam (b : List Byte) : Nat := bytesAt b 24 1
def cpymStatv (b : List Byte) : Bool := bytesAt b 25 1 % 2 == 1
/-- The status vector lies in the issuer's allocation, outside the spill reservation unless in handler mode (R207). -/
def State.statOk (s : State) (g : Nat) (quiet : Bool) (na : Word) : Bool :=
  match s.checkNear g quiet na 64 64 with
  | .ok (_, target) => target == g
  | .error _ => false
/-- R207 step 2: no field out of range. -/
def State.cpymOk (s : State) (g : Nat) (quiet : Bool) (nmem : Nat) (b : List Byte) : Bool :=
  cpymSrc b % 16 == 0 && cpymLen b % 16 == 0 && decide (16 ≤ cpymLen b) && decide (cpymLen b ≤ 262144) && cpymDoff b % 16 == 0
    && decide (cpymTeam b < 4) && decide (bytesAt b 25 1 < 2) && bytesAt b 26 6 == 0
    && cpymMembers b != 0 && decide ((cpymMembers b).toNat < 2 ^ nmem)
    && (!cpymStatv b || s.statOk g quiet (cpymStat b))
/-- A named member as captured at issue (R207 steps 3 and 5). -/
def State.captureMember (s : State) (launch index len doff : Nat) (m : MemberWord) : MemberSt :=
  let bad := fun (st : Byte) => ({ index := index, wg := 0, gen := 0, epoch := 0, dst := 0, next := 0, status := st } : MemberSt)
  if m.kind ≠ 0 then bad stNotTarget
  else if m.dev ≠ s.mgmt.orbitDev.toNat then bad stTargetGone
  else match s.resident launch m.index with
    | none => bad stTargetGone
    | some g => match s.wg g with
      | none => bad stTargetGone
      | some w =>
        if w.base + doff + len > w.spillStart then bad stNearAccess
        else { index := index, wg := g, gen := w.gen, epoch := w.epoch, dst := nearKey w.core (w.base + doff), next := 0, status := stOK }
/-- The team's members that a block names. -/
def State.captureAll (s : State) (launch : Nat) (team : List MemberWord) (b : List Byte) : List MemberSt :=
  (team.zipIdx.filter (fun e => (cpymMembers b).getLsbD e.2)).map (fun e =>
    s.captureMember launch e.2 (cpymLen b) (cpymDoff b) e.1)
/-- The member words of a team register's team. -/
def State.teamWords (s : State) (w : Workgroup) (m : Word) : List MemberWord :=
  match s.launchOf w with
  | some l => Tbl.get [] l.teams (teamIndex m)
  | none => []
/-- R206, R207 steps 1 to 3. -/
def execCpym (hd : HReg) (tag : Tag) (sp : SPair) (va : VReg) (near : Bool) (s : State) : Out :=
  let i : Instr := .cpym hd tag sp va near
  issueGroup i (fun t w refs s => s.withBlock t refs va 32 32 (fun _ _ b =>
      let m := w.team (cpymTeam b % 4)
      let team := s.teamWords w m
      let op := { s.threadOp i t w sp with block := b, pa := (t.getV va.toNat).toNat }
      if !teamValid m then s.trapRefs refs clTeam 0
      else if !s.cpymOk t.ref.wg t.handler team.length b then s.issueDone op hd refs stParam
      else s.issueFor { op with members := s.captureAll w.launch team b } hd refs))
    (fun l tm r s => s.engineWord i [kindCopy] hd tag sp.toNat va.toNat l tm r (fun _ g w op a =>
      s.withRoleBlock g a 32 32 l tm r (fun _ _ b =>
        let m := w.team (cpymTeam b % 4)
        let team := s.teamWords w m
        let op := { op with block := b, pa := a.toNat }
        if !teamValid m then s.engineFault l tm r 3
        else if !s.cpymOk g false team.length b then s.issueRoleDone op l tm r stParam
        else s.issueRole { op with members := s.captureAll w.launch team b } l tm r))) s

/-- Lines of a CPYM. -/
def cpymLines (b : List Byte) : Nat := (cpymLen b + 127) / 128
/-- The address and the length of line k of a global source. -/
def cpymAt (op : Op) (k : Nat) : DWord × Nat := (op.base + BitVec.ofNat 64 (cpymSrc op.block + 128 * k), min 128 (cpymLen op.block - 128 * k))
/-- Line k of the source, read once for every member (R207 step 4). DESIGN CHOICE (log entry 42): a line of a global source
whose address is no multiple of 16 fails with ADDRESS before it is translated, as in CPY; R206 asks it of SRC only. -/
def State.cpymSource (s : State) (op : Op) (near : Bool) (k : Nat) : Except SideErr (List Byte × State) :=
  match Tbl.find op.rows k with
  | some l => .ok (l.map (fun b => fieldOf b 7 0), s)
  | none =>
    let (va, n) := cpymAt op k
    if near then
      match s.sideNear op (BitVec.ofNat 32 (cpymSrc op.block)) (cpymLen op.block) 16 with
      | .error e => .error e
      | .ok x => match x with
        | .near key =>
          if s.nearPoisoned (key + 128 * k) n then .error (.access 0 .poison) else .ok (s.nearRead (key + 128 * k) n, s)
        | .global _ _ => .ok ([], s)
    else
      if va.toNat % 16 ≠ 0 then .error (.access va .address)
      else match s.readVa op.part (some op.core) va n with
        | .error (va, e) => .error (.access va e)
        | .ok r => .ok r
/-- The status of a failing side. -/
def SideErr.status (e : SideErr) : Byte :=
  match e with
  | .access _ e => e.status
  | .near e => e.status
/-- Every member not yet failed takes the code. -/
def Op.failMembers (o : Op) (st : Byte) : Op :=
  let mark := fun (m : MemberSt) => if m.status = stOK then { m with status := st } else m
  { o with failed := st.toNat, members := o.members.map mark }
/-- What a failed read of line k leaves behind: the walk, the poisoned lines, and the fault record (R309, R326). -/
def State.cpymTrace (s : State) (op : Op) (k : Nat) (e : SideErr) : State :=
  match e with
  | .near _ => s
  | .access _ .address => s
  | .access va (.page l c) => (s.readTrace op.part (some op.core) (cpymAt op k).1 (cpymAt op k).2).asyncFault op va l c
  | .access _ _ => s.readTrace op.part (some op.core) (cpymAt op k).1 (cpymAt op k).2
/-- The source fails at line k: every member not yet failed takes the code (R207 step 5). -/
def State.cpymFail (s : State) (id : Nat) (op : Op) (near : Bool) (k : Nat) (e : SideErr) : State :=
  (if near then s else s.cpymTrace op k e).onOp id (fun o => o.failMembers e.status)
/-- A line reaches a member's core: written, or dropped where the generation differs, the allocation is another one, or
the member is being saved (R207, R208). -/
def State.cpymDeliver (s : State) (id : Nat) (op : Op) (m : MemberSt) (bs : List Byte) : State :=
  let live : Bool := match s.wg m.wg with
    | some w => w.gen == m.gen && w.epoch == m.epoch && !(w.preempt.any (·.taken))
    | none => false
  let upd := fun (f : MemberSt → MemberSt) (s : State) =>
    s.onOp id (fun o => { o with members := o.members.map (fun x => if x.index = m.index then f x else x) })
  if live then upd (fun x => { x with next := x.next + 1 }) (s.opNear op.wg (m.dst + 128 * m.next) bs op.quiet)
  else upd (fun x => { x with status := stTargetGone }) s
/-- R207: the next line for the member. -/
def execCpymLineDelivery (id member : Nat) (s : State) : Out :=
  match Tbl.find s.ops id with
  | none => .next s
  | some op => match op.instr, op.members.find? (fun m => m.index == member) with
    | .cpym _ _ _ _ near, some m =>
      if m.status ≠ stOK ∨ cpymLines op.block ≤ m.next ∨ (op.canceled = true ∧ m.next = 0) then .next s
      else match s.cpymSource op near m.next with
        | .error e => .next (s.cpymFail id op near m.next e)
        | .ok (bs, s) =>
          let s := s.onOp id (fun o => { o with rows := Tbl.insert o.rows m.next (bs.map (·.zeroExtend 35)) })
          .next (s.cpymDeliver id op m bs)
    | _, _ => .next s
/-- The status vector is written for the named members (R207 step 6). -/
def State.cpymStatus (s : State) (op : Op) (ms : List MemberSt) : State :=
  if !cpymStatv op.block then s
  else match s.checkNear op.wg op.reachesSpill (cpymStat op.block) 64 64 with
    | .ok (key, _) => ms.foldl (fun s m => s.opNear op.wg (key + m.index) [m.status] op.quiet) s
    | .error _ => s
/-- R207 step 4: the source is read to its end, also where no member takes it any more; a failure gives the code of step 7. -/
def State.cpymRest (s : State) (op : Op) (near : Bool) : State × Nat :=
  (List.range (cpymLines op.block)).foldl (fun (a : State × Nat) k =>
    if a.2 ≠ 0 then a
    else match a.1.cpymSource op near k with
      | .error e => (if near then a.1 else a.1.cpymTrace op k e, e.status.toNat)
      | .ok (_, s) => (s, 0)) (s, op.failed)
/-- R207 steps 6 and 7. -/
def State.cpymEnd (s : State) (id : Nat) (op : Op) (near : Bool) : State :=
  let ms := op.members.map (fun m => if op.canceled && m.next = 0 && m.status = stOK then { m with status := stCancelled } else m)
  if ms.any (fun m => m.status = stOK && decide (m.next < cpymLines op.block)) then s
  else
    let (s, failed) := if op.canceled && op.rows.isEmpty then (s, op.failed) else s.cpymRest op near
    let status := if ms.all (fun m => m.status = stOK) then stOK
      else if failed ≠ 0 then BitVec.ofNat 8 failed
      else if ms.all (fun m => m.status = stCancelled) then stCancelled else stMemberFail
    (s.cpymStatus op ms).completeOp id status
/-- R207. -/
def execCpymCompletion (id : Nat) (s : State) : Out :=
  match Tbl.find s.ops id with
  | none => .next s
  | some op => match op.instr with
    | .cpym _ _ _ _ near => .next (s.cpymEnd id op near)
    | _ => .next s

/-! Tags and batches (R209, R210) -/

/-- R37, R209. -/
def execBseal (s : State) : Out := issueThread .bseal (fun t _ => { t with batch := t.batch + 1 }) s
/-- A tag mask outside the launch's traps (R209). DESIGN CHOICE (log entry 42): a thread that PRED suppresses does not
execute the word, and its mask is not checked. -/
def State.withTags (s : State) (t : Thread) (w : Workgroup) (va : VReg) (k : DWord → State) : State :=
  let m := t.getPair va.toNat
  if s.tagsIn w m then k m else s.trapWord t clIllegal 8
/-- R209: the condition holds, or the thread would wait. -/
def execTwany (va : VReg) (s : State) : Out :=
  issueLanes (.twany va) (fun t w s => s.withTags t w va (fun _ => s.onThread t.ref Thread.advance)) s
/-- R209. -/
def execTwall (va : VReg) (s : State) : Out :=
  issueLanes (.twall va) (fun t w s => s.withTags t w va (fun _ => s.onThread t.ref Thread.advance)) s
/-- The lowest set bit of a mask, or 64. -/
def lowestBit (m : DWord) : Nat := ((List.range 64).find? (fun i => m.getLsbD i)).getD 64
/-- R209. -/
def execTffr (vd va : VReg) (s : State) : Out :=
  issueLanes (.tffr vd va) (fun t w s => s.withTags t w va (fun m =>
    s.onThread t.ref (fun u => (u.setV vd.toNat (BitVec.ofNat 32 (lowestBit (m &&& (s.core w.core).tagBits)))).advance))) s
/-- Clear the bits of the tags of a mask whose count is zero (R35). -/
def CoreSt.clearTags (c : CoreSt) (m : DWord) : CoreSt :=
  (List.range 64).foldl (fun c i =>
    if m.getLsbD i && (c.tag i).count = 0 then c.setTag i { count := 0, clear := true } else c) c
/-- R209. -/
def execTclr (va : VReg) (s : State) : Out :=
  issueLanes (.tclr va) (fun t w s => s.withTags t w va (fun m =>
    (s.onCore w.core (fun c => c.clearTags m)).onThread t.ref Thread.advance)) s

/-! Handles (R211) -/

/-- R211. -/
def execHtest (vd : VReg) (hs : HReg) (s : State) : Out :=
  issueThread (.htest vd hs) (fun t _ => t.setV vd.toNat (match t.getH hs with
    | .pending _ => 0
    | _ => 1)) s
/-- R211, R212. -/
def execHcan (hs : HReg) (s : State) : Out :=
  issueLanes (.hcan hs) (fun t _ s =>
    let s := s.onThread t.ref Thread.advance
    match t.getH hs with
    | .pending id => s.cancelOp id
    | _ => s) s
/-- R211: 0xFF of an EMPTY register (R15). -/
def execHstat (vd : VReg) (hs : HReg) (s : State) : Out :=
  issueThread (.hstat vd hs) (fun t _ => t.setV vd.toNat (match t.getH hs with
    | .done st => st.zeroExtend 32
    | _ => stNone.zeroExtend 32)) s
/-- R211: hd names hs's operation, and hs becomes EMPTY. -/
def execHmov (hs hd : HReg) (s : State) : Out :=
  issueThread (.hmov hs hd) (fun t _ => if hs = hd then t else (t.setH hd (t.getH hs)).setH hs .empty) s

end Sys2Proof.Machine
end

