-- ==== Sys2Proof/Machine/Choreography.lean ====
section
/-! DEFINITION. Choreography: CHOR and EPSET (R257, R258), CUE and runs (R253, R254, R259), CLOOP (R260, R261), CEND (R262),
HAND (R263, R264) and their faults (R266). A role that waits at a control word executes the word again once it can go on. -/
namespace Sys2Proof.Machine

/-! Roles -/

/-- Who executes a control word: a workgroup role with all its live threads, or an engine role with its host (R255). -/
inductive Actor
  | wg (g : Nat) (w : Workgroup) (ths : List Thread)
  | engine (r : Nat) (role : RoleSt) (g : Nat) (w : Workgroup)

/-- The first thread is the one with the lowest index (R90). -/
def Actor.no (a : Actor) : Nat :=
  match a with
  | .wg _ _ ths => (ths.head?.map Thread.roleNo).getD 0
  | .engine r _ _ _ => r
/-- The operand of a control word: v(k) of the lowest-index thread, or e(k). -/
def Actor.value (a : Actor) (k : Nat) : Word :=
  match a with
  | .wg _ _ ths => (ths.head?.map (fun t => t.getV k)).getD 0
  | .engine _ role _ _ => role.getE k
def Actor.isEngine (a : Actor) : Bool :=
  match a with
  | .engine _ _ _ _ => true
  | .wg _ _ _ => false
/-- The workgroup whose allocation and core count: the role's own or the host. -/
def Actor.home (a : Actor) : Nat × Workgroup :=
  match a with
  | .wg g w _ => (g, w)
  | .engine _ _ g w => (g, w)
/-- The role's operations, marks and pushes. -/
def Stream.track (st : Stream) (a : Actor) : WgRole :=
  match a with
  | .wg g _ _ => Tbl.get { ops := [], marks := [], pushes := [] } st.wgRoles g
  | .engine r _ _ _ => match Tbl.find st.roles r with
    | some x => { ops := x.ops, marks := x.marks, pushes := x.pushes }
    | none => { ops := [], marks := [], pushes := [] }
def Stream.setTrack (st : Stream) (a : Actor) (k : WgRole) : Stream :=
  match a with
  | .wg g _ _ => { st with wgRoles := Tbl.insert st.wgRoles g k }
  | .engine r _ _ _ => { st with roles := Tbl.modify st.roles r (fun x => { x with marks := k.marks, pushes := k.pushes }) }
def State.onStream (s : State) (key : Nat) (f : Stream → Stream) : State := { s with streams := Tbl.modify s.streams key f }
/-- The bound members of a team (R255). -/
def State.boundMembers (s : State) (l tm : Nat) : List MemberWord :=
  match s.launch l with
  | some x => (Tbl.get [] x.teams tm).filter (·.bound)
  | none => []
def State.isBound (s : State) (l tm role : Nat) : Bool := (s.boundMembers l tm).any (fun m => m.role == role)
/-- The role goes on at the target that its PC gives. -/
def State.actGo (s : State) (l tm : Nat) (a : Actor) (f : Pc → Pc) : State :=
  match a with
  | .wg _ _ ths => ths.foldl (fun s t => s.onThread t.ref (fun u => u.goto (f u.pc))) s
  | .engine r _ _ _ => s.onRole l tm r (fun x => x.goto (f x.pc))
/-- A fault of the role: in each of its threads, or of the whole team for an engine (R266). -/
def State.actFault (s : State) (l tm : Nat) (a : Actor) (cause : Nat) (status : Byte) : State :=
  match a with
  | .wg _ _ ths => ths.foldl (fun s t =>
      (s.onThread t.ref (fun u => { u with stall := .none })).chorFault t (cause + 256 * status.toNat)) s
  | .engine r _ _ _ => s.engineFault l tm r cause

/-! HAND (R263, R264) -/

/-- The sender's half. -/
def State.handSend (s : State) (l tm : Nat) (st : Stream) (a : Actor) (ch : Nat) (c : Channel) (payload : Option Word) : State × Bool :=
  let k := st.track a
  let ops := k.ops.drop (Tbl.get 0 k.marks ch)
  if ops.any (·.2.isNone) || decide (c.posted ≥ c.taken + st.drift) then (s, false)
  else
    let status := ((ops.filterMap (·.2)).find? (· != stOK)).getD stOK
    let token : Token := { payload := payload, status := status }
    let c := { c with posted := c.posted + 1, tokens := c.tokens ++ [token] }
    let k := { k with marks := Tbl.put 0 (Tbl.put 0 k.marks ch k.ops.length) 16 k.ops.length }
    let s := if a.isEngine then s else s.releaseCore a.home.2.core
    let s := s.onStream (teamKey l tm) (fun st => { st with channels := Tbl.insert st.channels ch c }.setTrack a k)
    (s.actGo l tm a (· + 4), true)
/-- Write a payload: to every live thread, or to e(va). -/
def State.handWrite (s : State) (l tm : Nat) (a : Actor) (va : Nat) (p : Word) : State :=
  match a with
  | .wg _ _ ths => ths.foldl (fun s t => s.onThread t.ref (fun u => u.setV va p)) s
  | .engine r _ _ _ => s.onRole l tm r (fun x => { x with e := Tbl.put 0 x.e va p })
/-- The receiver's half. Where a receiver with a payload takes the token of a sender without one, the spec gives no payload: it
is a free value (log entry 1). -/
def State.handTake (s : State) (l tm : Nat) (a : Actor) (ch : Nat) (c : Channel) (write : Bool) (va : Nat) : State × Bool :=
  match c.tokens with
  | [] => (s, false)
  | tok :: rest =>
    let s := s.onStream (teamKey l tm) (fun st => { st with channels := Tbl.insert st.channels ch { c with taken := c.taken + 1, tokens := rest } })
    let s := if a.isEngine then s else s.acquireWide a.home.2.core
    if tok.status ≠ stOK then (s.actFault l tm a 7 tok.status, true)
    else
      let s := if write then (match tok.payload with
        | some p => s.handWrite l tm a va p
        | none =>
          let (p, s) := s.freshWord
          s.handWrite l tm a va p) else s
      (s.actGo l tm a (· + 4), true)
/-- A role executes HAND: the state, and whether it has gone on or faulted. -/
def State.actHand (s : State) (l tm : Nat) (a : Actor) (ch snd rcv : Nat) (pk : Payload) (va : Nat) : State × Bool :=
  match Tbl.find s.streams (teamKey l tm) with
  | none => (s, false)
  | some st =>
    let me := a.no
    let c := Tbl.get { pair := none, posted := 0, taken := 0, tokens := [] } st.channels ch
    let badBuffer := pk == .buffer && me == snd && !(a.isEngine && decide (va ≥ 16)) && (match s.checkNear a.home.1 false (a.value va) 1 1 with
      | .ok _ => false
      | .error _ => true)
    if me ≠ snd ∧ me ≠ rcv then (s.actGo l tm a (· + 4), true)
    else if ch ≥ st.nch ∨ s.isBound l tm snd = false ∨ s.isBound l tm rcv = false then (s.actFault l tm a 5 0, true)
    else if c.pair.isSome ∧ c.pair ≠ some (snd, rcv) then (s.actFault l tm a 5 0, true)
    else if badBuffer then (s.actFault l tm a 5 0, true)
    else if a.isEngine ∧ va ≥ 16 then (s.actFault l tm a 3 0, true)
    else
      let c := { c with pair := some (snd, rcv) }
      let s := s.onStream (teamKey l tm) (fun st => { st with channels := Tbl.insert st.channels ch c })
      if me = snd then s.handSend l tm st a ch c (if pk = .none then none else some (a.value va))
      else s.handTake l tm a ch c (pk != .none) va

/-! CLOOP (R260, R261) -/

/-- The workgroup of a logical index, resident or saved. -/
def State.keptWg (s : State) (l log : Nat) : Option Nat :=
  match s.resident l log with
  | some g => some g
  | none => (s.launch l).bind (fun x => (x.saved.find? (fun y => y.wg.log == log)).map (·.id))
/-- The pushes of every bound role at a level: the records below the least are consumed. What a member of another device has
pushed is not known here, and no record is consumed before it (log entry 9). -/
def State.leastPushed (s : State) (l tm level : Nat) (st : Stream) : Nat :=
  let one := fun (m : MemberWord) =>
    if m.dev ≠ s.mgmt.orbitDev.toNat then 0
    else if m.kind = 0 then match s.keptWg l m.index with
      | some g => match Tbl.find st.wgRoles g with
        | some k => Tbl.get 0 k.pushes level
        | none => 0
      | none => 0
    else match Tbl.find st.roles m.role with
      | some x => Tbl.get 0 x.pushes level
      | none => 0
  match (s.boundMembers l tm).map one with
  | [] => 0
  | x :: rest => rest.foldl min x
/-- What the record of an activation says: agrees (with the stream then), differs, or waits for room. -/
inductive Record | ok (st : Stream) | differs | waits
def State.loopRecord (s : State) (l tm level n : Nat) (st : Stream) (a : Actor) : Record :=
  let k := st.track a
  let mine := Tbl.get 0 k.pushes level
  let least := s.leastPushed l tm level st
  let push := fun (st : Stream) => st.setTrack a { k with pushes := Tbl.put 0 k.pushes level (mine + 1) }
  match st.records.find? (fun r => r.1 == level && r.2.1 == mine) with
  | some r => if r.2.2 = n then .ok (push st) else .differs
  | none => if mine ≥ least + 4 then .waits
    else .ok (push { st with records := st.records.filter (fun r => r.1 != level || decide (least ≤ r.2.1)) ++ [(level, mine, n)] })
/-- The loop stack of a role, newest entry first. -/
def Actor.loops (a : Actor) : List LoopEntry :=
  match a with
  | .wg _ _ ths => (ths.head?.map (·.loops)).getD []
  | .engine _ role _ _ => role.loops
def State.setLoops (s : State) (l tm : Nat) (a : Actor) (x : List LoopEntry) : State :=
  match a with
  | .wg _ _ ths => ths.foldl (fun s t => s.onThread t.ref (fun u => { u with loops := x })) s
  | .engine r _ _ _ => s.onRole l tm r (fun y => { y with loops := x })
/-- The address of the control word. -/
def Actor.pc (a : Actor) : Pc :=
  match a with
  | .wg _ _ ths => (ths.head?.map (·.pc)).getD 0
  | .engine _ role _ _ => role.pc
/-- The body executes again, or the loop is over. -/
def State.loopTurn (s : State) (l tm : Nat) (a : Actor) (remaining : Nat) (rest : List LoopEntry) (back : BitVec 14) : State :=
  if 0 < remaining then
    ((s.setLoops l tm a ({ pc := a.pc, remaining := remaining } :: rest)).actGo l tm a (fun pc => pc - 4 * back.zeroExtend 56))
  else (s.setLoops l tm a rest).actGo l tm a (· + 4)
/-- A role executes CLOOP with the count it read. -/
def State.actLoop (s : State) (l tm : Nat) (a : Actor) (n : Nat) (back : BitVec 14) : State × Bool :=
  match Tbl.find s.streams (teamKey l tm) with
  | none => (s, false)
  | some st =>
    let stack := a.loops
    let fresh := fun (_ : Unit) =>
      if n = 0 ∨ n > 65535 then (s.actFault l tm a 6 0, true)
      else match s.loopRecord l tm stack.length n st a with
        | .differs => (s.actFault l tm a 6 0, true)
        | .waits => (s, false)
        | .ok st =>
          if stack.length ≥ 4 then (s.actFault l tm a 6 0, true)
          else ((s.onStream (teamKey l tm) (fun _ => st)).loopTurn l tm a (n - 1) stack back, true)
    match stack with
    | e :: rest => if e.pc = a.pc then (s.loopTurn l tm a (e.remaining - 1) rest back, true) else fresh ()
    | [] => fresh ()

/-! CEND (R262) -/

/-- Whether all live threads of a workgroup wait at a control word of the kind in a team's stream. -/
def State.allAt (s : State) (key g : Nat) (p : Instr → Bool) : Bool :=
  !(s.live g).isEmpty && (s.live g).all (fun t => s.streamKeyOf t == some key && match t.stall with
    | .control i => p i
    | _ => false)
def isCend (i : Instr) : Bool :=
  match i with
  | .cend => true
  | _ => false
/-- Whether a bound member has arrived at the CEND of its team's stream. -/
def State.arrivedEnd (s : State) (l tm : Nat) (st : Stream) (m : MemberWord) : Bool :=
  if m.dev ≠ s.mgmt.orbitDev.toNat then false
  else if m.kind = 0 then match s.resident l m.index with
    | some g => s.allAt (teamKey l tm) g isCend
    | none => false
  else match Tbl.find st.roles m.role with
    | some x => x.atEnd && x.ops.all (·.2.isSome)
    | none => false
/-- The first engine operation, in issue order, that ended other than OK since its role's last sending HAND. -/
def Stream.failedOp (st : Stream) : Option Byte :=
  let bad : List (Nat × Byte) := (Tbl.vals st.roles).flatMap (fun x => (x.ops.drop (Tbl.get 0 x.marks 16)).filterMap (fun e =>
    match e.2 with
    | some b => if b = stOK then none else some (e.1, b)
    | none => none))
  (bad.foldl (fun (a : Option (Nat × Byte)) e => match a with
    | some x => if e.1 < x.1 then some e else some x
    | none => some e) none).map (·.2)
/-- A thread leaves the closed stream. -/
def Thread.leaveStream (t : Thread) : Thread :=
  { t.arm with role := 0, chorDep := 0, loops := [], runLo := 0, runHi := 0, pc := t.chorRes, hint := none, stall := .none }
/-- The instance closes: every waiting workgroup thread goes on at its resume address (R262). -/
def State.closeStream (s : State) (l tm : Nat) (st : Stream) : State :=
  let gs := (s.boundMembers l tm).filterMap (fun m => if m.kind = 0 then s.resident l m.index else none)
  let bad := st.failedOp
  let s := { s with streams := Tbl.erase s.streams (teamKey l tm) }
  let cores := gs.filterMap (fun g => (s.wg g).map (·.core))
  let s := cores.foldl (fun s c => s.releaseCore c) s
  let s := cores.foldl (fun s c => s.acquireWide c) s
  gs.foldl (fun s g => (s.live g).foldl (fun s t =>
    let s := s.onThread t.ref Thread.leaveStream
    match bad with
    | some b => s.raise t.ref clChor (BitVec.ofNat 32 (7 + 256 * b.toNat)) 0 0 t.chorRes
    | none => s) s) s
/-- A role arrives at CEND. -/
def State.actEnd (s : State) (l tm : Nat) (a : Actor) : State × Bool :=
  let s := match a with
    | .engine r _ _ _ => s.onRole l tm r (fun x => { x with atEnd := true })
    | .wg _ _ _ => s
  match Tbl.find s.streams (teamKey l tm) with
  | none => (s, false)
  | some st => if (s.boundMembers l tm).all (s.arrivedEnd l tm st) then (s.closeStream l tm st, true) else (s, false)

/-! Control words in threads and in engine roles -/

/-- The checks of a control word in a thread (R254, R259, R266); `free`: the word may stand inside a run. -/
def State.withControl (s : State) (t : Thread) (free : Bool) (k : Nat → State) : State :=
  if !t.active || decide (t.chorDep < t.depth) then s.chorFault t 1
  else if !free && t.inRun then s.chorFault t 4
  else match s.streamKeyOf t, s.stopCause t with
    | none, _ => s.chorFault t 1
    | some _, some why => s.abortFault t why
    | some key, none => k key
/-- What a role does at a control word. -/
def State.act (s : State) (i : Instr) (l tm : Nat) (a : Actor) : State × Bool :=
  match i with
  | .hand ch snd rcv pk va => s.actHand l tm a ch.toNat snd.toNat rcv.toNat pk va.toNat
  | .cloop cnt back => s.actLoop l tm a cnt.toNat back
  | .cloopReg sk back =>
    if a.isEngine then (if sk.toNat ≥ 16 then (s.actFault l tm a 3 0, true) else s.actLoop l tm a (a.value sk.toNat).toNat back)
    else s.actLoop l tm a (a.home.2.getS sk.toNat).toNat back
  | .cend => s.actEnd l tm a
  | _ => (s, false)
/-- The threads of a workgroup role, once all have reached the word of t (R260, R262, R263). -/
def State.gathered (s : State) (t : Thread) (w : Workgroup) (i : Instr) : Option Actor :=
  let ths := s.live t.ref.wg
  if ths.all (fun u => u.pc == t.pc && decide (u.stall = .control i)) then some (.wg t.ref.wg w ths) else none
/-- HAND in a role that is neither sender nor receiver (R263). -/
def passesHand (t : Thread) (i : Instr) : Bool :=
  match i with
  | .hand _ snd rcv _ _ => t.roleNo != snd.toNat && t.roleNo != rcv.toNat
  | _ => false
/-- A thread reaches a control word: it waits until its role acts. -/
def State.waitControl (s : State) (i : Instr) (free : Bool) (t : Thread) : State :=
  s.withControl t free (fun _ => s.onThread t.ref (fun u => if passesHand t i then u.advance else u.park (.control i)))
/-- The role acts if all its threads wait at the word. -/
def State.actIfGathered (s : State) (i : Instr) (r : ThreadRef) : State :=
  match s.thread r, s.wgOf r with
  | some t, some w => match s.streamKeyOf t, s.gathered t w i with
    | some key, some a => (s.act i (key / 256) (key % 256) a).1
    | _, _ => s
  | _, _ => s
/-- A thread of the issue that another role's word in the same issue has not moved on or stopped: in `s0` the issue began. -/
def State.stillAt (s s0 : State) (r : ThreadRef) : Bool :=
  match s.thread r, s0.thread r with
  | some t, some u => t.pc == u.pc && t.role == u.role && !s.traps.any (fun q => q.thread == r)
  | _, _ => false
/-- The threads of a workgroup reach a control word; `s0` is the state in which the word issued. -/
def State.reachControl (s s0 : State) (i : Instr) (free : Bool) (refs : List ThreadRef) : State :=
  let refs := refs.filter (s.stillAt s0)
  let s := refs.foldl (fun s r => match s.thread r with
    | some t => s.waitControl i free t
    | none => s) s
  match refs.find? (fun r => match s.thread r with
    | some t => decide (t.stall = .control i)
    | none => false) with
  | some r => s.actIfGathered i r
  | none => s
/-- An engine role reaches a control word: a run may hold only HAND (R254). -/
def State.engineControl (s : State) (i : Instr) (free : Bool) (l tm r : Nat) : State :=
  match s.roleAt l tm r with
  | none => s.engineFault l tm r 3
  | some (role, g, w) =>
    let inside := role.runLo != 0 && decide (role.runLo.toNat ≤ role.pc.toNat) && decide (role.pc.toNat ≤ role.runHi.toNat)
    if inside && !free then s.engineFault l tm r 4
    else
      let out := s.act i l tm (.engine r role g w)
      if out.2 then out.1 else out.1.onRole l tm r (fun x => { x with stall := .control i })
/-- Whether the role of a waiting control word can go on now (R149). -/
def State.controlReady (s : State) (t : Thread) (w : Workgroup) (i : Instr) : Bool :=
  match s.streamKeyOf t, s.gathered t w i with
  | some key, some a => (s.act i (key / 256) (key % 256) a).2
  | _, _ => false
def State.engineReady (s : State) (l tm r : Nat) : Bool :=
  match s.roleAt l tm r with
  | none => false
  | some (role, g, w) => match role.stall with
    | .none => true
    | .control i => (s.act i l tm (.engine r role g w)).2
    | _ => false

/-- R263, R264. -/
def execHand (ch snd rcv : BitVec 4) (pk : Payload) (va : VReg) (s : State) : Out :=
  let i : Instr := .hand ch snd rcv pk va
  issueGroup i (fun _ _ refs x => x.reachControl s i true refs) (fun l tm r s => s.engineControl i true l tm r) s
/-- R260. -/
def execCloop (cnt : BitVec 11) (back : BitVec 14) (s : State) : Out :=
  let i : Instr := .cloop cnt back
  issueGroup i (fun _ _ refs x => x.reachControl s i false refs) (fun l tm r s => s.engineControl i false l tm r) s
/-- R260: the count from a register. -/
def execCloopReg (sk : SReg) (back : BitVec 14) (s : State) : Out :=
  let i : Instr := .cloopReg sk back
  issueGroup i (fun _ _ refs x => x.reachControl s i false refs) (fun l tm r s => s.engineControl i false l tm r) s
/-- R262. -/
def execCend (s : State) : Out :=
  issueGroup .cend (fun _ _ refs x => x.reachControl s .cend false refs) (fun l tm r s => s.engineControl .cend false l tm r) s

/-! CUE (R253) -/

/-- The bounds of the run after a CUE that a role enters. -/
def cueRun (pc : Pc) (len : BitVec 10) : Pc × Pc := if len = 0 then (0, 0) else (pc + 4, pc + 4 * len.zeroExtend 56)
def Thread.cue (t : Thread) (rmask : BitVec 16) (len : BitVec 10) : Thread :=
  if rmask.getLsbD t.roleNo then ({ t with runLo := (cueRun t.pc len).1, runHi := (cueRun t.pc len).2 }).goto (t.pc + 4)
  else ({ t with runLo := 0, runHi := 0 }).goto (t.pc + 4 + 4 * len.zeroExtend 56)
def RoleSt.cue (x : RoleSt) (r : Nat) (rmask : BitVec 16) (len : BitVec 10) : RoleSt :=
  if rmask.getLsbD r then ({ x with runLo := (cueRun x.pc len).1, runHi := (cueRun x.pc len).2 }).goto (x.pc + 4)
  else ({ x with runLo := 0, runHi := 0 }).goto (x.pc + 4 + 4 * len.zeroExtend 56)
/-- R253, R254, R108. -/
def execCue (rmask : BitVec 16) (len : BitVec 10) (s : State) : Out :=
  issueWith (.cue rmask len) (fun t _ s => s.withControl t false (fun _ => s.onThread t.ref (fun u => u.cue rmask len)))
    (fun l tm r s => match s.roleAt l tm r with
      | none => s.engineFault l tm r 3
      | some (x, _, _) =>
        if x.runLo != 0 && decide (x.runLo.toNat ≤ x.pc.toNat) && decide (x.pc.toNat ≤ x.runHi.toNat) then s.engineFault l tm r 4
        else s.onRole l tm r (fun x => x.cue r rmask len)) s

/-! CHOR and EPSET (R257, R258) -/

/-- NCH and D of a header, none where it breaks R252. -/
def headerOf (h : Word) : Option (Nat × Nat) :=
  if fieldOf h 31 26 = 0x3D ∧ fieldOf h 25 12 = 0 ∧ fieldOf h 7 4 = 0 ∧ fieldOf h 3 0 ≠ 0
  then some ((fieldOf h 11 8).toNat + 1, (fieldOf h 3 0).toNat) else none
/-- Open the team's instance: its engine roles on this device start after the header (R21, R257). -/
def State.openStream (s : State) (l tm : Nat) (a : Pc) (nch drift : Nat) : State :=
  let engines := (s.boundMembers l tm).filter (fun m => m.kind != 0 && m.dev == s.mgmt.orbitDev.toNat)
  let roles : Tbl RoleSt := engines.foldl (fun t m => Tbl.insert t m.role
    { kind := m.kind, unit := m.unit, host := m.index, pc := a + 4, e := [], loops := [], hint := none, ops := [], marks := [],
      pushes := [], runHi := 0, runLo := 0, atEnd := false, stall := .none }) []
  let st : Stream := { addr := a, drift := drift, nch := nch, channels := [], records := [], roles := roles, wgRoles := [], aborted := none }
  { s with streams := Tbl.insert s.streams (teamKey l tm) st }
/-- The thread enters the stream. -/
def Thread.enterStream (t : Thread) (k : BitVec 2) (role : Nat) (a : Pc) : Thread :=
  let r : Word := 0x80000000 ||| BitVec.ofNat 32 (16 * k.toNat + role)
  ({ t with role := r, chorDep := t.depth, chorRes := t.pc + 4, loops := [], orphan := none, runLo := 0, runHi := 0 }).goto (a + 4)
/-- A thread joins an open instance. -/
def State.joinStream (s : State) (t : Thread) (key : Nat) (k : BitVec 2) (m : Word) (a : Pc) : State :=
  let s := s.onStream key (fun st => if (Tbl.find st.wgRoles t.ref.wg).isSome then st
    else { st with wgRoles := Tbl.insert st.wgRoles t.ref.wg { ops := [], marks := [], pushes := [] } })
  s.onThread t.ref (fun u => u.enterStream k (teamRole m) a)
/-- R257. -/
def State.chor (s : State) (t : Thread) (w : Workgroup) (k : BitVec 2) (pair : SPair) : State :=
  let m := w.team k.toNat
  let tm := teamIndex m
  let key := teamKey w.launch tm
  let a := w.sPair pair
  let pc : Pc := fieldOf a 55 0
  if !teamValid m then s.trapWord t clTeam 0
  else if t.active then s.chorFault t (if t.inRun then 4 else 2)
  else if !(s.boundMembers w.launch tm).any (fun x => x.binds s.mgmt.orbitDev.toNat w.log) then s.chorFault t 2
  else if fieldOf a 63 56 != 0 || fieldOf a 1 0 != 0 || fieldOf (t.pc + 4) 55 34 != fieldOf pc 55 34 then s.trapWord t clInsnAddress 0
  else match Tbl.find s.streams key with
    | some st => if st.addr = pc then s.joinStream t key k m pc else s.chorFault t 2
    | none => match s.tlbLook (s.partOf w) w.core pc.toNat with
      | none => s.onThread t.ref (fun u => { u with stall := .walk (pc.toNat / 4096) kFetch a (s.core w.core).cyc })
      | some x =>
        if !x.x || (peerRefuses x.pa && !s.linkLost x.pa) then s.trapData t clAccess 0 a
        else if s.linkLost x.pa then s.trapData t clMachine 3 a
        else if x.poison || s.memPoisoned x.pa 4 then (s.l2Read x.pa 4).trapData t clMachine 2 a
        else
          let (b, s) := ((s.tlbTouch w.core pc.toNat).asFunction (s.partOf w) x.pa 4 false).memFetch x.pa 4
          match headerOf (BitVec.ofNat 32 (leNat b)) with
          | none => s.chorFault t 2
          | some (nch, d) => (s.openStream w.launch tm pc nch d).joinStream t key k m pc
/-- R257. -/
def execChor (k : BitVec 2) (pair : SPair) (s : State) : Out := issueLanes (.chor k pair) (fun t w s => s.chor t w k pair) s
/-- R258: the role must be bound to an engine member; that of another device has no register here (log entry 9). -/
def execEpset (role eidx : BitVec 4) (va : VReg) (s : State) : Out :=
  issueElected (.epset role eidx va) (fun t _ refs s =>
    let bad := refs.any (fun r => match s.thread r with
      | some u => !u.active || decide (u.chorDep < u.depth) || (s.stopCause u).isSome
      | none => false)
    if bad then s.trapAll refs (fun u s => s.withControl u true (fun _ => s))
    else match s.streamKeyOf t with
      | none => s
      | some key =>
        if !(s.boundMembers (key / 256) (key % 256)).any (fun m => m.kind != 0 && m.role == role.toNat) then
          s.trapAll refs (fun u s => s.chorFault u 6)
        else (s.onRole (key / 256) (key % 256) role.toNat (fun x =>
            { x with e := Tbl.put 0 x.e eidx.toNat (t.getV va.toNat) })).advanceAll refs) s

end Sys2Proof.Machine
end

