-- ==== Sys2Proof/Machine/Control.lean ====
section
/-! DEFINITION. Branches, calls and returns (R145-R147), NOP and EXIT (R40, R148), TRAP and BRK (R271). -/
namespace Sys2Proof.Machine

/-- A branch target (R88, R107): the word's address + 4 x off20. -/
def branchTarget (pc : Pc) (off : BitVec 20) : Pc := pc + 4 * off.signExtend 56
/-- Whether going to a target leaves the thread's run against R259; `back` for the RET of a callee. -/
def Thread.leavesRun (t : Thread) (target : Pc) (back : Bool) : Bool :=
  t.active && !t.handler && t.runLo != 0 && (decide (t.depth ≤ t.chorDep) || (back && t.depth == t.chorDep + 1))
    && !t.runHas target
/-- Go to a target, or take the choreography fault with cause 4 (R259). -/
def State.jump (s : State) (t : Thread) (target : Pc) : State :=
  if t.leavesRun target false then s.chorFault t 4 else s.onThread t.ref (fun u => u.goto target)

/-- The near key of spilled entry j of a thread (R18). -/
def spillKey (w : Workgroup) (tid j : Nat) : Nat := nearKey w.core (w.spillEnd - (tid + 1) * w.spillSize + 4 * j)
/-- R146: a call to a checked target. -/
def State.callTo (s : State) (t : Thread) (w : Workgroup) (target : Pc) : State :=
  let ret := t.pc + 4
  if t.depth = w.calls then s.trapWord t clCallOver 0
  else if fieldOf ret 55 34 != fieldOf target 55 34 then s.trapWord t clInsnAddress 0
  else
    let s := match t.ret[7]? with
      | some old => s.nearPut (spillKey w t.ref.tid (t.depth - 8)) (leBytes 4 old.toNat)
      | none => s
    s.onThread t.ref (fun u => ({ u with ret := (fieldOf ret 33 2 :: u.ret).take 8, depth := u.depth + 1 }).goto target)
/-- R147: return. -/
def State.ret (s : State) (t : Thread) (w : Workgroup) : State :=
  match t.ret with
  | [] => s.trapWord t clCallUnder 0
  | e :: rest =>
    let target : Pc := fieldOf t.pc 55 34 ++ (e ++ 0#2)
    let key := spillKey w t.ref.tid (t.depth - 9)
    if t.leavesRun target true then s.chorFault t 4
    else if 9 ≤ t.depth ∧ s.nearPoisoned key 4 = true then s.trapData t clMachine 2 ((s.nativeNear w key).zeroExtend 64)
    else
      let back := if 9 ≤ t.depth then [BitVec.ofNat 32 (leNat (s.nearLoad key 4))] else []
      s.onThread t.ref (fun u => ({ u with ret := rest ++ back, depth := u.depth - 1 }).goto target)
/-- R88: the checks of a JR or CALLR target. -/
def State.withTarget (s : State) (t : Thread) (va : VReg) (f : Pc → State) : State :=
  let a := t.getPair va.toNat
  if fieldOf a 63 56 != 0 then s.trapData t clAddress 0 a
  else if fieldOf a 1 0 != 0 then s.trapWord t clInsnAddress 0
  else f (fieldOf a 55 0)

/-- R145. -/
def execBra (ps : PReg) (neg : Bool) (kind : BraKind) (off : BitVec 20) (s : State) : Out :=
  issueLanes (.bra ps neg kind off) (fun t _ s =>
    if t.getP ps != neg then s.jump t (branchTarget t.pc off) else s.onThread t.ref Thread.advance) s
/-- R146. -/
def execCall (ps : PReg) (neg : Bool) (off : BitVec 20) (s : State) : Out :=
  issueLanes (.call ps neg off) (fun t w s =>
    if t.getP ps != neg then s.callTo t w (branchTarget t.pc off) else s.onThread t.ref Thread.advance) s
/-- R147. -/
def execJr (va : VReg) (s : State) : Out := issueLanes (.jr va) (fun t _ s => s.withTarget t va (fun a => s.jump t a)) s
/-- R147. -/
def execCallr (va : VReg) (s : State) : Out := issueLanes (.callr va) (fun t w s => s.withTarget t va (fun a => s.callTo t w a)) s
/-- R147. -/
def execRet (s : State) : Out := issueLanes .ret (fun t w s => s.ret t w) s

/-- R148. -/
def execNop (s : State) : Out := issueThread .nop (fun t _ => t) s

/-- EXIT (R40, R148, R259, R370): the thread ends once its operations have completed. -/
def execExit (s : State) : Out :=
  issueLanes .exit (fun t _ s =>
    match t.poisonedUpTo t.nld with
    | some l => s.poisonTrap t l
    | none =>
      if t.active && !(t.handler && t.hclass == clPreempt) then s.chorFault t 4
      else s.onThread t.ref (fun u => { u with stall := .exiting, hint := none })) s

/-- R271. -/
def execTrap (code : BitVec 7) (s : State) : Out :=
  issueLanes (.trap code) (fun t _ s => s.raise t.ref clSoftware 0 (code.zeroExtend 32) 0 (t.pc + 4)) s
/-- R271. -/
def execBrk (code : BitVec 7) (s : State) : Out :=
  issueLanes (.brk code) (fun t _ s => s.raise t.ref clBreak 0 (code.zeroExtend 32) 0 t.resumePc) s

end Sys2Proof.Machine
end

