-- ==== Sys2Proof/Machine/Memory.lean ====
section
/-! DEFINITION. Loads and stores (R156-R162), full/empty operations (R165-R169), atomics at the home (R170-R172, R317,
R318, R376), and the events that perform them; promotion and recall (R291, R293). -/
namespace Sys2Proof.Machine

/-! Loads and stores -/

/-- A global load of one lane (R156, R159). -/
def State.loadGlobal (s : State) (t : Thread) (w : Workgroup) (va : DWord) (sz : LdSize) (vd : VReg) : State :=
  let n := ldBytes sz
  s.globalAccess t w va n kLoad true false false (fun x s =>
    if s.linkLost x.pa then s.trapData t clMachine 3 va
    else if x.poison || s.memPoisoned x.pa n then ((s.l2Read x.pa n).l2Policy x.pa n x.cp).trapData t clMachine 2 va
    else s.startLoad t { newReq t w (.load sz) false x.pa va n with cp := x.cp } vd.toNat (ldRegs sz))
/-- A global store of one lane. -/
def State.storeGlobal (s : State) (t : Thread) (w : Workgroup) (va : DWord) (bs : List Byte) : State :=
  s.globalAccess t w va bs.length kStore false true false (fun x s =>
    if s.linkLost x.pa then s.dropStore t w
    else s.startStore t { newReq t w .store false x.pa va bs.length with data := bs, cp := x.cp })
/-- A near access of one lane: the checks of R157, then the request. -/
def State.nearAccess (s : State) (t : Thread) (na : Word) (n : Nat) (k : Nat → State) : State :=
  match s.checkNear t.ref.wg t.handler na n n with
  | .error e => s.trapNear t e na
  | .ok (key, _) => k key
/-- R160. -/
def execLd (vd vo : VReg) (sb : SPair) (sz : LdSize) (imm : BitVec 4) (s : State) : Out :=
  issueLanes (.ld vd vo sb sz imm) (fun t w s => s.loadGlobal t w (globalAddr t w vo sb (ldBytes sz) imm) sz vd) s
/-- R160, R161. -/
def execSt (vd vo : VReg) (sb : SPair) (sz : StSize) (imm : BitVec 4) (s : State) : Out :=
  issueLanes (.st vd vo sb sz imm) (fun t w s => s.storeGlobal t w (globalAddr t w vo sb (stBytes sz) imm) (t.storeData vd sz)) s
/-- R157, R160; a poisoned span traps (R306). -/
def execLdn (vd vo : VReg) (sz : LdSize) (imm : BitVec 4) (s : State) : Out :=
  issueLanes (.ldn vd vo sz imm) (fun t w s =>
    let na := nearAddr t vo (ldBytes sz) imm
    s.nearAccess t na (ldBytes sz) (fun key =>
      if s.nearPoisoned key (ldBytes sz) then s.trapData t clMachine 2 (na.zeroExtend 64)
      else s.startLoad t (newReq t w (.load sz) true key (na.zeroExtend 64) (ldBytes sz)) vd.toNat (ldRegs sz))) s
/-- R157, R160, R161. -/
def execStn (vd vo : VReg) (sz : StSize) (imm : BitVec 4) (s : State) : Out :=
  issueLanes (.stn vd vo sz imm) (fun t w s =>
    let na := nearAddr t vo (stBytes sz) imm
    s.nearAccess t na (stBytes sz) (fun key =>
      s.startStore t { newReq t w .store true key (na.zeroExtend 64) (stBytes sz) with data := t.storeData vd sz })) s

/-- The partition of a request's thread. -/
def State.reqPart (s : State) (q : Req) : Nat := ((s.wgOf q.thread).map (fun w => s.partOf w)).getD 0
/-- The bytes that a load reads where its thread's earlier stores, not yet performed, overlap them (R163). -/
def State.forwarded (s : State) (id : Nat) (q : Req) (bs : List Byte) : List Byte :=
  s.reqs.foldl (fun bs e =>
    if e.1 < id ∧ e.2.thread = q.thread ∧ e.2.near = q.near ∧ e.2.kind = .store then
      bs.zipIdx.map (fun b => if e.2.addr ≤ q.addr + b.2 ∧ q.addr + b.2 < e.2.addr + e.2.data.length
        then e.2.data.getD (q.addr + b.2 - e.2.addr) 0 else b.1)
    else bs) bs
/-- A load's data arrives (R162): the bytes, with its own thread's where it comes before earlier stores of it (R163). The
thread took the trap of a poisoned line at the load, if the line was poisoned then (R159, R306; log entry 43). `evict`: the
core's clean copy of the line was evicted before (R291). -/
def State.loadAnswer (s : State) (id : Nat) (q : Req) (sz : LdSize) (evict : Bool) : State :=
  let own := fun (bs : List Byte) => if s.inOrder id q then bs else s.forwarded id q bs
  let r := if q.near then (s.nearLoad q.addr q.size, s.gatherNear q.core q.addr)
    else
      let s := if evict then s.dropClean q.core (q.addr / 128) else s
      (s.asFunction (s.reqPart q) q.addr q.size false).memLoad q.addr q.size q.core q.cp
  (r.2.onThread q.thread (fun t => t.loadDone q.seq (some (ldWords sz (own r.1))) none)).dropReq id
/-- A load of a thread returns once no earlier request of it stands before it (R163). -/
def State.loadReturn (s : State) (id : Nat) (q : Req) (sz : LdSize) (evict : Bool) : State :=
  if s.inOrder id q then s.loadAnswer id q sz evict else s
/-- R162. -/
def execLoadReturn (req : Nat) (evict : Bool) (s : State) : Out :=
  match Tbl.find s.reqs req with
  | none => .next s
  | some q => match q.kind with
    | .load sz => .next (s.loadReturn req q sz evict)
    | _ => .next s

/-- The address that a near write folds into the digest: the native form (R282). -/
def State.digestNear (s : State) (q : Req) (bs : List Byte) : State :=
  match s.wgOf q.thread with
  | some w => s.digestStore q.thread.wg (s.nativeNear w q.addr).toNat bs q.quiet
  | none => s
/-- A store is performed (R161, R290); `drain`: the bytes also left the slice's merge buffer. -/
def State.storePerformed (s : State) (id : Nat) (q : Req) (drain : Bool) : State :=
  if !s.inOrder id q then s
  else
    let s := if q.near then (s.nearStore q.addr q.data q.core (refKey q.thread) drain).digestNear q q.data
      else ((s.asFunction (s.reqPart q) q.addr q.data.length true).memStore q.addr q.data q.core q.cp).digestStore q.thread.wg q.va.toNat q.data q.quiet
    (s.onThread q.thread (fun t => t.storeDone q.seq)).dropReq id
/-- R161. -/
def execStorePerformed (req : Nat) (drain : Bool) (s : State) : Out :=
  match Tbl.find s.reqs req with
  | none => .next s
  | some q => match q.kind with
    | .store => .next (s.storePerformed req q drain)
    | _ => .next s

/-! Full/empty operations (R165-R169) -/

/-- The operation named by fn waits for a full word, an empty one, or for nothing (R165). -/
def feReady (fn : Nat) (full : Bool) : Bool :=
  match fn with
  | 0 => full
  | 1 => full
  | 2 => !full
  | _ => true
/-- The bit after the operation (R165). -/
def feAfter (fn : Nat) (full : Bool) : Bool :=
  match fn with
  | 0 => true
  | 1 => false
  | 2 => true
  | 3 => true
  | 4 => false
  | 5 => true
  | _ => full
def feLoads (fn : Nat) : Bool := fn == 0 || fn == 1 || fn == 6
def feStoresData (fn : Nat) : Bool := fn == 2 || fn == 3
/-- Issue a full/empty operation (R165, R166): checks, then the thread waits for it. -/
def State.feIssue (s : State) (t : Thread) (w : Workgroup) (fn : Nat) (va : VReg) (vd : Nat) (data : List Byte) : State :=
  let na := t.getV va.toNat
  s.nearAccess t na 4 (fun key =>
    s.startWaiting t { newReq t w (.fullEmpty fn) true key (na.zeroExtend 64) 4 with data := data, dest := vd } (feLoads fn) (!feLoads fn))
/-- R165. -/
def execLdnf (vd va : VReg) (s : State) : Out := issueLanes (.ldnf vd va) (fun t w s => s.feIssue t w 0 va vd.toNat []) s
/-- R165. -/
def execLdnw (vd va : VReg) (s : State) : Out := issueLanes (.ldnw vd va) (fun t w s => s.feIssue t w 1 va vd.toNat []) s
/-- R165. -/
def execStne (va vb : VReg) (s : State) : Out :=
  issueLanes (.stne va vb) (fun t w s => s.feIssue t w 2 va 0 (leBytes 4 (t.getV vb.toNat).toNat)) s
/-- R165. -/
def execStnf (va vb : VReg) (s : State) : Out :=
  issueLanes (.stnf va vb) (fun t w s => s.feIssue t w 3 va 0 (leBytes 4 (t.getV vb.toNat).toNat)) s
/-- R165. -/
def execFesetE (va : VReg) (s : State) : Out := issueLanes (.fesetE va) (fun t w s => s.feIssue t w 4 va 0 []) s
/-- R165. -/
def execFesetF (va : VReg) (s : State) : Out := issueLanes (.fesetF va) (fun t w s => s.feIssue t w 5 va 0 []) s
/-- R165. -/
def execFeq (vd va : VReg) (s : State) : Out := issueLanes (.feq vd va) (fun t w s => s.feIssue t w 6 va vd.toNat []) s

/-- Whether the word of a near key is full (R31). -/
def State.isFull (s : State) (key : Nat) : Bool := !s.empties.contains (key / 4)
def State.setFull (s : State) (key : Nat) (full : Bool) : State :=
  { s with empties := if full then setErase s.empties (key / 4) else setInsert s.empties (key / 4) }
/-- The thread's side: destination, counters, and on (R166). -/
def Thread.feDone (t : Thread) (q : Req) (fn : Nat) (value : Word) : Thread :=
  let t := if feLoads fn then { t.setV q.dest value with outLd := t.outLd.filter (· != q.seq) } else t.storeDone q.seq
  t.advance
/-- Perform the operation at its word, in one step (R165, R292, R297): a full/empty load acquires at device scope, and
a poisoned span that the thread reads, FEQ included, traps (R306). -/
def State.fePerform (s : State) (id : Nat) (q : Req) (fn : Nat) : State :=
  let full := s.isFull q.addr
  if feLoads fn && s.nearPoisoned q.addr 4 then
    match s.thread q.thread with
    | some t => (((s.dropReq id).onThread q.thread (fun u => u.dropReq q)).trapData t clMachine 2 q.va)
    | none => s.dropReq id
  else
    let value : Word := if fn = 6 then (if full then 1 else 0) else BitVec.ofNat 32 (leNat (s.nearLoad q.addr 4))
    let s := if feLoads fn && fn != 6 then (s.gatherNear q.core q.addr).acquireWide q.core else s
    let s := if feStoresData fn then (s.nearStore q.addr q.data q.core (refKey q.thread) true).digestNear q q.data else s
    ((s.setFull q.addr (feAfter fn full)).onThread q.thread (fun t => t.feDone q fn value)).dropReq id
/-- The release of STNE and STNF: the thread's earlier accesses are performed (R297). -/
def State.feReleased (s : State) (q : Req) (fn : Nat) : Bool :=
  !feStoresData fn || match s.thread q.thread with
    | some t => t.outLd.isEmpty && t.outSt == [q.seq]
    | none => true
/-- The first parked operation of a word that its state lets perform (R167). -/
def State.nextParked (s : State) (key : Nat) : Option (Nat × Req × Nat) :=
  s.reqs.findSome? (fun e => match e.2.kind with
    | .fullEmpty fn => if e.2.parked && e.2.addr == key && feReady fn (s.isFull key) then some (e.1, e.2, fn) else none
    | _ => none)
/-- Serve the parked operations of a word in order while one can perform (fuel: the requests) (R167). -/
def State.serveParked (fuel : Nat) (s : State) (key : Nat) : State :=
  match fuel with
  | 0 => s
  | f + 1 => match s.nextParked key with
    | some (id, q, fn) => State.serveParked f (s.fePerform id q fn) key
    | none => s
/-- A full/empty operation reaches its slice: performed, or parked in arrival order (R167). -/
def State.feArrive (s : State) (id : Nat) (q : Req) (fn : Nat) : State :=
  if q.parked || !s.inOrder id q || !s.feReleased q fn then s
  else if feReady fn (s.isFull q.addr) then
    let s := s.fePerform id q fn
    State.serveParked s.reqs.length s q.addr
  else
    let (new, s) := s.takeId
    { s.onThread q.thread (fun t => { t with stall := .request new }) with
      reqs := Tbl.insert (Tbl.erase s.reqs id) new { q with parked := true } }
/-- R165, R167. -/
def execFullEmptyPerform (req : Nat) (s : State) : Out :=
  match Tbl.find s.reqs req with
  | none => .next s
  | some q => match q.kind with
    | .fullEmpty fn => .next (s.feArrive req q fn).settleTraps
    | _ => .next s

/-! Atomics (R170-R172) -/

/-- The address operand of an atomic. -/
def atomAddr (t : Thread) (sp : Space) (va : VReg) : DWord :=
  match sp with
  | .global => t.getPair va.toNat
  | .near => (t.getV va.toNat).zeroExtend 64
/-- The core discards its own copy of the line of its atomic (R291). -/
def State.ownAtomic (s : State) (core line : Nat) : State :=
  let s := if Tbl.find s.owners line == some core then s.recall line else s
  s.onCore core (fun c => { c with clean := Tbl.erase c.clean line })
/-- The functions that cross PCIe as AtomicOps: ADD, XCHG and CAS (R301). -/
def hostAtomic (k : ReqKind) : Bool :=
  match k with
  | .atom op => op == .add || op == .xchg || op == .cas
  | .red op => op == .add
  | _ => false
/-- Check an atomic's address and go on with its request; LR reads, the others write (R156, R157, R159, R301). -/
def State.atomicAccess (s : State) (t : Thread) (w : Workgroup) (sp : Space) (va : VReg) (kind : ReqKind) (write : Bool)
    (k : Req → State → State) : State :=
  let a := atomAddr t sp va
  match sp with
  | .global => s.globalAccess t w a 4 kAtomic (!write) write true (fun x s =>
      if regionOf x.pa == 2 && !hostAtomic kind then s.trapData t clAccess 0 a
      else if s.linkLost x.pa then (if kind.storing then s.dropStore t w else s.trapData t clMachine 3 a)
      else k { newReq t w kind false x.pa a 4 with cp := x.cp, sa := x.sa, poison := x.poison } (s.ownAtomic w.core (x.pa / 128)))
  | .near => s.nearAccess t (fieldOf a 31 0) 4 (fun key => k (newReq t w kind true key a 4) s)
/-- R171: CAS takes the compare and the new word from the pair at vb. -/
def execAtom (vd va vb : VReg) (sp : Space) (op : AtomOp) (s : State) : Out :=
  issueLanes (.atom vd va vb sp op) (fun t w s => s.atomicAccess t w sp va (.atom op) true (fun q s =>
    (s.takeReturn t w).startLoad t { q with args := [t.getV vb.toNat, t.getV (vb.toNat + 1)] } vd.toNat 1)) s
/-- R171: counts as a store. -/
def execRed (va vb : VReg) (sp : Space) (op : RedOp) (s : State) : Out :=
  issueLanes (.red va vb sp op) (fun t w s => s.atomicAccess t w sp va (.red op) true (fun q s =>
    s.startStore t { q with args := [t.getV vb.toNat] })) s
/-- R172. -/
def execLr (vd va : VReg) (sp : Space) (s : State) : Out :=
  issueLanes (.lr vd va sp) (fun t w s => s.atomicAccess t w sp va .lr false (fun q s =>
    (s.takeReturn t w).startLoad t q vd.toNat 1)) s
/-- R172. -/
def execSc (vd va vb : VReg) (sp : Space) (s : State) : Out :=
  issueLanes (.sc vd va vb sp) (fun t w s => s.atomicAccess t w sp va .sc true (fun q s =>
    (s.takeReturn t w).startLoad t { q with args := [t.getV vb.toNat] } vd.toNat 1)) s

/-- The new word of a reduction (R171). -/
def redNew (op : RedOp) (old b : Word) : Word :=
  match op with
  | .add => old + b
  | .fadd => fp32AddRne old b
  | .min => if old.toInt ≤ b.toInt then old else b
  | .max => if old.toInt ≤ b.toInt then b else old
  | .minu => if old.toNat ≤ b.toNat then old else b
  | .maxu => if old.toNat ≤ b.toNat then b else old
  | .and => old &&& b
  | .or => old ||| b
  | .xor => old ^^^ b
/-- The new word of an ATOM, none where a CAS's comparison fails (R171). -/
def atomNew (op : AtomOp) (old b c : Word) : Option Word :=
  match op with
  | .add => some (redNew .add old b)
  | .fadd => some (redNew .fadd old b)
  | .min => some (redNew .min old b)
  | .max => some (redNew .max old b)
  | .minu => some (redNew .minu old b)
  | .maxu => some (redNew .maxu old b)
  | .and => some (redNew .and old b)
  | .or => some (redNew .or old b)
  | .xor => some (redNew .xor old b)
  | .xchg => some b
  | .cas => if old = b then some c else none

/-- The home of a request: the cluster of the target core, or the hash of the address (R170, R315). -/
def Req.home (q : Req) : Nat := if q.near then clusterOf (q.addr / 2 ^ 19) else homeOf q.addr
/-- The word at the home. -/
def State.homeWord (s : State) (q : Req) : Word :=
  BitVec.ofNat 32 (leNat (if q.near then s.nearLoad q.addr 4 else s.memRead q.addr 4))
/-- The home writes the word for a thread's request, with the digest (R174, R292). -/
def State.homeWrite (s : State) (q : Req) (w : Word) : State :=
  let bs := leBytes 4 w.toNat
  if q.near then (s.nearHome q.addr bs (some q.core)).digestNear q bs
  else (s.memEngine q.addr bs (some q.core)).digestStore q.thread.wg q.va.toNat bs q.quiet
/-- Whether the word's line or span is poisoned (R159, R376). -/
def State.homePoisoned (s : State) (q : Req) : Bool := if q.near then s.nearPoisoned q.addr 4 else q.poison || s.memPoisoned q.addr 4
/-- The contained record that a home writes for a request on a poisoned word (R376, R384): its physical address, or its
native near address as the launch numbers cores. A word of a peer has its home, and its record, there (R173, R315). -/
def State.poisonRecord (s : State) (launch log : Nat) (near : Bool) (addr : Nat) : State :=
  if !near && regionOf addr == 1 then s else
  let core := ((s.launch launch).map (fun l => l.logicalOf (addr / 2 ^ 19))).getD 0
  let native : Word := 1#1 ++ BitVec.ofNat 8 core ++ 0#4 ++ BitVec.ofNat 19 addr
  s.mcEvent 0x08 (if near then clusterOf (addr / 2 ^ 19) else homeOf addr) 2 4 (if near then 2 else 1)
    (if near then native.zeroExtend 64 else BitVec.ofNat 64 addr) 0 (BitVec.ofNat 32 launch) (BitVec.ofNat 32 log)
/-- The record of a thread's request. -/
def State.homeRecord (s : State) (q : Req) : State :=
  match s.wgOf q.thread with
  | some w => s.poisonRecord w.launch w.log q.near q.addr
  | none => s
/-- The reading core gathers the writer mark of the word (R292). -/
def State.homeGather (s : State) (q : Req) : State :=
  if q.near then s.gatherNear q.core q.addr else s.gather q.core (Tbl.find s.marks (q.addr / 128))
/-- The reply waits in its return slot (R318). -/
def State.homeReply (s : State) (id : Nat) (w : Word) : State :=
  s.onReq id (fun q => { q with served := true, data := leBytes 4 w.toNat })
/-- A reservation enters its home's table; a full table of this device's homes evicts the oldest (R172). -/
def State.setReserve (s : State) (r : Reserve) : State :=
  let mine := s.reserves.filter (fun x => x.home == r.home)
  let l := if r.home < 64 ∧ mine.length ≥ 2048 then (match mine.head? with
    | some old => s.reserves.erase old
    | none => s.reserves) else s.reserves
  { s with reserves := l ++ [r] }
/-- LR sets the thread's reservation (R172). -/
def State.reserve (s : State) (q : Req) : State :=
  s.dropReserve q.thread |>.setReserve { home := q.home, peer := none, thread := q.thread, near := q.near, line := q.addr / 128 }
def State.reserved (s : State) (q : Req) : Bool :=
  s.reserves.any (fun r => r.peer.isNone && r.thread == q.thread && r.near == q.near && r.line == q.addr / 128)
/-- A home's access of a global word: its line enters the L2 (R309), and the requesting core's own copy, which a load
issued before may have brought back, is discarded (R291). -/
def State.homeTouch (s : State) (q : Req) : State :=
  if q.near then s
  else (((s.asFunction (s.reqPart q) q.addr 4 q.kind.writes).l2Touch (q.addr / 128) false).l2Policy q.addr 4 q.cp).dropClean q.core (q.addr / 128)
/-- The home applies one request indivisibly (R170-R172), or refuses a poisoned word (R376). -/
def State.homeServe (s : State) (id : Nat) (q : Req) : State :=
  let old := s.homeWord q
  let s := s.homeTouch q
  let b := q.args.getD 0 0
  match q.kind with
  | .red op =>
    if s.homePoisoned q then ((s.homeRecord q).onThread q.thread (fun t => t.storeDone q.seq)).dropReq id
    else ((s.homeWrite q (redNew op old b)).onThread q.thread (fun t => t.storeDone q.seq)).dropReq id
  | .atom op =>
    if s.homePoisoned q then (s.homeRecord q).onReq id (fun q => { q with served := true, data := [] })
    else
      let s := s.homeGather q
      (match atomNew op old b (q.args.getD 1 0) with
        | some w => s.homeWrite q w
        | none => s).homeReply id old
  | .lr =>
    if s.homePoisoned q then ((s.homeRecord q).dropReserve q.thread).onReq id (fun q => { q with served := true, data := [] })
    else ((s.homeGather q).reserve q).homeReply id old
  | .sc =>
    if s.homePoisoned q then ((s.homeRecord q).dropReserve q.thread).onReq id (fun q => { q with served := true, data := [] })
    else if s.reserved q then ((((s.homeGather q).homeWrite q b).dropReserve q.thread).homeReply id 0)
    else ((s.homeGather q).dropReserve q.thread).homeReply id 1
  | _ => s
/-- R317: requests of one thread to one word in issue order. -/
def execHomeRequestServe (req : Nat) (s : State) : Out :=
  match Tbl.find s.reqs req with
  | none => .next s
  | some q => if q.served || !s.inOrder req q then .next s else .next (s.homeServe req q)
/-- The reply writes the destination's value, or is poisoned, and frees the return slot (R318, R376). -/
def State.atomicReply (s : State) (id : Nat) (q : Req) : State :=
  let r := if q.data.isEmpty then (none, some q.va) else (some [BitVec.ofNat 32 (leNat q.data)], none)
  ((s.freeReturn q.thread).onThread q.thread (fun t => t.loadDone q.seq r.1 r.2)).dropReq id
/-- R171, R318. -/
def execAtomicReply (req : Nat) (s : State) : Out :=
  match Tbl.find s.reqs req with
  | none => .next s
  | some q => if q.served then .next (s.atomicReply req q) else .next s

/-! Promotion and recall -/

/-- Core dst performs its device-scope release for a promotion request of core src and acknowledges (R293). -/
def execPromotionRequest (src dst : Nat) (s : State) : Out :=
  .next ((s.releaseCore dst).onCore src (fun c => { c with promote := c.promote &&& ~~~(1#256 <<< dst) }))
/-- The directory recalls an owned line: it is written back and passes to the core named (R291). Where that is the owner
itself, its L1 evicts the line: it is written back, its release bit is cleared, and no core owns it (R292, R308). -/
def execLineRecall (line core : Nat) (s : State) : Out :=
  match Tbl.find s.owners line with
  | none => .next s
  | some owner =>
    let s := s.recall line
    if owner = core then .next s else
    .next (({ s with owners := Tbl.insert s.owners line core }).onCore core (fun c => { c with clean := Tbl.erase c.clean line }))

end Sys2Proof.Machine
end

