-- ==== Sys2Proof/Machine/Fields.lean ====
section
/-! DEFINITION. Field access: descriptors (R234-R236), FBIND (R238), coordinates, weights and taps (R239-R243), FLD and
FLDG (R244, R245), FSPL (R246, R247) and the splat log of deterministic launches (R248). -/
namespace Sys2Proof.Machine

/-! Descriptors (R234, R235) -/

def Field.byte (f : Field) (i : Nat) : Nat := (f.desc.getD i 0).toNat
def Field.kind (f : Field) : Nat := f.byte 8 % 4
def Field.fmt (f : Field) : Nat := f.byte 9
def Field.order (f : Field) : Nat := f.byte 10
def Field.isNear (f : Field) : Bool := f.byte 11 % 2 == 1
def Field.edge (f : Field) (d : Nat) : Nat := f.byte (12 + d)
/-- N_d. -/
def Field.extent (f : Field) (d : Nat) : Nat := bytesAt f.desc (16 + 2 * d) 2 + 1
def Field.log2t (f : Field) : Nat := f.byte 24
def Field.border (f : Field) : Val := ofFp32 (BitVec.ofNat 32 (bytesAt f.desc 28 4))
def Field.scale (f : Field) (d : Nat) : Val := ofFp32 (BitVec.ofNat 32 (bytesAt f.desc (32 + 4 * d) 4))
def Field.offset (f : Field) (d : Nat) : Val := ofFp32 (BitVec.ofNat 32 (bytesAt f.desc (48 + 4 * d) 4))
def Field.base (f : Field) : Nat := bytesAt f.desc 0 8
/-- Bytes of an entry (R236). -/
def Field.esize (f : Field) : Nat :=
  match f.fmt with
  | 0 => 4
  | 2 => 2
  | 3 => 2
  | _ => 1
/-- Whether the 64 bytes keep R234 and R235. -/
def Field.ok (f : Field) : Bool :=
  let dims := f.dims
  let unused := (List.range 4).all (fun d => decide (d < dims) || (f.edge d == 0 && f.extent d == 1
    && bytesAt f.desc (32 + 4 * d) 4 == 0 && bytesAt f.desc (48 + 4 * d) 4 == 0))
  let hashed := f.kind == 1
  f.kind != 3 && decide (f.byte 8 < 16) && [0, 2, 3, 5, 18].contains f.fmt && [0, 1, 3].contains f.order && decide (f.byte 11 < 2)
    && bytesAt f.desc 25 3 == 0 && decide (f.base < 2 ^ (if f.isNear then 32 else 56)) && f.base % f.esize == 0 && unused
    && (List.range 4).all (fun d => decide (f.edge d ≤ 3))
    && (if hashed then decide (2 ≤ dims) && decide (8 ≤ f.log2t) && decide (f.log2t ≤ 24)
          && (List.range 4).all (fun d => f.edge d == 0 && f.extent d == 1)
        else f.log2t == 0)
    && (f.kind != 2 || dims == 1) && (f.order != 3 || decide (dims ≤ 3))

/-! FBIND (R238) -/

/-- Bind a slot; the core's FFU lines are discarded (R310). -/
def State.bindField (s : State) (g core : Nat) (fs : FSlot) (f : Field) (refs : List ThreadRef) : State :=
  if !f.ok then s.trapAll refs (fun u s => s.trapWord u clField 4)
  else ((s.onWg g (fun w => { w with fields := Tbl.insert w.fields fs.toNat f })).onCore core (fun c => { c with ffu := [] })).advanceAll refs
/-- R238, global descriptor: the checks of R156, R159 and R404 for every executing thread. -/
def execFbind (fs : FSlot) (sp : SPair) (va : VReg) (s : State) : Out :=
  issueElected (.fbind fs sp va) (fun t w refs s =>
    let a := w.sPair sp + (t.getV va.toNat).zeroExtend 64
    let trap := fun (cls : Byte) (d : Word) => s.trapAll refs (fun u s => s.trapData u cls d a)
    if fieldOf a 63 56 != 0 then trap clAddress 0
    else if a.toNat % 64 ≠ 0 then trap clAlign 0
    else match s.tlbLook (s.partOf w) w.core a.toNat with
      | none => refs.foldl (fun s r => s.onThread r (fun u => { u with stall := .walk (a.toNat / 4096) kLoad a (s.core w.core).cyc })) s
      | some x =>
        if !x.r || (peerRefuses x.pa && !s.linkLost x.pa) then trap clAccess 0
        else if s.linkLost x.pa then trap clMachine 3
        else if x.poison || s.memPoisoned x.pa 64 then
          refs.foldl (fun s r => match s.thread r with
            | some u => s.trapData u clMachine 2 a
            | none => s) ((s.l2Read x.pa 64).l2Policy x.pa 64 x.cp)
        else
          let (b, s) := ((s.tlbTouch w.core a.toNat).asFunction (s.partOf w) x.pa 64 false).memLoad x.pa 64 w.core x.cp
          s.bindField t.ref.wg w.core fs { desc := b, near := false, origin := a } refs) s
/-- R238, near descriptor: that the bytes lie in the own allocation is checked before they are read. -/
def execFbindNear (fs : FSlot) (va : VReg) (s : State) : Out :=
  issueElected (.fbindNear fs va) (fun t w refs s =>
    let na := t.getV va.toNat
    match s.checkNear t.ref.wg t.handler na 64 64 with
    | .error e => s.trapAll refs (fun u s => s.trapNear u e na)
    | .ok (key, target) =>
      if target ≠ t.ref.wg then s.trapAll refs (fun u s => s.trapWord u clField 5)
      else if s.nearPoisoned key 64 then s.trapAll refs (fun u s => s.trapData u clMachine 2 (na.zeroExtend 64))
      else s.bindField t.ref.wg w.core fs
        { desc := s.nearLoad key 64, near := true, origin := BitVec.ofNat 64 (key - nearKey w.core w.base) } refs) s

/-! From coordinate to taps (R239-R243) -/

/-- rn: FP32 with RNE. -/
def rnVal (v : Val) : Val := ofFp32 (toFp32 0 v).1
def vMul (a b : Val) : Val := (a.mul b).1
def vAdd (a b : Val) : Val := (a.add b).1
/-- Index and 16 fraction bits of a finite u (R239). -/
def splitIndex (s : Bool) (m : Nat) (e : Int) : Int × Nat :=
  let n : Int := if s then -(m : Int) else m
  if 0 ≤ e then (n * 2 ^ e.toNat, 0)
  else
    let d : Int := 2 ^ (-e).toNat
    let i := n.fdiv d
    let r := (n - i * d).toNat * 65536
    let q := r / d.toNat
    let rest := r % d.toNat
    let g := if 2 * rest > d.toNat ∨ (2 * rest = d.toNat ∧ q % 2 = 1) then q + 1 else q
    if g = 65536 then (i + 1, 0) else (i, g)
/-- One axis: none where u is NaN or infinite. -/
def Field.axis (f : Field) (x : Word) (d : Nat) : Option (Int × Nat) :=
  match rnVal (vAdd (vMul (ofFp32 x) (f.scale d)) (f.offset d)) with
  | .fin s m e => some (splitIndex s m e)
  | _ => none
/-- A tap along one axis: index, weight and derivative weight (R240). -/
abbrev AxisTap := Int × Val × Val
def axisTaps (order : Nat) (i : Int) (g : Nat) : List AxisTap :=
  let one : Val := .fin false 1 0
  let half : Val := .fin false 1 (-1)
  let f : Val := if g = 0 then .zero false else .fin false g (-16)
  let s := vAdd one f.neg
  match order with
  | 0 => [(if g < 2 ^ 15 then i else i + 1, one, .zero false)]
  | 1 => [(i, s, one.neg), (i + 1, f, one)]
  | _ =>
    let sixth := ofFp32 0x3E2AAAAB
    let f2 := rnVal (vMul f f)
    let f3 := rnVal (vMul f2 f)
    let s2 := rnVal (vMul s s)
    let s3 := rnVal (vMul s2 s)
    let w1 := rnVal (vAdd (rnVal (vAdd (vMul half f3) f2.neg)) (ofFp32 0x3F2AAAAB))
    let w2 := rnVal (vAdd (rnVal (vAdd (rnVal (vAdd (vMul half.neg f3) (vMul half f2))) (vMul half f))) sixth)
    let q := rnVal (vMul (.fin false 3 (-1)) f2)
    [(i - 1, rnVal (vMul s3 sixth), vMul half.neg s2),
     (i, w1, rnVal (vAdd q (vMul (.fin false 1 1) f).neg)),
     (i + 1, w2, rnVal (vAdd (rnVal (vAdd f q.neg)) half)),
     (i + 2, rnVal (vMul f3 sixth), vMul half f2)]
/-- The taps of a field as lists of axis taps, axis 0 fastest (R241). -/
def tapGrid (axes : List (List AxisTap)) : List (List AxisTap) :=
  match axes with
  | [] => [[]]
  | a :: l => (tapGrid l).flatMap (fun r => a.map (fun x => x :: r))
/-- The product of a tap's weights in axis order, rounded at each step (R241); `g` names the axis that takes dw. -/
def tapWeight (t : List AxisTap) (g : Option Nat) : Val :=
  match t.zipIdx.map (fun e => if g = some e.2 then e.1.2.2 else e.1.2.1) with
  | [] => .fin false 1 0
  | w :: l => l.foldl (fun a x => rnVal (vMul a x)) w
/-- The edge rule of an axis; none makes a border tap (R242). -/
def Field.resolve (f : Field) (d : Nat) (k : Int) : Option Nat :=
  let n : Int := f.extent d
  match f.edge d with
  | 0 => some (min (max k 0) (n - 1)).toNat
  | 1 => some (k.emod n).toNat
  | 2 => let m := k.emod (2 * n); some (if m < n then m else 2 * n - 1 - m).toNat
  | _ => if 0 ≤ k ∧ k < n then some k.toNat else none
/-- The hash of R242. -/
def Field.hash (f : Field) (ks : List Int) : Nat :=
  let cs : List Word := [0x2D8F1E33, 0x5C1B4A95, 0x7E6B9D27, 0x1F3A6C8B]
  let h := (ks.zip cs).foldl (fun (a : Word) e => a ^^^ (BitVec.ofInt 32 e.1 * e.2)) 0
  h.toNat / 2 ^ (32 - f.log2t)
/-- The entry of a tap, none for a border tap (R236, R242). -/
def Field.entry (f : Field) (ks : List Int) : Option Nat :=
  if f.kind = 1 then some (f.hash ks)
  else (ks.zipIdx.reverse.foldl (fun (a : Option Nat) e => match a, f.resolve e.2 e.1 with
    | some x, some i => some (i + f.extent e.2 * x)
    | _, _ => none) (some 0))
/-- One tap of a lane: its number, its entry, its weight and its gradient weights. -/
structure FTap where
  idx   : Nat
  entry : Option Nat
  w     : Val
  gw    : List Val
/-- The taps of a coordinate; none for a non-finite lane (R239). -/
def Field.tapsOf (f : Field) (xs : List Word) : Option (List FTap) :=
  let axes := (List.range f.dims).map (fun d => f.axis (xs.getD d 0) d)
  if axes.all (·.isSome) then
    let grid := tapGrid (axes.map (fun a => let x := a.getD (0, 0); axisTaps f.order x.1 x.2))
    some (grid.zipIdx.map (fun e =>
      { idx := e.2, entry := f.entry (e.1.map (·.1)), w := tapWeight e.1 none,
        gw := (List.range f.dims).map (fun a => tapWeight e.1 (some a)) }))
  else none
/-- The value of an entry's bytes (R236). -/
def Field.value (f : Field) (bs : List Byte) : Val :=
  if f.fmt = 18 then rnVal (fDiv (Val.ofInt (bytesAt bs 0 1)) (Val.ofInt 255)).1
  else (decodeFmt (BitVec.ofNat 5 f.fmt) (bytesAt bs 0 f.esize)).1
/-- The coordinates that a lane names. -/
def Thread.coords (t : Thread) (va : VReg) (n : Nat) : List Word := (List.range n).map (fun d => t.getV (va.toNat + d))

/-! Access checks of the taps, in tap order (R245, R246): the first that fails traps or waits -/

/-- Check the entries of taps, and go on with where they lie. -/
def State.withTaps (s : State) (t : Thread) (w : Workgroup) (f : Field) (write : Bool) (l : List (Nat × Nat × Word)) (acc : List Tap)
    (k : List Tap → State → State) : State :=
  match l with
  | [] => k acc s
  | (i, e, q) :: rest =>
    let n := f.esize
    let a : DWord := BitVec.ofNat 64 (f.base + e * n)
    if f.isNear then
      match s.checkNear t.ref.wg t.handler (fieldOf a 31 0) n n with
      | .error x => s.trapNear t x (fieldOf a 31 0)
      | .ok (key, _) =>
        if !write && s.nearPoisoned key n then s.trapData t clMachine 2 ((fieldOf a 31 0).zeroExtend 64)
        else State.withTaps s t w f write rest (acc ++ [{ idx := i, near := true, addr := key, va := a, cp := 0, poison := false, value := q }]) k
    else s.globalAccess t w a n (if write then kAtomic else kLoad) (!write) write write (fun x s =>
      if write && regionOf x.pa == 2 then s.trapData t clAccess 0 a
      else if !write && s.linkLost x.pa then s.trapData t clMachine 3 a
      else if !write && (x.poison || s.memPoisoned x.pa n) then ((s.l2Read x.pa n).l2Policy x.pa n x.cp).trapData t clMachine 2 a
      else State.withTaps s t w f write rest (acc ++ [{ idx := i, near := false, addr := x.pa, va := a, cp := x.cp, poison := x.poison, value := q }]) k)

/-! FLD and FLDG (R244, R245) -/

/-- Issue a field load: the destination is undefined until a WAIT covers it. -/
def State.fieldLoad (s : State) (t : Thread) (w : Workgroup) (vd va : VReg) (fs : FSlot) (grad : Bool) : State :=
  match Tbl.find w.fields fs.toNat with
  | none => s.trapWord t clField 1
  | some f =>
    let xs := t.coords va f.dims
    let reads := ((f.tapsOf xs).getD []).filterMap (fun (x : FTap) => x.entry.map (fun e => (x.idx, e, (0 : Word))))
    s.withTaps t w f false reads [] (fun taps s =>
      s.startLoad t { newReq t w (.field grad) false 0 0 0 with field := some f, args := xs, taps := taps } vd.toNat
        (if grad then f.dims + 1 else 1))
/-- R244. -/
def execFld (vd va : VReg) (fs : FSlot) (s : State) : Out :=
  issueLanes (.fld vd va fs) (fun t w s => s.fieldLoad t w vd va fs false) s
/-- R244. -/
def execFldg (vd va : VReg) (fs : FSlot) (s : State) : Out :=
  issueLanes (.fldg vd va fs) (fun t w s => s.fieldLoad t w vd va fs true) s
/-- The FFU reads an entry: near from the slice arrays, host and peer memory across its link (R308), device memory through
its cache (R249, R310). Whether a line that memory has
left behind was evicted meanwhile is a free value (log entry 36). -/
def State.ffuRead (s : State) (core : Nat) (t : Tap) (n : Nat) : List Byte × State :=
  if t.near then (s.nearRead t.addr n, s)
  else if !isDevice t.addr then (s.memRead t.addr n, s)
  else
    let line := t.addr / 128
    let fill := fun (s : State) =>
      let (bs, s) := (s.l2Policy t.addr n t.cp).memFetch (line * 128) 128
      ((bs.drop (t.addr % 128)).take n, s.onCore core (fun c => { c with ffu := Tbl.insert c.ffu line bs }))
    match Tbl.find (s.core core).ffu line with
    | some bs =>
      if bs == s.memRead (line * 128) 128 then ((bs.drop (t.addr % 128)).take n, s)
      else
        let (w, s) := s.freshWord
        if w.getLsbD 0 then fill s else ((bs.drop (t.addr % 128)).take n, s)
    | none => fill s
/-- The words that a field load writes, with its flags, from the values of the taps (R244). -/
def fieldResult (f : Field) (grad : Bool) (taps : List (FTap × Val)) : List Word × Flags :=
  let dot := fun (ws : List Val) =>
    let ps := (ws.zip (taps.map (·.2))).map (fun e => e.1.mul e.2)
    let r := dotCanonical (ps.map (fun e => some e.1)) (.zero true)
    (r.1, r.2 || ps.any (·.2))
  let y := dot (taps.map (fun e => e.1.w))
  let out := toFp32 0 y.1
  let g := (List.range f.dims).map (fun a =>
    if f.order = 0 then ((0 : Word), (0 : Flags))
    else
      let d := dot (taps.map (fun e => e.1.gw.getD a (.zero false)))
      let r := scaccStep (.zero true) d.1 (f.scale a)
      let o := toFp32 0 r.1
      (o.1, o.2 ||| nvFlag (d.2 || r.2)))
  if grad then (out.1 :: g.map (·.1), g.foldl (fun a e => a ||| e.2) (out.2 ||| nvFlag y.2))
  else ([out.1], out.2 ||| nvFlag y.2)
/-- A field load's data arrive (R244, R245); a non-finite lane gives the canonical NaN and NV (R239). -/
def State.fieldReturn (s : State) (id : Nat) (q : Req) (f : Field) (grad : Bool) : State :=
  match f.tapsOf q.args with
  | none =>
    ((s.orMflags q.thread.wg 1).onThread q.thread (fun t =>
      t.loadDone q.seq (some (List.replicate (if grad then f.dims + 1 else 1) 0x7FC00000)) none)).dropReq id
  | some l =>
    let (vals, s) := l.foldl (fun (acc : List (FTap × Val) × State) x =>
      match q.taps.find? (fun t => t.idx == x.idx) with
      | none => (acc.1 ++ [(x, f.border)], acc.2)
      | some t => let r := (acc.2.asFunction (s.reqPart q) t.addr f.esize false).ffuRead q.core t f.esize
        (acc.1 ++ [(x, f.value r.1)], r.2)) ([], s)
    let out := fieldResult f grad vals
    ((s.orMflags q.thread.wg (toMflags out.2)).onThread q.thread (fun t => t.loadDone q.seq (some out.1) none)).dropReq id
/-- R244, R245. -/
def execFieldLoadReturn (req : Nat) (s : State) : Out :=
  match Tbl.find s.reqs req with
  | none => .next s
  | some q => match q.kind, q.field with
    | .field grad, some f => .next (s.fieldReturn req q f grad)
    | _, _ => .next s

/-! FSPL (R246-R248) -/

/-- The requests of a lane: tap, entry and product, and the products' flags. -/
def splatParts (l : List FTap) (sigma : Val) : List (Nat × Nat × Word) × Flags :=
  let one := fun (x : FTap) => let m := x.w.mul sigma; let r := toFp32 0 m.1; (r.1, r.2 ||| nvFlag m.2)
  let live := l.filter (fun x => x.entry.isSome)
  (live.map (fun x => (x.idx, x.entry.getD 0, (one x).1)), live.foldl (fun a x => a ||| (one x).2) 0)
/-- Records that a launch's log has room for, less those under way. -/
def State.splatRoom (s : State) (launch : Nat) (l : Launch) : Nat :=
  let flying := (s.reqs.filter (fun e => e.2.kind == .splatLog && (s.wgOf e.2.thread).any (fun w => w.launch == launch))).foldl
    (fun a e => a + e.2.taps.length) 0
  l.splatCap - (l.splats.length + flying)
/-- The flags of a lane's products are ORed into %mflags with its requests (R27, R246). -/
def State.splatFlags (s : State) (q : Req) : State := s.orMflags q.thread.wg (fieldOf (q.args.getD 1 0) 3 0)
/-- The lane's store begins, with a request for each tap, or with one for its log entry, which carry the flags; a tap whose
peer no route reaches is dropped (R406), and a lane with no tap is performed at once. -/
def State.startSplat (s : State) (t : Thread) (w : Workgroup) (taps : List Tap) (det : Bool) (flags : BitVec 4) : State :=
  let seq := t.nst + 1
  let fl : Word := flags.zeroExtend 32
  let lost := taps.filter (fun x => !x.near && s.linkLost x.addr)
  let taps := taps.filter (fun x => x.near || !s.linkLost x.addr)
  let s := lost.foldl (fun (s : State) _ => s.linkDrop (s.partOf w)) s
  let s := s.onThread t.ref (fun u => { u.joinStore.advance with fresh := true })
  if taps.isEmpty then (s.orMflags t.ref.wg flags).onThread t.ref (fun u => u.storeDone seq)
  else if det then s.addReq { newReq t w .splatLog false 0 0 0 with taps := taps, seq := seq, args := [0, fl] }
  else taps.foldl (fun s x =>
    (if x.near then s else s.ownAtomic w.core (x.addr / 128)).addReq
      { newReq t w .splat x.near x.addr x.va 4 with args := [x.value, fl], cp := x.cp, poison := x.poison, seq := seq }) s
/-- R246, R248. -/
def execFspl (vd va : VReg) (fs : FSlot) (s : State) : Out :=
  issueLanes (.fspl vd va fs) (fun t w s =>
    match Tbl.find w.fields fs.toNat with
    | none => s.trapWord t clField 1
    | some f =>
      if f.fmt ≠ 0 then s.trapWord t clField 2
      else match f.tapsOf (t.coords va f.dims) with
        | none => s.startSplat t w [] false 1
        | some l =>
          let p := splatParts l (ofFp32 (t.getV vd.toNat))
          s.withTaps t w f true p.1 [] (fun taps s =>
            match s.launchOf w with
            | some la =>
              if la.det ≠ 0 ∧ taps.length > s.splatRoom w.launch la then s.trapWord t clField 3
              else s.startSplat t w taps (la.det != 0) (toMflags p.2)
            | none => s)) s
/-- A thread's field access can fail in the FFU no more (R84). -/
def Thread.pastFfu (t : Thread) : Thread := { t with fresh := false }
/-- One request of a lane is applied at the home (R246); the store is performed with the lane's last request. -/
def State.splatApply (s : State) (id : Nat) (q : Req) : State :=
  let s := ((s.homeTouch q).splatFlags q).onThread q.thread Thread.pastFfu
  let s := if s.homePoisoned q then s.homeRecord q
    else s.homeWrite q (fp32AddRne (s.homeWord q) (q.args.getD 0 0))
  let s := s.dropReq id
  if s.reqs.any (fun e => e.2.thread == q.thread && e.2.kind == .splat && e.2.seq == q.seq) then s
  else s.onThread q.thread (fun t => t.storeDone q.seq)
/-- The requests of a lane reach a home in tap order (R247). -/
def State.splatTurn (s : State) (id : Nat) (q : Req) : Bool :=
  s.reqs.all (fun e => decide (id ≤ e.1) || !(e.2.thread == q.thread && e.2.kind == .splat && e.2.seq == q.seq && e.2.home == q.home))
/-- R246. -/
def execSplatRequestApply (req : Nat) (s : State) : Out :=
  match Tbl.find s.reqs req with
  | none => .next s
  | some q => if q.kind == .splat && s.inOrder req q && s.splatTurn req q then .next (s.splatApply req q) else .next s
/-- A lane's requests are appended to the launch's log as one unit, and are then performed (R248, R251). -/
def State.splatAppend (s : State) (id : Nat) (q : Req) : State :=
  match s.wgOf q.thread with
  | none => s.dropReq id
  | some w =>
    let gen := fun (t : Tap) => if t.near then ((s.allocAt (t.addr / 2 ^ 19) (t.addr % 2 ^ 19)).map (fun e => e.2.gen)).getD 0 else 0
    let recs : List SplatRec := q.taps.map (fun t => { wglog := w.log, tid := q.thread.tid, tap := t, gen := gen t, quiet := q.quiet })
    (((s.splatFlags q).onLaunch w.launch (fun l => { l with splats := l.splats ++ recs })).onThread q.thread
      (fun t => (t.storeDone q.seq).pastFfu)).dropReq id
/-- The requests of one thread to one entry are appended in issue order (R170, R317). -/
def State.logTurn (s : State) (id : Nat) (q : Req) : Bool :=
  s.reqs.all (fun e => decide (id ≤ e.1) || e.2.thread != q.thread || e.2.kind != .splatLog
    || e.2.taps.all (fun x => q.taps.all (fun y => x.near != y.near || x.addr != y.addr)))
/-- R248. -/
def execSplatLogAppend (req : Nat) (s : State) : Out :=
  match Tbl.find s.reqs req with
  | none => .next s
  | some q => if q.kind == .splatLog && s.logTurn req q then .next (s.splatAppend req q) else .next s

/-! The log at the launch's end (R248) -/

/-- Key order: workgroup, thread, tap. -/
def SplatRec.key (r : SplatRec) : Nat := (r.wglog * 512 + r.tid) * 64 + r.tap.idx
/-- Insert a record after those of lower or equal keys. -/
def splatInsert (r : SplatRec) (l : List SplatRec) : List SplatRec :=
  match l with
  | [] => [r]
  | x :: t => if x.key ≤ r.key then x :: splatInsert r t else r :: x :: t
/-- Apply one record: a near target that has been returned drops it, and so does a lost link, which LINK_DROP counts (R406);
the digest of its workgroup grows (R174, R282). -/
def State.splatFinal (s : State) (launch : Nat) (r : SplatRec) : State :=
  let t := r.tap
  let fresh := match s.allocAt (t.addr / 2 ^ 19) (t.addr % 2 ^ 19) with
    | some (_, w) => w.gen == r.gen
    | none => false
  if t.near && !fresh then s
  else if !t.near && s.linkLost t.addr then s.linkDrop (((s.launch launch).map (·.part)).getD 0)
  else if (if t.near then s.nearPoisoned t.addr 4 else t.poison || s.memPoisoned t.addr 4) then s.poisonRecord launch r.wglog t.near t.addr
  else
    let old := BitVec.ofNat 32 (leNat (if t.near then s.nearRead t.addr 4 else s.memRead t.addr 4))
    let bs := leBytes 4 (fp32AddRne old t.value).toNat
    let s := if t.near then s.nearHome t.addr bs none else (s.l2Policy t.addr 4 t.cp).memEngine t.addr bs none
    s.onLaunch launch (fun l => if l.det < 2 || r.quiet then l
      else { l with digests := Tbl.insert l.digests r.wglog (Tbl.get 0 l.digests r.wglog + digestOf t.va.toNat bs) })
/-- Apply a launch's log; the bytes of its log area are then undefined (R248). -/
def State.applySplats (s : State) (launch : Nat) : State :=
  match s.launch launch with
  | none => s
  | some l =>
    if l.det = 0 then s
    else
      let recs := l.splats.foldl (fun acc r => splatInsert r acc) []
      let s := recs.foldl (fun s r => s.splatFinal launch r) (s.onLaunch launch (fun l => { l with splats := [] }))
      let (ep, s) := s.freshEpoch
      (s.tryWrite l.part none l.splatAt ((List.range (16 * l.splatCap)).map (fun i => Config.freeByte ep i)) none).2

end Sys2Proof.Machine
end

