-- ==== Sys2Proof/Machine/Matrix.lean ====
section
/-! DEFINITION. The matrix engine: operand slots (R213-R215), the order and the conflicts of operations (R221), tiles
(R217), MMA and MMAS (R218-R220), SCACC (R227), NPRUNE and CMPK.SPARSE (R228-R230) and PPT (R232, R233). -/
namespace Sys2Proof.Machine

/-! Slots and tiles -/

/-- A byte of a slot; undefined where nothing has written it (R32). -/
def Slot.byte (x : Slot) (i : Nat) : Byte := (Tbl.find x.bytes i).getD (Config.freeByte x.epoch i)
/-- Whether a workgroup owns a slot. -/
def CoreSt.owns (c : CoreSt) (g i : Nat) : Bool := (c.slot i).owner == some g
/-- Whether the number of ones of an ACC word's data bits is odd. -/
def accOdd (w : BitVec 35) : Bool :=
  let x := w ^^^ (w >>> 32)
  let x := x ^^^ (x >>> 16)
  let x := x ^^^ (x >>> 8)
  let x := x ^^^ (x >>> 4)
  let x := x ^^^ (x >>> 2)
  (x ^^^ (x >>> 1)).getLsbD 0
/-- An ACC word with its parity bit (R55, R59). -/
def withParity (w : BitVec 35) : BitVec 36 := (if accOdd w then 1#1 else 0#1) ++ w
/-- Whether the parity of a stored ACC word is even (R55, R59). -/
def parityOk (w : BitVec 36) : Bool := w.getLsbD 35 == accOdd (fieldOf w 34 0)
/-- The data bits of a cell of a tile, by row x 64 + column; undefined where nothing has written it (R33). -/
def Tile.cell (t : Tile) (k : Nat) : BitVec 35 :=
  match Tbl.find t.cells k with
  | some w => fieldOf w 34 0
  | none => Config.freeAcc t.epoch k
def Workgroup.tile (w : Workgroup) (i : Nat) : Tile := w.acc.getD i { epoch := 0, cells := [] }
/-- Write cells of a tile, each with its parity (R59). -/
def Tile.put (t : Tile) (l : List (Nat × BitVec 35)) : Tile :=
  { t with cells := l.foldl (fun m e => Tbl.insert m e.1 (withParity e.2)) t.cells }
def State.onTile (s : State) (g i : Nat) (f : Tile → Tile) : State := s.onWg g (fun w => { w with acc := w.acc.set i (f (w.tile i)) })
/-- Set every cell of a tile. -/
def State.setTile (s : State) (g i : Nat) (f : Nat → BitVec 35) : State :=
  s.onTile g i (fun t => { t with cells := (List.range 4096).map (fun k => (k, withParity (f k))) })
/-- Give a slot 16 KiB of contents. -/
def State.fillSlot (s : State) (core i : Nat) (f : Nat → Byte) : State :=
  s.onCore core (fun c => c.setSlot i { c.slot i with bytes := (List.range 16384).map (fun k => (k, f k)), damaged := false })

/-! Conflicts (R221) -/

/-- All of a slot; the first bytes of its lines, whole 32-bit words; all of a tile. -/
def slotRect (i bytes : Nat) (write : Bool) : Rect :=
  { tile := false, index := i, write := write, row0 := 0, rows := 64, col0 := 0, cols := (bytes + 3) / 4 * 4 }
def tileRect (i rows cols : Nat) (write : Bool) : Rect :=
  { tile := true, index := i, write := write, row0 := 0, rows := rows, col0 := 0, cols := cols }
/-- The words that two operations share, if one of them writes them. -/
def Rect.clash (a b : Rect) : Option Rect :=
  let r0 := max a.row0 b.row0
  let c0 := max a.col0 b.col0
  let r1 := min (a.row0 + a.rows) (b.row0 + b.rows)
  let c1 := min (a.col0 + a.cols) (b.col0 + b.cols)
  if a.tile = b.tile ∧ a.index = b.index ∧ (a.write || b.write) ∧ r0 < r1 ∧ c0 < c1
  then some { a with write := true, row0 := r0, rows := r1 - r0, col0 := c0, cols := c1 - c0 } else none
def isMma (i : Instr) : Bool :=
  match i with
  | .mma _ _ _ _ _ => true
  | .mmas _ _ _ _ _ _ => true
  | _ => false
def isOld (i : Instr) : Bool :=
  match i with
  | .old _ _ _ _ _ => true
  | _ => false
/-- Pairs that keep their issue order: MMA and MMAS (R221), fills of one slot (R215). -/
def keepsOrder (a b : Instr) : Bool := (isMma a && isMma b) || (isOld a && isOld b)
/-- The conflicting words of two operations. -/
def Op.clash (a b : Op) : List Rect :=
  if a.wg ≠ b.wg ∨ keepsOrder a.instr b.instr = true then []
  else a.rects.flatMap (fun x => b.rects.filterMap (fun y => x.clash y))
/-- Mark the conflicts of a new operation in it and in the incomplete ones. -/
def State.withClash (s : State) (op : Op) (k : Op → State → State) : State :=
  let torn := s.ops.flatMap (fun e => op.clash e.2)
  k { op with torn := torn } { s with ops := s.ops.map (fun e => (e.1, { e.2 with torn := e.2.torn ++ op.clash e.2 })) }
/-- Whether a word is a conflicting word of an operation. -/
def Op.tornAt (op : Op) (tile : Bool) (index row col : Nat) : Bool :=
  op.torn.any (fun r => r.tile == tile && r.index == index && decide (r.row0 ≤ row) && decide (row < r.row0 + r.rows)
    && decide (r.col0 ≤ col) && decide (col < r.col0 + r.cols))
/-- Whether a line of a slot or a row of a tile holds a conflicting word. -/
def Op.tornRow (op : Op) (tile : Bool) (index row : Nat) : Bool :=
  op.torn.any (fun r => r.tile == tile && r.index == index && decide (r.row0 ≤ row) && decide (row < r.row0 + r.rows))
/-- The positions of a rectangle in a table of n columns. -/
def Rect.keys (r : Rect) (n : Nat) : List Nat :=
  (List.range r.rows).flatMap (fun i => (List.range r.cols).map (fun j => (r.row0 + i) * n + r.col0 + j))
/-- The conflicting words become undefined as an operation completes (R221). -/
def State.tear (s : State) (op : Op) : State :=
  op.torn.foldl (fun s r =>
    let (ep, s) := s.freshEpoch
    if r.tile then s.onTile op.wg r.index (fun t => t.put ((r.keys 64).map (fun k => (k, Config.freeAcc ep k))))
    else s.onCore op.core (fun c =>
      let x := c.slot r.index
      c.setSlot r.index { x with bytes := (r.keys 256).foldl (fun m k => Tbl.insert m k (Config.freeByte ep k)) x.bytes })) s
/-- A matrix operation ends: its conflicts, then its completion. -/
def State.endMx (s : State) (id : Nat) (op : Op) (status : Byte) : State := (s.tear op).completeOp id status
/-- Whether an operation that reads the first rows and columns of tile i finds a word of wrong parity among those that are
not undefined for it (R59, R221). -/
def Workgroup.badWord (w : Workgroup) (op : Op) (i rows cols : Nat) : Bool :=
  (w.tile i).cells.any (fun e => !parityOk e.2 && decide (e.1 / 64 < rows) && decide (e.1 % 64 < cols)
    && !op.tornAt true i (e.1 / 64) (e.1 % 64))
/-- The record of a parity mismatch of an ACC word in the matrix engine: SOURCE 2, STAGE 7 (R59, R387, R388). -/
def State.parityRecord (s : State) (op : Op) : State := s.opRecord op 0x06 op.core 2 7

/-! OCLM and OREL (R213, R214) -/

/-- R213. -/
def execOclm (mask : BitVec 8) (s : State) : Out :=
  issueElected (.oclm mask) (fun t w refs s =>
    let c := s.core w.core
    let waits := fun (i : Nat) => c.claims.any (fun e => e.1 == t.ref.wg && e.2.1.getLsbD i)
    if (slotsOf mask).any (fun i => c.owns t.ref.wg i || waits i) then s.trapRefs refs clSlot 0
    else
      let s := refs.foldl (fun s r => s.onThread r (fun u => u.park (.claim mask))) s
      (s.onCore w.core (fun c => { c with claims := c.claims ++ [(t.ref.wg, mask, refs)] })).claimCheck w.core) s
/-- R214: the operations on the slots have completed, or the threads would wait. -/
def execOrel (mask : BitVec 8) (s : State) : Out :=
  issueElected (.orel mask) (fun t w refs s =>
    if (slotsOf mask).any (fun i => !(s.core w.core).owns t.ref.wg i) then s.trapRefs refs clSlot 0
    else
      let (ep, s) := s.freshEpoch
      let s := s.onCore w.core (fun c => (slotsOf mask).foldl (fun c i =>
        c.setSlot i { state := .free, epoch := ep, bytes := [], damaged := false }) c)
      (s.advanceAll refs).claimCheck w.core) s

/-! Issuing (R216) -/

/-- The precise checks of stage 2, of OLD's slot and of MV's block (R215, R216, R226). -/
inductive MxTrap | slot | tile | foreign
  deriving DecidableEq, Repr
/-- What the checks of the block answer: PARAM (with stage 1 failed), a precise trap, or the operation to issue. -/
inductive MxIssue | param | trap (x : MxTrap) | go (op : Op)

/-- Issue an operation of the matrix engine from threads or from a role: `check` reads the block. `after` is the change
that the issue makes at once. DESIGN CHOICE (log entry 42): where the block's address fails and the slot of an OLD is not
owned either, the trap is that of the block's address. -/
def issueMx (i : Instr) (kinds : List Nat) (hd : HReg) (tag : Tag) (sp : SPair) (va : VReg) (n : Nat)
    (check : State → Op → Workgroup → MxIssue) (after : Nat → Op → State → State) (s : State) : Out :=
  issueGroup i (fun t w refs s => s.withBlock t refs va n 16 (fun key _ b =>
      let op := { s.threadOp i t w sp with block := b, args := [BitVec.ofNat 32 key] }
      match check s op w with
      | .param => s.issueDone op hd refs stParam
      | .trap .slot => s.trapRefs refs clSlot 0
      | .trap .tile => s.trapRefs refs clTile 0
      | .trap .foreign => s.trapAll refs (fun u s => s.trapNear u (.cause 5) (t.getV va.toNat))
      | .go op => let id := s.nextId
        after id op (s.withClash op (fun op s => s.issueFor op hd refs))))
    (fun l tm r s => s.engineWord i kinds hd tag sp.toNat va.toNat l tm r (fun _ g w op a =>
      s.withRoleBlock g a n 16 l tm r (fun key _ b =>
        let op := { op with block := b, args := [BitVec.ofNat 32 key] }
        match check s op w with
        | .param => s.issueRoleDone op l tm r stParam
        | .trap _ => s.engineFault l tm r 3
        | .go op => let id := s.nextId
          after id op (s.withClash op (fun op s => s.issueRole op l tm r))))) s
/-- The same with nothing to do at issue. -/
def issueMatrix (i : Instr) (hd : HReg) (tag : Tag) (sp : SPair) (va : VReg) (n : Nat) (check : State → Op → Workgroup → MxIssue)
    (s : State) : Out :=
  issueMx i [kindMatrix] hd tag sp va n check (fun _ _ s => s) s

/-! Spans read and written by the engine: failures give statuses (R199, R216) -/

/-- Read n bytes of a side: near address, or offset from the base pair. -/
def State.spanRead (s : State) (op : Op) (near : Bool) (off n : Nat) : Except SideErr (List Byte × State) :=
  if near then
    match s.sideNear op (BitVec.ofNat 32 off) n 16 with
    | .error e => .error e
    | .ok (.near key) => if s.nearPoisoned key n then .error (.access 0 .poison) else .ok (s.nearRead key n, s)
    | .ok (.global _ _) => .ok ([], s)
  else
    let va := op.base + BitVec.ofNat 64 off
    if fieldOf va 63 56 != 0 || va.toNat % 16 ≠ 0 then .error (.access va .address)
    else match s.readVa op.part (some op.core) va n with
      | .error (a, e) => .error (.access a e)
      | .ok r => .ok r
/-- What a failed read of a span leaves behind: the walks, and the lines that it read (R309). -/
def State.spanTrace (s : State) (op : Op) (near : Bool) (off n : Nat) : State :=
  let va := op.base + BitVec.ofNat 64 off
  if near || fieldOf va 63 56 != 0 || va.toNat % 16 ≠ 0 then s else s.readTrace op.part (some op.core) va n
/-- Of the bytes that pieces hold, those from k on, n of them. -/
def cutPieces (l : List (Nat × Nat)) (k n : Nat) : List (Nat × Nat) :=
  match l with
  | [] => []
  | (a, m) :: t =>
    if m ≤ k then cutPieces t (k - m) n
    else
      let j := min n (m - k)
      if j = 0 then [] else (a + k, j) :: cutPieces t 0 (n - j)
/-- Where a checked span is written. -/
inductive SpanDst | near (key : Nat) | global (va : DWord) (pieces : List (Nat × Nat))
/-- Check a span for writing. -/
def State.spanCheck (s : State) (op : Op) (near : Bool) (off n : Nat) : Except SideErr SpanDst :=
  if near then
    match s.sideNear op (BitVec.ofNat 32 off) n 16 with
    | .error e => .error e
    | .ok (.near key) => .ok (.near key)
    | .ok (.global _ _) => .error (.near (.cause 0))
  else
    let va := op.base + BitVec.ofNat 64 off
    if fieldOf va 63 56 != 0 || va.toNat % 16 ≠ 0 then .error (.access va .address)
    else match s.checkWriteVa op.part (some op.core) va n with
      | .error (a, e) => .error (.access a e)
      | .ok l => .ok (.global va l)
/-- Bytes [k, k + n) of a checked span. -/
def SpanDst.part (d : SpanDst) (k n : Nat) : SpanDst :=
  match d with
  | .near key => .near (key + k)
  | .global va l => .global (va + BitVec.ofNat 64 k) (cutPieces l k n)
def State.spanWrite (s : State) (op : Op) (d : SpanDst) (bs : List Byte) : State :=
  match d with
  | .near key => s.opNear op.wg key bs op.quiet
  | .global va l => (s.translatedAll op.part (some op.core) va bs.length).opMem op.wg va l bs op.quiet
/-- The walks for a span that is to be written have been made (R309, R323). -/
def State.spanTouch (s : State) (op : Op) (near : Bool) (off n : Nat) : State :=
  let va := op.base + BitVec.ofNat 64 off
  if near || fieldOf va 63 56 != 0 || va.toNat % 16 ≠ 0 then s else s.translatedAll op.part (some op.core) va n
/-- The fault records of the items that fail translation (R326). -/
def State.spanFaults (s : State) (op : Op) (es : List SideErr) : State :=
  es.foldl (fun s e => match e with
    | .access va (.page l c) => s.asyncFault op va l c
    | _ => s) s
/-- The first failure in the order of R198's table. -/
def worst (es : List SideErr) : Byte := es.foldl (fun a e => if e.status.toNat < a.toNat then e.status else a) stNone
/-- Read spans, each with its own checks. -/
def State.spansRead (s : State) (op : Op) (near : Bool) (l : List (Nat × Nat)) : List SideErr × List (List Byte) × State :=
  l.foldl (fun acc e => match acc.2.2.spanRead op near e.1 e.2 with
    | .error x => (acc.1 ++ [x], acc.2.1 ++ [[]], acc.2.2.spanTrace op near e.1 e.2)
    | .ok (bs, s) => (acc.1, acc.2.1 ++ [bs], s)) ([], [], s)

/-! OLD (R215) -/

def oldCheck (slot : BitVec 3) (s : State) (op : Op) (_ : Workgroup) : MxIssue :=
  let b := op.block
  if !(s.core op.core).owns op.wg slot.toNat then .trap .slot
  else if bytesAt b 0 4 % 16 ≠ 0 ∨ bytesAt b 4 4 % 16 ≠ 0 ∨ blk b 8 ≥ 2 ∨ blkZero b 9 15 = false then .param
  else .go { op with rects := [slotRect slot.toNat 256 true] }
/-- R215. -/
def execOld (hd : HReg) (tag : Tag) (sp : SPair) (va : VReg) (slot : BitVec 3) (s : State) : Out :=
  issueMx (.old hd tag sp va slot) [kindMatrix] hd tag sp va 16 (oldCheck slot) (fun id op s =>
    s.onCore op.core (fun c => c.setSlot slot.toNat { c.slot slot.toNat with state := .filling op.wg id })) s
/-- The slot is READY once its latest fill is over (R215). -/
def State.slotReady (s : State) (core slot id : Nat) : State :=
  s.onCore core (fun c => match (c.slot slot).state with
    | .filling g o => if o = id then c.setSlot slot { c.slot slot with state := .ready g } else c
    | _ => c)
/-- A failed or cancelled fill leaves undefined values (R215, R231). -/
def State.voidSlot (s : State) (core slot : Nat) : State :=
  let (ep, s) := s.freshEpoch
  s.onCore core (fun c => c.setSlot slot { c.slot slot with epoch := ep, bytes := [], damaged := false })
/-- A fill ends without filling. -/
def State.failOld (s : State) (id : Nat) (op : Op) (slot : Nat) (status : Byte) : State :=
  ((s.voidSlot op.core slot).slotReady op.core slot id).endMx id op status
def State.fillRun (s : State) (id : Nat) (op : Op) (slot : Nat) : State :=
  let b := op.block
  let spans := (List.range 64).map (fun i => (bytesAt b 0 4 + i * bytesAt b 4 4, 256))
  let (es, ls, s) := s.spansRead op (blk b 8 == 1) spans
  if es.isEmpty then
    let all := ls.flatten
    ((s.fillSlot op.core slot (fun k => all.getD k 0)).slotReady op.core slot id).endMx id op stOK
  else (s.spanFaults op es).failOld id op slot (worst es)
/-- R215: fills of one slot in issue order. -/
def execSlotFillCompletion (id : Nat) (s : State) : Out :=
  match Tbl.find s.ops id with
  | none => .next s
  | some op => match op.instr with
    | .old _ _ _ _ slot =>
      if s.ops.any (fun e => decide (e.1 < id) && e.2.wg == op.wg && e.2.rects.any (fun r => !r.tile && r.index == slot.toNat) && isOld e.2.instr)
      then .next s
      else if op.canceled then .next (s.failOld id op slot.toNat stCancelled)
      else .next (s.fillRun id op slot.toNat)
    | _ => .next s

/-! ACCLD, ACCST, ACZ (R217) -/

/-- Which of the three. -/
inductive AccFn | ld | st | z
  deriving DecidableEq, Repr
def accCheck (fn : AccFn) (s : State) (op : Op) (w : Workgroup) : MxIssue :=
  let b := op.block
  let first := blk b 0
  let count := blk b 1
  let kind := blk b 2
  let fmt := blk b 3
  let pitch := bytesAt b 8 4
  let fl := blk b 12
  let row := packedBytes (BitVec.ofNat 5 fmt) 64
  if kind > 2 ∨ count = 0 ∨ count > (if kind = 2 then 8 else 16) ∨ (kind = 2 ∧ first + count > 8)
    ∨ (if kind = 1 then fmt > 31 ∨ pitch % 16 ≠ 0 ∨ pitch < (row + 15) / 16 * 16 else fmt ≠ 0 ∨ pitch ≠ 0)
    ∨ bytesAt b 4 4 % 16 ≠ 0 ∨ fl ≥ 8 ∨ (¬ (fn = .st ∧ kind = 1) ∧ fl ≥ 2) ∨ blkZero b 13 15 = false
    ∨ (fn = .z ∧ (kind ≠ 0 ∨ bytesAt b 4 4 ≠ 0 ∨ fl ≠ 0)) then .param
  else if kind = 2 then
    if (List.range count).all (fun u => (s.core op.core).owns op.wg (first + u)) then
      .go { op with rects := (List.range count).map (fun u => slotRect (first + u) 256 (fn == .ld)) }
    else .trap .slot
  else if first + count > w.tiles then .trap .tile
  else .go { op with rects := (List.range count).map (fun u => tileRect (first + u) 64 64 (fn != .st)) }
/-- R217. -/
def execAccld (hd : HReg) (tag : Tag) (sp : SPair) (va : VReg) (s : State) : Out :=
  issueMatrix (.accld hd tag sp va) hd tag sp va 16 (accCheck .ld) s
/-- R217. -/
def execAccst (hd : HReg) (tag : Tag) (sp : SPair) (va : VReg) (s : State) : Out :=
  issueMatrix (.accst hd tag sp va) hd tag sp va 16 (accCheck .st) s
/-- R217. -/
def execAcz (hd : HReg) (tag : Tag) (sp : SPair) (va : VReg) (s : State) : Out :=
  issueMatrix (.acz hd tag sp va) hd tag sp va 16 (accCheck .z) s
/-- The spans of unit u (R217): offset and length. -/
def accSpans (b : List Byte) (u : Nat) : List (Nat × Nat) :=
  let addr := bytesAt b 4 4
  match blk b 2 with
  | 0 => [(addr + 32768 * u, 32768)]
  | 1 => (List.range 64).map (fun r => (addr + (64 * u + r) * bytesAt b 8 4, packedBytes (BitVec.ofNat 5 (blk b 3)) 64))
  | _ => [(addr + 16384 * u, 16384)]
/-- The word of a tile that a unit's bytes give, and NV of T2 0b10 (R50, R57, R60). -/
def accWord (b : List Byte) (rows : List (List Byte)) (k : Nat) : BitVec 35 × Bool :=
  if blk b 2 = 0 then (accOfImage (bytesAt (rows.getD 0 []) (8 * k) 8), false)
  else
    let f := BitVec.ofNat 5 (blk b 3)
    let r := decodeFmt f (elemAt f (rows.getD (k / 64) []) (k % 64))
    (accEncode (accRound r.1), r.2)
/-- Unit u of an ACCLD arrives whole. -/
def State.accUnit (s : State) (op : Op) (u : Nat) (rows : List (List Byte)) : State :=
  let b := op.block
  let i := blk b 0 + u
  if blk b 2 = 2 then
    let bs := rows.getD 0 []
    (s.fillSlot op.core i (fun k => bs.getD k 0)).onCore op.core (fun c => c.setSlot i { c.slot i with state := .ready op.wg })
  else
    let s := s.setTile op.wg i (fun k => (accWord b rows k).1)
    if (List.range 4096).any (fun k => (accWord b rows k).2) then s.orMflags op.wg 1 else s
/-- The tiles or slots of a failed ACCLD are undefined (R217). -/
def State.accVoid (s : State) (op : Op) : State :=
  let b := op.block
  (List.range (blk b 1)).foldl (fun s u =>
    let i := blk b 0 + u
    if blk b 2 = 2 then (s.voidSlot op.core i).onCore op.core (fun c => c.setSlot i { c.slot i with state := .ready op.wg })
    else
      let (ep, s) := s.freshEpoch
      s.onTile op.wg i (fun _ => { epoch := ep, cells := [] })) s
def State.accldRun (s : State) (id : Nat) (op : Op) : State :=
  let b := op.block
  let near := blk b 12 % 2 == 1
  let units := List.range (blk b 1)
  let (es, ls, s) := units.foldl (fun (acc : List SideErr × List (List (List Byte)) × State) u =>
    let r := acc.2.2.spansRead op near (accSpans b u)
    (acc.1 ++ r.1, acc.2.1 ++ [r.2.1], r.2.2)) ([], [], s)
  if es.isEmpty then (units.foldl (fun s u => s.accUnit op u (ls.getD u [])) s).endMx id op stOK
  else ((s.spanFaults op es).accVoid op).endMx id op (worst es)
/-- The bytes that ACCST stores of unit u, span by span, with the flags of a conversion (R60, R63, R217); a conflicting
word, and a slot that is not READY, gives undefined values, which set no flag (R4, R217, R221), by the epoch. -/
def accstBytes (op : Op) (c : CoreSt) (w : Workgroup) (ep u : Nat) : List (List Byte) × Flags :=
  let b := op.block
  let i := blk b 0 + u
  let cell := fun (k : Nat) => if op.tornAt true i (k / 64) (k % 64) then Config.freeAcc ep (4096 * u + k) else (w.tile i).cell k
  match blk b 2 with
  | 0 => ([(List.range 4096).flatMap (fun k => accImage (cell k))], 0)
  | 1 =>
    let f := BitVec.ofNat 5 (blk b 3)
    let mode := BitVec.ofNat 2 (blk b 12 / 2)
    let one := fun (k : Nat) =>
      if op.tornAt true i (k / 64) (k % 64) then ((Config.freeAcc ep (4096 * u + k)).toNat, (0 : Flags))
      else toFormat f mode (accDecode (cell k))
    ((List.range 64).map (fun r => packElems f ((List.range 64).map (fun j => (one (64 * r + j)).1))),
      (List.range 4096).foldl (fun a k => a ||| (one k).2) 0)
  | _ =>
    let x := c.slot i
    let ready := match x.state with
      | .ready _ => true
      | _ => false
    ([(List.range 16384).map (fun k => if !ready || op.tornAt false i (k / 256) (k % 256) then Config.freeByte ep (16384 * u + k) else x.byte k)], 0)
/-- The address that says in which aligned 32-byte sectors a span lies (R164). -/
def spanAt (op : Op) (near : Bool) (off : Nat) : Nat := if near then off else (op.base + BitVec.ofNat 64 off).toNat
/-- The sectors of n bytes at an address: each sector's number, and which of the bytes lie in it, from one to before another. -/
def sectorsOf (a n : Nat) : List (Nat × Nat × Nat) :=
  if n = 0 then [] else
  (List.range ((a + n - 1) / 32 - a / 32 + 1)).map (fun j => (a / 32 + j, (a / 32 + j) * 32 - a, min n ((a / 32 + j + 1) * 32 - a)))
/-- A failed ACCST writes an unspecified set of sectors: a free value chooses for each; none that `bad` names (R59, R164, R217). -/
def State.spanSome (s : State) (op : Op) (near : Bool) (off : Nat) (bs : List Byte) (ep : Nat) (bad : List Nat) : State :=
  (sectorsOf (spanAt op near off) bs.length).foldl (fun s e =>
    if !bad.contains e.1 && (Config.freeByte ep e.1).getLsbD 0 then
      let part := (bs.take e.2.2).drop e.2.1
      match s.spanCheck op near off bs.length with
      | .ok d => s.spanWrite op (d.part e.2.1 part.length) part
      | .error _ => s
    else s) s
/-- The sectors of span r of unit u of an ACCST, `n` bytes at `off`, that take bits from a word of wrong parity (R59). -/
def accstBad (op : Op) (w : Workgroup) (near : Bool) (u r off n : Nat) : List Nat :=
  let b := op.block
  let i := blk b 0 + u
  let bits := if blk b 2 = 0 then 64 else storageBits (BitVec.ofNat 5 (blk b 3))
  let odd := if blk b 2 < 2 then (w.tile i).cells.filter (fun e =>
    !parityOk e.2 && !op.tornAt true i (e.1 / 64) (e.1 % 64) && (blk b 2 == 0 || e.1 / 64 == r)) else []
  ((sectorsOf (spanAt op near off) n).filter (fun x => odd.any (fun e =>
    let k := if blk b 2 = 0 then e.1 else e.1 % 64
    decide (k * bits < 8 * x.2.2) && decide (8 * x.2.1 < (k + 1) * bits)))).map (·.1)
def State.accstRun (s : State) (id : Nat) (op : Op) : State :=
  match s.wg op.wg with
  | none => s.endMx id op stContained
  | some w =>
    let b := op.block
    let near := blk b 12 % 2 == 1
    let (ep, s) := s.freshEpoch
    let c := s.core op.core
    let bad := (blk b 2 == 2) && (List.range (blk b 1)).any (fun u => (c.slot (blk b 0 + u)).damaged)
    let odd := decide (blk b 2 < 2) && (List.range (blk b 1)).any (fun u => w.badWord op (blk b 0 + u) 64 64)
    let units := (List.range (blk b 1)).map (fun u => (accSpans b u, accstBytes op c w ep u))
    let parts : List (Nat × List Byte) := units.flatMap (fun x => (x.1.zip x.2.1).map (fun y => (y.1.1, y.2)))
    let checked := parts.map (fun x => (s.spanCheck op near x.1 x.2.length, x.2))
    let es := checked.filterMap (fun x => match x.1 with
      | .error e => some e
      | .ok _ => none)
    if es.isEmpty && !bad && !odd then
      let s := checked.foldl (fun s x => match x.1 with
        | .ok d => s.spanWrite op d x.2
        | .error _ => s) s
      (s.orMflags op.wg (units.foldl (fun a x => a ||| toMflags x.2.2) 0)).endMx id op stOK
    else
      let s := if odd then s.parityRecord op else s
      let (pick, s) := s.freshEpoch
      let skip := if odd then units.zipIdx.flatMap (fun x => x.1.1.zipIdx.flatMap (fun y => accstBad op w near x.2 y.2 y.1.1 y.1.2)) else []
      let s := parts.foldl (fun s x => (s.spanTouch op near x.1 x.2.length).spanSome op near x.1 x.2 pick skip) (s.spanFaults op es)
      s.endMx id op (if !es.isEmpty then worst es else if bad then stContained else stArithCheck)
def State.aczRun (s : State) (id : Nat) (op : Op) : State :=
  ((List.range (blk op.block 1)).foldl (fun s u => s.setTile op.wg (blk op.block 0 + u) (fun _ => 0)) s).endMx id op stOK

/-! MMA and MMAS (R218-R220) -/

/-- Elements of a line that a format gives (R213). -/
def kcap (f : Nat) : Nat := 2048 / storageBits (BitVec.ofNat 5 f)
/-- The fields of the block. -/
def mmaMa (b : List Byte) : Nat := blk b 2
def mmaNb (b : List Byte) : Nat := blk b 3
def mmaA (b : List Byte) : List Nat := (List.range (mmaMa b)).map (fun i => blk b (4 + i))
def mmaB (b : List Byte) : List Nat := (List.range (mmaNb b)).map (fun j => blk b (8 + j))
def mmaK (b : List Byte) : Nat := bytesAt b 14 2
def mmaMeta (b : List Byte) : Nat := bytesAt b 16 4
/-- n of the sparse forms (R98, R220, R228). -/
def sparseKeep (n : SparseN) : Nat :=
  match n with
  | .n6 => 6
  | .n4 => 4
  | .n3 => 3
/-- Stages 1 and 2 for MMA (none) and MMAS. -/
def mmaCheck (keep : Option Nat) (ov : Bool) (s : State) (op : Op) (w : Workgroup) : MxIssue :=
  let b := op.block
  let k := mmaK b
  let ma := mmaMa b
  let nb := mmaNb b
  let ka := match keep with
    | some n => k * n / 12
    | none => k
  let badK := match keep with
    | some _ => decide (k % 12 ≠ 0 ∨ k > kcap (blk b 1) ∨ ka > kcap (blk b 0) ∨ mmaMeta b % 16 ≠ 0)
    | none => decide (k % 16 ≠ 0 ∨ k < 16 ∨ k > min (kcap (blk b 0)) (kcap (blk b 1)) ∨ mmaMeta b ≠ 0)
  if blk b 0 > 31 ∨ blk b 1 > 31 ∨ ma < 1 ∨ ma > 4 ∨ nb < 1 ∨ nb > 4 ∨ (mmaA b ++ mmaB b).any (fun i => decide (i > 7)) = true
    ∨ (List.range 4).any (fun i => (decide (ma ≤ i) && blk b (4 + i) != 0) || (decide (nb ≤ i) && blk b (8 + i) != 0)) = true
    ∨ blk b 13 ≠ 0 ∨ badK = true ∨ blkZero b 20 31 = false then .param
  else if !(mmaA b ++ mmaB b).all (fun i => (s.core op.core).owns op.wg i) then .trap .slot
  else if blk b 12 + ma * nb > w.tiles then .trap .tile
  else
    let reads := (mmaA b).map (fun i => slotRect i (packedBytes (BitVec.ofNat 5 (blk b 0)) ka) false)
      ++ (mmaB b).map (fun j => slotRect j (packedBytes (BitVec.ofNat 5 (blk b 1)) k) false)
    .go { op with rects := reads ++ (List.range (ma * nb)).map (fun t => tileRect (blk b 12 + t) 64 64 true),
                  reason := if ov then 1 else 0 }
/-- R218, R219. -/
def execMma (hd : HReg) (tag : Tag) (sp : SPair) (va : VReg) (ov : Bool) (s : State) : Out :=
  issueMatrix (.mma hd tag sp va ov) hd tag sp va 32 (mmaCheck none ov) s
/-- R218, R220. -/
def execMmas (hd : HReg) (tag : Tag) (sp : SPair) (va : VReg) (ov : Bool) (n : SparseN) (s : State) : Out :=
  issueMatrix (.mmas hd tag sp va ov n) hd tag sp va 32 (mmaCheck (some (sparseKeep n)) ov) s
/-- The decoded elements of a line of a slot, each with NV of T2 0b10 (R50). -/
def slotLine (x : Slot) (fmt : Nat) (line n : Nat) : List (Val × Bool) :=
  let f := BitVec.ofNat 5 fmt
  let bs := (List.range (packedBytes f n)).map (fun i => x.byte (256 * line + i))
  (List.range n).map (fun k => decodeFmt f (elemAt f bs k))
/-- Bytes of metadata of a row (R220). -/
def metaPitch (k n : Nat) : Nat := ((k * n / 12 * 4 + 7) / 8 + 15) / 16 * 16
/-- The dense positions that the entries of a row keep; none where an entry breaks R220. -/
def keptPositions (es : List Nat) (n : Nat) : Option (List Nat) :=
  let groups := piecesOf (es.length + 1) n es
  if groups.all (fun g => g.all (fun x => decide (x ≤ 11)) && (g.zip g.tail).all (fun p => decide (p.1 < p.2))) then
    some (groups.zipIdx.flatMap (fun e => e.1.map (fun x => 12 * e.2 + x)))
  else none
/-- Spread kept elements over K dense positions; the others are absent (R79, R220). -/
def spread {α : Type} (k : Nat) (pos : List Nat) (vs : List α) : List (Option α) :=
  (List.range k).map (fun p => (pos.zip vs).findSome? (fun e => if e.1 = p then some e.2 else none))
/-- The exact products of two lines, with NV (R71, R80, R81). -/
def lineProducts (a : List (Option (Val × Bool))) (b : List (Val × Bool)) : List (Option Val) × Bool :=
  let l := (a.zip b).map (fun e => match e.1 with
    | some x => (some (x.1.mul e.2.1).1, x.2 || e.2.2 || (x.1.mul e.2.1).2)
    | none => (none, false))
  (l.map (·.1), l.any (·.2))
/-- One word of the result: dot_canonical from the tile's word, or from -0 (R219). -/
def mmaWord (a : List (Option (Val × Bool))) (b : List (Val × Bool)) (init : Val) : BitVec 35 × Bool :=
  let p := lineProducts a b
  let r := dotCanonical p.1 init
  (accEncode r.1, p.2 || r.2)
/-- A position of a sum of products: absent, undefined, or a known product (R79, R221). -/
abbrev Part := Option (Option Val)
/-- acc_round(a + b) of values that may be undefined; an undefined value sets no flag (R4). -/
def accAddKnown (a b : Option Val) : Option Val × Bool :=
  match a, b with
  | some x, some y => let r := accAdd x y; (some r.1, r.2)
  | _, _ => (none, false)
/-- chunk_sum, segment_sum and dot_canonical where positions or the initial word may be undefined: the value, none where it
is computed from an undefined one, and the NV of the steps that no undefined value enters (R4, R72, R74, R221). -/
def chunkKnown (c : List Part) : Option Val × Bool :=
  let q := c.filterMap id
  if q.any (·.isNone) then (none, false) else let h := chunkSum (q.filterMap id); (some h.1, h.2)
def segmentKnown (p : List Part) : Option Val × Bool :=
  (piecesOf (p.length / 16 + 1) 16 p).foldl (fun acc c =>
    let h := chunkKnown c
    let r := accAddKnown acc.1 h.1
    (r.1, acc.2 || h.2 || r.2)) (some (.zero true), false)
def dotKnown (p : List Part) (init : Option Val) : Option Val × Bool :=
  (piecesOf (p.length / 512 + 1) 512 p).foldl (fun acc g =>
    let h := segmentKnown g
    let r := accAddKnown acc.1 h.1
    (r.1, acc.2 || h.2 || r.2)) (init, false)
/-- One word of the result where elements of the lines (`ua`, `ub`) or the initial word are undefined: the word, none where
it is undefined, and NV of what is known, the decoding of known elements with it (R4, R50, R219, R221). -/
def mmaKnown (a : List (Option (Val × Bool))) (b : List (Val × Bool)) (ua ub : List Bool) (init : Option Val) : Option (BitVec 35) × Bool :=
  let l := ((a.zip b).zip (ua.zip ub)).map (fun e => match e.1.1 with
    | some x =>
      let y := e.1.2
      let nv := (!e.2.1 && x.2) || (!e.2.2 && y.2)
      if e.2.1 || e.2.2 then ((some none : Part), nv) else (some (some (x.1.mul y.1).1), nv || (x.1.mul y.1).2)
    | none => (none, false))
  let r := dotKnown (l.map (·.1)) init
  (r.1.map accEncode, l.any (·.2) || r.2)
/-- Which of the first n elements of a slot's line lie in conflicting words (R221). -/
def Op.tornElems (op : Op) (slot line fmt n : Nat) : List Bool :=
  let bits := storageBits (BitVec.ofNat 5 fmt)
  (List.range n).map (fun k => op.tornAt false slot line (k * bits / 8) || op.tornAt false slot line (((k + 1) * bits - 1) / 8))
/-- The metadata of all rows of all A slots, read and checked in full (R220). -/
def State.readMeta (s : State) (op : Op) (n : Nat) : Except Byte (List (List Nat)) :=
  let b := op.block
  let k := mmaK b
  let pitch := metaPitch k n
  match s.spanRead op true (mmaMeta b) (mmaMa b * 64 * pitch) with
  | .error e => .error e.status
  | .ok (bs, _) =>
    let rows := (List.range (mmaMa b * 64)).map (fun r =>
      let row := (bs.drop (r * pitch)).take pitch
      keptPositions ((List.range (k * n / 12)).map (fun e => elemAt 20 row e)) n)
    if rows.all (·.isSome) then .ok (rows.map (·.getD [])) else .error stParam
/-- A row of the A slots at the positions it stands at: all k, or those that the metadata names (R219, R220). -/
def placeRow {α : Type} (keep : Option (Nat × List (List Nat))) (k r : Nat) (l : List α) : List (Option α) :=
  match keep with
  | none => l.map some
  | some (_, pos) => spread k (pos.getD r []) l
/-- A result word and NV; a word computed from a conflicting word is undefined and sets no flag (R4, R221). -/
def mmaCell (op : Op) (c : CoreSt) (w : Workgroup) (keep : Option (Nat × List (List Nat))) (ep i j row col : Nat) : BitVec 35 × Bool :=
  let b := op.block
  let k := mmaK b
  let tile := blk b 12 + i * mmaNb b + j
  let sa := (mmaA b).getD i 0
  let sb := (mmaB b).getD j 0
  let idx := 64 * row + col
  let ov := op.reason == 1
  let init : Val := if ov then .zero true else accDecode ((w.tile tile).cell idx)
  let lineB := slotLine (c.slot sb) (blk b 1) col k
  let n := match keep with
    | none => k
    | some (n, _) => k * n / 12
  let lineA := placeRow keep k (i * 64 + row) (slotLine (c.slot sa) (blk b 0) row n)
  if op.tornRow false sa row || op.tornRow false sb col || (!ov && op.tornAt true tile row col) then
    let r := mmaKnown lineA lineB ((placeRow keep k (i * 64 + row) (op.tornElems sa row (blk b 0) n)).map (·.getD false)) (op.tornElems sb col (blk b 1) k)
      (if !ov && op.tornAt true tile row col then none else some init)
    (r.1.getD (Config.freeAcc ep ((i * 4 + j) * 4096 + idx)), r.2)
  else mmaWord lineA lineB init
/-- R219, R220. -/
def State.mmaRun (s : State) (id : Nat) (op : Op) (keep : Option Nat) : State :=
  match s.wg op.wg with
  | none => s.endMx id op stContained
  | some w =>
    let b := op.block
    let metaRows : Except Byte (Option (Nat × List (List Nat))) := match keep with
      | none => .ok none
      | some n => (s.readMeta op n).map (fun l => some (n, l))
    match metaRows with
    | .error st => s.endMx id op st
    | .ok m =>
      let c := s.core op.core
      if (mmaA b ++ mmaB b).any (fun i => (c.slot i).damaged) then s.endMx id op stContained
      else if op.reason ≠ 1 ∧ (List.range (mmaMa b * mmaNb b)).any (fun t => w.badWord op (blk b 12 + t) 64 64) = true then
        (s.parityRecord op).endMx id op stArithCheck
      else
        let (ep, s) := s.freshEpoch
        let blocks := (List.range (mmaMa b)).flatMap (fun i => (List.range (mmaNb b)).map (fun j => (i, j)))
        let s' := blocks.foldl (fun s e => s.setTile op.wg (blk b 12 + e.1 * mmaNb b + e.2)
          (fun k => (mmaCell op c w m ep e.1 e.2 (k / 64) (k % 64)).1)) s
        let nv := blocks.any (fun e => (List.range 4096).any (fun k => (mmaCell op c w m ep e.1 e.2 (k / 64) (k % 64)).2))
        (s'.orMflags op.wg (if nv then 1 else 0)).endMx id op stOK

/-! SCACC (R227) -/

def scaccCheck (code : Bool) (_ : State) (op : Op) (w : Workgroup) : MxIssue :=
  let b := op.block
  if blk b 2 < 1 ∨ blk b 2 > 64 ∨ blk b 3 > (if code then 0 else 1) ∨ bytesAt b 4 4 % 16 ≠ 0 ∨ bytesAt b 8 4 % 16 ≠ 0
    ∨ (!code ∧ bytesAt b 8 4 ≠ 0) ∨ blkZero b 12 15 = false then .param
  else if blk b 0 ≥ w.tiles ∨ blk b 1 ≥ w.tiles then .trap .tile
  else .go { op with rects := [tileRect (blk b 0) 64 (blk b 2) true, tileRect (blk b 1) 64 (blk b 2) false] }
/-- R227. -/
def execScacc (hd : HReg) (tag : Tag) (va : VReg) (code : Bool) (s : State) : Out :=
  issueMatrix (.scacc hd tag va code) hd tag 0 va 16 (scaccCheck code) s
/-- The block scale of Q16N from S and c, with its flags (R54). -/
def blockScale (sw : Word) (c : Nat) : Val × Flags :=
  match ofFp32 sw with
  | .nan => (.nan, 0)
  | .inf g => if c = 0 then (.nan, flagNV) else (.inf g, 0)
  | .fin g m e =>
    if c = 0 then (.zero g, 0)
    else let r := toFp32 0 (.fin g (m * c) (e - 8)); (ofFp32 r.1, r.2)
/-- The scale of a row (R227). -/
def scaccScale (code : Bool) (b : List Byte) (scales codes : List Byte) (row : Nat) : Val × Flags :=
  if code then blockScale (BitVec.ofNat 32 (bytesAt scales 0 4)) (codes.getD row 0).toNat
  else (ofFp32 (BitVec.ofNat 32 (bytesAt scales (if blk b 3 = 1 then 0 else 4 * row) 4)), 0)
/-- One updated word, with NV (R75); computed from a conflicting word, it is undefined and sets no flag: of a product with
a known word, the product's NV stays (R4, R221). -/
def scaccCell (op : Op) (w : Workgroup) (ep row col : Nat) (sc : Val) : BitVec 35 × Bool :=
  let b := op.block
  let k := 64 * row + col
  let part := accDecode ((w.tile (blk b 1)).cell k)
  if op.tornAt true (blk b 1) row col then (Config.freeAcc ep k, false)
  else if op.tornAt true (blk b 0) row col then (Config.freeAcc ep k, (part.mul sc).2)
  else
    let r := scaccStep (accDecode ((w.tile (blk b 0)).cell k)) part sc
    (accEncode r.1, r.2)
def State.scaccRun (s : State) (id : Nat) (op : Op) (code : Bool) : State :=
  match s.wg op.wg with
  | none => s.endMx id op stContained
  | some w =>
    let b := op.block
    let read := fun (off n : Nat) => match s.spanRead op true off n with
      | .ok r => Except.ok r.1
      | .error e => Except.error e
    let sc := read (bytesAt b 4 4) (if code || blk b 3 == 1 then 4 else 256)
    let cd := if code then read (bytesAt b 8 4) 64 else .ok []
    match sc, cd with
    | .ok scales, .ok codes =>
      if w.badWord op (blk b 0) 64 (blk b 2) || w.badWord op (blk b 1) 64 (blk b 2) then (s.parityRecord op).endMx id op stArithCheck
      else
      let (ep, s) := s.freshEpoch
      let scale := fun (row : Nat) => scaccScale code b scales codes row
      let cells := (List.range 64).flatMap (fun row => (List.range (blk b 2)).map (fun col => (row, col)))
      let out := cells.map (fun e => (64 * e.1 + e.2, scaccCell op w ep e.1 e.2 (scale e.1).1))
      let fl := (List.range 64).foldl (fun a row => a ||| toMflags (scale row).2) 0
      let s := s.onTile op.wg (blk b 0) (fun t => t.put (out.map (fun e => (e.1, e.2.1))))
      (s.orMflags op.wg (if out.any (fun e => e.2.2) then fl ||| 1 else fl)).endMx id op stOK
    | sc, cd =>
      let es := [sc, cd].filterMap (fun x => match x with
        | .error e => some e
        | .ok _ => none)
      s.endMx id op (worst es)

/-! NPRUNE and CMPK.SPARSE (R228-R230) -/

/-- The formats of WFMT (R223): 16-, 8- and 4-bit storage. -/
def wfmtOk (f : Nat) : Bool := (decide (2 ≤ f) && decide (f ≤ 20)) || (decide (26 ≤ f) && decide (f ≤ 28)) || f == 30 || f == 31
/-- Bytes from one row of n elements of some width to the next (R228). -/
def rowPitch (n bits : Nat) : Nat := (n * bits + 127) / 128 * 16
def pruneCheck (keep : Option Nat) (_ : State) (op : Op) (_ : Workgroup) : MxIssue :=
  let b := op.block
  let rows := bytesAt b 16 2
  let k := bytesAt b 18 2
  let misaligned := (List.range 4).any (fun i => bytesAt b (4 * i) 4 % 16 != 0)
  let badK := match keep with
    | some _ => decide (k % 12 ≠ 0 ∨ k < 12 ∨ k > 8184 ∨ bytesAt b 12 4 ≠ 0 ∨ bytesAt b 24 4 ≠ 0)
    | none => decide (k = 0)
  if misaligned = true ∨ rows < 1 ∨ rows > 4096 ∨ badK = true ∨ wfmtOk (blk b 20) = false ∨ blkZero b 21 23 = false
    ∨ blkZero b 28 31 = false then .param else .go op
/-- Elements packed as R43 lays them; a last byte that they do not fill keeps undefined bits, by the epoch. -/
def packLoose (f : Fmt) (l : List Nat) (pad : Byte) : List Byte :=
  let w := storageBits f
  let used := l.length * w % 8
  let bs := packElems f l
  if used = 0 then bs else bs.dropLast ++ [bs.getLastD 0 ||| (pad <<< used)]
/-- The magnitude order of R229: NaN above every number. -/
def ranksAbove (a b : Val) : Bool :=
  match a, b with
  | .nan, .nan => false
  | .nan, _ => true
  | _, .nan => false
  | _, _ => (if a.sign then a.neg else a).cmp (if b.sign then b.neg else b) == some .gt
/-- The positions of a group of 12 that are kept, ascending (R229). -/
def keptOf (g : List Val) (n : Nat) : List Nat :=
  (List.range g.length).filter (fun p =>
    let v := g.getD p .nan
    let above := (List.range g.length).filter (fun q => ranksAbove (g.getD q .nan) v || (decide (q < p) && !ranksAbove v (g.getD q .nan)))
    decide (above.length < n))
/-- The codes of a dense row. -/
def denseRow (b : List Byte) (src : List Byte) (i : Nat) : List Nat :=
  let f := BitVec.ofNat 5 (blk b 20)
  let k := bytesAt b 18 2
  let row := (src.drop (i * rowPitch k (storageBits f))).take (packedBytes f k)
  (List.range k).map (fun e => elemAt f row e)
/-- Bytes of n rows of m elements of some width, the last row to its last element. -/
def rowsBytes (n m bits : Nat) : Nat := (n - 1) * rowPitch m bits + (m * bits + 7) / 8
/-- Check near spans for writing. -/
def State.nearSpans (s : State) (op : Op) (l : List (Nat × Nat)) : List SideErr :=
  l.filterMap (fun e => match s.spanCheck op true e.1 e.2 with
    | .error x => some x
    | .ok _ => none)
def State.writeNearSpan (s : State) (op : Op) (off : Nat) (bs : List Byte) : State :=
  match s.spanCheck op true off bs.length with
  | .ok d => s.spanWrite op d bs
  | .error _ => s
/-- R229. -/
def State.pruneRun (s : State) (id : Nat) (op : Op) (n : Nat) : State :=
  let b := op.block
  let f := BitVec.ofNat 5 (blk b 20)
  let rows := bytesAt b 16 2
  let k := bytesAt b 18 2
  let kk := k * n / 12
  let vals := bytesAt b 4 4
  let aux := bytesAt b 8 4
  let src := s.spanRead op true (bytesAt b 0 4) (rowsBytes rows k (storageBits f))
  let es := (match src with
    | .error e => [e]
    | .ok _ => []) ++ s.nearSpans op [(vals, rowsBytes rows kk (storageBits f)), (aux, rowsBytes rows kk 4)]
  match src with
  | .error _ => s.endMx id op (worst es)
  | .ok (bs, _) =>
    if !es.isEmpty then s.endMx id op (worst es)
    else
      let (ep, s) := s.freshEpoch
      let one := fun (i : Nat) =>
        let codes := denseRow b bs i
        let kept := (piecesOf (k + 1) 12 codes).zipIdx.flatMap (fun e =>
          (keptOf (e.1.map (fun c => (decodeFmt f c).1)) n).map (fun p => (p, e.1.getD p 0)))
        (packLoose f (kept.map (·.2)) (Config.freeByte ep (2 * i)), packLoose 20 (kept.map (·.1)) (Config.freeByte ep (2 * i + 1)),
          codes.any (fun c => (decodeFmt f c).2))
      let out := (List.range rows).map (fun i => (i, one i))
      let s := out.foldl (fun s e => (s.writeNearSpan op (vals + e.1 * rowPitch kk (storageBits f)) e.2.1).writeNearSpan op
        (aux + e.1 * rowPitch kk 4) e.2.2.1) s
      (s.orMflags op.wg (if out.any (fun e => e.2.2.2) then 1 else 0)).endMx id op stOK
/-- R228, R229. -/
def execNprune (hd : HReg) (tag : Tag) (va : VReg) (n : SparseN) (s : State) : Out :=
  issueMatrix (.nprune hd tag va n) hd tag 0 va 32 (pruneCheck (some (sparseKeep n))) s

/-- The columns of a row whose decoded value is not a zero, with their codes (R230). -/
def nonZero (f : Fmt) (codes : List Nat) : List (Nat × Nat) :=
  (codes.zipIdx.filter (fun e => !(decodeFmt f e.1).1.isZero)).map (fun e => (e.2, e.1))
/-- The first overflow: row and column, where the output index would reach 65,536 or CAP (R230). -/
def overflowAt (cap : Nat) (rows : List (List (Nat × Nat))) : Option (Nat × Nat) :=
  (rows.zipIdx.foldl (fun (acc : Nat × Option (Nat × Nat)) e =>
    match acc.2 with
    | some x => (acc.1, some x)
    | none => if acc.1 + e.1.length > min cap 65536 then (acc.1, some (e.2, (e.1.getD (min cap 65536 - acc.1) (0, 0)).1))
      else (acc.1 + e.1.length, none)) (0, none)).2
/-- The non-zero elements of every row, where the source can be read. -/
def State.sparseRows (s : State) (op : Op) : Except SideErr (List (List (Nat × Nat)) × Bool) :=
  let b := op.block
  let f := BitVec.ofNat 5 (blk b 20)
  let rows := bytesAt b 16 2
  match s.spanRead op true (bytesAt b 0 4) (rowsBytes rows (bytesAt b 18 2) (storageBits f)) with
  | .error e => .error e
  | .ok (bs, _) => .ok ((List.range rows).map (fun i => nonZero f (denseRow b bs i)),
      (List.range rows).any (fun i => (denseRow b bs i).any (fun c => (decodeFmt f c).2)))
/-- A count pass begins; the threads are not ready during it (R230). The operation is not issued yet: it names no tag and
no handle, and `hd` holds the executing threads. -/
def State.startCount (s : State) (op : Op) (hd : HReg) (refs : List ThreadRef) : State :=
  let (id, s) := s.takeId
  let s := { s with ops := Tbl.insert s.ops id { op with tag := none, phase := 4, hd := some (refs.map (fun r => (r, hd))) } }
  refs.foldl (fun s r => s.onThread r (fun u => u.park (.request id))) s
/-- R228, R230. -/
def execCmpkSparse (hd : HReg) (tag : Tag) (va : VReg) (s : State) : Out :=
  let i : Instr := .cmpkSparse hd tag va
  issueGroup i (fun t w refs s => s.withBlock t refs va 32 16 (fun _ _ b =>
      let op := { s.threadOp i t w 0 with block := b, pa := (t.getV va.toNat).toNat }
      match pruneCheck none s op w with
      | .go op => s.startCount op hd refs
      | _ => s.issueDone op hd refs stParam))
    (fun l tm r s => s.engineWord i [kindMatrix] hd tag 0 va.toNat l tm r (fun _ g w op a =>
      s.withRoleBlock g a 32 16 l tm r (fun _ _ b =>
        match pruneCheck none s { op with block := b, pa := a.toNat } w with
        | .go op => let id := s.nextId
          (s.startCount op 0 []).onRole l tm r (fun x => { x with stall := .request id })
        | _ => s.issueRoleDone { op with block := b } l tm r stParam))) s
/-- The count pass ends: the operation is issued, and an overflow traps its threads at the next word (R230). A role that
an abort has stopped issues nothing (R266). -/
def State.countPass (s : State) (id : Nat) (op : Op) : State :=
  let ovf := match s.sparseRows op with
    | .ok r => overflowAt (bytesAt op.block 24 4) r.1
    | .error _ => none
  let s := { s with ops := Tbl.erase s.ops id }
  let refs : List ThreadRef := (op.hd.getD []).map (·.1)
  let hd : HReg := ((op.hd.getD []).head?.map (·.2)).getD 0
  let tag := match op.issuer with
    | .threads _ => tagOf op.instr
    | .role _ _ _ => none
  let op := { op with tag := tag, hd := none, phase := 5, failed := match ovf with
    | some (row, _) => row + 1
    | none => 0 }
  match op.issuer with
  | .role l tm r => if (s.roleAt l tm r).isSome then s.issueRole op l tm r else s
  | .threads _ =>
    let s := s.issueFor op hd refs
    match ovf with
    | none => s
    | some (row, col) => (s.trapAll refs (fun u s => s.raise u.ref clCompact 0 (BitVec.ofNat 32 (row * 65536 + col)) 0 u.pc)).settleTraps
/-- Whether the issue that ends a count pass waits for its tag (R35). -/
def State.passWaits (s : State) (op : Op) : Bool :=
  match op.issuer, s.wg op.wg with
  | .threads _, some w => s.tagFull w op.instr
  | _, _ => false
/-- R230. -/
def execCmpkSparseCountPass (id : Nat) (s : State) : Out :=
  match Tbl.find s.ops id with
  | none => .next s
  | some op => if op.phase = 4 ∧ s.passWaits op = false then .next (s.countPass id op) else .next s
/-- R230: the rows before the overflowing row, or all. -/
def State.sparseRun (s : State) (id : Nat) (op : Op) : State :=
  let b := op.block
  let f := BitVec.ofNat 5 (blk b 20)
  let cap := bytesAt b 24 4
  match s.sparseRows op with
  | .error e => s.endMx id op e.status
  | .ok (all, nv) =>
    let ovf := match overflowAt cap all with
      | some (r, _) => some (if op.failed = 0 then r else min r (op.failed - 1))
      | none => if op.failed = 0 then none else some (op.failed - 1)
    let rows := all.take (ovf.getD all.length)
    let flat := rows.flatten
    let counts := (List.range (rows.length + 1)).map (fun i => (rows.take i).flatten.length)
    let es := s.nearSpans op ((if flat.isEmpty then [] else [(bytesAt b 4 4, packedBytes f flat.length), (bytesAt b 8 4, 2 * flat.length)])
      ++ [(bytesAt b 12 4, 2 * counts.length)])
    if !es.isEmpty then s.endMx id op (worst es)
    else
      let (pad, s) := s.freshWord
      let s := if flat.isEmpty then s else (s.writeNearSpan op (bytesAt b 4 4) (packLoose f (flat.map (·.2)) (fieldOf pad 7 0))).writeNearSpan op
        (bytesAt b 8 4) (flat.flatMap (fun e => leBytes 2 e.1))
      let s := s.writeNearSpan op (bytesAt b 12 4) (counts.flatMap (leBytes 2))
      (s.orMflags op.wg (if nv then 1 else 0)).endMx id op (if ovf.isSome then stParam else stOK)

/-- MMA and MMAS of one workgroup are performed in issue order (R221). -/
def State.mmaTurn (s : State) (id : Nat) (op : Op) : Bool :=
  s.ops.all (fun e => decide (id ≤ e.1) || e.2.wg != op.wg || !isMma e.2.instr)
/-- R217, R219, R220, R227, R229, R230. -/
def execMatrixOperationCompletion (id : Nat) (s : State) : Out :=
  match Tbl.find s.ops id with
  | none => .next s
  | some op => match op.instr with
    | .accld _ _ _ _ => .next (s.accldRun id op)
    | .accst _ _ _ _ => .next (s.accstRun id op)
    | .acz _ _ _ _ => .next (s.aczRun id op)
    | .mma _ _ _ _ _ => if s.mmaTurn id op then .next (s.mmaRun id op none) else .next s
    | .mmas _ _ _ _ _ n => if s.mmaTurn id op then .next (s.mmaRun id op (some (sparseKeep n))) else .next s
    | .scacc _ _ _ code => .next (s.scaccRun id op code)
    | .nprune _ _ _ n => .next (s.pruneRun id op (sparseKeep n))
    | .cmpkSparse _ _ _ => if op.phase = 5 then .next (s.sparseRun id op) else .next s
    | _ => .next s

/-! PPT (R232, R233) -/

/-- Whether a workgroup owns a tile or a claimed slot (R233). -/
def State.holdsMx (s : State) (g : Nat) (w : Workgroup) : Bool :=
  decide (0 < w.tiles) || (List.range 8).any (fun i => (s.core w.core).owns g i)
/-- The live mask, without tiles and slots that the workgroup does not have (R232). -/
def State.liveMask (s : State) (g : Nat) (w : Workgroup) (m : Word) : BitVec 24 :=
  let ok := fun (i : Nat) => if i < 16 then decide (i < w.tiles) else (s.core w.core).owns g (i - 16)
  (List.range 24).foldl (fun a i => if m.getLsbD i && ok i then a ||| (1#24 <<< i) else a) 0
/-- Record a thread's live mask. -/
def Workgroup.addLive (w : Workgroup) (m : BitVec 24) : Workgroup :=
  { w with preempt := w.preempt.map (fun p => { p with live := p.live ||| m }) }
/-- R233: a thread stops where a pre-emption is pending against a workgroup with tiles or slots; in handler mode it is
not pre-empted (R269). -/
def execPpt (sk : SReg) (s : State) : Out :=
  issueLanes (.ppt sk) (fun t w s =>
    if w.preempt.isSome && s.holdsMx t.ref.wg w && !t.handler then
      (s.onWg t.ref.wg (fun w => w.addLive (s.liveMask t.ref.wg w (w.getS sk.toNat)))).onThread t.ref (fun u =>
        u.park .point)
    else s.onThread t.ref Thread.advance) s

end Sys2Proof.Machine
end

