-- ==== Sys2Proof/Machine/Mv.lean ====
section
/-! DEFINITION. MV: the block and its checks (R223, R224, R226), the choice of the placement (R336, R337), the core
(R338), the bank with its flush, jobs and row results (R330-R335), the result (R225) and the counters (R346, R347). -/
namespace Sys2Proof.Machine

/-! The block (R223) -/

def mvRow0 (b : List Byte) : Nat := bytesAt b 8 4
def mvRows (b : List Byte) : Nat := bytesAt b 12 2
def mvK (b : List Byte) : Nat := bytesAt b 14 2
def mvW (b : List Byte) : Fmt := BitVec.ofNat 5 (blk b 16)
def mvX (b : List Byte) : Fmt := BitVec.ofNat 5 (blk b 17)
def mvY (b : List Byte) : Fmt := BitVec.ofNat 5 (blk b 18)
def mvB (b : List Byte) : Nat := blk b 19 % 16
def mvMode (b : List Byte) : BitVec 2 := BitVec.ofNat 2 (blk b 19 / 16)
def mvXaddr (b : List Byte) : Nat := bytesAt b 20 4
def mvYaddr (b : List Byte) : Nat := bytesAt b 24 4
/-- WADDR. -/
def mvAddr (op : Op) : DWord := op.base + BitVec.ofNat 64 (bytesAt op.block 0 8)
/-- RB, XS and YS: stored row length and the strides of the vectors. -/
def mvRb (b : List Byte) : Nat := (mvK b * storageBits (mvW b) / 8 + 63) / 64 * 64
def mvXs (b : List Byte) : Nat := (mvK b * storageBits (mvX b) / 8 + 15) / 16 * 16
def mvYs (b : List Byte) : Nat := (mvRows b * storageBits (mvY b) / 8 + 15) / 16 * 16
/-- Bytes from the first x (or y) vector to the end of the last. -/
def mvXbytes (b : List Byte) : Nat := (mvB b - 1) * mvXs b + mvK b * storageBits (mvX b) / 8
def mvYbytes (b : List Byte) : Nat := (mvB b - 1) * mvYs b + mvRows b * storageBits (mvY b) / 8
/-- Where row r starts in the frame. -/
def mvRowOff (b : List Byte) (r : Nat) : Nat := r % 512 * 4096 + r / 512 * mvRb b
def mvRowList (b : List Byte) : List Nat := (List.range (mvRows b)).map (mvRow0 b + ·)
/-- Whether an operation is an MV with a tile result. -/
def mvTile (i : Instr) : Bool :=
  match i with
  | .mv _ _ _ _ tile _ => tile
  | _ => false
/-- Stages 1 and 2 (R216, R223), and the block's place (R226). -/
def mvCheck (tile : Bool) (target : Nat) (op : Op) (w : Workgroup) : MxIssue :=
  let b := op.block
  if target ≠ op.wg then .trap .foreign
  else if mvRow0 b % 16 ≠ 0 ∨ mvRows b % 16 ≠ 0 ∨ mvRows b < 16 ∨ mvK b % 16 ≠ 0 ∨ mvK b < 16 ∨ wfmtOk (blk b 16) = false
    ∨ mvK b * storageBits (mvW b) / 8 > 4096 ∨ ([0, 2, 3, 4, 5, 17].contains (blk b 17)) = false
    ∨ blk b 18 > (if tile then 0 else 3) ∨ mvB b < 1 ∨ mvB b > 8 ∨ blk b 19 ≥ (if tile then 16 else 64)
    ∨ mvXaddr b % 16 ≠ 0 ∨ (if tile then mvYaddr b ≥ 256 else mvYaddr b % 16 ≠ 0) ∨ blkZero b 28 31 = false then .param
  else if tile then
    let n := (mvRows b + 63) / 64
    if mvYaddr b + n > w.tiles then .trap .tile
    else .go { op with rects := (List.range n).map (fun t => tileRect (mvYaddr b + t) (min 64 (mvRows b - 64 * t)) (mvB b) true) }
  else .go op

/-! The end of an MV: RAN, the counters, the status (R225, R226, R346, R347) -/

/-- Write RAN, count, and complete. -/
def State.mvEnd (s : State) (id : Nat) (op : Op) (status : Byte) : State :=
  let s := s.opNear op.wg ((op.args.getD 0 0).toNat + 28) [BitVec.ofNat 8 op.ran] op.quiet
  (s.mvCount op).endMx id op status

/-- Issue (R216, R223, R226): a PARAM still writes RAN. -/
def execMv (hd : HReg) (tag : Tag) (sp : SPair) (va : VReg) (tile : Bool) (mode : MvMode) (s : State) : Out :=
  let i : Instr := .mv hd tag sp va tile mode
  issueGroup i (fun t w refs s => s.withBlock t refs va 32 16 (fun key target b =>
      let op := { s.threadOp i t w sp with block := b, args := [BitVec.ofNat 32 key] }
      match mvCheck tile target op w with
      | .param => let id := s.nextId
        let s := s.issueFor op hd refs
        s.mvEnd id ((Tbl.find s.ops id).getD op) stParam
      | .trap .tile => s.trapRefs refs clTile 0
      | .trap _ => s.trapAll refs (fun u s => s.trapNear u (.cause 5) (t.getV va.toNat))
      | .go op => s.withClash op (fun op s => s.issueFor op hd refs)))
    (fun l tm r s => s.engineWord i [kindMv] hd tag sp.toNat va.toNat l tm r (fun _ g w op a =>
      s.withRoleBlock g a 32 16 l tm r (fun key target b =>
        let op := { op with block := b, args := [BitVec.ofNat 32 key] }
        match mvCheck tile target op w with
        | .param => let id := s.nextId
          let s := s.issueRole op l tm r
          s.mvEnd id ((Tbl.find s.ops id).getD op) stParam
        | .trap _ => s.engineFault l tm r 3
        | .go op => s.withClash op (fun op s => s.issueRole op l tm r)))) s

/-! Dispatch (R224, R337) -/

/-- The x range, then the y range of a near result (R224). -/
def State.mvRanges (s : State) (op : Op) : Option NearError :=
  let b := op.block
  match s.checkNear op.wg false (BitVec.ofNat 32 (mvXaddr b)) (mvXbytes b) 16 with
  | .error e => some e
  | .ok _ =>
    if mvTile op.instr then none
    else match s.checkNear op.wg false (BitVec.ofNat 32 (mvYaddr b)) (mvYbytes b) 16 with
      | .error e => some e
      | .ok _ => none
/-- FRV and FRD of a frame (R336). -/
def State.frameValid (s : State) (pa : Nat) : Nat := (s.l2.filter (fun e => e.1 / 16384 == pa / 2 ^ 21)).length
def State.frameDirty (s : State) (pa : Nat) : Nat :=
  (s.l2.filter (fun e => e.1 / 16384 == pa / 2 ^ 21 && (e.2 || (Tbl.find s.owners e.1).isSome))).length
    + (s.owners.filter (fun e => e.1 / 16384 == pa / 2 ^ 21 && (Tbl.find s.l2 e.1).isNone)).length
/-- Channels that hold a row of the MV. -/
def mvChannels (b : List Byte) : List Nat := (List.range 64).filter (fun c => (mvRowList b).any (fun r => r % 64 == c))
/-- Sample the occupancies of the channels of a frame's stack: 0 to 256, not fixed by the spec (log entry 1). -/
def State.sampleOcc (s : State) (pa : Nat) (cs : List Nat) : State :=
  cs.foldl (fun s c =>
    let (w, s) := s.freshWord
    { s with occ := Tbl.put 0 s.occ (pa / 2 ^ 37 % 4 * 64 + c) (w.toNat % 257) }) s
/-- The decision of R337 for .AUTO: 0 the bank, else the reason for the cores (1 BATCH, 2 RES, 3 DIRTY, 4 OCC). -/
def State.autoPlace (s : State) (b : List Byte) (pa : Nat) : Nat × State :=
  let p := s.mgmt.mvdPolicy
  let s := s.sampleOcc pa (mvChannels b)
  let top := ((mvChannels b).map (fun c => Tbl.get 0 s.occ (pa / 2 ^ 37 % 4 * 64 + c))).foldl max 0
  (if mvB b > (fieldOf p 3 0).toNat then 1
    else if s.frameValid pa * 256 > (fieldOf p 23 16).toNat * 16384 then 2
    else if s.frameDirty pa > 0 then 3
    else if top ≥ (fieldOf p 15 8).toNat then 4
    else 0, s)
/-- R224 and R226: the checks, in their order, then the placement. -/
def State.mvPlace (s : State) (id : Nat) (op : Op) (mode : MvMode) : State :=
  let b := op.block
  let va := mvAddr op
  if fieldOf va 63 56 != 0 then s.mvEnd id op stAddress
  else if va.toNat % 2 ^ 21 ≠ 0 then s.mvEnd id op stMvReject
  else match s.translate op.part (some op.core) va.toNat with
    | .error (l, c) => ((s.translated op.part (some op.core) va.toNat).asyncFault op va l c).mvEnd id op stPageFault
    | .ok x =>
      let s := s.translated op.part (some op.core) va.toNat
      if !x.r then s.mvEnd id op stAccess
      else if !x.cc then s.mvEnd id op stMvReject
      else if ((mvRow0 b + mvRows b - 1) / 512 + 1) * mvRb b > 4096 then s.mvEnd id op stMvReject
      else match s.mvRanges op with
        | some e => s.mvEnd id op e.status
        | none =>
          let (reason, s) := match mode with
            | .auto => s.autoPlace b x.pa
            | _ => (0, s)
          let core := mode == .core || reason != 0
          let s := (mvRowList b).foldl (fun s r => s.l2Policy (x.pa + mvRowOff b r) (mvK b * storageBits (mvW b) / 8) x.cp) s
          s.onOp id (fun o => { o with phase := if core then 1 else 2, pa := x.pa, reason := reason,
                                       pagePoison := x.poison })
/-- R224, R226, R337. -/
def execMvDispatch (id : Nat) (s : State) : Out :=
  match Tbl.find s.ops id with
  | none => .next s
  | some op => match op.instr with
    | .mv _ _ _ _ _ mode =>
      if op.phase ≠ 0 then .next s
      else if op.canceled then .next (s.mvEnd id op stCancelled)
      else .next (s.mvPlace id op mode)
    | _ => .next s

/-! Operands and arithmetic (R225, R331, R332) -/

/-- The x vectors, read once; none where a span is poisoned or no longer passes R157. -/
def State.mvReadX (s : State) (op : Op) : Except Byte (List Byte) :=
  let b := op.block
  match s.checkNear op.wg false (BitVec.ofNat 32 (mvXaddr b)) (mvXbytes b) 16 with
  | .error e => .error e.status
  | .ok (key, _) => if s.nearPoisoned key (mvXbytes b) then .error stPoison else .ok (s.nearRead key (mvXbytes b))
/-- The initial words of a row: the tile's, or -0. -/
def mvInit (op : Op) (w : Workgroup) (r : Nat) : List (BitVec 35) :=
  let b := op.block
  (List.range (mvB b)).map (fun j =>
    let q := r - mvRow0 b
    if !mvTile op.instr then accEncode (.zero true)
    else (w.tile (mvYaddr b + q / 64)).cell (64 * (q % 64) + j))
/-- Whether an accumulator of a row is a conflicting word (R221). -/
def Op.mvTorn (op : Op) (r j : Nat) : Bool :=
  let q := r - mvRow0 op.block
  mvTile op.instr && op.tornAt true (mvYaddr op.block + q / 64) (q % 64) j
/-- Whether a tile word that an MV reads has wrong parity (R59). -/
def mvBadWord (op : Op) (w : Workgroup) : Bool :=
  let b := op.block
  mvTile op.instr && (List.range ((mvRows b + 63) / 64)).any (fun t =>
    w.badWord op (mvYaddr b + t) (min 64 (mvRows b - 64 * t)) (mvB b))
/-- The accumulators of a row from its bytes, each with the NV of its products and segments, and with the whole NV. -/
def mvRowSum (tile : Bool) (b : List Byte) (xs wrow : List Byte) (init : List (BitVec 35)) : List (BitVec 35 × Bool × Bool) :=
  let ws := (List.range (mvK b)).map (fun k => decodeFmt (mvW b) (elemAt (mvW b) wrow k))
  (List.range (mvB b)).map (fun j =>
    let xrow := xs.drop (j * mvXs b)
    let vs := (List.range (mvK b)).map (fun k => decodeFmt (mvX b) (elemAt (mvX b) xrow k))
    let no := List.replicate (mvK b) false
    let r := mmaWord (ws.map some) vs (accDecode (init.getD j 0))
    (r.1, if tile then (mmaKnown (ws.map some) vs no no none).2 else r.2, r.2))
/-- NV of a row: of an accumulator that is a conflicting word, what no undefined value enters (R4, R221). -/
def Op.mvRowNv (op : Op) (r : Nat) (l : List (Bool × Bool)) : Bool := l.zipIdx.any (fun e => if op.mvTorn r e.2 then e.1.1 else e.1.2)
/-- The lines of W that a row's bytes meet. -/
def mvRowLines (b : List Byte) (pa r : Nat) : List Nat := linesOf (pa + mvRowOff b r) (mvK b * storageBits (mvW b) / 8)

/-! The bank (R331, R334) -/

/-- Write back and recall the lines of W that the banks do not have yet (R334). -/
def State.mvFlushLine (s : State) (p line : Nat) : State :=
  if (Tbl.find s.owners line).isSome || Tbl.get false s.l2 line then
    let s := (s.recall line).activate (line * 128)
    ({ s with l2 := Tbl.insert s.l2 line false }).mvcAdd p 7 1
  else s
/-- R331, R334: the flush, then x and the initial accumulators leave for the units; the core reads the tile words with
their parity (R59). -/
def State.mvFlush (s : State) (id : Nat) (op : Op) : State :=
  match s.wg op.wg with
  | none => s.mvEnd id op stContained
  | some w =>
    let b := op.block
    let lines := (mvRowList b).foldl (fun m r => (mvRowLines b op.pa r).foldl setInsert m) []
    let s := lines.foldl (fun s l => s.mvFlushLine op.part l) s
    match s.mvReadX op with
    | .error st => s.mvEnd id op st
    | .ok xs =>
      if mvBadWord op w then (s.parityRecord op).mvEnd id op stArithCheck
      else
      s.onOp id (fun o => { o with phase := 3, x := xs, rows := (mvRowList b).map (fun r => (r, mvInit op w r)) })
/-- R334. -/
def execFlushForBank (id : Nat) (s : State) : Out :=
  match Tbl.find s.ops id with
  | none => .next s
  | some op => if op.phase = 2 then .next (s.mvFlush id op) else .next s
/-- The rows of an MV that lie in a unit (R330). -/
def mvUnitRows (b : List Byte) (u : Nat) : List Nat := (mvRowList b).filter (fun r => r % 512 == u)
/-- A unit runs its job (R331, R332): rows in ascending order; a poisoned line gives POISON (R346). -/
def State.mvUnit (s : State) (op : Op) (u : Nat) : Op :=
  let b := op.block
  let step := fun (o : Op) (r : Nat) =>
    let row := s.memRead (op.pa + mvRowOff b r) (mvK b * storageBits (mvW b) / 8)
    let res := mvRowSum (mvTile o.instr) b o.x row (Tbl.get [] o.rows r)
    let bad := op.pagePoison || (mvRowLines b op.pa r).any (fun l => s.poison.contains l)
    { o with rows := Tbl.insert o.rows r (res.map (·.1)),
             nvs := Tbl.insert o.nvs r (res.map (·.2)),
             failed := if bad && o.failed = 0 then stPoison.toNat else o.failed }
  let o := (mvUnitRows b u).foldl step op
  { o with jobs := u :: o.jobs }
/-- The unit reads the lines of its rows from DRAM (R331, R343). -/
def State.mvRead (s : State) (op : Op) (u : Nat) : State :=
  (mvUnitRows op.block u).foldl (fun s r => (mvRowLines op.block op.pa r).foldl (fun s l => s.activate (l * 128)) s) s
/-- The unit of a DRAM bank (R313, R344). -/
def Alert.unit (a : Alert) : Nat := a.bank / 4
/-- A unit is held while a refresh of its banks' rows that an alert started goes on (R344). -/
def State.unitHeld (s : State) (unit : Nat) : Bool := s.alerts.any (fun a => a.unit == unit)
/-- A job of a partition's MV is held by the pauses of a unit: each counts once for the partition (R344, R347). -/
def State.pauseMet (s : State) (part unit : Nat) : State :=
  let met := fun (a : Alert) => a.unit == unit && !a.counted.contains part
  ({ s with alerts := s.alerts.map (fun a => if met a then { a with counted := part :: a.counted } else a) }).mvcAdd part 8
    (s.alerts.filter met).length
/-- Whether an MV has a job in a unit that has not run yet. -/
def Op.jobIn (op : Op) (unit : Nat) : Bool :=
  match op.instr with
  | .mv _ _ _ _ _ _ => op.phase == 3 && op.pa / 2 ^ 37 % 4 == unit / 512 && !op.jobs.contains (unit % 512)
      && !(mvUnitRows op.block (unit % 512)).isEmpty
  | _ => false
/-- R331, R344: the jobs of one MV, each once. -/
def execMvJob (id unit : Nat) (s : State) : Out :=
  match Tbl.find s.ops id with
  | none => .next s
  | some op =>
    let at_ := op.pa / 2 ^ 37 % 4 * 512 + unit
    if 512 ≤ unit ∨ op.jobIn at_ = false then .next s
    else if s.unitHeld at_ then .next (s.pauseMet op.part at_)
    else .next ((s.mvRead op unit).onOp id (fun _ => s.mvUnit op unit))
/-- The y elements of a row, with the flags of their conversion (R63, R225). -/
def mvRowOut (op : Op) (accs : List (BitVec 35)) : List Nat × Flags :=
  let one := accs.map (fun a => toFormat (mvY op.block) (mvMode op.block) (accDecode a))
  (one.map (·.1), one.foldl (fun f e => f ||| e.2) 0)
/-- R331: a row's results are back; they are kept until every row is, since a failure writes none (R225). -/
def execMvRowResult (id row : Nat) (s : State) : Out :=
  match Tbl.find s.ops id with
  | none => .next s
  | some op =>
    if op.phase ≠ 3 ∨ op.jobs.contains (row % 512) = false ∨ (mvRowList op.block).contains row = false ∨ op.outRows.contains row = true
    then .next s
    else
      let f := if mvTile op.instr then 0 else toMflags (mvRowOut op (Tbl.get [] op.rows row)).2
      .next (s.onOp id (fun o => { o with outRows := row :: o.outRows, flags := o.flags ||| f }))

/-! Completion (R225, R338) -/

/-- Write one row of the result (R223); a word computed from a conflicting word is undefined (R221). -/
def State.mvWriteRow (s : State) (op : Op) (ep r : Nat) (accs : List (BitVec 35)) : State :=
  let b := op.block
  let q := r - mvRow0 b
  if mvTile op.instr then
    s.onTile op.wg (mvYaddr b + q / 64) (fun t => t.put (accs.zipIdx.map (fun e =>
      (64 * (q % 64) + e.2, if op.mvTorn r e.2 then Config.freeAcc ep (q * 8 + e.2) else e.1))))
  else
    let n := storageBits (mvY b) / 8
    match s.checkNear op.wg false (BitVec.ofNat 32 (mvYaddr b)) (mvYbytes b) 16 with
    | .error _ => s
    | .ok (key, _) => (mvRowOut op accs).1.zipIdx.foldl (fun s e =>
        s.opNear op.wg (key + e.2 * mvYs b + q * n) (leBytes n e.1) op.quiet) s
/-- Every row has been computed: the result, the flags, RAN and the completion. -/
def State.mvWrite (s : State) (id : Nat) (op : Op) (fl : BitVec 4) : State :=
  let (ep, s) := s.freshEpoch
  let s := op.rows.foldl (fun s e => s.mvWriteRow op ep e.1 e.2) s
  (s.orMflags op.wg (if op.nvs.any (fun e => op.mvRowNv e.1 e.2) then fl ||| 1 else fl)).mvEnd id op stOK
/-- An MV on the issuing core's matrix engine, W read through the L2 (R338). -/
def State.mvCore (s : State) (id : Nat) (op : Op) : State :=
  match s.wg op.wg with
  | none => s.mvEnd id op stContained
  | some w =>
    let b := op.block
    let n := mvK b * storageBits (mvW b) / 8
    if op.failed ≠ 0 then s.mvEnd id op (BitVec.ofNat 8 op.failed)
    else if op.pagePoison || (mvRowList b).any (fun r => (mvRowLines b op.pa r).any (fun l => s.poison.contains l)) then
      ((mvRowList b).foldl (fun s r => s.l2Read (op.pa + mvRowOff b r) n) s).mvEnd id op stPoison
    else match s.mvReadX op with
      | .error st => s.mvEnd id op st
      | .ok xs =>
        if mvBadWord op w then (s.parityRecord op).mvEnd id op stArithCheck
        else
        let (sums, s) := (mvRowList b).foldl (fun (acc : Tbl (List (BitVec 35 × Bool × Bool)) × State) r =>
          let (row, s) := acc.2.memFetch (op.pa + mvRowOff b r) n
          (acc.1 ++ [(r, mvRowSum (mvTile op.instr) b xs row (mvInit op w r))], s)) ([], s)
        let rows := sums.map (fun e => (e.1, e.2.map (·.1)))
        let fl := if mvTile op.instr then 0 else rows.foldl (fun (a : BitVec 4) e => a ||| toMflags (mvRowOut op e.2).2) 0
        s.mvWrite id { op with rows := rows, nvs := sums.map (fun e => (e.1, e.2.map (·.2))) } fl
/-- Whether every row of a bank MV is back. -/
def Op.mvAll (op : Op) : Bool := (mvRowList op.block).all (fun r => op.outRows.contains r)
/-- R225, R346, R347. -/
def execMvCompletion (id : Nat) (s : State) : Out :=
  match Tbl.find s.ops id with
  | none => .next s
  | some op => match op.instr with
    | .mv _ _ _ _ _ _ =>
      if op.phase = 1 then .next (s.mvCore id op)
      else if op.phase = 3 ∧ op.mvAll = true then
        .next (if op.failed ≠ 0 then s.mvEnd id op (BitVec.ofNat 8 op.failed) else s.mvWrite id op op.flags)
      else .next s
    | _ => .next s

end Sys2Proof.Machine
end

