-- ==== Sys2Proof/WellFormed.lean ====
section
/-! DEFINITION. Which terms of `Instr` are instruction words: the events have no encoding, and a few operand
combinations are unassigned or must be zero (R94, R98, R101, R107, R199). -/
namespace Sys2Proof

/-- R94: position + length is at most 32. -/
def bitFieldFits (lenM1 pos : BitVec 5) : Bool := decide (pos.toNat + (lenM1.toNat + 1) ≤ 32)
/-- R101, R107: p0 with negate is unassigned. -/
def predAssigned (p : PReg) (neg : Bool) : Bool := !(p == 0 && neg)
/-- R98, R199: sp is 0 for near to near. -/
def cpyBaseZero (dir : CpyDir) (sp : SPair) : Bool := !(dir == .nn) || sp == 0
/-- R98: without a payload va is 0. -/
def handPayloadOk (k : Payload) (va : VReg) : Bool := !(k == .none) || va == 0

/-- Whether the row is an event of another agent, which has no encoding (spec/95). -/
def Instr.isEvent (i : Instr) : Bool :=
  match i with
  | .issueGroupFormation .. => true
  | .schedHoldoffExpiry .. => true
  | .instructionCacheFill .. => true
  | .loadReturn .. => true
  | .storePerformed .. => true
  | .fullEmptyPerform .. => true
  | .homeRequestServe .. => true
  | .atomicReply .. => true
  | .queuePushServe .. => true
  | .queuePopServe .. => true
  | .gcincRequest .. => true
  | .promotionRequest .. => true
  | .lineRecall .. => true
  | .copyItemCompletion .. => true
  | .codebookLoadCompletion .. => true
  | .cpymLineDelivery .. => true
  | .cpymCompletion .. => true
  | .slotFillCompletion .. => true
  | .matrixOperationCompletion .. => true
  | .cmpkSparseCountPass .. => true
  | .mvDispatch .. => true
  | .flushForBank .. => true
  | .mvJob .. => true
  | .mvRowResult .. => true
  | .mvCompletion .. => true
  | .fieldLoadReturn .. => true
  | .splatRequestApply .. => true
  | .splatLogAppend .. => true
  | .collectiveCompletion .. => true
  | .launchPacketAppend .. => true
  | .exitCompletion .. => true
  | .preemptionTrap .. => true
  | .preemptionTermination .. => true
  | .firmwarePreemption .. => true
  | .workgroupRestore .. => true
  | .packetRead .. => true
  | .launchAdmission .. => true
  | .queueVisit .. => true
  | .launchCompletion .. => true
  | .selfTest .. => true
  | .translationWalk .. => true
  | .invalidationComplete .. => true
  | .lqNotify .. => true
  | .preReqPreempt .. => true
  | .preReqHoldOnly .. => true
  | .launchAbort .. => true
  | .mvcCtlClr .. => true
  | .xltInvPage .. => true
  | .xltInvRange .. => true
  | .xltInvPartition .. => true
  | .fqRespReplay .. => true
  | .fqRespDecline .. => true
  | .mcAck .. => true
  | .irqStatusClear .. => true
  | .irqMaskWrite .. => true
  | .bootCtlLoad .. => true
  | .partSet => true
  | .policySet => true
  | .attest => true
  | .cert => true
  | .retireAck => true
  | .fuseSvn => true
  | .telemetry => true
  | .registerWrite .. => true
  | .hostWrite .. => true
  | .hostRead .. => true
  | .hostAtomicop .. => true
  | .peerRequest .. => true
  | .flitReplay .. => true
  | .linkDown .. => true
  | .machineCheckEvent .. => true
  | .coreControlError .. => true
  | .fatalStop .. => true
  | .inventoryWrite .. => true
  | .patrolScrub .. => true
  | .activationAlert .. => true
  | .alertRefreshDone .. => true
  | .throttleCrossing .. => true
  | .frameRetirement .. => true
  | .pcieReset => true
  | .dramRefresh .. => true
  | .powerDown => true
  | _ => false

/-- The terms that the encodings of R87-R108 can write. -/
def Instr.wellFormed (i : Instr) : Bool :=
  match i with
  | .bfx _ _ _ l q => bitFieldFits l q
  | .bfi _ _ l q => bitFieldFits l q
  | .bra ps n _ _ => predAssigned ps n
  | .call ps n _ => predAssigned ps n
  | .pred q n => predAssigned q n
  | .cpy _ _ sp _ dir _ => cpyBaseZero dir sp
  | .oclm m => m != 0
  | .orel m => m != 0
  | .hand _ snd rcv k va => snd != rcv && handPayloadOk k va
  | .cloop c b => c != 0 && b != 0
  | .cloopReg _ b => b != 0
  | i => !i.isEvent

end Sys2Proof
end

