-- ==== Sys2Proof/Decode.lean ====
section
/-! DEFINITION. Decoding (R87-R108) and the encoder. `decode` is total on 32-bit words: it answers the one
instruction a word stands for, or the check of R105 that refuses it (details 0x01 to 0x03; the later checks
depend on the thread and are made at issue). `encode` lays a well-formed instruction out by the layouts of R89. -/
namespace Sys2Proof

/-- The checks of R105 that the word alone decides. -/
inductive DecodeError
  /-- Detail 0x01: the major is 0x3D. -/
  | reservedMajor
  /-- Detail 0x02: an enumerated value is unassigned, or a limit of R94 is broken. -/
  | unassigned
  /-- Detail 0x03: a field shown as 0 is not zero. -/
  | reservedField
  deriving DecidableEq, Repr

/-- The detail code of the illegal-instruction trap (R105). -/
def DecodeError.detail : DecodeError → Word
  | .reservedMajor => 1
  | .unassigned => 2
  | .reservedField => 3

/-- What a word decodes to. -/
abbrev Decoded := Except DecodeError Instr

/-- Check 0x03: every field shown as 0 is zero. -/
def zeroFields (b : Bool) (i : Instr) : Decoded := if b then .ok i else .error .reservedField
/-- Check 0x02. -/
def assigned (b : Bool) (d : Decoded) : Decoded := if b then d else .error .unassigned

/-! The enumerated sub-fields (R92-R99), each with its code. -/

/-- The code of a ICond. -/
def ICond.bits : ICond → BitVec 4
  | .eq => 0
  | .ne => 1
  | .lt => 2
  | .le => 3
  | .gt => 4
  | .ge => 5
  | .ltu => 6
  | .leu => 7
  | .gtu => 8
  | .geu => 9
/-- The ICond a code stands for. -/
def ICond.ofBits? (b : BitVec 4) : Option ICond :=
  match b.toNat with
  | 0 => some .eq
  | 1 => some .ne
  | 2 => some .lt
  | 3 => some .le
  | 4 => some .gt
  | 5 => some .ge
  | 6 => some .ltu
  | 7 => some .leu
  | 8 => some .gtu
  | 9 => some .geu
  | _ => none

/-- The code of a FCond. -/
def FCond.bits : FCond → BitVec 4
  | .eq => 0
  | .ne => 1
  | .lt => 2
  | .le => 3
  | .gt => 4
  | .ge => 5
  | .un => 6
  | .ord => 7
/-- The FCond a code stands for. -/
def FCond.ofBits? (b : BitVec 4) : Option FCond :=
  match b.toNat with
  | 0 => some .eq
  | 1 => some .ne
  | 2 => some .lt
  | 3 => some .le
  | 4 => some .gt
  | 5 => some .ge
  | 6 => some .un
  | 7 => some .ord
  | _ => none

/-- The code of a Combine. -/
def Combine.bits : Combine → BitVec 2
  | .set => 0
  | .and => 1
  | .or => 2
/-- The Combine a code stands for. -/
def Combine.ofBits? (b : BitVec 2) : Option Combine :=
  match b.toNat with
  | 0 => some .set
  | 1 => some .and
  | 2 => some .or
  | _ => none

/-- The code of a FWidth. -/
def FWidth.bits : FWidth → BitVec 2
  | .fp32 => 0
  | .fp16 => 1
  | .bf16 => 2
/-- The FWidth a code stands for. -/
def FWidth.ofBits? (b : BitVec 2) : Option FWidth :=
  match b.toNat with
  | 0 => some .fp32
  | 1 => some .fp16
  | 2 => some .bf16
  | _ => none

/-- The code of a LdSize. -/
def LdSize.bits : LdSize → BitVec 3
  | .b => 0
  | .sb => 1
  | .h => 2
  | .sh => 3
  | .w => 4
  | .d => 5
  | .q => 6
/-- The LdSize a code stands for. -/
def LdSize.ofBits? (b : BitVec 3) : Option LdSize :=
  match b.toNat with
  | 0 => some .b
  | 1 => some .sb
  | 2 => some .h
  | 3 => some .sh
  | 4 => some .w
  | 5 => some .d
  | 6 => some .q
  | _ => none

/-- The code of a StSize. -/
def StSize.bits : StSize → BitVec 3
  | .b => 0
  | .h => 2
  | .w => 4
  | .d => 5
  | .q => 6
/-- The StSize a code stands for. -/
def StSize.ofBits? (b : BitVec 3) : Option StSize :=
  match b.toNat with
  | 0 => some .b
  | 2 => some .h
  | 4 => some .w
  | 5 => some .d
  | 6 => some .q
  | _ => none

/-- The code of a AtomOp. -/
def AtomOp.bits : AtomOp → BitVec 4
  | .add => 0
  | .fadd => 1
  | .min => 2
  | .max => 3
  | .minu => 4
  | .maxu => 5
  | .and => 6
  | .or => 7
  | .xor => 8
  | .xchg => 9
  | .cas => 10
/-- The AtomOp a code stands for. -/
def AtomOp.ofBits? (b : BitVec 4) : Option AtomOp :=
  match b.toNat with
  | 0 => some .add
  | 1 => some .fadd
  | 2 => some .min
  | 3 => some .max
  | 4 => some .minu
  | 5 => some .maxu
  | 6 => some .and
  | 7 => some .or
  | 8 => some .xor
  | 9 => some .xchg
  | 10 => some .cas
  | _ => none

/-- The code of a RedOp. -/
def RedOp.bits : RedOp → BitVec 4
  | .add => 0
  | .fadd => 1
  | .min => 2
  | .max => 3
  | .minu => 4
  | .maxu => 5
  | .and => 6
  | .or => 7
  | .xor => 8
/-- The RedOp a code stands for. -/
def RedOp.ofBits? (b : BitVec 4) : Option RedOp :=
  match b.toNat with
  | 0 => some .add
  | 1 => some .fadd
  | 2 => some .min
  | 3 => some .max
  | 4 => some .minu
  | 5 => some .maxu
  | 6 => some .and
  | 7 => some .or
  | 8 => some .xor
  | _ => none

/-- The code of a Scope. -/
def Scope.bits : Scope → BitVec 3
  | .workgroup => 0
  | .core => 1
  | .cluster => 2
  | .device => 3
  | .system => 4
/-- The Scope a code stands for. -/
def Scope.ofBits? (b : BitVec 3) : Option Scope :=
  match b.toNat with
  | 0 => some .workgroup
  | 1 => some .core
  | 2 => some .cluster
  | 3 => some .device
  | 4 => some .system
  | _ => none

/-- The code of a FenceKind. -/
def FenceKind.bits : FenceKind → BitVec 2
  | .full => 0
  | .acquire => 1
  | .release => 2
/-- The FenceKind a code stands for. -/
def FenceKind.ofBits? (b : BitVec 2) : Option FenceKind :=
  match b.toNat with
  | 0 => some .full
  | 1 => some .acquire
  | 2 => some .release
  | _ => none

/-- The code of a BraKind. -/
def BraKind.bits : BraKind → BitVec 2
  | .plain => 0
  | .likely => 1
  | .unlikely => 2
/-- The BraKind a code stands for. -/
def BraKind.ofBits? (b : BitVec 2) : Option BraKind :=
  match b.toNat with
  | 0 => some .plain
  | 1 => some .likely
  | 2 => some .unlikely
  | _ => none

/-- The code of a VecSize. -/
def VecSize.bits : VecSize → BitVec 2
  | .b4 => 0
  | .b8 => 1
  | .b16 => 2
/-- The VecSize a code stands for. -/
def VecSize.ofBits? (b : BitVec 2) : Option VecSize :=
  match b.toNat with
  | 0 => some .b4
  | 1 => some .b8
  | 2 => some .b16
  | _ => none

/-- The code of a SparseN. -/
def SparseN.bits : SparseN → BitVec 2
  | .n6 => 0
  | .n4 => 1
  | .n3 => 2
/-- The SparseN a code stands for. -/
def SparseN.ofBits? (b : BitVec 2) : Option SparseN :=
  match b.toNat with
  | 0 => some .n6
  | 1 => some .n4
  | 2 => some .n3
  | _ => none

/-- The code of a MvMode. -/
def MvMode.bits : MvMode → BitVec 2
  | .auto => 0
  | .bank => 1
  | .core => 2
/-- The MvMode a code stands for. -/
def MvMode.ofBits? (b : BitVec 2) : Option MvMode :=
  match b.toNat with
  | 0 => some .auto
  | 1 => some .bank
  | 2 => some .core
  | _ => none

/-- The code of a Payload. -/
def Payload.bits : Payload → BitVec 2
  | .none => 0
  | .value => 1
  | .buffer => 2
/-- The Payload a code stands for. -/
def Payload.ofBits? (b : BitVec 2) : Option Payload :=
  match b.toNat with
  | 0 => some .none
  | 1 => some .value
  | 2 => some .buffer
  | _ => Option.none

/-- The code of a CpyDir. -/
def CpyDir.bits : CpyDir → BitVec 2
  | .gn => 0
  | .ng => 1
  | .nn => 2
  | .gg => 3
/-- The CpyDir a code stands for. -/
def CpyDir.ofBits? (b : BitVec 2) : Option CpyDir :=
  match b.toNat with
  | 0 => some .gn
  | 1 => some .ng
  | 2 => some .nn
  | _ => some .gg

/-- The code of a Space. -/
def Space.bits : Space → BitVec 1
  | .global => 0
  | .near => 1
/-- The Space a code stands for. -/
def Space.ofBits? (b : BitVec 1) : Option Space :=
  match b.toNat with
  | 0 => some .global
  | _ => some .near

/-- Check 0x02 on an enumerated field. -/
def withEnum {α : Type} (o : Option α) (k : α → Decoded) : Decoded :=
  match o with
  | some a => k a
  | none => .error .unassigned

/-- A field of one bit as a truth value. -/
abbrev bitOf {n : Nat} (w : BitVec n) (i : Nat) : Bool := w.getLsbD i
/-- A truth value as a field of one bit. -/
abbrev boolBit (b : Bool) : BitVec 1 := BitVec.ofBool b

/-! The layouts of R89, as encoders. -/
/-- Layout R. -/
def layR (m : BitVec 6) (vd va vb : BitVec 7) (fn : BitVec 5) : Word := m ++ vd ++ va ++ vb ++ fn
/-- Layout I. -/
def layI (m : BitVec 6) (vd va : BitVec 7) (imm : BitVec 12) : Word := m ++ vd ++ va ++ imm
/-- Layout U. -/
def layU (m : BitVec 6) (vd : BitVec 7) (imm : BitVec 19) : Word := m ++ vd ++ imm
/-- Layout M. -/
def layM (m : BitVec 6) (vd vo : BitVec 7) (sb : BitVec 5) (sz : BitVec 3) (imm : BitVec 4) : Word := m ++ vd ++ vo ++ sb ++ sz ++ imm
/-- Layout P. -/
def layP (m : BitVec 6) (pd : BitVec 3) (cond : BitVec 4) (va vb : BitVec 7) (fn : BitVec 5) : Word := m ++ pd ++ cond ++ va ++ vb ++ fn
/-- Layout B. -/
def layB (m : BitVec 6) (ps : BitVec 3) (neg : BitVec 1) (kind : BitVec 2) (off : BitVec 20) : Word := m ++ ps ++ neg ++ kind ++ off
/-- Layout V. -/
def layV (m : BitVec 6) (vd va : BitVec 7) (dfmt sfmt : BitVec 5) (z : BitVec 2) : Word := m ++ vd ++ va ++ dfmt ++ sfmt ++ z
/-- Layout W. -/
def layW (m : BitVec 6) (nld nst : BitVec 6) (ncp ntl : BitVec 4) (z : BitVec 6) : Word := m ++ nld ++ nst ++ ncp ++ ntl ++ z
/-- Layout G. -/
def layG (m : BitVec 6) (vd va : BitVec 7) (sm : BitVec 5) (pp : BitVec 3) (fn : BitVec 4) : Word := m ++ vd ++ va ++ sm ++ pp ++ fn
/-- Layout X. -/
def layX (m : BitVec 6) (hd : BitVec 4) (tag : BitVec 6) (sp : BitVec 5) (va : BitVec 7) (fn : BitVec 4) : Word := m ++ hd ++ tag ++ sp ++ va ++ fn
/-- Layout S. -/
def layS (m : BitVec 6) (op : BitVec 2) (mask : BitVec 8) (z : BitVec 16) : Word := m ++ op ++ mask ++ z
/-- Layout FB. -/
def layFB (m : BitVec 6) (fs : BitVec 3) (sp : BitVec 5) (va : BitVec 7) (near : BitVec 1) (z : BitVec 10) : Word := m ++ fs ++ sp ++ va ++ near ++ z
/-- Layout F. -/
def layF (m : BitVec 6) (vd va : BitVec 7) (fs : BitVec 3) (z : BitVec 9) : Word := m ++ vd ++ va ++ fs ++ z
/-- Layout HD. -/
def layHD (m : BitVec 6) (ch snd rcv : BitVec 4) (pk : BitVec 2) (va : BitVec 7) (z : BitVec 5) : Word := m ++ ch ++ snd ++ rcv ++ pk ++ va ++ z
/-- Layout L. -/
def layL (m : BitVec 6) (mode : BitVec 1) (cnt : BitVec 11) (back : BitVec 14) : Word := m ++ mode ++ cnt ++ back
/-- Layout E. -/
def layE (m : BitVec 6) (role eidx : BitVec 4) (z : BitVec 6) (va : BitVec 7) (z' : BitVec 5) : Word := m ++ role ++ eidx ++ z ++ va ++ z'
/-- Layout C. -/
def layC (m : BitVec 6) (rmask : BitVec 16) (len : BitVec 10) : Word := m ++ rmask ++ len
/-- Layout H. -/
def layH (m : BitVec 6) (kind : BitVec 4) (payload : BitVec 22) : Word := m ++ kind ++ payload

/-- Major 0x00 (R92). -/
def decSys (vd va vb : BitVec 7) (fn : BitVec 5) : Decoded :=
  match fn.toNat with
  | 0 => zeroFields (vd == 0 && va == 0 && vb == 0) (.nop)
  | 1 => zeroFields (vd == 0 && va == 0 && vb == 0) (.exit)
  | 2 => zeroFields (vd == 0 && va == 0) (.trap vb)
  | 3 => zeroFields (vd == 0 && va == 0 && vb == 0) (.eret)
  | 4 => zeroFields (va == 0) (.srd vd vb)
  | 5 => zeroFields (vd == 0) (.swr vb va)
  | 6 => zeroFields (vd == 0 && va == 0) (.brk vb)
  | 7 => assigned (!bitOf va 6) (zeroFields (vd == 0 && vb == 0) (.ppt (fieldOf va 5 0)))
  | 8 => zeroFields (vd == 0 && vb == 0) (.dsav va)
  | 9 => zeroFields (vd == 0 && vb == 0) (.drst va)
  | _ => .error .unassigned

/-- Major 0x01 (R92, R132). -/
def decInt (vd va vb : BitVec 7) (fn : BitVec 5) : Decoded :=
  match fn.toNat with
  | 0 => .ok (.add vd va vb)
  | 1 => .ok (.sub vd va vb)
  | 2 => .ok (.mul vd va vb)
  | 3 => .ok (.mulh vd va vb)
  | 4 => .ok (.mulhu vd va vb)
  | 5 => .ok (.and vd va vb)
  | 6 => .ok (.or vd va vb)
  | 7 => .ok (.xor vd va vb)
  | 8 => .ok (.shl vd va vb)
  | 9 => .ok (.shr vd va vb)
  | 10 => .ok (.sar vd va vb)
  | 11 => .ok (.rol vd va vb)
  | 12 => .ok (.min vd va vb)
  | 13 => .ok (.max vd va vb)
  | 14 => .ok (.minu vd va vb)
  | 15 => .ok (.maxu vd va vb)
  | 16 => .ok (.div vd va vb)
  | 17 => .ok (.divu vd va vb)
  | 18 => .ok (.rem vd va vb)
  | 19 => .ok (.remu vd va vb)
  | 20 => .ok (.adds vd va vb)
  | 21 => .ok (.subs vd va vb)
  | 22 => zeroFields (vb == 0) (.popc vd va)
  | 23 => zeroFields (vb == 0) (.clz vd va)
  | 24 => zeroFields (vb == 0) (.brev vd va)
  | 25 => .ok (.add64 vd va vb)
  | 26 => .ok (.sub64 vd va vb)
  | _ => .error .unassigned

/-- Major 0x1F (R93, R133). -/
def decUni (vd va vb : BitVec 7) (fn : BitVec 5) : Decoded :=
  match fn.toNat with
  | 0 => .ok (.uadd vd va vb)
  | 1 => .ok (.usub vd va vb)
  | 2 => .ok (.umul vd va vb)
  | 3 => .ok (.umulh vd va vb)
  | 4 => .ok (.umulhu vd va vb)
  | 5 => .ok (.uand vd va vb)
  | 6 => .ok (.uor vd va vb)
  | 7 => .ok (.uxor vd va vb)
  | 8 => .ok (.ushl vd va vb)
  | 9 => .ok (.ushr vd va vb)
  | 10 => .ok (.usar vd va vb)
  | 11 => .ok (.urol vd va vb)
  | 12 => .ok (.umin vd va vb)
  | 13 => .ok (.umax vd va vb)
  | 14 => .ok (.uminu vd va vb)
  | 15 => .ok (.umaxu vd va vb)
  | 16 => .ok (.udiv vd va vb)
  | 17 => .ok (.udivu vd va vb)
  | 18 => .ok (.urem vd va vb)
  | 19 => .ok (.uremu vd va vb)
  | 20 => .ok (.uadds vd va vb)
  | 21 => .ok (.usubs vd va vb)
  | 22 => zeroFields (vb == 0) (.upopc vd va)
  | 23 => zeroFields (vb == 0) (.uclz vd va)
  | 24 => zeroFields (vb == 0) (.ubrev vd va)
  | 25 => .ok (.uadd64 vd va vb)
  | 26 => .ok (.usub64 vd va vb)
  | _ => .error .unassigned

/-- Major 0x06 (R94). -/
def decShiftI (vd va : BitVec 7) (imm : BitVec 12) : Decoded :=
  match (fieldOf imm 11 10).toNat with
  | 0 => zeroFields (fieldOf imm 9 5 == 0) (.shli vd va (fieldOf imm 4 0))
  | 1 => zeroFields (fieldOf imm 9 5 == 0) (.shri vd va (fieldOf imm 4 0))
  | 2 => zeroFields (fieldOf imm 9 5 == 0) (.sari vd va (fieldOf imm 4 0))
  | _ => zeroFields (fieldOf imm 9 5 == 0) (.roli vd va (fieldOf imm 4 0))

/-- Major 0x08 (R94): a field whose position + length exceeds 32 is unassigned. -/
def decBitField (vd va : BitVec 7) (imm : BitVec 12) : Decoded :=
  let len := fieldOf imm 9 5
  let pos := fieldOf imm 4 0
  assigned (bitFieldFits len pos)
    (if bitOf imm 11 then zeroFields (!bitOf imm 10) (.bfi vd va len pos)
     else .ok (.bfx vd va (bitOf imm 10) len pos))

/-- Major 0x09 (R92). -/
def decIcmp (pd : BitVec 3) (cond : BitVec 4) (va vb : BitVec 7) (fn : BitVec 5) : Decoded :=
  withEnum (ICond.ofBits? cond) fun c =>
  withEnum (Combine.ofBits? (fieldOf fn 1 0)) fun m =>
  zeroFields (fieldOf fn 4 3 == 0) (.icmp pd c va vb (bitOf fn 2) m)

/-- Major 0x0A (R92). -/
def decFcmp (pd : BitVec 3) (cond : BitVec 4) (va vb : BitVec 7) (fn : BitVec 5) : Decoded :=
  withEnum (FCond.ofBits? cond) fun c =>
  withEnum (Combine.ofBits? (fieldOf fn 1 0)) fun m =>
  withEnum (FWidth.ofBits? (fieldOf fn 3 2)) fun f =>
  zeroFields (!bitOf fn 4) (.fcmp pd c va vb f m)

/-- Major 0x0C (R92). -/
def decFloat (vd va vb : BitVec 7) (fn : BitVec 5) : Decoded :=
  match fn.toNat with
  | 0 => .ok (.fadd vd va vb)
  | 1 => .ok (.fsub vd va vb)
  | 2 => .ok (.fmul vd va vb)
  | 3 => .ok (.ffma vd va vb)
  | 4 => .ok (.fmin vd va vb)
  | 5 => .ok (.fmax vd va vb)
  | 6 => zeroFields (vb == 0) (.fabs vd va)
  | 7 => zeroFields (vb == 0) (.fneg vd va)
  | 8 => .ok (.fdiv vd va vb)
  | 9 => zeroFields (vb == 0) (.fsqrt vd va)
  | 10 => .ok (.fsgnj vd va vb)
  | _ => .error .unassigned

/-- Major 0x0D (R92). -/
def decSpecial (vd va vb : BitVec 7) (fn : BitVec 5) : Decoded :=
  match fn.toNat with
  | 0 => zeroFields (vb == 0) (.frcp vd va)
  | 1 => zeroFields (vb == 0) (.frsq vd va)
  | 2 => zeroFields (vb == 0) (.fexp2 vd va)
  | 3 => zeroFields (vb == 0) (.flog2 vd va)
  | 4 => zeroFields (vb == 0) (.fsin vd va)
  | 5 => zeroFields (vb == 0) (.fcos vd va)
  | 6 => zeroFields (vb == 0) (.ftanh vd va)
  | 7 => zeroFields (vb == 0) (.fsigm vd va)
  | _ => .error .unassigned

/-- Major 0x0F (R92). -/
def decPacked (vd va vb : BitVec 7) (fn : BitVec 5) : Decoded :=
  match fn.toNat with
  | 0 => .ok (.pkadd vd va vb)
  | 1 => .ok (.pkmul vd va vb)
  | 2 => .ok (.pkfma vd va vb)
  | 3 => .ok (.pkmin vd va vb)
  | 4 => .ok (.pkmax vd va vb)
  | 5 => .ok (.pksub vd va vb)
  | 8 => .ok (.pkaddBf16 vd va vb)
  | 9 => .ok (.pkmulBf16 vd va vb)
  | 10 => .ok (.pkfmaBf16 vd va vb)
  | 11 => .ok (.pkminBf16 vd va vb)
  | 12 => .ok (.pkmaxBf16 vd va vb)
  | 13 => .ok (.pksubBf16 vd va vb)
  | 16 => .ok (.fdot4E4m3 vd va vb)
  | 17 => .ok (.fdot4E5m2 vd va vb)
  | 20 => .ok (.idp4Ss vd va vb)
  | 21 => .ok (.idp4Su vd va vb)
  | 22 => .ok (.idp4Us vd va vb)
  | 23 => .ok (.idp4Uu vd va vb)
  | _ => .error .unassigned

/-- Major 0x10 (R107). -/
def decBra (ps : BitVec 3) (neg : Bool) (kind : BitVec 2) (off : BitVec 20) : Decoded :=
  assigned (predAssigned ps neg) (withEnum (BraKind.ofBits? kind) fun k => .ok (.bra ps neg k off))

/-- Major 0x11 (R107). -/
def decCall (ps : BitVec 3) (neg : Bool) (kind : BitVec 2) (off : BitVec 20) : Decoded :=
  assigned (predAssigned ps neg && kind == 0) (.ok (.call ps neg off))

/-- Major 0x12 (R147: JR and CALLR read va, RET nothing). -/
def decJump (vd va vb : BitVec 7) (fn : BitVec 5) : Decoded :=
  match fn.toNat with
  | 0 => zeroFields (vd == 0 && vb == 0) (.jr va)
  | 1 => zeroFields (vd == 0 && vb == 0) (.callr va)
  | 2 => zeroFields (vd == 0 && va == 0 && vb == 0) .ret
  | _ => .error .unassigned

/-- Major 0x13 (R92): pa in va[2:0], pb in vb[2:0], the other bits of [22:5] zero. -/
def decPredicate (pd : BitVec 3) (cond : BitVec 4) (va vb : BitVec 7) (fn : BitVec 5) : Decoded :=
  let pa := fieldOf va 2 0
  let pb := fieldOf vb 2 0
  let z := cond == 0 && fieldOf va 6 3 == 0 && fieldOf vb 6 3 == 0
  match fn.toNat with
  | 0 => zeroFields z (.pand pd pa pb)
  | 1 => zeroFields z (.por pd pa pb)
  | 2 => zeroFields z (.pxor pd pa pb)
  | 3 => zeroFields z (.pandn pd pa pb)
  | 4 => zeroFields (z && pb == 0) (.pnot pd pa)
  | 5 => zeroFields (z && pb == 0) (.pmov pd pa)
  | 6 => zeroFields (z && pa == 0 && pb == 0) (.pset pd)
  | 7 => zeroFields (z && pa == 0 && pb == 0) (.pclr pd)
  | _ => .error .unassigned

/-- Major 0x14 (R95). -/
def decLd (vd vo : BitVec 7) (sb : BitVec 5) (sz : BitVec 3) (imm : BitVec 4) : Decoded :=
  withEnum (LdSize.ofBits? sz) fun z => .ok (.ld vd vo sb z imm)
/-- Major 0x15 (R95). -/
def decSt (vd vo : BitVec 7) (sb : BitVec 5) (sz : BitVec 3) (imm : BitVec 4) : Decoded :=
  withEnum (StSize.ofBits? sz) fun z => .ok (.st vd vo sb z imm)
/-- Major 0x16 (R95). -/
def decLdn (vd vo : BitVec 7) (sb : BitVec 5) (sz : BitVec 3) (imm : BitVec 4) : Decoded :=
  withEnum (LdSize.ofBits? sz) fun z => zeroFields (sb == 0) (.ldn vd vo z imm)
/-- Major 0x17 (R95). -/
def decStn (vd vo : BitVec 7) (sb : BitVec 5) (sz : BitVec 3) (imm : BitVec 4) : Decoded :=
  withEnum (StSize.ofBits? sz) fun z => zeroFields (sb == 0) (.stn vd vo z imm)

/-- Major 0x18 (R95). -/
def decFullEmpty (vd va vb : BitVec 7) (fn : BitVec 5) : Decoded :=
  match fn.toNat with
  | 0 => zeroFields (vb == 0) (.ldnf vd va)
  | 1 => zeroFields (vb == 0) (.ldnw vd va)
  | 2 => zeroFields (vd == 0) (.stne va vb)
  | 3 => zeroFields (vd == 0) (.stnf va vb)
  | 4 => zeroFields (vd == 0 && vb == 0) (.fesetE va)
  | 5 => zeroFields (vd == 0 && vb == 0) (.fesetF va)
  | 6 => zeroFields (vb == 0) (.feq vd va)
  | _ => .error .unassigned

/-- The space bit fn[4] of R96. -/
def spaceOf (fn : BitVec 5) : Space := if bitOf fn 4 then .near else .global

/-- Major 0x19 (R96). -/
def decAtom (vd va vb : BitVec 7) (fn : BitVec 5) : Decoded :=
  withEnum (AtomOp.ofBits? (fieldOf fn 3 0)) fun op => .ok (.atom vd va vb (spaceOf fn) op)
/-- Major 0x1A (R96). -/
def decRed (vd va vb : BitVec 7) (fn : BitVec 5) : Decoded :=
  withEnum (RedOp.ofBits? (fieldOf fn 3 0)) fun op => zeroFields (vd == 0) (.red va vb (spaceOf fn) op)
/-- Major 0x1B (R96). -/
def decReserve (vd va vb : BitVec 7) (fn : BitVec 5) : Decoded :=
  match (fieldOf fn 3 0).toNat with
  | 0 => zeroFields (vb == 0) (.lr vd va (spaceOf fn))
  | 1 => .ok (.sc vd va vb (spaceOf fn))
  | _ => .error .unassigned

/-- FENCE of major 0x1C (R97). -/
def decFence (vd va vb : BitVec 7) (fn : BitVec 5) : Decoded :=
  let z := fieldOf vd 6 2 == 0 && va == 0 && vb == 0
  withEnum (FenceKind.ofBits? (fieldOf vd 1 0)) fun k =>
  if fieldOf fn 2 0 == 5 then assigned (k == .full) (zeroFields z .fencePath)
  else withEnum (Scope.ofBits? (fieldOf fn 2 0)) fun sc => zeroFields z (.fence k sc)
/-- Major 0x1C (R97). -/
def decSync (vd va vb : BitVec 7) (fn : BitVec 5) : Decoded :=
  match (fieldOf fn 4 3).toNat with
  | 0 => decFence vd va vb fn
  | 1 => zeroFields (vd == 0 && va == 0 && vb == 0 && !bitOf fn 2) (.bar (fieldOf fn 1 0))
  | 2 => zeroFields (fieldOf vd 6 3 == 0 && va == 0 && vb == 0 && !bitOf fn 2) (.tbar (fieldOf vd 2 0) (fieldOf fn 1 0))
  | _ => .error .unassigned

/-- Major 0x1E (R97's table of row operations). -/
def decRow (vd va : BitVec 7) (sm : BitVec 5) (pp : BitVec 3) (fn : BitVec 4) : Decoded :=
  match fn.toNat with
  | 0 => zeroFields (va == 0) (.voteEvery vd sm pp)
  | 1 => zeroFields (va == 0) (.voteSome vd sm pp)
  | 2 => zeroFields (va == 0) (.voteMask vd sm pp)
  | 3 => zeroFields (va == 0) (.voteCount vd sm pp)
  | 4 => zeroFields (pp == 0) (.shflAt vd va sm)
  | 5 => zeroFields (pp == 0) (.shflRot vd va sm)
  | 6 => zeroFields (pp == 0) (.shflRev vd va sm)
  | 7 => zeroFields (pp == 0) (.shflSwap vd va sm)
  | 8 => zeroFields (pp == 0) (.matchSame vd va sm)
  | 9 => zeroFields (pp == 0) (.matchUnif vd va sm)
  | 10 => zeroFields (pp == 0) (.confd vd va sm)
  | 11 => zeroFields (va == 0) (.cmpk vd sm pp)
  | 12 => zeroFields (pp == 0) (.matchLead vd va sm)
  | _ => .error .unassigned

/-- The direction bits of CPY (R98). -/
def CpyDir.ofField (b : BitVec 2) : CpyDir :=
  match b.toNat with
  | 0 => .gn
  | 1 => .ng
  | 2 => .nn
  | _ => .gg

/-- Major 0x20 (R98, R199). -/
def decCpy (hd : BitVec 4) (tag : BitVec 6) (sp : BitVec 5) (va : BitVec 7) (fn : BitVec 4) : Decoded :=
  withEnum (VecSize.ofBits? (fieldOf fn 1 0)) fun z =>
  zeroFields (cpyBaseZero (CpyDir.ofField (fieldOf fn 3 2)) sp) (.cpy hd tag sp va (CpyDir.ofField (fieldOf fn 3 2)) z)
/-- Major 0x21 (R98). DESIGN CHOICE (log entry 42): of a near source, which uses no global base, sp may be any value. -/
def decCpym (hd : BitVec 4) (tag : BitVec 6) (sp : BitVec 5) (va : BitVec 7) (fn : BitVec 4) : Decoded :=
  match fn.toNat with
  | 0 => .ok (.cpym hd tag sp va false)
  | 1 => .ok (.cpym hd tag sp va true)
  | _ => .error .unassigned
/-- Major 0x22 (R98). -/
def decCpyq (hd : BitVec 4) (tag : BitVec 6) (sp : BitVec 5) (va : BitVec 7) (fn : BitVec 4) : Decoded :=
  zeroFields (!bitOf fn 3) (.cpyq hd tag sp va (bitOf fn 2) (fieldOf fn 1 0))
/-- Major 0x23 (R98). -/
def decCbook (hd : BitVec 4) (tag : BitVec 6) (sp : BitVec 5) (va : BitVec 7) (fn : BitVec 4) : Decoded :=
  withEnum (VecSize.ofBits? (fieldOf fn 3 2)) fun z => zeroFields (va == 0) (.cbook hd tag sp z (fieldOf fn 1 0))

/-- Major 0x24 (R98). DESIGN CHOICE (log entry 42): vb, which R98 does not mention here, must be 0. -/
def decTags (vd va vb : BitVec 7) (fn : BitVec 5) : Decoded :=
  match fn.toNat with
  | 0 => zeroFields (vd == 0 && va == 0 && vb == 0) .bseal
  | 1 => zeroFields (vd == 0 && vb == 0) (.twany va)
  | 2 => zeroFields (vd == 0 && vb == 0) (.twall va)
  | 3 => zeroFields (vb == 0) (.tffr vd va)
  | 4 => zeroFields (vd == 0 && vb == 0) (.tclr va)
  | _ => .error .unassigned
/-- Major 0x25 (R98): hs in [15:12], a destination handle in [8:5]. -/
def decHandles (vd va vb : BitVec 7) (fn : BitVec 5) : Decoded :=
  let hs := fieldOf va 3 0
  let z := fieldOf va 6 4 == 0
  match fn.toNat with
  | 0 => zeroFields (z && vb == 0) (.htest vd hs)
  | 1 => zeroFields (z && vd == 0 && vb == 0) (.hcan hs)
  | 2 => zeroFields (z && vb == 0) (.hstat vd hs)
  | 3 => zeroFields (z && vd == 0 && fieldOf vb 6 4 == 0) (.hmov hs (fieldOf vb 3 0))
  | _ => .error .unassigned

/-- Major 0x26 (R98's table of slots). -/
def decSlots (op : BitVec 2) (mask : BitVec 8) (z : BitVec 16) : Decoded :=
  assigned (mask != 0) (match op.toNat with
    | 0 => zeroFields (z == 0) (.oclm mask)
    | 1 => zeroFields (z == 0) (.orel mask)
    | _ => .error .unassigned)

/-- Major 0x27 (R98). -/
def decOld (hd : BitVec 4) (tag : BitVec 6) (sp : BitVec 5) (va : BitVec 7) (fn : BitVec 4) : Decoded :=
  zeroFields (!bitOf fn 3) (.old hd tag sp va (fieldOf fn 2 0))
/-- Major 0x28 (R98). -/
def decMma (hd : BitVec 4) (tag : BitVec 6) (sp : BitVec 5) (va : BitVec 7) (fn : BitVec 4) : Decoded :=
  match fn.toNat with
  | 0 => .ok (.mma hd tag sp va false)
  | 1 => .ok (.mma hd tag sp va true)
  | _ => .error .unassigned
/-- Major 0x29 (R98). -/
def decMmas (hd : BitVec 4) (tag : BitVec 6) (sp : BitVec 5) (va : BitVec 7) (fn : BitVec 4) : Decoded :=
  withEnum (SparseN.ofBits? (fieldOf fn 1 0)) fun n => zeroFields (!bitOf fn 3) (.mmas hd tag sp va (bitOf fn 2) n)
/-- Major 0x2A (R98). -/
def decMv (hd : BitVec 4) (tag : BitVec 6) (sp : BitVec 5) (va : BitVec 7) (fn : BitVec 4) : Decoded :=
  withEnum (MvMode.ofBits? (fieldOf fn 1 0)) fun m => zeroFields (!bitOf fn 3) (.mv hd tag sp va (bitOf fn 2) m)
/-- Major 0x2B (R98). -/
def decAcc (hd : BitVec 4) (tag : BitVec 6) (sp : BitVec 5) (va : BitVec 7) (fn : BitVec 4) : Decoded :=
  match fn.toNat with
  | 0 => .ok (.accld hd tag sp va)
  | 1 => .ok (.accst hd tag sp va)
  | 2 => .ok (.acz hd tag sp va)
  | _ => .error .unassigned
/-- Major 0x2C (R98, R227). -/
def decScacc (hd : BitVec 4) (tag : BitVec 6) (sp : BitVec 5) (va : BitVec 7) (fn : BitVec 4) : Decoded :=
  match fn.toNat with
  | 0 => zeroFields (sp == 0) (.scacc hd tag va false)
  | 1 => zeroFields (sp == 0) (.scacc hd tag va true)
  | _ => .error .unassigned
/-- Major 0x2E (R98, R228). -/
def decSparse (hd : BitVec 4) (tag : BitVec 6) (sp : BitVec 5) (va : BitVec 7) (fn : BitVec 4) : Decoded :=
  match fn.toNat with
  | 0 => zeroFields (sp == 0) (.nprune hd tag va .n6)
  | 1 => zeroFields (sp == 0) (.nprune hd tag va .n4)
  | 2 => zeroFields (sp == 0) (.nprune hd tag va .n3)
  | 3 => zeroFields (sp == 0) (.cmpkSparse hd tag va)
  | _ => .error .unassigned

/-- Major 0x2F (R98's table of fields). -/
def decFbind (fs : BitVec 3) (sp : BitVec 5) (va : BitVec 7) (near : Bool) (z : BitVec 10) : Decoded :=
  if near then zeroFields (sp == 0 && z == 0) (.fbindNear fs va) else zeroFields (z == 0) (.fbind fs sp va)

/-- Major 0x33 (R98's table). -/
def decChor (vd va vb : BitVec 7) (fn : BitVec 5) : Decoded :=
  match fn.toNat with
  | 0 => zeroFields (fieldOf vd 6 2 == 0 && va == 0 && fieldOf vb 6 5 == 0) (.chor (fieldOf vd 1 0) (fieldOf vb 4 0))
  | 1 => zeroFields (vd == 0 && va == 0 && vb == 0) .cend
  | _ => .error .unassigned
/-- Major 0x34 (R98's table). -/
def decHand (ch snd rcv : BitVec 4) (pk : BitVec 2) (va : BitVec 7) (z : BitVec 5) : Decoded :=
  assigned (snd != rcv) (withEnum (Payload.ofBits? pk) fun k =>
    zeroFields (z == 0 && handPayloadOk k va) (.hand ch snd rcv k va))
/-- Major 0x35 (R98's table). -/
def decCloop (mode : Bool) (cnt : BitVec 11) (back : BitVec 14) : Decoded :=
  assigned (back != 0) (if mode then zeroFields (fieldOf cnt 10 6 == 0) (.cloopReg (fieldOf cnt 5 0) back)
    else assigned (cnt != 0) (.ok (.cloop cnt back)))
/-- Major 0x37 (R98). DESIGN CHOICE (log entry 42): of a near packet, which uses no global base, sp may be any value. -/
def decLaunch (hd : BitVec 4) (tag : BitVec 6) (sp : BitVec 5) (va : BitVec 7) (fn : BitVec 4) : Decoded :=
  match fn.toNat with
  | 0 => .ok (.launch hd tag sp va false)
  | 1 => .ok (.launch hd tag sp va true)
  | _ => .error .unassigned
/-- Major 0x38 (R98's table). -/
def decGcinc (vd va vb : BitVec 7) (fn : BitVec 5) : Decoded :=
  assigned (fn == 0) (zeroFields (vb == 0) (.gcinc vd va))
/-- Major 0x39 (R98's table). DESIGN CHOICE (log entry 42): QPOP has no va operand, and its va field must be 0, with detail
0x03. -/
def decQueue (vd va vb : BitVec 7) (fn : BitVec 5) : Decoded :=
  match fn.toNat with
  | 0 => zeroFields (fieldOf vb 6 5 == 0) (.qpush vd va (fieldOf vb 4 0))
  | 1 => zeroFields (va == 0 && fieldOf vb 6 5 == 0) (.qpop vd (fieldOf vb 4 0))
  | _ => .error .unassigned
/-- Major 0x3A (R98's table). -/
def decRnd (vd va vb : BitVec 7) (fn : BitVec 5) : Decoded :=
  assigned (fn == 0) (zeroFields (va == 0 && vb == 0) (.rnd vd))
/-- Major 0x3B (R98, R286). -/
def decCollective (hd : BitVec 4) (tag : BitVec 6) (sp : BitVec 5) (va : BitVec 7) (fn : BitVec 4) : Decoded :=
  match fn.toNat with
  | 0 => zeroFields (sp == 0) (.ared hd tag va)
  | 1 => zeroFields (sp == 0) (.agath hd tag va)
  | 2 => zeroFields (sp == 0) (.bcast hd tag va)
  | _ => .error .unassigned
/-- Major 0x3C (R98's table). DESIGN CHOICE (log entry 42): vb, which the table does not mention here, must be 0. -/
def decDigest (vd va vb : BitVec 7) (fn : BitVec 5) : Decoded :=
  match fn.toNat with
  | 0 => zeroFields (va == 0 && vb == 0) (.dgstRead vd)
  | 1 => zeroFields (vd == 0 && vb == 0) (.dgstFold va)
  | _ => .error .unassigned

/-- Major 0x3F (R99, R101). -/
def decHint (kind : BitVec 4) (payload : BitVec 22) : Decoded :=
  match kind.toNat with
  | 0 => zeroFields (fieldOf payload 21 20 == 0) (.imm (fieldOf payload 19 0))
  | 1 => assigned (predAssigned (fieldOf payload 21 19) (bitOf payload 18))
      (zeroFields (fieldOf payload 17 0 == 0) (.pred (fieldOf payload 21 19) (bitOf payload 18)))
  | 2 => .ok (.ipf (fieldOf payload 21 18) (fieldOf payload 17 0))
  | 3 => zeroFields (fieldOf payload 21 5 == 0) (.sched (bitOf payload 4) (fieldOf payload 3 0))
  | 4 => zeroFields (fieldOf payload 21 2 == 0) (.rmode (fieldOf payload 1 0))
  | _ => .error .unassigned

/-- The word's meaning (R87-R108): the major alone selects the layout (R87). -/
def decode (w : Word) : Decoded :=
  match (fieldOf w 31 26).toNat with
  | 0 => decSys (fieldOf w 25 19) (fieldOf w 18 12) (fieldOf w 11 5) (fieldOf w 4 0)
  | 1 => decInt (fieldOf w 25 19) (fieldOf w 18 12) (fieldOf w 11 5) (fieldOf w 4 0)
  | 2 => .ok (.addi (fieldOf w 25 19) (fieldOf w 18 12) (fieldOf w 11 0))
  | 3 => .ok (.andi (fieldOf w 25 19) (fieldOf w 18 12) (fieldOf w 11 0))
  | 4 => .ok (.ori (fieldOf w 25 19) (fieldOf w 18 12) (fieldOf w 11 0))
  | 5 => .ok (.xori (fieldOf w 25 19) (fieldOf w 18 12) (fieldOf w 11 0))
  | 6 => decShiftI (fieldOf w 25 19) (fieldOf w 18 12) (fieldOf w 11 0)
  | 7 => .ok (.lui (fieldOf w 25 19) (fieldOf w 18 0))
  | 8 => decBitField (fieldOf w 25 19) (fieldOf w 18 12) (fieldOf w 11 0)
  | 9 => decIcmp (fieldOf w 25 23) (fieldOf w 22 19) (fieldOf w 18 12) (fieldOf w 11 5) (fieldOf w 4 0)
  | 10 => decFcmp (fieldOf w 25 23) (fieldOf w 22 19) (fieldOf w 18 12) (fieldOf w 11 5) (fieldOf w 4 0)
  | 11 => .ok (.sel (fieldOf w 25 19) (fieldOf w 18 12) (fieldOf w 11 5) (bitOf w 4) (bitOf w 3) (fieldOf w 2 0))
  | 12 => decFloat (fieldOf w 25 19) (fieldOf w 18 12) (fieldOf w 11 5) (fieldOf w 4 0)
  | 13 => decSpecial (fieldOf w 25 19) (fieldOf w 18 12) (fieldOf w 11 5) (fieldOf w 4 0)
  | 14 => zeroFields (fieldOf w 1 0 == 0) (.fcvt (fieldOf w 25 19) (fieldOf w 18 12) (fieldOf w 11 7) (fieldOf w 6 2))
  | 15 => decPacked (fieldOf w 25 19) (fieldOf w 18 12) (fieldOf w 11 5) (fieldOf w 4 0)
  | 16 => decBra (fieldOf w 25 23) (bitOf w 22) (fieldOf w 21 20) (fieldOf w 19 0)
  | 17 => decCall (fieldOf w 25 23) (bitOf w 22) (fieldOf w 21 20) (fieldOf w 19 0)
  | 18 => decJump (fieldOf w 25 19) (fieldOf w 18 12) (fieldOf w 11 5) (fieldOf w 4 0)
  | 19 => decPredicate (fieldOf w 25 23) (fieldOf w 22 19) (fieldOf w 18 12) (fieldOf w 11 5) (fieldOf w 4 0)
  | 20 => decLd (fieldOf w 25 19) (fieldOf w 18 12) (fieldOf w 11 7) (fieldOf w 6 4) (fieldOf w 3 0)
  | 21 => decSt (fieldOf w 25 19) (fieldOf w 18 12) (fieldOf w 11 7) (fieldOf w 6 4) (fieldOf w 3 0)
  | 22 => decLdn (fieldOf w 25 19) (fieldOf w 18 12) (fieldOf w 11 7) (fieldOf w 6 4) (fieldOf w 3 0)
  | 23 => decStn (fieldOf w 25 19) (fieldOf w 18 12) (fieldOf w 11 7) (fieldOf w 6 4) (fieldOf w 3 0)
  | 24 => decFullEmpty (fieldOf w 25 19) (fieldOf w 18 12) (fieldOf w 11 5) (fieldOf w 4 0)
  | 25 => decAtom (fieldOf w 25 19) (fieldOf w 18 12) (fieldOf w 11 5) (fieldOf w 4 0)
  | 26 => decRed (fieldOf w 25 19) (fieldOf w 18 12) (fieldOf w 11 5) (fieldOf w 4 0)
  | 27 => decReserve (fieldOf w 25 19) (fieldOf w 18 12) (fieldOf w 11 5) (fieldOf w 4 0)
  | 28 => decSync (fieldOf w 25 19) (fieldOf w 18 12) (fieldOf w 11 5) (fieldOf w 4 0)
  | 29 => zeroFields (fieldOf w 5 0 == 0) (.wait (fieldOf w 25 20) (fieldOf w 19 14) (fieldOf w 13 10) (fieldOf w 9 6))
  | 30 => decRow (fieldOf w 25 19) (fieldOf w 18 12) (fieldOf w 11 7) (fieldOf w 6 4) (fieldOf w 3 0)
  | 31 => decUni (fieldOf w 25 19) (fieldOf w 18 12) (fieldOf w 11 5) (fieldOf w 4 0)
  | 32 => decCpy (fieldOf w 25 22) (fieldOf w 21 16) (fieldOf w 15 11) (fieldOf w 10 4) (fieldOf w 3 0)
  | 33 => decCpym (fieldOf w 25 22) (fieldOf w 21 16) (fieldOf w 15 11) (fieldOf w 10 4) (fieldOf w 3 0)
  | 34 => decCpyq (fieldOf w 25 22) (fieldOf w 21 16) (fieldOf w 15 11) (fieldOf w 10 4) (fieldOf w 3 0)
  | 35 => decCbook (fieldOf w 25 22) (fieldOf w 21 16) (fieldOf w 15 11) (fieldOf w 10 4) (fieldOf w 3 0)
  | 36 => decTags (fieldOf w 25 19) (fieldOf w 18 12) (fieldOf w 11 5) (fieldOf w 4 0)
  | 37 => decHandles (fieldOf w 25 19) (fieldOf w 18 12) (fieldOf w 11 5) (fieldOf w 4 0)
  | 38 => decSlots (fieldOf w 25 24) (fieldOf w 23 16) (fieldOf w 15 0)
  | 39 => decOld (fieldOf w 25 22) (fieldOf w 21 16) (fieldOf w 15 11) (fieldOf w 10 4) (fieldOf w 3 0)
  | 40 => decMma (fieldOf w 25 22) (fieldOf w 21 16) (fieldOf w 15 11) (fieldOf w 10 4) (fieldOf w 3 0)
  | 41 => decMmas (fieldOf w 25 22) (fieldOf w 21 16) (fieldOf w 15 11) (fieldOf w 10 4) (fieldOf w 3 0)
  | 42 => decMv (fieldOf w 25 22) (fieldOf w 21 16) (fieldOf w 15 11) (fieldOf w 10 4) (fieldOf w 3 0)
  | 43 => decAcc (fieldOf w 25 22) (fieldOf w 21 16) (fieldOf w 15 11) (fieldOf w 10 4) (fieldOf w 3 0)
  | 44 => decScacc (fieldOf w 25 22) (fieldOf w 21 16) (fieldOf w 15 11) (fieldOf w 10 4) (fieldOf w 3 0)
  | 45 => zeroFields (fieldOf w 25 0 == 0) .oprdy
  | 46 => decSparse (fieldOf w 25 22) (fieldOf w 21 16) (fieldOf w 15 11) (fieldOf w 10 4) (fieldOf w 3 0)
  | 47 => decFbind (fieldOf w 25 23) (fieldOf w 22 18) (fieldOf w 17 11) (bitOf w 10) (fieldOf w 9 0)
  | 48 => zeroFields (fieldOf w 8 0 == 0) (.fld (fieldOf w 25 19) (fieldOf w 18 12) (fieldOf w 11 9))
  | 49 => zeroFields (fieldOf w 8 0 == 0) (.fldg (fieldOf w 25 19) (fieldOf w 18 12) (fieldOf w 11 9))
  | 50 => zeroFields (fieldOf w 8 0 == 0) (.fspl (fieldOf w 25 19) (fieldOf w 18 12) (fieldOf w 11 9))
  | 51 => decChor (fieldOf w 25 19) (fieldOf w 18 12) (fieldOf w 11 5) (fieldOf w 4 0)
  | 52 => decHand (fieldOf w 25 22) (fieldOf w 21 18) (fieldOf w 17 14) (fieldOf w 13 12) (fieldOf w 11 5) (fieldOf w 4 0)
  | 53 => decCloop (bitOf w 25) (fieldOf w 24 14) (fieldOf w 13 0)
  | 54 => zeroFields (fieldOf w 17 12 == 0 && fieldOf w 4 0 == 0) (.epset (fieldOf w 25 22) (fieldOf w 21 18) (fieldOf w 11 5))
  | 55 => decLaunch (fieldOf w 25 22) (fieldOf w 21 16) (fieldOf w 15 11) (fieldOf w 10 4) (fieldOf w 3 0)
  | 56 => decGcinc (fieldOf w 25 19) (fieldOf w 18 12) (fieldOf w 11 5) (fieldOf w 4 0)
  | 57 => decQueue (fieldOf w 25 19) (fieldOf w 18 12) (fieldOf w 11 5) (fieldOf w 4 0)
  | 58 => decRnd (fieldOf w 25 19) (fieldOf w 18 12) (fieldOf w 11 5) (fieldOf w 4 0)
  | 59 => decCollective (fieldOf w 25 22) (fieldOf w 21 16) (fieldOf w 15 11) (fieldOf w 10 4) (fieldOf w 3 0)
  | 60 => decDigest (fieldOf w 25 19) (fieldOf w 18 12) (fieldOf w 11 5) (fieldOf w 4 0)
  | 61 => .error .reservedMajor
  | 62 => .ok (.cue (fieldOf w 25 10) (fieldOf w 9 0))
  | _ => decHint (fieldOf w 25 22) (fieldOf w 21 0)

/-- The word of an instruction; an event has none. -/
def encode (i : Instr) : Option Word :=
  match i with
  | .nop => some (layR 0 0 0 0 0)
  | .exit => some (layR 0 0 0 0 1)
  | .trap c => some (layR 0 0 0 c 2)
  | .eret => some (layR 0 0 0 0 3)
  | .srd vd sr => some (layR 0 vd 0 sr 4)
  | .swr sr va => some (layR 0 0 va sr 5)
  | .brk c => some (layR 0 0 0 c 6)
  | .ppt sk => some (layR 0 0 (0#1 ++ sk) 0 7)
  | .dsav va => some (layR 0 0 va 0 8)
  | .drst va => some (layR 0 0 va 0 9)
  | .add d a b => some (layR 0x01 d a b 0)
  | .sub d a b => some (layR 0x01 d a b 1)
  | .mul d a b => some (layR 0x01 d a b 2)
  | .mulh d a b => some (layR 0x01 d a b 3)
  | .mulhu d a b => some (layR 0x01 d a b 4)
  | .and d a b => some (layR 0x01 d a b 5)
  | .or d a b => some (layR 0x01 d a b 6)
  | .xor d a b => some (layR 0x01 d a b 7)
  | .shl d a b => some (layR 0x01 d a b 8)
  | .shr d a b => some (layR 0x01 d a b 9)
  | .sar d a b => some (layR 0x01 d a b 10)
  | .rol d a b => some (layR 0x01 d a b 11)
  | .min d a b => some (layR 0x01 d a b 12)
  | .max d a b => some (layR 0x01 d a b 13)
  | .minu d a b => some (layR 0x01 d a b 14)
  | .maxu d a b => some (layR 0x01 d a b 15)
  | .div d a b => some (layR 0x01 d a b 16)
  | .divu d a b => some (layR 0x01 d a b 17)
  | .rem d a b => some (layR 0x01 d a b 18)
  | .remu d a b => some (layR 0x01 d a b 19)
  | .adds d a b => some (layR 0x01 d a b 20)
  | .subs d a b => some (layR 0x01 d a b 21)
  | .popc d a => some (layR 0x01 d a 0 22)
  | .clz d a => some (layR 0x01 d a 0 23)
  | .brev d a => some (layR 0x01 d a 0 24)
  | .add64 d a b => some (layR 0x01 d a b 25)
  | .sub64 d a b => some (layR 0x01 d a b 26)
  | .uadd d a b => some (layR 0x1F d a b 0)
  | .usub d a b => some (layR 0x1F d a b 1)
  | .umul d a b => some (layR 0x1F d a b 2)
  | .umulh d a b => some (layR 0x1F d a b 3)
  | .umulhu d a b => some (layR 0x1F d a b 4)
  | .uand d a b => some (layR 0x1F d a b 5)
  | .uor d a b => some (layR 0x1F d a b 6)
  | .uxor d a b => some (layR 0x1F d a b 7)
  | .ushl d a b => some (layR 0x1F d a b 8)
  | .ushr d a b => some (layR 0x1F d a b 9)
  | .usar d a b => some (layR 0x1F d a b 10)
  | .urol d a b => some (layR 0x1F d a b 11)
  | .umin d a b => some (layR 0x1F d a b 12)
  | .umax d a b => some (layR 0x1F d a b 13)
  | .uminu d a b => some (layR 0x1F d a b 14)
  | .umaxu d a b => some (layR 0x1F d a b 15)
  | .udiv d a b => some (layR 0x1F d a b 16)
  | .udivu d a b => some (layR 0x1F d a b 17)
  | .urem d a b => some (layR 0x1F d a b 18)
  | .uremu d a b => some (layR 0x1F d a b 19)
  | .uadds d a b => some (layR 0x1F d a b 20)
  | .usubs d a b => some (layR 0x1F d a b 21)
  | .upopc d a => some (layR 0x1F d a 0 22)
  | .uclz d a => some (layR 0x1F d a 0 23)
  | .ubrev d a => some (layR 0x1F d a 0 24)
  | .uadd64 d a b => some (layR 0x1F d a b 25)
  | .usub64 d a b => some (layR 0x1F d a b 26)
  | .addi d a i => some (layI 0x02 d a i)
  | .andi d a i => some (layI 0x03 d a i)
  | .ori d a i => some (layI 0x04 d a i)
  | .xori d a i => some (layI 0x05 d a i)
  | .shli d a c => some (layI 0x06 d a (0#2 ++ 0#5 ++ c))
  | .shri d a c => some (layI 0x06 d a (1#2 ++ 0#5 ++ c))
  | .sari d a c => some (layI 0x06 d a (2#2 ++ 0#5 ++ c))
  | .roli d a c => some (layI 0x06 d a (3#2 ++ 0#5 ++ c))
  | .lui d i => some (layU 0x07 d i)
  | .bfx d a sg l q => some (layI 0x08 d a (0#1 ++ boolBit sg ++ l ++ q))
  | .bfi d a l q => some (layI 0x08 d a (1#1 ++ 0#1 ++ l ++ q))
  | .icmp pd c a b w m => some (layP 0x09 pd c.bits a b (0#2 ++ boolBit w ++ m.bits))
  | .fcmp pd c a b f m => some (layP 0x0A pd c.bits a b (0#1 ++ f.bits ++ m.bits))
  | .sel d a b w inv q => some (layR 0x0B d a b (boolBit w ++ boolBit inv ++ q))
  | .fadd d a b => some (layR 0x0C d a b 0)
  | .fsub d a b => some (layR 0x0C d a b 1)
  | .fmul d a b => some (layR 0x0C d a b 2)
  | .ffma d a b => some (layR 0x0C d a b 3)
  | .fmin d a b => some (layR 0x0C d a b 4)
  | .fmax d a b => some (layR 0x0C d a b 5)
  | .fabs d a => some (layR 0x0C d a 0 6)
  | .fneg d a => some (layR 0x0C d a 0 7)
  | .fdiv d a b => some (layR 0x0C d a b 8)
  | .fsqrt d a => some (layR 0x0C d a 0 9)
  | .fsgnj d a b => some (layR 0x0C d a b 10)
  | .frcp d a => some (layR 0x0D d a 0 0)
  | .frsq d a => some (layR 0x0D d a 0 1)
  | .fexp2 d a => some (layR 0x0D d a 0 2)
  | .flog2 d a => some (layR 0x0D d a 0 3)
  | .fsin d a => some (layR 0x0D d a 0 4)
  | .fcos d a => some (layR 0x0D d a 0 5)
  | .ftanh d a => some (layR 0x0D d a 0 6)
  | .fsigm d a => some (layR 0x0D d a 0 7)
  | .fcvt d a df sf => some (layV 0x0E d a df sf 0)
  | .pkadd d a b => some (layR 0x0F d a b 0)
  | .pkmul d a b => some (layR 0x0F d a b 1)
  | .pkfma d a b => some (layR 0x0F d a b 2)
  | .pkmin d a b => some (layR 0x0F d a b 3)
  | .pkmax d a b => some (layR 0x0F d a b 4)
  | .pksub d a b => some (layR 0x0F d a b 5)
  | .pkaddBf16 d a b => some (layR 0x0F d a b 8)
  | .pkmulBf16 d a b => some (layR 0x0F d a b 9)
  | .pkfmaBf16 d a b => some (layR 0x0F d a b 10)
  | .pkminBf16 d a b => some (layR 0x0F d a b 11)
  | .pkmaxBf16 d a b => some (layR 0x0F d a b 12)
  | .pksubBf16 d a b => some (layR 0x0F d a b 13)
  | .fdot4E4m3 d a b => some (layR 0x0F d a b 16)
  | .fdot4E5m2 d a b => some (layR 0x0F d a b 17)
  | .idp4Ss d a b => some (layR 0x0F d a b 20)
  | .idp4Su d a b => some (layR 0x0F d a b 21)
  | .idp4Us d a b => some (layR 0x0F d a b 22)
  | .idp4Uu d a b => some (layR 0x0F d a b 23)
  | .bra ps n k o => some (layB 0x10 ps (boolBit n) k.bits o)
  | .call ps n o => some (layB 0x11 ps (boolBit n) 0 o)
  | .jr a => some (layR 0x12 0 a 0 0)
  | .callr a => some (layR 0x12 0 a 0 1)
  | .ret => some (layR 0x12 0 0 0 2)
  | .pand d a b => some (layP 0x13 d 0 (0#4 ++ a) (0#4 ++ b) 0)
  | .por d a b => some (layP 0x13 d 0 (0#4 ++ a) (0#4 ++ b) 1)
  | .pxor d a b => some (layP 0x13 d 0 (0#4 ++ a) (0#4 ++ b) 2)
  | .pandn d a b => some (layP 0x13 d 0 (0#4 ++ a) (0#4 ++ b) 3)
  | .pnot d a => some (layP 0x13 d 0 (0#4 ++ a) 0 4)
  | .pmov d a => some (layP 0x13 d 0 (0#4 ++ a) 0 5)
  | .pset d => some (layP 0x13 d 0 0 0 6)
  | .pclr d => some (layP 0x13 d 0 0 0 7)
  | .ld d o sb sz i => some (layM 0x14 d o sb sz.bits i)
  | .st d o sb sz i => some (layM 0x15 d o sb sz.bits i)
  | .ldn d o sz i => some (layM 0x16 d o 0 sz.bits i)
  | .stn d o sz i => some (layM 0x17 d o 0 sz.bits i)
  | .ldnf d a => some (layR 0x18 d a 0 0)
  | .ldnw d a => some (layR 0x18 d a 0 1)
  | .stne a b => some (layR 0x18 0 a b 2)
  | .stnf a b => some (layR 0x18 0 a b 3)
  | .fesetE a => some (layR 0x18 0 a 0 4)
  | .fesetF a => some (layR 0x18 0 a 0 5)
  | .feq d a => some (layR 0x18 d a 0 6)
  | .atom d a b sp op => some (layR 0x19 d a b (sp.bits ++ op.bits))
  | .red a b sp op => some (layR 0x1A 0 a b (sp.bits ++ op.bits))
  | .lr d a sp => some (layR 0x1B d a 0 (sp.bits ++ 0#4))
  | .sc d a b sp => some (layR 0x1B d a b (sp.bits ++ 1#4))
  | .fence k sc => some (layR 0x1C (0#5 ++ k.bits) 0 0 (0#2 ++ sc.bits))
  | .fencePath => some (layR 0x1C 0 0 0 5)
  | .bar n => some (layR 0x1C 0 0 0 (1#2 ++ 0#1 ++ n))
  | .tbar pd k => some (layR 0x1C (0#4 ++ pd) 0 0 (2#2 ++ 0#1 ++ k))
  | .wait a b c d => some (layW 0x1D a b c d 0)
  | .voteEvery d sm q => some (layG 0x1E d 0 sm q 0)
  | .voteSome d sm q => some (layG 0x1E d 0 sm q 1)
  | .voteMask d sm q => some (layG 0x1E d 0 sm q 2)
  | .voteCount d sm q => some (layG 0x1E d 0 sm q 3)
  | .shflAt d a sm => some (layG 0x1E d a sm 0 4)
  | .shflRot d a sm => some (layG 0x1E d a sm 0 5)
  | .shflRev d a sm => some (layG 0x1E d a sm 0 6)
  | .shflSwap d a sm => some (layG 0x1E d a sm 0 7)
  | .matchSame d a sm => some (layG 0x1E d a sm 0 8)
  | .matchUnif d a sm => some (layG 0x1E d a sm 0 9)
  | .confd d a sm => some (layG 0x1E d a sm 0 10)
  | .cmpk d sm q => some (layG 0x1E d 0 sm q 11)
  | .matchLead d a sm => some (layG 0x1E d a sm 0 12)
  | .cpy h t sp a dir z => some (layX 0x20 h t sp a (dir.bits ++ z.bits))
  | .cpym h t sp a n => some (layX 0x21 h t sp a (0#3 ++ boolBit n))
  | .cpyq h t sp a i8 tb => some (layX 0x22 h t sp a (0#1 ++ boolBit i8 ++ tb))
  | .cbook h t sp z tb => some (layX 0x23 h t sp 0 (z.bits ++ tb))
  | .bseal => some (layR 0x24 0 0 0 0)
  | .twany a => some (layR 0x24 0 a 0 1)
  | .twall a => some (layR 0x24 0 a 0 2)
  | .tffr d a => some (layR 0x24 d a 0 3)
  | .tclr a => some (layR 0x24 0 a 0 4)
  | .htest d h => some (layR 0x25 d (0#3 ++ h) 0 0)
  | .hcan h => some (layR 0x25 0 (0#3 ++ h) 0 1)
  | .hstat d h => some (layR 0x25 d (0#3 ++ h) 0 2)
  | .hmov h h' => some (layR 0x25 0 (0#3 ++ h) (0#3 ++ h') 3)
  | .oclm m => some (layS 0x26 0 m 0)
  | .orel m => some (layS 0x26 1 m 0)
  | .old h t sp a sl => some (layX 0x27 h t sp a (0#1 ++ sl))
  | .mma h t sp a ov => some (layX 0x28 h t sp a (0#3 ++ boolBit ov))
  | .mmas h t sp a ov n => some (layX 0x29 h t sp a (0#1 ++ boolBit ov ++ n.bits))
  | .mv h t sp a tl m => some (layX 0x2A h t sp a (0#1 ++ boolBit tl ++ m.bits))
  | .accld h t sp a => some (layX 0x2B h t sp a 0)
  | .accst h t sp a => some (layX 0x2B h t sp a 1)
  | .acz h t sp a => some (layX 0x2B h t sp a 2)
  | .scacc h t a c => some (layX 0x2C h t 0 a (0#3 ++ boolBit c))
  | .oprdy => some (layU 0x2D 0 0)
  | .nprune h t a n => some (layX 0x2E h t 0 a (0#2 ++ n.bits))
  | .cmpkSparse h t a => some (layX 0x2E h t 0 a 3)
  | .fbind f sp a => some (layFB 0x2F f sp a 0 0)
  | .fbindNear f a => some (layFB 0x2F f 0 a 1 0)
  | .fld d a f => some (layF 0x30 d a f 0)
  | .fldg d a f => some (layF 0x31 d a f 0)
  | .fspl d a f => some (layF 0x32 d a f 0)
  | .chor k pr => some (layR 0x33 (0#5 ++ k) 0 (0#2 ++ pr) 0)
  | .cend => some (layR 0x33 0 0 0 1)
  | .hand ch sn rc pk a => some (layHD 0x34 ch sn rc pk.bits a 0)
  | .cloop c b => some (layL 0x35 0 c b)
  | .cloopReg sk b => some (layL 0x35 1 (0#5 ++ sk) b)
  | .epset r x a => some (layE 0x36 r x 0 a 0)
  | .launch h t sp a n => some (layX 0x37 h t sp a (0#3 ++ boolBit n))
  | .gcinc d a => some (layR 0x38 d a 0 0)
  | .qpush d a pr => some (layR 0x39 d a (0#2 ++ pr) 0)
  | .qpop d pr => some (layR 0x39 d 0 (0#2 ++ pr) 1)
  | .rnd d => some (layR 0x3A d 0 0 0)
  | .ared h t a => some (layX 0x3B h t 0 a 0)
  | .agath h t a => some (layX 0x3B h t 0 a 1)
  | .bcast h t a => some (layX 0x3B h t 0 a 2)
  | .dgstRead d => some (layR 0x3C d 0 0 0)
  | .dgstFold a => some (layR 0x3C 0 a 0 1)
  | .cue m l => some (layC 0x3E m l)
  | .imm pl => some (layH 0x3F 0 (0#2 ++ pl))
  | .pred q n => some (layH 0x3F 1 (q ++ boolBit n ++ 0#18))
  | .ipf c o => some (layH 0x3F 2 (c ++ o))
  | .sched y hf => some (layH 0x3F 3 (0#17 ++ boolBit y ++ hf))
  | .rmode m => some (layH 0x3F 4 (0#20 ++ m))
  | .issueGroupFormation _ => none
  | .schedHoldoffExpiry _ => none
  | .instructionCacheFill _ _ => none
  | .loadReturn _ _ => none
  | .storePerformed _ _ => none
  | .fullEmptyPerform _ => none
  | .homeRequestServe _ => none
  | .atomicReply _ => none
  | .queuePushServe _ => none
  | .queuePopServe _ => none
  | .gcincRequest _ => none
  | .promotionRequest _ _ => none
  | .lineRecall _ _ => none
  | .copyItemCompletion _ => none
  | .codebookLoadCompletion _ => none
  | .cpymLineDelivery _ _ => none
  | .cpymCompletion _ => none
  | .slotFillCompletion _ => none
  | .matrixOperationCompletion _ => none
  | .cmpkSparseCountPass _ => none
  | .mvDispatch _ => none
  | .flushForBank _ => none
  | .mvJob _ _ => none
  | .mvRowResult _ _ => none
  | .mvCompletion _ => none
  | .fieldLoadReturn _ => none
  | .splatRequestApply _ => none
  | .splatLogAppend _ => none
  | .collectiveCompletion _ _ _ => none
  | .launchPacketAppend _ => none
  | .exitCompletion _ => none
  | .preemptionTrap _ => none
  | .preemptionTermination _ => none
  | .firmwarePreemption _ => none
  | .workgroupRestore _ _ => none
  | .packetRead _ => none
  | .launchAdmission _ => none
  | .queueVisit _ _ => none
  | .launchCompletion _ => none
  | .selfTest _ _ _ => none
  | .translationWalk _ _ => none
  | .invalidationComplete _ => none
  | .lqNotify _ _ => none
  | .preReqPreempt _ _ => none
  | .preReqHoldOnly _ _ => none
  | .launchAbort _ _ => none
  | .mvcCtlClr _ _ => none
  | .xltInvPage _ _ => none
  | .xltInvRange _ _ => none
  | .xltInvPartition _ _ => none
  | .fqRespReplay _ _ => none
  | .fqRespDecline _ _ => none
  | .mcAck _ _ _ => none
  | .irqStatusClear _ _ => none
  | .irqMaskWrite _ _ => none
  | .bootCtlLoad _ => none
  | .partSet => none
  | .policySet => none
  | .attest => none
  | .cert => none
  | .retireAck => none
  | .fuseSvn => none
  | .telemetry => none
  | .registerWrite _ _ _ _ => none
  | .hostWrite _ _ _ => none
  | .hostRead _ _ _ _ => none
  | .hostAtomicop _ _ _ _ _ _ _ => none
  | .peerRequest _ _ => none
  | .flitReplay _ => none
  | .linkDown _ => none
  | .machineCheckEvent _ _ _ => none
  | .coreControlError _ => none
  | .fatalStop _ _ _ => none
  | .inventoryWrite _ => none
  | .patrolScrub _ _ _ => none
  | .activationAlert _ _ => none
  | .alertRefreshDone _ _ => none
  | .throttleCrossing _ _ => none
  | .frameRetirement _ _ => none
  | .pcieReset => none
  | .dramRefresh _ _ => none
  | .powerDown => none

/-- The four bytes of a word as they are stored (R1, R87: little-endian). -/
def wordBytes (w : Word) : List Byte := [fieldOf w 7 0, fieldOf w 15 8, fieldOf w 23 16, fieldOf w 31 24]

/-- The word that four stored bytes make (R1, R87). -/
def wordOfBytes (l : List Byte) : Option Word :=
  match l with
  | [a, b, c, d] => some (d ++ c ++ b ++ a)
  | _ => none

/-- The instruction that the decoder reads from an instruction whose bits are `w`, numbered as the opcode table
numbers them. Every instruction is one word (R87), so any width but 32 bits names none. -/
def decodeTableWord (nbits w : Nat) : Option Instr :=
  if nbits = 32 then
    match wordOfBytes (wordBytes (BitVec.ofNat 32 w)) with
    | some x => match decode x with
      | .ok i => some i
      | .error _ => none
    | none => none
  else none

end Sys2Proof
end

