-- ==== Sys2Proof/Machine/Hints.lean ====
section
/-! DEFINITION. The hints (R99-R104): a hint joins the run of its thread or engine role, and the run's target applies it.
IPF fills lines of the cluster's instruction cache (R102, R311). -/
namespace Sys2Proof.Machine

/-- The key of a physical line in a cluster's instruction cache (R311). -/
def icacheKey (cluster line : Nat) : Nat := cluster * 2 ^ 45 + line
/-- Whether a cluster holds a line. -/
def State.icacheHas (s : State) (cluster line : Nat) : Bool := (Tbl.find s.icache (icacheKey cluster line)).isSome
/-- Fill a line, as memory stands; a line already present stays (R102, R311). -/
def State.icacheFill (s : State) (cluster line : Nat) : State :=
  if s.icacheHas cluster line then s
  else { (s.l2Touch line false) with icache := Tbl.insert s.icache (icacheKey cluster line) (s.memRead (line * 128) 128) }
/-- Prefetch one virtual line; one that is unmapped, not executable or beyond the address space is dropped (R102). -/
def State.prefetch (s : State) (part core : Nat) (line : Int) : State :=
  if line < 0 ∨ (2 : Int) ^ 49 ≤ line then s
  else
    let t := s.translated part (some core) (line.toNat * 128)
    match s.translate part (some core) (line.toNat * 128) with
    | .error _ => t
    | .ok x => if !x.x || s.linkLost x.pa || peerRefuses x.pa || t.icacheHas (clusterOf core) (x.pa / 128) then t
      else
        let t := t.l2Policy x.pa 1 x.cp
        if x.poison || s.memPoisoned x.pa 128 then t.l2Read x.pa 1 else t.icacheFill (clusterOf core) (x.pa / 128)
/-- R102: the lines of an IPF at an address. -/
def State.prefetchLines (s : State) (part core : Nat) (pc : Pc) (cntM1 : BitVec 4) (off : BitVec 18) : State :=
  (List.range (cntM1.toNat + 1)).foldl (fun s i => s.prefetch part core ((pc.toNat / 128 : Nat) + off.toInt + i)) s

/-- No hint yet. -/
def emptyRun (pc : Pc) : HintRun := { first := pc, imm := none, pred := none, ipf := false, sched := none, rmode := none }
/-- Execute a hint (R103, R104): it joins the run. A second hint of a kind, and the last word of a CUE run, trap; in an
engine role, which may execute only IPF and SCHED (`role`), the fault has cause 3 (R256). -/
def issueHint (dup : HintRun → Bool) (add : HintRun → HintRun) (role : Bool) (eff : Nat → Nat → Pc → State → State) (s : State) : Out :=
  match s.issue with
  | none => .next s
  | some g => match g.unit with
    | .engine l tm r => match s.roleAt l tm r with
      | none => .next (s.engineFault l tm r 3).finish
      | some (x, _, w) =>
        let run := x.hint.getD (emptyRun x.pc)
        if !role || dup run || (x.runLo != 0 && x.pc == x.runHi) then .next (s.engineFault l tm r 3).finish
        else .next ((eff w.core (s.partOf w) x.pc s).onRole l tm r (fun x =>
          { x with hint := some (add run), pc := x.pc + 4, stall := .none })).finish
    | .quarter _ _ => .next (s.lanes g.members (fun t w s =>
        let run := t.hint.getD (emptyRun t.pc)
        if dup run || (t.inRun && t.pc == t.runHi) then s.trapWord t clIllegal 6
        else (eff w.core (s.partOf w) t.pc s).onThread t.ref (fun u =>
          { u with hint := some (add run), pc := u.pc + 4, stall := .none }))).finish
/-- A hint with no effect of its own. -/
def noEffect (_ _ : Nat) (_ : Pc) (s : State) : State := s

/-- R100. -/
def execImm (payload : BitVec 20) (s : State) : Out :=
  issueHint (fun r => r.imm.isSome) (fun r => { r with imm := some payload }) false noEffect s
/-- R101. -/
def execPred (p : PReg) (neg : Bool) (s : State) : Out :=
  issueHint (fun r => r.pred.isSome) (fun r => { r with pred := some (p, neg) }) false noEffect s
/-- R102. -/
def execIpf (cntM1 : BitVec 4) (off : BitVec 18) (s : State) : Out :=
  issueHint (fun r => r.ipf) (fun r => { r with ipf := true }) true (fun core part pc s =>
    s.prefetchLines part core pc cntM1 off) s
/-- R102. -/
def execSched (yield : Bool) (holdoff : BitVec 4) (s : State) : Out :=
  issueHint (fun r => r.sched.isSome) (fun r => { r with sched := some (yield, holdoff) }) true noEffect s
/-- R62. -/
def execRmode (mode : BitVec 2) (s : State) : Out :=
  issueHint (fun r => r.rmode.isSome) (fun r => { r with rmode := some mode }) false noEffect s

end Sys2Proof.Machine
end

