-- ==== Sys2Proof/Machine/Fetch.lean ====
section
/-! DEFINITION. Instruction fetch (R87, R159, R311, R326, R366): the word at the PC of an issue group, from the cluster's
instruction cache. -/
namespace Sys2Proof.Machine

/-- What fetching a word meets; `poison` says whether the cache missed the line. -/
inductive Fetched
  | word (w : Word) | walk | access | link | poison (missed : Bool) | miss
  deriving DecidableEq, Repr

/-- R311: the word at a virtual address for a thread of a partition on a core. A page that is poisoned is so in the cache too
(R321); a link is needed for a line that the cache does not hold (R366, R406). -/
def State.fetchAt (s : State) (part core : Nat) (pc : Pc) : Fetched :=
  match s.tlbLook part core pc.toNat with
  | none => .walk
  | some x =>
    if !x.x || (peerRefuses x.pa && !s.linkLost x.pa) then .access
    else match Tbl.find s.icache (icacheKey (clusterOf core) (x.pa / 128)) with
      | some bs => if x.poison then .poison false else .word (BitVec.ofNat 32 (bytesAt bs (x.pa % 128) 4))
      | none => if s.linkLost x.pa then .link else if x.poison || s.memPoisoned x.pa 128 then .poison true else .miss
/-- A miss goes to the L2 under the policy of its page; a poisoned line is read there too (R309). -/
def State.missAccess (s : State) (part core : Nat) (pc : Pc) (read : Bool) : State :=
  match s.tlbLook part core pc.toNat with
  | some x => if read then (s.l2Policy x.pa 1 x.cp).l2Read x.pa 1 else s.l2Policy x.pa 1 x.cp
  | none => s

/-- The partition and the core of an issue group, from its first member, or from the host of an engine role. -/
def State.groupPlace (s : State) (g : IssueGroup) : Option (Nat × Nat × Pc) :=
  match g.unit with
  | .quarter core _ => (g.members.head?.bind s.wgOf).map (fun w => (s.partOf w, core, g.pc))
  | .engine l tm r => (s.roleAt l tm r).map (fun e => (s.partOf e.2.2, e.2.2.core, e.1.pc))
/-- SLIP of a partition advances (R366). -/
def State.slip (s : State) (part n : Nat) : State := s.onPart part (fun p => { p with slip := p.slip + BitVec.ofNat 64 n })
/-- Every member does the same. -/
def State.eachMember (s : State) (g : IssueGroup) (f : Thread → State → State) : State :=
  s.lanes g.members (fun t _ s => f t s)
/-- Fetching the group's word has not given a word: the members wait, or trap at it; an engine role waits, or its fetch
fails its checks (R266 cause 3, log entry 7). A line that the cache does not hold is a miss, which counts in SLIP, also
where it turns out poisoned or behind a lost link (R366). -/
def State.fetchFails (s : State) (g : IssueGroup) (part core : Nat) (pc : Pc) (x : Fetched) : State :=
  match g.unit with
  | .engine l tm r => match x with
    | .miss => (((s.missAccess part core pc false).onRole l tm r (fun e => { e with stall := .fetch })).slip part 1).finish
    | .poison true => (((s.missAccess part core pc true).slip part 1).engineFault l tm r 3).finish
    | .link => ((s.slip part 1).engineFault l tm r 3).finish
    | _ => (s.engineFault l tm r 3).finish
  | .quarter _ _ =>
    let a : DWord := pc.zeroExtend 64
    let slips := (g.members.filter (fun r => ((s.thread r).map Thread.active).getD false)).length
    match x with
    | .miss => (((s.missAccess part core pc false).eachMember g (fun t s => s.onThread t.ref (fun u => { u with stall := .fetch }))).slip part slips).finish
    | .walk => (s.lanes g.members (fun t w s =>
        s.onThread t.ref (fun u => { u with stall := .walk (pc.toNat / 4096) kFetch a (s.core w.core).cyc }))).finish
    | .access => (s.eachMember g (fun t s => s.trapData t clAccess 0 a)).finish
    | .link => ((s.eachMember g (fun t s => s.trapData t clMachine 3 a)).slip part slips).finish
    | .poison false => (s.eachMember g (fun t s => s.trapData t clMachine 2 a)).finish
    | .poison true => (((s.missAccess part core pc true).eachMember g (fun t s => s.trapData t clMachine 2 a)).slip part slips).finish
    | .word _ => s.finish
/-- A word that no row of the encodings has: the illegal-instruction trap of R105 in every member. -/
def State.decodeFails (s : State) (g : IssueGroup) (e : DecodeError) : State :=
  match g.unit with
  | .engine l tm r => (s.engineFault l tm r 3).finish
  | .quarter _ _ => (s.eachMember g (fun t s => s.trapWord t clIllegal e.detail)).finish
/-- The look-up before the fetch: a core's L1 TLB is refilled from its cluster's; an engine's walk comes before its fetch
(R324). -/
def State.fetchLook (s : State) (g : IssueGroup) (part core : Nat) (pc : Pc) : State :=
  match g.unit with
  | .quarter _ _ => s.tlbTouch core pc.toNat
  | .engine _ _ _ => s.translated part (some core) pc.toNat
/-- The instruction that the issue group executes with the state after the look-up, or the state after a fetch that gives
none. -/
def State.fetchGroup (s : State) (g : IssueGroup) : Except State (Instr × State) :=
  match s.groupPlace g with
  | none => .error s.finish
  | some (part, core, pc) =>
    let s := s.fetchLook g part core pc
    match s.fetchAt part core pc with
    | .word w => match decode w with
      | .ok i => .ok (i, s)
      | .error e => .error (s.decodeFails g e)
    | x => .error (s.fetchFails g part core pc x)

/-- Elected instructions (R98, R153, R238, R258, R284). -/
def isElected (i : Instr) : Bool :=
  match i with
  | .cpym _ _ _ _ _ => true
  | .cbook _ _ _ _ _ => true
  | .oclm _ => true
  | .orel _ => true
  | .old _ _ _ _ _ => true
  | .mma _ _ _ _ _ => true
  | .mmas _ _ _ _ _ _ => true
  | .mv _ _ _ _ _ _ => true
  | .accld _ _ _ _ => true
  | .accst _ _ _ _ => true
  | .acz _ _ _ _ => true
  | .scacc _ _ _ _ => true
  | .nprune _ _ _ _ => true
  | .cmpkSparse _ _ _ => true
  | .fbind _ _ _ => true
  | .fbindNear _ _ => true
  | .epset _ _ _ => true
  | .ared _ _ _ => true
  | .agath _ _ _ => true
  | .bcast _ _ _ => true
  | .dgstFold _ => true
  | _ => false

end Sys2Proof.Machine
end

