-- ==== Sys2Proof/Machine/Place.lean ====
section
/-! DEFINITION. Placement of workgroups: what fits where (R363, R364, R365, R389), the start of a workgroup (R19, R33, R39,
R302-R306, R363) and of a restored one (R205, R237, R276, R370, R396). -/
namespace Sys2Proof.Machine

/-! Room -/

/-- The resources of a workgroup (R124, R369). -/
structure Shape where
  width : Nat
  depth : Nat
  nregs : Nat
  calls : Nat
  near  : Nat
  tiles : Nat
  deriving DecidableEq, Repr
def Launch.shape (l : Launch) : Shape :=
  { width := l.width, depth := l.depth, nregs := l.nregs, calls := l.calls, near := l.near, tiles := l.acc }
/-- NEAR rounded up to 64 (R304). -/
def Shape.room (k : Shape) : Nat := (k.near + 63) / 64 * 64

/-! PART_CAP (R389, R392) -/
def Partition.capSlots (p : Partition) : Nat := (fieldOf p.cap 3 0).toNat
def Partition.capRegs (p : Partition) : Nat := (fieldOf p.cap 13 4).toNat
def Partition.capNear (p : Partition) : Nat := (fieldOf p.cap 23 14).toNat * 1024
def Partition.capTiles (p : Partition) : Nat := (fieldOf p.cap 28 24).toNat
def Partition.capBars (p : Partition) : Nat := (fieldOf p.cap 37 29).toNat

/-- F, the capacity of an empty core (R363), under the partition's limits (R389). -/
def capacityF (p : Partition) (k : Shape) : Nat :=
  let f := min (4 * (64 / k.width) * min (p.capSlots / k.depth) (p.capRegs / (k.depth * k.nregs))) (min 256 (4 * (p.capBars / 4)))
  let f := if 0 < k.room then min f (p.capNear / k.room) else f
  if 0 < k.tiles then min f (p.capTiles / k.tiles) else f
/-- Lc (R364). -/
def Launch.lcount (l : Launch) : Nat := if l.lc = 0 then l.cores.length else l.lc
/-- How many workgroups of a launch can be resident at once (R365). -/
def State.capacity (s : State) (l : Launch) : Nat :=
  capacityF (s.part l.part) l.shape * (if 1 ≤ l.det then l.lcount else (s.partCores l.part).length)

/-- The workgroups on a core. -/
def State.wgsOn (s : State) (core : Nat) : List Workgroup := (Tbl.vals s.wgs).filter (fun w => w.core == core)
/-- Thread slots and registers in use on a lane (R10, R12). -/
def State.laneUse (s : State) (core quarter lane : Nat) : Nat × Nat :=
  (Tbl.vals s.threads).foldl (fun (a : Nat × Nat) (t : Thread) =>
    match s.wgOf t.ref with
    | some w => if !t.exited && w.core == core && w.quarter == quarter && w.laneOf t.ref.tid == lane then (a.1 + 1, a.2 + w.nregs) else a
    | none => a) (0, 0)
/-- W free lanes from a multiple of W on, a free workgroup slot and barrier slots in the quarter (R363, R389). -/
def State.quarterFits (s : State) (p : Partition) (k : Shape) (core quarter lane : Nat) : Bool :=
  let n := ((s.wgsOn core).filter (fun w => w.quarter == quarter)).length
  decide (quarter < 4) && decide (lane % k.width = 0) && decide (lane + k.width ≤ 64) && decide (n < 64) && decide (4 * (n + 1) ≤ p.capBars)
    && (List.range k.width).all (fun x =>
      let u := s.laneUse core quarter (lane + x)
      decide (u.1 + k.depth ≤ p.capSlots) && decide (u.2 + k.depth * k.nregs ≤ p.capRegs))
/-- Contiguous near room from an offset on (R304, R363). -/
def State.nearFits (s : State) (p : Partition) (k : Shape) (core at_ : Nat) : Bool :=
  k.room == 0 || (at_ % 64 == 0 && decide (at_ + k.room ≤ sliceBytes)
    && decide (((s.wgsOn core).map Workgroup.nearSize).sum + k.room ≤ p.capNear)
    && (s.wgsOn core).all (fun w => w.nearSize == 0 || !meets at_ k.room w.base w.nearSize))
/-- Free tiles (R33). -/
def State.tilesFit (s : State) (p : Partition) (k : Shape) (core : Nat) : Bool :=
  decide (((s.wgsOn core).map (·.tiles)).sum + k.tiles ≤ p.capTiles)
/-- No live launch on the core, other than this one, has an overlapping tag mask (R36). -/
def State.tagsFit (s : State) (lid core : Nat) (mask : DWord) : Bool :=
  (s.wgsOn core).all (fun w => w.launch == lid || match s.launchOf w with
    | some l => l.tagMask &&& mask == 0
    | none => true)
/-- A TEST launch waits for the core to be empty (R371). -/
def State.testing (s : State) (core : Nat) : Bool :=
  (Tbl.vals s.launches).any (fun l => l.test && (l.cores.zipIdx).any (fun e => e.1 == core && l.mask.getLsbD e.2 && !l.tested.getLsbD e.2))
/-- The engines that workgroup idx hosts on this device (R255, R358). -/
def Launch.hosted (l : Launch) (own idx : Nat) : List MemberWord :=
  l.teams.flatMap (fun e => e.2.filter (fun m => m.kind != 0 && m.dev == own && m.index == idx))
/-- R358: the core is the engine's, or lies in its cluster. -/
def State.hostFits (s : State) (l : Launch) (idx core : Nat) : Bool :=
  (l.hosted s.mgmt.orbitDev.toNat idx).all (fun m =>
    if m.kind = kindMv then clusterOf core == m.unit else s.physCore l m.unit == some core)
/-- The cores that may take workgroup idx: the deterministic rule for a first start (R364), else the partition's (R363). -/
def State.candidates (s : State) (l : Launch) (idx : Nat) (restore : Bool) : List Nat :=
  if 1 ≤ l.det ∧ restore = false then (s.physCore l (idx % l.lcount)).toList else s.partCores l.part
/-- Operand-slot and codebook numbers that a restore needs free (R370). -/
def State.keptFree (s : State) (core : Nat) (slots : BitVec 8) (books : BitVec 4) : Bool :=
  (slotsOf slots).all (fun i => ((s.core core).slot i).state == .free)
    && (List.range 4).all (fun i => !books.getLsbD i || match ((s.core core).book i).owner with
      | some g => (s.wg g).isNone
      | none => true)
/-- A core, whatever its lanes: online, accepting, and with tiles, tags and kept numbers free. -/
def State.coreFits (s : State) (lid : Nat) (l : Launch) (idx : Nat) (k : Shape) (slots : BitVec 8) (books : BitVec 4) (core : Nat) : Bool :=
  s.isOnline core && (s.core core).accepts && !s.testing core && s.tagsFit lid core l.tagMask && s.tilesFit (s.part l.part) k core
    && s.hostFits l idx core && s.keptFree core slots books
/-- Whether workgroup idx fits at a place (R363). -/
def State.fitsAt (s : State) (lid : Nat) (l : Launch) (idx : Nat) (restore : Bool) (k : Shape) (slots : BitVec 8) (books : BitVec 4)
    (pl : Placement) : Bool :=
  (s.candidates l idx restore).contains pl.core && s.coreFits lid l idx k slots books pl.core
    && s.quarterFits (s.part l.part) k pl.core pl.quarter pl.lane && s.nearFits (s.part l.part) k pl.core pl.near
/-- Where the free room of a slice can begin. -/
def State.nearStarts (s : State) (core : Nat) : List Nat := 0 :: (s.wgsOn core).map (fun w => w.base + w.nearSize)
/-- The places to try on a core. -/
def State.placesOn (s : State) (k : Shape) (core : Nat) : List Placement :=
  (List.range 4).flatMap (fun q => (List.range (64 / k.width)).flatMap (fun x => (s.nearStarts core).map (fun n =>
    { core := core, quarter := q, lane := x * k.width, near := n })))
/-- The first place that fits, if there is room somewhere. -/
def State.findPlace (s : State) (lid : Nat) (l : Launch) (idx : Nat) (restore : Bool) (k : Shape) (slots : BitVec 8) (books : BitVec 4) :
    Option Placement :=
  (s.candidates l idx restore).findSome? (fun c => (s.placesOn k c).find? (fun pl => s.fitsAt lid l idx restore k slots books pl))

/-! Starting a workgroup -/

/-- A thread at its start (R39). -/
def Thread.start (r : ThreadRef) (pc : Pc) (now : Nat) : Thread :=
  { ref := r, v := [], p := 0, h := [], fpflags := 0, draw := 0, pc := pc, ret := [], depth := 0, batch := 0, batches := [],
    nld := 0, nst := 0, ntl := 0, outLd := [], outSt := [], outTl := [], loads := [], ops := [], role := 0, chorDep := 0,
    chorRes := 0, runLo := 0, runHi := 0, loops := [], handler := false, hclass := 0, hint := none, grouping := .out, holdoff := 0,
    yield := false, fresh := false, stall := .none, since := now, bars := 0, rebars := 0, orphan := none, exited := false, saved := false }
/-- The first free workgroup slot of a quarter (R363, log entry 6). -/
def State.freeSlot (s : State) (core quarter : Nat) : Nat :=
  ((List.range 64).find? (fun i => (s.wgsOn core).all (fun w => w.quarter != quarter || w.slot != i))).getD 0
/-- %team0 to %team3 of a workgroup, in ascending team number (R357). DESIGN CHOICE (log entry 42): a workgroup that one
team's list names twice is one member, and each mention gives it a %team register. -/
def Launch.teamImages (l : Launch) (own idx : Nat) : List Word :=
  let ms := l.teams.flatMap (fun e => (e.2.filter (fun m => m.kind == 0 && m.dev == own && m.index == idx)).map (fun m =>
    (0x80000000 : Word) ||| BitVec.ofNat 32 (m.role * 256 + e.1)))
  (ms ++ List.replicate 4 0).take 4
/-- s0:s1 and s2:s3 (R19). -/
def Launch.uniforms (l : Launch) : Tbl Word :=
  let put := fun (m : Tbl Word) (k : Nat) (w : Word) => Tbl.put 0 m k w
  put (put (put (put [] 0 (fieldOf l.args 31 0)) 1 (fieldOf l.args 63 32)) 2 (fieldOf l.record 31 0)) 3 (fieldOf l.record 63 32)
/-- A new allocation: its bytes are undefined and its words full, its spans are not poisoned (R31, R306). -/
def State.freshNear (s : State) (core base size : Nat) : State :=
  let lo := nearKey core base
  let out := fun (a : Nat) => !(decide (lo ≤ a) && decide (a < lo + size))
  { s with near := s.near.filter (fun e => out e.1), nearWrote := s.nearWrote.filter out, merge := s.merge.filter (fun e => out e.1),
           empties := s.empties.filter (fun w => out (4 * w)), nearPoison := s.nearPoison.filter (fun l => !(linesOf lo size).contains l) }
/-- The workgroup record at its place; `old` is the saved one, whose phases, counts and digest go on. -/
def Launch.newWg (l : Launch) (lid idx own : Nat) (k : Shape) (pl : Placement) (slot : Nat) (gen : BitVec 32) (ep now : Nat)
    (old : Option Workgroup) : Workgroup :=
  { launch := lid, log := idx, width := k.width, depth := k.depth, nregs := k.nregs, calls := k.calls, near := k.near, tiles := k.tiles,
    core := pl.core, quarter := pl.quarter, lane := pl.lane, slot := slot, base := if k.room = 0 then 0 else pl.near, gen := gen,
    epoch := ep, s := l.uniforms, teams := l.teamImages own idx, mflags := 0, acc := List.replicate k.tiles { epoch := ep, cells := [] },
    fields := (old.map (·.fields)).getD [], phases := (old.map (·.phases)).getD 0, pushes := (old.map (·.pushes)).getD [],
    digest := (old.map (·.digest)).getD 0, preempt := none, ran := (old.map (·.ran)).getD 0, placed := now,
    colls := (old.map (·.colls)).getD [], images := [], faulted := (old.map (·.faulted)).getD false }
/-- Tiles of one workgroup have free values of their own. -/
def Workgroup.ownTiles (w : Workgroup) (ep : Nat) : Workgroup :=
  { w with acc := (List.range w.tiles).map (fun i => { epoch := ep + 1 + i, cells := [] }) }
/-- Place workgroup g: its allocation, registers and record word; the core's FFU lines go (R302-R306, R310). The core
acquires at device scope, so that the workgroup reads its record word and what its launch follows (R297, R302, R360; log
entry 18). -/
def State.placeWg (s : State) (g lid : Nat) (l : Launch) (idx : Nat) (k : Shape) (pl : Placement) (old : Option Workgroup) : State :=
  let ep := s.free
  let s := { s with free := s.free + 1 + k.tiles }
  let gen := (s.core pl.core).gen + (if k.room = 0 then 0 else 1)
  let s := s.onCore pl.core (fun c => { c with gen := gen, ffu := [] })
  let w := (l.newWg lid idx s.mgmt.orbitDev.toNat k pl (s.freeSlot pl.core pl.quarter) gen ep (s.core pl.core).cyc.toNat old).ownTiles ep
  let s := s.freshNear pl.core pl.near k.room
  let s := { s with wgs := Tbl.insert s.wgs g w }
  let word := if k.room = 0 then 0 else (s.nativeNear w (nearKey pl.core pl.near)).toNat
  (s.tryWrite l.part none (l.record + 0x100 + BitVec.ofNat 64 (4 * idx)) (leBytes 4 word) none).2.acquireWide pl.core
/-- Add the threads of a workgroup. -/
def State.addThreads (s : State) (g : Nat) (tids : List Nat) (f : ThreadRef → Thread) : State :=
  tids.foldl (fun s i => s.putThread (f { wg := g, tid := i })) s
/-- The workgroup of a pending index starts at a place (R39, R363). -/
def State.startWg (s : State) (lid : Nat) (l : Launch) (idx : Nat) (pl : Placement) : State :=
  let (g, s) := s.takeId
  let s := s.placeWg g lid l idx l.shape pl none
  let now := (s.core pl.core).cyc.toNat
  (s.onLaunch lid (fun l => { l with next := max l.next (idx + 1) })).addThreads g (List.range (l.width * l.depth)) (fun r => Thread.start r l.entry now)

/-! Restoring a workgroup (R370) -/

/-- The save header (R369). -/
structure Header where
  shape   : Shape
  bars    : BitVec 8
  books   : BitVec 8
  slots   : BitVec 8
  live    : BitVec 24
  version : Nat
  zeros   : Bool
  deriving DecidableEq, Repr
def headerOf64 (b : List Byte) : Header :=
  { shape := { width := bytesAt b 0 1, depth := bytesAt b 1 1, nregs := bytesAt b 2 1, calls := bytesAt b 8 2, near := bytesAt b 4 4,
               tiles := bytesAt b 3 1 },
    bars := BitVec.ofNat 8 (bytesAt b 10 1), books := BitVec.ofNat 8 (bytesAt b 11 1), slots := BitVec.ofNat 8 (bytesAt b 12 1),
    live := BitVec.ofNat 24 (bytesAt b 13 3), version := bytesAt b 16 4, zeros := bytesAt b 20 44 == 0 }
/-- Its 64 bytes. -/
def Header.bytes (h : Header) : List Byte :=
  leBytes 1 h.shape.width ++ leBytes 1 h.shape.depth ++ leBytes 1 h.shape.nregs ++ leBytes 1 h.shape.tiles ++ leBytes 4 h.shape.near
    ++ leBytes 2 h.shape.calls ++ [h.bars, h.books, h.slots] ++ leBytes 3 h.live.toNat ++ leBytes 4 h.version ++ List.replicate 44 0
/-- W, D, n, a, C and NEAR within R10, R12, R17 and R124. -/
def Shape.legal (k : Shape) : Bool :=
  [8, 16, 32, 64].contains k.width && decide (1 ≤ k.depth) && decide (k.depth ≤ 8) && k.nregs % 8 == 0 && decide (8 ≤ k.nregs)
    && decide (k.nregs ≤ 128) && decide (k.tiles ≤ 16) && k.near % 4 == 0 && decide (k.near ≤ sliceBytes) && k.calls % 8 == 0
    && decide (8 ≤ k.calls) && decide (k.calls ≤ 256) && decide (k.width * k.depth * (k.calls - 8) * 4 ≤ k.near)
/-- The live mask names only tiles below a and slots recorded as owned (R390). -/
def Header.liveOk (h : Header) : Bool :=
  (List.range 24).all (fun i => !h.live.getLsbD i || (if i < 16 then decide (i < h.shape.tiles) else h.slots.getLsbD (i - 16)))
/-- The reason bits of R390. -/
def State.restoreReasons (s : State) (l : Launch) (idx : Nat) (h : Header) : BitVec 7 :=
  let p := s.part l.part
  let k := h.shape
  let cores := s.partCores l.part
  let bit := fun (n : Nat) (b : Bool) => if b then 1#7 <<< n else 0#7
  bit 0 (h.version != 1 || !k.legal || !h.liveOk)
    ||| bit 1 (decide (p.capSlots < k.depth) || decide (p.capRegs < k.depth * k.nregs))
    ||| bit 2 (decide (p.capNear < k.near))
    ||| bit 3 (decide (p.capBars < 4))
    ||| bit 4 (decide (p.capTiles < k.tiles))
    ||| bit 5 ((l.hosted s.mgmt.orbitDev.toNat idx).any (fun m => if m.kind = kindMv then cores.all (fun c => clusterOf c != m.unit)
        else match l.cores[m.unit]? with
          | some c => !cores.contains c
          | none => true))
    ||| bit 6 cores.isEmpty
/-- A codebook table is loaded again from its origin (R205). DESIGN CHOICE (log entry 42): where the reload fails, the table
belongs to the workgroup all the same, its bytes are free values, and nothing is reported. -/
def State.reloadBook (s : State) (g core part : Nat) (e : Nat × Codebook) : State :=
  let (ep, s) := s.freshEpoch
  let own : Codebook := { e.2 with owner := some g, loaded := false, epoch := ep, bytes := [], damaged := [] }
  match s.tryRead part (some core) e.2.origin (256 * e.2.vec) with
  | (some bs, s) => s.onCore core (fun c => c.setBook e.1 { own with loaded := true, bytes := Memory.writeN [] 0 bs })
  | (none, s) => s.onCore core (fun c => c.setBook e.1 own)
/-- A bound descriptor is read again from its origin, by the checks of its FBIND; one that faults or is out of range
becomes unbound (R237, R238). DESIGN CHOICE (log entry 42): the re-read is not in handler mode, so a near descriptor that a
handler bound in the spill reservation becomes unbound. -/
def State.reloadField (s : State) (g part : Nat) (e : Nat × Field) : State :=
  let drop := fun (s : State) => s.onWg g (fun w => { w with fields := Tbl.erase w.fields e.1 })
  let bind := fun (s : State) (b : List Byte) =>
    let f : Field := { e.2 with desc := b }
    if f.ok then s.onWg g (fun w => { w with fields := Tbl.insert w.fields e.1 f }) else drop s
  match s.wg g with
  | none => s
  | some w =>
    if e.2.near then
      match s.checkNear g false (s.nativeNear w (nearKey w.core w.base + e.2.origin.toNat)) 64 64 with
      | .ok (key, target) => if target ≠ g ∨ s.nearPoisoned key 64 = true then drop s else bind s (s.nearLoad key 64)
      | .error _ => drop s
    else match s.tryRead part (some w.core) e.2.origin 64 with
      | (some b, s) => bind s b
      | (none, s) => drop s
/-- The thread enters TVEC with class 0x19 (R276, R396). -/
def Thread.restored (t : Thread) (frame tvec : DWord) : Thread := t.enterHandler frame tvec clRestore 0
/-- A saved workgroup is placed, keeps its slot and table numbers, and enters TVEC (R276, R370); TVEC = 0 terminates it (R269). -/
def State.restoreWg (s : State) (lid : Nat) (l : Launch) (x : SavedWg) (h : Header) (pl : Placement) : State :=
  let s := s.onLaunch lid (fun l => { l with saved := l.saved.filter (fun y => y.id != x.id) })
  let s := s.placeWg x.id lid l x.wg.log h.shape pl (some x.wg)
  let (ep, s) := s.freshEpoch
  let s := s.onCore pl.core (fun c => (slotsOf h.slots).foldl (fun c i =>
    c.setSlot i { state := .claimed x.id, epoch := ep, bytes := [], damaged := false }) c)
  let s := (x.books.filter (fun e => h.books.getLsbD e.1)).foldl (fun s e => s.reloadBook x.id pl.core l.part e) s
  let s := x.wg.fields.foldl (fun s e => s.reloadField x.id l.part e) s
  let now := (s.core pl.core).cyc.toNat
  match s.wg x.id with
  | none => s
  | some w =>
    let s := s.addThreads x.id x.tids (fun r => (Thread.start r 0 now).restored (frameAddr l w r.tid) l.tvec)
    if l.tvec = 0 then s.terminateWg x.id else s

end Sys2Proof.Machine
end

