-- ==== Sys2Proof/Machine/System.lean ====
section
/-! DEFINITION. Special registers (R22, R272), ERET (R270), divergence images (R273-R275), LAUNCH (R277), GCINC (R278), queues
(R279-R281), the digest instructions (R284), RND (R285), collectives (R286) and the end of a thread (R40, R370). -/
namespace Sys2Proof.Machine

/-! Special registers -/

/-- The logical index of a workgroup's core (R22, R24). -/
def State.logicalCore (s : State) (w : Workgroup) : Nat := ((s.launchOf w).map (fun l => l.logicalOf w.core)).getD 0
/-- %wgid (R22). -/
def State.wgid (s : State) (w : Workgroup) : Word := BitVec.ofNat 32 (w.slot + 64 * w.quarter + 256 * s.logicalCore w)
/-- The value of a special register (R22-R25): 64 bits, of which a 32-bit register uses the low half. -/
def State.special (s : State) (t : Thread) (w : Workgroup) (n : Nat) : DWord :=
  let ofLaunch := fun (f : Launch → Nat) => BitVec.ofNat 64 (((s.launchOf w).map f).getD 0)
  let c := s.core w.core
  match n with
  | 0x00 => BitVec.ofNat 64 t.ref.tid
  | 0x01 => BitVec.ofNat 64 (w.laneOf t.ref.tid)
  | 0x02 => BitVec.ofNat 64 (w.row t.ref.tid)
  | 0x03 => (s.wgid w).zeroExtend 64
  | 0x04 => BitVec.ofNat 64 w.log
  | 0x05 => BitVec.ofNat 64 w.launch
  | 0x06 => (w.team 0).zeroExtend 64
  | 0x07 => (w.team 1).zeroExtend 64
  | 0x08 => (w.team 2).zeroExtend 64
  | 0x09 => (w.team 3).zeroExtend 64
  | 0x0A => t.role.zeroExtend 64
  | 0x0B => ofLaunch (fun l => l.cores.length)
  | 0x0C => t.draw.zeroExtend 64
  | 0x0D => ((s.launchOf w).map (·.seed)).getD 0
  | 0x0E => t.fpflags.zeroExtend 64
  | 0x0F => w.mflags.zeroExtend 64
  | 0x10 => c.cyc
  | 0x11 => BitVec.ofNat 64 t.outLd.length
  | 0x12 => BitVec.ofNat 64 t.outSt.length
  | 0x13 => BitVec.ofNat 64 t.pendingBatches
  | 0x14 => BitVec.ofNat 64 t.outTl.length
  | 0x15 => c.tagBits
  | 0x16 => t.batch.zeroExtend 64
  | 0x17 => BitVec.ofNat 64 (w.width + 128 * w.depth)
  | 0x18 => ofLaunch (·.groups)
  | 0x19 => BitVec.ofNat 64 t.depth
  | _ => 0
/-- R272. -/
def execSrd (vd : VReg) (sr : BitVec 7) (s : State) : Out :=
  issueLanes (.srd vd sr) (fun t w s =>
    let x := s.special t w sr.toNat
    s.onThread t.ref (fun u => (if specialWidth sr = some 64 then u.setPair vd.toNat x else u.setV vd.toNat (fieldOf x 31 0)).advance)) s
/-- The effect of SWR: %draw, %fpflags and %mflags keep their reserved bits; the other registers are RO (R5, R6, R22). DESIGN
CHOICE (log entry 42): where several threads of one workgroup write %mflags in one issue, the value of the last lane stands. -/
def State.setSpecial (s : State) (t : Thread) (n : Nat) (x : Word) : State :=
  match n with
  | 0x0C => s.onThread t.ref (fun u => { u with draw := x })
  | 0x0E => s.onThread t.ref (fun u => { u with fpflags := x &&& 0x31F })
  | 0x0F => s.onWg t.ref.wg (fun w => { w with mflags := x &&& 0xF })
  | _ => s
/-- R272. -/
def execSwr (sr : BitVec 7) (va : VReg) (s : State) : Out :=
  issueLanes (.swr sr va) (fun t _ s => (s.setSpecial t sr.toNat (t.getV va.toNat)).onThread t.ref Thread.advance) s
/-- R270. -/
def execEret (s : State) : Out := issueLanes .eret (fun t w s => s.eret t w) s

/-! Divergence images (R273-R275) -/

/-- A loop-stack entry of the image. -/
def loopBytes (e : Option LoopEntry) : List Byte :=
  match e with
  | some x => leBytes 4 (fieldOf x.pc 33 2).toNat ++ leBytes 2 x.remaining ++ [0, 0x80]
  | none => List.replicate 8 0
/-- The HANDLES bytes of a handle. -/
def handleBytes (h : Handle) : List Byte :=
  match h with
  | .done st => [1, st]
  | _ => [0, 0]
/-- Eight bytes of a run bound, the last of them given. -/
def boundBytes (pc : Pc) (last : Byte) : List Byte := leBytes 7 pc.toNat ++ [last]
/-- The image of a thread (R273); the loop stack from its bottom up. -/
def Thread.image (t : Thread) : List Byte :=
  let act := t.active
  let loops := t.loops.reverse
  leBytes 2 t.depth ++ [t.p &&& 0xFE, BitVec.ofNat 8 (min t.depth 8)]
    ++ (List.range 8).flatMap (fun i => leBytes 4 (t.ret.getD i 0).toNat)
    ++ leBytes 2 t.batch.toNat ++ [t.bars.zeroExtend 8, 1]
    ++ (List.range 16).flatMap (fun k => handleBytes (t.getH (BitVec.ofNat 4 k)))
    ++ leBytes 4 t.role.toNat ++ leBytes 4 (if act then (fieldOf t.chorRes 33 2).toNat else 0)
    ++ boundBytes t.runLo (if act then BitVec.ofNat 8 t.chorDep else 0)
    ++ boundBytes t.runHi (if act then BitVec.ofNat 8 (t.chorDep / 256 % 2) else 0)
    ++ (List.range 4).flatMap (fun i => loopBytes loops[i]?)
/-- Work outstanding at DSAV (R274 check 2). -/
def Thread.busyImage (t : Thread) : Bool :=
  !t.outLd.isEmpty || !t.outSt.isEmpty || !t.outTl.isEmpty || t.pendingBatches != 0
    || t.h.any (fun e => match e.2 with
        | .pending _ => true
        | _ => false)
    || t.batches.any (fun b => b.1 == t.batch)
/-- R274 check 3: 128 bytes, a multiple of 16, in the thread's own allocation. -/
def State.withImage (s : State) (t : Thread) (va : VReg) (k : Nat → State) : State :=
  let na := t.getV va.toNat
  match s.checkNear t.ref.wg t.handler na 128 16 with
  | .error e => s.trapNear t e na
  | .ok (key, target) => if target ≠ t.ref.wg then s.trapNear t (.cause 5) na else k key
/-- R274. The image is performed at core scope; stores in handler mode are in no digest (R269). -/
def execDsav (va : VReg) (s : State) : Out :=
  issueLanes (.dsav va) (fun t w s =>
    if !t.handler then s.trapWord t clMode 2
    else if t.busyImage then s.trapWord t clMode 3
    else s.withImage t va (fun key =>
      (s.nearStore key t.image w.core (refKey t.ref) false).onThread t.ref Thread.advance)) s

/-- ROLE and LOOPS of an image, which the threads of a workgroup share (R275). -/
def imageShared (b : List Byte) : List Byte := (b.drop 72).take 4 ++ (b.drop 96).take 32
/-- R275 check 3: whether the image may be installed in thread tid. -/
def imageOk (w : Workgroup) (tid : Nat) (b : List Byte) : Bool :=
  let at_ := fun (i : Nat) => (b.getD i 0).toNat
  let depth := bytesAt b 0 2
  let nhw := at_ 3
  let role : Word := BitVec.ofNat 32 (bytesAt b 72 4)
  let act := role.getLsbD 31
  let chordep := at_ 87 + 256 * (at_ 95 % 2)
  at_ 39 == 1 && at_ 2 % 2 == 0 && decide (at_ 38 < 16) && fieldOf role 30 6 == 0 && at_ 95 / 2 == 0
    && (List.range 8).all (fun i => decide (i < nhw) || bytesAt b (4 + 4 * i) 4 == 0)
    && (List.range 4).all (fun i => bytesAt b (96 + 8 * i + 6) 2 % 32768 == 0)
    && decide (depth ≤ w.calls) && nhw == min depth 8
    && (List.range 16).all (fun k => decide (at_ (40 + 2 * k) ≤ 1))
    && (!act || teamValid (w.team (fieldOf role 5 4).toNat))
    && (if act then decide (chordep ≤ depth) else chordep == 0)
    && w.images.all (fun e => e.1 == tid || e.2 == imageShared b)
    && (act || bytesAt b 76 4 == 0)
/-- The thread with an image installed; `hi` is bits [55:34] of the stream's address. -/
def Thread.install (t : Thread) (b : List Byte) (hi : BitVec 22) (orphan : Bool) : Thread :=
  let at_ := fun (i : Nat) => (b.getD i 0)
  let role : Word := BitVec.ofNat 32 (bytesAt b 72 4)
  let act := role.getLsbD 31
  let addr := fun (w : Nat) => ((hi ++ (BitVec.ofNat 32 w ++ 0#2)) : Pc)
  let loops := (List.range 4).filterMap (fun i =>
    if (at_ (96 + 8 * i + 7)).getLsbD 7 then
      some ({ pc := addr (bytesAt b (96 + 8 * i) 4), remaining := bytesAt b (100 + 8 * i) 2 } : LoopEntry)
    else none)
  let h : Tbl Handle := (List.range 16).foldl (fun (m : Tbl Handle) k =>
    Tbl.put .empty m k (if at_ (40 + 2 * k) = 1 then .done (at_ (41 + 2 * k)) else .empty)) []
  { t with depth := bytesAt b 0 2, p := at_ 2 &&& 0xFE,
           ret := (List.range (at_ 3).toNat).map (fun i => BitVec.ofNat 32 (bytesAt b (4 + 4 * i) 4)),
           batch := BitVec.ofNat 16 (bytesAt b 36 2), bars := fieldOf (at_ 38) 3 0, h := h, role := role,
           chorRes := if act then addr (bytesAt b 76 4) else 0, runLo := BitVec.ofNat 56 (bytesAt b 80 7),
           runHi := BitVec.ofNat 56 (bytesAt b 88 7), chorDep := (at_ 87).toNat + 256 * ((at_ 95).toNat % 2),
           loops := loops.reverse, orphan := if orphan then some (0xFF, 0) else none }
/-- Install an image; the arrivals it records count when the thread has left its handler (R177, R275). -/
def State.installImage (s : State) (t : Thread) (w : Workgroup) (b : List Byte) : State :=
  let role : Word := BitVec.ofNat 32 (bytesAt b 72 4)
  let stream := Tbl.find s.streams (teamKey w.launch (teamIndex (w.team (fieldOf role 5 4).toNat)))
  let hi := match stream with
    | some st => fieldOf st.addr 55 34
    | none => fieldOf t.pc 55 34
  let s := s.onWg t.ref.wg (fun w => { w with images := Tbl.insert w.images t.ref.tid (imageShared b) })
  s.onThread t.ref (fun u => (u.install b hi (role.getLsbD 31 && stream.isNone)).advance)
/-- R275. -/
def execDrst (va : VReg) (s : State) : Out :=
  issueLanes (.drst va) (fun t w s =>
    if !t.handler then s.trapWord t clMode 2
    else s.withImage t va (fun key =>
      if s.nearPoisoned key 128 then s.trapData t clMachine 2 ((t.getV va.toNat).zeroExtend 64)
      else
        let b := s.nearLoad key 128
        match s.wg t.ref.wg with
        | some g => if imageOk g t.ref.tid b then s.installImage t w b else s.trapWord t clMode 4
        | none => s)) s

/-! LAUNCH (R277) -/

/-- R277: per lane, in ascending lane order. -/
def execLaunch (hd : HReg) (tag : Tag) (sp : SPair) (va : VReg) (near : Bool) (s : State) : Out :=
  let i : Instr := .launch hd tag sp va near
  issueSorted i (fun s r => ((s.wgOf r).map (fun w => w.laneOf r.tid)).getD 0) (fun t w s =>
    s.issueFor { s.threadOp i t w sp with args := [t.getV va.toNat] } hd [t.ref]) s

/-- A packet's own fields are well formed (R277, R354). -/
def packetFields (b : List Byte) : Bool :=
  let ndep := blk b 2
  (blk b 0 == 1 || blk b 0 == 2) && decide (ndep ≤ 4) && (blk b 0 == 1 || ndep == 0) && decide (blk b 3 < 8)
    && bytesAt b 4 4 != 0 && blk b 24 == 0
    && (blk b 0 == 2 || (List.range 4).all (fun i => decide (i < ndep) || bytesAt b (32 + 8 * i) 8 == 0))
/-- The ring is full (R351). -/
def Queue.full (q : Queue) : Bool := (q.wr - q.rd).toNat == 2 ^ q.log2.toNat
/-- The physical address of a slot (R351). -/
def Queue.slotAddr (q : Queue) (k : BitVec 16) : Nat := q.ring.toNat * 4096 + 64 * (k.toNat % 2 ^ q.log2.toNat)
/-- Whether a slot lies in device memory (R351). -/
def Queue.slotThere (q : Queue) (k : BitVec 16) : Bool := isDevice (q.slotAddr k) && validPa 64 (q.slotAddr k)
def isLaunch (i : Instr) : Bool :=
  match i with
  | .launch _ _ _ _ _ => true
  | _ => false
/-- Earlier LAUNCH packets of the same core that are not in their queue come first, where the queue is or may be this one (R277). -/
def State.launchFirst (s : State) (id : Nat) (op : Op) (queue : Nat) : Bool :=
  s.ops.all (fun e => decide (id ≤ e.1) || e.2.core != op.core || !isLaunch e.2.instr
    || (!e.2.block.isEmpty && blk e.2.block 1 != queue))
/-- The packets that a full queue has delayed come first, in the order in which they reached it (R352). -/
def State.launchTurn (s : State) (id : Nat) (op : Op) (queue : Nat) : Bool :=
  s.ops.all (fun e => e.1 == id || e.2.order == 0 || !isLaunch e.2.instr || blk e.2.block 1 != queue
    || (op.order != 0 && decide (op.order ≤ e.2.order)))
/-- A LAUNCH waits at its full queue, from the moment at which it reached it. -/
def State.launchDelay (s : State) (id : Nat) (op : Op) (b : List Byte) : State :=
  if op.order ≠ 0 then s
  else
    let (n, s) := s.takeId
    s.onOp id (fun o => { o with block := b, order := n })
/-- The packet of a LAUNCH reaches its queue (R277, R352): refused, delayed while the queue is full, or appended, with
the digest of its write at the slot (R282). -/
def State.launchAppend (s : State) (id : Nat) (op : Op) (b : List Byte) : Out :=
  let n := blk b 1
  let q := s.queue n
  if !s.launchFirst id op n then .next (s.onOp id (fun o => { o with block := b }))
  else if op.order ≠ 0 ∧ q.full = true then .next s
  else if q.owner != some op.part || !q.dev || !q.en || q.err || !packetFields b then .next (s.completeOp id stParam)
  else if q.full || !s.launchTurn id op n then .next (s.launchDelay id op b)
  else if !q.slotThere q.wr then .fault .absentRing
  else .next (((s.opMem op.wg (BitVec.ofNat 64 (q.slotAddr q.wr)) [(q.slotAddr q.wr, 64)] b op.quiet).onQueue n
    (fun q => { q with wr := q.wr + 1 })).completeOp id stOK)
/-- R277, R352: the copy unit reads the packet once, as a separate agent. -/
def execLaunchPacketAppend (id : Nat) (s : State) : Out :=
  match Tbl.find s.ops id with
  | none => .next s
  | some op => match op.instr with
    | .launch _ _ _ _ near =>
      if !op.block.isEmpty then s.launchAppend id op op.block
      else match s.copySide op near (op.args.getD 0 0) 64 false with
        | .error e => .next (s.failSide id op e)
        | .ok x => match s.sideRead op x 64 with
          | (none, s) => .next (s.completeOp id stPoison)
          | (some b, s) => s.launchAppend id op b
    | _ => .next s

/-! GCINC (R278) -/

/-- The request counts as a load; one issue's requests go in ascending thread index. -/
def execGcinc (vd va : VReg) (s : State) : Out :=
  issueSorted (.gcinc vd va) (fun _ r => r.tid) (fun t w s =>
    s.startLoad t { newReq t w .gcinc false 0 0 0 with args := [t.getV va.toNat] } vd.toNat 1) s
/-- What the dispatcher answers, and the new group count. -/
def State.gcinc (s : State) (l : Launch) (inc : Word) : Word × Nat :=
  let new := l.groups + inc.toNat
  if l.gmax < new ∨ (l.progress = 2 ∧ s.capacity l < new) then (0xFFFFFFFF, l.groups) else (BitVec.ofNat 32 l.groups, new)
/-- R278: performed indivisibly, in arrival order, of one workgroup in issue order. -/
def execGcincRequest (req : Nat) (s : State) : Out :=
  match Tbl.find s.reqs req with
  | none => .next s
  | some q =>
    let first := s.reqs.all (fun e => decide (req ≤ e.1) || e.2.kind != .gcinc || e.2.thread.wg != q.thread.wg)
    if q.kind != .gcinc || !first then .next s
    else match (s.wgOf q.thread).bind (fun w => (s.launchOf w).map (fun l => (w, l))) with
      | none => .next s
      | some (w, l) =>
        let r := s.gcinc l (q.args.getD 0 0)
        let s := s.onLaunch w.launch (fun l => { l with groups := r.2 })
        .next ((s.onThread q.thread (fun t => t.loadDone q.seq (some [r.1]) none)).dropReq req)

/-! Queues (R279-R281, R319) -/

/-- R280: the thread waits for the result; the request keeps its place in the issue order in `addr`. -/
def execQpush (vd va : VReg) (pair : SPair) (s : State) : Out :=
  issueSorted (.qpush vd va pair) (fun _ r => r.tid) (fun t w s =>
    (s.takeReturn t w).startWaiting t { newReq t w .push false s.nextId (w.sPair pair) 0 with args := [t.getV va.toNat], dest := vd.toNat } false false) s
/-- R280. -/
def execQpop (vd : VReg) (pair : SPair) (s : State) : Out :=
  issueSorted (.qpop vd pair) (fun _ r => r.tid) (fun t w s =>
    (s.takeReturn t w).startWaiting t { newReq t w .pop false s.nextId (w.sPair pair) 0 with dest := vd.toNat } false false) s

/-- The descriptor's fields are within R279; the quota is the pushing launch's matter. -/
def QDesc.ok (q : QDesc) (push : Bool) (det : Bool) : Bool :=
  q.zeros && q.ring.toNat % 8 == 0 && fieldOf q.ring 63 56 == 0 && (List.range 17).any (fun i => q.cap == 2 ^ (i + 4))
    && (!push || (if det then decide (1 ≤ q.quota) else q.quota == 0))
/-- How an operation on a queue stands, with the lines that the home has read: it traps, by the Queue trap or the lost link's
(R281, R406), waits, or can be performed. -/
inductive QueueStep
  | trap (s : State) (cls : Byte) (detail : Word) | wait (s : State) | go (s : State) (desc : QDesc) (ticket : Word) (entry : List Byte)
/-- The trap of a queue access that fails: class 0x08, detail 3, on a lost link, else the Queue trap (R281, R406). -/
def State.queueTrap (s : State) (e : AccessErr) : QueueStep :=
  match e with
  | .link => .trap s clMachine 3
  | _ => .trap s clQueue 3
/-- An entry's eight bytes can be written. -/
def State.entryWrite (s : State) (p : Nat) (va : DWord) (k : QueueStep) : QueueStep :=
  match s.checkWriteVa p none va 8 with
  | .ok _ => k
  | .error e => (s.translatedAll p none va 8).queueTrap e.2
/-- What a push or a pop does at a home that holds the descriptor `d` (R280, R281): `det` is what the push of a deterministic
launch brings, and `store` asks whether the descriptor can be written. A push to a queue that the launch record does not name
traps with detail 2 whatever the descriptor's other fields hold, as QUOTA is 0 there (R279). -/
def State.queueStep (s : State) (p : Nat) (push : Bool) (det : Option DetPush) (d : QDesc) (store : State → QueueStep → QueueStep) :
    QueueStep :=
  if det.any (fun x => !x.named) then .trap s clQueue 2
  else if !d.ok push det.isSome then .trap s clQueue 3
  else if det.any (fun x => decide (d.quota ≤ x.before)) then .trap s clQueue 1
  else if push then
    let t := match det with
      | some x => d.tbase + BitVec.ofNat 32 (x.log * d.quota + x.before)
      | none => d.pushc
    s.entryWrite p (d.entry t) (store s (if (t - d.popc).toNat < d.cap then .go s d t [] else .wait s))
  else match s.readVa p none (d.entry d.popc) 8 with
    | .error e => (s.readTrace p none (d.entry d.popc) 8).queueTrap e.2
    | .ok (e, s) =>
      store s (if bytesAt e 4 4 / 4 = d.popc.toNat % 2 ^ 30 ∧ bytesAt e 4 4 % 4 ≠ 0 then .go s d d.popc e else .wait s)
/-- What a push of the workgroup brings in a deterministic launch; a DQ field of 0 names no queue (R355). -/
def detPush (l : Launch) (w : Workgroup) (va : DWord) : Option DetPush :=
  if l.det = 0 then none
  else some { named := va != 0 && l.dq.contains va, log := w.log, before := Tbl.get 0 w.pushes (l.dq.idxOf va) }
/-- The home looks at a queue for a push or a pop of a thread (R280, R281). -/
def State.queueLook (s : State) (q : Req) (w : Workgroup) (l : Launch) : QueueStep :=
  let push := q.kind == .push
  if q.va.toNat % 64 ≠ 0 then .trap s clQueue 3
  else match s.readVa l.part none q.va 64 with
    | .error e => (s.readTrace l.part none q.va 64).queueTrap e.2
    | .ok (b, s) => s.queueStep l.part push (if push then detPush l w q.va else none) (qdescOf b) (fun s k =>
        match s.checkWriteVa l.part none q.va 64 with
        | .ok _ => k
        | .error e => (s.translatedAll l.part none q.va 64).queueTrap e.2)
/-- The home looks at a queue for a push or a pop of a peer. DEDUCED (log entry 44): RING is looked up in the tree of the
partition that owns the descriptor's frame. -/
def State.peerLook (s : State) (x : PeerOp) : QueueStep :=
  if x.off % 64 ≠ 0 then .trap s clQueue 3
  else if s.memPoisoned x.off 64 then .trap (s.l2Read x.off 64) clQueue 3
  else match s.frameOwner (frameOf x.off) with
    | none => .trap s clQueue 3
    | some p =>
      let r := s.memFetch x.off 64
      r.2.queueStep p x.push x.det (qdescOf r.1) (fun _ k => k)
def QueueStep.isGo (k : QueueStep) : Bool :=
  match k with
  | .go _ _ _ _ => true
  | _ => false
/-- Whether an operation can be performed now. -/
def State.queueReady (s : State) (q : Req) : Bool :=
  match (s.wgOf q.thread).bind (fun w => (s.launchOf w).map (fun l => (w, l))) with
  | some (w, l) => (s.queueLook q w l).isGo
  | none => false
/-- The queue that a thread's operation names, by the physical address of its descriptor (R279, R315). -/
def State.queueOf (s : State) (q : Req) : Option Nat :=
  (s.wgOf q.thread).bind (fun w => (s.launchOf w).bind (fun l => ((s.translate l.part none q.va.toNat).toOption).map (·.pa)))
/-- R167, R319, R280: parked operations of the queue, those of peers among them, that came before one which has not parked, and
in the order of their parking, are served first where they can be performed. -/
def State.parkedFirst (s : State) (id : Nat) (parked : Bool) (place : Option Nat) : Bool :=
  let first := fun (k : Nat) => k != id && (!parked || decide (k < id))
  s.reqs.all (fun e => !(first e.1 && (e.2.kind == .push || e.2.kind == .pop) && e.2.parked && s.queueOf e.2 == place && s.queueReady e.2))
    && s.peerOps.all (fun e => !(first e.1 && place == some e.2.off && (s.peerLook e.2).isGo))
/-- The turn of a thread's operation: in a deterministic launch the pushes of one workgroup to one queue go in issue order. -/
def State.queueTurn (s : State) (id : Nat) (q : Req) (det : Bool) : Bool :=
  s.parkedFirst id q.parked (s.queueOf q)
    && s.reqs.all (fun e => e.1 == id || !(det && q.kind == .push && e.2.kind == .push && e.2.va == q.va && e.2.thread.wg == q.thread.wg
      && decide (e.2.addr < q.addr)))
/-- QPUSH releases at core scope: the thread's earlier accesses are performed (R297). -/
def State.pushReleased (s : State) (q : Req) : Bool :=
  q.kind != .push || match s.thread q.thread with
    | some t => t.loaded && t.stored
    | none => true
/-- The entry of a performed push, its ticket, and the thread's result (R280). -/
def State.pushDo (s : State) (q : Req) (w : Workgroup) (l : Launch) (d : QDesc) (t : Word) : State :=
  let write := fun (s : State) (va : DWord) (bs : List Byte) => (s.tryWrite l.part none va bs (some w.core)).2
  let s := write s (d.entry t) (qEntry (q.args.getD 0 0) t 1)
  let s := if 1 ≤ l.det then s.onWg q.thread.wg (fun w =>
      let k := l.dq.idxOf q.va
      { w with pushes := Tbl.put 0 w.pushes k (Tbl.get 0 w.pushes k + 1) })
    else write s (q.va + 20) (leBytes 4 (d.pushc + 1).toNat)
  s.onThread q.thread (fun u => (u.setV q.dest t).advance)
/-- The line of an entry, for its writer mark (R292). -/
def State.markOfVa (s : State) (p : Nat) (va : DWord) : Option Nat :=
  match s.translate p none va.toNat with
  | .ok x => Tbl.find s.marks (x.pa / 128)
  | .error _ => none
/-- A performed pop: VALUE and KIND, the next ticket, and the acquire at device scope (R280, R297). -/
def State.popDo (s : State) (q : Req) (w : Workgroup) (l : Launch) (d : QDesc) (e : List Byte) : State :=
  let s := (s.gather w.core (s.markOfVa l.part (d.entry d.popc))).acquireWide w.core
  let s := (s.tryWrite l.part none (q.va + 24) (leBytes 4 (d.popc + 1).toNat) (some w.core)).2
  s.onThread q.thread (fun u =>
    ((u.setV q.dest (BitVec.ofNat 32 (bytesAt e 0 4))).setV (q.dest + 1) (BitVec.ofNat 32 (bytesAt e 4 4 % 4))).advance)
/-- A queue operation leaves its home with a result or a trap; its return slot is free (R318). -/
def State.queueOut (s : State) (id : Nat) (q : Req) : State := (s.freeReturn q.thread).dropReq id
/-- Park an operation in arrival order (R280, R319). -/
def State.queuePark (s : State) (id : Nat) (q : Req) : State :=
  if q.parked then s
  else
    let (new, s) := s.takeId
    { s.onThread q.thread (fun t => { t with stall := .request new }) with
      reqs := Tbl.insert (Tbl.erase s.reqs id) new { q with parked := true } }
/-- A push or pop reaches its home, or is looked at again while parked (R280, R281). -/
def State.queueServe (s : State) (id : Nat) (q : Req) : State :=
  match s.thread q.thread, s.wgOf q.thread with
  | some t, some w => match s.launchOf w with
    | none => s
    | some l =>
      if !s.pushReleased q then s
      else match s.queueLook q w l with
        | .trap s c d =>
          let s := (s.queueOut id q).onThread t.ref (fun u => { u with stall := .none })
          if c == clQueue then s.trapWord t c d else s.trapData t c d q.va
        | .wait s => s.queuePark id q
        | .go s' d ticket e =>
          if !s.queueTurn id q (decide (1 ≤ l.det)) then s'.queuePark id q
          else if q.kind == .push then (s'.queueOut id q).pushDo q w l d ticket
          else (s'.queueOut id q).popDo q w l d e
  | _, _ => s
/-- A peer's push or pop is performed: the entry and PUSHC, or POPC, and the result (R280). -/
def State.peerDo (s : State) (x : PeerOp) (d : QDesc) (t : Word) (e : List Byte) : State :=
  let count := fun (s : State) (k : Nat) (v : Word) => s.memEngine (x.off + k) (leBytes 4 v.toNat) none
  if x.push then
    let s := match s.frameOwner (frameOf x.off) with
      | some p => (s.tryWrite p none (d.entry t) (qEntry x.value t 1) none).2
      | none => s
    (if x.det.isSome then s else count s 20 (d.pushc + 1)).send (.peerResult x.dev x.off (leBytes 4 t.toNat))
  else (count s 24 (d.popc + 1)).send (.peerResult x.dev x.off (e.take 4 ++ leBytes 4 (bytesAt e 4 4 % 4)))
/-- A peer's push or pop reaches its home, or, parked, is looked at again (R280, R281, R319, R404). -/
def State.peerServe (s : State) (id : Nat) (parked : Bool) (x : PeerOp) : State :=
  let out := fun (s : State) => { s with peerOps := Tbl.erase s.peerOps id }
  let park := fun (s : State) => if parked then s else { s.takeId.2 with peerOps := Tbl.insert s.peerOps s.nextId x }
  match s.peerLook x with
  | .trap s c d => (out s).send (.peerTrap x.dev x.off c d)
  | .wait s => park s
  | .go s' d t e => if s.parkedFirst id parked (some x.off) then (out s').peerDo x d t e else park s'
/-- A parked push or pop of a peer is looked at again. -/
def State.peerAgain (s : State) (id : Nat) (push : Bool) : State :=
  match Tbl.find s.peerOps id with
  | some x => if x.push == push then s.peerServe id true x else s
  | none => s
/-- R280, R319. -/
def execQueuePushServe (req : Nat) (s : State) : Out :=
  match Tbl.find s.reqs req with
  | some q => if q.kind == .push then .next (s.queueServe req q).settleTraps else .next s
  | none => .next (s.peerAgain req true)
/-- R280, R319. -/
def execQueuePopServe (req : Nat) (s : State) : Out :=
  match Tbl.find s.reqs req with
  | some q => if q.kind == .pop then .next (s.queueServe req q).settleTraps else .next s
  | none => .next (s.peerAgain req false)

/-! RND (R285) -/

/-- RA(n) and RB(n). -/
def rndRot (n : Nat) : Nat × Nat :=
  match n with
  | 0 => (16, 12)
  | 1 => (12, 7)
  | 2 => (8, 16)
  | 3 => (7, 8)
  | 4 => (13, 9)
  | 5 => (17, 3)
  | 6 => (5, 14)
  | _ => (11, 6)
/-- One round on x0 to x3. -/
def rndRound (k0 k1 : Word) (x : Word × Word × Word × Word) (n : Nat) : Word × Word × Word × Word :=
  let (x0, x1, x2, x3) := x
  let x0 := x0 + x1 + (if n % 2 = 0 then k0 else k1)
  let x3 := (x3 ^^^ x0).rotateLeft (rndRot n).1
  let x2 := x2 + x3 + BitVec.ofNat 32 (n + 1) * 0x9E3779B9
  let x1 := (x1 ^^^ x2).rotateLeft (rndRot n).2
  (x0, x1, x2, x3)
/-- The counter generator of R285. -/
def rndValue (genid log tid draw : Word) (seed : DWord) : Word :=
  let x := (List.range 8).foldl (rndRound (fieldOf seed 31 0) (fieldOf seed 63 32)) (genid, log, tid, draw)
  x.1 ^^^ x.2.2.1
/-- GENID: 0 selects %launch. -/
def Launch.generator (l : Launch) (lid : Nat) : Word := if l.genid = 0 then BitVec.ofNat 32 lid else l.genid
/-- R285. -/
def execRnd (vd : VReg) (s : State) : Out :=
  issueThread (.rnd vd) (fun t w =>
    let (g, seed) := match s.launchOf w with
      | some l => (l.generator w.launch, l.seed)
      | none => (0, 0)
    { t.setV vd.toNat (rndValue g (BitVec.ofNat 32 w.log) (BitVec.ofNat 32 t.ref.tid) t.draw seed) with draw := t.draw + 1 }) s

/-! Digest (R284) -/

/-- Digest mode RECORD or CHECK. -/
def State.digests (s : State) (w : Workgroup) : Bool := ((s.launchOf w).map (fun l => decide (2 ≤ l.det))).getD false
/-- R284. -/
def execDgstRead (vd : VReg) (s : State) : Out :=
  issueLanes (.dgstRead vd) (fun t w s =>
    s.onThread t.ref (fun u => (u.setPair vd.toNat (if s.digests w then w.digest else 0)).advance)) s
/-- R284: elected. -/
def execDgstFold (va : VReg) (s : State) : Out :=
  issueElected (.dgstFold va) (fun t w refs s =>
    let s := s.advanceAll refs
    if s.digests w then s.onWg t.ref.wg (fun w => { w with digest := w.digest + t.getPair va.toNat }) else s) s

/-! Collectives (R286) -/

/-- ARED 0, AGATH 1, BCAST 2. -/
def collKind (i : Instr) : Nat :=
  match i with
  | .ared _ _ _ => 0
  | .agath _ _ _ => 1
  | _ => 2
def collLen (b : List Byte) : Nat := bytesAt b 8 4
/-- The block's fields are within R286, for a team of m workgroup members. -/
def collOk (kind m : Nat) (b : List Byte) : Bool :=
  bytesAt b 0 4 % 16 == 0 && bytesAt b 4 4 % 16 == 0 && collLen b % 16 == 0 && decide (16 ≤ collLen b) && decide (collLen b ≤ 65536)
    && (kind != 1 || decide (m * collLen b ≤ 262144))
    && (if kind = 0 then decide (blk b 12 ≤ 8) else blk b 12 == 0) && decide (blk b 13 < 4)
    && (if kind = 2 then decide (blk b 14 < m) else blk b 14 == 0) && blk b 15 == 0
/-- The key of the j-th collective of a team. -/
def collKey (launch team j : Nat) : Nat := teamKey launch team * 2 ^ 32 + j
/-- Record a member's operation as its next collective of the team. -/
def State.joinColl (s : State) (g : Nat) (w : Workgroup) (team id : Nat) : State :=
  let j := Tbl.get 0 w.colls team
  let key := collKey w.launch team j
  let c := Tbl.get { ops := [] } s.colls key
  { s.onWg g (fun w => { w with colls := Tbl.put 0 w.colls team (j + 1) }) with
    colls := Tbl.insert s.colls key { ops := Tbl.insert c.ops w.log id } }
/-- The workgroup members of a team, on any device, in rank order. -/
def ranksOf (l : Launch) (team : Nat) : List MemberWord := (Tbl.get [] l.teams team).filter (fun m => m.kind == 0)
/-- Issue a collective (R286): elected; the block is read at issue (R216). -/
def issueColl (i : Instr) (hd : HReg) (va : VReg) (s : State) : Out :=
  issueElected i (fun t w refs s => s.withBlock t refs va 16 16 (fun _ _ b =>
    let m := w.team (blk b 13 % 4)
    let op := { s.threadOp i t w 0 with block := b, pa := (t.getV va.toNat).toNat }
    let ranks := match s.launchOf w with
      | some l => (ranksOf l (teamIndex m)).length
      | none => 0
    if !teamValid m then s.trapRefs refs clTeam 0
    else if !collOk (collKind i) ranks b then s.issueDone op hd refs stParam
    else
      let id := s.nextId
      (s.issueFor op hd refs).joinColl t.ref.wg w (teamIndex m) id)) s
/-- R286. -/
def execAred (hd : HReg) (tag : Tag) (va : VReg) (s : State) : Out := issueColl (.ared hd tag va) hd va s
/-- R286. -/
def execAgath (hd : HReg) (tag : Tag) (va : VReg) (s : State) : Out := issueColl (.agath hd tag va) hd va s
/-- R286. -/
def execBcast (hd : HReg) (tag : Tag) (va : VReg) (s : State) : Out := issueColl (.bcast hd tag va) hd va s

/-- The operations of R171 by the OP code of ARED. -/
def redOf (n : Nat) : RedOp :=
  match n with
  | 0 => .add
  | 1 => .fadd
  | 2 => .min
  | 3 => .max
  | 4 => .minu
  | 5 => .maxu
  | 6 => .and
  | 7 => .or
  | _ => .xor
/-- Element e of the members' contributions, folded in ascending rank. -/
def foldRanks (op : RedOp) (srcs : List (List Byte)) (e : Nat) : Word :=
  let w := fun (b : List Byte) => BitVec.ofNat 32 (bytesAt b (4 * e) 4)
  match srcs with
  | [] => 0
  | b :: rest => rest.foldl (fun a x => redNew op a (w x)) (w b)
/-- What every member's DST receives (R286). -/
def collResult (kind : Nat) (b : List Byte) (srcs : List (List Byte)) : List Byte :=
  match kind with
  | 0 => (List.range (collLen b / 4)).flatMap (fun e => leBytes 4 (foldRanks (redOf (blk b 12)) srcs e).toNat)
  | 1 => srcs.flatten
  | _ => srcs.getD (blk b 14) []
/-- A member's contribution, read wholly; an error in its own access has failed it before (R286, R375). -/
def State.collSource (s : State) (op : Op) : Except Byte (List Byte) :=
  if op.failed ≠ 0 then .error (BitVec.ofNat 8 op.failed)
  else match s.checkNear op.wg false (BitVec.ofNat 32 (bytesAt op.block 0 4)) (collLen op.block) 16 with
  | .error e => .error e.status
  | .ok (key, _) => if s.nearPoisoned key (collLen op.block) then .error stPoison else .ok (s.nearRead key (collLen op.block))
/-- A member's result is written, or its own access fails. -/
def State.collWrite (s : State) (id : Nat) (op : Op) (bs : List Byte) : State :=
  match s.checkNear op.wg false (BitVec.ofNat 32 (bytesAt op.block 4 4)) bs.length 16 with
  | .error e => s.completeOp id e.status
  | .ok (key, _) => (s.opNear op.wg key bs op.quiet).completeOp id stOK
/-- Complete every operation with a status. -/
def State.completeAll (s : State) (ops : List (Nat × Op)) (st : Byte) : State := ops.foldl (fun s e => s.completeOp e.1 st) s
/-- All members have issued: the checks, the contributions, the results (R286). Where a contribution fails, the spec gives
the status of that member only; the others' is a free value (log entry 1). -/
def State.collRun (s : State) (ops : List (Nat × Op)) : State :=
  let same := fun (f : Op → Nat) => match ops with
    | [] => true
    | e :: t => t.all (fun x => f x.2 == f e.2)
  let head := (ops.map (fun e => (collKind e.2.instr, e.2.block))).getD 0 (0, [])
  if !(same (fun o => collKind o.instr) && same (fun o => blk o.block 12) && same (fun o => collLen o.block) && same (fun o => blk o.block 14)) then
    s.completeAll ops stParam
  else
    let srcs := ops.map (fun e => s.collSource e.2)
    if srcs.any (fun r => match r with
        | .error _ => true
        | .ok _ => false) then
      (ops.zip srcs).foldl (fun s e => match e.2 with
        | .error st => s.completeOp e.1.1 st
        | .ok _ =>
          let (w, s) := s.freshWord
          s.completeOp e.1.1 (fieldOf w 7 0)) s
    else
      let bytes := srcs.filterMap (fun r => match r with
        | .ok b => some b
        | .error _ => none)
      ops.foldl (fun s e => s.collWrite e.1 e.2 (collResult head.1 head.2 bytes)) s
/-- R286: complete once every member has issued; at once where a member retired without, or its device is out of reach. A
contribution of another device is not of this machine (log entry 9). -/
def execCollectiveCompletion (launch team idx : Nat) (s : State) : Out :=
  let key := collKey launch team idx
  match Tbl.find s.colls key, s.launch launch with
  | some c, some l =>
    let own := s.mgmt.orbitDev.toNat
    let ranks := ranksOf l team
    let found := ranks.filterMap (fun m => if m.dev == own then (Tbl.find c.ops m.index).bind (fun id =>
      (Tbl.find s.ops id).map (fun o => (id, o))) else none)
    let held := fun (i : Nat) => ((Tbl.find c.ops i).bind (fun id => Tbl.find s.ops id)).isSome
    let gone := ranks.any (fun m => m.dev == own && !held m.index && l.retired.contains m.index)
    let lost := ranks.any (fun m => m.dev != own && s.peerLost m.dev)
    let done := fun (s : State) => { s with colls := Tbl.erase s.colls key }
    if gone then .next (done (s.completeAll found stTargetGone))
    else if lost then .next (done (s.completeAll found stLink))
    else if ranks.all (fun m => m.dev == own && held m.index) then .next (done (s.collRun found))
    else .next s
  | _, _ => .next s

/-! The end of a thread -/

/-- R40, R370: the operations of an exiting thread have completed. -/
def execExitCompletion (r : ThreadRef) (s : State) : Out :=
  match s.thread r with
  | none => .next s
  | some t =>
    if t.stall = .exiting ∧ t.saved = false ∧ t.ops = [] ∧ t.outSt = [] ∧ t.outLd = [] then
      .next (s.threadEnd r (t.handler && t.hclass == clPreempt)).settleTraps
    else .next s

end Sys2Proof.Machine
end

