-- ==== Sys2Proof/Machine/Schedule.lean ====
section
/-! DEFINITION. Scheduling: issue-group formation (R149-R153), the instruction cache's fills (R311), pre-emption (R233,
R367-R370), packets, admission and refusal (R351-R359, R373, R419), arbitration and restores (R361-R365, R390, R391), completion
(R283, R360), self-test (R371, R393-R395) and the scheduling registers that software writes (R352, R370, R391). -/
namespace Sys2Proof.Machine

/-! Issue groups -/

/-- R149: the thread's next word can issue. -/
def State.threadReady (s : State) (t : Thread) : Bool :=
  !t.exited && !t.saved && t.holdoff == 0 && match t.stall, s.wgOf t.ref with
    | .none, _ => true
    | .again i, some w => !s.blocked t w i
    | .control i, some w => s.controlReady t w i
    | _, _ => false
/-- The threads of a quarter. -/
def State.quarterThreads (s : State) (core q : Nat) : List Thread :=
  (Tbl.vals s.threads).filter (fun t => !t.exited && match s.wgOf t.ref with
    | some w => w.core == core && w.quarter == q
    | none => false)
def State.laneOfRef (s : State) (r : ThreadRef) : Nat := ((s.wgOf r).map (fun w => w.laneOf r.tid)).getD 0
def State.rowOfRef (s : State) (r : ThreadRef) : Nat := ((s.wgOf r).map (fun w => w.row r.tid)).getD 0
def State.partOfRef (s : State) (r : ThreadRef) : Nat := ((s.wgOf r).map (fun w => s.partOf w)).getD 0
/-- Of two threads, the one that has been ready longer; on a tie the lower row (R151). DESIGN CHOICE (log entry 42): two
threads of different workgroups that tie on both have no order in the spec; the lower workgroup number, then the lower
thread index, comes first. -/
def State.elder (s : State) (a b : Thread) : Thread :=
  if b.since < a.since ∨ (b.since = a.since ∧ s.rowOfRef b.ref < s.rowOfRef a.ref) then b else a
/-- An entry of the grouping table: its key and its ready threads (R150). -/
structure Entry where
  pc      : Pc
  part    : Nat
  threads : List Thread
  deriving DecidableEq, Repr
def Entry.since (e : Entry) : Nat := e.threads.foldl (fun m t => min m t.since) ((e.threads.head?.map (·.since)).getD 0)
def Entry.yields (e : Entry) : Bool := e.threads.any (·.yield)
/-- Whether an entry has a thread's key. -/
def Entry.hasKey (e : Entry) (pc : Pc) (part : Nat) : Bool := e.pc == pc && e.part == part
/-- A thread joins the entry with its key, or allocates one. -/
def joinEntry (l : List Entry) (t : Thread) (p : Nat) : List Entry :=
  if l.any (fun e => e.hasKey t.pc p) then l.map (fun e => if e.hasKey t.pc p then { e with threads := e.threads ++ [t] } else e)
  else l ++ [{ pc := t.pc, part := p, threads := [t] }]
/-- A thread into a list by the cycle at which it became ready; of equal ones, the earlier in the list first. -/
def insertReady (t : Thread) (l : List Thread) : List Thread :=
  match l with
  | [] => [t]
  | x :: r => if t.since < x.since then t :: x :: r else x :: insertReady t r
/-- The grouping table of a quarter for its ready threads (R150): the entries of the threads that are listed; then the
threads of the lanes' wait lists, oldest first, each while an entry is free; then those that have become ready, in order,
each into the entry with its key, or a free one of the 256. The others wait. -/
def State.entries (s : State) (ready : List Thread) : List Entry :=
  let of := fun (g : Grouping) => ready.filter (fun t => t.grouping == g)
  let l := (of .listed).foldl (fun l t => joinEntry l t (s.partOfRef t.ref)) ([] : List Entry)
  let l := ((of .waiting).foldl (fun a t => insertReady t a) []).foldl (fun (l : List Entry) t =>
    if l.length < 256 then joinEntry l t (s.partOfRef t.ref) else l) l
  ((of .out).foldl (fun a t => insertReady t a) []).foldl (fun (l : List Entry) t =>
    if l.length < 256 ∨ l.any (fun e => e.hasKey t.pc (s.partOfRef t.ref)) = true then joinEntry l t (s.partOfRef t.ref) else l) l
/-- The lanes of an entry, rising. -/
def State.entryLanes (s : State) (e : Entry) : List Nat := e.threads.foldl (fun l t => setInsert l (s.laneOfRef t.ref)) []
/-- Whether entry b is selected before entry a (R151 step 1). -/
def State.entryBefore (s : State) (a b : Entry) : Bool :=
  if b.yields != a.yields then !b.yields
  else if b.since ≠ a.since then decide (b.since < a.since)
  else
    let la := (s.entryLanes a).length
    let lb := (s.entryLanes b).length
    if la ≠ lb then decide (la < lb) else decide (b.pc.toNat < a.pc.toNat)
/-- The threads of an entry that an elected word takes: one row a workgroup (R153). -/
def State.oneRow (s : State) (l : List Thread) : List Thread :=
  l.filter (fun t =>
    let mates := l.filter (fun u => u.ref.wg == t.ref.wg)
    s.rowOfRef t.ref == s.rowOfRef (mates.foldl s.elder (mates.headD t)).ref)
/-- The issue group of an entry: on each lane the thread ready longest (R151 step 2, R153). -/
def State.groupOf (s : State) (core : Nat) (e : Entry) : List ThreadRef :=
  let elected := match s.fetchAt e.part core e.pc with
    | .word w => match decode w with
      | .ok i => isElected i
      | .error _ => false
    | _ => false
  let l := if elected then s.oneRow e.threads else e.threads
  (s.entryLanes { e with threads := l }).filterMap (fun x =>
    match l.filter (fun t => s.laneOfRef t.ref == x) with
    | t :: rest => some (rest.foldl s.elder t).ref
    | [] => none)
/-- A cycle of a quarter passes: holdoffs run (R102), a thread that is not ready has been ready for no cycle, and the
others stand in the table or on their lanes' wait lists (R150). -/
def State.tickThreads (s : State) (ts : List Thread) (es : List Entry) (now : Nat) : State :=
  let listed := fun (r : ThreadRef) => es.any (fun e => e.threads.any (fun t => t.ref == r))
  ts.foldl (fun s t => s.onThread t.ref (fun u =>
    if s.threadReady t then { u with holdoff := u.holdoff - 1, grouping := if listed t.ref then .listed else .waiting }
    else { u with holdoff := u.holdoff - 1, since := now + 1, grouping := .out })) s
/-- A selection has been made: the yields of the entries have lost it (R102, R151), and the members are on their way. -/
def State.selected (s : State) (es : List Entry) (members : List ThreadRef) (now : Nat) : State :=
  let s := es.foldl (fun s e => e.threads.foldl (fun s t => s.onThread t.ref (fun u => { u with yield := false })) s) s
  members.foldl (fun s r => s.onThread r (fun u => { u with since := now + 1, grouping := .out })) s
/-- R151: one issue group of a quarter, or the next word of an engine role. -/
def execIssueGroupFormation (u : IssueUnit) (s : State) : Out :=
  match u with
  | .engine l tm r => match s.roleAt l tm r with
    | some (role, _, _) =>
      if s.engineReady l tm r then .next { s with issue := some { unit := u, pc := role.pc, members := [] } } else .next s
    | none => .next s
  | .quarter core q =>
    let now := (s.core core).cyc.toNat
    let all := s.quarterThreads core q
    let es := s.entries (all.filter s.threadReady)
    let s1 := (s.tickThreads all es now).onCore core (fun c => { c with cyc := c.cyc + 1 })
    match es with
    | [] => .next s1
    | e :: rest =>
      let best := rest.foldl (fun a b => if s.entryBefore a b then b else a) e
      let refs := s.groupOf core best
      let s1 := s1.selected es refs now
      .next { s1 with issue := some { unit := u, pc := best.pc, members := refs } }
/-- R102: a holdoff has run out. -/
def execSchedHoldoffExpiry (r : ThreadRef) (s : State) : Out :=
  match s.thread r with
  | some t => if t.holdoff ≤ 1 then .next (s.onThread r (fun u => { u with holdoff := 0 })) else .next s
  | none => .next s

/-! Instruction cache (R311) -/

/-- Whether a fetch of a partition on a core waits for a physical line. -/
def State.fetchWaits (s : State) (part core : Nat) (pc : Pc) (line : Nat) : Bool :=
  match s.tlbLook part core pc.toNat with
  | some x => x.pa / 128 == line
  | none => false
def State.threadFetchWaits (s : State) (cluster line : Nat) (t : Thread) : Bool :=
  t.stall == .fetch && match s.wgOf t.ref with
    | some w => clusterOf w.core == cluster && s.fetchWaits (s.partOf w) w.core t.pc line
    | none => false
/-- Engine roles whose fetch waits for the line: launch, team and role. -/
def State.rolesFetching (s : State) (cluster line : Nat) : List (Nat × Nat × Nat) :=
  s.streams.flatMap (fun st => st.2.roles.filterMap (fun e =>
    match s.resident (st.1 / 256) e.2.host with
    | some g => match s.wg g with
      | some w => if e.2.stall == .fetch && clusterOf w.core == cluster && s.fetchWaits (s.partOf w) w.core e.2.pc line
          then some (st.1 / 256, st.1 % 256, e.1) else none
      | none => none
    | none => none))
/-- R311: a missing line arrives, and the fetches that wait for it go on. -/
def execInstructionCacheFill (cluster line : Nat) (s : State) : Out :=
  let ts := (Tbl.vals s.threads).filter (s.threadFetchWaits cluster line)
  let rs := s.rolesFetching cluster line
  if ts.isEmpty && rs.isEmpty then .next s
  else
    let s := s.icacheFill cluster line
    let s := ts.foldl (fun s t => s.onThread t.ref (fun u => { u with stall := .none })) s
    .next (rs.foldl (fun s r => s.onRole r.1 r.2.1 r.2.2 (fun x => { x with stall := .none })) s)

/-! Pre-emption (R233, R367-R370) -/

/-- A live thread that the pre-emption trap would stop: one that has not taken it (R269, R370). -/
def Thread.unstopped (t : Thread) : Bool := !(t.handler && t.hclass == clPreempt)
/-- Whether the workgroup hosts an engine role of an open instance (R265). -/
def State.hostsOpen (s : State) (w : Workgroup) : Bool :=
  s.streams.any (fun e => e.1 / 256 == w.launch && e.2.roles.any (fun r => r.2.host == w.log))
/-- Operations of the workgroup that the trap waits for: every MV, and for a workgroup with tiles or slots every matrix
operation (R233, R345, R369). -/
def State.preemptWaitsOp (s : State) (g : Nat) (all : Bool) : Bool :=
  s.ops.any (fun e => e.2.wg == g && match e.2.instr with
    | .mv _ _ _ _ _ _ => true
    | i => all && isTileOp i)
/-- A request of the workgroup that the trap waits for: all but a full/empty operation and a parked push or pop, which are
withdrawn. The device-scope release before the trap waits for the loads and the stores (R293, R299). -/
def State.preemptWaitsReq (s : State) (g : Nat) : Bool :=
  s.reqs.any (fun e => e.2.thread.wg == g && !e.2.kind.isFullEmpty && !((e.2.kind == .push || e.2.kind == .pop) && e.2.parked))
/-- Whether the core can raise the trap now. A load to v0 to v3 that is still outstanding is waited for, since the trap writes
these registers (R34, R183; log entry 44). -/
def State.canPreempt (s : State) (g : Nat) (w : Workgroup) : Bool :=
  let live := s.live g
  let targets := live.filter Thread.unstopped
  let mx := s.holdsMx g w
  w.preempt.isSome && !targets.isEmpty && targets.all (fun t => !t.handler && !t.owesEarly && t.stall != .exiting && (!mx || t.stall == .point))
    && !s.hostsOpen w && !s.preemptWaitsOp g mx && !s.preemptWaitsReq g
/-- The save header of a workgroup (R369). -/
def State.headerFor (s : State) (g : Nat) (w : Workgroup) : Header :=
  let c := s.core w.core
  let bits := fun (n : Nat) (p : Nat → Bool) => (List.range n).foldl (fun (a : BitVec 8) i => if p i then a ||| (1#8 <<< i) else a) 0
  { shape := { width := w.width, depth := w.depth, nregs := w.nregs, calls := w.calls, near := w.near, tiles := w.tiles },
    bars := bits 4 (fun i => (s.live g).any (fun t => t.bars.getLsbD i)),
    books := bits 4 (fun i => (c.book i).owner == some g), slots := bits 8 (fun i => c.owns g i),
    live := ((w.preempt.map (·.live)).getD 0), version := 1, zeros := true }
/-- The save area of a workgroup (R369). -/
def Launch.saveArea (l : Launch) (log : Nat) : DWord := l.saveAt + BitVec.ofNat 64 (log * l.saveSz)
/-- Where a thread resumes: after its PPT, or at the word or run it had reached (R104, R268). -/
def Thread.preemptResume (t : Thread) : Pc := if t.stall = .point then t.pc + 4 else t.resumePc
/-- What a thread waited for is withdrawn: it is evaluated afresh when the thread comes back (R169, R183, R188, R265, R328). -/
def State.withdrawWaits (s : State) (g : Nat) (core : Nat) (refs : List ThreadRef) : State :=
  let gone : List (Nat × Req) := s.reqs.filter (fun e => refs.contains e.2.thread && (e.2.kind.isFullEmpty || e.2.kind == .push || e.2.kind == .pop))
  let s := gone.foldl (fun (s : State) (e : Nat × Req) =>
    let s := (s.dropReq e.1).onThread e.2.thread (fun u => u.dropReq e.2)
    if e.2.kind.returning then s.freeReturn e.2.thread else s) s
  let s := { s with ops := s.ops.filter (fun e => !(e.2.wg == g && e.2.phase == 4 && (match e.2.instr with
                      | .cmpkSparse _ _ _ => true
                      | _ => false))),
                    reserves := s.reserves.filter (fun r => r.peer.isSome || !refs.contains r.thread),
                    parts := s.parts.map (fun (e : Nat × Partition) => (e.1, e.2.dropWaits refs.contains)) }
  let s := refs.foldl (fun s r => s.onThread r (fun u => { u with stall := .none })) s
  (s.onCore core (fun c => { c with claims := c.claims.filter (fun e => e.1 != g) })).claimCheck core
/-- Whether a page or a line of a save area is poisoned (R369). -/
def State.vaPoisoned (s : State) (p : Nat) (via : Option Nat) (va : DWord) (n : Nat) : Bool :=
  (pagePieces (n / 4096 + 2) va.toNat n).any (fun e => match s.engineVa p via (BitVec.ofNat 64 e.1) e.2 true with
    | .ok x => x.poison || s.memPoisoned x.pa e.2
    | .error _ => false)
/-- Write the save header, unless the area is poisoned: whether it was written (R369). -/
def State.saveHeader (s : State) (g : Nat) (w : Workgroup) (l : Launch) : Bool × State :=
  if s.vaPoisoned l.part (some w.core) (l.saveArea w.log) 64 then (false, s.translatedAll l.part (some w.core) (l.saveArea w.log) 64)
  else s.tryWrite l.part (some w.core) (l.saveArea w.log) (s.headerFor g w).bytes (some w.core)
/-- R233 step 3, R369: the release, the header, then the trap in every thread that has not taken it. -/
def State.preemptTrap (s : State) (g : Nat) (w : Workgroup) (l : Launch) : State :=
  let targets := (s.live g).filter Thread.unstopped
  let s := s.releaseCore w.core
  match s.saveHeader g w l with
  | (false, s) => s.terminateWg g
  | (true, s) =>
    let mask := ((w.preempt.map (fun (p : Preempt) => p.live)).getD 0).zeroExtend 32
    let s := targets.foldl (fun s t => s.raise t.ref clPreempt 0 mask 0 t.preemptResume) s
    let s := s.withdrawWaits g w.core (targets.map (·.ref))
    let now := (s.core w.core).cyc.toNat
    s.onWg g (fun w => { w with preempt := w.preempt.map (fun p => { p with taken := true, since := now }) })
/-- R233, R369. -/
def execPreemptionTrap (g : Nat) (s : State) : Out :=
  match s.wg g with
  | none => .next s
  | some w => match s.launchOf w with
    | none => .next s
    | some l => if s.canPreempt g w then .next (s.preemptTrap g w l).settleTraps else .next s
/-- R368: a workgroup not stopped within the bound is terminated. -/
def execPreemptionTermination (g : Nat) (s : State) : Out :=
  match s.wg g with
  | none => .next s
  | some w => match w.preempt with
    | none => .next s
    | some p =>
      if (s.live g).any Thread.unstopped ∧ s.mgmt.preBound ≤ (s.core w.core).cyc.toNat - p.since then
        .next ((s.onPart (s.partOf w) (fun x => { x with preTerm := x.preTerm + 1 })).terminateWg g).settleTraps
      else .next s
/-- A pre-emption request reaches a workgroup, unless one is pending. -/
def State.requestPreempt (s : State) (g : Nat) (policy : Bool) : State :=
  s.onWg g (fun w => if w.preempt.isSome then w
    else { w with preempt := some { since := (s.core w.core).cyc.toNat, byPolicy := policy, taken := false, live := 0 } })

/-! Packets (R353, R354) -/

/-- Set ERR of a queue, and the QERR interrupt (R352, R356, R403). -/
def State.queueErr (s : State) (n : Nat) : State :=
  let s := s.onQueue n (fun q => { q with err := true })
  match (s.queue n).owner with
  | some p => s.irqPart p 2
  | none => s
def packetRecord (b : List Byte) : DWord := BitVec.ofNat 64 (bytesAt b 24 8)
/-- The RECORD address itself can be read and written (R356). -/
def State.recordThere (s : State) (p : Nat) (r : DWord) : Bool :=
  (s.engineVa p none r 1 false).toOption.isSome && (s.engineVa p none r 1 true).toOption.isSome
/-- R353, R356: read the packet at RD; one whose RECORD cannot be read or written is dropped. -/
def execPacketRead (n : Nat) (s : State) : Out :=
  let q := s.queue n
  match q.owner with
  | none => .next s
  | some p =>
    if !q.en || q.err || q.packet.isSome || q.rd == q.wr then .next s
    else if !q.slotThere q.rd then .fault .absentRing
    else
      let (b, s) := s.memFetch (q.slotAddr q.rd) 64
      let s := s.onQueue n (fun q => { q with rd := q.rd + 1 })
      if s.recordThere p (packetRecord b) then
        .next (s.onQueue n (fun q => { q with packet := some { bytes := b, after := q.last, read := none, met := 0, broke := false } }))
      else .next (s.queueErr n)

/-! Admission (R357-R359, R363-R365, R419) -/

/-- A member word (R357). -/
def memberOf (b : List Byte) : MemberWord :=
  { role := blk b 0 % 16, bound := blk b 0 / 16 % 2 == 1, kind := blk b 0 / 32, unit := blk b 1, dev := blk b 2, index := bytesAt b 4 4 }
/-- Its fields are in range. -/
def memberOk (gmax : Nat) (b : List Byte) : Bool :=
  let m := memberOf b
  decide (m.kind ≤ 3) && blk b 3 == 0 && decide (m.index < gmax) && (m.kind != 0 || m.unit == 0)
    && (m.kind != kindMv || decide (m.unit < 64))
/-- Bound members of one team share no role, and an engine's host is a workgroup member of the team on its device. -/
def teamOk (ms : List MemberWord) : Bool :=
  let roles := (ms.filter (·.bound)).map (·.role)
  roles.eraseDups.length == roles.length
    && ms.all (fun m => m.kind == 0 || ms.any (fun h => h.kind == 0 && h.index == m.index && h.dev == m.dev))
/-- Cut bytes into words of n bytes (fuel: the words). -/
def chunks (fuel n : Nat) (b : List Byte) : List (List Byte) :=
  match fuel with
  | 0 => []
  | f + 1 => b.take n :: chunks f n (b.drop n)
/-- An entry of the group table, read with its members: none where the launch is refused (R357). -/
def State.groupEntry (s : State) (p gmax : Nat) (b : List Byte) : Option (List MemberWord) × State :=
  let n := blk b 0
  if bytesAt b 1 7 ≠ 0 ∨ 64 < n then (none, s)
  else if n = 0 then (some [], s)
  else match s.tryRead p none (BitVec.ofNat 64 (bytesAt b 8 8)) (8 * n) with
    | (none, s) => (none, s)
    | (some ws, s) =>
      let words := chunks n 8 ws
      let ms := words.map memberOf
      (if words.all (memberOk gmax) && teamOk ms then some ms else none, s)
/-- No workgroup is a member of more than four teams (R11). -/
def teamsFew (t : Tbl (List MemberWord)) : Bool :=
  let wgs : List (Nat × Nat) := t.flatMap (fun e => ((e.2.filter (fun m => m.kind == 0)).map (fun m => (m.dev, m.index))).eraseDups)
  wgs.all (fun x => decide (wgs.count x ≤ 4))
/-- The group table: none where the launch is refused (R357). -/
def State.groupTable (s : State) (p : Nat) (gtab : DWord) (gmax : Nat) : Option (Tbl (List MemberWord)) × State :=
  if gtab = 0 then (some [], s)
  else match s.tryRead p none gtab 4096 with
    | (none, s) => (none, s)
    | (some b, s) =>
      let r := ((chunks 256 16 b).zipIdx).foldl (fun (acc : Option (Tbl (List MemberWord)) × State) e => match acc.1 with
        | none => acc
        | some m =>
          let x := acc.2.groupEntry p gmax e.1
          (x.1.map (fun ms => if ms.isEmpty then m else Tbl.insert m e.2 ms), x.2)) (some [], s)
      (r.1.bind (fun m => if teamsFew m then some m else none), r.2)
/-- The launch that a packet, its record bytes and its kernel descriptor describe, before its checks. -/
def launchOf64 (part queue : Nat) (b rec kd : List Byte) (cores : List Nat) (teams : Tbl (List MemberWord)) : Launch :=
  let r := fun (lo n : Nat) => bytesAt rec lo n
  let d := fun (lo n : Nat) => BitVec.ofNat 64 (bytesAt rec lo n)
  { part := part, queue := queue, test := blk b 0 == 2, mask := BitVec.ofNat 256 (bytesAt b 32 32), irq := blk b 3 / 4 % 2 == 1,
    args := BitVec.ofNat 64 (bytesAt b 16 8), record := packetRecord b, entry := BitVec.ofNat 56 (bytesAt kd 0 8), width := blk kd 8,
    depth := blk kd 9, nregs := blk kd 10, acc := blk kd 11, near := bytesAt kd 12 4, calls := bytesAt kd 16 2, progress := blk kd 18,
    det := blk kd 19, tagMask := BitVec.ofNat 64 (bytesAt kd 20 8), groups := bytesAt b 4 4, groups0 := bytesAt b 4 4,
    gmax := r 0x20 4, lc := r 0x24 4, seed := d 0x28 8, genid := BitVec.ofNat 32 (r 0x30 4), tframe := d 0x38 8, tvec := d 0x40 8,
    digestAt := d 0x50 8, splatAt := d 0x58 8, splatCap := r 0x60 4, saveAt := d 0x68 8, saveSz := r 0x70 4,
    dq := (List.range 4).map (fun i => d (0x78 + 8 * i) 8), teams := teams, cores := cores, next := 0, retired := [], done := 0,
    failed := 0, cycles := 0, hold := false, aborted := false, saved := [], digests := [], splats := [], reexec := false, serial := false,
    preBusy := false, passed := 0, broke := 0, tested := 0 }
/-- R419, the packet. -/
def packetOk (b : List Byte) (gmax : Nat) : Bool :=
  packetFields b && decide (bytesAt b 4 4 ≤ gmax) && bytesAt b 15 1 == 0 && bytesAt b 31 1 == 0
    && (blk b 0 == 2 || (List.range 4).all (fun i => bytesAt b (39 + 8 * i) 1 == 0))
/-- R419, the record. -/
def recordOk (rec : List Byte) : Bool :=
  let r := bytesAt rec
  r 0 4 == 0 && r 0x18 8 == 0 && decide (1 ≤ r 0x20 4) && decide (r 0x20 4 ≤ 0xFFFFFFFE) && r 0x34 4 == 0
    && r 0x38 8 % 64 == 0 && (r 0x40 8 % 4 == 0 && decide (r 0x40 8 < 2 ^ 56)) && r 0x48 8 % 16 == 0 && r 0x64 4 == 0
    && r 0x70 4 % 256 == 0 && r 0x74 4 == 0 && r 0x98 104 == 0
/-- R419, the kernel descriptor (R124). -/
def kernelOk (kd : List Byte) : Bool :=
  let k : Shape := { width := blk kd 8, depth := blk kd 9, nregs := blk kd 10, calls := bytesAt kd 16 2, near := bytesAt kd 12 4, tiles := blk kd 11 }
  bytesAt kd 0 8 % 4 == 0 && decide (bytesAt kd 0 8 < 2 ^ 56) && k.legal && decide (blk kd 18 ≤ 2) && decide (blk kd 19 ≤ 3)
    && bytesAt kd 28 36 == 0
/-- R358: the deterministic rule places every host on its engine's core. -/
def State.hostsAgree (s : State) (l : Launch) : Bool :=
  l.det == 0 || (l.teams.flatMap Prod.snd).all (fun m => m.kind == 0 || m.dev != s.mgmt.orbitDev.toNat || match s.physCore l (m.index % l.lcount) with
    | some c => s.hostFits l m.index c
    | none => false)
/-- The kernel descriptor of a KERNEL packet. -/
def State.readKernel (s : State) (p : Nat) (b : List Byte) : Option (List Byte) × State :=
  if blk b 0 = 2 then (some (List.replicate 64 0), s) else s.tryRead p none (BitVec.ofNat 64 (bytesAt b 8 8)) 64
/-- The one reading of a packet's kernel descriptor, record and group table (R355, R359), with the checks of R419 that do
not depend on the online cores; the launch is none where it is refused with PARAM. -/
def State.parseLaunch (s : State) (p n : Nat) (b : List Byte) : Option Launch × State :=
  match s.tryRead p none (packetRecord b) 256 with
  | (none, s) => (none, s)
  | (some rec, s) => match s.readKernel p b with
    | (none, s) => (none, s)
    | (some kd, s) => match s.groupTable p (BitVec.ofNat 64 (bytesAt rec 0x48 8)) (bytesAt rec 0x20 4) with
      | (none, s) => (none, s)
      | (some teams, s) =>
        let l := launchOf64 p n b rec kd [] teams
        (if packetOk b l.gmax && recordOk rec && (l.test || kernelOk kd) then some l else none, s)
/-- A launch with the logical cores of its admission (R24, R395). -/
def State.numbered (s : State) (l : Launch) : Launch := { l with cores := s.partCores l.part }
/-- The checks that depend on the logical cores (R357, R358, R364, R393). -/
def State.coresOk (s : State) (l : Launch) : Bool :=
  decide (l.lc ≤ l.cores.length) && s.hostsAgree l && (!l.test || (List.range l.cores.length).any (fun i => l.mask.getLsbD i))
    && (l.teams.flatMap Prod.snd).all (fun m => m.dev != s.mgmt.orbitDev.toNat || m.kind == 0 || m.kind == kindMv || decide (m.unit < l.cores.length))
/-- The first reading of the packet that a queue holds; the answer stays with the packet. -/
def State.readOnce (s : State) (p n : Nat) (pk : Packet) : Option Launch × State :=
  match pk.read with
  | some r => (r, s)
  | none =>
    let r := s.parseLaunch p n pk.bytes
    (r.1, r.2.onQueue n (fun q => { q with packet := some { pk with read := some r.1 } }))
/-- R373: refuse with a code; the queue goes on to its next packet. -/
def State.refuseLaunch (s : State) (p n : Nat) (b : List Byte) (code : Byte) : State :=
  let s := s.onQueue n (fun q => { q with packet := none, last := none })
  match s.tryWrite p none (packetRecord b) (code :: List.replicate 31 0) none with
  | (false, s) => s.queueErr n
  | (true, s) => if blk b 3 / 4 % 2 == 1 then s.irqPart p 0 else s
/-- What the dependences of a packet say (R359). -/
inductive DepState | unreadable | pending | complete (allOk : Bool)
  deriving DecidableEq, Repr
/-- The dependences from DEPi on, `fuel` of them, each waited for in turn; the packet keeps what has completed. -/
def State.depsFrom (fuel : Nat) (s : State) (p n : Nat) (b : List Byte) (i : Nat) (broke : Bool) : DepState × State :=
  match fuel with
  | 0 => (.complete (!broke), s)
  | f + 1 => match s.tryRead p none (BitVec.ofNat 64 (bytesAt b (32 + 8 * i) 8)) 4 with
    | (none, s) => (.unreadable, s)
    | (some c, s) =>
      if leNat c = 0 then (.pending, s.onQueue n (fun q => { q with packet := q.packet.map (fun k => { k with met := i, broke := broke }) }))
      else State.depsFrom f s p n b (i + 1) (broke || leNat c != 1)
def State.deps (s : State) (p n : Nat) (pk : Packet) : DepState × State :=
  State.depsFrom (blk pk.bytes 2 - pk.met) s p n pk.bytes pk.met pk.broke
/-- A %launch that no live launch has (R359). -/
def State.freshLaunch (s : State) : Word :=
  (((List.range (s.launches.length + 1)).map (fun i => s.nextLaunch + BitVec.ofNat 32 i)).find? (fun w =>
    (s.launch w.toNat).isNone)).getD s.nextLaunch
/-- The instruction-cache lines that memory has changed under are discarded before a launch's first fetch (R311). -/
def State.discardCode (s : State) : State :=
  { s with icache := s.icache.filter (fun e => e.2 == s.memRead (e.1 % 2 ^ 45 * 128) 128) }
/-- Admit a launch (R359). -/
def State.enlist (s : State) (n : Nat) (l : Launch) : State :=
  let id := s.freshLaunch
  let s := s.discardCode
  { s.onQueue n (fun q => { q with packet := none, last := some id.toNat }) with
    launches := Tbl.insert s.launches id.toNat l, nextLaunch := id + 1 }
/-- The launch of a packet whose dependences have completed is admitted or refused, or waits (R359, R363, R365). -/
def State.admission (s : State) (p n : Nat) (pk : Packet) (l : Launch) (allOk : Bool) : State :=
  let b := pk.bytes
  if blk b 3 % 2 = 1 ∧ allOk = false then s.refuseLaunch p n b 0x05
  else if blk b 3 / 2 % 2 = 1 ∧ ((pk.after.bind s.launch).isSome = true) then s
  else if l.test then s.enlist n l
  else if l.cores.isEmpty ∨ capacityF (s.part p) l.shape = 0 then s.refuseLaunch p n b 0x03
  else if l.progress = 2 ∧ s.capacity l < l.groups then s.refuseLaunch p n b 0x04
  else s.enlist n l
/-- The checks that depend on the cores, then the dependences, then the rest (R359). -/
def State.admitOrWait (s : State) (p n : Nat) (pk : Packet) (l : Launch) : State :=
  if !s.coresOk l then s.refuseLaunch p n pk.bytes 0x06
  else
    let d := s.deps p n pk
    match d.1 with
    | .unreadable => d.2.refuseLaunch p n pk.bytes 0x06
    | .pending => d.2
    | .complete allOk => d.2.admission p n pk l allOk
/-- R359, R363, R365, R419: the packet that the queue holds is admitted or refused, or waits. -/
def execLaunchAdmission (n : Nat) (s : State) : Out :=
  let q := s.queue n
  match q.owner, q.packet with
  | some p, some pk =>
    let r := s.readOnce p n pk
    match r.1 with
    | none => .next (r.2.refuseLaunch p n pk.bytes 0x06)
    | some l => .next (r.2.admitOrWait p n pk (r.2.numbered l))
  | _, _ => .next s

/-! Arbitration (R361-R365) -/

/-- What a launch would start next. -/
inductive Start
  | restore (x : SavedWg) | fresh | together
  deriving DecidableEq, Repr
/-- The resident workgroups of a launch. -/
def State.residents (s : State) (lid : Nat) : List Nat := (s.wgs.filter (fun e => e.2.launch == lid)).map (·.1)
/-- The saved workgroup that comes first. -/
def Launch.firstSaved (l : Launch) : Option SavedWg :=
  l.saved.foldl (fun (a : Option SavedWg) x => match a with
    | some y => if x.wg.log < y.wg.log then some x else some y
    | none => some x) none
/-- The launch still has a workgroup to start: a saved one that is not held, or a pending index (R361). -/
def Launch.hasNext (l : Launch) : Bool :=
  !l.test && !l.aborted && ((!l.hold && !l.saved.isEmpty) || decide (l.next < l.groups))
/-- The workgroup that a launch starts next (R361, R365): restores come before pending indices; a concurrent launch starts
and restores its workgroups together, none before the others are saved and none while the saved ones are held; a re-execution
runs one at a time in logical order, so none starts while an earlier one is resident, or saved and held (R283). -/
def State.startable (s : State) (lid : Nat) (l : Launch) : Option Start :=
  if !l.hasNext then none
  else if l.serial && (!(s.residents lid).isEmpty || (l.hold && !l.saved.isEmpty)) then none
  else if l.progress == 2 && !l.serial then
    (if !l.saved.isEmpty && (l.hold || !(s.residents lid).isEmpty) then none else some .together)
  else match (if l.hold then none else l.firstSaved) with
    | some x => some (.restore x)
    | none => some .fresh
/-- The queue's oldest admitted launch that still has a workgroup to start. -/
def State.queueHead (s : State) (n : Nat) : Option (Nat × Launch) :=
  let age := fun (lid : Nat) => (s.nextLaunch - BitVec.ofNat 32 lid).toNat
  (s.launches.filter (fun e => e.2.queue == n && e.2.hasNext)).foldl (fun (a : Option (Nat × Launch)) e => match a with
    | some b => if age b.1 < age e.1 then some e else some b
    | none => some e) none
/-- What the queue would start next. -/
def State.queueStart (s : State) (n : Nat) : Option (Nat × Launch × Start) :=
  (s.queueHead n).bind (fun e => (s.startable e.1 e.2).map (fun x => (e.1, e.2, x)))

/-- A workgroup to place: a pending index, or a saved workgroup with its save header. -/
inductive Task
  | fresh (idx : Nat) | restore (x : SavedWg) (h : Header)
  deriving DecidableEq, Repr
def Task.idx (t : Task) : Nat :=
  match t with
  | .fresh i => i
  | .restore x _ => x.wg.log
def Task.isFresh (t : Task) : Bool :=
  match t with
  | .fresh _ => true
  | .restore _ _ => false
/-- The save header of a saved workgroup, as memory holds it; an unreadable one breaks FORMAT (R390, log entry 6). -/
def State.headerAt (s : State) (l : Launch) (x : SavedWg) : Header × State :=
  let r := s.tryRead l.part none (l.saveArea x.wg.log) 64
  (headerOf64 (r.1.getD []), r.2)
/-- The tasks of a start; the headers are read. Those of a concurrent launch are all its saved workgroups, then all its pending
indices (R361, R365). -/
def State.tasksOf (s : State) (l : Launch) (x : Start) : List Task × State :=
  let restores := fun (xs : List SavedWg) => xs.foldl (fun (a : List Task × State) x =>
    let h := a.2.headerAt l x
    (a.1 ++ [.restore x h.1], h.2)) ([], s)
  match x with
  | .restore y => restores [y]
  | .fresh => ([.fresh l.next], s)
  | .together =>
    let r := restores l.saved
    (r.1 ++ (List.range (l.groups - l.next)).map (fun i => .fresh (l.next + i)), r.2)
/-- Whether a task fits at a place. -/
def State.taskFits (s : State) (lid : Nat) (l : Launch) (t : Task) (pl : Placement) : Bool :=
  match t with
  | .fresh i => s.fitsAt lid l i false l.shape 0 0 pl
  | .restore x h => s.fitsAt lid l x.wg.log true h.shape h.slots (fieldOf h.books 3 0) pl
/-- The first place of a task, if there is room somewhere. -/
def State.taskPlace (s : State) (lid : Nat) (l : Launch) (t : Task) : Option Placement :=
  match t with
  | .fresh i => s.findPlace lid l i false l.shape 0 0
  | .restore x h => s.findPlace lid l x.wg.log true h.shape h.slots (fieldOf h.books 3 0)
/-- Start or restore a task at its place. -/
def State.putTask (s : State) (lid : Nat) (l : Launch) (t : Task) (pl : Placement) : State :=
  match t with
  | .fresh i => s.startWg lid l i pl
  | .restore x h => s.restoreWg lid l x h pl
/-- The reasons that refuse the first of the tasks that is refused (R390). -/
def State.refusal (s : State) (l : Launch) (ts : List Task) : Option (Nat × BitVec 7) :=
  ts.findSome? (fun t => match t with
    | .fresh _ => none
    | .restore x h =>
      let why := s.restoreReasons l x.wg.log h
      if why = 0 then none else some (x.wg.log, why))
/-- R391: the restore is refused and its launch held; the RESTORE interrupt (R403). -/
def State.refuseRestore (s : State) (lid : Nat) (l : Launch) (log : Nat) (why : BitVec 7) : State :=
  ((s.onLaunch lid (fun l => { l with hold := true })).onPart l.part (fun p =>
    let p := { p with rstCnt := p.rstCnt + 1 }
    if p.rstValid then p
    else { p with rstValid := true, rstLaunch := BitVec.ofNat 32 lid, rstReason := why, rstWg := BitVec.ofNat 32 log })).irqPart l.part 3
/-- Place tasks one after the other, each at the first place that fits. -/
def State.placeGreedy (s : State) (lid : Nat) (l : Launch) (ts : List Task) : Option State :=
  match ts with
  | [] => some s
  | t :: rest => match s.taskPlace lid l t with
    | some pl => State.placeGreedy (s.putTask lid l t pl) lid l rest
    | none => none
/-- Place tasks, trying every place of each until all fit; then `last`. -/
def State.placeSearch (s : State) (lid : Nat) (l : Launch) (ts : List Task) (last : State → Option State) : Option State :=
  match ts with
  | [] => last s
  | t :: rest =>
    let shape := match t with
      | .fresh _ => l.shape
      | .restore _ h => h.shape
    ((s.candidates l t.idx (!t.isFresh)).flatMap (fun c =>
      let fit := (s.placesOn shape c).filter (fun pl => s.taskFits lid l t pl)
      if t.isFresh then fit.take 1 else fit)).findSome? (fun pl => State.placeSearch (s.putTask lid l t pl) lid l rest last)
/-- The workgroups of a concurrent launch start or restore together, or none (R365). Pending workgroups have one shape: those
that host an engine role choose among cores, and the others then fit exactly where they fit one after the other; the
shapes of saved ones differ. -/
def State.together (s : State) (lid : Nat) (l : Launch) (ts : List Task) : Option State :=
  let host := fun (t : Task) => !t.isFresh || !(l.hosted s.mgmt.orbitDev.toNat t.idx).isEmpty
  s.placeSearch lid l (ts.filter host) (fun s => s.placeGreedy lid l (ts.filter (fun t => !host t)))

/-- The deficit of a queue with a startable workgroup after a visit's quantum (R361). -/
def Queue.credit (q : Queue) : Int := min (q.deficit.toInt + q.quantum.toNat * 1024) (2 * (q.quantum.toNat * 1024))
def State.setDeficit (s : State) (n : Nat) (d : Int) : State := s.onQueue n (fun q => { q with deficit := BitVec.ofInt 64 d })
/-- The queue that the dispatcher of a partition visits next: ascending, round after round (R361). -/
def State.nextVisit (s : State) (p : Nat) : Option Nat :=
  let own := (List.range 256).filter (fun n => (s.queue n).owner == some p)
  match own.find? (fun n => decide ((s.part p).visit ≤ n)) with
  | some n => some n
  | none => own.head?
/-- The visit is over. -/
def State.visited (s : State) (p n : Nat) : State := s.onPart p (fun x => { x with visit := n + 1 })
/-- A queue with nothing to start loses its credit, unless it is blocked (R361). -/
def State.idleQueue (s : State) (n : Nat) : State :=
  if (s.queue n).packet.isSome then s else s.setDeficit n (min (s.queue n).deficit.toInt 0)
/-- One workgroup starts or is restored at a place, if the credit is positive; `none` where the place does not fit. While
it has no room anywhere, the queue waits (R361). -/
def State.startOne (s : State) (n lid : Nat) (l : Launch) (t : Task) (pl : Placement) : Option State :=
  if (s.taskPlace lid l t).isNone then some s
  else
    let c := (s.queue n).credit
    let s := s.setDeficit n c
    if c ≤ 0 then some s
    else if s.taskFits lid l t pl then some (s.putTask lid l t pl) else none
/-- A concurrent launch that is selected starts whole, or room is reserved for it (R365). A queue whose launch has no room
keeps its deficit; it is selected where its credit would be positive (R361). -/
def State.startTogether (s : State) (n lid : Nat) (l : Launch) (ts : List Task) : State :=
  let c := (s.queue n).credit
  match s.together lid l ts with
  | some s' => (if c ≤ 0 then s else s').setDeficit n c
  | none => if c ≤ 0 then s else s.onPart l.part (fun p => { p with reserve := some lid })
/-- What a visit does for the launch at a queue's head. -/
def State.startHead (s : State) (n lid : Nat) (l : Launch) (x : Start) (pl : Placement) : Option State :=
  let r := s.tasksOf l x
  match r.2.refusal l r.1 with
  | some (log, why) => some (r.2.refuseRestore lid l log why)
  | none => match x, r.1 with
    | .together, ts => some (r.2.startTogether n lid l ts)
    | _, t :: _ => r.2.startOne n lid l t pl
    | _, [] => some r.2
/-- A reserved concurrent launch is tried at every visit, and nothing else starts (R365); it is charged to its own queue. -/
def State.tryReserved (s : State) (p lid : Nat) : State :=
  let drop := fun (s : State) => s.onPart p (fun x => { x with reserve := none })
  match s.launch lid with
  | none => drop s
  | some l =>
    if (s.queue l.queue).err then s
    else match s.startable lid l with
      | some .together =>
        let r := s.tasksOf l .together
        match r.2.refusal l r.1 with
        | some (log, why) => drop (r.2.refuseRestore lid l log why)
        | none => match r.2.together lid l r.1 with
          | some t => drop (t.setDeficit l.queue (s.queue l.queue).credit)
          | none => r.2
      | _ => drop s
/-- One visit of R361; `none` where policy's place does not fit. -/
def State.visitQueue (s : State) (p n : Nat) (pl : Placement) : Option State :=
  match (s.part p).reserve with
  | some lid => some (((if (s.queueHead n).isSome then s else s.idleQueue n).tryReserved p lid).visited p n)
  | none =>
    match s.queueHead n with
      | none => some ((s.idleQueue n).visited p n)
      | some (lid, l) => match (if (s.queue n).err then none else s.startable lid l) with
        | none => some (s.visited p n)
        | some x => (s.startHead n lid l x pl).map (fun s => s.visited p n)
/-- R361, R363. -/
def execQueueVisit (n : Nat) (pl : Placement) (s : State) : Out :=
  match (s.queue n).owner with
  | none => .next s
  | some p => if s.nextVisit p = some n then .next ((s.visitQueue p n pl).getD s).settleTraps else .next s
/-- R370: the visit of the queue whose startable workgroup is this saved one. -/
def execWorkgroupRestore (g : Nat) (pl : Placement) (s : State) : Out :=
  match s.launches.find? (fun e => e.2.saved.any (fun x => x.id == g)) with
  | none => .next s
  | some (lid, l) =>
    let here := match s.queueStart l.queue with
      | some (k, _, .restore x) => k == lid && x.id == g
      | some (k, _, .together) => k == lid
      | _ => false
    if here then execQueueVisit l.queue pl s else .next s
/-- R367: policy may pre-empt workgroups of weak launches whose queue is in debt while another has a claim. -/
def execFirmwarePreemption (g : Nat) (s : State) : Out :=
  match s.wg g with
  | none => .next s
  | some w => match s.launchOf w with
    | none => .next s
    | some l =>
      let other := (List.range 256).any (fun n => n != l.queue && (s.queue n).owner == some l.part && decide (0 < (s.queue n).deficit.toInt)
        && (s.queueStart n).isSome)
      if l.progress = 0 ∧ (s.queue l.queue).deficit.toInt < 0 ∧ other = true then .next (s.requestPreempt g true) else .next s

/-! Completion (R283, R360, R394) -/

/-- The launch digest (R282). -/
def Launch.digest (l : Launch) : DWord :=
  (List.range l.groups).foldl (fun d g => digestMix (d ^^^ Tbl.get 0 l.digests g)) 0
/-- Every index has retired and none can be added. -/
def State.launchOver (s : State) (lid : Nat) (l : Launch) : Bool :=
  if l.test then (List.range l.cores.length).all (fun i => !l.mask.getLsbD i || l.tested.getLsbD i)
  else (s.residents lid).isEmpty && l.saved.isEmpty && (l.aborted || decide (l.groups ≤ l.next))
/-- Re-execution starts from the launch's first index (R283). -/
def Launch.again (l : Launch) : Launch :=
  { l with groups := l.groups0, next := 0, retired := [], done := 0, failed := 0, digests := [], splats := [], reexec := true, serial := true }
/-- Forget a launch's team barriers, collectives and aborted instances. -/
def State.clearTeams (s : State) (lid : Nat) : State :=
  { s with streams := s.streams.filter (fun e => e.1 / 256 != lid), teamBars := s.teamBars.filter (fun e => e.1 / 256 != lid), colls := s.colls.filter (fun e => e.1 / 2 ^ 40 != lid) }
/-- A re-execution is counted for its partition and for the snapshot (R283, R403, R411). -/
def State.countReexec (s : State) (p : Nat) : State :=
  let s := s.onPart p (fun x => { x with reexec := x.reexec + 1 })
  { s with mgmt := { s.mgmt with reexec := s.mgmt.reexec + 1 } }
/-- Step 3 of R360: the digest is recorded, or checked; whether a digest that cannot be read counts as a mismatch is a free
value (log entry 1). The second answer says that the launch runs again. -/
def State.digestEnd (s : State) (lid : Nat) (l : Launch) : State × Bool :=
  if l.det = 2 then
    ((s.tryWrite l.part none l.digestAt (leBytes 8 l.digest.toNat) none).2, false)
  else if l.det = 3 ∧ l.reexec = false ∧ l.aborted = false then
    let (bad, s) := match s.tryRead l.part none l.digestAt 8 with
      | (some b, s) => (decide (BitVec.ofNat 64 (leNat b) ≠ l.digest), s)
      | (none, s) =>
        let (w, s) := s.freshWord
        (w.getLsbD 0, s)
    if bad then (((s.onLaunch lid Launch.again).clearTeams lid).countReexec l.part, true)
    else (s, false)
  else (s, false)
/-- Bytes 0x04 to 0x1F of the record (R355). -/
def Launch.counts (l : Launch) : List Byte :=
  leBytes 4 (if l.reexec then 1 else 0) ++ leBytes 4 l.done ++ leBytes 4 l.failed ++ leBytes 8 l.cycles ++ List.replicate 8 0
/-- The self-test results (R394). -/
def Launch.testBytes (l : Launch) : List Byte := leBytes 32 l.passed.toNat ++ leBytes 32 l.broke.toNat
/-- Write the record, CSTATUS last, and send the interrupt (R360 steps 5 to 7); an unwritable record sets ERR (R372). -/
def State.writeRecord (s : State) (l : Launch) : State :=
  let status : Byte := if l.failed = 0 ∧ l.aborted = false then 0x01 else 0x02
  let s := if l.test then (s.tryWrite l.part none (l.record + 0x100) l.testBytes none).2 else s
  match s.tryWrite l.part none (l.record + 4) l.counts none with
  | (false, s) => s.queueErr l.queue
  | (true, s) => match s.tryWrite l.part none l.record [status, 0, 0, 0] none with
    | (false, s) => s.queueErr l.queue
    | (true, s) => if l.irq then s.irqPart l.part 0 else s
/-- The launch is gone. -/
def State.dropLaunch (s : State) (lid : Nat) (l : Launch) : State :=
  let s := { s with launches := Tbl.erase s.launches lid }
  let s := s.clearTeams lid
  (s.onQueue l.queue (fun q => if q.last = some lid then { q with last := none } else q)).onPart l.part (fun p =>
    if p.reserve = some lid then { p with reserve := none } else p)
/-- R360. -/
def execLaunchCompletion (lid : Nat) (s : State) : Out :=
  match s.launch lid with
  | none => .next s
  | some l =>
    if !s.launchOver lid l then .next s
    else
      let s := if l.test then s else s.applySplats lid
      match s.launch lid with
      | none => .next s
      | some l =>
        let (s, again) := if l.test then (s, false) else s.digestEnd lid l
        if again then .next s
        else
          let s := l.cores.foldl (fun s c => s.releaseCore c) s
          .next ((s.writeRecord l).dropLaunch lid l)

/-! Self-test (R371, R393-R395) -/

/-- A core goes offline (R395). -/
def State.offline (s : State) (core : Nat) : State := { s with online := s.online &&& ~~~(1#256 <<< core) }
/-- The result of one core's test (R394). -/
def Launch.testResult (l : Launch) (bit : BitVec 256) (pass : Bool) : Launch :=
  let l := { l with tested := l.tested ||| bit, done := l.done + 1 }
  if pass then { l with passed := l.passed ||| bit } else { l with broke := l.broke ||| bit, failed := l.failed + 1 }
/-- The bank of the unit of a core that failed its test: of its quarter, its near slice, L1, FFU, copy unit or matrix engine
(R383, R394). -/
def testBank (core : Nat) (broke : Nat × Nat) : Nat × Nat :=
  if 2 ≤ broke.1 ∧ broke.1 ≤ 6 then (broke.1, core) else (1, 4 * core + broke.2 % 4)
/-- R393, R394: the test runs on a named core once it is empty; `broke` is the unit that fails, if one does. -/
def execSelfTest (n core : Nat) (broke : Option (Nat × Nat)) (s : State) : Out :=
  match s.launches.find? (fun e => e.2.queue == n && e.2.test) with
  | none => .next s
  | some (lid, l) =>
    let i := l.logicalOf core
    let bit := 1#256 <<< i
    if i ≥ l.cores.length ∨ l.mask.getLsbD i = false ∨ l.tested.getLsbD i = true ∨ (s.wgsOn core).isEmpty = false then .next s
    else
      let s := s.onLaunch lid (fun l => l.testResult bit broke.isNone)
      match broke with
      | none => .next s
      | some u => .next ((s.mcEvent (testBank core u).1 (testBank core u).2 2 7 0 0 0 (BitVec.ofNat 32 lid) 0xFFFFFFFF).offline core)

/-! Registers that start something (R352, R370, R391) -/

/-- A notify of a partition that names a queue and an index (R352). -/
def State.notify (s : State) (p n : Nat) (w : BitVec 16) : State :=
  let q := s.queue n
  if q.owner ≠ some p ∨ q.en = false ∨ q.dev = true ∨ q.err = true then s
  else
    let d := (w - q.rd).toNat
    if (q.wr - q.rd).toNat ≤ d ∧ d ≤ 2 ^ q.log2.toNat then s.onQueue n (fun q => { q with wr := w })
    else s.queueErr n
/-- R352: the doorbell. -/
def execLqNotify (p : Nat) (value : Word) (s : State) : Out :=
  s.hostSets (.vf p) (fun s => s.notify p (fieldOf value 7 0).toNat (fieldOf value 31 16))
/-- The launch of a partition that a register names. -/
def State.namedLaunch (s : State) (p : Nat) (w : Word) : Option Launch := (s.launch w.toNat).bind (fun l => if l.part = p then some l else none)
/-- HOLD of a PRE_REQ write. -/
def State.setHold (s : State) (lid : Nat) (value : DWord) : State := s.onLaunch lid (fun l => { l with hold := value.getLsbD 32 })
/-- R367, R370: the hold state, and a request against each live workgroup. -/
def execPreReqPreempt (p : Nat) (value : DWord) (s : State) : Out :=
  let lid := (fieldOf value 31 0).toNat
  s.hostSets (.vf p) (fun s => match s.namedLaunch p (fieldOf value 31 0) with
    | none => s
    | some _ =>
      let s := (s.setHold lid value).onLaunch lid (fun l => { l with preBusy := true })
      ((s.residents lid).foldl (fun s g => s.requestPreempt g false) s).preSettle lid)
/-- R370, R391: the hold state only. -/
def execPreReqHoldOnly (p : Nat) (value : DWord) (s : State) : Out :=
  s.hostSets (.vf p) (fun s => match s.namedLaunch p (fieldOf value 31 0) with
    | none => s
    | some _ => s.setHold (fieldOf value 31 0).toNat value)
/-- A saved workgroup is terminated: its quotas are voided, its instances aborted, its residency charged (R281, R362, R368). -/
def State.terminateSaved (s : State) (lid : Nat) (x : SavedWg) : State :=
  match s.launch lid with
  | none => s
  | some l =>
    let c := x.wg.ran * x.wg.width * x.wg.depth / 2048
    let s := (s.voidTickets l.part l x.wg 3).abortMember x.wg
    let s := s.onLaunch lid (fun l => { l with
      saved := l.saved.filter (fun y => y.id != x.id), failed := l.failed + 1, retired := setInsert l.retired x.wg.log,
      cycles := l.cycles + c, digests := Tbl.insert l.digests x.wg.log x.wg.digest })
    let s := s.onQueue l.queue (fun q => { q with deficit := q.deficit - BitVec.ofNat 64 c })
    x.wg.teamList.foldl (fun s t => s.teamCheck lid t) s
/-- R391: every workgroup of the launch is terminated, saved ones included; the launch completes FAILED. -/
def execLaunchAbort (p : Nat) (value : Word) (s : State) : Out :=
  s.hostSets (.vf p) (fun s => match s.namedLaunch p value with
    | none => s
    | some l =>
      let lid := value.toNat
      let s := s.onLaunch lid (fun l => { l with aborted := true })
      let s := (s.residents lid).foldl (fun s g => s.terminateWg g) s
      (l.saved.foldl (fun s x => s.terminateSaved lid x) s).settleTraps)

end Sys2Proof.Machine
end

