-- ==== Sys2Proof/Machine/Translation.lean ====
section
/-! DEFINITION. Walks and faults of threads (R324, R326, R327), and invalidation (R325, R341). -/
namespace Sys2Proof.Machine

/-! Walks (R324) -/

/-- A thread of the partition waits for the walk of the page. -/
def State.waitsWalk (s : State) (p page : Nat) (t : Thread) : Bool :=
  match t.stall with
  | .walk k _ _ _ => k == page && s.partOfRef t.ref == p && !t.exited
  | _ => false
/-- The core and the quadrant of a thread. -/
def State.coreOfRef (s : State) (r : ThreadRef) : Nat := ((s.wgOf r).map (·.core)).getD 0
def State.quadOfRef (s : State) (r : ThreadRef) : Nat := s.coreOfRef r / 64
/-- The threads that wait for a page, and those that one walk serves: the waiters of one quadrant (R324). -/
def State.walkers (s : State) (p page : Nat) : List Thread := (Tbl.vals s.threads).filter (s.waitsWalk p page)
def State.served (s : State) (p page : Nat) : List Thread :=
  match s.walkers p page with
  | [] => []
  | t :: l => (t :: l).filter (fun u => s.quadOfRef u.ref == s.quadOfRef t.ref)
/-- What identifies the word of an issue at which threads of a workgroup failed (R326): workgroup, pc, kind and the
core's cycle. -/
structure FaultKey where
  wg   : Nat
  pc   : Pc
  kind : Nat
  cyc  : DWord
  deriving DecidableEq, Repr
/-- The key of a thread whose walk goes on. -/
def walkKey (t : Thread) : Option FaultKey :=
  match t.stall with
  | .walk _ kind _ cyc => some { wg := t.ref.wg, pc := t.pc, kind := kind, cyc := cyc }
  | _ => none
/-- The key of a thread whose walk has failed and that no record names yet. -/
def failKey (t : Thread) : Option FaultKey :=
  match t.stall with
  | .fault none kind _ _ cyc => some { wg := t.ref.wg, pc := t.pc, kind := kind, cyc := cyc }
  | _ => none
/-- The address and the walk of a failed thread. -/
def failOf (t : Thread) : DWord × Byte :=
  match t.stall with
  | .fault _ _ va walk _ => (va, walk)
  | _ => (0, 0)
/-- The thread's walk has failed. -/
def Thread.failWalk (info : Byte) (t : Thread) : Thread :=
  match t.stall with
  | .walk _ kind va cyc => { t with stall := .fault none kind va info cyc }
  | _ => t
/-- The class 0x06 trap of threads whose fault is declined (R268, R327). -/
def State.declineAll (s : State) (refs : List ThreadRef) : State :=
  refs.foldl (fun s r => match s.thread r with
    | some t => (s.onThread r (fun u => { u with stall := .none })).trapData t clPage 0 (failOf t).1
    | none => s) s
/-- The record of threads that failed together: the lowest failing lane's address and walk (R326). -/
def State.faultFor (s : State) (w : Workgroup) (kind : Nat) (ts : List Thread) : FaultWait :=
  let lowest := ts.foldl (fun (a : Option Thread) t => match a with
    | some b => if w.laneOf t.ref.tid < w.laneOf b.ref.tid then some t else some b
    | none => some t) none
  let f := (lowest.map failOf).getD (0, 0)
  { index := none, va := f.1, lanes := ts.foldl (fun m t => m ||| (1#64 <<< w.laneOf t.ref.tid)) 0,
    launch := BitVec.ofNat 32 w.launch, wglog := BitVec.ofNat 32 w.log,
    core := BitVec.ofNat 8 (((s.launchOf w).map (fun l => l.logicalOf w.core)).getD 0), quarter := BitVec.ofNat 8 w.quarter,
    kind := kind, walk := f.2, threads := ts.map (·.ref) }
/-- The threads of a record wait at its index. -/
def State.nameRecord (s : State) (refs : List ThreadRef) (i : Nat) : State :=
  refs.foldl (fun s r => s.onThread r (fun t => match t.stall with
    | .fault _ kind va walk cyc => { t with stall := .fault (some i) kind va walk cyc }
    | _ => t)) s
/-- Write waiting records while the ring has room, in order (R326); with EN = 0 they are declined (R327). -/
def State.flushFaults (fuel : Nat) (s : State) (p : Nat) : State :=
  match fuel with
  | 0 => s
  | n + 1 =>
    let x := s.part p
    match x.waits.find? (fun f => f.index.isNone) with
    | none => s
    | some f =>
      if !x.fqEn then
        State.flushFaults n ((s.onPart p (fun y => { y with waits := y.waits.filter (fun g => g.index.isSome || g.threads != f.threads) })).declineAll f.threads) p
      else if x.ringFull then s
      else
        let i := x.fqHead.toNat
        let named := fun (g : FaultWait) => if g.index.isNone && g.threads == f.threads then { g with index := some i } else g
        let s := (s.ringWrite p f).onPart p (fun y => { y with waits := (y.waits.filter (fun g => g.index != some i)).map named })
        State.flushFaults n (s.nameRecord f.threads i) p
/-- Serve the waiting records of a partition. -/
def State.serveFaults (s : State) (p : Nat) : State := State.flushFaults ((s.part p).waits.length + 1) s p
/-- Once no thread of the issue waits for a walk, its failed threads get one record (R326). -/
def State.reportFaults (s : State) (p : Nat) (k : FaultKey) : State :=
  if (Tbl.vals s.threads).any (fun t => walkKey t == some k) then s
  else
    let ts := (Tbl.vals s.threads).filter (fun t => failKey t == some k && !(s.part p).waits.any (fun f => f.threads.contains t.ref))
    match s.wg k.wg, ts with
    | some w, _ :: _ => (s.onPart p (fun y => { y with waits := y.waits ++ [s.faultFor w k.kind ts] })).serveFaults p
    | _, _ => s
/-- The walk's result reaches the threads: their cores hold the translation, or their faults are known. -/
def State.walkEnds (s : State) (qd p page : Nat) (refs : List ThreadRef) : State :=
  let t := s.walked qd p (page * 4096)
  match s.walk qd p (page * 4096) with
  | .ok e => refs.foldl (fun (s : State) r => s.onThread r (fun u => { u with stall := .none }))
      ((refs.map s.coreOfRef).eraseDups.foldl (fun (t : State) c => t.tlbInstall c e) t)
  | .error (level, cause) => refs.foldl (fun (s : State) r => s.onThread r (Thread.failWalk (BitVec.ofNat 8 (level + 8 * cause)))) t
/-- R324, R326: the walk of a page by the walkers of a quadrant, for every thread of it that waits for the page. -/
def execTranslationWalk (p page : Nat) (s : State) : Out :=
  match s.served p page with
  | [] => .next s
  | t :: l =>
    let ts := t :: l
    let keys := (ts.filterMap walkKey).eraseDups
    .next (keys.foldl (fun (s : State) k => s.reportFaults p k) (s.walkEnds (s.quadOfRef t.ref) p page (ts.map (·.ref)))).settleTraps

/-! The driver's answers (R327) -/

/-- The record that waits at an index of the ring. -/
def Partition.waiting (p : Partition) (i : Nat) : Option FaultWait := p.waits.find? (fun f => f.index == some i)
/-- A record has been answered. -/
def State.answered (s : State) (p i : Nat) : State :=
  s.onPart p (fun x => { x with waits := x.waits.filter (fun f => f.index != some i) })
/-- R327: every thread of the record executes the word again. -/
def execFqRespReplay (p index : Nat) (s : State) : Out :=
  s.hostSets (.vf p) (fun s => match (s.part p).waiting index with
    | none => s
    | some f => f.threads.foldl (fun s r => s.onThread r (fun t => { t with stall := .none })) (s.answered p index))
/-- R327: every thread of the record takes the class 0x06 trap. -/
def execFqRespDecline (p index : Nat) (s : State) : Out :=
  s.hostSets (.vf p) (fun s => match (s.part p).waiting index with
    | none => s
    | some f => ((s.answered p index).declineAll f.threads).settleTraps)

/-! Invalidation (R325) -/

/-- The cores of a partition's clusters, online or not. -/
def Partition.cores (p : Partition) : List Nat := (List.range 256).filter (fun c => p.clusters.getLsbD (clusterOf c))
/-- What the TLBs of a partition hold for pages [page, page + n) (R323). -/
def State.heldEntries (s : State) (p page n : Nat) : List TlbEntry :=
  let x := s.part p
  (x.cores.flatMap (fun c => (s.core c).tlb.filter (fun e => e.meets page n))
    ++ (s.ctlbs.filter (fun e => x.clusters.getLsbD e.1)).flatMap (fun c => c.2.filter (fun e => e.meets page n))).eraseDups
/-- Remove entries that meet pages from the TLBs of a partition and from the walker caches (R325). -/
def State.tlbRemove (s : State) (p page n : Nat) : State :=
  let x := s.part p
  let out := fun (l : List TlbEntry) => l.filter (fun e => !e.meets page n)
  { s with
    cores := s.cores.map (fun e => if x.clusters.getLsbD (clusterOf e.1) then (e.1, { e.2 with tlb := out e.2.tlb }) else e)
    ctlbs := s.ctlbs.map (fun e => if x.clusters.getLsbD e.1 then (e.1, out e.2) else e)
    ptrs := s.ptrs.map (fun e => (e.1, e.2.filter (fun q => q.part != p || !q.meets page n))) }
/-- The virtual addresses that a request has translated. -/
def Req.pages (q : Req) : List Nat :=
  if q.served then [] else
  (if q.near then [] else [q.va.toNat / 4096]) ++ (q.taps.filter (fun t => !t.near)).map (fun t => t.va.toNat / 4096)
/-- The virtual addresses that an operation has begun to read through their translations: W of an MV that has translated
(R341), the source of a CPYM that has begun (R207). -/
def Op.begun (op : Op) : Option Nat :=
  match op.instr with
  | .mv _ _ _ _ _ _ => if op.phase = 0 then none else some (mvAddr op).toNat
  | .cpym _ _ _ _ near => if near ∨ op.rows.isEmpty = true then none else some (op.base + BitVec.ofNat 64 (cpymSrc op.block)).toNat
  | _ => none
/-- The requests and operations of a partition that have gone through one of some entries (R325, R341). -/
def State.usersOf (s : State) (p : Nat) (gone : List TlbEntry) : List Nat :=
  (s.reqs.filter (fun e => s.partOfRef e.2.thread == p && e.2.pages.any (fun k => gone.any (fun x => x.has k)))).map (·.1)
    ++ (s.ops.filter (fun e => e.2.part == p && match e.2.begun with
      | some va => gone.any (fun x => x.meets (va / 4096) 512)
      | none => false)).map (·.1)
/-- The translations that meet the pages leave, in every TLB and walker cache; what has gone through one of them, or lies in
the pages, is waited for (R325). -/
def State.invalidate (s : State) (p page n : Nat) : State :=
  let gone := s.heldEntries p page n ++ [{ page := page, leaf := 0, size := n }]
  (s.tlbRemove p page n).onPart p (fun x => { x with
    invBusy := true, invGone := (gone.filter (fun e => e.leaf != 0)), invWaits := s.usersOf p gone })
/-- A thread that waits for an instruction line fetches afresh. -/
def Thread.refetch (t : Thread) : Thread := if t.stall = .fetch then { t with stall := .none } else t
/-- A role that waits for an instruction line fetches afresh. -/
def RoleSt.refetch (r : RoleSt) : RoleSt := if r.stall = .fetch then { r with stall := .none } else r
/-- Threads of the partition and engine roles that wait for an instruction line fetch afresh. -/
def State.refetch (s : State) (p : Nat) : State :=
  let s : State := { s with threads := s.threads.map (fun (e : Nat × Thread) => if s.partOfRef e.2.ref = p then (e.1, Thread.kept Thread.refetch e.2) else e) }
  { s with streams := s.streams.map (fun (e : Nat × Stream) => (e.1, { e.2 with roles := e.2.roles.map (fun (r : Nat × RoleSt) =>
      (r.1, r.2.refetch)) })) }
/-- A write of XLT_INV with GO = 1 and the scope given; ignored while BUSY (R325). -/
def State.startInv (s : State) (p : Nat) (value : Word) (scope page n : Nat) : State :=
  if value.getLsbD 0 = false ∨ fieldOf value 2 1 ≠ BitVec.ofNat 2 scope ∨ (s.part p).invBusy = true then s
  else ((s.onPart p (fun x => { x with inv := value &&& 0x0000FFF6 })).invalidate p page n).refetch p
/-- The page number in XLT_INV_VA (R329). -/
def Partition.invPage (p : Partition) : Nat := (fieldOf p.invVa 55 12).toNat
/-- R325, SCOPE 0: the page, of any size, that contains XLT_INV_VA. -/
def execXltInvPage (p : Nat) (value : Word) (s : State) : Out :=
  s.hostSets (.vf p) (fun s => s.startInv p value 0 (s.part p).invPage 1)
/-- R325, SCOPE 1: every page that meets the COUNT + 1 pages from XLT_INV_VA. -/
def execXltInvRange (p : Nat) (value : Word) (s : State) : Out :=
  s.hostSets (.vf p) (fun s => s.startInv p value 1 (s.part p).invPage ((fieldOf value 15 4).toNat + 1))
/-- R325, SCOPE 2: every entry of the partition. -/
def execXltInvPartition (p : Nat) (value : Word) (s : State) : Out :=
  s.hostSets (.vf p) (fun s => s.startInv p value 2 0 (2 ^ 52))

/-- Whether a line lies in memory that a removed translation maps. -/
def Partition.goneLine (p : Partition) (line : Nat) : Bool :=
  p.invGone.any (fun e => let a := (xlateOf e (e.page * 4096)).pa
    decide (a / 128 ≤ line) && decide (line < (a + e.size * 4096) / 128))
/-- R325: once every access and item that went through a removed entry is performed or has failed, its stores are performed
at device scope and BUSY clears. -/
def execInvalidationComplete (p : Nat) (s : State) : Out :=
  let x := s.part p
  if x.invBusy = false ∨ x.invWaits.any (fun i => (Tbl.find s.reqs i).isSome || (Tbl.find s.ops i).isSome) = true then .next s
  else
    let s := (s.owners.filter (fun e => x.goneLine e.1)).foldl (fun s e => s.recall e.1) s
    .next (s.onPart p (fun y => { y with invBusy := false, invGone := [], invWaits := [] }))

end Sys2Proof.Machine
end

