-- ==== Sys2Proof/Machine/MachineCheck.lean ====
section
/-! DEFINITION. Detected errors (R374-R378, R385, R406, R413), the fatal stop and its inventory (R379-R382), alerts
and throttling (R343, R344, R414). -/
namespace Sys2Proof.Machine

/-! What an error strikes (R375) -/

/-- Whether a thread is at a word that it executes, or will execute again: one that has issued it, and waits for what it
does, reads nothing (R85). -/
def Thread.atWord (t : Thread) : Bool :=
  !t.exited && match t.stall with
    | .none => true
    | .again _ => true
    | .control _ => true
    | _ => false
/-- A thread whose own instruction reads damaged data takes the trap of R85 at the word. -/
def State.strikeThread (s : State) (r : ThreadRef) : State :=
  match s.thread r with
  | some t => if t.atWord then (s.onThread r (fun u => { u with stall := .none })).trapData t clMachine 1 0 else s
  | none => s
/-- An asynchronous operation ends with the status of the error: a fill leaves its slot undefined, a load to tiles or
slots leaves them undefined, an MV writes RAN, a CPYM fails in every member left, a collective reports its member (R86,
R286, R346, R375, R378). -/
def State.strikeOp (s : State) (id : Nat) (status : Byte) : State :=
  match Tbl.find s.ops id with
  | none => s
  | some op => match op.instr with
    | .old _ _ _ _ slot => s.failOld id op slot.toNat status
    | .accld _ _ _ _ => (s.accVoid op).endMx id op status
    | .mv _ _ _ _ _ _ => s.mvEnd id op status
    | .cpym _ _ _ _ _ => s.onOp id (fun o => o.failMembers status)
    | .ared _ _ _ => s.onOp id (fun o => { o with failed := status.toNat })
    | .agath _ _ _ => s.onOp id (fun o => { o with failed := status.toNat })
    | .bcast _ _ _ => s.onOp id (fun o => { o with failed := status.toNat })
    | .launch _ _ _ _ _ => s.completeOp id status
    | .cpy _ _ _ _ _ _ => s.completeOp id status
    | .cpyq _ _ _ _ _ _ => s.completeOp id status
    | .cbook _ _ _ _ _ => s.completeOp id status
    | _ => s.endMx id op status
/-- Whether a lane of a field access can still fail in the datapath: its thread has executed nothing since, and of a splat
no request has been applied (R84, R245; log entry 43). -/
def State.laneStands (s : State) (core : Nat) (q : Req) : Bool :=
  q.core == core && !q.served && match s.thread q.thread with
    | some t => t.fresh && t.atWord && t.pc == q.pc + 4 && (match q.kind with
        | .field _ => t.nld == q.seq
        | .splat => t.nst == q.seq
        | .splatLog => t.nst == q.seq
        | _ => false)
    | none => false
/-- The field accesses of an event that can fail. -/
def State.lanesStruck (s : State) (core : Nat) (reqs : List Nat) : List (Nat × Req) :=
  reqs.filterMap (fun id => (Tbl.find s.reqs id).bind (fun q => if s.laneStands core q then some (id, q) else none))
/-- The thread is back at the word of a field access that has failed: it has written nothing, and its destination holds what
it held before the word (R84, R245, R268). -/
def Thread.undo (u : Thread) (q : Req) : Thread :=
  let back := if q.kind.loading then u.loads.find? (fun l => l.seq == q.seq) else none
  let u := { u.dropReq q with pc := q.pc, fresh := false, loads := if q.kind.loading then u.loads.filter (fun l => l.seq != q.seq) else u.loads }
  match back with
  | some l => u.setVs l.dest l.old
  | none => u
/-- A lane of a field access fails: none of its requests is performed, and its thread traps at the word (R245). -/
def State.strikeLane (s : State) (q : Req) : State :=
  let mine := fun (x : Req) => x.thread == q.thread && x.seq == q.seq && x.kind == q.kind
  (({ s with reqs := s.reqs.filter (fun e => !mine e.2) }).onThread q.thread (fun u => u.undo q)).raise q.thread clMachine 1 0 0 q.resume
/-- Strike the lanes that requests name, each once. -/
def State.strikeLanes (s : State) (inst : Nat) (reqs : List Nat) : State :=
  reqs.foldl (fun (s : State) id => match Tbl.find s.reqs id with
    | some q => if s.laneStands inst q then s.strikeLane q else s
    | none => s) s
/-- An operation is struck: where that ends it, its record stays for the checks that fail in other units (R86). -/
def State.failOp (s : State) (id : Nat) (status : Byte) : State :=
  match Tbl.find s.ops id with
  | none => s
  | some op =>
    let t := s.strikeOp id status
    if (Tbl.find t.ops id).isSome then t else { t with struckOps := Tbl.insert t.struckOps id op }
/-- An operation under way, or struck (R86). -/
def State.checkedOp (s : State) (id : Nat) : Option Op :=
  match Tbl.find s.ops id with
  | some op => some op
  | none => Tbl.find s.struckOps id
/-- The status of an error in an operation's unit: CONTAINED in its storage, and where its rule lists that code alone (R215,
R277, R286, R346); else ARITH_CHECK (R84). -/
def Op.errorStatus (op : Op) (store : Bool) : Byte :=
  if store then stContained
  else match op.instr with
    | .old _ _ _ _ _ => stContained
    | .launch _ _ _ _ _ => stContained
    | .ared _ _ _ => stContained
    | .agath _ _ _ => stContained
    | .bcast _ _ _ => stContained
    | _ => stArithCheck
/-- Loads and field loads in flight that read a line, or a near span, which is about to become poisoned, return its
bytes as they are, with those that their own threads' earlier stores are about to write (R163; log entry 43). -/
def State.settleReads (s : State) (near : Bool) (line : Nat) : State :=
  let reads := fun (q : Req) => match q.kind with
    | .load _ => q.near == near && (linesOf q.addr q.size).contains line
    | .field _ => q.taps.any (fun t => t.near == near && t.addr / 128 == line)
    | _ => false
  (s.reqs.filter (fun e => reads e.2)).foldl (fun (s : State) e => match e.2.kind, e.2.field with
    | .load sz, _ => s.loadAnswer e.1 e.2 sz false
    | .field grad, some f => s.fieldReturn e.1 e.2 f grad
    | _, _ => s) s
/-- A line becomes poisoned; a dirty copy in an L1 is written back poisoned (R314, R375). -/
def State.poisonLine (s : State) (line : Nat) : State :=
  let s := (s.settleReads false line).recall line
  { s with poison := setInsert s.poison line }
/-- A near span becomes poisoned (R306). -/
def State.poisonSpan (s : State) (span : Nat) : State :=
  let s := s.settleReads true span
  { s with nearPoison := setInsert s.nearPoison span }
/-- A stored word of a tile gets a wrong parity bit (R59). -/
def Tile.damage (t : Tile) (k : Nat) : Tile := { t with cells := Tbl.modify t.cells k (fun w => w ^^^ (1#36 <<< 35)) }

/-! The record of an event (R384, R387, R388) -/

/-- SYNDROME: the code's, or STAGE, INDEX (of a multiplier lane, a bus or a register-file lane), EXPECTED and OBSERVED. -/
def mcSyndrome (k : McKind) : Word :=
  let part := fun (stage index : Byte) => stage.zeroExtend 32 ||| (if stage = 1 ∨ stage = 5 ∨ stage = 6 then index.zeroExtend 32 <<< 8 else 0)
  match k with
  | .ecc code => code
  | .parity stage index => part stage index
  | .residue stage index e o => part stage index ||| (e.zeroExtend 32 <<< 16) ||| (o.zeroExtend 32 <<< 18)
  | .protocol => 0
/-- SOURCE of an event. -/
def mcSource (ev : McEvent) : Byte :=
  match ev.place, ev.kind with
  | .trip, _ => 6
  | _, .ecc _ => 1
  | _, .parity _ _ => 2
  | _, .residue _ _ _ _ => 3
  | _, .protocol => 5
/-- The native near address of a near key, and the launch and workgroup of its allocation; outside any allocation the core
is named by its physical number (log entry 24). -/
def State.nearName (s : State) (key : Nat) : DWord × Word × Word :=
  match s.allocAt (key / 2 ^ 19) (key % 2 ^ 19) with
  | some (g, w) => ((s.nativeNear w key).zeroExtend 64, s.nameOf g)
  | none => ((1#1 ++ BitVec.ofNat 8 (key / 2 ^ 19) ++ 0#4 ++ BitVec.ofNat 19 key).zeroExtend 64, 0xFFFFFFFF, 0xFFFFFFFF)
/-- The launch and workgroup of an owner, if there is one. -/
def State.ownerName (s : State) (o : Option Nat) : Word × Word := (o.map s.nameOf).getD (0xFFFFFFFF, 0xFFFFFFFF)
/-- The record of an event of a class: its address, launch and workgroup are those of what it strikes. -/
def State.record (s : State) (type inst : Nat) (cls : BitVec 2) (ev : McEvent) : State :=
  let put := fun (akind : Byte) (addr : DWord) (n : Word × Word) => s.mcEvent type inst cls (mcSource ev) akind addr (mcSyndrome ev.kind) n.1 n.2
  match ev.place with
  | .thread r => put 3 (((s.thread r).map (·.pc.zeroExtend 64)).getD 0) (s.nameOf r.wg)
  | .lanes reqs => match s.lanesStruck inst reqs with
    | (_, q) :: _ => put 3 (q.pc.zeroExtend 64) (s.nameOf q.thread.wg)
    | [] => s
  | .op id _ => match s.checkedOp id with
    | some op => s.opRecord op type inst (mcSource ev) (mcSyndrome ev.kind)
    | none => s
  | .line pa => put 1 (BitVec.ofNat 64 pa) (0xFFFFFFFF, 0xFFFFFFFF)
  | .near core off => let n := s.nearName (nearKey core off); put 2 n.1 n.2
  | .slot core i => put 0 0 (s.ownerName ((s.core core).slot i).owner)
  | .book core i _ => put 0 0 (s.ownerName ((s.core core).book i).owner)
  | .acc _ _ _ => s
  | .control => put 0 0 (0xFFFFFFFF, 0xFFFFFFFF)
  | .trip => put 0 0 (0xFFFFFFFF, 0xFFFFFFFF)

/-! The class of an event (R374, R375) -/

/-- A residue or parity mismatch that a stage can report: buses, for a thread also register reads (R82, R83, R388). -/
def mcMismatch (k : McKind) (thread : Bool) : Bool :=
  match k with
  | .parity stage _ => stage == 5 || (thread && stage == 6)
  | .residue stage _ e o => decide (1 ≤ stage.toNat) && decide (stage.toNat ≤ 4) && decide (e.toNat < 3) && decide (o.toNat < 3) && e != o
  | _ => false
def mcIsEcc (k : McKind) : Bool :=
  match k with
  | .ecc _ => true
  | _ => false
/-- Whether an operation runs in a unit: the copy unit or the matrix engine of its core, or for a bank MV a regolith unit
with a job of it, or its base die's channels (R346). -/
def Op.inUnit (op : Op) (type inst : Nat) : Bool :=
  match op.instr with
  | .mv _ _ _ _ _ _ =>
    if op.phase ≤ 1 then type == 6 && inst == op.core
    else (type == 0x0D && inst / 512 == op.pa / 2 ^ 37 % 4 && !(mvUnitRows op.block (inst % 512)).isEmpty)
      || (type == 0x0E && inst == op.pa / 2 ^ 37 % 4)
  | .cmpkSparse _ _ _ => type == 6 && inst == op.core && op.phase != 4
  | i => (if isTileOp i then type == 6 else type == 5) && inst == op.core
/-- The class of an error in a cache line, a DRAM sector or the line that a unit reads; 0 where the unit holds no such line. -/
def State.lineClass (s : State) (type inst pa : Nat) (correctable : Bool) : BitVec 2 :=
  let line := pa / 128
  let c : BitVec 2 := if correctable then 1 else 2
  match type with
  | 3 => if Tbl.find s.owners line = some inst then c else if (Tbl.find (s.core inst).clean line).isSome then 1 else 0
  | 4 => if (Tbl.find (s.core inst).ffu line).isSome then 1 else 0
  | 0x0A => if (Tbl.find s.l2 line).isSome ∧ pa / 2 ^ 37 % 4 = inst then c else 0
  | 0x0C => if isDevice pa ∧ validPa 64 pa = true ∧ pa / 2 ^ 37 % 4 * 64 + pa / 2 ^ 12 % 64 = inst then c else 0
  | 0x0D => if isDevice pa ∧ validPa 64 pa = true ∧ pa / 2 ^ 37 % 4 * 512 + pa / 2 ^ 12 % 512 = inst then c else 0
  | _ => 0
/-- The class of an error in a unit's own state, which is coded, or a broken protocol: an error that the code corrects is
corrected; another of a core's unit is CORE_CONTROL_ERROR's (R377), and of a link LINK_DOWN's (R406); any other is fatal.
Residues and operand parity guard no control state (R82, R83, R375). -/
def controlClass (type : Nat) (kind : McKind) (correctable : Bool) : BitVec 2 :=
  match kind with
  | .ecc _ => if type = 0x10 then 0 else if correctable then 1 else if type ≤ 7 then 0 else 3
  | .protocol => if type = 0x10 ∨ type ≤ 7 then 0 else 3
  | _ => 0
/-- The class of an event, which the unit, the place and the kind of error fix (R374); 0 where they name no error of R375. -/
def State.classOf (s : State) (type inst : Nat) (ev : McEvent) : BitVec 2 :=
  let c : BitVec 2 := if ev.correctable then 1 else 2
  if bankCount type ≤ inst then 0
  else match ev.place with
  | .control => controlClass type ev.kind ev.correctable
  | .trip => if (type = 0x0E ∨ type = 0x12) ∧ ev.kind = .protocol then 3 else 0
  | .thread r => match s.thread r, s.wgOf r with
    | some t, some w => if type = 1 ∧ inst = 4 * w.core + w.quarter ∧ t.atWord = true ∧ mcMismatch ev.kind true = true then 2 else 0
    | _, _ => 0
  | .lanes reqs => if type = 4 ∧ mcMismatch ev.kind false = true ∧ (s.lanesStruck inst reqs).isEmpty = false then 2 else 0
  | .op id store => match s.checkedOp id with
    | some op =>
      if op.inUnit type inst = false then 0
      else if store then (if type = 0x0D ∧ mcIsEcc ev.kind = true ∧ ev.correctable = false then 2 else 0)
      else if mcMismatch ev.kind false = true then 2 else 0
    | none => 0
  | .line pa => if mcIsEcc ev.kind then s.lineClass type inst pa ev.correctable else 0
  | .near core off => if type = 2 ∧ inst = core ∧ off < sliceBytes ∧ mcIsEcc ev.kind = true then c else 0
  | .slot core i => if type = 6 ∧ inst = core ∧ i < 8 ∧ mcIsEcc ev.kind = true then c else 0
  | .book core i line => if type = 5 ∧ inst = core ∧ i < 4 ∧ line < 32 ∧ mcIsEcc ev.kind = true then c else 0
  | .acc _ _ _ => 0

/-! Contained and corrected errors -/

/-- What a contained error strikes (R375). -/
def State.strike (s : State) (inst : Nat) (x : McPlace) : State :=
  match x with
  | .thread r => s.strikeThread r
  | .op id store => match Tbl.find s.ops id with
    | some op => s.failOp id (op.errorStatus store)
    | none => s
  | .lanes reqs => s.strikeLanes inst reqs
  | .line pa => s.poisonLine (pa / 128)
  | .near core off => s.poisonSpan (spanOf (nearKey core off))
  | .slot core i => s.onCore core (fun c => c.setSlot i { c.slot i with damaged := true })
  | .book core i line => s.onCore core (fun c => c.setBook i { c.book i with damaged := setInsert (c.book i).damaged line })
  | .control => s
  | .acc _ _ _ => s
  | .trip => s
/-- A clean L1 line (TYPE 3) or FFU-cache line (TYPE 4) with an error is discarded (R375). -/
def State.discardLine (s : State) (type inst : Nat) (x : McPlace) : State :=
  match type, x with
  | 3, .line pa => s.dropClean inst (pa / 128)
  | 4, .line pa => s.onCore inst (fun c => { c with ffu := Tbl.erase c.ffu (pa / 128) })
  | _, _ => s
/-- The record and the stop: nothing executes any more until PCIe reset (Step.lean). -/
def State.fatalStop (s : State) (type inst : Nat) (ev : McEvent) : State :=
  if s.mgmt.fatal then s
  else
    let id := bankId type inst
    let seq := (s.bank id).next
    let s := s.record type inst 3 ev
    { s with mgmt := { s.mgmt with fatal := true, cause := (id, seq) } }
/-- R374, R375, R385: an error is detected. Damage to a word of a tile is no event yet: the operation that reads the word
finds it (R59). -/
def execMachineCheckEvent (type inst : Nat) (ev : McEvent) (s : State) : Out :=
  match ev.place with
  | .acc g i k => if (s.wg g).any (fun w => decide (i < w.tiles)) then .next (s.onTile g i (fun t => t.damage k)) else .next s
  | _ =>
    let cls := s.classOf type inst ev
    if cls = 1 then .next ((s.record type inst 1 ev).discardLine type inst ev.place)
    else if cls = 2 then .next ((s.record type inst 2 ev).strike inst ev.place).settleTraps
    else if cls = 3 then .next (s.fatalStop type inst ev)
    else .next s
/-- R377: the core's workgroups are terminated, and it goes offline. The bank that gets the record is not stated: that of
the core's quarter 0, with the syndrome of a code, since control state is coded (log entry 24). -/
def execCoreControlError (core : Nat) (s : State) : Out :=
  if s.isOnline core = false then .next s
  else
    let (code, s) := s.freshWord
    let s := s.mcEvent 0x01 (4 * core) 2 1 0 0 code 0xFFFFFFFF 0xFFFFFFFF
    let s := ((s.wgs.filter (fun e => e.2.core == core)).map (·.1)).foldl (fun (s : State) g => s.terminateWg g) s
    .next (((s.onCore core (fun c => { c with accepts := false })).offline core).settleTraps)
/-- R385: the slot whose record has this SEQ is freed. -/
def Bank.ack (b : Bank) (seq : Word) : Bank := { b with slots := b.slots.filter (fun e => e.2.seq != seq) }
/-- R385. -/
def execMcAck (type inst : Nat) (seq : Word) (s : State) : Out :=
  s.hostSets .pf (fun s => if bankCount type ≤ inst then s
    else { s with banks := Tbl.insert s.banks (bankId type inst) ((s.bank (bankId type inst)).ack seq) })

/-! Patrol scrub (R413) -/

/-- Whether there is something to scrub: a device address, a line that the L2 holds, a near byte. -/
def State.scrubThere (s : State) (x : ScrubPlace) (addr : Nat) : Bool :=
  match x with
  | .dram => isDevice addr && validPa 64 addr
  | .l2 => isDevice addr && validPa 64 addr && (Tbl.find s.l2 (addr / 128)).isSome
  | .near => decide (addr / 2 ^ 19 < 256) && decide (addr % 2 ^ 19 < sliceBytes)
/-- The record of scrub, in the bank of the DRAM channel, the L2 or the near slice, with the code's syndrome (R313, R383,
R384). -/
def State.scrubRecord (s : State) (x : ScrubPlace) (addr : Nat) (cls : BitVec 2) : State :=
  let (code, s) := s.freshWord
  match x with
  | .dram => s.mcEvent 0x0C (addr / 2 ^ 37 % 4 * 64 + addr / 2 ^ 12 % 64) cls 1 1 (BitVec.ofNat 64 addr) code 0xFFFFFFFF 0xFFFFFFFF
  | .l2 => s.mcEvent 0x0A (addr / 2 ^ 37 % 4) cls 1 1 (BitVec.ofNat 64 addr) code 0xFFFFFFFF 0xFFFFFFFF
  | .near => let n := s.nearName addr; s.mcEvent 0x02 (addr / 2 ^ 19) cls 1 2 n.1 code n.2.1 n.2.2
/-- R413, R343: scrub reads a place, which activates a DRAM row; what it finds is corrected with a record, or poisoned
(R306, R314). -/
def execPatrolScrub (x : ScrubPlace) (addr : Nat) (found : ScrubFound) (s : State) : Out :=
  if s.scrubThere x addr = false then .next s
  else
    let s := if x = .dram then s.activate addr else s
    match found with
    | .clean => .next s
    | .correctable => .next (s.scrubRecord x addr 1)
    | .uncorrectable =>
      let s := s.scrubRecord x addr 2
      .next (if x = .near then s.poisonSpan (spanOf addr) else s.poisonLine (addr / 128))

/-! Orbit links (R406) -/

/-- A corrected record of a link; SOURCE 5, protocol (log entry 20). -/
def execFlitReplay (link : Nat) (s : State) : Out :=
  if 12 ≤ link ∨ s.linkUp link = false then .next s
  else .next (s.mcEvent 0x10 link 1 5 0 0 0 0xFFFFFFFF 0xFFFFFFFF)
/-- Whether the route of an access to a physical address passes a link (R405). -/
def State.usesLink (s : State) (link pa : Nat) : Bool :=
  regionOf pa == 1 && match s.routeOf pa with
    | some r => r.contains link
    | none => false
/-- The physical pieces of a virtual range of a core's partition, as far as it is mapped. -/
def State.reachOf (s : State) (part core : Nat) (x : DWord × Nat) : List (Nat × Nat) :=
  (pagePieces (x.2 / 4096 + 2) x.1.toNat x.2).filterMap (fun e => match s.translate part (some core) e.1 with
    | .ok y => some (y.pa, e.2)
    | .error _ => none)
/-- Whether a line of a virtual range lies behind a link (R405). -/
def State.vaUses (s : State) (link part core : Nat) (x : DWord × Nat) : Bool :=
  (s.reachOf part core x).any (fun e => (linesOf e.1 e.2).any (fun l => s.usesLink link (l * 128)))
/-- The queue descriptor of a push or pop (R279). -/
def Req.queueRange (q : Req) : DWord × Nat := (q.va, 64)
/-- Whether a request goes through a link: that of a push or pop goes to its queue's home (R280). -/
def Req.uses (q : Req) (s : State) (link : Nat) : Bool :=
  !q.served && (match q.kind with
    | .push => s.vaUses link (s.partOfRef q.thread) q.core q.queueRange
    | .pop => s.vaUses link (s.partOfRef q.thread) q.core q.queueRange
    | .gcinc => false
    | .field _ => q.taps.any (fun t => !t.near && s.usesLink link t.addr)
    | .splatLog => false
    | _ => !q.near && s.usesLink link q.addr)
/-- The global ranges that an operation reads or writes: first byte and length (R199, R202, R203, R207, R215, R217, R277). -/
def Op.globals (op : Op) : List (DWord × Nat) :=
  let at_ := fun (i : Nat) => op.base + (op.args.getD i 0).zeroExtend 64
  let off := fun (k : Nat) => op.base + BitVec.ofNat 64 k
  let units := ((List.range (blk op.block 1)).flatMap (fun u => accSpans op.block u)).map (fun e => (off e.1, e.2))
  match op.instr with
  | .cpy _ _ _ _ dir n => (if (dirNear dir).1 then [] else [(at_ 0, vecBytes n)]) ++ (if (dirNear dir).2 then [] else [(at_ 1, vecBytes n)])
  | .cpyq _ _ _ _ idx8 _ => let i := (op.args.getD 0 0).toNat; [(off (if idx8 then i else i / 2), 1)]
  | .cbook _ _ _ vec _ => [(op.base, 256 * vecBytes vec)]
  | .cpym _ _ _ _ near => if near then [] else [(off (cpymSrc op.block), cpymLen op.block)]
  | .launch _ _ _ _ near => if near then [] else [(at_ 0, 64)]
  | .old _ _ _ _ _ => if blk op.block 8 = 1 then [] else
      (List.range 64).map (fun i => (off (bytesAt op.block 0 4 + i * bytesAt op.block 4 4), 256))
  | .accld _ _ _ _ => if blk op.block 12 % 2 = 1 then [] else units
  | .accst _ _ _ _ => if blk op.block 12 % 2 = 1 then [] else units
  | _ => []
/-- A request fails with its link: a store or RED is dropped and counted, its counter falls; any other traps its thread, which
leaves what it waits for, and its destination keeps what it holds (R406). -/
def State.loseReq (s : State) (id : Nat) (q : Req) : State :=
  let s := if q.kind.returning then s.freeReturn q.thread else s
  let s := s.dropReq id
  match s.thread q.thread with
  | none => s
  | some t =>
    if q.kind == .store || q.kind == .splat || (match q.kind with
        | .red _ => true
        | _ => false) then
      (if s.reqs.any (fun e => e.2.thread == q.thread && e.2.kind == .splat && e.2.seq == q.seq) then s
        else (if q.kind == .splat then s.splatFlags q else s).onThread q.thread (fun u => u.storeDone q.seq)).linkDrop (s.partOfRef q.thread)
    else (s.onThread q.thread (fun u => { (leaveBarrier u).dropReq q with loads := u.loads.filter (fun l => l.seq != q.seq) })).trapData
      t clMachine 3 q.va
/-- R406: the link goes down with a contained record; every request and every asynchronous item in flight through it fails.
The routes through it go once nothing is under way to their destination (R405, Driver.lean). -/
def execLinkDown (link : Nat) (s : State) : Out :=
  let l := Tbl.get { up := false, budget := 64 } s.links link
  if 12 ≤ link ∨ l.up = false then .next s
  else
    let reqs := s.reqs.filter (fun e => e.2.uses s link)
    let ops := s.ops.filter (fun e => e.2.globals.any (s.vaUses link e.2.part e.2.core))
    let s := s.mcEvent 0x10 link 2 5 0 0 0 0xFFFFFFFF 0xFFFFFFFF
    let s := { s with links := Tbl.insert s.links link { l with up := false } }
    let s := reqs.foldl (fun (s : State) e => s.loseReq e.1 e.2) s
    .next (ops.foldl (fun (s : State) e => s.strikeOp e.1 stLink) s).settleTraps

/-! Alerts and throttling (R343, R344, R414) -/

/-- The partitions with an MV whose job in a unit has not run (R344). -/
def State.heldParts (s : State) (unit : Nat) : List Nat := ((s.ops.filter (fun e => e.2.jobIn unit)).map (fun e => e.2.part)).eraseDups
/-- The refresh of a row's neighbours begins and holds the unit's sequencer; the pause is counted once for each partition
with a job there (R344, R347). -/
def State.raiseAlert (s : State) (bank row : Nat) : State :=
  let held := s.heldParts (bank / 4)
  let s := held.foldl (fun (s : State) p => s.mvcAdd p 8 1) s
  { s with alerts := s.alerts ++ [{ bank := bank, row := row, counted := held }] }
/-- R343: a row's count has reached ACT_ALERT, and no refresh for it is under way. -/
def execActivationAlert (bank row : Nat) (s : State) : Out :=
  if Tbl.get 0 s.acts (rowKey bank row) < s.mgmt.actAlert ∨ s.alerts.any (fun a => a.bank == bank && a.row == row) = true then .next s
  else .next (s.raiseAlert bank row)
/-- The count of a row restarts. -/
def restartRow (m : Tbl Nat) (bank row : Nat) : Tbl Nat := Tbl.erase m (rowKey bank row)
/-- R343, R344: the two rows on each side have been refreshed and their counts restart; so does the row's own, or its bank
could never accept an activation again (log entry 40). What was held goes on. -/
def execAlertRefreshDone (bank row : Nat) (s : State) : Out :=
  if s.alerts.any (fun a => a.bank == bank && a.row == row) = false then .next s
  else
    let rows := [row, row + 1, row + 2] ++ (if 1 ≤ row then [row - 1] else []) ++ (if 2 ≤ row then [row - 2] else [])
    .next { s with alerts := s.alerts.filter (fun a => !(a.bank == bank && a.row == row)),
                   acts := rows.foldl (fun m r => restartRow m bank r) s.acts }
/-- R343, R414: the periodic refresh of a row restarts its count. -/
def execDramRefresh (bank row : Nat) (s : State) : Out := .next { s with acts := restartRow s.acts bank row }

/-! The fatal stop (R379) -/

/-- R379: an error that R375 makes fatal. -/
def execFatalStop (type inst : Nat) (ev : McEvent) (s : State) : Out :=
  if s.classOf type inst ev = 3 then .next (s.fatalStop type inst ev) else .next s
/-- R403, R414: a quadrant crosses a temperature point: 0 below them, 1 half duty, 2 a quarter, 3 the trip, which is
fatal (R375). -/
def execThrottleCrossing (quadrant level : Nat) (s : State) : Out :=
  if 4 ≤ quadrant ∨ 4 ≤ level ∨ Tbl.get 0 s.mgmt.throttle quadrant = level then .next s
  else
    let s := ({ s with mgmt := { s.mgmt with throttle := Tbl.put 0 s.mgmt.throttle quadrant level } }).irqPf 3
    if level = 3 then .next (s.fatalStop 0x0E quadrant { place := .trip, kind := .protocol, correctable := false })
    else .next s

/-! The inventory (R380-R382) -/

/-- An inventory entry (R382). -/
structure Entry32 where
  kind   : Nat
  state  : Nat
  status : Byte
  part   : Nat
  launch : Word
  wglog  : Word
  a      : Word
  b      : DWord
  c      : DWord
  deriving DecidableEq, Repr
/-- Its 32 bytes. -/
def Entry32.bytes (e : Entry32) : List Byte :=
  [BitVec.ofNat 8 e.kind, BitVec.ofNat 8 e.state, e.status, BitVec.ofNat 8 e.part] ++ leBytes 4 e.launch.toNat
    ++ leBytes 4 e.wglog.toNat ++ leBytes 4 e.a.toNat ++ leBytes 8 e.b.toNat ++ leBytes 8 e.c.toNat
/-- Whether an entry is written before another: by KIND, LAUNCH, WGLOG (R381). -/
def Entry32.before (x y : Entry32) : Bool :=
  decide (x.kind < y.kind) || (x.kind == y.kind && (decide (x.launch.toNat < y.launch.toNat)
    || (x.launch == y.launch && decide (x.wglog.toNat ≤ y.wglog.toNat))))
/-- Insert an entry in order. -/
def insertEntry (l : List Entry32) (e : Entry32) : List Entry32 :=
  match l with
  | [] => [e]
  | x :: t => if x.before e then x :: insertEntry t e else e :: x :: t
/-- KIND 1: the packets of a queue that have been published and not admitted. -/
def State.queuedEntries (s : State) (n : Nat) (q : Queue) : List Entry32 :=
  let mask := fun (k : BitVec 16) => k.toNat % 2 ^ q.log2.toNat
  let one := fun (k : BitVec 16) (b : List Byte) =>
    ({ kind := 1, state := 0, status := stNone, part := q.owner.getD 0, launch := BitVec.ofNat 32 (n * 2 ^ 16 + mask k),
       wglog := 0xFFFFFFFF, a := BitVec.ofNat 32 n, b := packetRecord b, c := 0 } : Entry32)
  (match q.packet with
    | some p => [one (q.rd - 1) p.bytes]
    | none => [])
  ++ (List.range (q.wr - q.rd).toNat).map (fun i => let k := q.rd + BitVec.ofNat 16 i
    one k (s.memRead (q.slotAddr k) 64))
/-- KIND 2: an admitted launch. -/
def State.launchEntry (s : State) (id : Nat) (l : Launch) : Entry32 :=
  let fin := s.launchOver id l
  { kind := 2, state := if fin then 2 else if l.next = 0 ∧ l.tested = 0 then 0 else 1, status := if fin then stOK else stNone,
    part := l.part, launch := BitVec.ofNat 32 id, wglog := 0xFFFFFFFF, a := BitVec.ofNat 32 l.groups, b := l.record,
    c := BitVec.ofNat 64 (l.done + l.failed) }
/-- KIND 3: a resident workgroup, and a saved one. -/
def State.residentEntry (s : State) (g : Nat) (w : Workgroup) : Entry32 :=
  { kind := 3, state := 1, status := stNone, part := s.partOf w, launch := BitVec.ofNat 32 w.launch, wglog := BitVec.ofNat 32 w.log,
    a := BitVec.ofNat 32 (s.live g).length, b := 0, c := BitVec.ofNat 64 (w.core + 256 * w.quarter) }
def savedEntry (id : Nat) (l : Launch) (x : SavedWg) : Entry32 :=
  { kind := 3, state := 1, status := stNone, part := l.part, launch := BitVec.ofNat 32 id, wglog := BitVec.ofNat 32 x.wg.log,
    a := BitVec.ofNat 32 x.tids.length, b := l.saveArea x.wg.log, c := BitVec.ofNat 64 (x.wg.core + 256 * x.wg.quarter) }
/-- The major of an instruction's word. -/
def majorOf (i : Instr) : Nat := ((encode i).map (fun w => (fieldOf w 31 26).toNat)).getD 0
/-- The function field of a request's word. -/
def fnOf (i : Instr) : Nat := ((encode i).map (fun w => (fieldOf w 4 0).toNat)).getD 0
/-- B of an operation: its parameter block, or its destination. -/
def State.opPlace (s : State) (op : Op) : DWord :=
  match op.instr, s.wg op.wg with
  | .cpy _ _ _ _ dir _, _ => if (dirNear dir).2 then (op.args.getD 1 0).zeroExtend 64 else op.base + (op.args.getD 1 0).zeroExtend 64
  | .cpyq _ _ _ _ _ _, _ => (op.args.getD 1 0).zeroExtend 64
  | .cbook _ _ _ _ _, _ => op.base
  | .launch _ _ _ _ near, _ => if near then (op.args.getD 0 0).zeroExtend 64 else op.base + (op.args.getD 0 0).zeroExtend 64
  | .cpym _ _ _ _ _, _ => BitVec.ofNat 64 op.pa
  | .cmpkSparse _ _ _, _ => BitVec.ofNat 64 op.pa
  | .ared _ _ _, _ => BitVec.ofNat 64 op.pa
  | .agath _ _ _, _ => BitVec.ofNat 64 op.pa
  | .bcast _ _ _, _ => BitVec.ofNat 64 op.pa
  | _, some w => (s.nativeNear w (op.args.getD 0 0).toNat).zeroExtend 64
  | _, none => 0
/-- Whether an operation has begun. -/
def Op.started (op : Op) : Bool := op.phase != 0 || !op.rows.isEmpty
/-- Whether an operation has issued: a CMPK.SPARSE that counts has not (R230). -/
def Op.issued (op : Op) : Bool :=
  match op.instr with
  | .cmpkSparse _ _ _ => op.phase != 4
  | _ => true
/-- KIND 4: an asynchronous operation. -/
def State.opEntry (s : State) (op : Op) : Entry32 :=
  let n := s.nameOf op.wg
  let tid := match op.issuer with
    | .threads l => (l.head?.map (·.1.tid)).getD 0
    | .role _ _ _ => 0
  { kind := 4, state := if op.started then 1 else 0, status := stNone, part := op.part, launch := n.1, wglog := n.2,
    a := BitVec.ofNat 32 (majorOf op.instr + 64 * (op.tag.getD 0).toNat + 4096 * tid), b := s.opPlace op, c := BitVec.ofNat 64 op.core }
/-- A full/empty operation by its function (R166). -/
def feWord (fn : Nat) : Instr :=
  match fn with
  | 0 => .ldnf 0 0
  | 1 => .ldnw 0 0
  | 2 => .stne 0 0
  | 3 => .stnf 0 0
  | 4 => .fesetE 0
  | 5 => .fesetF 0
  | _ => .feq 0 0
/-- The word of a service request, as far as its major and fn go. -/
def Req.word (q : Req) : Option Instr :=
  let sp : Space := if q.near then .near else .global
  match q.kind with
  | .atom op => some (.atom 0 0 0 sp op)
  | .red op => some (.red 0 0 sp op)
  | .lr => some (.lr 0 0 sp)
  | .sc => some (.sc 0 0 0 sp)
  | .push => some (.qpush 0 0 0)
  | .pop => some (.qpop 0 0)
  | .gcinc => some (.gcinc 0 0)
  | .splat => some (.fspl 0 0 0)
  | .fullEmpty fn => some (feWord fn)
  | _ => none
/-- The home cluster of a request; of a push or pop, that of its queue (R280). -/
def State.reqHome (s : State) (q : Req) : Nat :=
  if q.kind == .push || q.kind == .pop then (match s.translate (s.partOfRef q.thread) (some q.core) q.va.toNat with
    | .ok x => homeOf x.pa
    | .error _ => 0)
  else q.home
/-- KIND 5: a service request, parked or queued, or performed with its reply on the way. -/
def State.reqEntry (s : State) (q : Req) : Option Entry32 :=
  q.word.map (fun i =>
    let n := s.nameOf q.thread.wg
    { kind := 5, state := if q.served then 2 else 0, status := if q.served then stOK else stNone, part := s.partOfRef q.thread,
      launch := n.1, wglog := n.2, a := BitVec.ofNat 32 (majorOf i + 64 * fnOf i), b := q.va,
      c := BitVec.ofNat 64 (q.thread.tid + 2 ^ 16 * s.reqHome q) })
/-- KIND 5: a splat request of a deterministic launch, on its way to the launch's log or in it (R248). DESIGN CHOICE (log
entry 42): the requests in the log are listed one by one, besides the entry of their launch. -/
def splatEntry (part : Nat) (n : Word × Word) (tid : Nat) (x : Tap) : Entry32 :=
  { kind := 5, state := 0, status := stNone, part := part, launch := n.1, wglog := n.2,
    a := BitVec.ofNat 32 (majorOf (.fspl 0 0 0) + 64 * fnOf (.fspl 0 0 0)), b := x.va,
    c := BitVec.ofNat 64 (tid + 2 ^ 16 * (if x.near then clusterOf (x.addr / 2 ^ 19) else homeOf x.addr)) }
def State.splatEntries (s : State) : List Entry32 :=
  (s.reqs.filter (fun e => e.2.kind == .splatLog)).flatMap (fun e =>
      e.2.taps.map (fun x => splatEntry (s.partOfRef e.2.thread) (s.nameOf e.2.thread.wg) e.2.thread.tid x))
    ++ s.launches.flatMap (fun e => e.2.splats.map (fun r =>
      splatEntry e.2.part (BitVec.ofNat 32 e.1, BitVec.ofNat 32 r.wglog) r.tid r.tap))
/-- KIND 5: a parked push or pop of a peer. DESIGN CHOICE (log entry 44): the peer tells no partition, launch, workgroup or
thread, so the entry has the owner of the frame, and ones for the others; the address is the physical one. -/
def State.peerEntry (s : State) (x : PeerOp) : Entry32 :=
  let i : Instr := if x.push then .qpush 0 0 0 else .qpop 0 0
  { kind := 5, state := 0, status := stNone, part := (s.frameOwner (frameOf x.off)).getD 0xFF, launch := 0xFFFFFFFF, wglog := 0xFFFFFFFF,
    a := BitVec.ofNat 32 (majorOf i + 64 * fnOf i), b := BitVec.ofNat 64 x.off, c := BitVec.ofNat 64 (0xFFFF + 2 ^ 16 * homeOf x.off) }
/-- KIND 6: the members of a CPYM that have not been delivered, those that have failed among them. -/
def State.memberEntries (s : State) (op : Op) : List Entry32 :=
  let n := s.nameOf op.wg
  (op.members.filter (fun m => m.status != stOK || decide (m.next < cpymLines op.block))).map (fun m =>
    { kind := 6, state := if m.status ≠ stOK then 2 else if m.next = 0 then 0 else 1,
      status := if m.status ≠ stOK then m.status else stNone, part := op.part, launch := n.1, wglog := n.2,
      a := BitVec.ofNat 32 m.index, b := BitVec.ofNat 64 op.pa, c := BitVec.ofNat 64 (m.dst / 2 ^ 19) })
/-- Every piece of work in flight, in the order of R381. -/
def State.inventory (s : State) : List Entry32 :=
  let l := s.queues.flatMap (fun e => s.queuedEntries e.1 e.2)
    ++ s.launches.map (fun e => s.launchEntry e.1 e.2)
    ++ s.wgs.map (fun e => s.residentEntry e.1 e.2)
    ++ s.launches.flatMap (fun e => e.2.saved.map (fun x => savedEntry e.1 e.2 x))
    ++ (s.ops.filter (fun e => e.2.issued)).map (fun e => s.opEntry e.2)
    ++ s.reqs.filterMap (fun e => s.reqEntry e.2)
    ++ s.splatEntries
    ++ s.peerOps.map (fun e => s.peerEntry e.2)
    ++ s.ops.flatMap (fun e => s.memberEntries e.2)
  l.foldl insertEntry []
/-- The header of the region (R381). -/
def State.inventoryHeader (s : State) (kept omitted : List Entry32) : List Byte :=
  [0x56, 0x49, 0x4E, 0x56] ++ leBytes 4 1 ++ leBytes 4 kept.length ++ leBytes 4 s.mgmt.cause.1 ++ leBytes 4 s.mgmt.cause.2.toNat
    ++ leBytes 4 (if omitted.isEmpty then 1 else 0)
    ++ (List.range 6).flatMap (fun k => leBytes 4 (omitted.filter (fun e => e.kind == k + 1)).length) ++ List.replicate 16 0
/-- Entries that the region holds (R381). -/
def inventoryRoom : Nat := 2097150
/-- R379 to R382: the inventory is written, or could not be; then DONE and the fatal interrupt. -/
def execInventoryWrite (ok : Bool) (s : State) : Out :=
  if s.mgmt.fatal = false ∨ s.mgmt.fatalDone = true then .next s
  else
    let l := s.inventory
    let kept := l.take inventoryRoom
    let bytes := s.inventoryHeader kept (l.drop inventoryRoom) ++ kept.flatMap Entry32.bytes
    let s := if ok then s.memPut s.mgmt.fatalRegion.toNat bytes else s
    .next (({ s with mgmt := { s.mgmt with fatalDone := true, fatalInv := ok } }).irqPf 0)

end Sys2Proof.Machine
end

