-- ==== Sys2Proof/Machine/Firmware.lean ====
section
/-! DEFINITION. Firmware: bring-up, reset and power (R408, R418), the mailbox commands (R402, R409-R412), page retirement
(R415, R416). -/
namespace Sys2Proof.Machine

/-! Bring-up (R408, R418) -/

/-- The security version of an image's header (R408). -/
def imageSvn (img : List Byte) : Nat := bytesAt img 8 4
/-- The fused security version: as manufactured, or as FUSE_SVN has raised it since. -/
def State.fused (s : State) : Nat := max Config.fusedVersion.toNat s.mgmt.fusedSvn.toNat
/-- The checks of R408. -/
def State.imageOk (s : State) (img : List Byte) : Bool := Config.imageVerified img && decide (s.fused ≤ imageSvn img)
/-- A list entry's 16 bytes (R416). -/
def Retired.bytes (r : Retired) : List Byte :=
  leBytes 4 r.frame ++ [BitVec.ofNat 8 r.cause, BitVec.ofNat 8 r.state, BitVec.ofNat 8 (r.part.getD 0xFF)] ++ List.replicate 9 0
/-- The address of entry i of the retirement list (R416). -/
def State.retireAt (s : State) (i : Nat) : Nat := (fieldOf s.mgmt.retireBase 51 16).toNat * 2 ^ 16 + 16 * i
/-- Firmware writes entry i. -/
def State.writeRetired (s : State) (i : Nat) (r : Retired) : State := s.memEngine (s.retireAt i) r.bytes none
/-- The top 64 MiB of quadrant 0's stack (R381). -/
def inventoryBase : Nat := stackBytes - 2 ^ 26
/-- Where firmware puts the retirement list: 64 KiB of quadrant 0 below the inventory (R416, log entry 10). -/
def listBase : Nat := Config.retireList % (inventoryBase / 2 ^ 16) * 2 ^ 16
/-- Where it puts its log: 256 KiB of quadrant 0 beside the list, in whole 4 KiB, since FWLOG[11:0] is the head (R417, log
entry 10). -/
def logBase : Nat :=
  let l := listBase / 4096
  let b := Config.fwlogRegion % (inventoryBase / 4096 - 63)
  (if b + 64 ≤ l ∨ l + 16 ≤ b then b else if l + 80 ≤ inventoryBase / 4096 then l + 16 else l - 64) * 4096
/-- The management page once firmware runs: the registers that R418 and R416 name. -/
def Management.booted (m : Management) (img : List Byte) : Management :=
  let frames := (Config.flashRetired ++ m.flash).take 4096
  { m with bootState := 2, orbitDev := Config.orbitDevice.zeroExtend 8, svn := BitVec.ofNat 16 (imageSvn img), image := img.take 1024,
           fatalRegion := BitVec.ofNat 64 inventoryBase, retireBase := BitVec.ofNat 64 listBase,
           fwlogBase := BitVec.ofNat 64 logBase,
           retired := frames.map (fun f => { frame := f, cause := 3, state := 2, part := none }),
           retireFull := decide (frames.length = 4096) }
/-- A command ends: its status and results, BUSY falls, the MBOX interrupt (R403, R410, R411). -/
def State.mboxEnd (s : State) (status : BitVec 16) (out : Memory) : State :=
  ({ s with mgmt := { s.mgmt with mboxBusy := false, mboxStatus := status, mboxData := out } }).irqPf 4
/-- A command with no row (R410). -/
def mboxUnknown (cmd : Byte) : Bool := cmd == 0 || decide (7 < cmd.toNat)
/-- An unknown command that firmware finds in the mailbox ends with STATUS 2 (R410). -/
def State.mboxPending (s : State) : State :=
  if s.mgmt.bootState == 2 && s.mgmt.mboxBusy && mboxUnknown s.mgmt.mboxCmd then s.mboxEnd 2 s.mgmt.mboxData else s
/-- R418: bring-up with an image: verified, or STATE reads FAIL. -/
def State.bringUp (s : State) (img : List Byte) : State :=
  if !s.imageOk img then { s with mgmt := { s.mgmt with bootState := 3 } }
  else
    let s : State := { s with
      mgmt := s.mgmt.booted img
      exports := Config.bootExports.foldl (fun m e => Tbl.insert m e.1 e.2) []
      online := (List.range 256).foldl (fun m c => if Config.bootFails c then m else m ||| (1#256 <<< c)) 0
      links := (List.range 12).map (fun i => (i, Link.mk (Config.linkTrains i) 64))
      routes := (List.range 64).map (fun d => (d, (Config.routes d).take 4)) }
    (s.mgmt.retired.zipIdx.foldl (fun (s : State) e => s.writeRetired e.2 e.1) s).mboxPending
/-- What a reset leaves: the fuses and the package flash (R408, R415), and the model's own fields. -/
def State.resetKeeping (s : State) (power : Bool) : State :=
  { State.reset with mgmt := { Management.reset with fusedSvn := s.mgmt.fusedSvn, flash := s.mgmt.flash, power := power },
                     nextId := s.nextId, free := s.free, agenda := s.agenda, sent := s.sent }
/-- R418: PCIe reset, and bring-up from the package flash. -/
def execPcieReset (s : State) : Out := .next ((s.resetKeeping true).bringUp Config.flashImage)
/-- R418: power is lost, and with it all state. -/
def execPowerDown (s : State) : Out := .next (s.resetKeeping false)
/-- R408: LOAD verifies and starts the staged image, once the flash image has failed. -/
def execBootCtlLoad (value : Word) (s : State) : Out :=
  s.hostSets .pf (fun s => if value.getLsbD 0 = false ∨ s.mgmt.bootState ≠ 3 then s
    else s.bringUp (Memory.readN s.mgmt.staging 0 (2 ^ 24)))

/-! The mailbox (R410, R411) -/

/-- A field of MBOX_DATA. -/
def State.mbox (s : State) (lo n : Nat) : Nat := leNat (Memory.readN s.mgmt.mboxData lo n)
/-- Whether MBOX_DATA is zero from an offset on. -/
def State.mboxZero (s : State) (lo : Nat) : Bool := s.mgmt.mboxData.all (fun e => decide (e.1 < lo))
/-- A refused command changes nothing. -/
def State.mboxRefuse (s : State) : State := s.mboxEnd 1 s.mgmt.mboxData
/-- The firmware executes command n, once GO has been written. -/
def mboxCommand (n : Nat) (s : State) (k : State → State) : Out :=
  if s.mgmt.mboxBusy = false ∨ s.mgmt.mboxCmd.toNat ≠ n ∨ s.mgmt.bootState ≠ 2 then .next s else .next (k s)
/-- Results from offset 0 on. -/
def results (bs : List Byte) : Memory := Memory.writeN [] 0 bs

/-- The frame ranges of PART_SET: first frame and count. -/
def State.partRanges (s : State) : List (Nat × Nat) :=
  (List.range (s.mbox 2 2)).map (fun k => (s.mbox (64 + 8 * k) 4, s.mbox (68 + 8 * k) 4))
/-- Whether two ranges meet. -/
def rangesMeet (a b : Nat × Nat) : Bool := decide (a.1 < b.1 + b.2) && decide (b.1 < a.1 + a.2)
/-- No two ranges of a list overlap. -/
def rangesApart (l : List (Nat × Nat)) : Bool :=
  match l with
  | [] => true
  | a :: t => t.all (fun b => !rangesMeet a b) && rangesApart t
/-- A partition with a live launch or an enabled queue is not configured (R402). -/
def State.partBusy (s : State) (p : Nat) : Bool :=
  s.launches.any (fun e => e.2.part == p) || s.queues.any (fun e => e.2.owner == some p && e.2.en)
/-- The partitions other than p. -/
def otherParts (p : Nat) : List Nat := (List.range 8).filter (· != p)
/-- The refusals of PART_SET (R411). -/
def State.partSetOk (s : State) : Bool :=
  let p := s.mbox 0 1
  let op := s.mbox 1 1
  let n := s.mbox 2 2
  let clusters : DWord := BitVec.ofNat 64 (s.mbox 8 8)
  let queues : BitVec 256 := BitVec.ofNat 256 (s.mbox 16 32)
  decide (p < 8) && decide (op ≤ 1) && decide (n ≤ 504) && s.mbox 4 4 == 0 && s.mboxZero (64 + 8 * n) && !s.partBusy p
    && (op == 1 ||
      (decide (s.mbox 48 8 + s.mbox 56 8 ≤ 2 ^ 29)
      && s.partRanges.all (fun r => decide (1 ≤ r.2) && decide (r.1 + r.2 ≤ 196608)) && rangesApart s.partRanges
      && (otherParts p).all (fun o => (s.part o).clusters &&& clusters == 0
          && (s.part o).frames.all (fun a => s.partRanges.all (fun b => !rangesMeet a b)))
      && s.queues.all (fun e => !queues.getLsbD e.1 || e.2.owner == none || e.2.owner == some p)))
/-- The queues of a partition become those of the mask. -/
def State.assignQueues (s : State) (p : Nat) (queues : BitVec 256) : State :=
  (List.range 256).foldl (fun (s : State) n =>
    if queues.getLsbD n then s.onQueue n (fun q => { q with owner := some p })
    else if (s.queue n).owner == some p then s.onQueue n (fun q => { q with owner := none }) else s) s
/-- R402, R411; the partition's clusters hold no translation of another tree. -/
def State.partSet (s : State) : State :=
  let p := s.mbox 0 1
  if !s.partSetOk then s.mboxRefuse
  else
    let conf := s.mbox 1 1 == 0
    let s' := (s.tlbRemove p 0 (2 ^ 52)).onPart p (fun x => { x with
      clusters := if conf then BitVec.ofNat 64 (s.mbox 8 8) else 0, frames := if conf then s.partRanges else [],
      hostBase := if conf then s.mbox 48 8 else 0, hostLen := if conf then s.mbox 56 8 else 0 })
    ((s'.tlbRemove p 0 (2 ^ 52)).assignQueues p (if conf then BitVec.ofNat 256 (s.mbox 16 32) else 0)).mboxEnd 0 []
/-- R411. -/
def execPartSet (s : State) : Out := mboxCommand 1 s State.partSet

/-- A policy entry: ITEM, INDEX, VALUE. -/
structure PolicyEntry where
  item  : Nat
  index : Nat
  value : Nat
  deriving DecidableEq, Repr
def clamp (lo hi v : Nat) : Nat := max lo (min hi v)
/-- The highest INDEX of an ITEM, if the ITEM exists (R411). -/
def policyIndex (item : Nat) : Option Nat :=
  match item with
  | 1 => some 255
  | 2 => some 0
  | 3 => some 0
  | 4 => some 0
  | 5 => some 0
  | 6 => some 0
  | 7 => some 0
  | 8 => some 0
  | 9 => some 3
  | 10 => some 11
  | 11 => some 0
  | 12 => some 7
  | _ => none
/-- The value of an item clamped to its range (R412), for those that are plain numbers. -/
def policyClamp (item index v : Nat) : Nat :=
  match item with
  | 1 => clamp 1 65535 v
  | 3 => clamp 256 8192 v
  | 4 => clamp (2 ^ 12) (2 ^ 32) v
  | 5 => clamp 60 1440 v
  | 6 => clamp 1 1000 v
  | 7 => clamp 5 100 v
  | 8 => clamp 90 104 v
  | 9 => min v (Config.fusedCurrent index)
  | 10 => clamp 1 1024 v
  | 11 => clamp (2 ^ 20) (2 ^ 32) v
  | _ => v
/-- MVD_POLICY of a register image, BATCH clamped, reserved bits zero (R339). -/
def mvdImage (v : DWord) : Word := (fieldOf v 31 0 &&& 0x00FFFF00) ||| BitVec.ofNat 32 (min 8 (fieldOf v 3 0).toNat)
/-- PART_CAP of a register image, each field clamped (R392). -/
def capImage (v : DWord) : DWord :=
  BitVec.ofNat 64 (clamp 1 8 (fieldOf v 3 0).toNat + 2 ^ 4 * clamp 8 512 (fieldOf v 13 4).toNat
    + 2 ^ 14 * clamp 1 381 (fieldOf v 23 14).toNat + 2 ^ 24 * min 16 (fieldOf v 28 24).toNat
    + 2 ^ 29 * clamp 4 256 (fieldOf v 37 29).toNat)
/-- One policy takes effect (R411, R412). -/
def State.applyPolicy (s : State) (e : PolicyEntry) : State :=
  let v := policyClamp e.item e.index e.value
  match e.item with
  | 1 => s.onQueue e.index (fun q => { q with quantum := BitVec.ofNat 16 v })
  | 2 => { s with mgmt := { s.mgmt with mvdPolicy := mvdImage (BitVec.ofNat 64 v) } }
  | 3 => { s with mgmt := { s.mgmt with actAlert := v } }
  | 4 => { s with mgmt := { s.mgmt with preBound := v } }
  | 10 => { s with links := Tbl.insert s.links e.index { Tbl.get { up := false, budget := 64 } s.links e.index with budget := v } }
  | 12 => s.onPart e.index (fun p => { p with cap := capImage (BitVec.ofNat 64 v) })
  | _ => { s with mgmt := { s.mgmt with policy := Tbl.insert s.mgmt.policy (e.item * 2 ^ 16 + e.index) v } }
/-- The entries of POLICY_SET. -/
def State.policyEntries (s : State) : List PolicyEntry :=
  (List.range (s.mbox 0 2)).map (fun k =>
    { item := s.mbox (16 + 16 * k) 1, index := s.mbox (18 + 16 * k) 2, value := s.mbox (24 + 16 * k) 8 })
/-- The refusals of POLICY_SET. -/
def State.policyOk (s : State) : Bool :=
  let n := s.mbox 0 2
  decide (1 ≤ n) && decide (n ≤ 254) && s.mbox 2 14 == 0 && s.mboxZero (16 + 16 * n)
    && (List.range n).all (fun k => s.mbox (17 + 16 * k) 1 == 0 && s.mbox (20 + 16 * k) 4 == 0)
    && s.policyEntries.all (fun e => match policyIndex e.item with
      | some top => decide (e.index ≤ top)
      | none => false)
/-- R411, R412. -/
def execPolicySet (s : State) : Out :=
  mboxCommand 2 s (fun s => if !s.policyOk then s.mboxRefuse
    else (s.policyEntries.foldl State.applyPolicy s).mboxEnd 0 [])

/-- A byte string cut or filled with zeros to a length. -/
def padTo (n : Nat) (bs : List Byte) : List Byte := (List.range n).map (fun i => bs.getD i 0)
/-- The policy values in force (R411): quanta, MVD_POLICY, ACT_ALERT, PRE_BOUND, the items without a register, the links'
budgets, PART_CAP. -/
def State.policyValues (s : State) : List Nat :=
  (List.range 256).map (fun n => (s.queue n).quantum.toNat) ++ [s.mgmt.mvdPolicy.toNat, s.mgmt.actAlert, s.mgmt.preBound]
    ++ s.mgmt.policy.map (·.2) ++ s.links.map (·.2.budget) ++ (List.range 8).map (fun p => (s.part p).cap.toNat)
/-- The configuration of a partition (R402): clusters, host window, queues, frame ranges. -/
def State.partValues (s : State) (p : Nat) : List Nat :=
  let x := s.part p
  let queues := (List.range 256).filter (fun n => (s.queue n).owner == some p)
  [x.clusters.toNat, x.hostBase, x.hostLen, queues.length] ++ queues ++ x.frames.flatMap (fun r => [r.1, r.2])
/-- The report of R409 without its signature; the byte forms that are hashed are Config's (log entry 10). -/
def State.report (s : State) : List Byte :=
  padTo 16 Config.serial ++ leBytes 4 s.fused ++ padTo 32 (Config.sha256 s.mgmt.image)
    ++ padTo 32 (Config.sha256 (Config.policyForm s.mgmt.image s.policyValues))
    ++ padTo 32 (Config.sha256 (Config.partitionForm ((List.range 8).map s.partValues))) ++ Memory.readN s.mgmt.mboxData 0 32
    ++ leBytes 4 ((List.range 256).filter (fun c => s.isOnline c)).length ++ List.replicate 360 0
/-- R409. -/
def execAttest (s : State) : Out :=
  mboxCommand 3 s (fun s =>
    if !s.mboxZero 32 then s.mboxRefuse
    else s.mboxEnd 0 (results (s.report ++ padTo 384 (Config.identitySign s.report))))
/-- R409, R411. -/
def execCert (s : State) : Out :=
  mboxCommand 4 s (fun s =>
    let c := Config.certificate.take 4092
    if !s.mboxZero 0 then s.mboxRefuse else s.mboxEnd 0 (results (leBytes 4 c.length ++ c)))
/-- R408, R411. -/
def execFuseSvn (s : State) : Out :=
  mboxCommand 6 s (fun s =>
    let v := s.mbox 0 4
    if !s.mboxZero 4 ∨ v ≠ imageSvn s.mgmt.image ∨ v ≤ s.fused then s.mboxRefuse
    else ({ s with mgmt := { s.mgmt with fusedSvn := BitVec.ofNat 32 v } }).mboxEnd 0 [])
/-- THROT: the quadrants' levels, and the current limiters, which are free values (R411, log entry 1). -/
def State.throt (s : State) (n : Nat) : Nat :=
  (List.range 4).foldl (fun a q => let l := Tbl.get 0 s.mgmt.throttle q
    a + (if 1 ≤ l then 2 ^ q else 0) + (if 2 ≤ l then 2 ^ (4 + q) else 0) + 2 ^ (8 + q) * ((Config.sensor n (32 + q)).toNat % 2)) 0
/-- R411: the snapshot; the sensors' readings are free values (log entry 10). -/
def execTelemetry (s : State) : Out :=
  mboxCommand 7 s (fun s =>
    if !s.mboxZero 0 then s.mboxRefuse
    else
      let n := s.mgmt.snap + 1
      let s : State := { s with mgmt := { s.mgmt with snap := n } }
      s.mboxEnd 0 (results (leBytes 8 n.toNat ++ (List.range 24).map (fun i => Config.sensor n.toNat (8 + i))
        ++ leBytes 4 (s.throt n.toNat) ++ List.replicate 4 0 ++ leBytes 8 s.mgmt.reexec.toNat ++ leBytes 8 s.mgmt.mcCorr.toNat
        ++ leBytes 8 s.mgmt.mcCont.toNat)))

/-! Page retirement (R415, R416) -/

/-- R415: firmware retires a frame, for an uncorrectable error (1) or for corrected ones (2). A full list retires none:
FULL, and a contained record of the management processor of compute die 0. -/
def execFrameRetirement (frame cause : Nat) (s : State) : Out :=
  let m := s.mgmt
  if 196608 ≤ frame ∨ (cause ≠ 1 ∧ cause ≠ 2) ∨ m.bootState ≠ 2 ∨ m.retired.any (fun r => r.frame == frame) = true then .next s
  else if 4096 ≤ m.retired.length then
    .next (({ s with mgmt := { m with retireFull := true } }).mcEvent 0x12 0 2 5 0 0 0 0xFFFFFFFF 0xFFFFFFFF)
  else
    let r : Retired := { frame := frame, cause := cause, state := 1, part := s.frameOwner frame }
    let s := s.writeRetired m.retired.length r
    .next (({ s with mgmt := { s.mgmt with retired := m.retired ++ [r], flash := m.flash ++ [frame],
                                           retireFull := decide (m.retired.length + 1 = 4096) } }).irqPf 2)
/-- A frame leaves a list of ranges. -/
def cutFrame (f : Nat) (l : List (Nat × Nat)) : List (Nat × Nat) :=
  l.flatMap (fun r => if r.1 ≤ f ∧ f < r.1 + r.2 then
    (if r.1 < f then [(r.1, f - r.1)] else []) ++ (if f + 1 < r.1 + r.2 then [(f + 1, r.1 + r.2 - (f + 1))] else []) else [r])
/-- The frame leaves every partition, its poison marks are cleared, and its data become undefined (R415). -/
def State.dropFrame (s : State) (f : Nat) : State :=
  let (ep, s) := s.freshEpoch
  { s with parts := s.parts.map (fun (e : Nat × Partition) => (e.1, { e.2 with frames := cutFrame f e.2.frames })),
           poison := s.poison.filter (fun l => frameOf (l * 128) != f),
           frameFresh := Tbl.insert s.frameFresh f ep,
           frameWrote := s.frameWrote.filter (fun a => frameOf a != f) }
/-- R415, R416: the entry of the frame goes to STATE 2 in place. -/
def State.retireAck (s : State) : State :=
  let f := s.mbox 0 4
  match s.mgmt.retired.zipIdx.find? (fun e => e.1.frame == f && e.1.state == 1) with
  | none => s.mboxRefuse
  | some (r, i) =>
    if !s.mboxZero 4 then s.mboxRefuse
    else
      let s := s.dropFrame f
      let s := s.writeRetired i { r with state := 2 }
      ({ s with mgmt := { s.mgmt with retired := s.mgmt.retired.set i { r with state := 2 } } }).mboxEnd 0 []
/-- R415. -/
def execRetireAck (s : State) : Out := mboxCommand 5 s State.retireAck

end Sys2Proof.Machine
end

