-- ==== Sys2Proof/Machine/Flags.lean ====
section
/-! DEFINITION. The float flags: how a result and its exceptions reach a thread (R26, R62-R64, R139-R143) and a
workgroup (R27). -/
namespace Sys2Proof.Machine

/-- Write an FP32 result, rounded once under the mode of R62, and OR its flags into %fpflags. -/
def Thread.putFloat (t : Thread) (vd : VReg) (r : Val × Flags) : Thread :=
  let x := toFp32 t.rounding r.1
  (t.setV vd.toNat x.1).orFlags (r.2 ||| x.2)
/-- Write an exact FP32 result that raises no flag (R139). -/
def Thread.putQuiet (t : Thread) (vd : VReg) (v : Val) : Thread := t.setV vd.toNat (toFp32 0 v).1
/-- An FP32 source. -/
def Thread.getF (t : Thread) (r : VReg) : Val := ofFp32 (t.getV r.toNat)

/-- Element k of the two 16-bit elements of a register (R142). -/
def half (w : Word) (k : Nat) : Nat := w.toNat / 2 ^ (16 * k) % 2 ^ 16
/-- Write two 16-bit elements, each rounded once, with the flags of both (R142). -/
def Thread.putPacked (t : Thread) (vd : VReg) (f : Fmt) (r : Nat → Val × Flags) : Thread :=
  let x := toFormat f t.rounding (r 0).1
  let y := toFormat f t.rounding (r 1).1
  (t.setV vd.toNat (BitVec.ofNat 32 (x.1 % 2 ^ 16 + y.1 * 2 ^ 16))).orFlags ((r 0).2 ||| (r 1).2 ||| x.2 ||| y.2)
/-- Element k of a source in a 16-bit format. -/
def Thread.getH16 (t : Thread) (r : VReg) (f : Fmt) (k : Nat) : Val := (decodeFmt f (half (t.getV r.toNat) k)).1

/-- %fpflags as SWR leaves it: NV to NX and DRM are written, the rest reads zero (R5, R22, R26). -/
def fpflagsMask : Word := 0x31F
/-- %mflags as SWR leaves it (R27). -/
def mflagsMask : Word := 0xF

end Sys2Proof.Machine
end

