-- ==== Sys2Proof/Machine/Integer.lean ====
section
/-! DEFINITION. Integer operations on registers (R132, R133), immediate forms (R134, R135), compare, select and
predicate logic (R136-R138). -/
namespace Sys2Proof.Machine

/-! The results of R132, on 32-bit patterns -/

def opAdd (a b : Word) : Word := a + b
def opSub (a b : Word) : Word := a - b
def opMul (a b : Word) : Word := a * b
def opMulh (a b : Word) : Word := BitVec.ofInt 32 (a.toInt * b.toInt / 2 ^ 32)
def opMulhu (a b : Word) : Word := BitVec.ofNat 32 (a.toNat * b.toNat / 2 ^ 32)
def opAnd (a b : Word) : Word := a &&& b
def opOr (a b : Word) : Word := a ||| b
def opXor (a b : Word) : Word := a ^^^ b
def opShl (a b : Word) : Word := a <<< (b.toNat % 32)
def opShr (a b : Word) : Word := a >>> (b.toNat % 32)
def opSar (a b : Word) : Word := a.sshiftRight (b.toNat % 32)
def opRol (a b : Word) : Word := a.rotateLeft (b.toNat % 32)
def opMin (a b : Word) : Word := if a.toInt ≤ b.toInt then a else b
def opMax (a b : Word) : Word := if a.toInt ≤ b.toInt then b else a
def opMinu (a b : Word) : Word := if a.toNat ≤ b.toNat then a else b
def opMaxu (a b : Word) : Word := if a.toNat ≤ b.toNat then b else a
/-- Truncating; the quotient 2^31 wraps to 0x8000_0000 (R132). -/
def opDiv (a b : Word) : Word := if b = 0 then 0xFFFFFFFF else BitVec.ofInt 32 (a.toInt.tdiv b.toInt)
def opDivu (a b : Word) : Word := if b = 0 then 0xFFFFFFFF else BitVec.ofNat 32 (a.toNat / b.toNat)
def opRem (a b : Word) : Word := if b = 0 then a else BitVec.ofInt 32 (a.toInt.tmod b.toInt)
def opRemu (a b : Word) : Word := if b = 0 then a else BitVec.ofNat 32 (a.toNat % b.toNat)
/-- Clamp to a signed 32-bit pattern. -/
def clamp32 (i : Int) : Word := BitVec.ofInt 32 (max (-(2 ^ 31)) (min i (2 ^ 31 - 1)))
def opAdds (a b : Word) : Word := clamp32 (a.toInt + b.toInt)
def opSubs (a b : Word) : Word := clamp32 (a.toInt - b.toInt)
def opPopc (a : Word) : Word := BitVec.ofNat 32 ((List.range 32).filter (fun i => a.getLsbD i)).length
def opClz (a : Word) : Word := if a = 0 then 32 else BitVec.ofNat 32 (31 - Nat.log2 a.toNat)
def opBrev (a : Word) : Word := BitVec.ofNat 32 ((List.range 32).foldl (fun r i => 2 * r + (a.getLsbD i).toNat) 0)

/-- vd := f(v(va), v(vb)). -/
def Thread.alu (t : Thread) (vd va vb : VReg) (f : Word → Word → Word) : Thread :=
  t.setV vd.toNat (f (t.getV va.toNat) (t.getV vb.toNat))
/-- vd := f(v(va)). -/
def Thread.alu1 (t : Thread) (vd va : VReg) (f : Word → Word) : Thread := t.setV vd.toNat (f (t.getV va.toNat))
/-- The pair form. -/
def Thread.alu64 (t : Thread) (vd va vb : VReg) (f : DWord → DWord → DWord) : Thread :=
  t.setPair vd.toNat (f (t.getPair va.toNat) (t.getPair vb.toNat))

/-! Major 0x01 (R132, R133) -/

/-- R132. -/
def execAdd (vd va vb : VReg) (s : State) : Out := issueThread (.add vd va vb) (fun t _ => t.alu vd va vb opAdd) s
/-- R132. -/
def execSub (vd va vb : VReg) (s : State) : Out := issueThread (.sub vd va vb) (fun t _ => t.alu vd va vb opSub) s
/-- R132. -/
def execMul (vd va vb : VReg) (s : State) : Out := issueThread (.mul vd va vb) (fun t _ => t.alu vd va vb opMul) s
/-- R132. -/
def execMulh (vd va vb : VReg) (s : State) : Out := issueThread (.mulh vd va vb) (fun t _ => t.alu vd va vb opMulh) s
/-- R132. -/
def execMulhu (vd va vb : VReg) (s : State) : Out := issueThread (.mulhu vd va vb) (fun t _ => t.alu vd va vb opMulhu) s
/-- R132. -/
def execAnd (vd va vb : VReg) (s : State) : Out := issueThread (.and vd va vb) (fun t _ => t.alu vd va vb opAnd) s
/-- R132. -/
def execOr (vd va vb : VReg) (s : State) : Out := issueThread (.or vd va vb) (fun t _ => t.alu vd va vb opOr) s
/-- R132. -/
def execXor (vd va vb : VReg) (s : State) : Out := issueThread (.xor vd va vb) (fun t _ => t.alu vd va vb opXor) s
/-- R132. -/
def execShl (vd va vb : VReg) (s : State) : Out := issueThread (.shl vd va vb) (fun t _ => t.alu vd va vb opShl) s
/-- R132. -/
def execShr (vd va vb : VReg) (s : State) : Out := issueThread (.shr vd va vb) (fun t _ => t.alu vd va vb opShr) s
/-- R132. -/
def execSar (vd va vb : VReg) (s : State) : Out := issueThread (.sar vd va vb) (fun t _ => t.alu vd va vb opSar) s
/-- R132. -/
def execRol (vd va vb : VReg) (s : State) : Out := issueThread (.rol vd va vb) (fun t _ => t.alu vd va vb opRol) s
/-- R132. -/
def execMin (vd va vb : VReg) (s : State) : Out := issueThread (.min vd va vb) (fun t _ => t.alu vd va vb opMin) s
/-- R132. -/
def execMax (vd va vb : VReg) (s : State) : Out := issueThread (.max vd va vb) (fun t _ => t.alu vd va vb opMax) s
/-- R132. -/
def execMinu (vd va vb : VReg) (s : State) : Out := issueThread (.minu vd va vb) (fun t _ => t.alu vd va vb opMinu) s
/-- R132. -/
def execMaxu (vd va vb : VReg) (s : State) : Out := issueThread (.maxu vd va vb) (fun t _ => t.alu vd va vb opMaxu) s
/-- R132. -/
def execDiv (vd va vb : VReg) (s : State) : Out := issueThread (.div vd va vb) (fun t _ => t.alu vd va vb opDiv) s
/-- R132. -/
def execDivu (vd va vb : VReg) (s : State) : Out := issueThread (.divu vd va vb) (fun t _ => t.alu vd va vb opDivu) s
/-- R132. -/
def execRem (vd va vb : VReg) (s : State) : Out := issueThread (.rem vd va vb) (fun t _ => t.alu vd va vb opRem) s
/-- R132. -/
def execRemu (vd va vb : VReg) (s : State) : Out := issueThread (.remu vd va vb) (fun t _ => t.alu vd va vb opRemu) s
/-- R132. -/
def execAdds (vd va vb : VReg) (s : State) : Out := issueThread (.adds vd va vb) (fun t _ => t.alu vd va vb opAdds) s
/-- R132. -/
def execSubs (vd va vb : VReg) (s : State) : Out := issueThread (.subs vd va vb) (fun t _ => t.alu vd va vb opSubs) s
/-- R132. -/
def execPopc (vd va : VReg) (s : State) : Out := issueThread (.popc vd va) (fun t _ => t.alu1 vd va opPopc) s
/-- R132. -/
def execClz (vd va : VReg) (s : State) : Out := issueThread (.clz vd va) (fun t _ => t.alu1 vd va opClz) s
/-- R132. -/
def execBrev (vd va : VReg) (s : State) : Out := issueThread (.brev vd va) (fun t _ => t.alu1 vd va opBrev) s
/-- R132. -/
def execAdd64 (vd va vb : VReg) (s : State) : Out := issueThread (.add64 vd va vb) (fun t _ => t.alu64 vd va vb (· + ·)) s
/-- R132. -/
def execSub64 (vd va vb : VReg) (s : State) : Out := issueThread (.sub64 vd va vb) (fun t _ => t.alu64 vd va vb (· - ·)) s

/-! Major 0x1F (R93, R133) -/

/-- A source of major 0x1F: an s register of the workgroup, or a v register of the first executing thread. -/
def getU (t : Thread) (w : Workgroup) (r : UReg) : Word := if r.toNat < 64 then w.getS r.toNat else t.getV (r.toNat - 64)
def getU64 (t : Thread) (w : Workgroup) (r : UReg) : DWord :=
  if r.toNat < 64 then w.getS (r.toNat + 1) ++ w.getS r.toNat else t.getPair (r.toNat - 64)
/-- Write the result once, or to the v register of every executing thread. -/
def State.putU (s : State) (g : Nat) (refs : List ThreadRef) (r : UReg) (x : Word) : State :=
  if r.toNat < 64 then s.onWg g (fun w => w.setS r.toNat x)
  else refs.foldl (fun s q => s.onThread q (fun t => t.setV (r.toNat - 64) x)) s
def State.putU64 (s : State) (g : Nat) (refs : List ThreadRef) (r : UReg) (x : DWord) : State :=
  if r.toNat < 64 then s.onWg g (fun w => (w.setS r.toNat (fieldOf x 31 0)).setS (r.toNat + 1) (fieldOf x 63 32))
  else refs.foldl (fun s q => s.onThread q (fun t => t.setPair (r.toNat - 64) x)) s
/-- One uniform operation of a workgroup. -/
def uniform2 (ud ua ub : UReg) (f : Word → Word → Word) (t : Thread) (w : Workgroup) (refs : List ThreadRef) (s : State) : State :=
  (s.putU t.ref.wg refs ud (f (getU t w ua) (getU t w ub))).advanceAll refs
def uniform1 (ud ua : UReg) (f : Word → Word) (t : Thread) (w : Workgroup) (refs : List ThreadRef) (s : State) : State :=
  (s.putU t.ref.wg refs ud (f (getU t w ua))).advanceAll refs
def uniform64 (ud ua ub : UReg) (f : DWord → DWord → DWord) (t : Thread) (w : Workgroup) (refs : List ThreadRef) (s : State) : State :=
  (s.putU64 t.ref.wg refs ud (f (getU64 t w ua) (getU64 t w ub))).advanceAll refs

/-- R133. -/
def execUadd (ud ua ub : UReg) (s : State) : Out := issueElected (.uadd ud ua ub) (uniform2 ud ua ub opAdd) s
/-- R133. -/
def execUsub (ud ua ub : UReg) (s : State) : Out := issueElected (.usub ud ua ub) (uniform2 ud ua ub opSub) s
/-- R133. -/
def execUmul (ud ua ub : UReg) (s : State) : Out := issueElected (.umul ud ua ub) (uniform2 ud ua ub opMul) s
/-- R133. -/
def execUmulh (ud ua ub : UReg) (s : State) : Out := issueElected (.umulh ud ua ub) (uniform2 ud ua ub opMulh) s
/-- R133. -/
def execUmulhu (ud ua ub : UReg) (s : State) : Out := issueElected (.umulhu ud ua ub) (uniform2 ud ua ub opMulhu) s
/-- R133. -/
def execUand (ud ua ub : UReg) (s : State) : Out := issueElected (.uand ud ua ub) (uniform2 ud ua ub opAnd) s
/-- R133. -/
def execUor (ud ua ub : UReg) (s : State) : Out := issueElected (.uor ud ua ub) (uniform2 ud ua ub opOr) s
/-- R133. -/
def execUxor (ud ua ub : UReg) (s : State) : Out := issueElected (.uxor ud ua ub) (uniform2 ud ua ub opXor) s
/-- R133. -/
def execUshl (ud ua ub : UReg) (s : State) : Out := issueElected (.ushl ud ua ub) (uniform2 ud ua ub opShl) s
/-- R133. -/
def execUshr (ud ua ub : UReg) (s : State) : Out := issueElected (.ushr ud ua ub) (uniform2 ud ua ub opShr) s
/-- R133. -/
def execUsar (ud ua ub : UReg) (s : State) : Out := issueElected (.usar ud ua ub) (uniform2 ud ua ub opSar) s
/-- R133. -/
def execUrol (ud ua ub : UReg) (s : State) : Out := issueElected (.urol ud ua ub) (uniform2 ud ua ub opRol) s
/-- R133. -/
def execUmin (ud ua ub : UReg) (s : State) : Out := issueElected (.umin ud ua ub) (uniform2 ud ua ub opMin) s
/-- R133. -/
def execUmax (ud ua ub : UReg) (s : State) : Out := issueElected (.umax ud ua ub) (uniform2 ud ua ub opMax) s
/-- R133. -/
def execUminu (ud ua ub : UReg) (s : State) : Out := issueElected (.uminu ud ua ub) (uniform2 ud ua ub opMinu) s
/-- R133. -/
def execUmaxu (ud ua ub : UReg) (s : State) : Out := issueElected (.umaxu ud ua ub) (uniform2 ud ua ub opMaxu) s
/-- R133. -/
def execUdiv (ud ua ub : UReg) (s : State) : Out := issueElected (.udiv ud ua ub) (uniform2 ud ua ub opDiv) s
/-- R133. -/
def execUdivu (ud ua ub : UReg) (s : State) : Out := issueElected (.udivu ud ua ub) (uniform2 ud ua ub opDivu) s
/-- R133. -/
def execUrem (ud ua ub : UReg) (s : State) : Out := issueElected (.urem ud ua ub) (uniform2 ud ua ub opRem) s
/-- R133. -/
def execUremu (ud ua ub : UReg) (s : State) : Out := issueElected (.uremu ud ua ub) (uniform2 ud ua ub opRemu) s
/-- R133. -/
def execUadds (ud ua ub : UReg) (s : State) : Out := issueElected (.uadds ud ua ub) (uniform2 ud ua ub opAdds) s
/-- R133. -/
def execUsubs (ud ua ub : UReg) (s : State) : Out := issueElected (.usubs ud ua ub) (uniform2 ud ua ub opSubs) s
/-- R133. -/
def execUpopc (ud ua : UReg) (s : State) : Out := issueElected (.upopc ud ua) (uniform1 ud ua opPopc) s
/-- R133. -/
def execUclz (ud ua : UReg) (s : State) : Out := issueElected (.uclz ud ua) (uniform1 ud ua opClz) s
/-- R133. -/
def execUbrev (ud ua : UReg) (s : State) : Out := issueElected (.ubrev ud ua) (uniform1 ud ua opBrev) s
/-- R133. -/
def execUadd64 (ud ua ub : UReg) (s : State) : Out := issueElected (.uadd64 ud ua ub) (uniform64 ud ua ub (· + ·)) s
/-- R133. -/
def execUsub64 (ud ua ub : UReg) (s : State) : Out := issueElected (.usub64 ud ua ub) (uniform64 ud ua ub (· - ·)) s

/-! Immediate forms (R94, R100, R134, R135) -/

/-- R134: sign-extended without a hint. -/
def execAddi (vd va : VReg) (imm : BitVec 12) (s : State) : Out :=
  issueThread (.addi vd va imm) (fun t _ => t.alu1 vd va (· + t.fullImm imm (imm.signExtend 32))) s
/-- R134. -/
def execAndi (vd va : VReg) (imm : BitVec 12) (s : State) : Out :=
  issueThread (.andi vd va imm) (fun t _ => t.alu1 vd va (· &&& t.fullImm imm (imm.zeroExtend 32))) s
/-- R134. -/
def execOri (vd va : VReg) (imm : BitVec 12) (s : State) : Out :=
  issueThread (.ori vd va imm) (fun t _ => t.alu1 vd va (· ||| t.fullImm imm (imm.zeroExtend 32))) s
/-- R134. -/
def execXori (vd va : VReg) (imm : BitVec 12) (s : State) : Out :=
  issueThread (.xori vd va imm) (fun t _ => t.alu1 vd va (· ^^^ t.fullImm imm (imm.zeroExtend 32))) s
/-- R134. -/
def execShli (vd va : VReg) (cnt : BitVec 5) (s : State) : Out :=
  issueThread (.shli vd va cnt) (fun t _ => t.alu1 vd va (fun a => opShl a (cnt.zeroExtend 32))) s
/-- R134. -/
def execShri (vd va : VReg) (cnt : BitVec 5) (s : State) : Out :=
  issueThread (.shri vd va cnt) (fun t _ => t.alu1 vd va (fun a => opShr a (cnt.zeroExtend 32))) s
/-- R134. -/
def execSari (vd va : VReg) (cnt : BitVec 5) (s : State) : Out :=
  issueThread (.sari vd va cnt) (fun t _ => t.alu1 vd va (fun a => opSar a (cnt.zeroExtend 32))) s
/-- R134. -/
def execRoli (vd va : VReg) (cnt : BitVec 5) (s : State) : Out :=
  issueThread (.roli vd va cnt) (fun t _ => t.alu1 vd va (fun a => opRol a (cnt.zeroExtend 32))) s
/-- R94: imm19 x 2^13; after IMM the two-word constant of R100. -/
def execLui (vd : VReg) (imm : BitVec 19) (s : State) : Out :=
  issueThread (.lui vd imm) (fun t _ => t.setV vd.toNat (match t.immHint with
    | some h => h ++ fieldOf imm 11 0
    | none => imm ++ 0#13)) s
/-- BFX's value (R135). -/
def bitField (a : Word) (sign : Bool) (lenM1 pos : BitVec 5) : Word :=
  let f := a.toNat / 2 ^ pos.toNat % 2 ^ (lenM1.toNat + 1)
  if sign && decide (2 ^ lenM1.toNat ≤ f) then BitVec.ofNat 32 (f + 2 ^ 32 - 2 ^ (lenM1.toNat + 1)) else BitVec.ofNat 32 f
/-- R135. -/
def execBfx (vd va : VReg) (sign : Bool) (lenM1 pos : BitVec 5) (s : State) : Out :=
  issueThread (.bfx vd va sign lenM1 pos) (fun t _ => t.alu1 vd va (fun a => bitField a sign lenM1 pos)) s
/-- BFI's value (R135): d is the old destination. -/
def bitInsert (d a : Word) (lenM1 pos : BitVec 5) : Word :=
  let m : Word := BitVec.ofNat 32 ((2 ^ (lenM1.toNat + 1) - 1) * 2 ^ pos.toNat)
  (d &&& ~~~m) ||| ((a <<< pos.toNat) &&& m)
/-- R135. -/
def execBfi (vd va : VReg) (lenM1 pos : BitVec 5) (s : State) : Out :=
  issueThread (.bfi vd va lenM1 pos) (fun t _ => t.alu1 vd va (fun a => bitInsert (t.getV vd.toNat) a lenM1 pos)) s

/-! Compare, select and predicate logic (R136-R138) -/

/-- The conditions of ICMP by the operands as naturals and as integers. -/
def icond (c : ICond) (a b : Nat) (sa sb : Int) : Bool :=
  match c with
  | .eq => a == b
  | .ne => a != b
  | .lt => decide (sa < sb)
  | .le => decide (sa ≤ sb)
  | .gt => decide (sb < sa)
  | .ge => decide (sb ≤ sa)
  | .ltu => decide (a < b)
  | .leu => decide (a ≤ b)
  | .gtu => decide (b < a)
  | .geu => decide (b ≤ a)
/-- The conditions of FCMP by the order of the operands: none where one is NaN. -/
def fcond (c : FCond) (o : Option Ordering) : Bool :=
  match c with
  | .eq => o == some .eq
  | .ne => o != some .eq
  | .lt => o == some .lt
  | .le => o == some .lt || o == some .eq
  | .gt => o == some .gt
  | .ge => o == some .gt || o == some .eq
  | .un => o == none
  | .ord => o != none
/-- How a compare combines into pd (R136). -/
def Thread.combine (t : Thread) (pd : PReg) (mode : Combine) (c : Bool) : Thread :=
  t.setP pd (match mode with
    | .set => c
    | .and => t.getP pd && c
    | .or => t.getP pd || c)
/-- R136. -/
def execIcmp (pd : PReg) (cond : ICond) (va vb : VReg) (wide : Bool) (mode : Combine) (s : State) : Out :=
  issueThread (.icmp pd cond va vb wide mode) (fun t _ => t.combine pd mode (
    if wide then
      let a := t.getPair va.toNat
      let b := t.getPair vb.toNat
      icond cond a.toNat b.toNat a.toInt b.toInt
    else
      let a := t.getV va.toNat
      let b := t.getV vb.toNat
      icond cond a.toNat b.toNat a.toInt b.toInt)) s
/-- An operand of FCMP: FP16 and BF16 are the low half (R92, R136). -/
def fcmpVal (fmt : FWidth) (a : Word) : Val :=
  match fmt with
  | .fp32 => ofFp32 a
  | .fp16 => (decodeFmt 2 (a.toNat % 2 ^ 16)).1
  | .bf16 => (decodeFmt 3 (a.toNat % 2 ^ 16)).1
/-- R136: no flag is raised. -/
def execFcmp (pd : PReg) (cond : FCond) (va vb : VReg) (fmt : FWidth) (mode : Combine) (s : State) : Out :=
  issueThread (.fcmp pd cond va vb fmt mode) (fun t _ => t.combine pd mode
    (fcond cond ((fcmpVal fmt (t.getV va.toNat)).cmp (fcmpVal fmt (t.getV vb.toNat))))) s
/-- R137. -/
def execSel (vd va vb : VReg) (wide inv : Bool) (p : PReg) (s : State) : Out :=
  issueThread (.sel vd va vb wide inv p) (fun t _ =>
    let src := if t.getP p != inv then va else vb
    if wide then t.setPair vd.toNat (t.getPair src.toNat) else t.setV vd.toNat (t.getV src.toNat)) s
/-- R138. -/
def execPand (pd pa pb : PReg) (s : State) : Out := issueThread (.pand pd pa pb) (fun t _ => t.setP pd (t.getP pa && t.getP pb)) s
/-- R138. -/
def execPor (pd pa pb : PReg) (s : State) : Out := issueThread (.por pd pa pb) (fun t _ => t.setP pd (t.getP pa || t.getP pb)) s
/-- R138. -/
def execPxor (pd pa pb : PReg) (s : State) : Out := issueThread (.pxor pd pa pb) (fun t _ => t.setP pd (t.getP pa != t.getP pb)) s
/-- R138. -/
def execPandn (pd pa pb : PReg) (s : State) : Out := issueThread (.pandn pd pa pb) (fun t _ => t.setP pd (t.getP pa && !t.getP pb)) s
/-- R138. -/
def execPnot (pd pa : PReg) (s : State) : Out := issueThread (.pnot pd pa) (fun t _ => t.setP pd (!t.getP pa)) s
/-- R138. -/
def execPmov (pd pa : PReg) (s : State) : Out := issueThread (.pmov pd pa) (fun t _ => t.setP pd (t.getP pa)) s
/-- R138. -/
def execPset (pd : PReg) (s : State) : Out := issueThread (.pset pd) (fun t _ => t.setP pd true) s
/-- R138. -/
def execPclr (pd : PReg) (s : State) : Out := issueThread (.pclr pd) (fun t _ => t.setP pd false) s

end Sys2Proof.Machine
end

