-- ==== Sys2Proof/Machine/Float.lean ====
section
/-! DEFINITION. Scalar floating point (R139), special functions (R140), conversion (R141), packed and dot operations
(R142-R144). -/
namespace Sys2Proof.Machine

/-- The magnitude with a given sign; NaN stays (R139). -/
def Val.withSign (v : Val) (neg : Bool) : Val :=
  match v with
  | .nan => .nan
  | .inf _ => .inf neg
  | .fin _ m e => .fin neg m e

/-- R139. -/
def execFadd (vd va vb : VReg) (s : State) : Out :=
  issueThread (.fadd vd va vb) (fun t _ => t.putFloat vd (fAdd t.rounding (t.getF va) (t.getF vb))) s
/-- R139. -/
def execFsub (vd va vb : VReg) (s : State) : Out :=
  issueThread (.fsub vd va vb) (fun t _ => t.putFloat vd (fAdd t.rounding (t.getF va) (t.getF vb).neg)) s
/-- R139. -/
def execFmul (vd va vb : VReg) (s : State) : Out :=
  issueThread (.fmul vd va vb) (fun t _ => t.putFloat vd (fMul (t.getF va) (t.getF vb))) s
/-- R139. -/
def execFfma (vd va vb : VReg) (s : State) : Out :=
  issueThread (.ffma vd va vb) (fun t _ => t.putFloat vd (fFma t.rounding (t.getF va) (t.getF vb) (t.getF vd))) s
/-- R139. -/
def execFmin (vd va vb : VReg) (s : State) : Out :=
  issueThread (.fmin vd va vb) (fun t _ => t.putQuiet vd (fMin (t.getF va) (t.getF vb))) s
/-- R139. -/
def execFmax (vd va vb : VReg) (s : State) : Out :=
  issueThread (.fmax vd va vb) (fun t _ => t.putQuiet vd (fMax (t.getF va) (t.getF vb))) s
/-- R139. -/
def execFdiv (vd va vb : VReg) (s : State) : Out :=
  issueThread (.fdiv vd va vb) (fun t _ => t.putFloat vd (fDiv (t.getF va) (t.getF vb))) s
/-- R139. -/
def execFsgnj (vd va vb : VReg) (s : State) : Out :=
  issueThread (.fsgnj vd va vb) (fun t _ => t.putQuiet vd ((t.getF va).withSign ((t.getV vb.toNat).getLsbD 31))) s
/-- R139. -/
def execFabs (vd va : VReg) (s : State) : Out := issueThread (.fabs vd va) (fun t _ => t.putQuiet vd ((t.getF va).withSign false)) s
/-- R139. -/
def execFneg (vd va : VReg) (s : State) : Out := issueThread (.fneg vd va) (fun t _ => t.putQuiet vd (t.getF va).neg) s
/-- R139. -/
def execFsqrt (vd va : VReg) (s : State) : Out := issueThread (.fsqrt vd va) (fun t _ => t.putFloat vd (fSqrt (t.getF va))) s
/-- R140. -/
def execFrcp (vd va : VReg) (s : State) : Out := issueThread (.frcp vd va) (fun t _ => t.putFloat vd (fRcp (t.getF va))) s
/-- R140. -/
def execFrsq (vd va : VReg) (s : State) : Out := issueThread (.frsq vd va) (fun t _ => t.putFloat vd (fRsq (t.getF va))) s
/-- R140. -/
def execFexp2 (vd va : VReg) (s : State) : Out := issueThread (.fexp2 vd va) (fun t _ => t.putFloat vd (fExp2 (t.getF va))) s
/-- R140. -/
def execFlog2 (vd va : VReg) (s : State) : Out := issueThread (.flog2 vd va) (fun t _ => t.putFloat vd (fLog2 (t.getF va))) s
/-- R140. -/
def execFsin (vd va : VReg) (s : State) : Out := issueThread (.fsin vd va) (fun t _ => t.putFloat vd (fSin (t.getF va))) s
/-- R140. -/
def execFcos (vd va : VReg) (s : State) : Out := issueThread (.fcos vd va) (fun t _ => t.putFloat vd (fCos (t.getF va))) s
/-- R140. -/
def execFtanh (vd va : VReg) (s : State) : Out := issueThread (.ftanh vd va) (fun t _ => t.putFloat vd (fTanh (t.getF va))) s
/-- R140. -/
def execFsigm (vd va : VReg) (s : State) : Out := issueThread (.fsigm vd va) (fun t _ => t.putFloat vd (fSigm (t.getF va))) s

/-- R141: the element is written to the low bits of vd. -/
def execFcvt (vd va : VReg) (dfmt sfmt : Fmt) (s : State) : Out :=
  issueThread (.fcvt vd va dfmt sfmt) (fun t _ =>
    let x := decodeFmt sfmt ((t.getV va.toNat).toNat % 2 ^ storageBits sfmt)
    let r := toFormat dfmt t.rounding x.1
    (t.setV vd.toNat (BitVec.ofNat 32 r.1)).orFlags (r.2 ||| nvFlag x.2)) s

/-- R142. -/
def execPkadd (vd va vb : VReg) (s : State) : Out :=
  issueThread (.pkadd vd va vb) (fun t _ => t.putPacked vd 2 (fun k => fAdd t.rounding (t.getH16 va 2 k) (t.getH16 vb 2 k))) s
/-- R142. -/
def execPkmul (vd va vb : VReg) (s : State) : Out :=
  issueThread (.pkmul vd va vb) (fun t _ => t.putPacked vd 2 (fun k => fMul (t.getH16 va 2 k) (t.getH16 vb 2 k))) s
/-- R142. -/
def execPkfma (vd va vb : VReg) (s : State) : Out :=
  issueThread (.pkfma vd va vb) (fun t _ => t.putPacked vd 2 (fun k => fFma t.rounding (t.getH16 va 2 k) (t.getH16 vb 2 k) (t.getH16 vd 2 k))) s
/-- R142. -/
def execPkmin (vd va vb : VReg) (s : State) : Out :=
  issueThread (.pkmin vd va vb) (fun t _ => t.putPacked vd 2 (fun k => (fMin (t.getH16 va 2 k) (t.getH16 vb 2 k), 0))) s
/-- R142. -/
def execPkmax (vd va vb : VReg) (s : State) : Out :=
  issueThread (.pkmax vd va vb) (fun t _ => t.putPacked vd 2 (fun k => (fMax (t.getH16 va 2 k) (t.getH16 vb 2 k), 0))) s
/-- R142. -/
def execPksub (vd va vb : VReg) (s : State) : Out :=
  issueThread (.pksub vd va vb) (fun t _ => t.putPacked vd 2 (fun k => fAdd t.rounding (t.getH16 va 2 k) (t.getH16 vb 2 k).neg)) s
/-- R142. -/
def execPkaddBf16 (vd va vb : VReg) (s : State) : Out :=
  issueThread (.pkaddBf16 vd va vb) (fun t _ => t.putPacked vd 3 (fun k => fAdd t.rounding (t.getH16 va 3 k) (t.getH16 vb 3 k))) s
/-- R142. -/
def execPkmulBf16 (vd va vb : VReg) (s : State) : Out :=
  issueThread (.pkmulBf16 vd va vb) (fun t _ => t.putPacked vd 3 (fun k => fMul (t.getH16 va 3 k) (t.getH16 vb 3 k))) s
/-- R142. -/
def execPkfmaBf16 (vd va vb : VReg) (s : State) : Out :=
  issueThread (.pkfmaBf16 vd va vb) (fun t _ => t.putPacked vd 3 (fun k => fFma t.rounding (t.getH16 va 3 k) (t.getH16 vb 3 k) (t.getH16 vd 3 k))) s
/-- R142. -/
def execPkminBf16 (vd va vb : VReg) (s : State) : Out :=
  issueThread (.pkminBf16 vd va vb) (fun t _ => t.putPacked vd 3 (fun k => (fMin (t.getH16 va 3 k) (t.getH16 vb 3 k), 0))) s
/-- R142. -/
def execPkmaxBf16 (vd va vb : VReg) (s : State) : Out :=
  issueThread (.pkmaxBf16 vd va vb) (fun t _ => t.putPacked vd 3 (fun k => (fMax (t.getH16 va 3 k) (t.getH16 vb 3 k), 0))) s
/-- R142. -/
def execPksubBf16 (vd va vb : VReg) (s : State) : Out :=
  issueThread (.pksubBf16 vd va vb) (fun t _ => t.putPacked vd 3 (fun k => fAdd t.rounding (t.getH16 va 3 k) (t.getH16 vb 3 k).neg)) s

/-- FDOT4 (R143). -/
def Thread.fdot4 (t : Thread) (vd va vb : VReg) (f : Fmt) : Thread :=
  let elems := fun (r : VReg) => (List.range 4).map (fun i => some (decodeFmt f ((t.getV r.toNat).toNat / 2 ^ (8 * i) % 256)).1)
  let p := products (elems va) (elems vb)
  let d := dotCanonical p.1 (accRound (t.getF vd))
  t.putFloat vd (d.1, nvFlag (p.2 || d.2))
/-- R143. -/
def execFdot4E4m3 (vd va vb : VReg) (s : State) : Out := issueThread (.fdot4E4m3 vd va vb) (fun t _ => t.fdot4 vd va vb 5) s
/-- R143. -/
def execFdot4E5m2 (vd va vb : VReg) (s : State) : Out := issueThread (.fdot4E5m2 vd va vb) (fun t _ => t.fdot4 vd va vb 4) s

/-- IDP4 (R144): bytes signed or unsigned by side. -/
def idp4 (d a b : Word) (sa sb : Bool) : Word :=
  let el := fun (w : Word) (signed : Bool) (i : Nat) =>
    let x : BitVec 8 := w.extractLsb' (8 * i) 8
    if signed then x.toInt else (x.toNat : Int)
  BitVec.ofInt 32 ((List.range 4).foldl (fun acc i => acc + el a sa i * el b sb i) (d.toNat : Int))
/-- R144. -/
def execIdp4Ss (vd va vb : VReg) (s : State) : Out :=
  issueThread (.idp4Ss vd va vb) (fun t _ => t.alu vd va vb (fun a b => idp4 (t.getV vd.toNat) a b true true)) s
/-- R144. -/
def execIdp4Su (vd va vb : VReg) (s : State) : Out :=
  issueThread (.idp4Su vd va vb) (fun t _ => t.alu vd va vb (fun a b => idp4 (t.getV vd.toNat) a b true false)) s
/-- R144. -/
def execIdp4Us (vd va vb : VReg) (s : State) : Out :=
  issueThread (.idp4Us vd va vb) (fun t _ => t.alu vd va vb (fun a b => idp4 (t.getV vd.toNat) a b false true)) s
/-- R144. -/
def execIdp4Uu (vd va vb : VReg) (s : State) : Out :=
  issueThread (.idp4Uu vd va vb) (fun t _ => t.alu vd va vb (fun a b => idp4 (t.getV vd.toNat) a b false false)) s

end Sys2Proof.Machine
end

