-- ==== Sys2Proof/Machine/HostAccess.lean ====
section
/-! DEFINITION. The host and the peers: registers (R5, R6, R329, R347, R372, R386, R392, R403, R410, R416), interrupts
(R403), device memory over PCIe (R300, R301, R397-R401) and requests of peers (R404). -/
namespace Sys2Proof.Machine

/-- The low and the high word of a register. -/
def loWord (d : DWord) : Word := fieldOf d 31 0
def hiWord (d : DWord) : Word := fieldOf d 63 32
/-- A register with one of its words replaced. -/
def setLo (d : DWord) (v : Word) : DWord := hiWord d ++ v
def setHi (d : DWord) (v : Word) : DWord := v ++ loWord d
/-- A bit of a word. -/
def bitAt (b : Bool) (k : Nat) : Word := if b then 1#32 <<< k else 0

/-! Reading registers -/

/-- Whether the partition has a live launch. -/
def State.partLive (s : State) (p : Nat) : Bool := s.launches.any (fun e => e.2.part == p)
/-- ONLINE0 to ONLINE3 (R392). -/
def State.onlineWord (s : State) (p k : Nat) : DWord :=
  (s.partCores p).foldl (fun m c => if c / 64 = k then m ||| (1#64 <<< (c % 64)) else m) 0
/-- The block of queue q, word r (R372); zero for another partition. -/
def State.queueRead (s : State) (p q r : Nat) : Word :=
  let x := s.queue q
  if x.owner ≠ some p then 0
  else match r with
    | 0 => loWord (x.ring.zeroExtend 64 <<< 12)
    | 1 => hiWord (x.ring.zeroExtend 64 <<< 12)
    | 2 => bitAt x.en 0 ||| bitAt x.dev 1 ||| (x.log2.zeroExtend 32 <<< 2) ||| bitAt x.err 6 ||| (x.quantum.zeroExtend 32 <<< 16)
    | 3 => x.wr ++ x.rd
    | 4 => loWord x.deficit
    | 5 => hiWord x.deficit
    | _ => 0
/-- The 64-bit register of the control page at an offset (R329, R347, R372, R392, R403); 32-bit registers lie in halves. -/
def State.ctlRead (s : State) (p off : Nat) : DWord :=
  let x := s.part p
  match off with
  | 0x200 => x.xltRoot
  | 0x208 => x.invVa
  | 0x210 => (x.inv ||| bitAt x.invBusy 31).zeroExtend 64
  | 0x218 => x.fqBase
  | 0x220 => ((x.fqHead.zeroExtend 32) ||| (x.fqTail.zeroExtend 32 <<< 16) ||| bitAt x.fqOvf 30 ||| bitAt x.fqEn 31).zeroExtend 64
  | 0x300 => s.mgmt.mvdPolicy.zeroExtend 64
  | 0x408 => if s.launches.any (fun e => e.2.part == p && e.2.preBusy) then 1#64 <<< 63 else 0
  | 0x410 => x.slip
  | 0x418 => x.preTerm
  | 0x500 => x.mcCont
  | 0x508 => ((bitAt x.rstValid 31 ||| x.rstReason.zeroExtend 32) ++ x.rstLaunch)
  | 0x510 => x.rstWg.zeroExtend 64
  | 0x518 => x.rstCnt
  | 0x520 => x.cap
  | 0x528 => s.onlineWord p 0
  | 0x530 => s.onlineWord p 1
  | 0x538 => s.onlineWord p 2
  | 0x540 => s.onlineWord p 3
  | 0x600 => x.irqStatus.zeroExtend 64
  | 0x608 => x.irqMask.zeroExtend 64
  | 0x610 => x.aturCnt
  | 0x618 => x.aturLast
  | 0x620 => x.reexec
  | 0x628 => x.linkDrop
  | _ => if 0x308 ≤ off ∧ off ≤ 0x348 then Tbl.get 0 x.mvc ((off - 0x308) / 8) else 0
/-- A word of the control page. -/
def State.ctlWord (s : State) (p off : Nat) : Word :=
  if 0x1000 ≤ off then (if off < 0x3000 then s.queueRead p ((off - 0x1000) / 32) (off % 32 / 4) else 0)
  else let d := s.ctlRead p (off / 8 * 8)
    if off % 8 = 0 then loWord d else hiWord d
/-- The bank and the offset in it that a management offset names, where there is one (R383). -/
def bankOf (off : Nat) : Option (Nat × Nat × Nat) :=
  let o := off - 0x1000000
  let type := o / 0x100000
  let inst := o % 0x100000 / 256
  if 0x1000000 ≤ off ∧ inst < bankCount type then some (type, inst, off % 256) else none
/-- A word of a machine-check bank (R384, R385). -/
def State.bankWord (s : State) (type inst o : Nat) : Word :=
  let b := s.bank (bankId type inst)
  if o = 0 then b.next
  else if o = 4 then b.dropped.zeroExtend 32 ||| bitAt b.ovl 16
  else if 0x20 ≤ o ∧ o < 0xA0 then
    match Tbl.find b.slots ((o - 0x20) / 32) with
    | some r => BitVec.ofNat 32 (bytesAt r.bytes (o % 32) 4)
    | none => 0
  else 0
/-- The register of the management page at an offset (R386, R403, R410, R411, R416, R417). -/
def State.mgmtRead (s : State) (off : Nat) : DWord :=
  let m := s.mgmt
  match off with
  | 0x0 => (m.bootState.zeroExtend 64) ||| (m.orbitDev.zeroExtend 64 <<< 8) ||| (m.svn.zeroExtend 64 <<< 16)
  | 0x20 => (m.mboxCmd.zeroExtend 64) ||| (bitAt m.mboxBusy 9).zeroExtend 64 ||| (m.mboxStatus.zeroExtend 64 <<< 16)
  | 0x30 => m.fwlogBase ||| m.fwlogHead.zeroExtend 64
  | 0x40 => m.retireBase
  | 0x48 => BitVec.ofNat 64 (m.retired.length + 2 ^ 16 * (m.retired.filter (fun r => r.state == 1)).length)
      ||| (bitAt m.retireFull 31).zeroExtend 64
  | 0x100 => (bitAt m.fatal 0 ||| bitAt m.fatalDone 1 ||| bitAt m.fatalInv 2).zeroExtend 64
  | 0x108 => m.fatalRegion
  | 0x600 => m.irqStatus.zeroExtend 64
  | 0x608 => m.irqMask.zeroExtend 64
  | 0x610 => m.aturCnt
  | 0x618 => m.aturLast
  | _ => 0
/-- A word of the management page: banks first, then the staging window, of which TYPE 0's bank addresses read as zero (R383,
log entry 21), the mailbox data, the registers. -/
def State.mgmtWord (s : State) (off : Nat) : Word :=
  match bankOf off with
  | some (type, inst, o) => s.bankWord type inst o
  | none =>
    if 0x800000 ≤ off ∧ off < 0x1800000 then
      if off / 0x100000 = 0x10 then 0 else BitVec.ofNat 32 (leNat (Memory.readN s.mgmt.staging (off - 0x800000) 4))
    else if 0x1000 ≤ off ∧ off < 0x2000 then BitVec.ofNat 32 (leNat (Memory.readN s.mgmt.mboxData (off - 0x1000) 4))
    else if off < 0x1000 then (let d := s.mgmtRead (off / 8 * 8); if off % 8 = 0 then loWord d else hiWord d)
    else 0
/-- A word of a function's BAR0. -/
def State.bar0Word (s : State) (fn : PcieFn) (off : Nat) : Word :=
  match fn with
  | .pf => s.mgmtWord off
  | .vf p => s.ctlWord p off
/-- Bytes of a function's BAR0. -/
def State.bar0Read (s : State) (fn : PcieFn) (off n : Nat) : List Byte :=
  (List.range n).map (fun i => BitVec.ofNat 8 ((s.bar0Word fn ((off + i) / 4 * 4)).toNat / 256 ^ ((off + i) % 4)))

/-! Writing registers (R5, R6) -/

/-- LQ_BASE and LQ_CTL of an own queue (R372). -/
def Queue.write (q : Queue) (r : Nat) (v : Word) : Queue :=
  let ring := q.ring.zeroExtend 64 <<< 12
  match r with
  | 0 => if q.en then q else { q with ring := fieldOf (setLo ring v) 51 12 }
  | 1 => if q.en then q else { q with ring := fieldOf (setHi ring v) 51 12 }
  | 2 =>
    let l := fieldOf v 5 2
    if l.toNat < 4 then q
    else { q with en := v.getLsbD 0, dev := if q.en then q.dev else v.getLsbD 1, log2 := if q.en then q.log2 else l,
                  err := q.err && !v.getLsbD 6 }
  | _ => q
/-- FQ_PTR: TAIL, OVF (W1C) and EN (R329). -/
def Partition.writeFqPtr (x : Partition) (v : Word) : Partition :=
  { x with fqTail := fieldOf v 27 16, fqOvf := x.fqOvf && !v.getLsbD 30, fqEn := v.getLsbD 31 }
/-- A word of the control page is written; the registers with rows of their own are written by those rows. -/
def State.ctlWrite (s : State) (p off : Nat) (v : Word) : State :=
  let x := s.part p
  let root := fun (d : DWord) => if s.partLive p then s else s.onPart p (fun x => { x with xltRoot := d &&& 0x000FFFFFFFFFF001 })
  if 0x1000 ≤ off then
    if off < 0x3000 ∧ (s.queue ((off - 0x1000) / 32)).owner = some p then s.onQueue ((off - 0x1000) / 32) (fun q => q.write (off % 32 / 4) v) else s
  else match off with
    | 0x200 => root (setLo x.xltRoot v)
    | 0x204 => root (setHi x.xltRoot v)
    | 0x208 => s.onPart p (fun x => { x with invVa := setLo x.invVa v &&& 0x00FFFFFFFFFFF000 })
    | 0x20C => s.onPart p (fun x => { x with invVa := setHi x.invVa v &&& 0x00FFFFFFFFFFF000 })
    | 0x210 => if x.invBusy || v.getLsbD 0 || fieldOf v 2 1 == 3 then s else s.onPart p (fun x => { x with inv := v &&& 0x0000FFF6 })
    | 0x218 => s.onPart p (fun x => { x with fqBase := setLo x.fqBase v &&& 0x000FFFFFFFFE0000 })
    | 0x21C => s.onPart p (fun x => { x with fqBase := setHi x.fqBase v &&& 0x000FFFFFFFFE0000 })
    | 0x220 => ((s.onPart p (fun x => x.writeFqPtr v)).serveFaults p).settleTraps
    | 0x50C => if v.getLsbD 31 then s.onPart p (fun x => { x with rstValid := false }) else s
    | _ => s
/-- A word of the management page is written. DESIGN CHOICE (R410, log entry 42): while BUSY is 1 the whole write of MBOX is
ignored, CMD with it, also where its GO is 0. -/
def State.mgmtWrite (s : State) (off : Nat) (v : Word) : State :=
  let m := s.mgmt
  match bankOf off with
  | some (type, inst, o) =>
    let id := bankId type inst
    if o = 4 ∧ v.getLsbD 16 = true then { s with banks := Tbl.insert s.banks id { s.bank id with ovl := false } } else s
  | none =>
    if 0x800000 ≤ off ∧ off < 0x1800000 then
      { s with mgmt := { m with staging := Memory.writeN m.staging (off - 0x800000) (leBytes 4 v.toNat) } }
    else if 0x1000 ≤ off ∧ off < 0x2000 then
      { s with mgmt := { m with mboxData := Memory.writeN m.mboxData (off - 0x1000) (leBytes 4 v.toNat) } }
    else if off = 0x20 ∧ m.mboxBusy = false then
      let s : State := { s with mgmt := { m with mboxCmd := fieldOf v 7 0, mboxBusy := v.getLsbD 8 } }
      if v.getLsbD 8 then s.mboxPending else s
    else s
/-- A word of BAR0 is written. -/
def State.bar0Write (s : State) (fn : PcieFn) (off : Nat) (v : Word) : State :=
  match fn with
  | .pf => s.mgmtWrite off v
  | .vf p => s.ctlWrite p off v
/-- R5, R6: a register without a row of its own, by its access codes; eight bytes are written as two words. -/
def execRegisterWrite (fn : PcieFn) (offset width : Nat) (value : DWord) (s : State) : Out :=
  s.hostSets fn (fun s => if (width ≠ 4 ∧ width ≠ 8) ∨ offset % width ≠ 0 then s
    else
      let s := s.bar0Write fn offset (loWord value)
      if width = 8 then s.bar0Write fn (offset + 4) (hiWord value) else s)

/-! Interrupt registers and counters -/

/-- R403: each 1 clears its event bit. -/
def execIrqStatusClear (fn : PcieFn) (value : Word) (s : State) : Out :=
  s.hostSets fn (fun s => match fn with
    | .pf => { s with mgmt := { s.mgmt with irqStatus := s.mgmt.irqStatus &&& ~~~(fieldOf value 5 0) } }
    | .vf p => s.onPart p (fun x => { x with irqStatus := x.irqStatus &&& ~~~(fieldOf value 5 0) }))
/-- The messages of vectors whose mask bit a write clears while the status bit is 1 (R403). -/
def State.unmasked (s : State) (fn : PcieFn) (status old new : BitVec 6) : State :=
  (List.range 6).foldl (fun (s : State) i =>
    if status.getLsbD i && old.getLsbD i && !new.getLsbD i then s.send (.msix fn i) else s) s
/-- R403. -/
def execIrqMaskWrite (fn : PcieFn) (value : Word) (s : State) : Out :=
  let new := fieldOf value 5 0
  s.hostSets fn (fun s => match fn with
    | .pf => { s with mgmt := { s.mgmt with irqMask := new } }.unmasked fn s.mgmt.irqStatus s.mgmt.irqMask new
    | .vf p => (s.onPart p (fun x => { x with irqMask := new })).unmasked fn (s.part p).irqStatus (s.part p).irqMask new)
/-- The counters of a control page are zero (R347). -/
def Partition.clearCounters (x : Partition) : Partition :=
  { x with mvc := [], slip := 0, preTerm := 0, mcCont := 0, rstCnt := 0, aturCnt := 0, reexec := 0, linkDrop := 0 }
/-- R347. -/
def execMvcCtlClr (p : Nat) (value : Word) (s : State) : Out :=
  s.hostSets (.vf p) (fun s => if value.getLsbD 0 then s.onPart p Partition.clearCounters else s)

/-! Device memory over PCIe (R300, R399) -/

/-- The 2 MiB frames that n bytes of BAR2 meet. -/
def bar2Frames (off n : Nat) : List Nat := (List.range ((off + n - 1) / 2 ^ 21 - off / 2 ^ 21 + 1)).map (fun i => (off / 2 ^ 21 + i) * 2 ^ 21)
/-- Whether a function reaches n bytes of device memory (R399). -/
def State.reaches (s : State) (fn : PcieFn) (off n : Nat) : Bool :=
  decide (1 ≤ n) && decide (off + n ≤ 2 ^ 39) && (bar2Frames off n).all (fun a => decide (a % 2 ^ 37 < stackBytes)
    && (match fn with
      | .pf => true
      | .vf p => s.frameOwner (frameOf a) == some p))
/-- R300: a posted write is performed at the L2; a poisoned line stays poisoned (R159). Refused ones change nothing. -/
def execHostWrite (fn : PcieFn) (offset : Nat) (data : List Byte) (s : State) : Out :=
  if s.serves fn 2 && s.reaches fn offset data.length then .next (s.memEngine offset data none) else .next (s.unsupported fn)
/-- The bytes that a read of device memory returns: those of a poisoned line are not stated (log entry 1). -/
def State.hostBytes (s : State) (off n : Nat) : List Byte × State :=
  if s.memPoisoned off n then
    let (ep, s) := (s.l2Read off n).freshEpoch
    ((List.range n).map (fun i => Config.freeByte ep i), s)
  else s.memFetch off n
/-- What the host still reads after a fatal stop: the management page and the inventory region (R379). -/
def State.servesFatal (s : State) (fn : PcieFn) (bar offset n : Nat) : Bool :=
  s.mgmt.power && s.mgmt.fatal && fn == .pf
    && (bar == 0 || (bar == 2 && decide (s.mgmt.fatalRegion.toNat ≤ offset) && decide (offset + n ≤ s.mgmt.fatalRegion.toNat + 2 ^ 26)))
/-- R300, R379, R399. -/
def execHostRead (fn : PcieFn) (bar offset n : Nat) (s : State) : Out :=
  if s.serves fn bar || s.servesFatal fn bar offset n then
    if bar = 0 then .next (s.send (.readData (s.bar0Read fn offset n)))
    else if bar = 2 ∧ s.reaches fn offset n = true then
      let r := s.hostBytes offset n
      .next (r.2.send (.readData r.1))
    else .next (s.unsupported fn)
  else .next (s.unsupported fn)

/-! AtomicOps (R173, R301, R401) -/

/-- Whether a table of a partition's tree, or one below it, maps a physical address with the system-atomic attribute. -/
def State.treeSa (s : State) (p pa va table level : Nat) : Bool :=
  (List.range (if level = 1 then 256 else 512)).any (fun i =>
    let e : DWord := BitVec.ofNat 64 (leNat (s.memRead (table + 8 * i) 8))
    let a := va + i * 2 ^ levelShift level
    if !e.getLsbD 0 || malformed s.mgmt.orbitDev.toNat level a e then false
    else
      let base := (fieldOf e 51 12).toNat * 4096
      if e.getLsbD 1 then
        e.getLsbD 5 && decide (base ≤ pa) && decide (pa < base + 2 ^ levelShift level) && s.partMayMap p base (2 ^ levelShift level)
      else match level with
        | 0 => false
        | l + 1 => State.treeSa s p pa a base l)
/-- A page with the system-atomic attribute, in the tree of the partition that owns the frame (log entry 22). -/
def State.saPage (s : State) (p pa : Nat) : Bool :=
  let root := (s.part p).xltRoot
  root.getLsbD 0 && s.treeSa p pa 0 ((fieldOf root 51 12).toNat * 4096) 4
/-- A refused AtomicOp is counted for the owner of the frame, or for the PF, whatever refuses it (R399, R401). -/
def State.refuseAtomic (s : State) (fn : PcieFn) (bar offset : Nat) : State :=
  let at_ : DWord := BitVec.ofNat 39 offset |>.zeroExtend 64
  State.unsupported (match (if bar = 2 ∧ offset < 2 ^ 39 ∧ offset % 2 ^ 37 < stackBytes then s.frameOwner (frameOf offset) else none) with
    | some p => s.onPart p (fun x => { x with aturCnt := x.aturCnt + 1, aturLast := at_ })
    | none => { s with mgmt := { s.mgmt with aturCnt := s.mgmt.aturCnt + 1, aturLast := at_ } }) fn
/-- The new word of a PCIe AtomicOp: FetchAdd as ADD, Swap as XCHG, CAS as CAS (R301). -/
def hostNew (kind : HostAtom) (old value cmp : Word) : Option Word :=
  match kind with
  | .fetchAdd => atomNew .add old value 0
  | .swap => atomNew .xchg old value 0
  | .cas => atomNew .cas old cmp value
/-- R301: the home performs the request in one order with the device's atomics; on a poisoned word it only records (R376). -/
def State.hostAtomic (s : State) (pa : Nat) (kind : HostAtom) (value cmp : Word) : State :=
  if s.memPoisoned pa 4 then (s.l2Read pa 4).poisonRecord 0xFFFFFFFF 0xFFFFFFFF false pa
  else
    let r := s.memFetch pa 4
    let s := r.2
    let old : Word := BitVec.ofNat 32 (leNat r.1)
    (match hostNew kind old value cmp with
      | some w => s.memEngine pa (leBytes 4 w.toNat) none
      | none => s).send (.atomicOld old)
/-- R301, R399, R401. -/
def execHostAtomicop (fn : PcieFn) (bar offset size : Nat) (kind : HostAtom) (value cmp : Word) (s : State) : Out :=
  if s.mgmt.power = false then .next s
  else if s.serves fn bar = false then .next (if s.mgmt.fatal then s.refuseAtomic fn bar offset else s.unsupported fn)
  else if bar ≠ 2 ∨ size ≠ 4 ∨ offset % 4 ≠ 0 ∨ s.reaches fn offset 4 = false then .next (s.refuseAtomic fn bar offset)
  else match s.frameOwner (frameOf offset) with
    | none => .next (s.refuseAtomic fn bar offset)
    | some p => if s.saPage p offset then .next (s.hostAtomic offset kind value cmp) else .next (s.refuseAtomic fn bar offset)

/-! Peers (R404) -/

/-- Whether the export table lists the frames of n bytes for a device. -/
def State.exported (s : State) (dev off n : Nat) : Bool :=
  decide (1 ≤ n) && decide (off + n ≤ 2 ^ 39) && (bar2Frames off n).all (fun a => decide (a % 2 ^ 37 < stackBytes)
    && (Tbl.get [] s.exports dev).any (fun r => decide (r.1 ≤ frameOf a) && decide (frameOf a < r.1 + r.2)))
/-- The home of a word performs a peer's RED or ATOM, or leaves it and records a poisoned word (R173, R376): the old word, if
it was performed. -/
def State.peerAtomic (s : State) (off : Nat) (new : Word → Option Word) : Option Word × State :=
  if s.memPoisoned off 4 then (none, (s.l2Read off 4).poisonRecord 0xFFFFFFFF 0xFFFFFFFF false off)
  else
    let r := s.memFetch off 4
    let old : Word := BitVec.ofNat 32 (leNat r.1)
    (some old, match new old with
      | some w => r.2.memEngine off (leBytes 4 w.toNat) none
      | none => r.2)
/-- The reply to a peer: a word, or a poisoned reply (R376). -/
def peerReply (r : Option Word × State) : State := r.2.send (match r.1 with
  | some w => .peerData (leBytes 4 w.toNat)
  | none => .peerPoison)
/-- The reservation of a peer's thread at the home of a word (R172, R173). -/
def peerReserve (dev thread off : Nat) : Reserve :=
  { home := homeOf off, peer := some dev, thread := { wg := 0, tid := thread }, near := false, line := off / 128 }
def State.dropPeer (s : State) (dev thread : Nat) : State :=
  { s with reserves := s.reserves.filter (fun r => !(r.peer == some dev && r.thread.tid == thread)) }
/-- A peer's LR sets its thread's one reservation (R172). -/
def State.peerLr (s : State) (dev off thread : Nat) : State :=
  let r := s.peerAtomic off (fun _ => none)
  let t := r.2.dropPeer dev thread
  peerReply (r.1, if r.1.isSome then t.setReserve (peerReserve dev thread off) else t)
/-- A peer's SC stores and answers 0 where its thread's reservation names the line, else it answers 1; the reservation is
cleared (R172). -/
def State.peerSc (s : State) (dev off thread : Nat) (b : Word) : State :=
  let held := s.reserves.any (fun r => r.peer == some dev && r.thread.tid == thread && r.line == off / 128)
  let r := s.peerAtomic off (fun _ => if held then some b else none)
  peerReply (r.1.map (fun _ => if held then 0 else 1), r.2.dropPeer dev thread)
/-- Serve a peer's request if the frames are exported to it, else give a negative reply (R404). -/
def State.forPeer (s : State) (dev off n : Nat) (f : State → State) : State := if s.exported dev off n then f s else s.send .peerNegative
/-- R404: a peer's request for exported frames is served, at the L2 or at the home (R173); any other gets a negative reply. A
RED, which has no reply, is dropped where its word is poisoned (R376). A push or pop waits at the home with those of threads.
DESIGN CHOICE (log entry 42): no request tells that a peer's thread was pre-empted or has ended, so the reservation that its LR
set stays, and so does its parked push or pop. -/
def execPeerRequest (dev : Nat) (what : PeerReq) (s : State) : Out :=
  if s.mgmt.power = false ∨ s.mgmt.bootState ≠ 2 ∨ s.mgmt.fatal = true then .next s
  else .next (match what with
    | .read off n => s.forPeer dev off n (fun s =>
        let r := s.hostBytes off n
        r.2.send (if s.memPoisoned off n then .peerPoison else .peerData r.1))
    | .write off data => s.forPeer dev off data.length (fun s => s.memEngine off data none)
    | .atomic off op b c => s.forPeer dev (off / 4 * 4) 4 (fun s => peerReply (s.peerAtomic (off / 4 * 4) (fun old => atomNew op old b c)))
    | .red off op b => s.forPeer dev (off / 4 * 4) 4 (fun s => (s.peerAtomic (off / 4 * 4) (fun old => some (redNew op old b))).2)
    | .lr off thread => s.forPeer dev (off / 4 * 4) 4 (fun s => s.peerLr dev (off / 4 * 4) thread)
    | .sc off thread b => s.forPeer dev (off / 4 * 4) 4 (fun s => s.peerSc dev (off / 4 * 4) thread b)
    | .push off value det => s.forPeer dev off 64 (fun s => s.peerServe s.nextId false { dev := dev, off := off, push := true, value := value, det := det })
    | .pop off => s.forPeer dev off 64 (fun s => s.peerServe s.nextId false { dev := dev, off := off, push := false, value := 0, det := none }))

end Sys2Proof.Machine
end

