-- ==== Sys2Proof/Machine/Dispatch.lean ====
section
/-! DEFINITION. The meaning of every instruction and event, one arm each. -/
namespace Sys2Proof.Machine

def exec (i : Instr) (s : State) : Host.Outcome State Fault Refusal :=
  match i with
  | .nop => Sys2Proof.Machine.execNop s
  | .exit => Sys2Proof.Machine.execExit s
  | .trap code => Sys2Proof.Machine.execTrap code s
  | .eret => Sys2Proof.Machine.execEret s
  | .srd vd sr => Sys2Proof.Machine.execSrd vd sr s
  | .swr sr va => Sys2Proof.Machine.execSwr sr va s
  | .brk code => Sys2Proof.Machine.execBrk code s
  | .ppt sk => Sys2Proof.Machine.execPpt sk s
  | .dsav va => Sys2Proof.Machine.execDsav va s
  | .drst va => Sys2Proof.Machine.execDrst va s
  | .add vd va vb => Sys2Proof.Machine.execAdd vd va vb s
  | .sub vd va vb => Sys2Proof.Machine.execSub vd va vb s
  | .mul vd va vb => Sys2Proof.Machine.execMul vd va vb s
  | .mulh vd va vb => Sys2Proof.Machine.execMulh vd va vb s
  | .mulhu vd va vb => Sys2Proof.Machine.execMulhu vd va vb s
  | .and vd va vb => Sys2Proof.Machine.execAnd vd va vb s
  | .or vd va vb => Sys2Proof.Machine.execOr vd va vb s
  | .xor vd va vb => Sys2Proof.Machine.execXor vd va vb s
  | .shl vd va vb => Sys2Proof.Machine.execShl vd va vb s
  | .shr vd va vb => Sys2Proof.Machine.execShr vd va vb s
  | .sar vd va vb => Sys2Proof.Machine.execSar vd va vb s
  | .rol vd va vb => Sys2Proof.Machine.execRol vd va vb s
  | .min vd va vb => Sys2Proof.Machine.execMin vd va vb s
  | .max vd va vb => Sys2Proof.Machine.execMax vd va vb s
  | .minu vd va vb => Sys2Proof.Machine.execMinu vd va vb s
  | .maxu vd va vb => Sys2Proof.Machine.execMaxu vd va vb s
  | .div vd va vb => Sys2Proof.Machine.execDiv vd va vb s
  | .divu vd va vb => Sys2Proof.Machine.execDivu vd va vb s
  | .rem vd va vb => Sys2Proof.Machine.execRem vd va vb s
  | .remu vd va vb => Sys2Proof.Machine.execRemu vd va vb s
  | .adds vd va vb => Sys2Proof.Machine.execAdds vd va vb s
  | .subs vd va vb => Sys2Proof.Machine.execSubs vd va vb s
  | .popc vd va => Sys2Proof.Machine.execPopc vd va s
  | .clz vd va => Sys2Proof.Machine.execClz vd va s
  | .brev vd va => Sys2Proof.Machine.execBrev vd va s
  | .add64 vd va vb => Sys2Proof.Machine.execAdd64 vd va vb s
  | .sub64 vd va vb => Sys2Proof.Machine.execSub64 vd va vb s
  | .uadd ud ua ub => Sys2Proof.Machine.execUadd ud ua ub s
  | .usub ud ua ub => Sys2Proof.Machine.execUsub ud ua ub s
  | .umul ud ua ub => Sys2Proof.Machine.execUmul ud ua ub s
  | .umulh ud ua ub => Sys2Proof.Machine.execUmulh ud ua ub s
  | .umulhu ud ua ub => Sys2Proof.Machine.execUmulhu ud ua ub s
  | .uand ud ua ub => Sys2Proof.Machine.execUand ud ua ub s
  | .uor ud ua ub => Sys2Proof.Machine.execUor ud ua ub s
  | .uxor ud ua ub => Sys2Proof.Machine.execUxor ud ua ub s
  | .ushl ud ua ub => Sys2Proof.Machine.execUshl ud ua ub s
  | .ushr ud ua ub => Sys2Proof.Machine.execUshr ud ua ub s
  | .usar ud ua ub => Sys2Proof.Machine.execUsar ud ua ub s
  | .urol ud ua ub => Sys2Proof.Machine.execUrol ud ua ub s
  | .umin ud ua ub => Sys2Proof.Machine.execUmin ud ua ub s
  | .umax ud ua ub => Sys2Proof.Machine.execUmax ud ua ub s
  | .uminu ud ua ub => Sys2Proof.Machine.execUminu ud ua ub s
  | .umaxu ud ua ub => Sys2Proof.Machine.execUmaxu ud ua ub s
  | .udiv ud ua ub => Sys2Proof.Machine.execUdiv ud ua ub s
  | .udivu ud ua ub => Sys2Proof.Machine.execUdivu ud ua ub s
  | .urem ud ua ub => Sys2Proof.Machine.execUrem ud ua ub s
  | .uremu ud ua ub => Sys2Proof.Machine.execUremu ud ua ub s
  | .uadds ud ua ub => Sys2Proof.Machine.execUadds ud ua ub s
  | .usubs ud ua ub => Sys2Proof.Machine.execUsubs ud ua ub s
  | .upopc ud ua => Sys2Proof.Machine.execUpopc ud ua s
  | .uclz ud ua => Sys2Proof.Machine.execUclz ud ua s
  | .ubrev ud ua => Sys2Proof.Machine.execUbrev ud ua s
  | .uadd64 ud ua ub => Sys2Proof.Machine.execUadd64 ud ua ub s
  | .usub64 ud ua ub => Sys2Proof.Machine.execUsub64 ud ua ub s
  | .addi vd va imm => Sys2Proof.Machine.execAddi vd va imm s
  | .andi vd va imm => Sys2Proof.Machine.execAndi vd va imm s
  | .ori vd va imm => Sys2Proof.Machine.execOri vd va imm s
  | .xori vd va imm => Sys2Proof.Machine.execXori vd va imm s
  | .shli vd va cnt => Sys2Proof.Machine.execShli vd va cnt s
  | .shri vd va cnt => Sys2Proof.Machine.execShri vd va cnt s
  | .sari vd va cnt => Sys2Proof.Machine.execSari vd va cnt s
  | .roli vd va cnt => Sys2Proof.Machine.execRoli vd va cnt s
  | .lui vd imm => Sys2Proof.Machine.execLui vd imm s
  | .bfx vd va sign lenM1 pos => Sys2Proof.Machine.execBfx vd va sign lenM1 pos s
  | .bfi vd va lenM1 pos => Sys2Proof.Machine.execBfi vd va lenM1 pos s
  | .icmp pd cond va vb wide mode => Sys2Proof.Machine.execIcmp pd cond va vb wide mode s
  | .fcmp pd cond va vb fmt mode => Sys2Proof.Machine.execFcmp pd cond va vb fmt mode s
  | .sel vd va vb wide inv p => Sys2Proof.Machine.execSel vd va vb wide inv p s
  | .fadd vd va vb => Sys2Proof.Machine.execFadd vd va vb s
  | .fsub vd va vb => Sys2Proof.Machine.execFsub vd va vb s
  | .fmul vd va vb => Sys2Proof.Machine.execFmul vd va vb s
  | .ffma vd va vb => Sys2Proof.Machine.execFfma vd va vb s
  | .fmin vd va vb => Sys2Proof.Machine.execFmin vd va vb s
  | .fmax vd va vb => Sys2Proof.Machine.execFmax vd va vb s
  | .fabs vd va => Sys2Proof.Machine.execFabs vd va s
  | .fneg vd va => Sys2Proof.Machine.execFneg vd va s
  | .fdiv vd va vb => Sys2Proof.Machine.execFdiv vd va vb s
  | .fsqrt vd va => Sys2Proof.Machine.execFsqrt vd va s
  | .fsgnj vd va vb => Sys2Proof.Machine.execFsgnj vd va vb s
  | .frcp vd va => Sys2Proof.Machine.execFrcp vd va s
  | .frsq vd va => Sys2Proof.Machine.execFrsq vd va s
  | .fexp2 vd va => Sys2Proof.Machine.execFexp2 vd va s
  | .flog2 vd va => Sys2Proof.Machine.execFlog2 vd va s
  | .fsin vd va => Sys2Proof.Machine.execFsin vd va s
  | .fcos vd va => Sys2Proof.Machine.execFcos vd va s
  | .ftanh vd va => Sys2Proof.Machine.execFtanh vd va s
  | .fsigm vd va => Sys2Proof.Machine.execFsigm vd va s
  | .fcvt vd va dfmt sfmt => Sys2Proof.Machine.execFcvt vd va dfmt sfmt s
  | .pkadd vd va vb => Sys2Proof.Machine.execPkadd vd va vb s
  | .pkmul vd va vb => Sys2Proof.Machine.execPkmul vd va vb s
  | .pkfma vd va vb => Sys2Proof.Machine.execPkfma vd va vb s
  | .pkmin vd va vb => Sys2Proof.Machine.execPkmin vd va vb s
  | .pkmax vd va vb => Sys2Proof.Machine.execPkmax vd va vb s
  | .pksub vd va vb => Sys2Proof.Machine.execPksub vd va vb s
  | .pkaddBf16 vd va vb => Sys2Proof.Machine.execPkaddBf16 vd va vb s
  | .pkmulBf16 vd va vb => Sys2Proof.Machine.execPkmulBf16 vd va vb s
  | .pkfmaBf16 vd va vb => Sys2Proof.Machine.execPkfmaBf16 vd va vb s
  | .pkminBf16 vd va vb => Sys2Proof.Machine.execPkminBf16 vd va vb s
  | .pkmaxBf16 vd va vb => Sys2Proof.Machine.execPkmaxBf16 vd va vb s
  | .pksubBf16 vd va vb => Sys2Proof.Machine.execPksubBf16 vd va vb s
  | .fdot4E4m3 vd va vb => Sys2Proof.Machine.execFdot4E4m3 vd va vb s
  | .fdot4E5m2 vd va vb => Sys2Proof.Machine.execFdot4E5m2 vd va vb s
  | .idp4Ss vd va vb => Sys2Proof.Machine.execIdp4Ss vd va vb s
  | .idp4Su vd va vb => Sys2Proof.Machine.execIdp4Su vd va vb s
  | .idp4Us vd va vb => Sys2Proof.Machine.execIdp4Us vd va vb s
  | .idp4Uu vd va vb => Sys2Proof.Machine.execIdp4Uu vd va vb s
  | .bra ps neg kind off => Sys2Proof.Machine.execBra ps neg kind off s
  | .call ps neg off => Sys2Proof.Machine.execCall ps neg off s
  | .jr va => Sys2Proof.Machine.execJr va s
  | .callr va => Sys2Proof.Machine.execCallr va s
  | .ret => Sys2Proof.Machine.execRet s
  | .pand pd pa pb => Sys2Proof.Machine.execPand pd pa pb s
  | .por pd pa pb => Sys2Proof.Machine.execPor pd pa pb s
  | .pxor pd pa pb => Sys2Proof.Machine.execPxor pd pa pb s
  | .pandn pd pa pb => Sys2Proof.Machine.execPandn pd pa pb s
  | .pnot pd pa => Sys2Proof.Machine.execPnot pd pa s
  | .pmov pd pa => Sys2Proof.Machine.execPmov pd pa s
  | .pset pd => Sys2Proof.Machine.execPset pd s
  | .pclr pd => Sys2Proof.Machine.execPclr pd s
  | .ld vd vo sb sz imm => Sys2Proof.Machine.execLd vd vo sb sz imm s
  | .st vd vo sb sz imm => Sys2Proof.Machine.execSt vd vo sb sz imm s
  | .ldn vd vo sz imm => Sys2Proof.Machine.execLdn vd vo sz imm s
  | .stn vd vo sz imm => Sys2Proof.Machine.execStn vd vo sz imm s
  | .ldnf vd va => Sys2Proof.Machine.execLdnf vd va s
  | .ldnw vd va => Sys2Proof.Machine.execLdnw vd va s
  | .stne va vb => Sys2Proof.Machine.execStne va vb s
  | .stnf va vb => Sys2Proof.Machine.execStnf va vb s
  | .fesetE va => Sys2Proof.Machine.execFesetE va s
  | .fesetF va => Sys2Proof.Machine.execFesetF va s
  | .feq vd va => Sys2Proof.Machine.execFeq vd va s
  | .atom vd va vb sp op => Sys2Proof.Machine.execAtom vd va vb sp op s
  | .red va vb sp op => Sys2Proof.Machine.execRed va vb sp op s
  | .lr vd va sp => Sys2Proof.Machine.execLr vd va sp s
  | .sc vd va vb sp => Sys2Proof.Machine.execSc vd va vb sp s
  | .fence kind scope => Sys2Proof.Machine.execFence kind scope s
  | .fencePath => Sys2Proof.Machine.execFencePath s
  | .bar n => Sys2Proof.Machine.execBar n s
  | .tbar pd k => Sys2Proof.Machine.execTbar pd k s
  | .wait nld nst ncp ntl => Sys2Proof.Machine.execWait nld nst ncp ntl s
  | .voteEvery vd sm pp => Sys2Proof.Machine.execVoteEvery vd sm pp s
  | .voteSome vd sm pp => Sys2Proof.Machine.execVoteSome vd sm pp s
  | .voteMask vd sm pp => Sys2Proof.Machine.execVoteMask vd sm pp s
  | .voteCount vd sm pp => Sys2Proof.Machine.execVoteCount vd sm pp s
  | .shflAt vd va sm => Sys2Proof.Machine.execShflAt vd va sm s
  | .shflRot vd va sm => Sys2Proof.Machine.execShflRot vd va sm s
  | .shflRev vd va sm => Sys2Proof.Machine.execShflRev vd va sm s
  | .shflSwap vd va sm => Sys2Proof.Machine.execShflSwap vd va sm s
  | .matchSame vd va sm => Sys2Proof.Machine.execMatchSame vd va sm s
  | .matchUnif vd va sm => Sys2Proof.Machine.execMatchUnif vd va sm s
  | .confd vd va sm => Sys2Proof.Machine.execConfd vd va sm s
  | .cmpk vd sm pp => Sys2Proof.Machine.execCmpk vd sm pp s
  | .matchLead vd va sm => Sys2Proof.Machine.execMatchLead vd va sm s
  | .cpy hd tag sp va dir sz => Sys2Proof.Machine.execCpy hd tag sp va dir sz s
  | .cpym hd tag sp va near => Sys2Proof.Machine.execCpym hd tag sp va near s
  | .cpyq hd tag sp va idx8 table => Sys2Proof.Machine.execCpyq hd tag sp va idx8 table s
  | .cbook hd tag sp vec table => Sys2Proof.Machine.execCbook hd tag sp vec table s
  | .bseal => Sys2Proof.Machine.execBseal s
  | .twany va => Sys2Proof.Machine.execTwany va s
  | .twall va => Sys2Proof.Machine.execTwall va s
  | .tffr vd va => Sys2Proof.Machine.execTffr vd va s
  | .tclr va => Sys2Proof.Machine.execTclr va s
  | .htest vd hs => Sys2Proof.Machine.execHtest vd hs s
  | .hcan hs => Sys2Proof.Machine.execHcan hs s
  | .hstat vd hs => Sys2Proof.Machine.execHstat vd hs s
  | .hmov hs hd => Sys2Proof.Machine.execHmov hs hd s
  | .oclm mask => Sys2Proof.Machine.execOclm mask s
  | .orel mask => Sys2Proof.Machine.execOrel mask s
  | .old hd tag sp va slot => Sys2Proof.Machine.execOld hd tag sp va slot s
  | .mma hd tag sp va ov => Sys2Proof.Machine.execMma hd tag sp va ov s
  | .mmas hd tag sp va ov n => Sys2Proof.Machine.execMmas hd tag sp va ov n s
  | .mv hd tag sp va tile mode => Sys2Proof.Machine.execMv hd tag sp va tile mode s
  | .accld hd tag sp va => Sys2Proof.Machine.execAccld hd tag sp va s
  | .accst hd tag sp va => Sys2Proof.Machine.execAccst hd tag sp va s
  | .acz hd tag sp va => Sys2Proof.Machine.execAcz hd tag sp va s
  | .scacc hd tag va code => Sys2Proof.Machine.execScacc hd tag va code s
  | .oprdy => Sys2Proof.Machine.execOprdy s
  | .nprune hd tag va n => Sys2Proof.Machine.execNprune hd tag va n s
  | .cmpkSparse hd tag va => Sys2Proof.Machine.execCmpkSparse hd tag va s
  | .fbind fs sp va => Sys2Proof.Machine.execFbind fs sp va s
  | .fbindNear fs va => Sys2Proof.Machine.execFbindNear fs va s
  | .fld vd va fs => Sys2Proof.Machine.execFld vd va fs s
  | .fldg vd va fs => Sys2Proof.Machine.execFldg vd va fs s
  | .fspl vd va fs => Sys2Proof.Machine.execFspl vd va fs s
  | .chor k pair => Sys2Proof.Machine.execChor k pair s
  | .cend => Sys2Proof.Machine.execCend s
  | .hand ch snd rcv pk va => Sys2Proof.Machine.execHand ch snd rcv pk va s
  | .cloop cnt back => Sys2Proof.Machine.execCloop cnt back s
  | .cloopReg sk back => Sys2Proof.Machine.execCloopReg sk back s
  | .epset role eidx va => Sys2Proof.Machine.execEpset role eidx va s
  | .launch hd tag sp va near => Sys2Proof.Machine.execLaunch hd tag sp va near s
  | .gcinc vd va => Sys2Proof.Machine.execGcinc vd va s
  | .qpush vd va pair => Sys2Proof.Machine.execQpush vd va pair s
  | .qpop vd pair => Sys2Proof.Machine.execQpop vd pair s
  | .rnd vd => Sys2Proof.Machine.execRnd vd s
  | .ared hd tag va => Sys2Proof.Machine.execAred hd tag va s
  | .agath hd tag va => Sys2Proof.Machine.execAgath hd tag va s
  | .bcast hd tag va => Sys2Proof.Machine.execBcast hd tag va s
  | .dgstRead vd => Sys2Proof.Machine.execDgstRead vd s
  | .dgstFold va => Sys2Proof.Machine.execDgstFold va s
  | .cue rmask len => Sys2Proof.Machine.execCue rmask len s
  | .imm payload => Sys2Proof.Machine.execImm payload s
  | .pred p neg => Sys2Proof.Machine.execPred p neg s
  | .ipf cntM1 off => Sys2Proof.Machine.execIpf cntM1 off s
  | .sched yield holdoff => Sys2Proof.Machine.execSched yield holdoff s
  | .rmode mode => Sys2Proof.Machine.execRmode mode s
  | .issueGroupFormation u => Sys2Proof.Machine.execIssueGroupFormation u s
  | .schedHoldoffExpiry t => Sys2Proof.Machine.execSchedHoldoffExpiry t s
  | .instructionCacheFill cluster line => Sys2Proof.Machine.execInstructionCacheFill cluster line s
  | .loadReturn req evict => Sys2Proof.Machine.execLoadReturn req evict s
  | .storePerformed req drain => Sys2Proof.Machine.execStorePerformed req drain s
  | .fullEmptyPerform req => Sys2Proof.Machine.execFullEmptyPerform req s
  | .homeRequestServe req => Sys2Proof.Machine.execHomeRequestServe req s
  | .atomicReply req => Sys2Proof.Machine.execAtomicReply req s
  | .queuePushServe req => Sys2Proof.Machine.execQueuePushServe req s
  | .queuePopServe req => Sys2Proof.Machine.execQueuePopServe req s
  | .gcincRequest req => Sys2Proof.Machine.execGcincRequest req s
  | .promotionRequest src dst => Sys2Proof.Machine.execPromotionRequest src dst s
  | .lineRecall line core => Sys2Proof.Machine.execLineRecall line core s
  | .copyItemCompletion op => Sys2Proof.Machine.execCopyItemCompletion op s
  | .codebookLoadCompletion op => Sys2Proof.Machine.execCodebookLoadCompletion op s
  | .cpymLineDelivery op member => Sys2Proof.Machine.execCpymLineDelivery op member s
  | .cpymCompletion op => Sys2Proof.Machine.execCpymCompletion op s
  | .slotFillCompletion op => Sys2Proof.Machine.execSlotFillCompletion op s
  | .matrixOperationCompletion op => Sys2Proof.Machine.execMatrixOperationCompletion op s
  | .cmpkSparseCountPass op => Sys2Proof.Machine.execCmpkSparseCountPass op s
  | .mvDispatch op => Sys2Proof.Machine.execMvDispatch op s
  | .flushForBank op => Sys2Proof.Machine.execFlushForBank op s
  | .mvJob op unit => Sys2Proof.Machine.execMvJob op unit s
  | .mvRowResult op row => Sys2Proof.Machine.execMvRowResult op row s
  | .mvCompletion op => Sys2Proof.Machine.execMvCompletion op s
  | .fieldLoadReturn req => Sys2Proof.Machine.execFieldLoadReturn req s
  | .splatRequestApply req => Sys2Proof.Machine.execSplatRequestApply req s
  | .splatLogAppend req => Sys2Proof.Machine.execSplatLogAppend req s
  | .collectiveCompletion launch team idx => Sys2Proof.Machine.execCollectiveCompletion launch team idx s
  | .launchPacketAppend op => Sys2Proof.Machine.execLaunchPacketAppend op s
  | .exitCompletion t => Sys2Proof.Machine.execExitCompletion t s
  | .preemptionTrap wg => Sys2Proof.Machine.execPreemptionTrap wg s
  | .preemptionTermination wg => Sys2Proof.Machine.execPreemptionTermination wg s
  | .firmwarePreemption wg => Sys2Proof.Machine.execFirmwarePreemption wg s
  | .workgroupRestore wg pl => Sys2Proof.Machine.execWorkgroupRestore wg pl s
  | .packetRead queue => Sys2Proof.Machine.execPacketRead queue s
  | .launchAdmission queue => Sys2Proof.Machine.execLaunchAdmission queue s
  | .queueVisit queue pl => Sys2Proof.Machine.execQueueVisit queue pl s
  | .launchCompletion launch => Sys2Proof.Machine.execLaunchCompletion launch s
  | .selfTest queue core broke => Sys2Proof.Machine.execSelfTest queue core broke s
  | .translationWalk part page => Sys2Proof.Machine.execTranslationWalk part page s
  | .invalidationComplete part => Sys2Proof.Machine.execInvalidationComplete part s
  | .lqNotify part value => Sys2Proof.Machine.execLqNotify part value s
  | .preReqPreempt part value => Sys2Proof.Machine.execPreReqPreempt part value s
  | .preReqHoldOnly part value => Sys2Proof.Machine.execPreReqHoldOnly part value s
  | .launchAbort part value => Sys2Proof.Machine.execLaunchAbort part value s
  | .mvcCtlClr part value => Sys2Proof.Machine.execMvcCtlClr part value s
  | .xltInvPage part value => Sys2Proof.Machine.execXltInvPage part value s
  | .xltInvRange part value => Sys2Proof.Machine.execXltInvRange part value s
  | .xltInvPartition part value => Sys2Proof.Machine.execXltInvPartition part value s
  | .fqRespReplay part index => Sys2Proof.Machine.execFqRespReplay part index s
  | .fqRespDecline part index => Sys2Proof.Machine.execFqRespDecline part index s
  | .mcAck type inst seq => Sys2Proof.Machine.execMcAck type inst seq s
  | .irqStatusClear fn value => Sys2Proof.Machine.execIrqStatusClear fn value s
  | .irqMaskWrite fn value => Sys2Proof.Machine.execIrqMaskWrite fn value s
  | .bootCtlLoad value => Sys2Proof.Machine.execBootCtlLoad value s
  | .partSet => Sys2Proof.Machine.execPartSet s
  | .policySet => Sys2Proof.Machine.execPolicySet s
  | .attest => Sys2Proof.Machine.execAttest s
  | .cert => Sys2Proof.Machine.execCert s
  | .retireAck => Sys2Proof.Machine.execRetireAck s
  | .fuseSvn => Sys2Proof.Machine.execFuseSvn s
  | .telemetry => Sys2Proof.Machine.execTelemetry s
  | .registerWrite fn offset width value => Sys2Proof.Machine.execRegisterWrite fn offset width value s
  | .hostWrite fn offset data => Sys2Proof.Machine.execHostWrite fn offset data s
  | .hostRead fn bar offset n => Sys2Proof.Machine.execHostRead fn bar offset n s
  | .hostAtomicop fn bar offset size kind value cmp => Sys2Proof.Machine.execHostAtomicop fn bar offset size kind value cmp s
  | .peerRequest dev what => Sys2Proof.Machine.execPeerRequest dev what s
  | .flitReplay link => Sys2Proof.Machine.execFlitReplay link s
  | .linkDown link => Sys2Proof.Machine.execLinkDown link s
  | .machineCheckEvent type inst ev => Sys2Proof.Machine.execMachineCheckEvent type inst ev s
  | .coreControlError core => Sys2Proof.Machine.execCoreControlError core s
  | .fatalStop type inst ev => Sys2Proof.Machine.execFatalStop type inst ev s
  | .inventoryWrite ok => Sys2Proof.Machine.execInventoryWrite ok s
  | .patrolScrub place addr found => Sys2Proof.Machine.execPatrolScrub place addr found s
  | .activationAlert bank row => Sys2Proof.Machine.execActivationAlert bank row s
  | .alertRefreshDone bank row => Sys2Proof.Machine.execAlertRefreshDone bank row s
  | .throttleCrossing quadrant level => Sys2Proof.Machine.execThrottleCrossing quadrant level s
  | .frameRetirement frame cause => Sys2Proof.Machine.execFrameRetirement frame cause s
  | .pcieReset => Sys2Proof.Machine.execPcieReset s
  | .dramRefresh bank row => Sys2Proof.Machine.execDramRefresh bank row s
  | .powerDown => Sys2Proof.Machine.execPowerDown s

end Sys2Proof.Machine
end

