-- ==== Sys2Proof/Machine/Driver.lean ====
section
/-! DEFINITION. Which event comes next (log entry 11): the environment's agenda chooses; with no agenda, the device makes
the first enabled event of a fixed list, and a quarter issues when there is none. The spec fixes no order among them. -/
namespace Sys2Proof.Machine

/-- A step that the device may make by itself: the meaning of an event. -/
abbrev Event := State → Host.Outcome State Fault Refusal

/-- The next event of a request (R161-R171, R244-R248, R278, R280). -/
def reqEvents (id : Nat) (q : Req) : List Event :=
  if q.served then [execAtomicReply id]
  else match q.kind with
    | .load _ => [execLoadReturn id false]
    | .store => [execStorePerformed id true]
    | .fullEmpty _ => if q.parked then [] else [execFullEmptyPerform id]
    | .atom _ => [execHomeRequestServe id]
    | .red _ => [execHomeRequestServe id]
    | .lr => [execHomeRequestServe id]
    | .sc => [execHomeRequestServe id]
    | .push => [execQueuePushServe id]
    | .pop => [execQueuePopServe id]
    | .gcinc => [execGcincRequest id]
    | .field _ => [execFieldLoadReturn id]
    | .splat => [execSplatRequestApply id]
    | .splatLog => [execSplatLogAppend id]
/-- The collectives under way. -/
def State.collEvents (s : State) : List Event :=
  s.launches.flatMap (fun l => l.2.teams.flatMap (fun t => (List.range (s.colls.length + 1)).map (fun j => execCollectiveCompletion l.1 t.1 j)))
/-- The events that may carry an operation on. -/
def opEvents (id : Nat) (op : Op) : List Event :=
  match op.instr with
  | .cpy _ _ _ _ _ _ => [execCopyItemCompletion id]
  | .cpyq _ _ _ _ _ _ => [execCopyItemCompletion id]
  | .cbook _ _ _ _ _ => [execCodebookLoadCompletion id]
  | .cpym _ _ _ _ _ => execCpymCompletion id :: op.members.map (fun m => execCpymLineDelivery id m.index)
  | .old _ _ _ _ _ => [execSlotFillCompletion id]
  | .mv _ _ _ _ _ _ => [execMvDispatch id, execFlushForBank id, execMvCompletion id] ++ (mvRowList op.block).flatMap (fun r =>
      [execMvJob id (r % 512), execMvRowResult id r])
  | .cmpkSparse _ _ _ => [execCmpkSparseCountPass id, execMatrixOperationCompletion id]
  | .launch _ _ _ _ _ => [execLaunchPacketAppend id]
  | .ared _ _ _ => []
  | .agath _ _ _ => []
  | .bcast _ _ _ => []
  | _ => [execMatrixOperationCompletion id]
/-- The events that release a waiting thread. -/
def State.threadEvents (s : State) (t : Thread) : List Event :=
  match t.stall with
  | .walk page _ _ _ => [execTranslationWalk (s.partOfRef t.ref) page]
  | .exiting => [execExitCompletion t.ref]
  | .fetch => match s.wgOf t.ref with
    | some w => match s.tlbLook (s.partOf w) w.core t.pc.toNat with
      | some x => [execInstructionCacheFill (clusterOf w.core) (x.pa / 128)]
      | none => []
    | none => []
  | _ => []
/-- The lines that engine roles wait for, and the roles themselves. -/
def State.roleEvents (s : State) : List Event :=
  s.streams.flatMap (fun st => st.2.roles.flatMap (fun e =>
    execIssueGroupFormation (.engine (st.1 / 256) (st.1 % 256) e.1) ::
      (match s.roleAt (st.1 / 256) (st.1 % 256) e.1 with
        | some (r, _, w) => if r.stall = .fetch then (match s.tlbLook (s.partOf w) w.core r.pc.toNat with
            | some x => [execInstructionCacheFill (clusterOf w.core) (x.pa / 128)]
            | none => []) else []
        | none => [])))
/-- A place for what the queue would start, or any. -/
def State.placeFor (s : State) (n : Nat) : Placement :=
  ((s.queueStart n).bind (fun x => (s.tasksOf x.2.1 x.2.2).1.head?.bind (s.taskPlace x.1 x.2.1))).getD
    { core := 0, quarter := 0, lane := 0, near := 0 }
/-- Whether a queue could start something, or refuse a restore. -/
def State.canStart (s : State) (n : Nat) : Bool :=
  !(s.queue n).err && match s.queueStart n with
    | some (lid, l, x) =>
      let ts := (s.tasksOf l x).1
      (s.refusal l ts).isSome || (match x with
        | .together => (s.part l.part).reserve != some lid || (s.together lid l ts).isSome
        | _ => ts.any (fun t => (s.taskPlace lid l t).isSome))
    | none => false
/-- The dispatcher's events: the partitions' visits, while something could start. -/
def State.visitEvents (s : State) : List Event :=
  (List.range 8).flatMap (fun p =>
    if (List.range 256).any (fun n => (s.queue n).owner == some p && s.canStart n) then
      (match s.nextVisit p with
        | some n => [execQueueVisit n (s.placeFor n)]
        | none => []) else [])
/-- Tests of cores, with an outcome of the hardware's (log entry 10). -/
def State.testEvents (s : State) : List Event :=
  s.launches.flatMap (fun l => if l.2.test then l.2.cores.map (fun c => execSelfTest l.2.queue c (if Config.bootFails c then some (1, 0) else none)) else [])
/-- The events that the device may make by itself, oldest first. -/
def State.ownEvents (s : State) : List Event :=
  s.reqs.flatMap (fun e => reqEvents e.1 e.2) ++ s.ops.flatMap (fun e => opEvents e.1 e.2) ++ s.collEvents
    ++ (Tbl.vals s.threads).flatMap (fun t => s.threadEvents t)
    ++ s.wgs.flatMap (fun e => if e.2.preempt.isSome then [execPreemptionTermination e.1, execPreemptionTrap e.1] else [])
    ++ s.queues.flatMap (fun e => [execPacketRead e.1, execLaunchAdmission e.1]) ++ s.testEvents
    ++ s.launches.map (fun e => execLaunchCompletion e.1) ++ s.visitEvents
    ++ s.parts.map (fun e => execInvalidationComplete e.1) ++ s.alerts.map (fun a => execAlertRefreshDone a.bank a.row)
    ++ (s.acts.filter (fun e => decide (s.mgmt.actAlert ≤ e.2))).map (fun e => execActivationAlert (e.1 / 2 ^ 32) (e.1 % 2 ^ 32)) ++ s.roleEvents
/-- Whether an event does anything now. -/
def State.enabled (s : State) (i : Event) : Bool :=
  match i s with
  | .next t => decide (t ≠ s)
  | _ => true
/-- The core with a resident workgroup whose count of cycles is lowest, and the quarter whose turn it is. -/
def State.nextQuarter (s : State) : Option IssueUnit :=
  let cores := (s.wgs.map (fun e => e.2.core)).eraseDups
  (cores.foldl (fun (a : Option Nat) c => match a with
    | some b => if (s.core c).cyc.toNat < (s.core b).cyc.toNat then some c else some b
    | none => some c) none).map (fun c => .quarter c ((s.core c).cyc.toNat % 4))
/-- The event that comes next by itself, if any. -/
def State.nextEvent (s : State) : Option Event :=
  match s.ownEvents.find? s.enabled with
  | some i => some i
  | none => s.nextQuarter.map execIssueGroupFormation

/-- What a device that has stopped, or has no power, still does (R379, R418). -/
def State.allows (s : State) (i : Instr) : Bool :=
  if !s.mgmt.power then match i with
    | .pcieReset => true
    | _ => false
  else if s.mgmt.fatal then match i with
    | .inventoryWrite _ => true
    | .hostRead _ _ _ _ => true
    | .hostWrite _ _ _ => true
    | .hostAtomicop _ _ _ _ _ _ _ => true
    | .registerWrite _ _ _ _ => true
    | .irqStatusClear _ _ => true
    | .irqMaskWrite _ _ => true
    | .mvcCtlClr _ _ => true
    | .lqNotify _ _ => true
    | .preReqPreempt _ _ => true
    | .preReqHoldOnly _ _ => true
    | .launchAbort _ _ => true
    | .xltInvPage _ _ => true
    | .xltInvRange _ _ => true
    | .xltInvPartition _ _ => true
    | .fqRespReplay _ _ => true
    | .fqRespDecline _ _ => true
    | .mcAck _ _ _ => true
    | .bootCtlLoad _ => true
    | .pcieReset => true
    | .powerDown => true
    | _ => false
  else true
/-- The device has stopped. -/
def State.stopped (s : State) : Bool := !s.mgmt.power || s.mgmt.fatal
/-- After a fatal stop the management processors write the inventory, or fail to: a free value decides (R379, R380). -/
def State.runStopped (s : State) : Host.Outcome State Fault Refusal :=
  if s.mgmt.power && !s.mgmt.fatalDone then
    let (w, s) := s.freshWord
    execInventoryWrite (w.getLsbD 0) s
  else .next s
/-- The environment's next event, or the device's own; before firmware runs, bring-up (R418, log entry 11). -/
def State.nextOutcome (s : State) : Host.Outcome State Fault Refusal :=
  match s.agenda with
  | i :: rest =>
    let s : State := { s with agenda := rest }
    if i.isEvent && s.allows i then exec i s else .next s
  | [] =>
    if s.stopped then s.runStopped
    else if s.mgmt.bootState = 0 then .next (s.bringUp Config.flashImage)
    else match s.nextEvent with
      | some e => e s
      | none => .next s
/-- The banks of the rows that what leads from s to t activates. -/
def State.activated (s t : State) : List Nat :=
  (t.acts.filter (fun e => decide (Tbl.get 0 s.acts e.1 < e.2))).map (fun e => e.1 / 2 ^ 32)
/-- Rows that have reached the ceiling of 8,192 in s, or that t would bring beyond it (R343). -/
def State.ceilingRows (s t : State) : Tbl Nat :=
  s.acts.filter (fun e => decide (8192 ≤ e.2)) ++ t.acts.filter (fun e => decide (8192 < e.2))
/-- Whether what leads from s to t would activate a row of a bank that accepts no activation: one of its rows is at the ceiling
or would pass it, or the neighbours of one are being refreshed after an alert (R343, R344). -/
def State.dramWaits (s t : State) : Bool :=
  (s.activated t).any (fun b => s.alerts.any (fun a => a.bank == b) || (s.ceilingRows t).any (fun e => e.1 / 2 ^ 32 == b))
/-- The refresh that what leads to t waits for: the first under way ends; else that of the row at its ceiling begins. -/
def State.refreshFor (s t : State) : Host.Outcome State Fault Refusal :=
  match s.alerts with
  | a :: _ => execAlertRefreshDone a.bank a.row s
  | [] => match (s.ceilingRows t).find? (fun e => (s.activated t).contains (e.1 / 2 ^ 32)) with
    | some e => .next (s.raiseAlert (e.1 / 2 ^ 32) (e.1 % 2 ^ 32))
    | none => .next s
/-- What needs an activation that its bank does not accept waits: the step makes the refresh, and nothing else. -/
def State.orWaits (s : State) (o : Host.Outcome State Fault Refusal) : Host.Outcome State Fault Refusal :=
  match o with
  | .next t => if s.dramWaits t then s.refreshFor t else .next t
  | o => o
/-- Requests and operations under way to a device, a push or pop to its queue's home there (R405). -/
def State.underWay (s : State) (dev : Nat) : Bool :=
  let goes := fun (pa : Nat) => regionOf pa == 1 && pa / 2 ^ 39 % 64 == dev
  let range := fun (part core : Nat) (x : DWord × Nat) => (s.reachOf part core x).any (fun e => goes e.1)
  s.reqs.any (fun e => !e.2.served && (if e.2.kind == .push || e.2.kind == .pop then range (s.partOfRef e.2.thread) e.2.core e.2.queueRange
    else (!e.2.near && goes e.2.addr) || e.2.taps.any (fun t => !t.near && goes t.addr)))
    || s.ops.any (fun e => e.2.globals.any (range e.2.part e.2.core))
/-- Firmware removes the routes through links that are down, once nothing is under way to their destination (R405, R406). -/
def State.pruneRoutes (s : State) : State :=
  { s with routes := s.routes.map (fun e => if e.2.all (fun r => r.all s.linkUp) || s.underWay e.1 then e
      else (e.1, e.2.filter (fun r => r.all s.linkUp))) }
/-- The traps that a step raised are taken in it (R268), and firmware looks at the routes. -/
def settled (o : Host.Outcome State Fault Refusal) : Host.Outcome State Fault Refusal :=
  match o with
  | .next s => .next s.settleTraps.pruneRoutes
  | o => o
/-- A step with no issue group: an event, and the traps it raised. -/
def State.runEvent (s : State) : Host.Outcome State Fault Refusal := s.orWaits (settled s.nextOutcome)
/-- The word of the issue group is fetched and executed; a device that stops leaves it (R379). -/
def State.runIssue (s : State) (g : IssueGroup) : Host.Outcome State Fault Refusal :=
  if s.stopped then .next { s with issue := none }
  else s.orWaits (match s.fetchGroup g with
    | .ok (i, t) => exec i t
    | .error t => .next t)

/-! Placing an instruction where it is fetched -/

/-- The virtual and the physical address of the word that `withFetchWord` places: a page of 2 MiB. -/
def placeVa : Pc := 0x200000
/-- The launch and the workgroup that execute it: eight columns, one row, all 128 registers (log entry 12). -/
def placeLaunch : Launch :=
  { part := 0, queue := 0, test := false, mask := 0, irq := false, args := 0, record := 0, entry := placeVa, width := 8,
    depth := 1, nregs := 128, acc := 0, near := 0, calls := 8, progress := 0, det := 0, tagMask := 0xFFFFFFFFFFFFFFFF,
    groups := 1, groups0 := 1, gmax := 1, lc := 0, seed := 0, genid := 0, tframe := 0, tvec := 0, digestAt := 0,
    splatAt := 0, splatCap := 0, saveAt := 0, saveSz := 0, dq := [], teams := [], cores := [0], next := 1, retired := [],
    done := 0, failed := 0, cycles := 0, hold := false, aborted := false, saved := [], digests := [], splats := [],
    reexec := false, serial := false, preBusy := false, passed := 0, broke := 0, tested := 0 }
/-- Its workgroup, on core 0, quarter 0. -/
def placeWorkgroup : Workgroup :=
  { launch := 1, log := 0, width := 8, depth := 1, nregs := 128, calls := 8, near := 0, tiles := 0, core := 0, quarter := 0,
    lane := 0, slot := 0, base := 0, gen := 1, epoch := 0, s := [], teams := List.replicate 4 0, mflags := 0, acc := [], fields := [],
    phases := 0, pushes := [], digest := 0, preempt := none, ran := 0, placed := 0, colls := [], images := [], faulted := false }
/-- One thread of it, at the word. -/
def placeThread : Thread := Thread.start { wg := 0, tid := 0 } placeVa 0
/-- The state with the words of a 128-byte line at the placed page and the thread's issue group formed. -/
def State.placed (s : State) (line : List Byte) : State :=
  { s with
    threads := Tbl.insert s.threads (refKey placeThread.ref) placeThread
    wgs := Tbl.insert s.wgs 0 placeWorkgroup
    launches := Tbl.insert s.launches 1 placeLaunch
    online := s.online ||| 1
    mem := Memory.writeN s.mem 0x200000 line
    icache := Tbl.insert s.icache (0x200000 / 128) line
    parts := Tbl.insert s.parts 0 { Partition.reset with
      xltRoot := 1
      clusters := 1
      frames := [(1, 1)] }
    cores := Tbl.insert s.cores 0 { s.core 0 with tlb := [{ page := 512, leaf := 0x20001F, size := 512 }] }
    mgmt := { s.mgmt with bootState := 2 }
    issue := some { unit := .quarter 0 0, pc := placeVa, members := [placeThread.ref] } }

end Sys2Proof.Machine
end

