-- ==== Sys2Proof/Machine/Step.lean ====
section
/-! DEFINITION. One step of the device: the word of an issue group that has been formed, or the next event. -/
namespace Sys2Proof.Machine

def step (s : State) : Host.Outcome State Fault Refusal :=
  match s.issue with
  | some g => s.runIssue g
  | none => s.runEvent

/-- The state in which the next step fetches and executes the instruction word w (log entry 12). -/
def State.withFetchWord (s : State) (nbits w : Nat) : State :=
  s.placed (leBytes 4 (w % 2 ^ (min nbits 32)) ++ List.replicate 124 0)

end Sys2Proof.Machine
end

