-- ==== Sys2Proof/Safety.lean ====
section
/-! DEFINITION. What claims about steps are stated in: the invariant of every step, the issue group whose threads
execute a word, the states that differ in some threads only, and the device that has stopped. -/
namespace Sys2Proof.Machine

/-- Device, peer and host memory and the near slices are in canonical form. -/
def State.Canonical (s : State) : Prop := Memory.wf s.mem = true ∧ Memory.wf s.near = true
/-- Every resident thread is filed once, under its own reference. -/
def State.Keyed (s : State) : Prop := Tbl.risingFrom 0 s.threads = true ∧ ∀ e ∈ s.threads, e.1 = refKey e.2.ref
/-- The invariant of every step: memory canonical, each thread filed once under its reference, no trap left pending. -/
structure State.Inv (s : State) : Prop where
  canonical : s.Canonical
  keyed     : s.Keyed
  settled   : s.traps = []

/-- A step that neither faults nor refuses. -/
def State.Safe (s : State) : Prop := ∃ t, step s = .next t
/-- The device has power and has stopped for a fatal error (R379). -/
def State.FatalStopped (s : State) : Prop := s.mgmt.power = true ∧ s.mgmt.fatal = true

/-- A state that differs in its cores, and in the free values used, alone: what looking a translation up may change (R324). -/
def State.CoresOnly (s n : State) : Prop := n = { s with cores := n.cores, free := n.free }
/-- A core has looked the address va up: nothing has changed where its L1 TLB holds the page (R324). -/
structure State.Looks (s m : State) (core va : Nat) : Prop where
  only : s.CoresOnly m
  held : (s.tlb1 core (va / 4096)).isSome = true → m = s

/-- The issue is over and nothing else is changed. -/
def State.over (s : State) : State := { s with issue := none }
/-- A quarter of a core executes one word in the resident threads ts, which are distinct (R151). -/
structure State.Issues (s : State) (ts : List Thread) : Prop where
  group    : ∃ core quarter pc, s.issue = some { unit := .quarter core quarter, pc := pc, members := ts.map (·.ref) }
  resident : ∀ t ∈ ts, s.thread t.ref = some t
  distinct : (ts.map (fun t => refKey t.ref)).Nodup
  settled  : s.traps = []
/-- Thread t of workgroup w executes the word i: no check of R105 fails, no PRED hint suppresses it (R101), and it waits
for nothing (R149). -/
structure State.Runs (s : State) (i : Instr) (t : Thread) (w : Workgroup) : Prop where
  workgroup : s.wgOf t.ref = some w
  checked   : s.checkDetail t w i = none
  applies   : t.suppressed = false
  free      : s.blocked t w i = false

/-- The threads ts, all of one workgroup w, execute the word i, and t is the elected one: that with the lowest index
(R98, R151). -/
structure State.Elects (s : State) (i : Instr) (ts : List Thread) (t : Thread) (w : Workgroup) : Prop where
  issues  : s.Issues ts
  elected : t ∈ ts
  runs    : ∀ u ∈ ts, s.Runs i u w
  one     : ∀ u ∈ ts, u.ref.wg = t.ref.wg
  lowest  : ∀ u ∈ ts, u ≠ t → t.ref.tid < u.ref.tid

/-- The state n is s with the issue over, in which the threads ts have become `f t`, and nothing else has changed. -/
structure State.ThreadsBecome (s n : State) (ts : List Thread) (f : Thread → Thread) : Prop where
  changed : ∀ t ∈ ts, n.thread t.ref = some (f t)
  others  : ∀ r, (∀ t ∈ ts, refKey t.ref ≠ refKey r) → n.thread r = s.thread r
  rest    : n = { s with threads := n.threads, issue := none }

end Sys2Proof.Machine
end

