-- ==== Sys2Proof/Certificates/Slice0/Obligations.lean ====
section
/-! DEFINITION. The statements for the provers, with the tables that they are stated in. Each names the rules of spec/ that it
formalises. -/
open Sys2Proof Sys2Proof.Machine

/-! ## Encoding, steps, reset -/

namespace Sys2Proof.Claims

/-- A few words written out from the layouts of R89 and the tables of R91 to R99: major, then the layout's fields. -/
def sampleWords : List (Word × Instr) :=
  [(0b000001_0000011_0000001_0000010_00000#32, .add 3 1 2),
   (0b000001_0000100_0000010_0000110_11001#32, .add64 4 2 6),
   (0b011111_0000101_1000010_0000111_00000#32, .uadd 5 66 7),
   (0b000010_0000001_0000010_111111111111#32, .addi 1 2 0xFFF),
   (0b000111_0000001_1000000000000000001#32, .lui 1 0x40001),
   (0b001100_0000011_0000001_0000010_00011#32, .ffma 3 1 2),
   (0b010000_011_1_00_00000000000000001000#32, .bra 3 true .plain 8),
   (0b010100_0000100_0000010_00011_101_0010#32, .ld 4 2 3 .d 2),
   (0b011001_0000001_0000010_0000011_00000#32, .atom 1 2 3 .global .add),
   (0b100000_0010_000011_00100_0000110_0000#32, .cpy 2 3 4 6 .gn .b4),
   (0b111111_0000_0000000000000000000001#32, .imm 1)]

end Sys2Proof.Claims

/-- R87 to R108: the word of a well-formed instruction decodes to that instruction, with every operand. -/
def Obligations.DecodeEncode : Prop :=
  ∀ i : Instr, i.wellFormed = true → ∃ w, encode i = some w ∧ decode w = .ok i

/-- R87 to R108: a word that decodes is the one word of the well-formed instruction it decodes to, so that no bit of it
is ignored. -/
def Obligations.EncodeDecode : Prop :=
  ∀ (w : Word) (i : Instr), decode w = .ok i → i.wellFormed = true ∧ encode i = some w

/-- R89, R91 to R99: words written out bit by bit decode to the instructions they stand for. -/
def Obligations.DecodeWords : Prop := ∀ e ∈ Claims.sampleWords, decode e.1 = .ok e.2
/-- R87, R151, R311: a step with an issue group formed executes, in that group, the instruction that the word at its PC
decodes to: the word is the four little-endian bytes that the cluster's instruction cache holds at the translated address.
The look-up comes first, and changes the TLBs alone, nothing where the core's L1 TLB holds the page (R324). A step that needs
an activation its DRAM bank does not accept makes the refresh instead (R343, log entry 40). -/
def Obligations.StepRunsDecoded : Prop :=
  ∀ (s : State) (g : IssueGroup) (part core : Nat) (pc : Pc) (x : Xlate) (line : List Byte) (i : Instr),
    s.issue = some g → s.stopped = false → s.groupPlace g = some (part, core, pc) →
    s.tlbLook part core pc.toNat = some x → x.x = true → x.poison = false → s.linkLost x.pa = false → peerRefuses x.pa = false →
    Tbl.find s.icache (icacheKey (clusterOf core) (x.pa / 128)) = some line →
    decode (BitVec.ofNat 32 (bytesAt line (x.pa % 128) 4)) = .ok i →
    ∃ m, s.Looks m core pc.toNat ∧ step s = s.orWaits (exec i m)
      ∧ ∀ t, exec i m = .next t → s.dramWaits t = false → step s = .next t

/-- R105, R268: a fetched word that decodes to nothing is executed by no thread: a lone thread takes the illegal-instruction trap, with the
detail that the decoder gives, and its registers are as before the trap. A step that needs an activation its DRAM bank does not accept makes
the refresh instead: the wavefront waits, and is selected again (the model's choice, log entry 40). -/
def Obligations.UndecodableWordTraps : Prop :=
  ∀ (s : State) (t : Thread) (part core : Nat) (pc : Pc) (x : Xlate) (line : List Byte) (e : DecodeError) (g : IssueGroup),
    s.Issues [t] → s.issue = some g → s.stopped = false → s.groupPlace g = some (part, core, pc) →
    s.tlbLook part core pc.toNat = some x → x.x = true → x.poison = false → s.linkLost x.pa = false → peerRefuses x.pa = false →
    Tbl.find s.icache (icacheKey (clusterOf core) (x.pa / 128)) = some line →
    decode (BitVec.ofNat 32 (bytesAt line (x.pa % 128) 4)) = .error e →
    (∃ w, s.wgOf t.ref = some w) →
    ∃ m, s.Looks m core pc.toNat
      ∧ step s = s.orWaits (.next ({ m.trapWord t clIllegal e.detail with issue := none }).settleTraps)

/-- The model's choice (log entry 11): a step with no issue group makes the event at the head of the environment's agenda,
if the device may still make it, and takes the traps it raised; an event that needs an activation its DRAM bank does not
accept waits (log entry 40). -/
def Obligations.StepRunsAgenda : Prop :=
  ∀ (s : State) (i : Instr) (rest : List Instr), s.issue = none → s.agenda = i :: rest → i.isEvent = true →
    ({ s with agenda := rest } : State).allows i = true →
    step s = s.orWaits (settled (exec i { s with agenda := rest }))

/-- The state right after reset satisfies the invariant. -/
def Obligations.ResetInvariant : Prop := State.reset.Inv

/-- R7, R372, R392, R403, R410: what reset leaves in the registers to which the spec gives a value. -/
def Obligations.ResetValues : Prop :=
  State.reset.mgmt.bootState = 0 ∧ State.reset.mgmt.irqMask = 0x3F ∧ State.reset.mgmt.irqStatus = 0
  ∧ State.reset.mgmt.mboxBusy = false ∧ State.reset.mgmt.fatal = false
  ∧ (∀ p, (State.reset.part p).irqMask = 0x3F ∧ (State.reset.part p).irqStatus = 0 ∧ (State.reset.part p).xltRoot = 0
      ∧ (State.reset.part p).fqEn = false
      ∧ fieldOf (State.reset.part p).cap 3 0 = 8 ∧ fieldOf (State.reset.part p).cap 13 4 = 512
      ∧ fieldOf (State.reset.part p).cap 23 14 = 381 ∧ fieldOf (State.reset.part p).cap 28 24 = 16
      ∧ fieldOf (State.reset.part p).cap 37 29 = 256)
  ∧ (∀ q, (State.reset.queue q).en = false ∧ (State.reset.queue q).err = false ∧ (State.reset.queue q).log2 = 4
      ∧ (State.reset.queue q).rd = 0 ∧ (State.reset.queue q).wr = 0)
  ∧ (∀ c i, i < 64 → ((State.reset.core c).tag i).bit = true) ∧ (∀ c i, ((State.reset.core c).slot i).owner = none)
  ∧ State.reset.wgs = [] ∧ State.reset.threads = [] ∧ State.reset.launches = []

/-- Every step keeps the invariant: memory stays in canonical form, every thread stays filed once, under its own reference, and
no trap is left pending. -/
def Obligations.StepKeepsInvariant : Prop := ∀ s t : State, s.Inv → step s = .next t → t.Inv

/-- R379: after a fatal stop no step executes an instruction, starts a workgroup or changes a thread, a core, near memory or
the work in flight, and of memory a step changes only the inventory region, until PCIe reset or the loss of power. -/
def Obligations.FatalStopHolds : Prop :=
  ∀ s t : State, s.Inv → s.FatalStopped → step s = .next t →
    (t.threads = s.threads ∧ t.wgs = s.wgs ∧ t.launches = s.launches ∧ t.cores = s.cores ∧ t.near = s.near
      ∧ t.ops = s.ops ∧ t.reqs = s.reqs ∧ t.streams = s.streams ∧ t.FatalStopped
      ∧ ∀ a, (a < s.mgmt.fatalRegion.toNat ∨ s.mgmt.fatalRegion.toNat + 2 ^ 26 ≤ a) → Memory.read t.mem a = Memory.read s.mem a)
    ∨ ∃ rest, s.agenda = .pcieReset :: rest ∨ s.agenda = .powerDown :: rest

/-! ## Words that change registers of their own thread -/

namespace Sys2Proof.Claims

/-- Results of R132 on the patterns a and b as unsigned numbers A, B or signed numbers: the sum, product or quotient is
formed exactly and wraps. -/
def wrap (i : Int) : Word := BitVec.ofInt 32 i
/-- 2^31 - 1 and -2^31 (R132: ADDS and SUBS clamp). -/
def clampSpec (i : Int) : Word := if i < -2147483648 then 0x80000000 else if 2147483647 < i then 0x7FFFFFFF else wrap i
/-- a shifted or rotated by the count b mod 32 (R132). -/
def shlSpec (a b : Word) : Word := BitVec.ofNat 32 (a.toNat * 2 ^ (b.toNat % 32))
def shrSpec (a b : Word) : Word := BitVec.ofNat 32 (a.toNat / 2 ^ (b.toNat % 32))
def sarSpec (a b : Word) : Word := wrap (a.toInt / 2 ^ (b.toNat % 32))
def rolSpec (a b : Word) : Word := BitVec.ofNat 32 (a.toNat * 2 ^ (b.toNat % 32) + a.toNat / 2 ^ (32 - b.toNat % 32))
/-- Truncated division with the results R132 gives for a divisor of 0. -/
def divSpec (a b : Word) : Word := if b = 0 then 0xFFFFFFFF else wrap (a.toInt.tdiv b.toInt)
def remSpec (a b : Word) : Word := if b = 0 then a else wrap (a.toInt - b.toInt * a.toInt.tdiv b.toInt)
def divuSpec (a b : Word) : Word := if b = 0 then 0xFFFFFFFF else BitVec.ofNat 32 (a.toNat / b.toNat)
def remuSpec (a b : Word) : Word := if b = 0 then a else BitVec.ofNat 32 (a.toNat - b.toNat * (a.toNat / b.toNat))

/-- R132: the three-register operations on 32-bit patterns, each with its destination, sources and function; the uniform forms
of R133 have the same functions. -/
def alu2 (i : Instr) : Option (VReg × VReg × VReg × (Word → Word → Word)) :=
  match i with
  | .add d a b => some (d, a, b, fun a b => wrap (a.toInt + b.toInt))
  | .sub d a b => some (d, a, b, fun a b => wrap (a.toInt - b.toInt))
  | .mul d a b => some (d, a, b, fun a b => wrap (a.toInt * b.toInt))
  | .mulh d a b => some (d, a, b, fun a b => wrap (a.toInt * b.toInt / 4294967296))
  | .mulhu d a b => some (d, a, b, fun a b => BitVec.ofNat 32 (a.toNat * b.toNat / 4294967296))
  | .and d a b => some (d, a, b, (· &&& ·))
  | .or d a b => some (d, a, b, (· ||| ·))
  | .xor d a b => some (d, a, b, (· ^^^ ·))
  | .shl d a b => some (d, a, b, shlSpec)
  | .shr d a b => some (d, a, b, shrSpec)
  | .sar d a b => some (d, a, b, sarSpec)
  | .rol d a b => some (d, a, b, rolSpec)
  | .min d a b => some (d, a, b, fun a b => wrap (min a.toInt b.toInt))
  | .max d a b => some (d, a, b, fun a b => wrap (max a.toInt b.toInt))
  | .minu d a b => some (d, a, b, fun a b => BitVec.ofNat 32 (min a.toNat b.toNat))
  | .maxu d a b => some (d, a, b, fun a b => BitVec.ofNat 32 (max a.toNat b.toNat))
  | .div d a b => some (d, a, b, divSpec)
  | .divu d a b => some (d, a, b, divuSpec)
  | .rem d a b => some (d, a, b, remSpec)
  | .remu d a b => some (d, a, b, remuSpec)
  | .adds d a b => some (d, a, b, fun a b => clampSpec (a.toInt + b.toInt))
  | .subs d a b => some (d, a, b, fun a b => clampSpec (a.toInt - b.toInt))
  | _ => none
/-- The thread after a register-only integer word (R132, R134, R135, R137), before it goes on. `t.fullImm imm x` is the value of
R100 after an IMM hint and x without one; the functions opPopc, opClz and opBrev are the subject of BitCounts. -/
def integerEffect (i : Instr) (t : Thread) : Option Thread :=
  match i with
  | .popc d a => some (t.setV d.toNat (opPopc (t.getV a.toNat)))
  | .clz d a => some (t.setV d.toNat (opClz (t.getV a.toNat)))
  | .brev d a => some (t.setV d.toNat (opBrev (t.getV a.toNat)))
  | .add64 d a b => some (t.setPair d.toNat (t.getPair a.toNat + t.getPair b.toNat))
  | .sub64 d a b => some (t.setPair d.toNat (t.getPair a.toNat - t.getPair b.toNat))
  | .addi d a imm => some (t.setV d.toNat (t.getV a.toNat + t.fullImm imm (imm.signExtend 32)))
  | .andi d a imm => some (t.setV d.toNat (t.getV a.toNat &&& t.fullImm imm (imm.zeroExtend 32)))
  | .ori d a imm => some (t.setV d.toNat (t.getV a.toNat ||| t.fullImm imm (imm.zeroExtend 32)))
  | .xori d a imm => some (t.setV d.toNat (t.getV a.toNat ^^^ t.fullImm imm (imm.zeroExtend 32)))
  | .shli d a c => some (t.setV d.toNat (shlSpec (t.getV a.toNat) (c.zeroExtend 32)))
  | .shri d a c => some (t.setV d.toNat (shrSpec (t.getV a.toNat) (c.zeroExtend 32)))
  | .sari d a c => some (t.setV d.toNat (sarSpec (t.getV a.toNat) (c.zeroExtend 32)))
  | .roli d a c => some (t.setV d.toNat (rolSpec (t.getV a.toNat) (c.zeroExtend 32)))
  | .lui d imm => some (t.setV d.toNat (match t.immHint with
      | some h => BitVec.ofNat 32 (h.toNat * 4096 + imm.toNat % 4096)
      | none => BitVec.ofNat 32 (imm.toNat * 8192)))
  | .bfx d a sign l p => some (t.setV d.toNat (
      let f := (t.getV a.toNat).toNat / 2 ^ p.toNat % 2 ^ (l.toNat + 1)
      wrap (if sign ∧ 2 ^ l.toNat ≤ f then (f : Int) - 2 ^ (l.toNat + 1) else f)))
  | .bfi d a l p => some (t.setV d.toNat (BitVec.ofFnLE (fun (k : Fin 32) =>
      if p.toNat ≤ k ∧ k ≤ p.toNat + l.toNat then (t.getV a.toNat).getLsbD (k - p.toNat) else (t.getV d.toNat).getLsbD k)))
  | .sel d a b wide inv p =>
    let src := if (p = 0 ∨ t.p.getLsbD p.toNat = true) ↔ inv = false then a else b
    some (if wide then t.setPair d.toNat (t.getPair src.toNat) else t.setV d.toNat (t.getV src.toNat))
  | i => (alu2 i).map (fun e => t.setV e.1.toNat (e.2.2.2 (t.getV e.2.1.toNat) (t.getV e.2.2.1.toNat)))

/-- The uniform form of each operation of R132 (R133), with its destination and sources. -/
def uniform2 (i : Instr) : Option (UReg × UReg × UReg × (VReg → VReg → VReg → Instr)) :=
  match i with
  | .uadd d a b => some (d, a, b, .add)
  | .usub d a b => some (d, a, b, .sub)
  | .umul d a b => some (d, a, b, .mul)
  | .umulh d a b => some (d, a, b, .mulh)
  | .umulhu d a b => some (d, a, b, .mulhu)
  | .uand d a b => some (d, a, b, .and)
  | .uor d a b => some (d, a, b, .or)
  | .uxor d a b => some (d, a, b, .xor)
  | .ushl d a b => some (d, a, b, .shl)
  | .ushr d a b => some (d, a, b, .shr)
  | .usar d a b => some (d, a, b, .sar)
  | .urol d a b => some (d, a, b, .rol)
  | .umin d a b => some (d, a, b, .min)
  | .umax d a b => some (d, a, b, .max)
  | .uminu d a b => some (d, a, b, .minu)
  | .umaxu d a b => some (d, a, b, .maxu)
  | .udiv d a b => some (d, a, b, .div)
  | .udivu d a b => some (d, a, b, .divu)
  | .urem d a b => some (d, a, b, .rem)
  | .uremu d a b => some (d, a, b, .remu)
  | .uadds d a b => some (d, a, b, .adds)
  | .usubs d a b => some (d, a, b, .subs)
  | _ => none
/-- A source of a uniform operation (R93): s0 to s63, or v(n - 64) of the first executing thread. -/
def uniformSource (t : Thread) (w : Workgroup) (r : UReg) : Word :=
  if r.toNat < 64 then w.getS r.toNat else t.getV (r.toNat - 64)
def uniformPair (t : Thread) (w : Workgroup) (r : UReg) : DWord :=
  if r.toNat < 64 then w.getS (r.toNat + 1) ++ w.getS r.toNat else t.getPair (r.toNat - 64)
/-- The 32-bit result of a uniform word, with its destination. -/
def uniformResult (i : Instr) (t : Thread) (w : Workgroup) : Option (UReg × Word) :=
  match i with
  | .upopc d a => some (d, opPopc (uniformSource t w a))
  | .uclz d a => some (d, opClz (uniformSource t w a))
  | .ubrev d a => some (d, opBrev (uniformSource t w a))
  | i => match uniform2 i with
    | some (d, a, b, same) => (alu2 (same 0 0 0)).map (fun e => (d, e.2.2.2 (uniformSource t w a) (uniformSource t w b)))
    | none => none
/-- The 64-bit result. -/
def uniformResult64 (i : Instr) (t : Thread) (w : Workgroup) : Option (UReg × DWord) :=
  match i with
  | .uadd64 d a b => some (d, uniformPair t w a + uniformPair t w b)
  | .usub64 d a b => some (d, uniformPair t w a - uniformPair t w b)
  | _ => none

/-- The value that a compare or predicate word gives its predicate (R136, R138). -/
def predicateResult (i : Instr) (t : Thread) : Option (PReg × Bool) :=
  let v := fun (r : VReg) => t.getV r.toNat
  let d := fun (r : VReg) => t.getPair r.toNat
  let join := fun (p : PReg) (m : Combine) (c : Bool) => (p, match m with
    | .set => c
    | .and => t.getP p && c
    | .or => t.getP p || c)
  match i with
  | .icmp p c a b wide m =>
    let x : Int × Int := if wide then ((d a).toInt, (d b).toInt) else ((v a).toInt, (v b).toInt)
    let u : Nat × Nat := if wide then ((d a).toNat, (d b).toNat) else ((v a).toNat, (v b).toNat)
    some (join p m (match c with
      | .eq => decide (u.1 = u.2)
      | .ne => decide (u.1 ≠ u.2)
      | .lt => decide (x.1 < x.2)
      | .le => decide (x.1 ≤ x.2)
      | .gt => decide (x.1 > x.2)
      | .ge => decide (x.1 ≥ x.2)
      | .ltu => decide (u.1 < u.2)
      | .leu => decide (u.1 ≤ u.2)
      | .gtu => decide (u.1 > u.2)
      | .geu => decide (u.1 ≥ u.2)))
  | .fcmp p c a b f m => some (join p m (fcond c ((fcmpVal f (v a)).cmp (fcmpVal f (v b)))))
  | .pand p a b => some (p, t.getP a && t.getP b)
  | .por p a b => some (p, t.getP a || t.getP b)
  | .pxor p a b => some (p, t.getP a ^^ t.getP b)
  | .pandn p a b => some (p, t.getP a && !t.getP b)
  | .pnot p a => some (p, !t.getP a)
  | .pmov p a => some (p, t.getP a)
  | .pset p => some (p, true)
  | .pclr p => some (p, false)
  | _ => none

/-- The value that a scalar float word computes before it is rounded, with the exceptions of the operation itself
(R139, R140); `x`, `y` and `z` are the FP32 values of va, vb and vd. -/
def floatResult (i : Instr) (t : Thread) : Option (VReg × Val × Flags) :=
  let x := fun (r : VReg) => ofFp32 (t.getV r.toNat)
  match i with
  | .fadd d a b => some (d, fAdd t.rounding (x a) (x b))
  | .fsub d a b => some (d, fAdd t.rounding (x a) (x b).neg)
  | .fmul d a b => some (d, fMul (x a) (x b))
  | .ffma d a b => some (d, fFma t.rounding (x a) (x b) (x d))
  | .fdiv d a b => some (d, fDiv (x a) (x b))
  | .fsqrt d a => some (d, fSqrt (x a))
  | .frcp d a => some (d, fRcp (x a))
  | .frsq d a => some (d, fRsq (x a))
  | .fexp2 d a => some (d, fExp2 (x a))
  | .flog2 d a => some (d, fLog2 (x a))
  | .fsin d a => some (d, fSin (x a))
  | .fcos d a => some (d, fCos (x a))
  | .ftanh d a => some (d, fTanh (x a))
  | .fsigm d a => some (d, fSigm (x a))
  | _ => none
/-- The exact results that raise no flag (R139). -/
def quietResult (i : Instr) (t : Thread) : Option (VReg × Val) :=
  let x := fun (r : VReg) => ofFp32 (t.getV r.toNat)
  match i with
  | .fmin d a b => some (d, fMin (x a) (x b))
  | .fmax d a b => some (d, fMax (x a) (x b))
  | .fabs d a => some (d, (x a).withSign false)
  | .fneg d a => some (d, (x a).neg)
  | .fsgnj d a b => some (d, (x a).withSign ((t.getV b.toNat).getLsbD 31))
  | _ => none
/-- The packed words (R142): the destination, the 16-bit format (2 FP16, 3 BF16) and the result of each element k. -/
def packedResult (i : Instr) (t : Thread) : Option (VReg × Fmt × (Nat → Val × Flags)) :=
  let x := fun (f : Fmt) (r : VReg) (k : Nat) => (decodeFmt f ((t.getV r.toNat).toNat / 2 ^ (16 * k) % 2 ^ 16)).1
  match i with
  | .pkadd d a b => some (d, 2, fun k => fAdd t.rounding (x 2 a k) (x 2 b k))
  | .pksub d a b => some (d, 2, fun k => fAdd t.rounding (x 2 a k) (x 2 b k).neg)
  | .pkmul d a b => some (d, 2, fun k => fMul (x 2 a k) (x 2 b k))
  | .pkfma d a b => some (d, 2, fun k => fFma t.rounding (x 2 a k) (x 2 b k) (x 2 d k))
  | .pkmin d a b => some (d, 2, fun k => (fMin (x 2 a k) (x 2 b k), 0))
  | .pkmax d a b => some (d, 2, fun k => (fMax (x 2 a k) (x 2 b k), 0))
  | .pkaddBf16 d a b => some (d, 3, fun k => fAdd t.rounding (x 3 a k) (x 3 b k))
  | .pksubBf16 d a b => some (d, 3, fun k => fAdd t.rounding (x 3 a k) (x 3 b k).neg)
  | .pkmulBf16 d a b => some (d, 3, fun k => fMul (x 3 a k) (x 3 b k))
  | .pkfmaBf16 d a b => some (d, 3, fun k => fFma t.rounding (x 3 a k) (x 3 b k) (x 3 d k))
  | .pkminBf16 d a b => some (d, 3, fun k => (fMin (x 3 a k) (x 3 b k), 0))
  | .pkmaxBf16 d a b => some (d, 3, fun k => (fMax (x 3 a k) (x 3 b k), 0))
  | _ => none
/-- Signed or unsigned byte k of a register. -/
def byteOf (w : Word) (signed : Bool) (k : Nat) : Int :=
  let b := w.toNat / 2 ^ (8 * k) % 256
  if signed ∧ 128 ≤ b then (b : Int) - 256 else b
/-- The integer dot products (R144). -/
def idotResult (i : Instr) (t : Thread) : Option (VReg × Word) :=
  let dot := fun (d a b : VReg) (sa sb : Bool) => (d, wrap ((t.getV d.toNat).toNat
    + (byteOf (t.getV a.toNat) sa 0 * byteOf (t.getV b.toNat) sb 0 + byteOf (t.getV a.toNat) sa 1 * byteOf (t.getV b.toNat) sb 1
      + byteOf (t.getV a.toNat) sa 2 * byteOf (t.getV b.toNat) sb 2 + byteOf (t.getV a.toNat) sa 3 * byteOf (t.getV b.toNat) sb 3)))
  match i with
  | .idp4Ss d a b => some (dot d a b true true)
  | .idp4Su d a b => some (dot d a b true false)
  | .idp4Us d a b => some (dot d a b false true)
  | .idp4Uu d a b => some (dot d a b false false)
  | _ => none
/-- The FP8 dot products (R143): the destination and the format (4 E5M2, 5 E4M3). -/
def fdotFormat (i : Instr) : Option (VReg × VReg × VReg × Fmt) :=
  match i with
  | .fdot4E4m3 d a b => some (d, a, b, 5)
  | .fdot4E5m2 d a b => some (d, a, b, 4)
  | _ => none

end Sys2Proof.Claims

/-- R132, R134, R135, R137: each integer word of the thread class gives every executing thread its result in its destination, and
nothing else of the device changes; the threads go on at the next word. -/
def Sys2Proof.Claims.IntegerResults : Prop :=
  ∀ (s : State) (ts : List Thread) (i : Instr) (f : Thread → Thread), s.Issues ts → (∀ t ∈ ts, ∃ w, s.Runs i t w) →
    (∀ t, Claims.integerEffect i t = some (f t)) → ∃ n, exec i s = .next n ∧ s.ThreadsBecome n ts (fun t => (f t).advance)

/-- R132: what POPC, CLZ and BREV count and reverse. -/
def Sys2Proof.Claims.BitCounts : Prop :=
  ∀ a : Word, (opPopc a).toNat = (Finset.univ.filter (fun k : Fin 32 => a.getLsbD k = true)).card
    ∧ ((opClz a).toNat ≤ 32 ∧ (∀ k, 32 - (opClz a).toNat ≤ k → k < 32 → a.getLsbD k = false)
      ∧ ((opClz a).toNat < 32 → a.getLsbD (31 - (opClz a).toNat) = true))
    ∧ ∀ k, k < 32 → (opBrev a).getLsbD k = a.getLsbD (31 - k)

/-- The integer words and the bit counts. -/
def Obligations.IntegerWords : Prop := Claims.IntegerResults ∧ Claims.BitCounts

/-- R93, R98, R133: a uniform word reads its operands once, in the first executing thread of the workgroup; a result in an s
register is written once, a result in a v register into every executing thread; the threads go on, and nothing else changes. -/
def Sys2Proof.Claims.UniformResults : Prop :=
  ∀ (s : State) (ts : List Thread) (t : Thread) (w : Workgroup) (i : Instr) (d : UReg), s.Elects i ts t w →
    (∀ x, Claims.uniformResult i t w = some (d, x) → ∃ n, exec i s = .next n ∧
      if d.toNat < 64 then
        n.wg t.ref.wg = some (w.setS d.toNat x) ∧ (∀ g, g ≠ t.ref.wg → n.wg g = s.wg g)
        ∧ ({ s with wgs := n.wgs } : State).ThreadsBecome n ts Thread.advance
      else s.ThreadsBecome n ts (fun u => (u.setV (d.toNat - 64) x).advance))
    ∧ (∀ x, Claims.uniformResult64 i t w = some (d, x) → ∃ n, exec i s = .next n ∧
      if d.toNat < 64 then
        n.wg t.ref.wg = some ((w.setS d.toNat (fieldOf x 31 0)).setS (d.toNat + 1) (fieldOf x 63 32))
        ∧ (∀ g, g ≠ t.ref.wg → n.wg g = s.wg g) ∧ ({ s with wgs := n.wgs } : State).ThreadsBecome n ts Thread.advance
      else s.ThreadsBecome n ts (fun u => (u.setPair (d.toNat - 64) x).advance))

/-- R14, R136, R138: a compare or predicate word writes its predicate; a write to p0 is discarded, and p0 reads true. -/
def Sys2Proof.Claims.PredicateResults : Prop :=
  (∀ (s : State) (ts : List Thread) (i : Instr) (f : Thread → PReg × Bool), s.Issues ts → (∀ t ∈ ts, ∃ w, s.Runs i t w) →
    (∀ t, Claims.predicateResult i t = some (f t)) →
    ∃ n, exec i s = .next n ∧ s.ThreadsBecome n ts (fun t => (t.setP (f t).1 (f t).2).advance))
  ∧ ∀ (t : Thread) (p q : PReg) (b : Bool), t.getP 0 = true ∧ t.setP 0 b = t ∧ (p ≠ 0 → (t.setP p b).getP p = b)
      ∧ (q ≠ p → (t.setP p b).getP q = t.getP q)

/-- The uniform words and the words that write predicates. -/
def Obligations.UniformAndPredicateWords : Prop := Claims.UniformResults ∧ Claims.PredicateResults

/-- R62, R139, R140: a scalar float word writes its value rounded once to FP32 under the mode of the thread, and ORs the
exceptions of the operation and of the rounding into %fpflags; FMIN, FMAX, FABS, FNEG and FSGNJ are exact and raise none. -/
def Sys2Proof.Claims.FloatWords : Prop :=
  ∀ (s : State) (ts : List Thread) (i : Instr), s.Issues ts → (∀ t ∈ ts, ∃ w, s.Runs i t w) →
    (∀ f : Thread → VReg × Val × Flags, (∀ t, Claims.floatResult i t = some (f t)) →
      ∃ n, exec i s = .next n ∧ s.ThreadsBecome n ts (fun t =>
        let r := toFp32 t.rounding (f t).2.1
        ((t.setV (f t).1.toNat r.1).orFlags ((f t).2.2 ||| r.2)).advance))
    ∧ (∀ f : Thread → VReg × Val, (∀ t, Claims.quietResult i t = some (f t)) →
      ∃ n, exec i s = .next n ∧ s.ThreadsBecome n ts (fun t => (t.setV (f t).1.toNat (toFp32 0 (f t).2).1).advance))

namespace Sys2Proof.Claims

/-- The real number that a finite value stands for. -/
def real (v : Val) : Option ℚ :=
  match v with
  | .nan => none
  | .inf _ => none
  | .fin neg m e => some ((if neg then -1 else 1) * (m : ℚ) * (2 : ℚ) ^ e)
/-- A value is for every rounding to FP32 the number that lies below t where `below t` holds and above t where `above t` does: it lies
on the same side of each t of 26 significant bits, which every FP32 number and every midpoint of two has (R139, R140). -/
def StandsFor (v : Val) (below above : ℚ → Prop) : Prop :=
  ∃ q, real v = some q ∧ ∀ k g : ℤ, |k| < 2 ^ 26 → let t : ℚ := k * 2 ^ g
    (q < t ↔ below t) ∧ (t < q ↔ above t)
/-- The layout of a float or scale format: its bits of exponent and fraction, and its bias (R45, R48). -/
def layout (f : Fmt) : Option (Nat × Nat × Nat) :=
  match f.toNat with
  | 0 => some (8, 23, 127)
  | 1 => some (8, 10, 127)
  | 2 => some (5, 10, 15)
  | 3 => some (8, 7, 127)
  | 4 => some (5, 2, 15)
  | 5 => some (4, 3, 7)
  | 6 => some (3, 4, 3)
  | 7 => some (2, 5, 1)
  | 8 => some (3, 2, 3)
  | 9 => some (2, 3, 1)
  | 10 => some (2, 1, 1)
  | 11 => some (3, 0, 3)
  | 13 => some (5, 3, 15)
  | 14 => some (4, 4, 7)
  | 15 => some (4, 3, 7)
  | _ => none
/-- The magnitude with code c in a format with m bits of fraction and bias b, exponents unbounded above (R46, R65). -/
def magnitude (m b c : Nat) : ℚ :=
  (if c < 2 ^ m then (c : ℚ) else (2 ^ m + c % 2 ^ m : ℕ)) * (2 : ℚ) ^ (((max (c / 2 ^ m) 1 : ℕ) : ℤ) - b - m)
/-- A mode takes a number of this sign toward zero (R61). -/
def TowardZero (mode : BitVec 2) (neg : Bool) : Prop := mode = 1 ∨ mode = 2 ∧ neg = false ∨ mode = 3 ∧ neg = true
/-- Code c is what a mode rounds the magnitude x of a number to, among magnitudes `cand` that rise with their code (R61). -/
def Rounds (cand : Nat → ℚ) (mode : BitVec 2) (neg : Bool) (x : ℚ) (c : Nat) : Prop :=
  (mode = 0 → ∀ k, |cand c - x| ≤ |cand k - x| ∧ (k ≠ c → |cand k - x| = |cand c - x| → c % 2 = 0))
  ∧ (TowardZero mode neg → cand c ≤ x ∧ x < cand (c + 1))
  ∧ (mode ≠ 0 → ¬ TowardZero mode neg → x ≤ cand c ∧ ∀ k, k < c → cand k < x)
/-- The magnitude x, rounded to m bits of fraction with exponents unbounded below, lies below the smallest normal 2^(1-b) (R64). -/
def Tiny (m b : Nat) (mode : BitVec 2) (neg : Bool) (x : ℚ) : Prop :=
  (mode = 0 → x < (2 - 2 ^ (-(m : ℤ) - 1)) * 2 ^ (-(b : ℤ))) ∧ (TowardZero mode neg → x < 2 ^ (1 - (b : ℤ)))
  ∧ (mode ≠ 0 → ¬ TowardZero mode neg → x ≤ (2 - 2 ^ (-(m : ℤ))) * 2 ^ (-(b : ℤ)))

end Sys2Proof.Claims

/-- R71, R139: FADD, FMUL and FFMA compute the exact sum and product of finite operands, before the one rounding, and raise nothing; an
exact zero sum of opposite signs is +0, or -0 under RDN. A NaN operand gives NaN without a flag, but for FFMA of 0 and an infinity; the
invalid operations give NaN and NV; a finite value that is not 0 divided by 0 gives an infinity and DZ. -/
def Sys2Proof.Claims.FloatExact : Prop :=
  (∀ (mode : BitVec 2) (x y z : Val) (a b c : ℚ), Claims.real x = some a → Claims.real y = some b → Claims.real z = some c →
    Claims.real (fAdd mode x y).1 = some (a + b) ∧ (fAdd mode x y).2 = 0 ∧ Claims.real (fMul x y).1 = some (a * b) ∧ (fMul x y).2 = 0
    ∧ Claims.real (fFma mode x y z).1 = some (a * b + c) ∧ (fFma mode x y z).2 = 0
    ∧ (a ≠ 0 → b = -a → (fAdd mode x y).1 = .zero (decide (mode = 2)))
    ∧ (a = 0 → b = 0 → (fAdd mode x y).1 = .zero (if x.sign = y.sign then x.sign else decide (mode = 2)))
    ∧ (a < b → fMin x y = x ∧ fMin y x = x ∧ fMax x y = y ∧ fMax y x = y)
    ∧ Claims.real x.neg = some (-a) ∧ x.neg.sign = !x.sign ∧ (∀ n, Claims.real (x.withSign n) = some (if n then -|a| else |a|)
      ∧ (x.withSign n).sign = n)
    ∧ (b ≠ 0 → (fDiv x y).2 = 0 ∧ ∃ q, Claims.real (fDiv x y).1 = some q ∧ (q = 0 ↔ a = 0))
    ∧ (a ≠ 0 → b = 0 → fDiv x y = (.inf (x.sign != y.sign), flagDZ)) ∧ (a = 0 → b = 0 → fDiv x y = (.nan, flagNV))
    ∧ (a < 0 → fSqrt x = (.nan, flagNV)) ∧ (a = 0 → fSqrt x = (.zero x.sign, 0)))
  ∧ (∀ (mode : BitVec 2) (x : Val) (s : Bool), fAdd mode .nan x = (.nan, 0) ∧ fAdd mode x .nan = (.nan, 0) ∧ fMul .nan x = (.nan, 0)
    ∧ fMul x .nan = (.nan, 0) ∧ fDiv .nan x = (.nan, 0) ∧ fDiv x .nan = (.nan, 0) ∧ fSqrt .nan = (.nan, 0)
    ∧ fAdd mode (.inf s) (.inf (!s)) = (.nan, flagNV) ∧ (x.isZero = true → fMul (.inf s) x = (.nan, flagNV) ∧ fMul x (.inf s) = (.nan, flagNV)
      ∧ fFma mode (.inf s) x .nan = (.nan, flagNV)))
  ∧ (∀ (x : Val) (s t : Bool) (m : Nat) (e : Int), fDiv (.inf s) (.inf t) = (.nan, flagNV) ∧ fDiv (.inf s) (.fin t m e) = (.inf (s != t), 0)
    ∧ fDiv (.fin t m e) (.inf s) = (.zero (t != s), 0) ∧ fSqrt (.inf true) = (.nan, flagNV) ∧ fSqrt (.inf false) = (.inf false, 0)
    ∧ fMin .nan x = x ∧ fMin x .nan = x ∧ fMax .nan x = x ∧ fMax x .nan = x ∧ fMin (.zero s) (.zero t) = .zero (s || t)
    ∧ fMax (.zero s) (.zero t) = .zero (s && t) ∧ fMin (.inf true) (.fin t m e) = .inf true ∧ fMax (.inf false) (.fin t m e) = .inf false
    ∧ Val.neg .nan = .nan ∧ Val.withSign .nan s = .nan ∧ Val.neg (.inf s) = .inf (!s) ∧ Val.withSign (.inf s) t = .inf t)

/-- R139, R140: the quotient, the square root, FRCP and FRSQ stand for the exact number, and the special inputs and exact results of
the special functions are those of their rows: FEXP2 at an integer, FLOG2 at a power of two, FSIN and FCOS at multiples of 1/2. -/
def Sys2Proof.Claims.SpecialFunctions : Prop :=
  (∀ (u v : Word) (a b : ℚ), Claims.real (ofFp32 u) = some a → Claims.real (ofFp32 v) = some b →
    let x := ofFp32 u
    (b ≠ 0 → Claims.StandsFor (fDiv x (ofFp32 v)).1 (a / b < ·) (· < a / b))
    ∧ (a ≠ 0 → Claims.StandsFor (fRcp x).1 (1 / a < ·) (· < 1 / a) ∧ (fRcp x).2 = 0)
    ∧ (0 < a → Claims.StandsFor (fSqrt x).1 (fun t => 0 < t ∧ a < t * t) (fun t => t ≤ 0 ∨ t * t < a) ∧ (fSqrt x).2 = 0
      ∧ Claims.StandsFor (fRsq x).1 (fun t => 0 < t ∧ 1 < t * t * a) (fun t => t ≤ 0 ∨ t * t * a < 1) ∧ (fRsq x).2 = 0)
    ∧ (a < 0 → fRsq x = (.nan, flagNV) ∧ fLog2 x = (.nan, flagNV))
    ∧ (a = 0 → fRcp x = (.inf x.sign, flagDZ) ∧ fRsq x = (.inf x.sign, flagDZ) ∧ fLog2 x = (.inf true, flagDZ) ∧ fSin x = (.zero x.sign, 0)
      ∧ fTanh x = (.zero x.sign, 0) ∧ Claims.real (fSigm x).1 = some (1 / 2) ∧ (fSigm x).2 = 0)
    ∧ (∀ k : ℤ, a = k → (|k| < 512 → Claims.real (fExp2 x).1 = some (2 ^ k) ∧ (fExp2 x).2 = 0) ∧ (fSin x) = (.zero x.sign, 0)
      ∧ Claims.real (fCos x).1 = some (if k % 2 = 0 then 1 else -1) ∧ (fCos x).2 = 0)
    ∧ (∀ k : ℤ, a = k + 1 / 2 → fCos x = (.zero false, 0) ∧ Claims.real (fSin x).1 = some (if k % 2 = 0 then 1 else -1) ∧ (fSin x).2 = 0)
    ∧ (∀ k : ℤ, a = 2 ^ k → fLog2 x = (Val.ofInt k, 0)))
  ∧ (∀ s : Bool, let x := Val.inf s
    fRcp x = (.zero s, 0) ∧ fRsq x = (if s then (.nan, flagNV) else (.zero false, 0)) ∧ fExp2 x = (if s then .zero false else .inf false, 0)
    ∧ fLog2 x = (if s then (.nan, flagNV) else (.inf false, 0)) ∧ fSin x = (.nan, flagNV) ∧ fCos x = (.nan, flagNV)
    ∧ Claims.real (fTanh x).1 = some (if s then -1 else 1) ∧ (fTanh x).2 = 0
    ∧ Claims.real (fSigm x).1 = some (if s then 0 else 1) ∧ (fSigm x).1.sign = false ∧ (fSigm x).2 = 0)
  ∧ (fRcp .nan = (.nan, 0) ∧ fRsq .nan = (.nan, 0) ∧ fExp2 .nan = (.nan, 0) ∧ fLog2 .nan = (.nan, 0) ∧ fSin .nan = (.nan, 0)
    ∧ fCos .nan = (.nan, 0) ∧ fTanh .nan = (.nan, 0) ∧ fSigm .nan = (.nan, 0))

/-- R44, R45, R46, R47, R48, R61, R64, R65, R66: an element of a float or scale format with a fraction has the value that its fields
give, and a number is rounded once to it: to a magnitude that the mode picks, exponents unbounded above; beyond the largest it becomes an
infinity or the largest, with OF and NX. NX marks an inexact result, UF a tiny one (stated for all but E3M0). FP32 is format 0. -/
def Sys2Proof.Claims.FloatFormats : Prop :=
  (∀ (mode : BitVec 2) (v : Val) (w : Word), toFp32 mode v = (BitVec.ofNat 32 (toFormat 0 mode v).1, (toFormat 0 mode v).2)
    ∧ ofFp32 w = (decodeFmt 0 w.toNat).1)
  ∧ ∀ (f : Fmt) (x m b : Nat), Claims.layout f = some (x, m, b) →
    let wide := f.toNat ≤ 4
    let scale := 13 ≤ f.toNat
    let spare := if f = 1 then 2 ^ 13 else 1
    let inf := (2 ^ x - 1) * 2 ^ m
    let top := if wide then inf - 1 else if f = 5 ∨ scale then 2 ^ (x + m) - 2 else 2 ^ (x + m) - 1
    let code := fun (neg : Bool) (c : Nat) => (c + if neg then 2 ^ (x + m) else 0) * spare
    (∀ raw : Nat, let c := raw / spare % 2 ^ (x + m)
      let neg := !decide scale && (raw / spare).testBit (x + m)
      let v := (decodeFmt f raw).1
      (decodeFmt f raw).2 = false ∧ (wide → inf ≤ c → v = if c = inf then .inf neg else .nan) ∧ (¬ wide → top < c → v = .nan)
      ∧ (c ≤ top → Claims.real v = some ((if neg then -1 else 1) * Claims.magnitude m b c) ∧ v.sign = neg))
    ∧ (∀ (mode : BitVec 2) (v : Val) (a : ℚ), Claims.real v = some a →
      (a = 0 → toFormat f mode v = (code (v.sign && !decide scale) 0, 0))
      ∧ (a < 0 → scale → toFormat f mode v = (0, flagNV))
      ∧ (a ≠ 0 → (scale → 0 < a) → let neg := decide (a < 0)
        ∃ c, Claims.Rounds (Claims.magnitude m b) mode neg |a| c
          ∧ (c ≤ top → (toFormat f mode v).1 = code neg c ∧ (f ≠ 11 → ∀ tiny, (tiny = true ↔ Claims.Tiny m b mode neg |a|) →
              (toFormat f mode v).2 = if Claims.magnitude m b c = |a| then 0 else if tiny then flagUF ||| flagNX else flagNX))
          ∧ (top < c → toFormat f mode v
              = (code neg (if wide ∧ (mode = 0 ∨ mode = 2 ∧ neg = true ∨ mode = 3 ∧ neg = false) then inf else top), flagOF ||| flagNX))))
    ∧ (∀ (mode : BitVec 2) (s : Bool), toFormat f mode (.inf s)
        = if wide then (code s inf, 0) else if scale ∧ s = true then (0, flagNV) else (code s top, flagNV))
    ∧ (∀ mode : BitVec 2, toFormat f mode .nan = if wide then ((inf + 2 ^ (m - 1)) * spare, 0)
        else if f = 5 ∨ scale then (2 ^ (x + m) - 1, 0) else (0, flagNV))

/-- The scalar float words, the numbers that they round, and the rounding. -/
def Obligations.FloatResults : Prop := Claims.FloatWords ∧ Claims.FloatExact ∧ Claims.SpecialFunctions ∧ Claims.FloatFormats

/-- R141 to R144: conversions, packed and dot words write their destination and OR their exceptions into %fpflags; the integer
dot products raise none. -/
def Sys2Proof.Claims.PackedWords : Prop :=
  ∀ (s : State) (ts : List Thread) (i : Instr), s.Issues ts → (∀ t ∈ ts, ∃ w, s.Runs i t w) →
    (∀ d a df sf, i = .fcvt d a df sf → ∃ n, exec i s = .next n ∧ s.ThreadsBecome n ts (fun t =>
      let x := decodeFmt sf ((t.getV a.toNat).toNat % 2 ^ storageBits sf)
      let r := toFormat df t.rounding x.1
      ((t.setV d.toNat (BitVec.ofNat 32 r.1)).orFlags (r.2 ||| nvFlag x.2)).advance))
    ∧ (∀ f : Thread → VReg × Fmt × (Nat → Val × Flags), (∀ t, Claims.packedResult i t = some (f t)) →
      ∃ n, exec i s = .next n ∧ s.ThreadsBecome n ts (fun t =>
        let r := fun k => toFormat (f t).2.1 t.rounding ((f t).2.2 k).1
        ((t.setV (f t).1.toNat (BitVec.ofNat 32 ((r 0).1 % 65536 + (r 1).1 * 65536))).orFlags
          (((f t).2.2 0).2 ||| ((f t).2.2 1).2 ||| (r 0).2 ||| (r 1).2)).advance))
    ∧ (∀ f : Thread → VReg × Word, (∀ t, Claims.idotResult i t = some (f t)) →
      ∃ n, exec i s = .next n ∧ s.ThreadsBecome n ts (fun t => (t.setV (f t).1.toNat (f t).2).advance))
    ∧ (∀ d a b fmt, Claims.fdotFormat i = some (d, a, b, fmt) → ∃ n, exec i s = .next n ∧ s.ThreadsBecome n ts (fun t =>
      let el := fun (r : VReg) => (List.range 4).map (fun k => some (decodeFmt fmt ((t.getV r.toNat).toNat / 2 ^ (8 * k) % 256)).1)
      let p := products (el a) (el b)
      let r := dotCanonical p.1 (accRound (ofFp32 (t.getV d.toNat)))
      let o := toFp32 t.rounding r.1
      ((t.setV d.toNat o.1).orFlags (nvFlag (p.2 || r.2) ||| o.2)).advance))

namespace Sys2Proof.Claims

/-- The bits and the range of an integer format (R49). -/
def intRange (f : Fmt) : Option (Nat × ℤ × ℤ) :=
  match f.toNat with
  | 16 => some (16, -2 ^ 15, 2 ^ 15 - 1)
  | 17 => some (8, -128, 127)
  | 18 => some (8, 0, 255)
  | 19 => some (4, -8, 7)
  | 20 => some (4, 0, 15)
  | 21 => some (2, -2, 1)
  | 22 => some (2, 0, 3)
  | 24 => some (1, 0, 1)
  | 25 => some (2, -1, 1)
  | _ => none
/-- The levels of a codebook format (R51, R52). -/
def codebook (f : Fmt) : Option (List ℚ) :=
  match f.toNat with
  | 26 => some [-1, -0.6875, -0.5078125, -0.375, -0.265625, -0.16796875, -0.080078125, 0, 0.0703125, 0.140625, 0.21875, 0.3046875, 0.40625,
      0.53125, 0.703125, 1]
  | 27 => some [-1, -0.640625, -0.4375, -0.3046875, -0.2109375, -0.140625, -0.0703125, 0, 0.0625, 0.1328125, 0.203125, 0.28125, 0.375, 0.5,
      0.6875, 1]
  | 28 => some [-1, -0.53125, -0.25, 0, 0.1875, 0.40625, 0.65625, 1]
  | 29 => some [-1, -0.296875, 0.296875, 1]
  | _ => none
/-- The magnitude of a logarithm of LNS8 or LNS4 (R53). -/
def logMagnitude (eight : Bool) (L : ℤ) : ℚ :=
  let T : List ℚ := [1, 1.09375, 1.1875, 1.296875, 1.4140625, 1.5390625, 1.6796875, 1.8359375]
  if eight then T.getD (L % 8).toNat 0 * 2 ^ (L / 8) else T.getD (4 * (L % 2)).toNat 0 * 2 ^ (L / 2)
/-- The integer that a mode rounds a number to (R61, R67). -/
def RoundsInt (mode : BitVec 2) (a : ℚ) (n : ℤ) : Prop :=
  (mode = 0 → |n - a| ≤ 1 / 2 ∧ (|n - a| = 1 / 2 → n % 2 = 0)) ∧ (mode = 1 → n = if 0 ≤ a then ⌊a⌋ else ⌈a⌉)
  ∧ (mode = 2 → n = ⌊a⌋) ∧ (mode = 3 → n = ⌈a⌉)
/-- The level that a mode picks for a number within the range of the levels (R61, R68). -/
def RoundsLevel (l : List ℚ) (mode : BitVec 2) (a : ℚ) (i : Nat) : Prop :=
  let at_ := fun (j : Nat) => l.getD j 0
  let nearest := ∀ j, j < l.length → |at_ i - a| ≤ |at_ j - a| ∧ (j ≠ i → |at_ j - a| = |at_ i - a| → i % 2 = 0)
  let within := fun (j : Nat) => j < l.length ∧ |at_ j| ≤ |a|
  i < l.length ∧ (mode = 0 → nearest) ∧ (mode = 1 → (∀ j, ¬ within j) → nearest)
  ∧ (mode = 1 → (∃ j, within j) → within i ∧ ∀ j, within j → |at_ i - a| ≤ |at_ j - a|)
  ∧ (mode = 2 → at_ i ≤ a ∧ ∀ j, j < l.length → at_ j ≤ a → at_ j ≤ at_ i) ∧ (mode = 3 → a ≤ at_ i ∧ ∀ j, j < l.length → a ≤ at_ j → at_ i ≤ at_ j)
/-- r is the number a rounded to 25 significant bits, to nearest, ties to even (R73), far from the limits of ACC. -/
def AccRounds (a r : ℚ) : Prop :=
  (a = 0 → r = 0) ∧ (a ≠ 0 → ∃ k e : ℤ, r = k * 2 ^ e ∧ 2 ^ (24 + e) ≤ |a| ∧ |a| < 2 ^ (25 + e) ∧ |r - a| ≤ 2 ^ (e - 1)
    ∧ (|r - a| = 2 ^ (e - 1) → k % 2 = 0))

end Sys2Proof.Claims

/-- R42, R49, R50, R61, R67: the bits of every format; an integer element has the value of its code (10 of T2 reads as 0 with NV), and a
number becomes the integer that the mode picks, or with NV the nearest end of the range. BIN1 has the values 1 and -1. -/
def Sys2Proof.Claims.IntegerFormats : Prop :=
  (∀ f : Fmt, storageBits f = if f ∈ [0, 1] then 32 else if f ∈ [2, 3, 16] then 16 else if f ∈ [10, 11, 19, 20, 26, 27, 28, 31] then 4
    else if f ∈ [21, 22, 25, 29] then 2 else if f ∈ [23, 24] then 1 else 8)
  ∧ (∀ (f : Fmt) (w : Nat) (lo hi : ℤ), Claims.intRange f = some (w, lo, hi) →
    (∀ raw : Nat, let c : Nat := raw % 2 ^ w
      (f = 25 → c = 2 → Claims.real (decodeFmt f raw).1 = some 0 ∧ (decodeFmt f raw).2 = true)
      ∧ (¬ (f = 25 ∧ c = 2) → Claims.real (decodeFmt f raw).1 = some (if lo < 0 ∧ 2 ^ (w - 1) ≤ c then (c : ℚ) - 2 ^ w else c)
        ∧ (decodeFmt f raw).2 = false))
    ∧ (∀ (mode : BitVec 2) (v : Val) (a : ℚ), Claims.real v = some a →
      (a < lo → toFormat f mode v = ((lo % 2 ^ w).toNat, flagNV)) ∧ (hi < a → toFormat f mode v = ((hi % 2 ^ w).toNat, flagNV))
      ∧ (lo ≤ a → a ≤ hi → ∃ n : ℤ, Claims.RoundsInt mode a n ∧ toFormat f mode v = ((n % 2 ^ w).toNat, if (n : ℚ) = a then 0 else flagNX)))
    ∧ (∀ (mode : BitVec 2) (s : Bool), toFormat f mode (.inf s) = (((if s then lo else hi) % 2 ^ w).toNat, flagNV)
      ∧ toFormat f mode .nan = (0, flagNV)))
  ∧ (∀ (raw : Nat) (mode : BitVec 2) (v : Val) (a : ℚ) (s : Bool), Claims.real v = some a →
    Claims.real (decodeFmt 23 raw).1 = some (if raw % 2 = 0 then 1 else -1) ∧ (decodeFmt 23 raw).2 = false
    ∧ (a = 1 → toFormat 23 mode v = (0, 0)) ∧ (a = -1 → toFormat 23 mode v = (1, 0)) ∧ (1 < a → toFormat 23 mode v = (0, flagNV))
    ∧ (a < -1 → toFormat 23 mode v = (1, flagNV))
    ∧ (|a| < 1 → toFormat 23 mode v = (if mode = 2 ∨ mode ≠ 3 ∧ a < 0 then 1 else 0, flagNX))
    ∧ toFormat 23 mode (.inf s) = (if s then 1 else 0, flagNV) ∧ toFormat 23 mode .nan = (0, flagNV))

/-- R48, R51, R52, R53, R66, R68, R69: UE8M0, the codebook formats and the logarithmic formats: the values of their codes, and the code
that a number becomes. -/
def Sys2Proof.Claims.OtherFormats : Prop :=
  (∀ (raw : Nat) (mode : BitVec 2) (v : Val) (a : ℚ) (s : Bool), Claims.real v = some a →
    let scale := fun (c : Nat) => (2 : ℚ) ^ ((c : ℤ) - 127)
    (raw % 256 = 255 → (decodeFmt 12 raw).1 = .nan) ∧ (raw % 256 ≠ 255 → Claims.real (decodeFmt 12 raw).1 = some (scale (raw % 256)))
    ∧ (a ≤ 0 → toFormat 12 mode v = (0xFF, flagNV)) ∧ (0 < a → a < scale 0 → toFormat 12 mode v = (0, flagUF ||| flagNX))
    ∧ (scale 0 ≤ a → ∃ c, Claims.Rounds scale mode false a c
      ∧ (c ≤ 254 → toFormat 12 mode v = (c, if scale c = a then 0 else flagNX)) ∧ (254 < c → toFormat 12 mode v = (0xFE, flagOF ||| flagNX)))
    ∧ toFormat 12 mode (.inf s) = (if s then 0xFF else 0xFE, flagNV) ∧ toFormat 12 mode .nan = (0xFF, 0))
  ∧ (∀ (f : Fmt) (l : List ℚ), Claims.codebook f = some l →
    let last := l.length - 1
    (∀ raw : Nat, Claims.real (decodeFmt f raw).1 = some (l.getD (raw % l.length) 0) ∧ (decodeFmt f raw).2 = false)
    ∧ (∀ (mode : BitVec 2) (v : Val) (a : ℚ), Claims.real v = some a →
      (a < -1 → toFormat f mode v = (0, flagOF ||| flagNX)) ∧ (1 < a → toFormat f mode v = (last, flagOF ||| flagNX))
      ∧ (|a| ≤ 1 → ∃ i, Claims.RoundsLevel l mode a i ∧ toFormat f mode v = (i, if l.getD i 0 = a then 0 else flagNX)))
    ∧ (∀ (mode : BitVec 2) (s : Bool), toFormat f mode (.inf s) = (if s then 0 else last, flagNV)
      ∧ toFormat f mode .nan = (if f = 28 then 3 else if f = 29 then 2 else 7, flagNV)))
  ∧ (∀ eight : Bool,
    let f : Fmt := if eight then 30 else 31
    let w := if eight then 7 else 3
    let cand := fun (c : Nat) => if c = 0 then 0 else Claims.logMagnitude eight ((c : ℤ) - 2 ^ (w - 1))
    let code := fun (neg : Bool) (c : Nat) => (c + 2 ^ (w - 1)) % 2 ^ w + if neg then 2 ^ w else 0
    (∀ raw : Nat, let neg := raw.testBit w
      Claims.real (decodeFmt f raw).1 = some ((if neg then -1 else 1) * cand ((raw + 2 ^ (w - 1)) % 2 ^ w)) ∧ (decodeFmt f raw).1.sign = neg
      ∧ (decodeFmt f raw).2 = false)
    ∧ (∀ (mode : BitVec 2) (v : Val) (a : ℚ), Claims.real v = some a → let neg := decide (a < 0)
      (a = 0 → toFormat f mode v = (code v.sign 0, 0)) ∧ (cand (2 ^ w - 1) < |a| → toFormat f mode v = (code neg (2 ^ w - 1), flagOF ||| flagNX))
      ∧ (a ≠ 0 → |a| ≤ cand (2 ^ w - 1) → ∃ c, Claims.Rounds cand mode neg |a| c
        ∧ toFormat f mode v = (code neg c, if |a| < cand 1 then flagUF ||| flagNX else if cand c = |a| then 0 else flagNX)))
    ∧ (∀ (mode : BitVec 2) (s : Bool), toFormat f mode (.inf s) = (code s (2 ^ w - 1), flagNV) ∧ toFormat f mode .nan = (code false 0, flagNV)))

/-- R71, R72, R73, R74, R81, R143: the dot product of FDOT4: the exact sum of the four exact products, rounded into ACC, is added to the
accumulator and the sum rounded into ACC; a NaN gives NaN, and 0 x infinity or infinities of both signs give NaN with NV. -/
def Sys2Proof.Claims.DotOrder : Prop :=
  ∀ (f : Fmt) (x y : Nat → Nat) (z : Word), (f = 4 ∨ f = 5) →
    let dx := fun (k : Nat) => (decodeFmt f (x k % 256)).1
    let dy := fun (k : Nat) => (decodeFmt f (y k % 256)).1
    let p := products ((List.range 4).map (fun k => some (dx k))) ((List.range 4).map (fun k => some (dy k)))
    let r := dotCanonical p.1 (accRound (ofFp32 z))
    let isInf := fun (v : Val) => ∃ s, v = .inf s
    let becomes := fun (s : Bool) => ∃ k, k < 4 ∧ (dx k).sign = (s != (dy k).sign) ∧ (isInf (dx k) ∧ (dy k).isZero = false ∧ dy k ≠ .nan
      ∨ isInf (dy k) ∧ (dx k).isZero = false ∧ dx k ≠ .nan)
    let invalid := ∃ k, k < 4 ∧ (isInf (dx k) ∧ (dy k).isZero = true ∨ isInf (dy k) ∧ (dx k).isZero = true)
    (∀ (a b : Nat → ℚ) (c : ℚ), (∀ k, k < 4 → Claims.real (dx k) = some (a k) ∧ Claims.real (dy k) = some (b k)) → Claims.real (ofFp32 z) = some c →
      ∃ h u, Claims.AccRounds (a 0 * b 0 + a 1 * b 1 + a 2 * b 2 + a 3 * b 3) h ∧ Claims.AccRounds (c + h) u
        ∧ Claims.real r.1 = some u ∧ r.2 = false ∧ p.2 = false)
    ∧ ((ofFp32 z = .nan ∨ ∃ k, k < 4 ∧ (dx k = .nan ∨ dy k = .nan)) → r.1 = .nan)
    ∧ (p.2 = true ↔ invalid) ∧ (invalid → r.1 = .nan)
    ∧ (¬ invalid → (∀ k, k < 4 → dx k ≠ .nan ∧ dy k ≠ .nan) → ofFp32 z ≠ .nan →
      (becomes true → becomes false → r = (.nan, true))
      ∧ (∀ s, becomes s → ¬ becomes (!s) → r = if ofFp32 z = .inf (!s) then (.nan, true) else (.inf s, false)))

/-- The conversions, packed and dot words, the formats that are no floats, and the order of FDOT4. -/
def Obligations.PackedAndDotResults : Prop := Claims.PackedWords ∧ Claims.IntegerFormats ∧ Claims.OtherFormats ∧ Claims.DotOrder

/-! ## Handles, special registers, RND, the digest -/

namespace Sys2Proof.Claims

/-- The words that change only the thread's handles, batch or a register (R15, R37, R148, R209, R211). -/
def moveEffect (i : Instr) (t : Thread) : Option Thread :=
  match i with
  | .nop => some t
  | .bseal => some { t with batch := t.batch + 1 }
  | .htest d h => some (t.setV d.toNat (match t.getH h with
      | .pending _ => 0
      | .empty => 1
      | .done _ => 1))
  | .hstat d h => some (t.setV d.toNat (match t.getH h with
      | .done st => st.zeroExtend 32
      | .pending _ => 0xFF
      | .empty => 0xFF))
  | .hmov a b => some (if a = b then t else (t.setH b (t.getH a)).setH a .empty)
  | _ => none

end Sys2Proof.Claims

/-- R37, R148, R209, R211: NOP changes nothing, BSEAL opens a new batch, HTEST and HSTAT read a handle, HMOV moves one; nothing
else changes, and the threads go on. (An HSTAT of a PENDING handle waits, so that it does not run.) -/
def Sys2Proof.Claims.HandleWords : Prop :=
  ∀ (s : State) (ts : List Thread) (i : Instr) (f : Thread → Thread), s.Issues ts → (∀ t ∈ ts, ∃ w, s.Runs i t w) →
    (∀ t, Claims.moveEffect i t = some (f t)) → ∃ n, exec i s = .next n ∧ s.ThreadsBecome n ts (fun t => (f t).advance)

/-- R22 to R25, R272: SRD writes the register's value to a register, or to a pair where it has 64 bits, in every executing thread;
SWR writes %draw whole, of %fpflags the exceptions and the mode, of %mflags the exceptions, and no other special register. The values
are those of the table of R22. -/
def Sys2Proof.Claims.SpecialRegisters : Prop :=
  (∀ (s : State) (ts : List Thread) (vd : VReg) (sr : BitVec 7), s.Issues ts → (∀ t ∈ ts, ∃ w, s.Runs (.srd vd sr) t w) →
    ∃ n f, exec (.srd vd sr) s = .next n ∧ s.ThreadsBecome n ts f ∧ ∀ t ∈ ts, ∀ w, s.wgOf t.ref = some w →
      f t = (if sr = 0x0D ∨ sr = 0x10 ∨ sr = 0x15 then t.setPair vd.toNat (s.special t w sr.toNat)
        else t.setV vd.toNat (fieldOf (s.special t w sr.toNat) 31 0)).advance)
  ∧ (∀ (s : State) (t : Thread) (w : Workgroup) (va : VReg) (sr : BitVec 7), s.Issues [t] → s.Runs (.swr sr va) t w →
    ∃ n, exec (.swr sr va) s = .next n ∧ n = { s with threads := n.threads, wgs := n.wgs, issue := none } ∧
      let x := t.getV va.toNat
      n.thread t.ref = some (if sr = 0x0C then ({ t with draw := x } : Thread).advance
        else if sr = 0x0E then ({ t with fpflags := x &&& 0x31F } : Thread).advance else t.advance)
      ∧ n.wg t.ref.wg = some (if sr = 0x0F then { w with mflags := x &&& 0xF } else w)
      ∧ (∀ r, refKey r ≠ refKey t.ref → n.thread r = s.thread r) ∧ ∀ g, g ≠ t.ref.wg → n.wg g = s.wg g)
  ∧ (∀ (s : State) (t : Thread) (w : Workgroup) (l : Launch), s.launchOf w = some l →
    let nat := fun (k : Nat) => BitVec.ofNat 64 k
    s.special t w 0x00 = nat t.ref.tid
    ∧ (w.width ≠ 0 → s.special t w 0x01 = nat (w.lane + t.ref.tid % w.width) ∧ s.special t w 0x02 = nat (t.ref.tid / w.width))
    ∧ s.special t w 0x03 = (BitVec.ofNat 32 (w.slot + 64 * w.quarter + 256 * l.logicalOf w.core)).zeroExtend 64
    ∧ s.special t w 0x04 = nat w.log ∧ s.special t w 0x05 = nat w.launch ∧ (∀ k, k < 4 → s.special t w (0x06 + k) = (w.team k).zeroExtend 64)
    ∧ s.special t w 0x0A = t.role.zeroExtend 64 ∧ s.special t w 0x0B = nat l.cores.length ∧ s.special t w 0x0C = t.draw.zeroExtend 64
    ∧ s.special t w 0x0D = l.seed ∧ s.special t w 0x0E = t.fpflags.zeroExtend 64 ∧ s.special t w 0x0F = w.mflags.zeroExtend 64
    ∧ s.special t w 0x10 = (s.core w.core).cyc ∧ s.special t w 0x11 = nat t.outLd.length ∧ s.special t w 0x12 = nat t.outSt.length
    ∧ s.special t w 0x13 = nat (t.batches.filter (fun b => b.2 != 0)).length ∧ s.special t w 0x14 = nat t.outTl.length
    ∧ (∀ k, k < 64 → (s.special t w 0x15).getLsbD k = ((s.core w.core).tag k).bit) ∧ s.special t w 0x16 = t.batch.zeroExtend 64
    ∧ s.special t w 0x17 = nat (w.width + 128 * w.depth) ∧ s.special t w 0x18 = nat l.groups ∧ s.special t w 0x19 = nat t.depth)

/-- R285: RND writes the value of the counter generator at %draw, which it then advances by 1. -/
def Sys2Proof.Claims.RandomDraw : Prop :=
  ∀ (s : State) (ts : List Thread) (vd : VReg), s.Issues ts → (∀ t ∈ ts, ∃ w, s.Runs (.rnd vd) t w) →
    ∃ n f, exec (.rnd vd) s = .next n ∧ s.ThreadsBecome n ts f ∧ ∀ t ∈ ts, ∀ w l, s.wgOf t.ref = some w → s.launchOf w = some l →
      f t = ({ t.setV vd.toNat (rndValue (if l.genid = 0 then BitVec.ofNat 32 w.launch else l.genid)
        (BitVec.ofNat 32 w.log) (BitVec.ofNat 32 t.ref.tid) t.draw l.seed) with draw := t.draw + 1 } : Thread).advance

/-- R282, R284: DGST.READ gives the workgroup's digest in RECORD and CHECK mode and 0 otherwise; DGST.FOLD, elected, adds the
pair at va to the digest in those modes. -/
def Sys2Proof.Claims.DigestWords : Prop :=
  (∀ (s : State) (ts : List Thread) (vd : VReg), s.Issues ts → (∀ t ∈ ts, ∃ w, s.Runs (.dgstRead vd) t w) →
    ∃ n f, exec (.dgstRead vd) s = .next n ∧ s.ThreadsBecome n ts f ∧ ∀ t ∈ ts, ∀ w l, s.wgOf t.ref = some w → s.launchOf w = some l →
      f t = (t.setPair vd.toNat (if 2 ≤ l.det then w.digest else 0)).advance)
  ∧ (∀ (s : State) (ts : List Thread) (t : Thread) (w : Workgroup) (l : Launch) (va : VReg), s.Elects (.dgstFold va) ts t w →
    s.launchOf w = some l →
    ∃ n, exec (.dgstFold va) s = .next n ∧ ({ s with wgs := n.wgs } : State).ThreadsBecome n ts Thread.advance
      ∧ n.wg t.ref.wg = some (if 2 ≤ l.det then { w with digest := w.digest + t.getPair va.toNat } else w)
      ∧ ∀ g, g ≠ t.ref.wg → n.wg g = s.wg g)

/-- Handles, special registers, random numbers and digests. -/
def Obligations.HandleAndSystemWords : Prop := Claims.HandleWords ∧ Claims.SpecialRegisters ∧ Claims.RandomDraw ∧ Claims.DigestWords


/-! ## Control flow, traps, the end of a thread -/

namespace Sys2Proof.Claims

/-- The branch target (R88, R107): the word's own address plus four times the signed offset. -/
def target (pc : Pc) (off : BitVec 20) : Pc := pc + BitVec.ofInt 56 (4 * off.toInt)
/-- The state in which a call has gone to a target (R146): an eighth older return entry is spilled to near memory. -/
def called (s : State) (t : Thread) (w : Workgroup) (dst : Pc) : State :=
  (match t.ret[7]? with
    | some old => s.nearPut (spillKey w t.ref.tid (t.depth - 8)) (leBytes 4 old.toNat)
    | none => s).onThread t.ref (fun u =>
      ({ u with ret := (fieldOf (t.pc + 4) 33 2 :: u.ret).take 8, depth := u.depth + 1 } : Thread).goto dst)
/-- The n bytes of memory from a on, little-endian. -/
def memNat (s : State) (a n : Nat) : Nat := leNat (Memory.readN s.mem a n)
/-- The thread that has entered its handler (R269). -/
structure InHandler (t u : Thread) (l : Launch) (frame : DWord) (cls : Byte) (detail : Word) : Prop where
  pair    : u.getPair 0 = frame
  cls     : u.getV 2 = cls.zeroExtend 32
  detail  : u.getV 3 = detail
  others  : ∀ k, 4 ≤ k → u.getV k = t.getV k
  pc      : u.pc = fieldOf l.tvec 55 0
  handler : u.handler = true
  kept    : u.p = t.p ∧ u.h = t.h ∧ u.ret = t.ret ∧ u.depth = t.depth ∧ u.fpflags = t.fpflags ∧ u.role = t.role ∧ u.draw = t.draw
    ∧ u.batch = t.batch ∧ u.batches = t.batches ∧ u.nld = t.nld ∧ u.nst = t.nst ∧ u.outLd = t.outLd ∧ u.outSt = t.outSt ∧ u.ops = t.ops
    ∧ u.loops = t.loops ∧ u.runLo = t.runLo ∧ u.runHi = t.runHi ∧ u.chorDep = t.chorDep ∧ u.chorRes = t.chorRes ∧ u.exited = t.exited
/-- v(k), k < 4, as a trap saves it (R269, R34): the value of the last returned load to it that no WAIT has covered and no
software has overwritten, where there is one (log entry 44); else what the register holds. -/
def savedV (t : Thread) (k : Nat) : Word :=
  match (t.loads.filter (fun l => l.value.isSome && decide (l.dest ≤ k) && decide (k < l.dest + l.count) && !l.dirty.contains k
      && !l.gone.contains k)).getLast? with
  | some l => (l.value.getD []).getD (k - l.dest) 0
  | none => t.getV k
/-- The trap frame at physical address a (R269). -/
structure FrameAt (n : State) (a : Nat) (t : Thread) (resume : Pc) (addr lanes : DWord) (cls : Byte) (detail aux : Word) : Prop where
  resume : memNat n a 8 = resume.toNat
  addr   : memNat n (a + 8) 8 = addr.toNat
  lanes  : memNat n (a + 16) 8 = lanes.toNat
  detail : memNat n (a + 24) 4 = detail.toNat
  cls    : memNat n (a + 28) 4 = cls.toNat
  aux    : memNat n (a + 32) 4 = aux.toNat
  zero   : memNat n (a + 36) 12 = 0
  saved  : ∀ k, k < 4 → memNat n (a + 48 + 4 * k) 4 = (savedV t k).toNat

end Sys2Proof.Claims

/-- R88, R145, R259: a branch whose predicate holds goes to the word's address plus 4 x off20, any other goes on; a branch that would leave
a choreography run takes the choreography fault with cause 4. Only the thread changes. The issue group is one thread. -/
def Sys2Proof.Claims.Branches : Prop :=
  ∀ (s : State) (t : Thread) (w : Workgroup) (ps : PReg) (neg : Bool) (kind : BraKind) (off : BitVec 20), s.Issues [t] →
    s.Runs (.bra ps neg kind off) t w →
    (t.getP ps = neg → exec (.bra ps neg kind off) s = .next (s.onThread t.ref Thread.advance).over)
    ∧ (t.getP ps ≠ neg → t.leavesRun (Claims.target t.pc off) false = false →
        exec (.bra ps neg kind off) s = .next (s.onThread t.ref (fun u => u.goto (Claims.target t.pc off))).over)
    ∧ (t.getP ps ≠ neg → t.leavesRun (Claims.target t.pc off) false = true →
        exec (.bra ps neg kind off) s = .next (s.trapWord t clChor 4).finish)

/-- R88, R146, R147: CALL and CALLR push the next word's address [33:2] and go to their target, RET pops one; JR goes to the address in its
pair. The traps: no room (class 0x09), nothing to return to (0x0A), an address beyond 56 bits (0x03), a target that is not a word's or lies
in another 2^34 bytes (0x02), a poisoned spilled entry (0x08, DETAIL 2), a JR or RET that would leave a choreography run (0x13, cause 4).
The model's readings: the address that a jump trap reports, the target for class 0x03 and 0 for class 0x02 (log entry 13), and the place of
a spilled entry (log entry 31). The issue group is one thread. -/
def Sys2Proof.Claims.CallsAndReturns : Prop :=
  ∀ (s : State) (t : Thread) (w : Workgroup), s.Issues [t] →
    (∀ ps neg off, s.Runs (.call ps neg off) t w →
      (t.getP ps = neg → exec (.call ps neg off) s = .next (s.onThread t.ref Thread.advance).over)
      ∧ (t.getP ps ≠ neg → t.depth = w.calls → exec (.call ps neg off) s = .next (s.trapWord t clCallOver 0).finish)
      ∧ (t.getP ps ≠ neg → t.depth ≠ w.calls → fieldOf (t.pc + 4) 55 34 ≠ fieldOf (Claims.target t.pc off) 55 34 →
          exec (.call ps neg off) s = .next (s.trapWord t clInsnAddress 0).finish)
      ∧ (t.getP ps ≠ neg → t.depth ≠ w.calls → fieldOf (t.pc + 4) 55 34 = fieldOf (Claims.target t.pc off) 55 34 →
          exec (.call ps neg off) s = .next (Claims.called s t w (Claims.target t.pc off)).over))
    ∧ (∀ va, s.Runs (.callr va) t w →
      let a := t.getPair va.toNat
      (fieldOf a 63 56 ≠ 0 → exec (.callr va) s = .next (s.trapData t clAddress 0 a).finish)
      ∧ (fieldOf a 63 56 = 0 → fieldOf a 1 0 ≠ 0 → exec (.callr va) s = .next (s.trapWord t clInsnAddress 0).finish)
      ∧ (fieldOf a 63 56 = 0 → fieldOf a 1 0 = 0 → t.depth = w.calls → exec (.callr va) s = .next (s.trapWord t clCallOver 0).finish)
      ∧ (fieldOf a 63 56 = 0 → fieldOf a 1 0 = 0 → t.depth ≠ w.calls → fieldOf (t.pc + 4) 55 34 ≠ fieldOf (fieldOf a 55 0 : Pc) 55 34 →
          exec (.callr va) s = .next (s.trapWord t clInsnAddress 0).finish)
      ∧ (fieldOf a 63 56 = 0 → fieldOf a 1 0 = 0 → t.depth ≠ w.calls → fieldOf (t.pc + 4) 55 34 = fieldOf (fieldOf a 55 0 : Pc) 55 34 →
          exec (.callr va) s = .next (Claims.called s t w (fieldOf a 55 0)).over))
    ∧ (∀ va, s.Runs (.jr va) t w →
      (fieldOf (t.getPair va.toNat) 63 56 ≠ 0 → exec (.jr va) s = .next (s.trapData t clAddress 0 (t.getPair va.toNat)).finish)
      ∧ (fieldOf (t.getPair va.toNat) 63 56 = 0 → fieldOf (t.getPair va.toNat) 1 0 ≠ 0 →
          exec (.jr va) s = .next (s.trapWord t clInsnAddress 0).finish)
      ∧ (fieldOf (t.getPair va.toNat) 63 56 = 0 → fieldOf (t.getPair va.toNat) 1 0 = 0 →
          t.leavesRun (fieldOf (t.getPair va.toNat) 55 0) false = false →
          exec (.jr va) s = .next (s.onThread t.ref (fun u => u.goto (fieldOf (t.getPair va.toNat) 55 0))).over)
      ∧ (fieldOf (t.getPair va.toNat) 63 56 = 0 → fieldOf (t.getPair va.toNat) 1 0 = 0 →
          t.leavesRun (fieldOf (t.getPair va.toNat) 55 0) false = true → exec (.jr va) s = .next (s.trapWord t clChor 4).finish))
    ∧ (s.Runs .ret t w →
      (t.ret = [] → exec .ret s = .next (s.trapWord t clCallUnder 0).finish)
      ∧ (∀ e rest, t.ret = e :: rest → t.leavesRun (fieldOf t.pc 55 34 ++ (e ++ 0#2)) true = true →
          exec .ret s = .next (s.trapWord t clChor 4).finish)
      ∧ (∀ e rest, t.ret = e :: rest → t.leavesRun (fieldOf t.pc 55 34 ++ (e ++ 0#2)) true = false → 8 < t.depth →
          s.nearPoisoned (spillKey w t.ref.tid (t.depth - 9)) 4 = true →
          exec .ret s = .next (s.trapData t clMachine 2 ((s.nativeNear w (spillKey w t.ref.tid (t.depth - 9))).zeroExtend 64)).finish)
      ∧ (∀ e rest, t.ret = e :: rest → t.leavesRun (fieldOf t.pc 55 34 ++ (e ++ 0#2)) true = false → t.depth ≤ 8 →
          exec .ret s = .next (s.onThread t.ref (fun u =>
            ({ u with ret := rest, depth := u.depth - 1 } : Thread).goto (fieldOf t.pc 55 34 ++ (e ++ 0#2)))).over)
      ∧ (∀ e rest, t.ret = e :: rest → t.leavesRun (fieldOf t.pc 55 34 ++ (e ++ 0#2)) true = false → 8 < t.depth →
          s.nearPoisoned (spillKey w t.ref.tid (t.depth - 9)) 4 = false →
          exec .ret s = .next (s.onThread t.ref (fun u =>
            ({ u with ret := rest ++ [BitVec.ofNat 32 (leNat (s.nearLoad (spillKey w t.ref.tid (t.depth - 9)) 4))],
                      depth := u.depth - 1 } : Thread).goto (fieldOf t.pc 55 34 ++ (e ++ 0#2)))).over))

/-- Branches, jumps, calls and returns. -/
def Obligations.ControlFlow : Prop := Claims.Branches ∧ Claims.CallsAndReturns

/-- R269, R271: TRAP and BRK enter the handler: the frame at TFRAME + 64 x (%wglog x 512 + %tid) receives RESUME (the next word
for TRAP, the word itself for BRK), LANES, the class, DETAIL 0, AUX the code and v0 to v3; the thread gets the frame's
address in v0:v1, the class in v2, DETAIL in v3 and goes on at TVEC in handler mode; no other byte of memory changes. -/
def Sys2Proof.Claims.TrapEntry : Prop :=
  ∀ (s : State) (t : Thread) (w : Workgroup) (l : Launch) (x : Xlate) (code : BitVec 7), s.Issues [t] →
    s.launchOf w = some l → t.exited = false → t.handler = false → l.tvec ≠ 0 →
    s.engineVa (s.partOf w) (some w.core) (frameAddr l w t.ref.tid) 64 true = .ok x → x.poison = false → s.memPoisoned x.pa 64 = false →
    ∀ (i : Instr) (cls : Byte) (resume : Pc),
      (i = .trap code ∧ cls = 0x15 ∧ resume = t.pc + 4 ∨ i = .brk code ∧ cls = 0x16 ∧ resume = t.resumePc) → s.Runs i t w →
      ∃ n u, exec i s = .next n ∧ n.thread t.ref = some u ∧ Claims.InHandler t u l (frameAddr l w t.ref.tid) cls 0
        ∧ Claims.FrameAt n x.pa t resume 0 (1#64 <<< w.laneOf t.ref.tid) cls 0 (code.zeroExtend 32)
        ∧ (∀ a, (a < x.pa ∨ x.pa + 64 ≤ a) → Memory.read n.mem a = Memory.read s.mem a)
        ∧ (∀ r, refKey r ≠ refKey t.ref → n.thread r = s.thread r) ∧ n.wgs = s.wgs ∧ n.launches = s.launches ∧ n.near = s.near
        ∧ n.traps = []

/-- R269: a trap in handler mode, or with TVEC 0, or whose frame cannot be written, ends the workgroup. -/
def Sys2Proof.Claims.TrapTerminates : Prop :=
  ∀ (s : State) (t : Thread) (w : Workgroup) (l : Launch) (code : BitVec 7), s.Issues [t] → s.Runs (.trap code) t w →
    s.launchOf w = some l → t.exited = false →
    (t.handler = true ∨ l.tvec = 0 ∨ ∃ e, s.engineVa (s.partOf w) (some w.core) (frameAddr l w t.ref.tid) 64 true = .error e) →
    ∃ n, exec (.trap code) s = .next n ∧ n.wg t.ref.wg = none ∧ n.traps = []

/-- Taking a trap, and the traps that end the workgroup. -/
def Obligations.Traps : Prop := Claims.TrapEntry ∧ Claims.TrapTerminates

/-- R270: ERET restores v0 to v3 and the PC from the thread's frame and leaves handler mode; the frame's bytes are those that the core's L1
gives the thread. Where the thread holds no barrier arrival, nothing else changes. The bytes of the core's clean copy are the model's choice
(log entry 36); the frame's page is in the core's TLB. -/
def Sys2Proof.Claims.EretReturns : Prop :=
  ∀ (s : State) (t : Thread) (w : Workgroup) (l : Launch) (x : Xlate), s.Issues [t] → s.Runs .eret t w → t.handler = true →
    t.exited = false → s.launchOf w = some l →
    fieldOf (frameAddr l w t.ref.tid) 63 56 = 0 → (frameAddr l w t.ref.tid).toNat % 64 = 0 →
    s.tlbLook (s.partOf w) w.core (frameAddr l w t.ref.tid).toNat = some x → x.r = true → s.linkLost x.pa = false → peerRefuses x.pa = false →
    x.poison = false → s.memPoisoned x.pa 64 = false →
    let b := (s.memLoad x.pa 64 w.core x.cp).1
    let resume : DWord := BitVec.ofNat 64 (bytesAt b 0 8)
    fieldOf resume 63 56 = 0 → fieldOf resume 1 0 = 0 →
    ∃ n u, exec .eret s = .next n ∧ n.thread t.ref = some u ∧ u.pc = fieldOf resume 55 0 ∧ u.handler = false
      ∧ (∀ k, k < 4 → u.getV k = BitVec.ofNat 32 (bytesAt b (48 + 4 * k) 4)) ∧ (∀ k, 4 ≤ k → u.getV k = t.getV k)
      ∧ u.p = t.p ∧ u.h = t.h ∧ u.ret = t.ret ∧ u.depth = t.depth ∧ u.fpflags = t.fpflags ∧ u.role = t.role ∧ u.draw = t.draw
      ∧ u.loops = t.loops ∧ u.batch = t.batch ∧ u.batches = t.batches ∧ u.outLd = t.outLd ∧ u.outSt = t.outSt ∧ u.ops = t.ops
      ∧ n.mem = s.mem ∧ n.near = s.near ∧ n.launches = s.launches ∧ n.ops = s.ops ∧ n.reqs = s.reqs
      ∧ (t.bars = 0 → n.wgs = s.wgs ∧ ∀ r, refKey r ≠ refKey t.ref → n.thread r = s.thread r)

/-- R269, R270, R274, R275: outside handler mode ERET takes the mode trap (class 0x17) with DETAIL 1, DSAV and DRST with
DETAIL 2. -/
def Sys2Proof.Claims.HandlerModeOnly : Prop :=
  ∀ (s : State) (t : Thread) (w : Workgroup) (va : VReg), s.Issues [t] → t.handler = false →
    (s.Runs .eret t w → exec .eret s = .next (s.trapWord t 0x17 1).finish)
    ∧ (s.Runs (.dsav va) t w → exec (.dsav va) s = .next (s.trapWord t 0x17 2).finish)
    ∧ (s.Runs (.drst va) t w → exec (.drst va) s = .next (s.trapWord t 0x17 2).finish)

/-- The return from a trap, and the words that only a handler may execute. -/
def Obligations.Returns : Prop := Claims.EretReturns ∧ Claims.HandlerModeOnly

/-- R40, R148, R259, R370: EXIT stops the thread at once; it ends when none of its operations is outstanding (EXIT_COMPLETION), and with the
last live thread its workgroup leaves the launch, whose count of finished workgroups and charge grow. An EXIT of an active thread is
choreography fault 4 (R259), but for the save exit of a thread that the pre-emption trap stopped: with the last of these, the workgroup is
saved (R370). That the class of the handler tells the save exit is the model's reading (log entry 16). -/
def Obligations.ExitEnds : Prop :=
  (∀ (s : State) (t : Thread) (w : Workgroup), s.Issues [t] → s.Runs .exit t w → t.poisonedUpTo t.nld = none →
    (t.active = false ∨ (t.handler = true ∧ t.hclass = 0x14) →
      exec .exit s = .next (s.onThread t.ref (fun u => { u with stall := .exiting, hint := none })).over)
    ∧ (t.active = true → (t.handler = false ∨ t.hclass ≠ 0x14) → exec .exit s = .next (s.trapWord t 0x13 4).finish))
  ∧ (∀ (s : State) (t : Thread) (w : Workgroup), s.thread t.ref = some t → s.wgOf t.ref = some w → s.traps = [] →
    t.stall = .exiting → t.saved = false → t.ops = [] → t.outSt = [] → t.outLd = [] → (t.handler = false ∨ t.hclass ≠ 0x14) → w.teamList = [] →
    (∃ u ∈ s.live t.ref.wg, u.ref ≠ t.ref) → (∀ u ∈ s.live t.ref.wg, u.bars = 0) →
    (∀ u ∈ s.live t.ref.wg, u.ref ≠ t.ref → u.stall = .none ∧ u.saved = false) →
    s.Keyed → (∀ u ∈ s.live t.ref.wg, refKey u.ref = refKey t.ref → u.ref = t.ref) →
    ∃ n, exec (.exitCompletion t.ref) s = .next n ∧ n.thread t.ref = some { t with exited := true, saved := false, stall := .none }
      ∧ (∀ r, refKey r ≠ refKey t.ref → n.thread r = s.thread r) ∧ n.wgs = s.wgs ∧ n.launches = s.launches ∧ n.mem = s.mem ∧ n.near = s.near)
  ∧ (∀ (s : State) (t : Thread) (w : Workgroup) (l : Launch), s.thread t.ref = some t → s.wgOf t.ref = some w →
    s.launchOf w = some l → s.traps = [] → s.reqs = [] → l.dq = [] → w.faulted = false → (∀ m ∈ w.teams, teamValid m = false) →
    t.stall = .exiting → t.saved = false → t.ops = [] → t.outSt = [] → t.outLd = [] → (t.handler = false ∨ t.hclass ≠ 0x14) → t.exited = false →
    (∀ e ∈ s.threads, e.2.ref.wg = t.ref.wg → e = (refKey t.ref, t)) →
    ∃ n m, exec (.exitCompletion t.ref) s = .next n ∧ n.wg t.ref.wg = none ∧ n.launch w.launch = some m
      ∧ m.done = l.done + 1 ∧ m.failed = l.failed ∧ m.cycles = l.cycles + s.chargeOf w ∧ w.log ∈ m.retired)
  ∧ (∀ (s : State) (t : Thread) (w : Workgroup) (l : Launch), s.thread t.ref = some t → s.wgOf t.ref = some w →
    s.launchOf w = some l → s.traps = [] → s.reqs = [] → t.stall = .exiting → t.saved = false → t.ops = [] → t.outSt = [] → t.outLd = [] →
    t.handler = true → t.hclass = 0x14 → t.exited = false → s.Keyed → (∀ e ∈ s.threads, e.2.ref.wg = t.ref.wg → e = (refKey t.ref, t)) →
    ∃ n m x, exec (.exitCompletion t.ref) s = .next n ∧ n.wg t.ref.wg = none ∧ n.launch w.launch = some m ∧ m.saved = l.saved ++ [x]
      ∧ x.id = t.ref.wg ∧ x.tids = [t.ref.tid] ∧ x.wg.log = w.log ∧ x.wg.digest = w.digest ∧ m.done = l.done ∧ m.failed = l.failed
      ∧ m.retired = l.retired ∧ n.mem = s.mem ∧ (n.core w.core).release = [])

/-! ## Loads, stores, full/empty operations, atomics -/

namespace Sys2Proof.Claims

/-- A global access of n bytes at va passes the checks of R156, R159, R404 and R406 that do not depend on its kind, with the
translation x that the TLBs of the core hold. -/
structure GlobalOk (s : State) (w : Workgroup) (va : DWord) (n : Nat) (x : Xlate) : Prop where
  canonical : fieldOf va 63 56 = 0
  aligned   : va.toNat % n = 0
  held      : s.tlbLook (s.partOf w) w.core va.toNat = some x
  linked    : s.linkLost x.pa = false
  exported  : peerRefuses x.pa = false
/-- Thread t has become u: of its registers only the v registers dest to dest + count - 1 may differ. -/
structure Keeps (t u : Thread) (dest count : Nat) : Prop where
  v    : ∀ k, (k < dest ∨ dest + count ≤ k) → u.getV k = t.getV k
  rest : u.p = t.p ∧ u.h = t.h ∧ u.fpflags = t.fpflags ∧ u.draw = t.draw ∧ u.ret = t.ret ∧ u.depth = t.depth ∧ u.role = t.role
    ∧ u.handler = t.handler ∧ u.exited = t.exited
/-- Thread t has become u and goes on at the next word. -/
structure GoesOn (t u : Thread) (dest count : Nat) : Prop where
  keeps : Keeps t u dest count
  pc    : u.pc = t.pc + 4
  stall : u.stall = .none
/-- The fields of a new request of thread t. -/
structure RequestIs (q : Req) (t : Thread) (w : Workgroup) (kind : ReqKind) (near : Bool) (addr size dest seq : Nat) : Prop where
  kind   : q.kind = kind
  thread : q.thread = t.ref ∧ q.core = w.core ∧ q.quiet = t.handler
  at_    : q.near = near ∧ q.addr = addr ∧ q.size = size
  dest   : q.dest = dest ∧ q.seq = seq
  fresh  : q.parked = false ∧ q.served = false
/-- State n is s but for thread t, which has become u, the requests, the free values and the issue, which is over. -/
structure OnlyRequests (s n : State) (t u : Thread) : Prop where
  thread : n.thread t.ref = some u
  others : ∀ r, refKey r ≠ refKey t.ref → n.thread r = s.thread r
  rest   : n = { s with threads := n.threads, reqs := n.reqs, nextId := n.nextId, free := n.free, issue := none }
/-- Memory, workgroups and launches, and all threads but t, are as in s. -/
structure SameButCores (s n : State) (t : Thread) : Prop where
  memory : n.mem = s.mem ∧ n.near = s.near ∧ n.merge = s.merge ∧ n.empties = s.empties
  groups : n.wgs = s.wgs ∧ n.launches = s.launches ∧ n.ops = s.ops
  others : ∀ r, refKey r ≠ refKey t.ref → n.thread r = s.thread r

end Sys2Proof.Claims

/-- R38, R156, R157, R160, R162: an LD or LDN whose access passes every check joins the load counter as a request of its bytes;
until a WAIT covers it, its destination registers hold free values; nothing else changes, but for what looking the translation
up leaves in the core (R324). -/
def Sys2Proof.Claims.LoadsIssue : Prop :=
  ∀ (s : State) (t : Thread) (w : Workgroup) (vd vo : VReg) (sz : LdSize) (imm : BitVec 4), s.Issues [t] →
    (∀ (sb : SPair) (x : Xlate), s.Runs (.ld vd vo sb sz imm) t w →
      let va := w.sPair sb + BitVec.ofNat 64 ((t.getV vo.toNat).toNat * ldBytes sz) + BitVec.ofNat 64 (t.scaledImm imm * ldBytes sz)
      Claims.GlobalOk s w va (ldBytes sz) x → x.r = true → x.poison = false → s.memPoisoned x.pa (ldBytes sz) = false →
      ∃ m n u q, s.Looks m w.core va.toNat ∧ exec (.ld vd vo sb sz imm) s = .next n ∧ Claims.OnlyRequests m n t u
        ∧ Claims.GoesOn t u vd.toNat (ldRegs sz)
        ∧ u.nld = t.nld + 1 ∧ u.outLd = (t.nld + 1) :: t.outLd ∧ u.outSt = t.outSt ∧ n.free = m.free + ldRegs sz
        ∧ n.nextId = s.nextId + 1 ∧ n.reqs = Tbl.insert s.reqs s.nextId q
        ∧ Claims.RequestIs q t w (.load sz) false x.pa (ldBytes sz) vd.toNat (t.nld + 1))
    ∧ (∀ (key target : Nat), s.Runs (.ldn vd vo sz imm) t w →
      let na := t.getV vo.toNat + BitVec.ofNat 32 (t.scaledImm imm * ldBytes sz)
      s.checkNear t.ref.wg t.handler na (ldBytes sz) (ldBytes sz) = .ok (key, target) → s.nearPoisoned key (ldBytes sz) = false →
      ∃ n u q, exec (.ldn vd vo sz imm) s = .next n ∧ Claims.OnlyRequests s n t u ∧ Claims.GoesOn t u vd.toNat (ldRegs sz)
        ∧ u.nld = t.nld + 1 ∧ u.outLd = (t.nld + 1) :: t.outLd ∧ u.outSt = t.outSt ∧ n.free = s.free + ldRegs sz
        ∧ n.nextId = s.nextId + 1 ∧ n.reqs = Tbl.insert s.reqs s.nextId q
        ∧ Claims.RequestIs q t w (.load sz) true key (ldBytes sz) vd.toNat (t.nld + 1))

/-- R38, R156, R157, R160, R161: an ST or STN whose access passes every check takes the bytes of its data registers at issue and
joins the store counter; no register but the PC changes, and no byte of memory, until the store is performed. -/
def Sys2Proof.Claims.StoresIssue : Prop :=
  ∀ (s : State) (t : Thread) (w : Workgroup) (vd vo : VReg) (sz : StSize) (imm : BitVec 4), s.Issues [t] →
    let bytes := (leBytes 4 (t.getV vd.toNat).toNat ++ leBytes 4 (t.getV (vd.toNat + 1)).toNat ++ leBytes 4 (t.getV (vd.toNat + 2)).toNat
      ++ leBytes 4 (t.getV (vd.toNat + 3)).toNat).take (stBytes sz)
    (∀ (sb : SPair) (x : Xlate), s.Runs (.st vd vo sb sz imm) t w →
      let va := w.sPair sb + BitVec.ofNat 64 ((t.getV vo.toNat).toNat * stBytes sz) + BitVec.ofNat 64 (t.scaledImm imm * stBytes sz)
      Claims.GlobalOk s w va (stBytes sz) x → x.w = true →
      ∃ m n u q, s.Looks m w.core va.toNat ∧ exec (.st vd vo sb sz imm) s = .next n ∧ Claims.OnlyRequests m n t u
        ∧ Claims.GoesOn t u 0 0
        ∧ u.nst = t.nst + 1 ∧ u.outSt = (t.nst + 1) :: t.outSt ∧ u.outLd = t.outLd ∧ n.free = m.free
        ∧ n.nextId = s.nextId + 1 ∧ n.reqs = Tbl.insert s.reqs s.nextId q ∧ q.data = bytes
        ∧ Claims.RequestIs q t w .store false x.pa (stBytes sz) 0 (t.nst + 1))
    ∧ (∀ (key target : Nat), s.Runs (.stn vd vo sz imm) t w →
      let na := t.getV vo.toNat + BitVec.ofNat 32 (t.scaledImm imm * stBytes sz)
      s.checkNear t.ref.wg t.handler na (stBytes sz) (stBytes sz) = .ok (key, target) →
      ∃ n u q, exec (.stn vd vo sz imm) s = .next n ∧ Claims.OnlyRequests s n t u ∧ Claims.GoesOn t u 0 0
        ∧ u.nst = t.nst + 1 ∧ u.outSt = (t.nst + 1) :: t.outSt ∧ u.outLd = t.outLd ∧ n.free = s.free
        ∧ n.nextId = s.nextId + 1 ∧ n.reqs = Tbl.insert s.reqs s.nextId q ∧ q.data = bytes
        ∧ Claims.RequestIs q t w .store true key (stBytes sz) 0 (t.nst + 1))

/-- Loads and stores are issued. -/
def Obligations.AccessesIssue : Prop := Claims.LoadsIssue ∧ Claims.StoresIssue

namespace Sys2Proof.Claims

/-- The traps of a global access of n bytes at va by the word i in thread t, and its wait for a translation that its core lacks, in the
order of R156 and R159; `right` is the right of the page that it needs. -/
structure GlobalFails (s : State) (t : Thread) (w : Workgroup) (i : Instr) (va : DWord) (n kind : Nat) (right : Xlate → Bool) : Prop where
  address  : fieldOf va 63 56 ≠ 0 → exec i s = .next (s.trapData t 0x03 0 va).finish
  align    : fieldOf va 63 56 = 0 → va.toNat % n ≠ 0 → exec i s = .next (s.trapData t 0x04 0 va).finish
  unmapped : fieldOf va 63 56 = 0 → va.toNat % n = 0 → s.tlbLook (s.partOf w) w.core va.toNat = none →
    exec i s = .next (s.onThread t.ref (fun u => { u with stall := .walk (va.toNat / 4096) kind va (s.core w.core).cyc })).over
  access   : ∀ x, fieldOf va 63 56 = 0 → va.toNat % n = 0 → s.tlbLook (s.partOf w) w.core va.toNat = some x →
    (right x = false ∨ (peerRefuses x.pa = true ∧ s.linkLost x.pa = false)) → exec i s = .next (s.trapData t 0x07 0 va).finish
/-- The traps of a near access of n bytes at na (R157, R158). -/
structure NearFails (s : State) (t : Thread) (i : Instr) (na : Word) (n : Nat) : Prop where
  align : s.checkNear t.ref.wg t.handler na n n = .error .align → exec i s = .next (s.trapData t 0x04 0 (na.zeroExtend 64)).finish
  cause : ∀ c, s.checkNear t.ref.wg t.handler na n n = .error (.cause c) →
    exec i s = .next (s.trapData t 0x05 (BitVec.ofNat 32 c) (na.zeroExtend 64)).finish

end Sys2Proof.Claims

/-- R156, R157, R158, R159, R268, R306, R324, R404, R406: a global access with address bits above 55 takes the address fault (class 3),
then a misaligned one the alignment trap (4); one without a translation in its core waits for the walk; one that the page or the peer
forbids takes the access fault (7); all report the address. A near access takes the alignment trap or the near trap (5) with the cause.
A load of poisoned bytes takes the machine-check trap (8) with DETAIL 2, and one through a lost link with DETAIL 3; a store through a lost
link is dropped, and counted in LINK_DROP. Nothing else of the access happens. -/
def Obligations.AccessTraps : Prop :=
  ∀ (s : State) (t : Thread) (w : Workgroup) (vd vo : VReg) (imm : BitVec 4), s.Issues [t] →
    (∀ (sb : SPair) (sz : LdSize), s.Runs (.ld vd vo sb sz imm) t w →
      let va := w.sPair sb + BitVec.ofNat 64 ((t.getV vo.toNat).toNat * ldBytes sz) + BitVec.ofNat 64 (t.scaledImm imm * ldBytes sz)
      Claims.GlobalFails s t w (.ld vd vo sb sz imm) va (ldBytes sz) 0 (fun x => x.r)
      ∧ (∀ x, fieldOf va 63 56 = 0 → va.toNat % ldBytes sz = 0 → s.tlbLook (s.partOf w) w.core va.toNat = some x → x.r = true →
        (s.linkLost x.pa = true → ∃ m, s.Looks m w.core va.toNat ∧ exec (.ld vd vo sb sz imm) s = .next (m.trapData t 0x08 3 va).finish)
        ∧ (s.linkLost x.pa = false → peerRefuses x.pa = false → (x.poison = true ∨ s.memPoisoned x.pa (ldBytes sz) = true) →
          ∃ m, s.Looks m w.core va.toNat ∧ exec (.ld vd vo sb sz imm) s
            = .next (((m.l2Read x.pa (ldBytes sz)).l2Policy x.pa (ldBytes sz) x.cp).trapData t 0x08 2 va).finish)))
    ∧ (∀ (sb : SPair) (sz : StSize), s.Runs (.st vd vo sb sz imm) t w →
      let va := w.sPair sb + BitVec.ofNat 64 ((t.getV vo.toNat).toNat * stBytes sz) + BitVec.ofNat 64 (t.scaledImm imm * stBytes sz)
      Claims.GlobalFails s t w (.st vd vo sb sz imm) va (stBytes sz) 1 (fun x => x.w)
      ∧ (∀ x, fieldOf va 63 56 = 0 → va.toNat % stBytes sz = 0 → s.tlbLook (s.partOf w) w.core va.toNat = some x → x.w = true →
        s.linkLost x.pa = true →
        ∃ n u, exec (.st vd vo sb sz imm) s = .next n ∧ n.thread t.ref = some u ∧ Claims.GoesOn t u 0 0 ∧ u.outSt = t.outSt ∧ u.outLd = t.outLd
          ∧ n.reqs = s.reqs ∧ n.mem = s.mem ∧ n.near = s.near ∧ (∀ r, refKey r ≠ refKey t.ref → n.thread r = s.thread r)
          ∧ (n.part (s.partOf w)).linkDrop = (s.part (s.partOf w)).linkDrop + 1))
    ∧ (∀ (sz : LdSize), s.Runs (.ldn vd vo sz imm) t w →
      let na := t.getV vo.toNat + BitVec.ofNat 32 (t.scaledImm imm * ldBytes sz)
      Claims.NearFails s t (.ldn vd vo sz imm) na (ldBytes sz)
      ∧ (∀ key target, s.checkNear t.ref.wg t.handler na (ldBytes sz) (ldBytes sz) = .ok (key, target) → s.nearPoisoned key (ldBytes sz) = true →
        exec (.ldn vd vo sz imm) s = .next (s.trapData t 0x08 2 (na.zeroExtend 64)).finish))
    ∧ (∀ (sz : StSize), s.Runs (.stn vd vo sz imm) t w →
      Claims.NearFails s t (.stn vd vo sz imm) (t.getV vo.toNat + BitVec.ofNat 32 (t.scaledImm imm * stBytes sz)) (stBytes sz))

namespace Sys2Proof.Claims

/-- The bytes that a core's load of global memory gives (R291): those of the clean copy of the line in its L1, where it holds one
and does not own the line and the page is not STREAM; else those of memory. -/
def l1Bytes (s : State) (pa n core cp : Nat) : List Byte :=
  match Tbl.find (s.core core).clean (pa / 128) with
  | some bs => if isDevice pa = true ∧ cp ≠ 1 ∧ Tbl.find s.owners (pa / 128) ≠ some core then (bs.drop (pa % 128)).take n
    else s.memRead pa n
  | none => s.memRead pa n
/-- The thread after the reply of a load or atomic with a number: its record holds the words, or the address of a poisoned reply. -/
structure Replied (t u : Thread) (seq : Nat) (value : Option (List Word)) (poison : Option DWord) : Prop where
  same  : u.v = t.v ∧ u.p = t.p ∧ u.h = t.h ∧ u.pc = t.pc ∧ u.stall = t.stall ∧ u.outSt = t.outSt ∧ u.nld = t.nld
  out   : u.outLd = t.outLd.filter (· != seq)
  loads : u.loads = t.loads.map (fun l => if l.seq = seq then { l with value := value, poison := poison } else l)

end Sys2Proof.Claims

/-- R162, R291: a load's data arrive in its record and leave the load counter, without changing a register; memory is as before. A load that
meets poison took its trap at its word (R159, R306; log entry 43). The model's choices (log entry 36): the clean copies of L1 lines, and the
event's `evict`, with which the core's clean copy of the line is gone before. The load is one lane's. -/
def Sys2Proof.Claims.LoadArrives : Prop :=
  ∀ (s : State) (id : Nat) (q : Req) (sz : LdSize) (t : Thread), Tbl.find s.reqs id = some q → q.kind = .load sz →
    s.inOrder id q = true → s.thread q.thread = some t → t.ref = q.thread →
    (q.near = false → q.addr % 128 + q.size ≤ 128 →
      ∃ n u, exec (.loadReturn id false) s = .next n ∧ n.thread q.thread = some u ∧ Claims.SameButCores s n t ∧ Tbl.find n.reqs id = none
        ∧ Claims.Replied t u q.seq (some (ldWords sz (Claims.l1Bytes s q.addr q.size q.core q.cp))) none)
    ∧ (q.near = false → q.addr % 128 + q.size ≤ 128 →
      ∃ n u, exec (.loadReturn id true) s = .next n ∧ n.thread q.thread = some u ∧ Claims.SameButCores s n t ∧ Tbl.find n.reqs id = none
        ∧ Claims.Replied t u q.seq (some (ldWords sz (s.memRead q.addr q.size))) none)
    ∧ (∀ evict, q.near = true →
      ∃ n u, exec (.loadReturn id evict) s = .next n ∧ n.thread q.thread = some u ∧ Claims.SameButCores s n t ∧ Tbl.find n.reqs id = none
        ∧ Claims.Replied t u q.seq (some (ldWords sz (s.nearLoad q.addr q.size))) none)

/-- R162, R182, R376: a WAIT that covers one load writes its words to its registers, those the thread has not written meanwhile;
with nld 63 it covers none; a poisoned reply traps there (class 8, DETAIL 2) with its address. A register that a trap's entry has given
the load's value before (log entry 44) stays as it is. -/
def Sys2Proof.Claims.WaitCovers : Prop :=
  ∀ (s : State) (t : Thread) (w : Workgroup) (nld nst : BitVec 6) (ncp ntl : BitVec 4), s.Issues [t] →
    s.Runs (.wait nld nst ncp ntl) t w →
    (∀ (l : LoadRec) (ws : List Word), nld ≠ 63 → t.loads.filter (fun x => decide (x.seq ≤ t.nld - nld.toNat)) = [l] →
      l.value = some ws → l.poison = none →
      ∃ n u, exec (.wait nld nst ncp ntl) s = .next n ∧ Claims.OnlyRequests s n t u ∧ n.reqs = s.reqs
        ∧ Claims.GoesOn t u l.dest l.count ∧ u.outLd = t.outLd ∧ u.outSt = t.outSt
        ∧ (∀ k, k < l.count → l.dirty.contains (l.dest + k) = false → l.gone.contains (l.dest + k) = false → u.getV (l.dest + k) = ws.getD k 0)
        ∧ (∀ k, k < l.count → l.gone.contains (l.dest + k) = true → u.getV (l.dest + k) = t.getV (l.dest + k))
        ∧ (∀ x ∈ u.loads, t.nld - nld.toNat < x.seq))
    ∧ (nld = 63 → exec (.wait nld nst ncp ntl) s = .next (s.onThread t.ref Thread.advance).over)
    ∧ (∀ (l : LoadRec) (va : DWord), nld ≠ 63 → t.loads.filter (fun x => decide (x.seq ≤ t.nld - nld.toNat)) = [l] →
      l.poison = some va →
      exec (.wait nld nst ncp ntl) s = .next ((s.onThread t.ref (fun u => { u with loads := u.loads.map (fun x =>
        if x.seq = l.seq then { x with poison := none } else x) })).trapData t 0x08 2 va).finish)

/-- The data of a load arrive, and the WAIT that covers it writes its registers. -/
def Obligations.LoadsComplete : Prop := Claims.LoadArrives ∧ Claims.WaitCovers

/-- R161, R164, R172, R282, R290: a store that is performed writes exactly its bytes, clears the reservations on its lines and
leaves the store counter. In the merge buffer, a near store is seen by threads only; one that leaves it is seen by engines, and takes
earlier stores to its 16-byte blocks with it. Outside handler mode in RECORD and CHECK mode the digest of its workgroup grows by what
R282 folds of it, at its address or, near, at the native form; no other workgroup changes, and no launch. -/
def Obligations.StoresPerform : Prop :=
  ∀ (s : State) (id : Nat) (q : Req) (t : Thread) (drain : Bool), Tbl.find s.reqs id = some q → q.kind = .store →
    s.inOrder id q = true → s.thread q.thread = some t →
    ∃ n u, exec (.storePerformed id drain) s = .next n ∧ Tbl.find n.reqs id = none ∧ n.thread q.thread = some u
      ∧ u = { t with outSt := t.outSt.filter (· != q.seq) }
      ∧ (∀ r, refKey r ≠ refKey q.thread → n.thread r = s.thread r)
      ∧ (q.near = false → n.near = s.near ∧ n.merge = s.merge ∧ (∀ k, k < q.data.length → Memory.read n.mem (q.addr + k) = q.data.getD k 0)
          ∧ (∀ a, (a < q.addr ∨ q.addr + q.data.length ≤ a) → Memory.read n.mem a = Memory.read s.mem a)
          ∧ ∀ r ∈ n.reserves, r.near = false → (linesOf q.addr q.data.length).contains r.line = false)
      ∧ (q.near = true → n.mem = s.mem ∧ (∀ k, k < q.data.length → n.nearSeen (q.addr + k) = q.data.getD k 0)
          ∧ (∀ a, (a < q.addr ∨ q.addr + q.data.length ≤ a) → n.nearSeen a = s.nearSeen a)
          ∧ (drain = false → n.near = s.near ∧ ∀ a, n.nearByte a = s.nearByte a)
          ∧ (drain = true → (∀ k, k < q.data.length → n.nearByte (q.addr + k) = q.data.getD k 0)
              ∧ ∀ a, (a < q.addr / 16 * 16 ∨ (q.addr + q.data.length + 15) / 16 * 16 ≤ a) → n.nearByte a = s.nearByte a)
          ∧ ∀ r ∈ n.reserves, r.near = true → (linesOf q.addr q.data.length).contains r.line = false)
      ∧ (∀ w l, s.wgOf q.thread = some w → s.launchOf w = some l → q.quiet = false → 2 ≤ l.det →
          let sum := digestOf (if q.near = true then (s.nativeNear w q.addr).toNat else q.va.toNat) q.data
          n.wg q.thread.wg = some { w with digest := w.digest + sum })
      ∧ ((q.quiet = true ∨ ∀ w l, s.wgOf q.thread = some w → s.launchOf w = some l → l.det < 2) → n.wgs = s.wgs)
      ∧ (∀ g, g ≠ q.thread.wg → n.wg g = s.wg g) ∧ n.launches = s.launches

namespace Sys2Proof.Claims

/-- The full/empty operations (R165): number, address register, destination (0 where there is none), data. -/
def fullEmptyWord (i : Instr) (t : Thread) : Option (Nat × VReg × Nat × List Byte) :=
  match i with
  | .ldnf vd va => some (0, va, vd.toNat, [])
  | .ldnw vd va => some (1, va, vd.toNat, [])
  | .stne va vb => some (2, va, 0, leBytes 4 (t.getV vb.toNat).toNat)
  | .stnf va vb => some (3, va, 0, leBytes 4 (t.getV vb.toNat).toNat)
  | .fesetE va => some (4, va, 0, [])
  | .fesetF va => some (5, va, 0, [])
  | .feq vd va => some (6, va, vd.toNat, [])
  | _ => none
/-- The bit of a word after the operation (R165): LDNF, STNE, STNF, FESET.F leave it full, LDNW and FESET.E empty, FEQ as it is. -/
def fullAfter (fn : Nat) (full : Bool) : Bool := if fn = 1 ∨ fn = 4 then false else if fn = 6 then full else true

end Sys2Proof.Claims

/-- R165, R166, R167, R168, R306: a full/empty word whose address passes R157 makes one request and waits at the word. At its slice the
operation is performed in one step once its condition holds: a load gives the word, FEQ the bit; STNE and STNF store; and the
bit becomes what R165 says. One whose condition does not hold is parked, behind those parked before. One that reads a poisoned span takes
the machine-check trap, DETAIL 2. -/
def Obligations.FullEmpty : Prop :=
  (∀ (s : State) (t : Thread) (w : Workgroup) (i : Instr) (fn dest key target : Nat) (va : VReg) (data : List Byte), s.Issues [t] →
    s.Runs i t w → Claims.fullEmptyWord i t = some (fn, va, dest, data) →
    s.checkNear t.ref.wg t.handler (t.getV va.toNat) 4 4 = .ok (key, target) →
    let load := fn = 0 ∨ fn = 1 ∨ fn = 6
    ∃ n u q, exec i s = .next n ∧ Claims.OnlyRequests s n t u ∧ Claims.Keeps t u 0 0 ∧ u.pc = t.pc ∧ u.stall = .request s.nextId
      ∧ n.free = s.free ∧ n.nextId = s.nextId + 1 ∧ n.reqs = Tbl.insert s.reqs s.nextId q ∧ q.data = data
      ∧ (load → u.outLd = (t.nld + 1) :: t.outLd ∧ u.outSt = t.outSt) ∧ (¬ load → u.outSt = (t.nst + 1) :: t.outSt ∧ u.outLd = t.outLd)
      ∧ Claims.RequestIs q t w (.fullEmpty fn) true key 4 dest (if fn = 0 ∨ fn = 1 ∨ fn = 6 then t.nld + 1 else t.nst + 1))
  ∧ (∀ (s : State) (id fn : Nat) (q : Req) (t : Thread), Tbl.find s.reqs id = some q → q.kind = .fullEmpty fn → fn < 7 →
    s.traps = [] → (∀ e ∈ s.reqs, e.2.parked = true → e.2.addr ≠ q.addr) → q.parked = false → s.inOrder id q = true → q.near = true →
    (fn = 0 ∨ fn = 1 ∨ fn = 6 → s.nearPoisoned q.addr 4 = false) → s.thread q.thread = some t →
    (fn = 0 ∨ fn = 1 → s.empties.contains (q.addr / 4) = false) → (fn = 2 → s.empties.contains (q.addr / 4) = true) →
    (fn = 2 ∨ fn = 3 → t.outLd = [] ∧ t.outSt = [q.seq] ∧ q.data.length = 4) →
    t.stall = .request id →
    ∃ n u, exec (.fullEmptyPerform id) s = .next n ∧ Tbl.find n.reqs id = none ∧ n.thread q.thread = some u ∧ u.pc = t.pc + 4 ∧ u.stall = .none
      ∧ (fn = 0 ∨ fn = 1 → u.getV q.dest = BitVec.ofNat 32 (leNat (s.nearLoad q.addr 4)))
      ∧ (fn = 6 → u.getV q.dest = if s.empties.contains (q.addr / 4) then 0 else 1)
      ∧ (∀ k, k ≠ q.dest ∨ (2 ≤ fn ∧ fn < 6) → u.getV k = t.getV k) ∧ u.p = t.p ∧ u.h = t.h
      ∧ (fn = 2 ∨ fn = 3 → ∀ k, k < 4 → n.nearSeen (q.addr + k) = q.data.getD k 0 ∧ n.nearByte (q.addr + k) = q.data.getD k 0)
      ∧ (∀ a, (fn ≠ 2 ∧ fn ≠ 3 ∨ a < q.addr ∨ q.addr + 4 ≤ a) → n.nearSeen a = s.nearSeen a)
      ∧ (fn ≠ 2 ∧ fn ≠ 3 → n.near = s.near ∧ n.wgs = s.wgs)
      ∧ (n.empties.contains (q.addr / 4) = !Claims.fullAfter fn (!s.empties.contains (q.addr / 4)))
      ∧ (∀ k, k ≠ q.addr / 4 → n.empties.contains k = s.empties.contains k)
      ∧ (∀ r, refKey r ≠ refKey q.thread → n.thread r = s.thread r) ∧ n.mem = s.mem ∧ n.launches = s.launches ∧ n.ops = s.ops
      ∧ (∀ g, g ≠ q.thread.wg → n.wg g = s.wg g))
  ∧ (∀ (s : State) (id fn : Nat) (q : Req) (t : Thread), Tbl.find s.reqs id = some q → q.kind = .fullEmpty fn → s.traps = [] →
    q.parked = false → s.inOrder id q = true → s.thread q.thread = some t →
    (((fn = 0 ∨ fn = 1) ∧ s.empties.contains (q.addr / 4) = true)
      ∨ (fn = 2 ∧ s.empties.contains (q.addr / 4) = false ∧ t.outLd = [] ∧ t.outSt = [q.seq])) →
    ∃ n, exec (.fullEmptyPerform id) s = .next n ∧ n = { s with threads := n.threads, reqs := n.reqs, nextId := s.nextId + 1 }
      ∧ n.thread q.thread = some { t with stall := .request s.nextId }
      ∧ (∀ r, refKey r ≠ refKey q.thread → n.thread r = s.thread r)
      ∧ n.reqs = Tbl.insert (Tbl.erase s.reqs id) s.nextId { q with parked := true })
  ∧ (∀ (s : State) (id fn : Nat) (q : Req) (t : Thread), Tbl.find s.reqs id = some q → q.kind = .fullEmpty fn → (fn = 0 ∨ fn = 1 ∨ fn = 6) →
    (∀ e ∈ s.reqs, e.2.parked = true → e.2.addr ≠ q.addr) → q.parked = false → s.inOrder id q = true → s.thread q.thread = some t →
    (fn = 0 ∨ fn = 1 → s.empties.contains (q.addr / 4) = false) → s.nearPoisoned q.addr 4 = true →
    exec (.fullEmptyPerform id) s = .next ((({ s with reqs := Tbl.erase s.reqs id } : State).onThread q.thread (fun u =>
      { u with stall := .none, outLd := u.outLd.filter (· != q.seq) })).trapData t 0x08 2 q.va).settleTraps)

namespace Sys2Proof.Claims

/-- The atomics (R170-R172): request, space, address register, operand words, destination (none for RED), whether it writes,
and whether the function crosses PCIe (R301). -/
structure AtomicWord where
  kind  : ReqKind
  space : Space
  va    : VReg
  args  : List Word
  dest  : Option VReg
  write : Bool
  host  : Bool
def atomicWord (i : Instr) (t : Thread) : Option AtomicWord :=
  match i with
  | .atom vd va vb sp op => some { kind := .atom op, space := sp, va := va, args := [t.getV vb.toNat, t.getV (vb.toNat + 1)],
                                   dest := some vd, write := true, host := op == .add || op == .xchg || op == .cas }
  | .red va vb sp op => some { kind := .red op, space := sp, va := va, args := [t.getV vb.toNat], dest := none, write := true, host := op == .add }
  | .lr vd va sp => some { kind := .lr, space := sp, va := va, args := [], dest := some vd, write := false, host := false }
  | .sc vd va vb sp => some { kind := .sc, space := sp, va := va, args := [t.getV vb.toNat], dest := some vd, write := true, host := false }
  | _ => none
/-- The request of an atomic is made, at an address. -/
def AtomicIssued (s n : State) (t : Thread) (w : Workgroup) (i : Instr) (a : AtomicWord) (near : Bool) (addr : Nat) : Prop :=
  ∃ u q, exec i s = .next n ∧ SameButCores s n t ∧ n.thread t.ref = some u ∧ n.reqs = Tbl.insert s.reqs s.nextId q ∧ q.args = a.args
    ∧ match a.dest with
      | some vd => GoesOn t u vd.toNat 1 ∧ u.outLd = (t.nld + 1) :: t.outLd ∧ u.outSt = t.outSt
          ∧ RequestIs q t w a.kind near addr 4 vd.toNat (t.nld + 1)
          ∧ Tbl.get 0 (n.core w.core).returns (laneKey w t.ref.tid) = Tbl.get 0 (s.core w.core).returns (laneKey w t.ref.tid) + 1
      | none => GoesOn t u 0 0 ∧ u.outSt = (t.nst + 1) :: t.outSt ∧ u.outLd = t.outLd
          ∧ RequestIs q t w a.kind near addr 4 0 (t.nst + 1)
/-- R171: what a function makes of the word and the operand. -/
def reduced (op : RedOp) (a b : Word) : Word :=
  match op with
  | .add => a + b
  | .fadd => fp32AddRne a b
  | .min => if b.slt a then b else a
  | .max => if a.slt b then b else a
  | .minu => if b < a then b else a
  | .maxu => if a < b then b else a
  | .and => a &&& b
  | .or => a ||| b
  | .xor => a ^^^ b
/-- R171: the new word of an ATOM; none where CAS's comparison fails. -/
def swapped (op : AtomOp) (a b c : Word) : Option Word :=
  match op with
  | .add => some (reduced .add a b)
  | .fadd => some (reduced .fadd a b)
  | .min => some (reduced .min a b)
  | .max => some (reduced .max a b)
  | .minu => some (reduced .minu a b)
  | .maxu => some (reduced .maxu a b)
  | .and => some (reduced .and a b)
  | .or => some (reduced .or a b)
  | .xor => some (reduced .xor a b)
  | .xchg => some b
  | .cas => if a = b then some c else none
/-- The word of a request becomes `new`, or stays, and no other byte of memory changes, as threads see it; engines see the new
word too. -/
def WordBecomes (s n : State) (q : Req) (new : Option Word) : Prop :=
  let byte := fun (old : Byte) (a : Nat) => match new with
    | some x => if q.addr ≤ a ∧ a < q.addr + 4 then (leBytes 4 x.toNat).getD (a - q.addr) 0 else old
    | none => old
  if q.near then n.mem = s.mem ∧ (∀ a, n.nearSeen a = byte (s.nearSeen a) a) ∧ (new = none → n.near = s.near)
    ∧ ∀ x, new = some x → ∀ k, k < 4 → n.nearByte (q.addr + k) = (leBytes 4 x.toNat).getD k 0
  else n.near = s.near ∧ n.merge = s.merge ∧ ∀ a, Memory.read n.mem a = byte (Memory.read s.mem a) a
/-- The word at a request's address, as the home reads it. -/
def wordAt (s : State) (q : Req) : Word := BitVec.ofNat 32 (leNat (if q.near then s.nearLoad q.addr 4 else s.memRead q.addr 4))

end Sys2Proof.Claims

/-- R38, R170, R171, R172, R301, R318: an atomic whose address passes the checks makes one request for its home and goes on; ATOM, LR
and SC join the load counter and take a return slot of the lane, RED joins the store counter. -/
def Obligations.AtomicsIssue : Prop :=
  ∀ (s : State) (t : Thread) (w : Workgroup) (i : Instr) (a : Claims.AtomicWord), s.Issues [t] → s.Runs i t w →
    Claims.atomicWord i t = some a →
    (∀ x, a.space = .global → Claims.GlobalOk s w (t.getPair a.va.toNat) 4 x → (a.write = true → x.w = true) →
      (a.write = false → x.r = true) → (regionOf x.pa = 2 → x.sa = true ∧ a.host = true) →
      ∃ n, Claims.AtomicIssued s n t w i a false x.pa)
    ∧ (∀ key target, a.space = .near → s.checkNear t.ref.wg t.handler (t.getV a.va.toNat) 4 4 = .ok (key, target) →
      ∃ n, Claims.AtomicIssued s n t w i a true key)

namespace Sys2Proof.Claims

/-- The home has made the word of a request `new`, or left it, and the thread of the request is t: other threads, other workgroups and
the launches are as before, and in RECORD and CHECK mode the digest of the workgroup grows by what R282 folds of a word written. -/
structure HomeServed (s n : State) (id : Nat) (q : Req) (new : Option Word) (t : Thread) (reply : Option Req) : Prop where
  word     : WordBecomes s n q new
  thread   : n.thread q.thread = some t
  reply    : Tbl.find n.reqs id = reply
  others   : ∀ r, refKey r ≠ refKey q.thread → n.thread r = s.thread r
  launches : n.launches = s.launches
  groups   : ∀ g, g ≠ q.thread.wg → n.wg g = s.wg g
  digest   : ∀ x w l, new = some x → s.wgOf q.thread = some w → s.launchOf w = some l →
    n.wg q.thread.wg = some (if q.quiet = false ∧ 2 ≤ l.det
      then { w with digest := w.digest + digestOf (if q.near = true then (s.nativeNear w q.addr).toNat else q.va.toNat) (leBytes 4 x.toNat) }
      else w)
  unread   : new = none → n.wgs = s.wgs

end Sys2Proof.Claims

/-- R171, R172, R282, R317: the home serves a request whose word is not poisoned in one step: ATOM and RED write the function's value,
LR reserves the line, SC writes only under its reservation, which it consumes; the old word, or 0 or 1 of SC, waits as the reply. -/
def Sys2Proof.Claims.AtomicsServe : Prop :=
  ∀ (s : State) (id : Nat) (q : Req) (t : Thread), Tbl.find s.reqs id = some q → q.served = false → s.inOrder id q = true →
    s.thread q.thread = some t →
    (if q.near then s.nearPoisoned q.addr 4 = false else q.poison = false ∧ s.memPoisoned q.addr 4 = false) →
    let old := Claims.wordAt s q
    let reply := fun (x : Word) => some { q with served := true, data := leBytes 4 x.toNat }
    (∀ op b, q.kind = .red op → q.args = [b] →
      ∃ n, exec (.homeRequestServe id) s = .next n ∧ Claims.HomeServed s n id q (some (Claims.reduced op old b))
        { t with outSt := t.outSt.filter (· != q.seq) } none)
    ∧ (∀ op b c, q.kind = .atom op → q.args = [b, c] →
      ∃ n, exec (.homeRequestServe id) s = .next n ∧ Claims.HomeServed s n id q (Claims.swapped op old b c) t (reply old))
    ∧ (q.kind = .lr →
      ∃ n, exec (.homeRequestServe id) s = .next n ∧ Claims.HomeServed s n id q none t (reply old) ∧ n.reserved q = true)
    ∧ (∀ b, q.kind = .sc → q.args = [b] → s.reserved q = true →
      ∃ n, exec (.homeRequestServe id) s = .next n ∧ Claims.HomeServed s n id q (some b) t (reply 0) ∧ n.reserved q = false)
    ∧ (∀ b, q.kind = .sc → q.args = [b] → s.reserved q = false →
      ∃ n, exec (.homeRequestServe id) s = .next n ∧ Claims.HomeServed s n id q none t (reply 1) ∧ n.reserved q = false)

/-- R376: a request whose word is poisoned when its home comes to perform it writes nothing; the home writes a record in its bank (a word of a
peer has its home there, R173, R315, and no record of it is written here). A RED leaves the store counter; an ATOM, LR or SC gets a poisoned reply, and a reservation of the thread is cleared by LR and SC. -/
def Sys2Proof.Claims.AtomicsPoisoned : Prop :=
  ∀ (s : State) (id : Nat) (q : Req) (t : Thread) (w : Workgroup), Tbl.find s.reqs id = some q → q.served = false →
    s.inOrder id q = true → s.thread q.thread = some t → s.wgOf q.thread = some w →
    (if q.near then s.nearPoisoned q.addr 4 = true else q.poison = true ∨ s.memPoisoned q.addr 4 = true) →
    let bank := bankId 0x08 (if q.near = true then clusterOf (q.addr / 2 ^ 19) else homeOf q.addr)
    (s.bank bank).slots = [] →
    let next := if q.near = false ∧ regionOf q.addr = 1 then (s.bank bank).next else (s.bank bank).next + 1
    (∀ op, q.kind = .red op →
      ∃ n, exec (.homeRequestServe id) s = .next n
        ∧ Claims.HomeServed s n id q none { t with outSt := t.outSt.filter (· != q.seq) } none
        ∧ (n.bank bank).next = next)
    ∧ (((∃ op, q.kind = .atom op) ∨ q.kind = .lr ∨ q.kind = .sc) →
      ∃ n, exec (.homeRequestServe id) s = .next n
        ∧ Claims.HomeServed s n id q none t (some { q with served := true, data := [] })
        ∧ (n.bank bank).next = next ∧ (q.kind = .lr ∨ q.kind = .sc → n.reserved q = false))

/-- R171, R318, R376: the reply of a served atomic arrives in its load record, frees the lane's return slot and changes no memory;
the request is over. -/
def Sys2Proof.Claims.AtomicReplyArrives : Prop :=
  ∀ (s : State) (id : Nat) (q : Req) (t : Thread) (w : Workgroup), Tbl.find s.reqs id = some q → q.served = true →
    s.thread q.thread = some t → t.ref = q.thread → s.wgOf q.thread = some w →
    ∃ n u, exec (.atomicReply id) s = .next n ∧ n.thread q.thread = some u ∧ Claims.SameButCores s n t ∧ Tbl.find n.reqs id = none
      ∧ Tbl.get 0 (n.core w.core).returns (laneKey w t.ref.tid) = Tbl.get 0 (s.core w.core).returns (laneKey w t.ref.tid) - 1
      ∧ (q.data ≠ [] → Claims.Replied t u q.seq (some [BitVec.ofNat 32 (leNat q.data)]) none)
      ∧ (q.data = [] → Claims.Replied t u q.seq none (some q.va))

/-- The home serves an atomic, or finds its word poisoned, and the reply arrives. -/
def Obligations.AtomicsComplete : Prop := Claims.AtomicsServe ∧ Claims.AtomicsPoisoned ∧ Claims.AtomicReplyArrives

/-! ## Fences, barriers, row operations -/

namespace Sys2Proof.Claims

/-- The instruction waits for other threads of the row, of the workgroup or of the team only, and thread t, live, is filed once. -/
structure Together (s : State) (t : Thread) (w : Workgroup) : Prop where
  keyed    : s.Keyed
  resident : s.thread t.ref = some t ∧ s.wgOf t.ref = some w ∧ t.exited = false ∧ t.saved = false
  proper   : ∀ u ∈ s.live t.ref.wg, u.ref.tid < 512
/-- What a participant in column x writes, from the participants P of a row of width w (R190-R194). -/
def RowWrites (i : Instr) (P : Row) (w x : Nat) (t u : Thread) : Prop :=
  let mask := fun (vd : VReg) (q : Nat × Thread → Prop) =>
    ∃ m : DWord, u = t.setPair vd.toNat m ∧ ∀ y, y < 64 → (m.getLsbD y = true ↔ ∃ e ∈ P, e.1 = y ∧ q e)
  let source := fun (vd va : VReg) (y : Nat) => (∀ e ∈ P, e.1 = y → u = t.setV vd.toNat (e.2.getV va.toNat))
    ∧ ((∀ e ∈ P, e.1 ≠ y) → u = t.setV vd.toNat (t.getV va.toNat))
  let c := fun (vd : VReg) => (t.getV vd.toNat).toNat
  let count := fun (q : Nat × Thread → Bool) => (P.filter q).length
  match i with
  | .voteEvery vd _ pp => ((∀ e ∈ P, e.2.getP pp = true) → u = t.setV vd.toNat 1) ∧ ((∃ e ∈ P, e.2.getP pp = false) → u = t.setV vd.toNat 0)
  | .voteSome vd _ pp => ((∃ e ∈ P, e.2.getP pp = true) → u = t.setV vd.toNat 1) ∧ ((∀ e ∈ P, e.2.getP pp = false) → u = t.setV vd.toNat 0)
  | .voteMask vd _ pp => mask vd (fun e => e.2.getP pp = true)
  | .voteCount vd _ pp => u = t.setV vd.toNat (BitVec.ofNat 32 (count (fun e => e.2.getP pp)))
  | .shflAt vd va _ => source vd va (c vd % w)
  | .shflRot vd va _ => source vd va ((x + c vd) % w)
  | .shflRev vd va _ => ∀ y, y < w → ((y : Int) - ((c vd : Int) - x)) % w = 0 → source vd va y
  | .shflSwap vd va _ => source vd va ((x ^^^ c vd) % w)
  | .matchSame vd va _ => mask vd (fun e => e.2.getV va.toNat = t.getV va.toNat)
  | .matchUnif vd va _ => ((∀ e ∈ P, e.2.getV va.toNat = t.getV va.toNat) → mask vd (fun _ => True))
      ∧ ((∃ e ∈ P, e.2.getV va.toNat ≠ t.getV va.toNat) → u = t.setPair vd.toNat 0)
  | .confd vd va _ => mask vd (fun e => e.1 < x ∧ e.2.getV va.toNat = t.getV va.toNat)
  | .cmpk vd _ pp => u = t.setV vd.toNat (BitVec.ofNat 32 (if t.getP pp then count (fun e => decide (e.1 < x) && e.2.getP pp)
      else count (fun e => e.2.getP pp) + count (fun e => decide (e.1 < x) && !e.2.getP pp)))
  | .matchLead vd va _ => ∃ y, u = t.setV vd.toNat (BitVec.ofNat 32 y) ∧ (∃ e ∈ P, e.1 = y ∧ e.2.getV va.toNat = t.getV va.toNat)
      ∧ ∀ e ∈ P, e.2.getV va.toNat = t.getV va.toNat → y ≤ e.1
  | _ => False

end Sys2Proof.Claims

/-- R175, R222, R289, R293, R310: a fence of a scope wider than the core writes back the core's release set if it releases, and if
it acquires has the promoted cores do so and discards its clean and FFU lines; a narrower one only goes on. FENCE.PATH and OPRDY
drain the 16-byte blocks that the thread has stored to, OPRDY those of its own core's slice; threads see what they saw (R164). -/
def Sys2Proof.Claims.Fences : Prop :=
  ∀ (s : State) (t : Thread) (w : Workgroup), s.Issues [t] →
    (∀ (kind : FenceKind) (scope : Scope), s.Runs (.fence kind scope) t w →
      ∃ n, exec (.fence kind scope) s = .next n ∧ n.thread t.ref = some t.advance ∧ Claims.SameButCores s n t ∧ n.reqs = s.reqs
        ∧ (scope ≠ .cluster → scope ≠ .device → scope ≠ .system → n = (s.onThread t.ref Thread.advance).over)
        ∧ ((scope = .cluster ∨ scope = .device ∨ scope = .system) → kind ≠ .acquire → (n.core w.core).release = [])
        ∧ ((scope = .cluster ∨ scope = .device ∨ scope = .system) → kind ≠ .release →
            (n.core w.core).clean = [] ∧ (n.core w.core).ffu = [] ∧ (n.core w.core).promote = 0
            ∧ ∀ c, c < 256 → (s.core w.core).promote.getLsbD c = true → (n.core c).release = []))
    ∧ (∀ i, (i = .fencePath ∨ i = .oprdy) → s.Runs i t w →
      ∃ n, exec i s = .next n ∧ n.thread t.ref = some t.advance ∧ n.mem = s.mem ∧ n.reqs = s.reqs ∧ n.wgs = s.wgs
        ∧ (∀ r, refKey r ≠ refKey t.ref → n.thread r = s.thread r) ∧ (∀ a, n.nearSeen a = s.nearSeen a)
        ∧ (∀ a, match Tbl.find s.merge a with
            | some (b, ws) => ((∃ x ∈ s.merge, x.1 / 16 = a / 16 ∧ refKey t.ref ∈ x.2.2 ∧ (i = .fencePath ∨ a / 2 ^ 19 = w.core)) →
                  n.nearByte a = b ∧ Tbl.find n.merge a = none)
                ∧ ((¬ ∃ x ∈ s.merge, x.1 / 16 = a / 16 ∧ refKey t.ref ∈ x.2.2 ∧ (i = .fencePath ∨ a / 2 ^ 19 = w.core)) →
                  n.nearByte a = s.nearByte a ∧ Tbl.find n.merge a = some (b, ws))
            | none => n.nearByte a = s.nearByte a ∧ Tbl.find n.merge a = none))

/-- R177, R178: BAR n makes the thread wait as arrived at n, until all live threads of the workgroup have arrived there: then the
phase of n flips and all of them go on. -/
def Sys2Proof.Claims.Barriers : Prop :=
  ∀ (s : State) (t : Thread) (w : Workgroup) (n : BitVec 2), s.Issues [t] → s.Runs (.bar n) t w → Claims.Together s t w →
    t.bars = 0 → t.rebars = 0 →
    ((∃ u ∈ s.live t.ref.wg, u.ref ≠ t.ref ∧ u.bars = 0 ∧ u.stall = .none) →
      exec (.bar n) s = .next (s.onThread t.ref (fun u => { u.park (.barrier n) with bars := 1#4 <<< n.toNat })).over)
    ∧ ((∀ u ∈ s.live t.ref.wg, u.ref ≠ t.ref → u.bars = 1#4 <<< n.toNat ∧ u.stall = .barrier n) →
      ∃ m, exec (.bar n) s = .next m ∧ m.wg t.ref.wg = some { w with phases := w.phases ^^^ (1#4 <<< n.toNat) }
        ∧ (∀ u ∈ s.live t.ref.wg, m.thread u.ref = some ({ u with bars := 0 } : Thread).advance)
        ∧ (∀ g, g ≠ t.ref.wg → m.wg g = s.wg g) ∧ m.mem = s.mem ∧ m.near = s.near ∧ m.cores = s.cores)

/-- R180, R181: TBAR with an invalid team takes the team trap. In a team whose one workgroup member is this workgroup, its threads
wait until all live ones have come; then all go on, pd true as the last arrival's. In a team of two workgroups, the first to arrive waits;
with the second the threads of both go on, pd true in those of the member that arrived last, or in a deterministic launch of the one with
the higher logical index. -/
def Sys2Proof.Claims.TeamBarriers : Prop :=
  ∀ (s : State) (t : Thread) (w : Workgroup) (pd : PReg) (k : BitVec 2), s.Issues [t] → s.Runs (.tbar pd k) t w → Claims.Together s t w →
    ((w.team k.toNat).getLsbD 31 = false → exec (.tbar pd k) s = .next (s.trapWord t 0x0C 0).finish)
    ∧ (∀ (l : Launch) (m : MemberWord), (w.team k.toNat).getLsbD 31 = true → s.launchOf w = some l →
      Tbl.get [] l.teams (teamIndex (w.team k.toNat)) = [m] → m.kind = 0 → m.dev = s.mgmt.orbitDev.toNat → m.index = w.log →
      s.resident w.launch w.log = some t.ref.wg → l.retired = [] →
      Tbl.find s.teamBars (teamKey w.launch (teamIndex (w.team k.toNat))) = none →
      ((∃ u ∈ s.live t.ref.wg, u.ref ≠ t.ref ∧ u.stall = .none) →
        ∃ n, exec (.tbar pd k) s = .next n ∧ n.thread t.ref = some (t.park (.team k pd)) ∧ Claims.SameButCores s n t
          ∧ n.cores = s.cores)
      ∧ ((∀ u ∈ s.live t.ref.wg, u.ref ≠ t.ref → u.stall = .team k pd) →
        ∃ n, exec (.tbar pd k) s = .next n
          ∧ (∀ u ∈ s.live t.ref.wg, n.thread u.ref = some (if pd = 0 then u else { u with p := u.p ||| (1#8 <<< pd.toNat) }).advance)
          ∧ n.mem = s.mem ∧ n.near = s.near ∧ n.wgs = s.wgs ∧ (n.core w.core).clean = [] ∧ (n.core w.core).release = []))
    ∧ (∀ (l : Launch) (m m' : MemberWord) (g' : Nat) (w' : Workgroup), (w.team k.toNat).getLsbD 31 = true → s.launchOf w = some l →
      Tbl.get [] l.teams (teamIndex (w.team k.toNat)) = [m, m'] → (∀ x ∈ [m, m'], x.kind = 0 ∧ x.dev = s.mgmt.orbitDev.toNat) →
      m.index = w.log → m'.index ≠ w.log → s.resident w.launch w.log = some t.ref.wg → s.resident w.launch m'.index = some g' →
      g' ≠ t.ref.wg → s.wg g' = some w' → l.retired = [] → (∀ u ∈ s.live t.ref.wg, u.ref ≠ t.ref → u.stall = .team k pd) →
      (Tbl.find s.teamBars (teamKey w.launch (teamIndex (w.team k.toNat))) = none →
        (∃ u ∈ s.live g', u.stall = .none) →
        ∃ n, exec (.tbar pd k) s = .next n ∧ n.thread t.ref = some (t.park (.team k pd)) ∧ Claims.SameButCores s n t
          ∧ n.cores = s.cores)
      ∧ (∀ (k' : BitVec 2) (pd' : PReg), teamIndex (w'.team k'.toNat) = teamIndex (w.team k.toNat) →
        Tbl.find s.teamBars (teamKey w.launch (teamIndex (w.team k.toNat))) = some { arrived := [m'.index], owed := [] } →
        (∀ u ∈ s.live g', u.stall = .team k' pd') →
        let mine := if 1 ≤ l.det then decide (m'.index < w.log) else true
        ∃ n, exec (.tbar pd k) s = .next n ∧ (∀ u ∈ s.live t.ref.wg, n.thread u.ref = some (u.setP pd mine).advance)
          ∧ (∀ u ∈ s.live g', n.thread u.ref = some (u.setP pd' (!mine)).advance)
          ∧ n.mem = s.mem ∧ n.near = s.near ∧ n.wgs = s.wgs
          ∧ (∀ c, (c = w.core ∨ c = w'.core) → (n.core c).release = [])))

/-- Fences, the barriers of a workgroup and those of a team. -/
def Obligations.FencesAndBarriers : Prop := Claims.Fences ∧ Claims.Barriers ∧ Claims.TeamBarriers

/-- R184, R185, R186, R190, R191, R192, R193, R194: a thread at a row operation whose mask leaves its own column out takes the row
trap, cause 1; with a participant still to come it waits; with the last participant all of them write their results and go on. Where every
live thread of the row waits and no operation can complete, all of them take the trap, cause 2; one that arrives where threads of its row
wait with another effective mask takes it with those, cause 3. -/
def Obligations.RowOperations : Prop :=
  ∀ (s : State) (t : Thread) (w : Workgroup) (i : Instr) (sm : SPair), s.Issues [t] → s.Runs i t w → Claims.Together s t w →
    rowMaskOf i = some sm → 0 < w.width → w.width ≤ 64 → (∀ j m, t.stall ≠ .row j m) →
    let mask := w.sPair sm
    let row := s.rowThreads t.ref.wg w (w.row t.ref.tid)
    let P := row.filter (fun e => mask.getLsbD e.1)
    (mask.getLsbD (w.column t.ref.tid) = false → exec i s = .next (s.trapWord t 0x0D 1).finish)
    ∧ (mask.getLsbD (w.column t.ref.tid) = true → (∀ e ∈ row, ∀ j m, e.2.stall ≠ .row j m) → (∃ e ∈ P, e.2.ref ≠ t.ref) →
      exec i s = .next (s.onThread t.ref (fun u => u.park (.row i mask))).over)
    ∧ (mask.getLsbD (w.column t.ref.tid) = true →
      (∀ e ∈ P, e.2.ref ≠ t.ref → e.2.pc = t.pc ∧ e.2.stall = .row i mask) →
      (∀ e ∈ row, mask.getLsbD e.1 = false → ∀ j m, e.2.stall ≠ .row j m) →
      ∃ n, exec i s = .next n
        ∧ (∀ e ∈ P, ∃ u, Claims.RowWrites i P w.width e.1 e.2 u ∧ n.thread e.2.ref = some u.advance)
        ∧ (∀ r, (∀ e ∈ P, refKey e.2.ref ≠ refKey r) → n.thread r = s.thread r)
        ∧ n = { s with threads := n.threads, issue := none })
    ∧ (let after := s.onThread t.ref (fun u => u.park (.row i mask))
      let row' := after.rowThreads t.ref.wg w (w.row t.ref.tid)
      mask.getLsbD (w.column t.ref.tid) = true →
      (∀ e ∈ row, e.2.pc = t.pc → ∀ j m, e.2.stall = .row j m → effective row m = effective row mask) →
      (∀ u ∈ s.live t.ref.wg, w.row u.ref.tid = w.row t.ref.tid → u.ref ≠ t.ref → ∃ j m, u.stall = .row j m) →
      (∀ e ∈ row', rowReady row' e.2 = false) →
      ∃ m : State, exec i s = .next m.finish ∧ m = { s with threads := m.threads, traps := m.traps }
        ∧ (∀ r, (∃ q ∈ m.traps, q.thread = r) ↔ ∃ e ∈ row, e.2.ref = r) ∧ ∀ q ∈ m.traps, q.cls = 0x0D ∧ q.detail = 2)
    ∧ (mask.getLsbD (w.column t.ref.tid) = true →
      (∃ e ∈ row, e.2.pc = t.pc ∧ ∃ j m, e.2.stall = .row j m ∧ effective row m ≠ effective row mask) →
      ∃ m : State, exec i s = .next m.finish ∧ m = { s with traps := m.traps }
        ∧ (∀ r, (∃ q ∈ m.traps, q.thread = r) ↔ r = t.ref ∨ ∃ e ∈ row, e.2.ref = r ∧ e.2.pc = t.pc ∧ ∃ j m, e.2.stall = .row j m)
        ∧ ∀ q ∈ m.traps, q.cls = 0x0D ∧ q.detail = 3)

/-! ## Asynchronous operations -/

namespace Sys2Proof.Claims

/-- Operation number `id` has been issued for the threads ts of workgroup w, which go on (R35, R37, R196). -/
structure OpStarted (s n : State) (ts : List Thread) (w : Workgroup) (i : Instr) (hd : HReg) (tag : Tag) (id : Nat) : Prop where
  op      : ∃ op, Tbl.find n.ops id = some op ∧ op.instr = i ∧ op.core = w.core ∧ op.tag = some tag
  threads : ∀ t ∈ ts, ∃ u, n.thread t.ref = some u ∧ u.pc = t.pc + 4 ∧ u.stall = .none ∧ u.v = t.v ∧ u.p = t.p
              ∧ u.getH hd = .pending id ∧ (∀ k, k ≠ hd → u.getH k = t.getH k) ∧ id ∈ u.ops
              ∧ u.outLd = t.outLd ∧ u.outSt = t.outSt ∧ ∃ c, (t.batch, c + 1) ∈ u.batches
  others  : ∀ r, (∀ t ∈ ts, refKey t.ref ≠ refKey r) → n.thread r = s.thread r
  tag     : (n.core w.core).tag tag.toNat = { count := ((s.core w.core).tag tag.toNat).count + 1, clear := false }
  memory  : n.mem = s.mem ∧ n.near = s.near ∧ n.wgs = s.wgs
/-- An operation has completed with a status: its handles say so, its tag's count falls, and an issuing thread goes on only where
it waits at TWANY or TWALL for what the tags now show (R35, R197, R210). -/
structure Completes (s n : State) (id : Nat) (op : Op) (status : Byte) : Prop where
  over_   : Tbl.find n.ops id = none
  handles : ∀ l e t, op.issuer = .threads l → e ∈ l → s.thread e.1 = some t → ∃ u, n.thread e.1 = some u ∧ u.v = t.v ∧ u.p = t.p
              ∧ (if op.tag.isSome = true ∧ (s.wgOf t.ref).map (·.core) = some op.core ∧ t.tagsMet (n.core op.core).tagBits = true
                  then u.pc = t.pc + 4 ∧ u.stall = .none else u.pc = t.pc ∧ u.stall = t.stall)
              ∧ (∀ k, t.getH k = .pending id → u.getH k = .done status)
              ∧ (∀ k, t.getH k ≠ .pending id → u.getH k = t.getH k) ∧ id ∉ u.ops
  tag     : ∀ k, op.tag = some k →
              (n.core op.core).tag k.toNat = { count := ((s.core op.core).tag k.toNat).count - 1, clear := false }
/-- The bytes of a memory from a on become bs, and the others stay. -/
def Writes (m m' : Memory) (a : Nat) (bs : List Byte) : Prop :=
  ∀ j, Memory.read m' j = if a ≤ j ∧ j < a + bs.length then bs.getD (j - a) 0 else Memory.read m j
/-- The near bytes from a key on become bs, for threads and for engines; threads see the others as they were, and engines too,
but for those of the same 16-byte blocks, which come with what threads had stored there (R164). -/
structure NearWrites (s n : State) (key : Nat) (bs : List Byte) : Prop where
  threads : ∀ a, n.nearSeen a = if key ≤ a ∧ a < key + bs.length then bs.getD (a - key) 0 else s.nearSeen a
  engines : ∀ k, k < bs.length → n.nearByte (key + k) = bs.getD k 0
  others  : ∀ a, (a < key / 16 * 16 ∨ (key + bs.length + 15) / 16 * 16 ≤ a) → n.nearByte a = s.nearByte a
/-- The words that read a block and check it (R216): handle, tag, address register, block size, checks. -/
structure BlockWord where
  hd    : HReg
  tag   : Tag
  sp    : SPair
  va    : VReg
  size  : Nat
  check : State → Op → Workgroup → MxIssue
def blockWord (i : Instr) (target : Nat) : Option BlockWord :=
  match i with
  | .old hd tag sp va slot => some ⟨hd, tag, sp, va, 16, oldCheck slot⟩
  | .mma hd tag sp va ov => some ⟨hd, tag, sp, va, 32, mmaCheck none ov⟩
  | .mmas hd tag sp va ov n => some ⟨hd, tag, sp, va, 32, mmaCheck (some (sparseKeep n)) ov⟩
  | .mv hd tag sp va tile _ => some ⟨hd, tag, sp, va, 32, fun _ op w => mvCheck tile target op w⟩
  | .accld hd tag sp va => some ⟨hd, tag, sp, va, 16, accCheck .ld⟩
  | .accst hd tag sp va => some ⟨hd, tag, sp, va, 16, accCheck .st⟩
  | .acz hd tag sp va => some ⟨hd, tag, sp, va, 16, accCheck .z⟩
  | .scacc hd tag va code => some ⟨hd, tag, 0, va, 16, scaccCheck code⟩
  | .nprune hd tag va n => some ⟨hd, tag, 0, va, 32, pruneCheck (some (sparseKeep n))⟩
  | _ => none
/-- The bytes of a checked side of a copy, and its bytes written. -/
def sideBytes (s : State) (x : Side) (n : Nat) : List Byte :=
  match x with
  | .near key => s.nearRead key n
  | .global _ x => s.memRead x.pa n
def sidePoisoned (s : State) (x : Side) (n : Nat) : Bool :=
  match x with
  | .near key => s.nearPoisoned key n
  | .global _ x => x.poison || s.memPoisoned x.pa n
def SideWritten (s n : State) (x : Side) (bs : List Byte) : Prop :=
  match x with
  | .near key => NearWrites s n key bs ∧ n.mem = s.mem
  | .global _ x => Writes s.mem n.mem x.pa bs ∧ n.near = s.near

end Sys2Proof.Claims

/-- R35, R37, R196, R199, R202, R203: a CPY or CPYQ in each lane, and CBOOK once for a workgroup, starts an operation: hd becomes
PENDING, the tag's count grows, the open batch holds it, and the threads go on. -/
def Sys2Proof.Claims.CopiesIssue : Prop :=
  (∀ (s : State) (t : Thread) (w : Workgroup) (hd : HReg) (tag : Tag) (sp : SPair) (va : VReg) (dir : CpyDir) (sz : VecSize), s.Issues [t] →
    s.Runs (.cpy hd tag sp va dir sz) t w →
    ∃ n, exec (.cpy hd tag sp va dir sz) s = .next n ∧ Claims.OpStarted s n [t] w (.cpy hd tag sp va dir sz) hd tag s.nextId)
  ∧ (∀ (s : State) (t : Thread) (w : Workgroup) (hd : HReg) (tag : Tag) (sp : SPair) (va : VReg) (idx8 : Bool) (k : BitVec 2),
    s.Issues [t] → s.Runs (.cpyq hd tag sp va idx8 k) t w →
    (((s.core w.core).book k.toNat).owner = some t.ref.wg →
      ∃ n, exec (.cpyq hd tag sp va idx8 k) s = .next n ∧ Claims.OpStarted s n [t] w (.cpyq hd tag sp va idx8 k) hd tag s.nextId)
    ∧ (((s.core w.core).book k.toNat).owner ≠ some t.ref.wg →
      exec (.cpyq hd tag sp va idx8 k) s = .next (s.trapWord t 0x10 0).finish))
  ∧ (∀ (s : State) (ts : List Thread) (t : Thread) (w : Workgroup) (hd : HReg) (tag : Tag) (sp : SPair) (vec : VecSize) (k : BitVec 2),
    s.Elects (.cbook hd tag sp vec k) ts t w →
    ∃ n, exec (.cbook hd tag sp vec k) s = .next n ∧ Claims.OpStarted s n ts w (.cbook hd tag sp vec k) hd tag s.nextId)
  ∧ (∀ (s : State) (ts : List Thread) (t : Thread) (w : Workgroup) (hd : HReg) (tag : Tag) (sp : SPair) (va : VReg) (near : Bool)
      (key target : Nat), s.Elects (.cpym hd tag sp va near) ts t w →
    s.checkNear t.ref.wg t.handler (t.getV va.toNat) 32 32 = .ok (key, target) → s.nearPoisoned key 32 = false →
    let b := s.nearLoad key 32
    let m := w.team (bytesAt b 24 1 % 4)
    (m.getLsbD 31 = true → s.cpymOk t.ref.wg t.handler (s.teamWords w m).length b = true →
      ∃ n, exec (.cpym hd tag sp va near) s = .next n ∧ Claims.OpStarted s n ts w (.cpym hd tag sp va near) hd tag s.nextId))

/-- R196, R213, R215, R216, R217, R218, R223, R227, R228: a matrix or MV word whose block passes the checks of R216 starts an
operation for the workgroup; one whose block fails the first stage completes at once with PARAM. -/
def Sys2Proof.Claims.MatrixIssue : Prop :=
  ∀ (s : State) (ts : List Thread) (t : Thread) (w : Workgroup) (i : Instr) (key target : Nat) (x : Claims.BlockWord), s.Elects i ts t w →
    Claims.blockWord i target = some x →
    s.checkNear t.ref.wg t.handler (t.getV x.va.toNat) x.size 16 = .ok (key, target) → s.nearPoisoned key x.size = false →
    let op := { s.threadOp i t w x.sp with block := s.nearLoad key x.size, args := [BitVec.ofNat 32 key] }
    (∀ op', x.check s op w = .go op' →
      ∃ n, exec i s = .next n ∧ Claims.OpStarted s n ts w i x.hd x.tag s.nextId
        ∧ (∀ hd tag sp va slot, i = .old hd tag sp va slot → ((n.core w.core).slot slot.toNat).state = .filling t.ref.wg s.nextId))
    ∧ (x.check s op w = .param → (∀ u ∈ ts, ∀ k, u.getH k ≠ .pending s.nextId) →
      ∃ n, exec i s = .next n ∧ Tbl.find n.ops s.nextId = none
        ∧ (∀ u ∈ ts, ∃ u', n.thread u.ref = some u' ∧ u'.pc = u.pc + 4 ∧ u'.v = u.v ∧ u'.getH x.hd = .done 0x0A
            ∧ ∀ k, k ≠ x.hd → u'.getH k = u.getH k)
        ∧ (n.core w.core).tag x.tag.toNat = { count := ((s.core w.core).tag x.tag.toNat).count, clear := false }
        ∧ n.mem = s.mem)

/-- Asynchronous operations are issued. -/
def Obligations.OperationsIssue : Prop := Claims.CopiesIssue ∧ Claims.MatrixIssue

/-- R230: CMPK.SPARSE waits for its count pass; a pass that finds no overflow issues the operation and lets the threads go on. -/
def Sys2Proof.Claims.CountPass : Prop :=
  (∀ (s : State) (ts : List Thread) (t : Thread) (w : Workgroup) (hd : HReg) (tag : Tag) (va : VReg) (key target : Nat) (op' : Op),
    s.Elects (.cmpkSparse hd tag va) ts t w → s.checkNear t.ref.wg t.handler (t.getV va.toNat) 32 16 = .ok (key, target) →
    s.nearPoisoned key 32 = false →
    let op := { s.threadOp (.cmpkSparse hd tag va) t w 0 with block := s.nearLoad key 32, pa := (t.getV va.toNat).toNat }
    pruneCheck none s op w = .go op' →
    ∃ n o, exec (.cmpkSparse hd tag va) s = .next n ∧ Tbl.find n.ops s.nextId = some o ∧ o.phase = 4 ∧ o.instr = .cmpkSparse hd tag va
      ∧ (∀ u ∈ ts, n.thread u.ref = some (u.park (.request s.nextId))) ∧ n.cores = s.cores
      ∧ (∀ r, (∀ u ∈ ts, refKey u.ref ≠ refKey r) → n.thread r = s.thread r) ∧ n.mem = s.mem ∧ n.near = s.near ∧ n.wgs = s.wgs)
  ∧ (∀ (s : State) (id : Nat) (op : Op) (t : Thread) (w : Workgroup) (hd : HReg) (tag : Tag) (va : VReg) (rows : List (List (Nat × Nat))) (nv : Bool),
    Tbl.find s.ops id = some op → op.phase = 4 → op.instr = .cmpkSparse hd tag va → op.hd = some [(t.ref, hd)] → op.issuer = .threads [] →
    op.core = w.core → s.thread t.ref = some t → s.wgOf t.ref = some w → s.traps = [] → id ≠ s.nextId → t.active = false →
    s.sparseRows op = .ok (rows, nv) → (rows.map List.length).foldl (· + ·) 0 ≤ min (bytesAt op.block 24 4) 65536 →
    ∃ n, exec (.cmpkSparseCountPass id) s = .next n ∧ Claims.OpStarted s n [t] w (.cmpkSparse hd tag va) hd tag s.nextId
      ∧ Tbl.find n.ops id = none)

/-- R197, R198, R199, R200: a CPY with which no other item has merged, whose sides pass their checks and are not poisoned, copies
its bytes, changes no other byte of memory and completes OK; a poisoned source completes POISON, and one cancelled before it started
CANCELLED, with nothing written. Items that have merged complete together. -/
def Sys2Proof.Claims.CopyCompletes : Prop :=
  ∀ (s : State) (id : Nat) (op : Op) (hd : HReg) (tag : Tag) (sp : SPair) (va : VReg) (dir : CpyDir) (sz : VecSize) (src dst : Side),
    Tbl.find s.ops id = some op → op.instr = .cpy hd tag sp va dir sz →
    (∃ n, exec (.copyItemCompletion id) s = .next n ∧ ∀ e ∈ s.copyGroup id op dir, Tbl.find n.ops e.1 = none)
    ∧ (s.copyGroup id op dir = [(id, op)] → op.canceled = true →
      ∃ n, exec (.copyItemCompletion id) s = .next n ∧ Claims.Completes s n id op 0x01 ∧ n.mem = s.mem ∧ n.near = s.near)
    ∧ (s.copyGroup id op dir = [(id, op)] → op.canceled = false → s.copySide op (dir == .ng || dir == .nn) (op.args.getD 0 0) (vecBytes sz) false = .ok src →
      s.copySide op (dir == .gn || dir == .nn) (op.args.getD 1 0) (vecBytes sz) true = .ok dst →
      (Claims.sidePoisoned s src (vecBytes sz) = false →
        ∃ n, exec (.copyItemCompletion id) s = .next n ∧ Claims.Completes s n id op 0x00
          ∧ Claims.SideWritten s n dst (Claims.sideBytes s src (vecBytes sz)))
      ∧ (Claims.sidePoisoned s src (vecBytes sz) = true →
        ∃ n, exec (.copyItemCompletion id) s = .next n ∧ Claims.Completes s n id op 0x06 ∧ n.mem = s.mem ∧ n.near = s.near))

/-- R43, R203: a CPYQ whose source and destination pass their checks writes the entry of the table that its index names, verbatim, at the
near destination and completes OK; a poisoned source completes POISON, a destination that fails with its code, and one cancelled before it
started CANCELLED, with nothing written. -/
def Sys2Proof.Claims.QuantCompletes : Prop :=
  ∀ (s : State) (id : Nat) (op : Op) (hd : HReg) (tag : Tag) (sp : SPair) (va : VReg) (idx8 : Bool) (k : BitVec 2),
    Tbl.find s.ops id = some op → op.instr = .cpyq hd tag sp va idx8 k → s.tableFree id op (loadsTable k) = true →
    let book := (s.core op.core).book k.toNat
    let src := op.args.getD 0 0
    let a := op.base + BitVec.ofNat 64 (if idx8 = true then src.toNat else src.toNat / 2)
    let ends := fun (status : Byte) => ∃ n, exec (.copyItemCompletion id) s = .next n ∧ Claims.Completes s n id op status ∧ n.mem = s.mem
      ∧ n.near = s.near
    (op.canceled = true → ends 0x01)
    ∧ (op.canceled = false → fieldOf a 63 56 ≠ 0 → ends 0x04)
    ∧ (∀ x, op.canceled = false → s.sideGlobal op a 1 false = .ok x →
      (Claims.sidePoisoned s x 1 = true → ends 0x06)
      ∧ (Claims.sidePoisoned s x 1 = false →
        (∀ e, s.checkNear op.wg op.quiet (op.args.getD 1 0) book.vec book.vec = .error e → ends e.status)
        ∧ (∀ key target, s.checkNear op.wg op.quiet (op.args.getD 1 0) book.vec book.vec = .ok (key, target) →
          let b := ((Claims.sideBytes s x 1).getD 0 0).toNat
          let e := if idx8 = true then b else if src.toNat % 2 = 0 then b % 16 else b / 16
          book.damaged.contains (e * book.vec / 128) = false →
          ∃ n, exec (.copyItemCompletion id) s = .next n ∧ Claims.Completes s n id op 0x00 ∧ n.mem = s.mem
            ∧ Claims.NearWrites s n key ((List.range book.vec).map (fun j => book.byte (e * book.vec + j))))))

/-- R202, R207, R208: CBOOK fills the table it names and owns it; a line of a CPYM reaches a live member's allocation, and
TARGET_GONE is the status of a member whose allocation is another, or whose save has begun; a CPYM
of which every member has all lines completes OK, MEMBER_FAIL where
a member failed, and the code of the source where the source failed (R207). -/
def Sys2Proof.Claims.CodebookAndMulticast : Prop :=
  (∀ (s : State) (id : Nat) (op : Op) (hd : HReg) (tag : Tag) (sp : SPair) (vec : VecSize) (k : BitVec 2) (bs : List Byte) (s' : State),
    Tbl.find s.ops id = some op → op.instr = .cbook hd tag sp vec k → op.canceled = false →
    s.tableFree id op (fun i => loadsTable k i || readsTable k i) = true → ((s.core op.core).book k.toNat).owner = none →
    op.base.toNat % 128 = 0 → s.readVa op.part (some op.core) op.base (256 * vecBytes vec) = .ok (bs, s') → bs.length = 256 * vecBytes vec →
    ∃ n, exec (.codebookLoadCompletion id) s = .next n ∧ Claims.Completes s n id op 0x00 ∧ n.mem = s.mem ∧ n.near = s.near
      ∧ ((n.core op.core).book k.toNat).owner = some op.wg ∧ ((n.core op.core).book k.toNat).vec = vecBytes vec
      ∧ ∀ j, j < 256 * vecBytes vec → ((n.core op.core).book k.toNat).byte j = bs.getD j 0)
  ∧ (∀ (s : State) (id member : Nat) (op : Op) (hd : HReg) (tag : Tag) (sp : SPair) (va : VReg) (m : MemberSt) (w : Workgroup) (key target : Nat),
    Tbl.find s.ops id = some op → op.instr = .cpym hd tag sp va true → op.members = [m] → m.index = member → m.status = 0x00 →
    m.next < cpymLines op.block → op.canceled = false → op.rows = [] →
    s.checkNear op.wg op.quiet (BitVec.ofNat 32 (cpymSrc op.block)) (cpymLen op.block) 16 = .ok (key, target) →
    s.nearPoisoned (key + 128 * m.next) (min 128 (cpymLen op.block - 128 * m.next)) = false →
    s.wg m.wg = some w → w.gen = m.gen → w.epoch = m.epoch → w.preempt = none →
    ∃ n, exec (.cpymLineDelivery id member) s = .next n ∧ n.mem = s.mem
      ∧ Claims.NearWrites s n (m.dst + 128 * m.next) (s.nearRead (key + 128 * m.next) (min 128 (cpymLen op.block - 128 * m.next)))
      ∧ ∃ o, Tbl.find n.ops id = some o ∧ o.members = [{ m with next := m.next + 1 }])
  ∧ (∀ (s : State) (id member : Nat) (op : Op) (hd : HReg) (tag : Tag) (sp : SPair) (va : VReg) (m : MemberSt) (bs : List Byte) (s' : State),
    Tbl.find s.ops id = some op → op.instr = .cpym hd tag sp va false → op.members = [m] → m.index = member → m.status = 0x00 →
    m.next < cpymLines op.block → op.canceled = false → op.rows = [] →
    let a := op.base + BitVec.ofNat 64 (cpymSrc op.block + 128 * m.next)
    a.toNat % 16 = 0 → s.readVa op.part (some op.core) a (min 128 (cpymLen op.block - 128 * m.next)) = .ok (bs, s') →
    (∀ w, s.wg m.wg = some w → w.gen = m.gen → w.epoch = m.epoch → w.preempt = none →
      ∃ n o, exec (.cpymLineDelivery id member) s = .next n ∧ n.mem = s.mem ∧ Claims.NearWrites s n (m.dst + 128 * m.next) bs
        ∧ Tbl.find n.ops id = some o ∧ o.members = [{ m with next := m.next + 1 }])
    ∧ ((s.wg m.wg = none ∨ ∃ w, s.wg m.wg = some w ∧ (w.gen ≠ m.gen ∨ w.epoch ≠ m.epoch ∨ ∃ p, w.preempt = some p ∧ p.taken = true)) →
      ∃ n o, exec (.cpymLineDelivery id member) s = .next n ∧ n.mem = s.mem ∧ n.near = s.near
        ∧ Tbl.find n.ops id = some o ∧ o.members = [{ m with status := 0x07 }]))
  ∧ (∀ (s : State) (id : Nat) (op : Op) (hd : HReg) (tag : Tag) (sp : SPair) (va : VReg) (near : Bool),
    Tbl.find s.ops id = some op → op.instr = .cpym hd tag sp va near → op.canceled = false → cpymStatv op.block = false →
    (∀ m ∈ op.members, m.status = 0x00 → cpymLines op.block ≤ m.next) → op.failed = 0 →
    ((∀ k, k < cpymLines op.block → (Tbl.find op.rows k).isSome = true) →
      ((∀ m ∈ op.members, m.status = 0x00) →
        ∃ n, exec (.cpymCompletion id) s = .next n ∧ Claims.Completes s n id op 0x00 ∧ n.mem = s.mem ∧ n.near = s.near)
      ∧ ((∃ m ∈ op.members, m.status ≠ 0x00 ∧ m.status ≠ 0x01) →
        ∃ n, exec (.cpymCompletion id) s = .next n ∧ Claims.Completes s n id op 0x0B ∧ n.mem = s.mem ∧ n.near = s.near))
    ∧ (∀ e, near = true → op.rows = [] → 0 < cpymLines op.block → (∃ m ∈ op.members, m.status ≠ 0x00) →
      s.checkNear op.wg op.quiet (BitVec.ofNat 32 (cpymSrc op.block)) (cpymLen op.block) 16 = .error e →
      ∃ n, exec (.cpymCompletion id) s = .next n ∧ Claims.Completes s n id op e.status ∧ n.mem = s.mem ∧ n.near = s.near))

/-- Copies, codebook loads and multicast copies are performed. -/
def Obligations.CopiesComplete : Prop := Claims.CopyCompletes ∧ Claims.QuantCompletes ∧ Claims.CodebookAndMulticast

/-- R35, R209, R211, R212: TWANY and TWALL go on once a tag of the mask, or every one, is set; TFFR gives the lowest set tag of the
mask, or 64; TCLR clears the bits of the mask's tags that are not pending; HCAN changes no register. -/
def Sys2Proof.Claims.TagWords : Prop :=
  ∀ (s : State) (t : Thread) (w : Workgroup) (va : VReg), s.Issues [t] →
    (∀ i, (i = .twany va ∨ i = .twall va) → s.Runs i t w →
      (s.tagsIn w (t.getPair va.toNat) = true → exec i s = .next (s.onThread t.ref Thread.advance).over)
      ∧ (s.tagsIn w (t.getPair va.toNat) = false → exec i s = .next (s.trapWord t 0x01 8).finish))
    ∧ (s.Runs (.twany va) t w → s.tagsIn w (t.getPair va.toNat) = true → t.getPair va.toNat ≠ 0 →
        ∃ k, k < 64 ∧ (t.getPair va.toNat).getLsbD k = true ∧ ((s.core w.core).tag k).bit = true)
    ∧ (s.Runs (.twall va) t w → s.tagsIn w (t.getPair va.toNat) = true →
        ∀ k, k < 64 → (t.getPair va.toNat).getLsbD k = true → ((s.core w.core).tag k).bit = true)
    ∧ (∀ vd, s.Runs (.tffr vd va) t w → s.tagsIn w (t.getPair va.toNat) = true →
      ∃ k, exec (.tffr vd va) s = .next (s.onThread t.ref (fun u => (u.setV vd.toNat (BitVec.ofNat 32 k)).advance)).over
        ∧ (k < 64 → (t.getPair va.toNat).getLsbD k = true ∧ ((s.core w.core).tag k).bit = true) ∧ k ≤ 64
        ∧ ∀ j, j < k → j < 64 → ¬ ((t.getPair va.toNat).getLsbD j = true ∧ ((s.core w.core).tag j).bit = true))
    ∧ (s.Runs (.tclr va) t w → s.tagsIn w (t.getPair va.toNat) = true →
      ∃ n, exec (.tclr va) s = .next n ∧ n.thread t.ref = some t.advance ∧ Claims.SameButCores s n t ∧ n.reqs = s.reqs
        ∧ (∀ k, k < 64 → (n.core w.core).tag k = if (t.getPair va.toNat).getLsbD k = true ∧ ((s.core w.core).tag k).count = 0
            then { count := 0, clear := true } else (s.core w.core).tag k)
        ∧ ∀ c, c ≠ w.core → n.core c = s.core c)
    ∧ (∀ hs, s.Runs (.hcan hs) t w →
      ∃ n, exec (.hcan hs) s = .next n ∧ n.thread t.ref = some t.advance ∧ n.mem = s.mem ∧ n.near = s.near ∧ n.cores = s.cores
        ∧ n.wgs = s.wgs ∧ (∀ r, refKey r ≠ refKey t.ref → n.thread r = s.thread r)
        ∧ (∀ o, t.getH hs ≠ .pending o → n = (s.onThread t.ref Thread.advance).over))

/-- R32, R213, R214, R215: OCLM claims slots that are all FREE at once, and waits in the core's queue otherwise; OREL frees the
workgroup's slots; naming a slot the workgroup owns already, or does not own, traps; a completed OLD fills its slot. -/
def Sys2Proof.Claims.SlotWords : Prop :=
  (∀ (s : State) (ts : List Thread) (t : Thread) (w : Workgroup) (mask : BitVec 8), s.Elects (.oclm mask) ts t w →
    (s.core w.core).claims = [] →
    ((∀ k, k < 8 → mask.getLsbD k = true → ((s.core w.core).slot k).state = .free) →
      ∃ n, exec (.oclm mask) s = .next n ∧ (∀ u ∈ ts, n.thread u.ref = some u.advance)
        ∧ (∀ k, k < 8 → ((n.core w.core).slot k).state = if mask.getLsbD k then .claimed t.ref.wg else ((s.core w.core).slot k).state)
        ∧ (n.core w.core).claims = [] ∧ n.mem = s.mem ∧ n.near = s.near ∧ n.wgs = s.wgs)
    ∧ ((∃ k, k < 8 ∧ mask.getLsbD k = true ∧ ((s.core w.core).slot k).state ≠ .free) →
      (∀ k, k < 8 → mask.getLsbD k = true → ((s.core w.core).slot k).owner ≠ some t.ref.wg) →
      ∃ n, exec (.oclm mask) s = .next n ∧ (∀ u ∈ ts, n.thread u.ref = some (u.park (.claim mask)))
        ∧ (n.core w.core).claims = [(t.ref.wg, mask, ts.map (·.ref))] ∧ (n.core w.core).slots = (s.core w.core).slots)
    ∧ ((∃ k, k < 8 ∧ mask.getLsbD k = true ∧ ((s.core w.core).slot k).owner = some t.ref.wg) → ts = [t] →
      exec (.oclm mask) s = .next (s.trapWord t 0x0E 0).finish))
  ∧ (∀ (s : State) (ts : List Thread) (t : Thread) (w : Workgroup) (mask : BitVec 8), s.Elects (.orel mask) ts t w →
    (s.core w.core).claims = [] →
    ((∀ k, k < 8 → mask.getLsbD k = true → ((s.core w.core).slot k).owner = some t.ref.wg) →
      ∃ n, exec (.orel mask) s = .next n ∧ (∀ u ∈ ts, n.thread u.ref = some u.advance)
        ∧ (∀ k, k < 8 → ((n.core w.core).slot k).state = if mask.getLsbD k then .free else ((s.core w.core).slot k).state)
        ∧ n.mem = s.mem ∧ n.near = s.near ∧ n.wgs = s.wgs)
    ∧ ((∃ k, k < 8 ∧ mask.getLsbD k = true ∧ ((s.core w.core).slot k).owner ≠ some t.ref.wg) → ts = [t] →
      exec (.orel mask) s = .next (s.trapWord t 0x0E 0).finish))
  ∧ (∀ (s : State) (id : Nat) (op : Op) (hd : HReg) (tag : Tag) (sp : SPair) (va : VReg) (slot : BitVec 3) (ls : List (List Byte)) (s' : State),
    Tbl.find s.ops id = some op → op.instr = .old hd tag sp va slot → op.canceled = false → op.torn = [] →
    (∀ e ∈ s.ops, e.1 < id → isOld e.2.instr = false) → ((s.core op.core).slot slot.toNat).state = .filling op.wg id →
    s.spansRead op (op.block.getD 8 0 == 1) ((List.range 64).map (fun i => (bytesAt op.block 0 4 + i * bytesAt op.block 4 4, 256)))
      = ([], ls, s') →
    ∃ n, exec (.slotFillCompletion id) s = .next n ∧ Claims.Completes s n id op 0x00 ∧ n.mem = s.mem ∧ n.near = s.near
      ∧ ((n.core op.core).slot slot.toNat).state = .ready op.wg
      ∧ ∀ k, k < 16384 → ((n.core op.core).slot slot.toNat).byte k = ls.flatten.getD k 0)

/-- R213, R214: with requests in the core's claim queue, whose head still waits, OCLM joins the queue at its end and waits, though its own
slots be free; naming a slot that the workgroup owns, or waits for already, traps. An OREL after which every slot of the head request is
FREE grants it: the slots become CLAIMED by its workgroup, and its threads go on; otherwise the queue stays as it is. -/
def Sys2Proof.Claims.ClaimQueue : Prop :=
  (∀ (s : State) (ts : List Thread) (t : Thread) (w : Workgroup) (mask : BitVec 8), s.Elects (.oclm mask) ts t w →
    (∀ g m refs rest, (s.core w.core).claims = (g, m, refs) :: rest →
      (∃ k, k < 8 ∧ m.getLsbD k = true ∧ ((s.core w.core).slot k).state ≠ .free) →
      (∀ k, k < 8 → mask.getLsbD k = true → ((s.core w.core).slot k).owner ≠ some t.ref.wg) →
      (∀ e ∈ (s.core w.core).claims, e.1 = t.ref.wg → ∀ k, k < 8 → ¬ (mask.getLsbD k = true ∧ e.2.1.getLsbD k = true)) →
      ∃ n, exec (.oclm mask) s = .next n ∧ (∀ u ∈ ts, n.thread u.ref = some (u.park (.claim mask)))
        ∧ (n.core w.core).claims = (s.core w.core).claims ++ [(t.ref.wg, mask, ts.map (·.ref))]
        ∧ (n.core w.core).slots = (s.core w.core).slots ∧ n.mem = s.mem ∧ n.near = s.near ∧ n.wgs = s.wgs)
    ∧ ((∃ k, k < 8 ∧ mask.getLsbD k = true ∧ (((s.core w.core).slot k).owner = some t.ref.wg
        ∨ ∃ e ∈ (s.core w.core).claims, e.1 = t.ref.wg ∧ e.2.1.getLsbD k = true)) → ts = [t] →
      exec (.oclm mask) s = .next (s.trapWord t 0x0E 0).finish))
  ∧ (∀ (s : State) (ts : List Thread) (t : Thread) (w : Workgroup) (mask m : BitVec 8) (g : Nat) (refs : List ThreadRef)
      (rest : List (Nat × BitVec 8 × List ThreadRef)), s.Elects (.orel mask) ts t w → (s.core w.core).claims = (g, m, refs) :: rest →
    (∀ k, k < 8 → mask.getLsbD k = true → ((s.core w.core).slot k).owner = some t.ref.wg) →
    let freed := fun (k : Nat) => if mask.getLsbD k then SlotState.free else ((s.core w.core).slot k).state
    ((∀ k, k < 8 → m.getLsbD k = true → freed k = .free) →
      (∀ x ∈ rest.head?, ∃ k, k < 8 ∧ x.2.1.getLsbD k = true ∧ (m.getLsbD k = true ∨ freed k ≠ .free)) →
      refs.Pairwise (fun a b => refKey a ≠ refKey b) → (∀ u ∈ ts, ∀ r ∈ refs, refKey u.ref ≠ refKey r) →
      ∃ n, exec (.orel mask) s = .next n ∧ (∀ u ∈ ts, n.thread u.ref = some u.advance)
        ∧ (∀ r ∈ refs, ∀ u, s.thread r = some u → n.thread r = some u.advance)
        ∧ (∀ k, k < 8 → ((n.core w.core).slot k).state = if m.getLsbD k then .claimed g else freed k)
        ∧ (n.core w.core).claims = rest ∧ n.mem = s.mem ∧ n.near = s.near ∧ n.wgs = s.wgs)
    ∧ ((∃ k, k < 8 ∧ m.getLsbD k = true ∧ freed k ≠ .free) →
      ∃ n, exec (.orel mask) s = .next n ∧ (∀ u ∈ ts, n.thread u.ref = some u.advance)
        ∧ (∀ r, (∀ u ∈ ts, refKey u.ref ≠ refKey r) → n.thread r = s.thread r)
        ∧ (∀ k, k < 8 → ((n.core w.core).slot k).state = freed k)
        ∧ (n.core w.core).claims = (s.core w.core).claims ∧ n.mem = s.mem ∧ n.near = s.near ∧ n.wgs = s.wgs))

/-- Tags, cancellation, operand slots, their claim queue and slot fills. -/
def Obligations.TagAndSlotWords : Prop := Claims.TagWords ∧ Claims.SlotWords ∧ Claims.ClaimQueue


/-! ## The matrix engine and MV -/

namespace Sys2Proof.Claims

/-- Tile k of a workgroup in a state. -/
def tileIn (s : State) (g k : Nat) : Tile :=
  match s.wg g with
  | some w => w.tile k
  | none => { epoch := 0, cells := [] }
/-- The status of an MV that ends, in RAN's terms (R225, R226): its operation completes, and byte 28 of its block says where it ran. -/
def MvEnds (s n : State) (id : Nat) (op : Op) (status : Byte) : Prop :=
  Completes s n id op status ∧ n.mem = s.mem
    ∧ Memory.read n.near ((op.args.getD 0 0).toNat + 28) = (if op.phase = 0 then 0 else if op.phase = 1 then 1 else 2)

end Sys2Proof.Claims

/-- R59, R217, R219, R221: ACZ sets its tiles to +0; a near ACCLD of images fills them; MMA gives every word of its tiles the
canonical dot product of its lines, from the old word or from -0. Each completes OK, and no other byte of memory changes. An MMA that
reads a word of wrong parity completes ARITH_CHECK and writes no tile. -/
def Sys2Proof.Claims.MatrixResults : Prop :=
  ∀ (s : State) (id : Nat) (op : Op) (w : Workgroup), Tbl.find s.ops id = some op → s.wg op.wg = some w → op.torn = [] →
    (∀ hd tag sp va, op.instr = .acz hd tag sp va → blk op.block 0 + blk op.block 1 ≤ w.acc.length →
      ∃ n, exec (.matrixOperationCompletion id) s = .next n ∧ Claims.Completes s n id op 0x00 ∧ n.mem = s.mem ∧ n.near = s.near
        ∧ ∀ i k, k < 4096 → (Claims.tileIn n op.wg i).cell k
            = if blk op.block 0 ≤ i ∧ i < blk op.block 0 + blk op.block 1 then 0 else (w.tile i).cell k)
    ∧ (∀ hd tag sp va key target, op.instr = .accld hd tag sp va → blk op.block 0 < w.acc.length → blk op.block 1 = 1 →
      blk op.block 2 = 0 → blk op.block 12 = 1 →
      s.checkNear op.wg false (BitVec.ofNat 32 (bytesAt op.block 4 4)) 32768 16 = .ok (key, target) → s.nearPoisoned key 32768 = false →
      ∃ n, exec (.matrixOperationCompletion id) s = .next n ∧ Claims.Completes s n id op 0x00 ∧ n.mem = s.mem ∧ n.near = s.near
        ∧ ∀ k, k < 4096 → (Claims.tileIn n op.wg (blk op.block 0)).cell k = accOfImage (bytesAt (s.nearRead key 32768) (8 * k) 8))
    ∧ (∀ hd tag sp va ov i j row col, op.instr = .mma hd tag sp va ov → op.reason = (if ov then 1 else 0) → s.mmaTurn id op = true →
      (∀ k, ((s.core op.core).slot k).damaged = false) → (∀ k, w.badWord op k 64 64 = false) →
      blk op.block 12 + mmaMa op.block * mmaNb op.block ≤ w.acc.length →
      i < mmaMa op.block → j < mmaNb op.block → row < 64 → col < 64 →
      let line := fun (slot fmt r : Nat) => slotLine ((s.core op.core).slot slot) fmt r (mmaK op.block)
      let tile := blk op.block 12 + i * mmaNb op.block + j
      ∃ n, exec (.matrixOperationCompletion id) s = .next n ∧ Claims.Completes s n id op 0x00 ∧ n.mem = s.mem ∧ n.near = s.near
        ∧ (Claims.tileIn n op.wg tile).cell (64 * row + col)
          = (mmaWord ((line (blk op.block (4 + i)) (blk op.block 0) row).map some) (line (blk op.block (8 + j)) (blk op.block 1) col)
              (if ov then .zero true else accDecode ((w.tile tile).cell (64 * row + col)))).1)
    ∧ (∀ hd tag sp va k, op.instr = .mma hd tag sp va false → op.reason = 0 → s.mmaTurn id op = true →
      (∀ i, ((s.core op.core).slot i).damaged = false) → k < mmaMa op.block * mmaNb op.block →
      w.badWord op (blk op.block 12 + k) 64 64 = true →
      ∃ n, exec (.matrixOperationCompletion id) s = .next n ∧ Claims.Completes s n id op 0x0D ∧ n.wgs = s.wgs ∧ n.mem = s.mem
        ∧ n.near = s.near)

namespace Sys2Proof.Claims

/-- The scale of a row of SCACC.CODE from the FP32 scale S and the row's code c: S x c / 256, rounded once, with its flags (R54). -/
def rowScale (S : Word) (c : Nat) : Val × Flags :=
  match ofFp32 S with
  | .nan => (.nan, 0)
  | .inf neg => if c = 0 then (.nan, flagNV) else (.inf neg, 0)
  | .fin neg m e => let r := toFp32 0 (.fin neg (m * c) (e - 8)); (ofFp32 r.1, r.2)
/-- The near bytes at which f has a value become it, for threads and for engines; threads see the others as they were, and engines too,
but for those of the same 16-byte blocks (R164). -/
structure NearBecomes (s n : State) (f : Nat → Option Byte) : Prop where
  threads : ∀ a, n.nearSeen a = (f a).getD (s.nearSeen a)
  engines : ∀ a b, f a = some b → n.nearByte a = b
  others  : ∀ a, (∀ a', a' / 16 = a / 16 → f a' = none) → n.nearByte a = s.nearByte a
/-- Element e of a format in a row of bytes that begins at a key (R43). -/
def elemIn (byte : Nat → Byte) (f : Fmt) (key e : Nat) : Nat := elemAt f ((List.range (packedBytes f (e + 1))).map (fun x => byte (key + x))) e
/-- One element ranks above another: NaN above every number, and then the greater magnitude (R229). -/
def Above (a b : Val) : Prop :=
  a = .nan ∧ b ≠ .nan ∨ (∃ s, a = .inf s) ∧ (∃ y, real b = some y) ∨ ∃ x y, real a = some x ∧ real b = some y ∧ |y| < |x|
/-- The physical address of byte j of pieces (start and length) laid end to end. -/
def placeOf (l : List (Nat × Nat)) (j : Nat) : Nat :=
  match l with
  | [] => 0
  | (a, n) :: t => if j < n then a + j else placeOf t (j - n)

end Sys2Proof.Claims

/-- R54, R73, R75, R227: SCACC adds to each word of the named columns of its output tile the product of the partial's word and the row's
scale, exact, with one rounding into ACC; no other word changes, and the NV of the sums and the flags of the block scales are ORed into
%mflags. -/
def Sys2Proof.Claims.ScaledResults : Prop :=
  (∀ (s : State) (id : Nat) (op : Op) (w : Workgroup) (hd : HReg) (tag : Tag) (va : VReg) (code : Bool) (keyS keyC tS : Nat),
    Tbl.find s.ops id = some op → s.wg op.wg = some w → op.torn = [] → op.instr = .scacc hd tag va code →
    blk op.block 0 < w.acc.length → blk op.block 2 ≤ 64 →
    let len := if code = true ∨ blk op.block 3 = 1 then 4 else 256
    s.checkNear op.wg false (BitVec.ofNat 32 (bytesAt op.block 4 4)) len 16 = .ok (keyS, tS) → s.nearPoisoned keyS len = false →
    (code = true → (∃ t, s.checkNear op.wg false (BitVec.ofNat 32 (bytesAt op.block 8 4)) 64 16 = .ok (keyC, t)) ∧ s.nearPoisoned keyC 64 = false) →
    w.badWord op (blk op.block 0) 64 (blk op.block 2) = false → w.badWord op (blk op.block 1) 64 (blk op.block 2) = false →
    let word := fun (k : Nat) => BitVec.ofNat 32 (leNat (s.nearRead (keyS + 4 * k) 4))
    let scale := fun (row : Nat) => if code then Claims.rowScale (word 0) (s.nearByte (keyC + row)).toNat
      else (ofFp32 (word (if blk op.block 3 = 1 then 0 else row)), 0)
    let old := fun (t row col : Nat) => accDecode ((w.tile (blk op.block t)).cell (64 * row + col))
    let step := fun (row col : Nat) => scaccStep (old 0 row col) (old 1 row col) (scale row).1
    ∃ n x, exec (.matrixOperationCompletion id) s = .next n ∧ Claims.Completes s n id op 0x00 ∧ n.mem = s.mem ∧ n.near = s.near
      ∧ n.wg op.wg = some x
      ∧ (∀ i row col, row < 64 → col < 64 → (x.tile i).cell (64 * row + col)
          = if i = blk op.block 0 ∧ col < blk op.block 2 then accEncode (step row col).1 else (w.tile i).cell (64 * row + col))
      ∧ ∀ j, x.mflags.getLsbD j = true ↔ w.mflags.getLsbD j = true
          ∨ (j = 0 ∧ ∃ row col, row < 64 ∧ col < blk op.block 2 ∧ (step row col).2 = true)
          ∨ ∃ row, row < 64 ∧ (toMflags (scale row).2).getLsbD j = true)
  ∧ (∀ (o p c : Val) (x y z : ℚ), Claims.real o = some x → Claims.real p = some y → Claims.real c = some z →
    (x + y * z = 0 ∨ 2 ^ (-510 : ℤ) ≤ |x + y * z| ∧ |x + y * z| < 2 ^ (511 : ℤ)) →
    ∃ r, Claims.AccRounds (x + y * z) r ∧ Claims.real (scaccStep o p c).1 = some r ∧ (scaccStep o p c).2 = false)

/-- R79, R219, R220: MMAS gives every word of its tiles the canonical dot product of the kept elements of A's line, each at the dense
position that its metadata entry names, with B's line; metadata with an entry above 11, or whose group does not rise, completes PARAM and
writes no tile. -/
def Sys2Proof.Claims.SparseProducts : Prop :=
  ∀ (s : State) (id : Nat) (op : Op) (w : Workgroup) (hd : HReg) (tag : Tag) (sp : SPair) (va : VReg) (ov : Bool) (keep : SparseN) (key target : Nat),
    Tbl.find s.ops id = some op → s.wg op.wg = some w → op.torn = [] → op.instr = .mmas hd tag sp va ov keep →
    op.reason = (if ov then 1 else 0) → s.mmaTurn id op = true → mmaK op.block % 12 = 0 →
    let k := mmaK op.block
    let c := match keep with
      | .n6 => 6
      | .n4 => 4
      | .n3 => 3
    let pitch := ((k * c / 12 * 4 + 7) / 8 + 15) / 16 * 16
    s.checkNear op.wg false (BitVec.ofNat 32 (mmaMeta op.block)) (mmaMa op.block * 64 * pitch) 16 = .ok (key, target) →
    s.nearPoisoned key (mmaMa op.block * 64 * pitch) = false →
    let entry := fun (r e : Nat) => Claims.elemIn s.nearByte 20 (key + r * pitch) e
    let good := fun (r e : Nat) => entry r e ≤ 11 ∧ ((e + 1) % c ≠ 0 → entry r e < entry r (e + 1))
    ((∃ r e, r < mmaMa op.block * 64 ∧ e < k * c / 12 ∧ ¬ good r e) →
      ∃ n, exec (.matrixOperationCompletion id) s = .next n ∧ Claims.Completes s n id op 0x0A ∧ n.wgs = s.wgs ∧ n.mem = s.mem ∧ n.near = s.near)
    ∧ ((∀ r e, r < mmaMa op.block * 64 → e < k * c / 12 → good r e) → (∀ i, ((s.core op.core).slot i).damaged = false) →
      (∀ i, w.badWord op i 64 64 = false) → blk op.block 12 + mmaMa op.block * mmaNb op.block ≤ w.acc.length →
      ∃ n, exec (.matrixOperationCompletion id) s = .next n ∧ Claims.Completes s n id op 0x00 ∧ n.mem = s.mem ∧ n.near = s.near
        ∧ ∀ i j row col, i < mmaMa op.block → j < mmaNb op.block → row < 64 → col < 64 →
          let line := fun (slot fmt r m : Nat) => slotLine ((s.core op.core).slot slot) fmt r m
          let tile := blk op.block 12 + i * mmaNb op.block + j
          let a := line (blk op.block (4 + i)) (blk op.block 0) row (k * c / 12)
          (Claims.tileIn n op.wg tile).cell (64 * row + col)
            = (mmaWord ((List.range k).map (fun p =>
                  ((List.range (k * c / 12)).find? (fun e => 12 * (e / c) + entry (i * 64 + row) e == p)).bind (fun e => a[e]?)))
                (line (blk op.block (8 + j)) (blk op.block 1) col k)
                (if ov then .zero true else accDecode ((w.tile tile).cell (64 * row + col)))).1)

/-- R43, R228, R229, R230: NPRUNE keeps, in each group of 12 elements, those above which fewer than n rank, ties to the lower position,
and writes their codes and their positions; the second pass of CMPK.SPARSE writes the elements that are no zero, their columns and the
offset of each row, for the rows before an overflow. No other near byte changes. -/
def Sys2Proof.Claims.PackedRows : Prop :=
  ∀ (s : State) (id : Nat) (op : Op) (w : Workgroup) (key target keyV keyA tV tA : Nat), Tbl.find s.ops id = some op → s.wg op.wg = some w →
    op.torn = [] →
    let f := BitVec.ofNat 5 (blk op.block 20)
    let rows := bytesAt op.block 16 2
    let k := bytesAt op.block 18 2
    let pitch := fun (m bits : Nat) => (m * bits + 127) / 128 * 16
    let area := fun (m bits : Nat) => (rows - 1) * pitch m bits + (m * bits + 7) / 8
    let fits := fun (addr n q t : Nat) => s.checkNear op.wg false (BitVec.ofNat 32 addr) n 16 = .ok (q, t)
    let code := fun (i e : Nat) => Claims.elemIn s.nearByte f (key + i * pitch k (storageBits f)) e
    0 < rows → fits (bytesAt op.block 0 4) (area k (storageBits f)) key target → s.nearPoisoned key (area k (storageBits f)) = false →
    (∀ hd tag va keep, op.instr = .nprune hd tag va keep → k % 12 = 0 → 12 ≤ k →
      let c := match keep with
        | .n6 => 6
        | .n4 => 4
        | .n3 => 3
      let m := k * c / 12
      let rowV := fun (i : Nat) => i * pitch m (storageBits f)
      let rowA := fun (i : Nat) => i * pitch m 4
      fits (bytesAt op.block 4 4) (area m (storageBits f)) keyV tV → fits (bytesAt op.block 8 4) (area m 4) keyA tA →
      (∀ i, i < rows → fits (bytesAt op.block 4 4 + rowV i) (packedBytes f m) (keyV + rowV i) tV
        ∧ fits (bytesAt op.block 8 4 + rowA i) (packedBytes 20 m) (keyA + rowA i) tA) →
      (keyV + area m (storageBits f) ≤ keyA ∨ keyA + area m 4 ≤ keyV) →
      ∃ n g, exec (.matrixOperationCompletion id) s = .next n ∧ Claims.Completes s n id op 0x00 ∧ n.mem = s.mem ∧ Claims.NearBecomes s n g
        ∧ (∀ a, (g a).isSome = true ↔ ∃ i, i < rows ∧ (keyV + rowV i ≤ a ∧ a < keyV + rowV i + packedBytes f m
            ∨ keyA + rowA i ≤ a ∧ a < keyA + rowA i + packedBytes 20 m))
        ∧ ∀ i j, i < rows → j < k / 12 → ∃ pos : Nat → Nat,
          let el := fun (p : Nat) => (decodeFmt f (code i (12 * j + p))).1
          (∀ x y, x < y → y < c → pos x < pos y) ∧ (∀ x, x < c → pos x < 12)
          ∧ (∀ x p, x < c → p < 12 → (∀ y, y < c → pos y ≠ p) → ¬ Claims.Above (el p) (el (pos x)) ∧ (Claims.Above (el (pos x)) (el p) ∨ pos x < p))
          ∧ ∀ x, x < c → Claims.elemIn (fun a => (g a).getD 0) f (keyV + rowV i) (c * j + x) = code i (12 * j + pos x)
            ∧ Claims.elemIn (fun a => (g a).getD 0) 20 (keyA + rowA i) (c * j + x) = pos x)
    ∧ (∀ hd tag va keyO tO R, op.instr = .cmpkSparse hd tag va → op.phase = 5 → R ≤ rows →
      let kept := fun (i e : Nat) => (decodeFmt f (code i e)).1.isZero = false
      let below := fun (i e : Nat) => ((List.range e).filter (fun x => !(decodeFmt f (code i x)).1.isZero)).length
      let start := fun (i : Nat) => ((List.range i).map (fun r => below r k)).sum
      let total := start R
      total ≤ min (bytesAt op.block 24 4) 65536 →
      (R = rows ∧ op.failed = 0 ∨ op.failed = R + 1 ∨ op.failed = 0 ∧ R < rows ∧ min (bytesAt op.block 24 4) 65536 < start (R + 1)) →
      (0 < total → fits (bytesAt op.block 4 4) (packedBytes f total) keyV tV ∧ fits (bytesAt op.block 8 4) (2 * total) keyA tA
        ∧ (keyV + packedBytes f total ≤ keyA ∨ keyA + 2 * total ≤ keyV)
        ∧ (keyV + packedBytes f total ≤ keyO ∨ keyO + 2 * (R + 1) ≤ keyV) ∧ (keyA + 2 * total ≤ keyO ∨ keyO + 2 * (R + 1) ≤ keyA)) →
      fits (bytesAt op.block 12 4) (2 * (R + 1)) keyO tO →
      ∃ n g, exec (.matrixOperationCompletion id) s = .next n ∧ Claims.Completes s n id op (if R = rows ∧ op.failed = 0 then 0x00 else 0x0A)
        ∧ n.mem = s.mem ∧ Claims.NearBecomes s n g
        ∧ (∀ a, (g a).isSome = true ↔ 0 < total ∧ (keyV ≤ a ∧ a < keyV + packedBytes f total ∨ keyA ≤ a ∧ a < keyA + 2 * total)
            ∨ keyO ≤ a ∧ a < keyO + 2 * (R + 1))
        ∧ (∀ i e, i < R → e < k → kept i e →
          Claims.elemIn (fun a => (g a).getD 0) f keyV (start i + below i e) = code i e
          ∧ leNat ((List.range 2).map (fun x => (g (keyA + 2 * (start i + below i e) + x)).getD 0)) = e)
        ∧ ∀ i, i ≤ R → leNat ((List.range 2).map (fun x => (g (keyO + 2 * i + x)).getD 0)) = start i % 65536)

/-- R60, R63, R217: an ACCST whose spans pass their checks writes its tiles' raw images, or their words converted to the format under the
block's mode, or its slots' contents, to near memory or to global memory, changes no other byte, and ORs the flags of the conversions into
%mflags. -/
def Sys2Proof.Claims.StoredTiles : Prop :=
  ∀ (s : State) (id : Nat) (op : Op) (w : Workgroup) (hd : HReg) (tag : Tag) (sp : SPair) (va : VReg) (place : Nat → Nat → Nat → Nat),
    Tbl.find s.ops id = some op → s.wg op.wg = some w → op.torn = [] → op.instr = .accst hd tag sp va → blk op.block 2 ≤ 2 →
    let b := op.block
    let f := BitVec.ofNat 5 (blk b 3)
    let near := blk b 12 % 2 = 1
    let spans := if blk b 2 = 1 then 64 else 1
    let len := if blk b 2 = 0 then 32768 else if blk b 2 = 1 then packedBytes f 64 else 16384
    let off := fun (u r : Nat) => bytesAt b 4 4
      + if blk b 2 = 0 then 32768 * u else if blk b 2 = 1 then (64 * u + r) * bytesAt b 8 4 else 16384 * u
    let cell := fun (u k : Nat) => (w.tile (blk b 0 + u)).cell k
    let conv := fun (u k : Nat) => toFormat f (BitVec.ofNat 2 (blk b 12 / 2)) (accDecode (cell u k))
    let bytes := fun (u r : Nat) =>
      if blk b 2 = 0 then (List.range 4096).flatMap (fun k => leBytes 8 (cell u k).toNat)
      else if blk b 2 = 1 then packElems f ((List.range 64).map (fun k => (conv u (64 * r + k)).1))
      else (List.range 16384).map (fun k => ((s.core op.core).slot (blk b 0 + u)).byte k)
    let inside := fun (u r j : Nat) => u < blk b 1 ∧ r < spans ∧ j < len
    (∀ u, u < blk b 1 → if blk b 2 = 2
      then ((s.core op.core).slot (blk b 0 + u)).damaged = false ∧ ∃ g, ((s.core op.core).slot (blk b 0 + u)).state = .ready g
      else w.badWord op (blk b 0 + u) 64 64 = false) →
    (∀ u r, u < blk b 1 → r < spans →
      (near → ∃ t, s.checkNear op.wg false (BitVec.ofNat 32 (off u r)) len 16 = .ok (place u r 0, t) ∧ ∀ j, j < len → place u r j = place u r 0 + j)
      ∧ (¬ near → let a := op.base + BitVec.ofNat 64 (off u r)
        fieldOf a 63 56 = 0 ∧ a.toNat % 16 = 0 ∧ ∃ l, s.checkWriteVa op.part (some op.core) a len = .ok l
          ∧ (∀ j, j < len → place u r j = Claims.placeOf l j))) →
    (∀ u r j u' r' j', inside u r j → inside u' r' j' → place u r j = place u' r' j' → u = u' ∧ r = r' ∧ j = j') →
    ∃ n x, exec (.matrixOperationCompletion id) s = .next n ∧ Claims.Completes s n id op 0x00 ∧ n.wg op.wg = some x
      ∧ (near → n.mem = s.mem ∧ ∃ g, Claims.NearBecomes s n g
        ∧ ∀ a v, g a = some v ↔ ∃ u r j, inside u r j ∧ a = place u r j ∧ v = (bytes u r).getD j 0)
      ∧ (¬ near → n.near = s.near ∧ (∀ u r j, inside u r j → Memory.read n.mem (place u r j) = (bytes u r).getD j 0)
        ∧ ∀ a, (∀ u r j, inside u r j → a ≠ place u r j) → Memory.read n.mem a = Memory.read s.mem a)
      ∧ ∀ j, x.mflags.getLsbD j = true ↔ w.mflags.getLsbD j = true
          ∨ blk b 2 = 1 ∧ ∃ u k, u < blk b 1 ∧ k < 4096 ∧ (toMflags (conv u k).2).getLsbD j = true

/-- Matrix operations are performed. -/
def Obligations.MatrixComplete : Prop :=
  Claims.MatrixResults ∧ Claims.ScaledResults ∧ Claims.SparseProducts ∧ Claims.PackedRows ∧ Claims.StoredTiles ∧ Claims.CountPass

/-- R223, R224, R225, R226, R331, R334, R338: an MV that is cancelled, or whose W breaks a check, ends with its status before it runs; else
it is placed on the core or the bank. A bank MV flushes its lines, runs each job once, returns each row once, and completes OK when all rows
are back. Rows that have come back wait in the operation, and reach memory with the last (the model's reading, log entry 32). -/
def Obligations.MvStages : Prop :=
  ∀ (s : State) (id : Nat) (op : Op) (hd : HReg) (tag : Tag) (sp : SPair) (va : VReg) (tile : Bool) (mode : MvMode),
    Tbl.find s.ops id = some op → op.instr = .mv hd tag sp va tile mode → op.torn = [] →
    let b := op.block
    let wa := op.base + BitVec.ofNat 64 (bytesAt b 0 8)
    (op.phase = 0 → op.canceled = true → ∃ n, exec (.mvDispatch id) s = .next n ∧ Claims.MvEnds s n id op 0x01)
    ∧ (op.phase = 0 → op.canceled = false → fieldOf wa 63 56 ≠ 0 → ∃ n, exec (.mvDispatch id) s = .next n ∧ Claims.MvEnds s n id op 0x04)
    ∧ (op.phase = 0 → op.canceled = false → fieldOf wa 63 56 = 0 → wa.toNat % 2 ^ 21 ≠ 0 →
        ∃ n, exec (.mvDispatch id) s = .next n ∧ Claims.MvEnds s n id op 0x0E)
    ∧ (∀ x, op.phase = 0 → op.canceled = false → fieldOf wa 63 56 = 0 → wa.toNat % 2 ^ 21 = 0 → s.translate op.part (some op.core) wa.toNat = .ok x →
        x.r = true → x.cc = true → ((mvRow0 b + mvRows b - 1) / 512 + 1) * mvRb b ≤ 4096 → s.mvRanges op = none → mode ≠ .auto →
        ∃ n, exec (.mvDispatch id) s = .next n ∧ n.mem = s.mem ∧ n.near = s.near ∧ n.threads = s.threads
          ∧ Tbl.find n.ops id = some { op with phase := if mode = .core then 1 else 2, pa := x.pa, reason := 0, pagePoison := x.poison })
    ∧ (∀ w bs, op.phase = 2 → s.wg op.wg = some w → s.mvReadX op = .ok bs → mvBadWord op w = false →
        ∃ n o, exec (.flushForBank id) s = .next n ∧ Tbl.find n.ops id = some o ∧ o.phase = 3 ∧ o.x = bs ∧ n.mem = s.mem ∧ n.near = s.near
          ∧ ∀ r ∈ mvRowList b, ∀ l ∈ mvRowLines b op.pa r, Tbl.find n.owners l = none ∧ Tbl.get false n.l2 l = false)
    ∧ (∀ unit, op.phase = 3 → op.jobs.contains unit = false → mvUnitRows b unit ≠ [] → s.unitHeld (op.pa / 2 ^ 37 % 4 * 512 + unit) = false →
        ∃ n o, exec (.mvJob id unit) s = .next n ∧ Tbl.find n.ops id = some o ∧ o.jobs = unit :: op.jobs
          ∧ n = { s with ops := n.ops, acts := n.acts })
    ∧ (∀ row, op.phase = 3 → op.jobs.contains (row % 512) = true → (mvRowList b).contains row = true → op.outRows.contains row = false →
        ∃ n o, exec (.mvRowResult id row) s = .next n ∧ Tbl.find n.ops id = some o ∧ o.outRows = row :: op.outRows ∧ n = { s with ops := n.ops })
    ∧ (op.phase = 3 → op.mvAll = true → op.failed = 6 → ∃ n, exec (.mvCompletion id) s = .next n ∧ Claims.MvEnds s n id op 0x06)
    ∧ (op.phase = 3 → op.mvAll = true → op.failed = 0 →
        ∃ n, exec (.mvCompletion id) s = .next n ∧ Claims.Completes s n id op 0x00 ∧ n.mem = s.mem)
    ∧ (∀ (w : Workgroup) (f : Nat → List (BitVec 35)), op.phase = 3 → op.mvAll = true → op.failed = 0 → tile = true →
        s.wg op.wg = some w → op.rows = (mvRowList b).map (fun r => (r, f r)) → (∀ r, (f r).length = mvB b) → mvB b ≤ 8 →
        mvYaddr b + (mvRows b + 63) / 64 ≤ w.acc.length →
        ∃ n, exec (.mvCompletion id) s = .next n ∧ Claims.MvEnds s n id op 0x00
          ∧ ∀ q j, q < mvRows b → j < mvB b →
            (Claims.tileIn n op.wg (mvYaddr b + q / 64)).cell (64 * (q % 64) + j) = (f (mvRow0 b + q)).getD j 0)

/-! ## Field access -/

/-- R235, R238, R306, R310: FBIND of a descriptor that keeps R234 and R235 binds it to the slot for the workgroup, discards the core's FFU
lines, and the threads go on; a malformed one takes the field trap, DETAIL 4. A near descriptor in another allocation takes DETAIL 5 before
its bytes are read, and a poisoned one the machine-check trap, DETAIL 2. The descriptor's bytes are those of the core's clean copy where it
has one (the model's choice, log entry 36). The issue group is one thread. -/
def Sys2Proof.Claims.FieldBind : Prop :=
  ∀ (s : State) (ts : List Thread) (t : Thread) (w : Workgroup) (fs : FSlot) (va : VReg),
    (∀ (sp : SPair) (x : Xlate), s.Elects (.fbind fs sp va) ts t w →
      let a := w.sPair sp + (t.getV va.toNat).zeroExtend 64
      let f : Field := { desc := Claims.l1Bytes s x.pa 64 w.core x.cp, near := false, origin := a }
      Claims.GlobalOk s w a 64 x → x.r = true → x.poison = false → s.memPoisoned x.pa 64 = false → x.pa % 128 + 64 ≤ 128 →
      (f.ok = true → ∃ n, exec (.fbind fs sp va) s = .next n ∧ (∀ u ∈ ts, n.thread u.ref = some u.advance)
        ∧ n.wg t.ref.wg = some { w with fields := Tbl.insert w.fields fs.toNat f } ∧ (n.core w.core).ffu = []
        ∧ n.mem = s.mem ∧ n.near = s.near)
      ∧ (f.ok = false → ts = [t] → ∃ m : State, exec (.fbind fs sp va) s = .next (m.trapWord t 0x12 4).finish ∧ m.threads = s.threads ∧ m.mem = s.mem))
    ∧ (∀ (key target : Nat), s.Elects (.fbindNear fs va) ts t w → s.checkNear t.ref.wg t.handler (t.getV va.toNat) 64 64 = .ok (key, target) →
      let f : Field := { desc := s.nearLoad key 64, near := true, origin := BitVec.ofNat 64 (key - nearKey w.core w.base) }
      (target = t.ref.wg → s.nearPoisoned key 64 = false → f.ok = true → ∃ n, exec (.fbindNear fs va) s = .next n ∧ (∀ u ∈ ts, n.thread u.ref = some u.advance)
        ∧ n.wg t.ref.wg = some { w with fields := Tbl.insert w.fields fs.toNat f } ∧ (n.core w.core).ffu = []
        ∧ n.mem = s.mem ∧ n.near = s.near)
      ∧ (target = t.ref.wg → s.nearPoisoned key 64 = false → f.ok = false → ts = [t] →
        exec (.fbindNear fs va) s = .next (s.trapWord t 0x12 4).finish)
      ∧ (target = t.ref.wg → s.nearPoisoned key 64 = true → ts = [t] →
        exec (.fbindNear fs va) s = .next (s.trapData t 0x08 2 ((t.getV va.toNat).zeroExtend 64)).finish)
      ∧ (target ≠ t.ref.wg → ts = [t] → exec (.fbindNear fs va) s = .next (s.trapWord t 0x12 5).finish))

/-- R239, R244, R245: FLD and FLDG of an unbound slot take the field trap, DETAIL 1; else, once every tap passes its checks, a lane
makes one request, joins the load counter and goes on. Its reply is the dot product of the taps' weights and values, and for a
non-finite coordinate the canonical NaN with NV in %mflags. -/
def Sys2Proof.Claims.FieldLoads : Prop :=
  (∀ (s : State) (t : Thread) (w : Workgroup) (vd va : VReg) (fs : FSlot) (grad : Bool) (i : Instr), s.Issues [t] → s.Runs i t w →
    i = (if grad then .fldg vd va fs else .fld vd va fs) →
    (Tbl.find w.fields fs.toNat = none → exec i s = .next (s.trapWord t 0x12 1).finish)
    ∧ (∀ f taps m, Tbl.find w.fields fs.toNat = some f →
      (∀ k, s.withTaps t w f false (((f.tapsOf (t.coords va f.dims)).getD []).filterMap (fun x => x.entry.map (fun e => (x.idx, e, (0 : Word)))))
        [] k = k taps m) → s.CoresOnly m →
      ∃ n u q, exec i s = .next n ∧ Claims.OnlyRequests m n t u ∧ Claims.GoesOn t u vd.toNat (if grad then f.dims + 1 else 1)
        ∧ u.outLd = (t.nld + 1) :: t.outLd ∧ u.outSt = t.outSt ∧ n.reqs = Tbl.insert s.reqs s.nextId q
        ∧ q.kind = .field grad ∧ q.thread = t.ref ∧ q.field = some f ∧ q.args = t.coords va f.dims ∧ q.taps = taps ∧ q.seq = t.nld + 1))
  ∧ (∀ (s : State) (id : Nat) (q : Req) (f : Field) (t : Thread) (w : Workgroup) (grad : Bool), Tbl.find s.reqs id = some q →
    q.kind = .field grad → q.field = some f → s.thread q.thread = some t → s.wg q.thread.wg = some w →
    (f.tapsOf q.args = none →
      ∃ n u, exec (.fieldLoadReturn id) s = .next n ∧ n.thread q.thread = some u ∧ Tbl.find n.reqs id = none
        ∧ Claims.Replied t u q.seq (some (List.replicate (if grad then f.dims + 1 else 1) 0x7FC00000)) none
        ∧ n.wg q.thread.wg = some { w with mflags := w.mflags ||| 1 } ∧ n.mem = s.mem ∧ n.near = s.near)
    ∧ (∀ l, f.tapsOf q.args = some l → (∀ x ∈ q.taps, x.near = true) →
      let value := fun (x : FTap) => match q.taps.find? (fun t => t.idx == x.idx) with
        | some t => f.value (s.nearRead t.addr f.esize)
        | none => f.border
      ∃ n u, exec (.fieldLoadReturn id) s = .next n ∧ n.thread q.thread = some u ∧ Tbl.find n.reqs id = none
        ∧ Claims.Replied t u q.seq (some (fieldResult f grad (l.map (fun x => (x, value x)))).1) none
        ∧ n.mem = s.mem ∧ n.near = s.near))

/-- R239, R246, R248: FSPL of a field that is not FP32 takes the field trap, DETAIL 2; a non-finite lane stores nothing and sets NV; else
a lane makes a request for each tap, or one log entry in a deterministic launch. A request adds its product to the word at its
home, and ORs the flags of the lane's products into %mflags; the lane's store is performed with its last request. -/
def Sys2Proof.Claims.Splats : Prop :=
  (∀ (s : State) (t : Thread) (w : Workgroup) (l : Launch) (f : Field) (vd va : VReg) (fs : FSlot), s.Issues [t] → s.Runs (.fspl vd va fs) t w →
    Tbl.find w.fields fs.toNat = some f → s.launchOf w = some l →
    (f.fmt ≠ 0 → exec (.fspl vd va fs) s = .next (s.trapWord t 0x12 2).finish)
    ∧ (f.fmt = 0 → f.tapsOf (t.coords va f.dims) = none →
      ∃ n u, exec (.fspl vd va fs) s = .next n ∧ n.thread t.ref = some u ∧ Claims.GoesOn t u 0 0 ∧ u.outLd = t.outLd ∧ u.nst = t.nst + 1
        ∧ u.outSt = t.outSt.filter (· != t.nst + 1) ∧ n.reqs = s.reqs ∧ n.mem = s.mem ∧ n.near = s.near
        ∧ n.wg t.ref.wg = some { w with mflags := w.mflags ||| 1 })
    ∧ (∀ taps x m, f.fmt = 0 → f.tapsOf (t.coords va f.dims) = some taps →
      (∀ k, s.withTaps t w f true (splatParts taps (ofFp32 (t.getV vd.toNat))).1 [] k = k [x] m) → s.CoresOnly m →
      (x.near = false → s.linkLost x.addr = false) →
      (l.det = 0 → ∃ n u q, exec (.fspl vd va fs) s = .next n ∧ n.thread t.ref = some u ∧ Claims.GoesOn t u 0 0
        ∧ u.outSt = (t.nst + 1) :: t.outSt ∧ u.outLd = t.outLd ∧ n.reqs = Tbl.insert s.reqs s.nextId q
        ∧ q.args = [x.value, (toMflags (splatParts taps (ofFp32 (t.getV vd.toNat))).2).zeroExtend 32]
        ∧ Claims.RequestIs q t w .splat x.near x.addr 4 0 (t.nst + 1) ∧ n.mem = s.mem ∧ n.near = s.near)
      ∧ (l.det ≠ 0 → s.splatRoom w.launch l = 0 → exec (.fspl vd va fs) s = .next (m.trapWord t 0x12 3).finish)
      ∧ (l.det ≠ 0 → 0 < s.splatRoom w.launch l → ∃ n u q, exec (.fspl vd va fs) s = .next n ∧ n.thread t.ref = some u ∧ Claims.GoesOn t u 0 0
        ∧ u.outSt = (t.nst + 1) :: t.outSt ∧ u.outLd = t.outLd ∧ n.reqs = Tbl.insert s.reqs s.nextId q ∧ q.kind = .splatLog
        ∧ q.taps = [x] ∧ q.args = [0, (toMflags (splatParts taps (ofFp32 (t.getV vd.toNat))).2).zeroExtend 32] ∧ q.thread = t.ref
        ∧ q.seq = t.nst + 1 ∧ n.mem = s.mem ∧ n.near = s.near)))
  ∧ (∀ (s : State) (id : Nat) (q : Req) (t : Thread) (w : Workgroup) (x fl : Word), Tbl.find s.reqs id = some q → q.kind = .splat →
    q.args = [x, fl] → s.thread q.thread = some t → s.wg q.thread.wg = some w → s.inOrder id q = true → s.splatTurn id q = true → s.homePoisoned q = false →
    (∀ e ∈ s.reqs, e.1 ≠ id → e.2.thread = q.thread → e.2.kind = .splat → e.2.seq ≠ q.seq) →
    ∃ n, exec (.splatRequestApply id) s = .next n ∧ Claims.WordBecomes s n q (some (fp32AddRne (Claims.wordAt s q) x))
      ∧ n.thread q.thread = some { t with outSt := t.outSt.filter (· != q.seq), fresh := false } ∧ Tbl.find n.reqs id = none
      ∧ ∃ w', n.wg q.thread.wg = some w' ∧ w'.mflags = w.mflags ||| (fieldOf fl 3 0).zeroExtend 32)
  ∧ (∀ (s : State) (id : Nat) (q : Req) (t : Thread) (w : Workgroup) (l : Launch), Tbl.find s.reqs id = some q → q.kind = .splatLog →
    s.thread q.thread = some t → s.wgOf q.thread = some w → s.launchOf w = some l → s.logTurn id q = true →
    ∃ n m, exec (.splatLogAppend id) s = .next n ∧ n.launch w.launch = some m ∧ m.splats.map (·.tap) = l.splats.map (·.tap) ++ q.taps
      ∧ (∀ r ∈ m.splats, r ∈ l.splats ∨ (r.wglog = w.log ∧ r.tid = q.thread.tid))
      ∧ n.thread q.thread = some { t with outSt := t.outSt.filter (· != q.seq), fresh := false } ∧ Tbl.find n.reqs id = none
      ∧ n.wg q.thread.wg = some { w with mflags := w.mflags ||| (fieldOf (q.args.getD 1 0) 3 0).zeroExtend 32 }
      ∧ n.mem = s.mem ∧ n.near = s.near)

/-- Fields are bound and read, splats are applied and logged. -/
def Obligations.FieldsAndSplats : Prop := Claims.FieldBind ∧ Claims.FieldLoads ∧ Claims.Splats


/-! ## Choreography -/

namespace Sys2Proof.Claims

/-- Thread t of workgroup w is active in the open instance st of a team, is at a control word, outside any run, and has no fault to
take (R254, R257, R259). -/
structure InStream (s : State) (t : Thread) (w : Workgroup) (st : Stream) : Prop where
  wg     : s.wgOf t.ref = some w
  active : t.role.getLsbD 31 = true
  depth  : t.depth ≤ t.chorDep
  noRun  : t.inRun = false
  whole  : t.orphan = none
  opened : Tbl.find s.streams (teamKey w.launch (teamIndex (w.team t.roleSlot))) = some st
  going : st.aborted = none
/-- Thread t is in the stream so, and is the one live thread of its workgroup. -/
structure AtControl (s : State) (t : Thread) (w : Workgroup) (st : Stream) : Prop extends InStream s t w st where
  alone  : s.live t.ref.wg = [t]
/-- All other live threads of t's workgroup wait at the word of t, which is i. -/
def Reached (s : State) (t : Thread) (i : Instr) : Prop := ∀ u ∈ s.live t.ref.wg, u ≠ t → u.pc = t.pc ∧ u.stall = .control i
/-- The pushes of a workgroup role at a level of its stream (R261). -/
def pushesOf (st : Stream) (g level : Nat) : Nat := ((Tbl.find st.wgRoles g).map (fun k => Tbl.get 0 k.pushes level)).getD 0
/-- Bound member m of this device, a resident workgroup or an engine role, has made p pushes at a level (R261). -/
def Pushed (s : State) (st : Stream) (launch level : Nat) (m : MemberWord) (p : Nat) : Prop :=
  m.dev = s.mgmt.orbitDev.toNat
  ∧ ((m.kind = 0 ∧ ∃ g, s.resident launch m.index = some g ∧ p = pushesOf st g level)
    ∨ (m.kind ≠ 0 ∧ ∃ x, Tbl.find st.roles m.role = some x ∧ p = Tbl.get 0 x.pushes level))
/-- Choreography fault 6 in every thread of t's role. -/
def roleFault (s : State) (t : Thread) : State :=
  ((s.live t.ref.wg).foldl (fun s u =>
    (s.onThread u.ref (fun x => { (if u = t then x.arm else x) with stall := .none })).trapWord u 0x13 6) s).finish

end Sys2Proof.Claims

/-- R252, R257, R258, R266: CHOR of an active thread is choreography fault 2; else, of a bound workgroup, it opens the stream at an
address whose word is a header, or joins the one open there, and goes on after the header in its role. EPSET writes an e register
of an engine role. -/
def Sys2Proof.Claims.StreamEntry : Prop :=
  (∀ (s : State) (t : Thread) (w : Workgroup) (k : BitVec 2) (pair : SPair), s.Issues [t] → s.Runs (.chor k pair) t w →
    let m := w.team k.toNat
    let key := teamKey w.launch (teamIndex m)
    let a := w.sPair pair
    let pc : Pc := fieldOf a 55 0
    let entered := fun (u : Thread) => u.role = 0x80000000 ||| BitVec.ofNat 32 (16 * k.toNat + teamRole m) ∧ u.chorDep = t.depth
      ∧ u.chorRes = t.pc + 4 ∧ u.loops = [] ∧ u.pc = pc + 4 ∧ u.stall = .none ∧ u.v = t.v ∧ u.p = t.p ∧ u.h = t.h
    (m.getLsbD 31 = false → exec (.chor k pair) s = .next (s.trapWord t 0x0C 0).finish)
    ∧ (m.getLsbD 31 = true → t.role.getLsbD 31 = true → t.inRun = false → exec (.chor k pair) s = .next (s.trapWord t 0x13 2).finish)
    ∧ (m.getLsbD 31 = true → t.role.getLsbD 31 = false →
      (∃ x ∈ s.boundMembers w.launch (teamIndex m), x.kind = 0 ∧ x.dev = s.mgmt.orbitDev.toNat ∧ x.index = w.log) →
      fieldOf a 63 56 = 0 → fieldOf a 1 0 = 0 → fieldOf (t.pc + 4) 55 34 = fieldOf pc 55 34 →
      (∀ st, Tbl.find s.streams key = some st → st.addr = pc →
        ∃ n u, exec (.chor k pair) s = .next n ∧ n.thread t.ref = some u ∧ entered u ∧ Claims.SameButCores s n t)
      ∧ (∀ x h, Tbl.find s.streams key = none → s.tlbLook (s.partOf w) w.core pc.toNat = some x → x.x = true → s.linkLost x.pa = false →
        peerRefuses x.pa = false →
        x.poison = false → s.memPoisoned x.pa 4 = false → h = BitVec.ofNat 32 (leNat (s.memRead x.pa 4)) →
        fieldOf h 31 26 = 0x3D → fieldOf h 25 12 = 0 → fieldOf h 7 4 = 0 → fieldOf h 3 0 ≠ 0 →
        ∃ n u st, exec (.chor k pair) s = .next n ∧ n.thread t.ref = some u ∧ entered u ∧ Claims.SameButCores s n t
          ∧ Tbl.find n.streams key = some st ∧ st.addr = pc ∧ st.nch = (fieldOf h 11 8).toNat + 1 ∧ st.drift = (fieldOf h 3 0).toNat
          ∧ st.channels = [])))
  ∧ (∀ (s : State) (t : Thread) (w : Workgroup) (st : Stream) (x : RoleSt) (role eidx : BitVec 4) (va : VReg),
    s.Elects (.epset role eidx va) [t] t w → Claims.AtControl s t w st → Tbl.find st.roles role.toNat = some x →
    (∃ m ∈ s.boundMembers w.launch (teamIndex (w.team t.roleSlot)), m.kind ≠ 0 ∧ m.role = role.toNat) →
    let key := teamKey w.launch (teamIndex (w.team t.roleSlot))
    ∃ n st' x', exec (.epset role eidx va) s = .next n ∧ n.thread t.ref = some t.advance ∧ Tbl.find n.streams key = some st'
      ∧ Tbl.find st'.roles role.toNat = some x' ∧ x'.getE eidx.toNat = t.getV va.toNat
      ∧ (∀ j, j ≠ eidx.toNat → x'.getE j = x.getE j) ∧ n.mem = s.mem ∧ n.near = s.near)

/-- R253, R254, R259, R266: CUE begins the run after it in the roles of its mask, and sends the others past it; a control word inside a
run is fault 4, and outside a stream fault 1. -/
def Sys2Proof.Claims.CueWords : Prop :=
  ∀ (s : State) (t : Thread) (w : Workgroup) (st : Stream) (rmask : BitVec 16) (len : BitVec 10), s.Issues [t] → s.Runs (.cue rmask len) t w →
    (t.role.getLsbD 31 = false → exec (.cue rmask len) s = .next (s.trapWord t 0x13 1).finish)
    ∧ (t.role.getLsbD 31 = true → t.depth ≤ t.chorDep → t.inRun = true → exec (.cue rmask len) s = .next (s.trapWord t 0x13 4).finish)
    ∧ (Claims.AtControl s t w st →
      ∃ n u, exec (.cue rmask len) s = .next n ∧ Claims.OnlyRequests s n t u ∧ n.reqs = s.reqs ∧ Claims.Keeps t u 0 0 ∧ u.stall = .none
        ∧ (rmask.getLsbD t.roleNo = true → u.pc = t.pc + 4)
        ∧ (rmask.getLsbD t.roleNo = true → len ≠ 0 → t.pc.toNat + 4 * 1024 < 2 ^ 56 → t.handler = false →
            u.runLo = t.pc + 4 ∧ u.runHi = t.pc + 4 * len.zeroExtend 56)
        ∧ (rmask.getLsbD t.roleNo = false → u.pc = t.pc + 4 + 4 * len.zeroExtend 56 ∧ u.runLo = 0 ∧ u.runHi = 0))

/-- R260, R261, R262: in a role of one thread, CLOOP that is not on top of the loop stack takes count n, executes the body again at
4 x BACK before it while executions remain, and then goes on; a count of 0 is fault 6. CEND of the only bound member closes the
instance and goes on at the resume address, with %role 0. -/
def Sys2Proof.Claims.LoopsAndEnd : Prop :=
  ∀ (s : State) (t : Thread) (w : Workgroup) (st : Stream), s.Issues [t] → Claims.AtControl s t w st →
    let tm := teamIndex (w.team t.roleSlot)
    (∀ (i : Instr) (n : Nat) (back : BitVec 14), s.Runs i t w →
      ((∃ cnt : BitVec 11, i = .cloop cnt back ∧ n = cnt.toNat) ∨ ∃ sk : SReg, i = .cloopReg sk back ∧ n = (w.getS sk.toNat).toNat) →
      (t.loops = [] → (n = 0 ∨ 65535 < n) → exec i s = .next ((s.onThread t.ref (fun u => { u.arm with stall := .none })).trapWord t 0x13 6).finish)
      ∧ (t.loops = [] → 1 < n → n ≤ 65535 → st.records = [] → Tbl.find st.wgRoles t.ref.wg = none →
        ∃ m u, exec i s = .next m ∧ m.thread t.ref = some u ∧ u.loops = [{ pc := t.pc, remaining := n - 1 }]
          ∧ u.pc = t.pc - 4 * back.zeroExtend 56 ∧ Claims.Keeps t u 0 0 ∧ Claims.SameButCores s m t)
      ∧ (t.loops = [] → n = 1 → st.records = [] → Tbl.find st.wgRoles t.ref.wg = none →
        ∃ m u, exec i s = .next m ∧ m.thread t.ref = some u ∧ u.loops = [] ∧ u.pc = t.pc + 4 ∧ Claims.Keeps t u 0 0 ∧ Claims.SameButCores s m t)
      ∧ (∀ r rest, t.loops = { pc := t.pc, remaining := r } :: rest →
        ∃ m u, exec i s = .next m ∧ m.thread t.ref = some u ∧ Claims.Keeps t u 0 0 ∧ Claims.SameButCores s m t
          ∧ (1 < r → u.loops = { pc := t.pc, remaining := r - 1 } :: rest ∧ u.pc = t.pc - 4 * back.zeroExtend 56)
          ∧ (r ≤ 1 → u.loops = rest ∧ u.pc = t.pc + 4)))
    ∧ (∀ m, s.Runs .cend t w → s.boundMembers w.launch tm = [m] → m.kind = 0 → m.dev = s.mgmt.orbitDev.toNat →
      s.resident w.launch m.index = some t.ref.wg → st.roles = [] →
      ∃ n u, exec .cend s = .next n ∧ n.thread t.ref = some u ∧ u.role = 0 ∧ u.pc = t.chorRes ∧ u.loops = [] ∧ u.v = t.v ∧ u.p = t.p ∧ u.h = t.h
        ∧ Tbl.find n.streams (teamKey w.launch tm) = none ∧ Claims.SameButCores s n t ∧ (n.core w.core).clean = [] ∧ (n.core w.core).release = [])

/-- R260, R261, R262, R266: a thread at CLOOP, CEND, or a HAND that its role sends or receives waits until all live threads of its
workgroup have reached the word. The role's activation of CLOOP at a level then reads the record of its number: an equal count goes on in
every thread, another count is fault 6 in every thread, as is a count outside 1 to 65,535 and a fifth level. The first role to arrive
makes the record, unless it would be four ahead of a bound member, and then it waits. CEND waits for every bound member, and with all of
them there closes the instance: every live thread of each goes on at its resume address with %role 0. -/
def Sys2Proof.Claims.RolesAndRecords : Prop :=
  ∀ (s : State) (t : Thread) (w : Workgroup) (st : Stream), s.Issues [t] → s.Keyed → Claims.InStream s t w st →
    let tm := teamIndex (w.team t.roleSlot)
    let key := teamKey w.launch tm
    let waits := fun (i : Instr) => exec i s = .next (s.onThread t.ref (fun u => u.park (.control i))).over
    (∀ i, s.Runs i t w → (i = .cend ∨ (∃ cnt back, i = .cloop cnt back) ∨ (∃ sk back, i = .cloopReg sk back)
        ∨ ∃ ch snd rcv pk va, i = .hand ch snd rcv pk va ∧ (t.roleNo = snd.toNat ∨ t.roleNo = rcv.toNat)) →
      (∃ u ∈ s.live t.ref.wg, u ≠ t ∧ ¬ (u.pc = t.pc ∧ u.stall = .control i)) → waits i)
    ∧ (∀ (i : Instr) (n : Nat) (back : BitVec 14) (L : List LoopEntry), s.Runs i t w →
      ((∃ cnt : BitVec 11, i = .cloop cnt back ∧ n = cnt.toNat) ∨ ∃ sk : SReg, i = .cloopReg sk back ∧ n = (w.getS sk.toNat).toNat) →
      Claims.Reached s t i → (∀ u ∈ s.live t.ref.wg, u.loops = L) → (∀ e ∈ L.head?, e.pc ≠ t.pc) →
      let mine := Claims.pushesOf st t.ref.wg L.length
      let recorded := fun (r : Nat × Nat × Nat) => r.1 = L.length ∧ r.2.1 = mine
      let goes := fun (m : State) => (∀ u ∈ s.live t.ref.wg, ∃ u', m.thread u.ref = some u' ∧ Claims.Keeps u u' 0 0 ∧ u'.stall = .none
          ∧ (1 < n → u'.loops = { pc := t.pc, remaining := n - 1 } :: L ∧ u'.pc = t.pc - 4 * back.zeroExtend 56)
          ∧ (n = 1 → u'.loops = L ∧ u'.pc = t.pc + 4))
        ∧ m.mem = s.mem ∧ m.near = s.near ∧ m.wgs = s.wgs
      (n = 0 ∨ 65535 < n → exec i s = .next (Claims.roleFault s t))
      ∧ (1 ≤ n → n ≤ 65535 → (∃ r ∈ st.records, recorded r) →
        ((∀ r ∈ st.records, recorded r → r.2.2 = n) → L.length < 4 →
          ∃ m st', exec i s = .next m ∧ goes m ∧ Tbl.find m.streams key = some st' ∧ st'.records = st.records
            ∧ Claims.pushesOf st' t.ref.wg L.length = mine + 1)
        ∧ ((∀ r ∈ st.records, recorded r → r.2.2 ≠ n) → exec i s = .next (Claims.roleFault s t)))
      ∧ (1 ≤ n → n ≤ 65535 → (∀ r ∈ st.records, ¬ recorded r) →
        (4 ≤ L.length → mine < 4 → exec i s = .next (Claims.roleFault s t))
        ∧ (L.length < 4 → s.boundMembers w.launch tm ≠ [] →
          (∀ x ∈ s.boundMembers w.launch tm, ∃ p, Claims.Pushed s st w.launch L.length x p ∧ mine < p + 4) →
          ∃ m st', exec i s = .next m ∧ goes m ∧ Tbl.find m.streams key = some st' ∧ Claims.pushesOf st' t.ref.wg L.length = mine + 1
            ∧ (L.length, mine, n) ∈ st'.records ∧ (∀ r ∈ st'.records, r = (L.length, mine, n) ∨ r ∈ st.records)
            ∧ ∀ r ∈ st.records, (r.1 ≠ L.length ∨ ∃ x ∈ s.boundMembers w.launch tm, ∃ p, Claims.Pushed s st w.launch L.length x p ∧ p ≤ r.2.1) →
                r ∈ st'.records)
        ∧ ((∃ x ∈ s.boundMembers w.launch tm, ∃ p, Claims.Pushed s st w.launch L.length x p ∧ p + 4 ≤ mine) → waits i)))
    ∧ (s.Runs .cend t w → Claims.Reached s t .cend →
      ((∃ m ∈ s.boundMembers w.launch tm, m.dev = s.mgmt.orbitDev.toNat
        ∧ ((m.kind = 0 ∧ ∃ g, s.resident w.launch m.index = some g ∧ g ≠ t.ref.wg ∧ ∃ u ∈ s.live g, u.stall ≠ .control .cend)
          ∨ (m.kind ≠ 0 ∧ ∀ x, Tbl.find st.roles m.role = some x → x.atEnd = false))) → waits .cend)
      ∧ (st.roles = [] → (∀ m ∈ s.boundMembers w.launch tm, m.kind = 0 ∧ m.dev = s.mgmt.orbitDev.toNat
          ∧ ∃ g, s.resident w.launch m.index = some g ∧ s.live g ≠ []
            ∧ ∀ u ∈ s.live g, u = t ∨ (u.stall = .control .cend ∧ u.role.getLsbD 31 = true
              ∧ ∃ x, s.wgOf u.ref = some x ∧ x.launch = w.launch ∧ teamIndex (x.team u.roleSlot) = tm)) →
        ∃ n, exec .cend s = .next n ∧ Tbl.find n.streams key = none ∧ n.mem = s.mem ∧ n.near = s.near ∧ n.wgs = s.wgs
          ∧ ∀ m ∈ s.boundMembers w.launch tm, ∀ g, s.resident w.launch m.index = some g → ∀ u ∈ s.live g,
            ∃ u', n.thread u.ref = some u' ∧ u'.role = 0 ∧ u'.pc = u.chorRes ∧ u'.loops = [] ∧ u'.stall = .none ∧ u'.v = u.v ∧ u'.p = u.p ∧ u'.h = u.h))

/-- R263, R264: HAND passes a role that is neither sender nor receiver. The sender, its operations complete, posts its payload on
the channel while fewer than D tokens are ahead; the receiver takes the oldest token, writes the payload, and goes on (where the token
has none, what a receiver that takes one writes is a free value, log entry 1). -/
def Sys2Proof.Claims.HandOver : Prop :=
  ∀ (s : State) (t : Thread) (w : Workgroup) (st : Stream) (ch snd rcv : BitVec 4) (pk : Payload) (va : VReg), s.Issues [t] →
    s.Runs (.hand ch snd rcv pk va) t w → Claims.AtControl s t w st →
    let tm := teamIndex (w.team t.roleSlot)
    let key := teamKey w.launch tm
    let c := Tbl.get { pair := none, posted := 0, taken := 0, tokens := [] } st.channels ch.toNat
    (t.roleNo ≠ snd.toNat → t.roleNo ≠ rcv.toNat →
      exec (.hand ch snd rcv pk va) s = .next (s.onThread t.ref Thread.advance).over)
    ∧ (ch.toNat < st.nch → s.isBound w.launch tm snd.toNat = true → s.isBound w.launch tm rcv.toNat = true →
      (c.pair = none ∨ c.pair = some (snd.toNat, rcv.toNat)) →
      (t.roleNo = snd.toNat → (∀ k, Tbl.find st.wgRoles t.ref.wg = some k → ∀ e ∈ k.ops, e.2 = some 0x00) →
        c.posted < c.taken + st.drift → (pk = .buffer → ∃ r, s.checkNear t.ref.wg false (t.getV va.toNat) 1 1 = .ok r) →
        ∃ n u st' c', exec (.hand ch snd rcv pk va) s = .next n ∧ n.thread t.ref = some u ∧ Claims.GoesOn t u 0 0
          ∧ Claims.SameButCores s n t ∧ Tbl.find n.streams key = some st' ∧ Tbl.find st'.channels ch.toNat = some c'
          ∧ c'.posted = c.posted + 1 ∧ c'.taken = c.taken ∧ c'.pair = some (snd.toNat, rcv.toNat)
          ∧ c'.tokens = c.tokens ++ [{ payload := if pk = .none then none else some (t.getV va.toNat), status := 0x00 }])
      ∧ (∀ tok rest, t.roleNo = rcv.toNat → rcv ≠ snd → c.tokens = tok :: rest → tok.status = 0x00 →
        ∃ n u st' c', exec (.hand ch snd rcv pk va) s = .next n ∧ n.thread t.ref = some u
          ∧ Claims.GoesOn t u va.toNat (if pk = .none then 0 else 1) ∧ (∀ p, pk ≠ .none → tok.payload = some p → u.getV va.toNat = p)
          ∧ Claims.SameButCores s n t ∧ Tbl.find n.streams key = some st'
          ∧ Tbl.find st'.channels ch.toNat = some c' ∧ c'.taken = c.taken + 1 ∧ c'.posted = c.posted ∧ c'.tokens = rest))

/-- Choreographed streams: entry, cues, loops, the roles of several threads and members, the end, hand-over. -/
def Obligations.Choreography : Prop := Claims.StreamEntry ∧ Claims.CueWords ∧ Claims.LoopsAndEnd ∧ Claims.RolesAndRecords ∧ Claims.HandOver


/-! ## Launches, queues, collectives, images, hints -/

/-- R196, R277, R351, R352: LAUNCH starts one operation a lane; a packet for a queue that the device may not append to, or that is not well
formed, completes PARAM; one for a queue with room is stored at slot WR of its ring, and WR grows by 1. A ring slot outside the device
memory is the model's fault absentRing (log entry 34). The issue group is one thread. -/
def Sys2Proof.Claims.LaunchAppends : Prop :=
  (∀ (s : State) (t : Thread) (w : Workgroup) (hd : HReg) (tag : Tag) (sp : SPair) (va : VReg) (near : Bool), s.Issues [t] →
    s.Runs (.launch hd tag sp va near) t w →
    ∃ n, exec (.launch hd tag sp va near) s = .next n ∧ Claims.OpStarted s n [t] w (.launch hd tag sp va near) hd tag s.nextId)
  ∧ (∀ (s : State) (id : Nat) (op : Op) (hd : HReg) (tag : Tag) (sp : SPair) (va : VReg) (near : Bool) (x : Side),
    Tbl.find s.ops id = some op → op.instr = .launch hd tag sp va near → op.block = [] → op.order = 0 → s.copySide op near (op.args.getD 0 0) 64 false = .ok x →
    Claims.sidePoisoned s x 64 = false →
    let b := Claims.sideBytes s x 64
    let k := (b.getD 1 0).toNat
    let q := s.queue k
    s.launchFirst id op k = true →
    ((q.owner ≠ some op.part ∨ q.dev = false ∨ q.en = false ∨ q.err = true ∨ packetFields b = false) →
      ∃ n, exec (.launchPacketAppend id) s = .next n ∧ Claims.Completes s n id op 0x0A ∧ n.mem = s.mem ∧ n.queue k = q)
    ∧ (q.owner = some op.part → q.dev = true → q.en = true → q.err = false → packetFields b = true →
      (q.wr - q.rd).toNat ≠ 2 ^ q.log2.toNat → s.launchTurn id op k = true → q.slotThere q.wr = true →
      ∃ n, exec (.launchPacketAppend id) s = .next n ∧ Claims.Completes s n id op 0x00
        ∧ Claims.Writes s.mem n.mem (q.ring.toNat * 4096 + 64 * (q.wr.toNat % 2 ^ q.log2.toNat)) b
        ∧ n.queue k = { q with wr := q.wr + 1 } ∧ n.near = s.near)
    ∧ (q.owner = some op.part → q.dev = true → q.en = true → q.err = false → packetFields b = true →
      (q.wr - q.rd).toNat ≠ 2 ^ q.log2.toNat → s.launchTurn id op k = true → q.slotThere q.wr = false → exec (.launchPacketAppend id) s = .fault .absentRing))

/-- R38, R278: GCINC joins the load counter and goes on; the dispatcher adds the increment to the launch's group count and replies
the old count, or replies all ones and adds nothing where GMAX would be passed. -/
def Sys2Proof.Claims.GroupCount : Prop :=
  (∀ (s : State) (t : Thread) (w : Workgroup) (vd va : VReg), s.Issues [t] → s.Runs (.gcinc vd va) t w →
    ∃ n u q, exec (.gcinc vd va) s = .next n ∧ Claims.OnlyRequests s n t u ∧ Claims.GoesOn t u vd.toNat 1
      ∧ u.outLd = (t.nld + 1) :: t.outLd ∧ u.outSt = t.outSt ∧ n.reqs = Tbl.insert s.reqs s.nextId q ∧ q.kind = .gcinc
      ∧ q.thread = t.ref ∧ q.args = [t.getV va.toNat] ∧ q.seq = t.nld + 1)
  ∧ (∀ (s : State) (id : Nat) (q : Req) (t : Thread) (w : Workgroup) (l : Launch) (inc : Word), Tbl.find s.reqs id = some q → q.kind = .gcinc →
    q.args = [inc] → (∀ e ∈ s.reqs, e.1 < id → e.2.kind ≠ .gcinc) → s.thread q.thread = some t → s.wgOf q.thread = some w →
    s.launchOf w = some l →
    (l.gmax < l.groups + inc.toNat →
      ∃ n u, exec (.gcincRequest id) s = .next n ∧ n.thread q.thread = some u ∧ Claims.Replied t u q.seq (some [0xFFFFFFFF]) none
        ∧ n.launch w.launch = some l ∧ Tbl.find n.reqs id = none)
    ∧ (l.groups + inc.toNat ≤ l.gmax → l.progress ≠ 2 →
      ∃ n u, exec (.gcincRequest id) s = .next n ∧ n.thread q.thread = some u
        ∧ Claims.Replied t u q.seq (some [BitVec.ofNat 32 l.groups]) none
        ∧ n.launch w.launch = some { l with groups := l.groups + inc.toNat } ∧ Tbl.find n.reqs id = none))

/-- Packets that threads append, and groups that they add. -/
def Obligations.LaunchesFromThreads : Prop := Claims.LaunchAppends ∧ Claims.GroupCount

/-- No other push or pop, of a thread or of a peer, names the queue of request `id` (R280, R319). -/
def Sys2Proof.Claims.QueueAlone (s : State) (id : Nat) (q : Req) : Prop :=
  (∀ x ∈ s.reqs, x.1 ≠ id → (x.2.kind = .push ∨ x.2.kind = .pop) → s.queueOf x.2 ≠ s.queueOf q)
  ∧ ∀ x ∈ s.peerOps, s.queueOf q ≠ some x.2.off

/-- R279, R280, R318: QPUSH and QPOP wait at the word for their home. A push that can be performed gives its ticket and
writes its entry (VALUE, ticket and KIND 1) and PUSHC; a pop gives VALUE and KIND of the entry; the thread goes on. -/
def Obligations.Queues : Prop :=
  (∀ (s : State) (t : Thread) (w : Workgroup) (i : Instr) (pair : SPair) (kind : ReqKind) (dest : VReg) (args : List Word), s.Issues [t] →
    s.Runs i t w →
    ((∃ va, i = .qpush dest va pair ∧ kind = .push ∧ args = [t.getV va.toNat]) ∨ (i = .qpop dest pair ∧ kind = .pop ∧ args = [])) →
    ∃ n u q, exec i s = .next n ∧ n.thread t.ref = some u ∧ Claims.Keeps t u 0 0 ∧ u.pc = t.pc ∧ u.stall = .request s.nextId
      ∧ Claims.SameButCores s n t ∧ n.reqs = Tbl.insert s.reqs s.nextId q ∧ q.kind = kind ∧ q.va = w.sPair pair ∧ q.args = args
      ∧ q.thread = t.ref ∧ q.dest = dest.toNat
      ∧ Tbl.get 0 (n.core w.core).returns (laneKey w t.ref.tid) = Tbl.get 0 (s.core w.core).returns (laneKey w t.ref.tid) + 1)
  ∧ (∀ (s : State) (id : Nat) (q : Req) (t : Thread) (w : Workgroup) (l : Launch) (s' : State) (d : QDesc) (ticket : Word) (e : List Byte),
    Tbl.find s.reqs id = some q → Claims.QueueAlone s id q → s.traps = [] → s.thread q.thread = some t → t.ref = q.thread →
    s.wgOf q.thread = some w → s.launchOf w = some l → t.outLd = [] → t.outSt = [] → s.queueLook q w l = .go s' d ticket e →
    (q.kind = .push → ∃ n u, exec (.queuePushServe id) s = .next n ∧ n.thread q.thread = some u ∧ Claims.GoesOn t u q.dest 1
      ∧ u.getV q.dest = ticket ∧ Tbl.find n.reqs id = none)
    ∧ (q.kind = .pop → ∃ n u, exec (.queuePopServe id) s = .next n ∧ n.thread q.thread = some u ∧ Claims.GoesOn t u q.dest 2
      ∧ u.getV q.dest = BitVec.ofNat 32 (bytesAt e 0 4) ∧ u.getV (q.dest + 1) = BitVec.ofNat 32 (bytesAt e 4 4 % 4)
      ∧ Tbl.find n.reqs id = none))
  ∧ (∀ (s : State) (id : Nat) (q : Req) (t : Thread) (w : Workgroup) (l : Launch) (s' : State) (d : QDesc) (ticket v : Word) (e : List Byte)
      (x y : Xlate) (s1 : State), Tbl.find s.reqs id = some q → Claims.QueueAlone s id q → s.traps = [] → s.thread q.thread = some t →
    t.ref = q.thread → s.wgOf q.thread = some w → s.launchOf w = some l → t.outLd = [] → t.outSt = [] → q.kind = .push → q.args = [v] →
    l.det = 0 → s.queueLook q w l = .go s' d ticket e →
    (s'.queueOut id q).translate l.part none (d.entry ticket).toNat = .ok x → x.w = true →
    (s'.queueOut id q).writeVa l.part none (d.entry ticket) (leBytes 4 v.toNat ++ leBytes 4 (ticket.toNat % 2 ^ 30 * 4 + 1)) (some w.core) = .ok s1 →
    s1.translate l.part none (q.va + 20).toNat = .ok y → y.w = true → s1.linkLost y.pa = false → peerRefuses y.pa = false → fieldOf (d.entry ticket) 63 56 = 0 → fieldOf (q.va + 20) 63 56 = 0 →
    (d.entry ticket).toNat % 8 = 0 → q.va.toNat % 64 = 0 → (x.pa + 8 ≤ y.pa ∨ y.pa + 4 ≤ x.pa) →
    ∃ n, exec (.queuePushServe id) s = .next n
      ∧ (∀ k, k < 8 → Memory.read n.mem (x.pa + k) = (leBytes 4 v.toNat ++ leBytes 4 (ticket.toNat % 2 ^ 30 * 4 + 1)).getD k 0)
      ∧ ∀ k, k < 4 → Memory.read n.mem (y.pa + k) = (leBytes 4 (d.pushc + 1).toNat).getD k 0)
  ∧ (∀ (s : State) (id : Nat) (q : Req) (t : Thread) (w : Workgroup) (l : Launch), Tbl.find s.reqs id = some q → q.kind = .pop → s.traps = [] →
    s.thread q.thread = some t → t.ref = q.thread → s.wgOf q.thread = some w → s.launchOf w = some l → q.va.toNat % 64 ≠ 0 →
    exec (.queuePopServe id) s
      = .next ((((s.freeReturn q.thread).dropReq id).onThread t.ref (fun u => { u with stall := .none })).trapWord t 0x18 3).settleTraps)

namespace Sys2Proof.Claims

/-- Operation id is over: the handles of its issuing threads that named it hold the status. -/
structure Over (s n : State) (id : Nat) (op : Op) (status : Byte) : Prop where
  gone    : Tbl.find n.ops id = none
  handles : ∀ l e t, op.issuer = .threads l → e ∈ l → s.thread e.1 = some t → ∃ u, n.thread e.1 = some u ∧ u.v = t.v ∧ u.p = t.p
              ∧ ∀ k, t.getH k = .pending id → u.getH k = .done status
/-- The m workgroup members of a team, all of this device, have all issued their collective number idx: the operation of rank r
has the number id r. -/
structure AllIssued (s : State) (launch team idx m : Nat) (id : Nat → Nat) (op : Nat → Op) : Prop where
  held     : ∃ l c ms, s.launch launch = some l ∧ Tbl.find s.colls (collKey launch team idx) = some c
               ∧ (Tbl.get [] l.teams team).filter (fun e => e.kind == 0) = ms ∧ ms.length = m
               ∧ ∀ r e, ms[r]? = some e → e.dev = s.mgmt.orbitDev.toNat ∧ Tbl.find c.ops e.index = some (id r)
  ops      : ∀ r, r < m → Tbl.find s.ops (id r) = some (op r)
  distinct : ∀ r q, r < q → q < m → id r ≠ id q
/-- The operations of R171 by the OP code of ARED (R286). -/
def opOfCode (n : Nat) : RedOp := [.add, .fadd, .min, .max, .minu, .maxu, .and, .or].getD n .xor
/-- Byte j of what every member receives, of the m members' sources, by the block of rank 0 (R286). -/
def received (i : Instr) (b : List Byte) (m : Nat) (src : Nat → List Byte) (j : Nat) : Byte :=
  let len := bytesAt b 8 4
  let word := fun r => BitVec.ofNat 32 (bytesAt (src r) (j / 4 * 4) 4)
  match i with
  | .ared _ _ _ => (leBytes 4 ((List.range (m - 1)).foldl (fun a r => reduced (opOfCode (blk b 12)) a (word (r + 1))) (word 0)).toNat).getD (j % 4) 0
  | .agath _ _ _ => (src (j / len)).getD (j % len) 0
  | _ => (src (blk b 14)).getD j 0

end Sys2Proof.Claims

/-- R286: a collective's block that passes its checks starts one operation for the workgroup; a team of one workgroup completes it
once issued: ARED and AGATH give the member's own bytes, and BCAST those of rank 0, and no other byte of memory changes. -/
def Sys2Proof.Claims.CollectiveOfOne : Prop :=
  (∀ (s : State) (ts : List Thread) (t : Thread) (w : Workgroup) (l : Launch) (i : Instr) (hd : HReg) (tag : Tag) (va : VReg) (key target : Nat),
    s.Elects i ts t w → (i = .ared hd tag va ∨ i = .agath hd tag va ∨ i = .bcast hd tag va) → s.launchOf w = some l →
    s.checkNear t.ref.wg t.handler (t.getV va.toNat) 16 16 = .ok (key, target) → s.nearPoisoned key 16 = false →
    let b := s.nearLoad key 16
    let m := w.team (blk b 13 % 4)
    m.getLsbD 31 = true → collOk (collKind i) (ranksOf l (teamIndex m)).length b = true →
    ∃ n, exec i s = .next n ∧ (∃ op, Tbl.find n.ops s.nextId = some op ∧ op.instr = i ∧ op.tag = some tag)
      ∧ (∀ u ∈ ts, ∃ u', n.thread u.ref = some u' ∧ u'.pc = u.pc + 4 ∧ u'.v = u.v ∧ u'.getH hd = .pending s.nextId
          ∧ ∀ k, k ≠ hd → u'.getH k = u.getH k)
      ∧ n.mem = s.mem ∧ n.near = s.near)
  ∧ (∀ (s : State) (launch team idx id : Nat) (l : Launch) (m : MemberWord) (op : Op) (src dst t1 t2 : Nat), s.launch launch = some l →
    Tbl.get [] l.teams team = [m] → m.kind = 0 → m.dev = s.mgmt.orbitDev.toNat → l.retired = [] →
    Tbl.find s.colls (collKey launch team idx) = some { ops := [(m.index, id)] } → Tbl.find s.ops id = some op → op.failed = 0 → collLen op.block % 4 = 0 →
    (∃ hd tag va, op.instr = .agath hd tag va ∨ (op.instr = .bcast hd tag va ∧ blk op.block 14 = 0) ∨ op.instr = .ared hd tag va) →
    s.checkNear op.wg false (BitVec.ofNat 32 (bytesAt op.block 0 4)) (collLen op.block) 16 = .ok (src, t1) →
    s.checkNear op.wg false (BitVec.ofNat 32 (bytesAt op.block 4 4)) (collLen op.block) 16 = .ok (dst, t2) →
    s.nearPoisoned src (collLen op.block) = false →
    ∃ n, exec (.collectiveCompletion launch team idx) s = .next n ∧ Claims.Completes s n id op 0x00 ∧ n.mem = s.mem
      ∧ Claims.NearWrites s n dst (s.nearRead src (collLen op.block)))

/-- R286: a collective of m workgroup members of this device. Where their kinds, OPs, LENs or ROOTs differ, every member completes
PARAM and nothing is written. Where they agree and every access passes, every member completes OK, and each DST, which no other
one overlaps, receives the same bytes: ARED the fold in ascending rank from rank 0's element, AGATH every SRC in rank order, BCAST
the SRC of rank ROOT; no other byte changes. A member that retired without its operation gives the others TARGET_GONE. -/
def Sys2Proof.Claims.CollectiveOfMany : Prop :=
  (∀ (s : State) (launch team idx m : Nat) (id : Nat → Nat) (op : Nat → Op), Claims.AllIssued s launch team idx m id op →
    (∀ r, r < m → (collKind (op r).instr, blk (op r).block 12, bytesAt (op r).block 8 4, blk (op r).block 14)
        ≠ (collKind (op 0).instr, blk (op 0).block 12, bytesAt (op 0).block 8 4, blk (op 0).block 14) →
      ∃ n, exec (.collectiveCompletion launch team idx) s = .next n ∧ (∀ q, q < m → Claims.Over s n (id q) (op q) 0x0A)
        ∧ n.mem = s.mem ∧ n.near = s.near ∧ n.merge = s.merge)
    ∧ ∀ (src dst : Nat → Nat),
      let len := bytesAt (op 0).block 8 4
      let size := if collKind (op 0).instr = 1 then m * len else len
      0 < m → len % 16 = 0 → (collKind (op 0).instr = 2 → blk (op 0).block 14 < m) →
      (∃ hd tag va, (op 0).instr = .ared hd tag va ∨ (op 0).instr = .agath hd tag va ∨ (op 0).instr = .bcast hd tag va) →
      (∀ r, r < m → (op r).failed = 0 ∧ collKind (op r).instr = collKind (op 0).instr ∧ blk (op r).block 12 = blk (op 0).block 12
        ∧ bytesAt (op r).block 8 4 = len ∧ blk (op r).block 14 = blk (op 0).block 14
        ∧ (∃ t, s.checkNear (op r).wg false (BitVec.ofNat 32 (bytesAt (op r).block 0 4)) len 16 = .ok (src r, t)) ∧ s.nearPoisoned (src r) len = false
        ∧ (∃ t, s.checkNear (op r).wg false (BitVec.ofNat 32 (bytesAt (op r).block 4 4)) size 16 = .ok (dst r, t))) →
      (∀ r q, r < m → q < m → r ≠ q → dst r + size ≤ dst q ∨ dst q + size ≤ dst r) →
      ∃ n g, exec (.collectiveCompletion launch team idx) s = .next n ∧ (∀ q, q < m → Claims.Over s n (id q) (op q) 0x00)
        ∧ n.mem = s.mem ∧ Claims.NearBecomes s n g
        ∧ ∀ a v, g a = some v ↔ ∃ r j, r < m ∧ j < size ∧ a = dst r + j
            ∧ v = Claims.received (op 0).instr (op 0).block m (fun q => s.nearRead (src q) len) j)
  ∧ (∀ (s : State) (launch team idx : Nat) (l : Launch) (c : Collective) (ms : List MemberWord) (e : MemberWord), s.launch launch = some l →
    Tbl.find s.colls (collKey launch team idx) = some c → (Tbl.get [] l.teams team).filter (fun e => e.kind == 0) = ms → e ∈ ms →
    e.dev = s.mgmt.orbitDev.toNat → e.index ∈ l.retired → Tbl.find c.ops e.index = none →
    ∃ n, exec (.collectiveCompletion launch team idx) s = .next n ∧ n.mem = s.mem ∧ n.near = s.near ∧ n.merge = s.merge
      ∧ ∀ f ∈ ms, ∀ k o, f.dev = s.mgmt.orbitDev.toNat → Tbl.find c.ops f.index = some k → Tbl.find s.ops k = some o →
        Claims.Over s n k o 0x07)

/-- Collectives: their issue, and their end with one member and with several. -/
def Obligations.Collectives : Prop := Claims.CollectiveOfOne ∧ Claims.CollectiveOfMany

/-- R269, R273, R274, R275: in handler mode DSAV stores the 128 bytes of the thread's image, with nothing outstanding, in the
workgroup's own allocation; DRST of an image that passes its checks installs it. The thread goes on. -/
def Obligations.Images : Prop :=
  ∀ (s : State) (t : Thread) (w : Workgroup) (va : VReg) (key : Nat), s.Issues [t] → t.handler = true →
    s.checkNear t.ref.wg t.handler (t.getV va.toNat) 128 16 = .ok (key, t.ref.wg) →
    (s.Runs (.dsav va) t w →
      (t.busyImage = true → exec (.dsav va) s = .next (s.trapWord t 0x17 3).finish)
      ∧ (t.busyImage = false → ∃ n, exec (.dsav va) s = .next n ∧ n.thread t.ref = some t.advance
        ∧ (∀ k, k < 128 → n.nearSeen (key + k) = t.image.getD k 0) ∧ n.mem = s.mem ∧ n.near = s.near
        ∧ bytesAt t.image 0 2 = t.depth % 65536 ∧ t.image.getD 2 0 = t.p &&& 0xFE))
    ∧ (s.Runs (.drst va) t w → s.nearPoisoned key 128 = false → imageOk w t.ref.tid (s.nearLoad key 128) = true →
      let b := s.nearLoad key 128
      ∃ n u, exec (.drst va) s = .next n ∧ n.thread t.ref = some u ∧ u.pc = t.pc + 4 ∧ u.depth = bytesAt b 0 2
        ∧ u.p = b.getD 2 0 &&& 0xFE ∧ u.role = BitVec.ofNat 32 (bytesAt b 72 4) ∧ u.batch = BitVec.ofNat 16 (bytesAt b 36 2)
        ∧ u.v = t.v ∧ n.mem = s.mem ∧ n.near = s.near)

namespace Sys2Proof.Claims

/-- The run of a hint word (R99-R104): the run so far, which has no hint of its kind, with the hint joined. -/
def joined (i : Instr) (r : HintRun) : Option HintRun :=
  match i with
  | .imm p => if r.imm.isSome then none else some { r with imm := some p }
  | .pred p neg => if r.pred.isSome then none else some { r with pred := some (p, neg) }
  | .ipf _ _ => if r.ipf then none else some { r with ipf := true }
  | .sched y h => if r.sched.isSome then none else some { r with sched := some (y, h) }
  | .rmode m => if r.rmode.isSome then none else some { r with rmode := some m }
  | _ => none
def isHint (i : Instr) : Bool :=
  match i with
  | .imm _ => true
  | .pred _ _ => true
  | .ipf _ _ => true
  | .sched _ _ => true
  | .rmode _ => true
  | _ => false

end Sys2Proof.Claims

/-- R99, R103, R104: a hint joins the run that waits for its target and goes on, changing no register; a second hint of a kind is an
illegal instruction, DETAIL 6, reported at the run's first word. -/
def Obligations.HintRuns : Prop :=
  ∀ (s : State) (t : Thread) (w : Workgroup) (i : Instr), s.Issues [t] → s.wgOf t.ref = some w → Claims.isHint i = true →
    (t.inRun = false ∨ t.pc ≠ t.runHi) →
    let run := t.hint.getD { first := t.pc, imm := none, pred := none, ipf := false, sched := none, rmode := none }
    (∀ r, Claims.joined i run = some r →
      ∃ n u, exec i s = .next n ∧ n.thread t.ref = some u ∧ u = { t with hint := some r, pc := t.pc + 4, stall := .none }
        ∧ (∀ q, refKey q ≠ refKey t.ref → n.thread q = s.thread q) ∧ n.mem = s.mem ∧ n.near = s.near ∧ n.wgs = s.wgs
        ∧ ∀ c, { n.core c with tlb := (s.core c).tlb } = s.core c)
    ∧ (Claims.joined i run = none → exec i s = .next (s.trapWord t 0x01 6).finish)

/-! ## Issue groups, instruction lines, owned lines -/

namespace Sys2Proof.Claims

/-- The threads have changed at most in their holdoff, their age, their yield and their place in the grouping table, which no
instruction reads. -/
def OnlyTurns (s n : State) : Prop :=
  (∀ r, n.thread r = none ↔ s.thread r = none)
  ∧ ∀ r t u, s.thread r = some t → n.thread r = some u → 
    u = { t with holdoff := u.holdoff, since := u.since, yield := u.yield, grouping := u.grouping }

end Sys2Proof.Claims

/-- R149, R150, R151: a quarter with a ready thread forms one issue group: ready threads of one PC and one partition, at most one a lane;
where no thread has set a yield, and the table's 256 entries take every ready thread, one that has been ready longest is among them. Nothing
else changes but the clock. That a core's clock advances by one with each issue group is the model's choice (log entry 19). -/
def Obligations.IssueGroups : Prop :=
  ∀ (s : State) (core q : Nat), s.Keyed → (∃ t ∈ s.quarterThreads core q, s.threadReady t = true) →
    ∃ n g, exec (.issueGroupFormation (.quarter core q)) s = .next n ∧ n.issue = some g ∧ g.unit = .quarter core q ∧ g.members ≠ []
      ∧ (∀ r ∈ g.members, ∃ t, s.thread r = some t ∧ t.ref = r ∧ t ∈ s.quarterThreads core q ∧ s.threadReady t = true ∧ t.pc = g.pc)
      ∧ (g.members.map s.laneOfRef).Nodup
      ∧ (∀ a ∈ g.members, ∀ b ∈ g.members, s.partOfRef a = s.partOfRef b)
      ∧ ((∀ t ∈ s.quarterThreads core q, s.threadReady t = true → t.yield = false) →
          ((s.quarterThreads core q).filter s.threadReady).length ≤ 256 →
          ∃ r ∈ g.members, ∃ t, s.thread r = some t ∧ ∀ u ∈ s.quarterThreads core q, s.threadReady u = true → t.since ≤ u.since)
      ∧ Claims.OnlyTurns s n ∧ (n.core core).cyc = (s.core core).cyc + 1 ∧ n.mem = s.mem ∧ n.near = s.near ∧ n.wgs = s.wgs
      ∧ n.launches = s.launches ∧ n.reqs = s.reqs ∧ n.ops = s.ops

/-- R102, R264, R311, R366: the word of a ready engine role is issued by itself; a holdoff that has run out ends; a line that arrives in a
cluster's instruction cache holds the bytes of memory, and the threads whose fetch waited for it go on. No register changes. That a holdoff
ends once at most one step of it is left is the model's choice (log entry 19). -/
def Sys2Proof.Claims.TurnEvents : Prop :=
  (∀ (s : State) (l tm r k : Nat) (role : RoleSt) (w : Workgroup), s.roleAt l tm r = some (role, k, w) → s.engineReady l tm r = true →
    exec (.issueGroupFormation (.engine l tm r)) s = .next { s with issue := some { unit := .engine l tm r, pc := role.pc, members := [] } })
  ∧ (∀ (s : State) (t : Thread), s.thread t.ref = some t → t.holdoff ≤ 1 →
    ∃ n, exec (.schedHoldoffExpiry t.ref) s = .next n ∧ n.thread t.ref = some { t with holdoff := 0 }
      ∧ (∀ q, refKey q ≠ refKey t.ref → n.thread q = s.thread q) ∧ n = { s with threads := n.threads })
  ∧ (∀ (s : State) (cluster line : Nat) (t : Thread) (w : Workgroup) (x : Xlate), s.Keyed → s.thread t.ref = some t → t.stall = .fetch →
    s.wgOf t.ref = some w → clusterOf w.core = cluster → s.tlbLook (s.partOf w) w.core t.pc.toNat = some x → x.pa / 128 = line →
    ∃ n, exec (.instructionCacheFill cluster line) s = .next n ∧ n.thread t.ref = some { t with stall := .none } ∧ n.mem = s.mem
      ∧ n.near = s.near ∧ n.wgs = s.wgs
      ∧ Tbl.find n.icache (icacheKey cluster line)
          = (match Tbl.find s.icache (icacheKey cluster line) with
            | some old => some old
            | none => some (s.memRead (line * 128) 128)))

/-- R291, R293, R308: a recalled line leaves its owner, whose release set and whose promotion vector keep no mark of it, and passes to
another core, whose clean copy goes; or its owner evicts it, and no core owns it; a promotion request empties the release set of the core it
names, whose lines the L2 holds dirty then, where it has room for them (R309). No byte of memory changes. A recall that names the owner is
the model's event of an eviction (log entry 36). -/
def Sys2Proof.Claims.LinesMove : Prop :=
  (∀ (s : State) (line core owner : Nat), Tbl.find s.owners line = some owner →
    ∃ n, exec (.lineRecall line core) s = .next n ∧ Tbl.find n.owners line = (if core = owner then none else some core)
      ∧ (core ≠ owner → Tbl.find (n.core core).clean line = none)
      ∧ line ∉ (n.core owner).release ∧ n.mem = s.mem ∧ n.near = s.near ∧ n.threads = s.threads)
  ∧ (∀ (s : State) (src dst : Nat),
    ∃ n, exec (.promotionRequest src dst) s = .next n ∧ (n.core dst).release = []
      ∧ (n.core src).promote = (s.core src).promote &&& ~~~(1#256 <<< dst)
      ∧ ((∀ qd, (s.l2.filter (fun e => quadOf e.1 == qd)).length + (s.core dst).release.length ≤ l2Lines) →
          ∀ l ∈ (s.core dst).release, isDevice (l * 128) = true → Tbl.get false n.l2 l = true)
      ∧ n.mem = s.mem ∧ n.near = s.near ∧ n.threads = s.threads ∧ n.owners = s.owners)

/-- Turns of engine roles, holdoffs, instruction lines, and lines that change their owner. -/
def Obligations.TurnsAndLines : Prop := Claims.TurnEvents ∧ Claims.LinesMove

/-! ## Pre-emption -/

/-- R232, R233, R269: PPT goes on, unless a pre-emption is pending against a workgroup that owns a tile or a slot and the thread is not
in a handler: the thread stops at the word, and its live mask, without tiles and slots the workgroup does not own, is recorded. -/
def Sys2Proof.Claims.PreemptionPoints : Prop :=
  ∀ (s : State) (t : Thread) (w : Workgroup) (sk : SReg), s.Issues [t] → s.Runs (.ppt sk) t w →
    ((w.preempt = none ∨ s.holdsMx t.ref.wg w = false ∨ t.handler = true) →
      exec (.ppt sk) s = .next (s.onThread t.ref Thread.advance).over)
    ∧ (∀ p, w.preempt = some p → s.holdsMx t.ref.wg w = true → t.handler = false →
      ∃ n v m, exec (.ppt sk) s = .next n ∧ n.thread t.ref = some { t.arm with stall := .point } ∧ n.wg t.ref.wg = some v
        ∧ v = { w with preempt := some { p with live := p.live ||| m } }
        ∧ (∀ i, i < 24 → m.getLsbD i = ((w.getS sk.toNat).getLsbD i
            && (if i < 16 then decide (i < w.tiles) else (s.core w.core).owns t.ref.wg (i - 16))))
        ∧ n.mem = s.mem ∧ n.near = s.near ∧ (∀ r, refKey r ≠ refKey t.ref → n.thread r = s.thread r))

/-- R367, R370: a PRE_REQ write sets the hold state of the launch it names; with ONLYHOLD 0 it is pending against each resident
workgroup of it, and against no other; policy pre-empts a workgroup of a weak launch whose queue has a negative deficit while another
queue has a startable workgroup and credit, and of no other launch. -/
def Sys2Proof.Claims.PreemptionRequests : Prop :=
  (∀ (s : State) (p : Nat) (value : DWord) (l : Launch), Tbl.risingFrom 0 s.wgs = true → s.launch (fieldOf value 31 0).toNat = some l → l.part = p →
    s.serves (.vf p) 0 = true →
    let lid := (fieldOf value 31 0).toNat
    (∃ n m, exec (.preReqPreempt p value) s = .next n ∧ n.launch lid = some m ∧ m.hold = value.getLsbD 32
      ∧ (∀ g w, s.wg g = some w → w.launch = lid → ∃ q, n.wg g = some { w with preempt := some q }
          ∧ (w.preempt = none → q = { since := (s.core w.core).cyc.toNat, byPolicy := false, taken := false, live := 0 })
          ∧ (∀ old, w.preempt = some old → q = old))
      ∧ (∀ g w, s.wg g = some w → w.launch ≠ lid → n.wg g = some w) ∧ n.threads = s.threads ∧ n.mem = s.mem)
    ∧ exec (.preReqHoldOnly p value) s = .next (s.onLaunch lid (fun l => { l with hold := value.getLsbD 32 })))
  ∧ (∀ (s : State) (g : Nat) (w : Workgroup) (l : Launch), s.wg g = some w → s.launchOf w = some l →
    (∀ k, k < 256 → k ≠ l.queue → (s.queue k).owner = some l.part → 0 < (s.queue k).deficit.toInt → (s.queueStart k).isSome = true →
      l.progress = 0 → (s.queue l.queue).deficit.toInt < 0 → w.preempt = none →
      ∃ n, exec (.firmwarePreemption g) s = .next n ∧ n.threads = s.threads ∧ n.mem = s.mem
        ∧ n.wg g = some { w with preempt := some { since := (s.core w.core).cyc.toNat, byPolicy := true, taken := false, live := 0 } })
    ∧ ((l.progress ≠ 0 ∨ 0 ≤ (s.queue l.queue).deficit.toInt) → exec (.firmwarePreemption g) s = .next s))

/-- R233, R269, R369: once the core can raise it, the pre-emption trap of a workgroup with one live thread writes the save header and
the thread's frame, whose AUX is the live mask, and the thread enters its handler with class 0x14; no other byte of memory changes. -/
def Obligations.PreemptionTraps : Prop :=
  ∀ (s : State) (g : Nat) (w : Workgroup) (l : Launch) (t : Thread) (p : Preempt) (x y : Xlate), s.wg g = some w → s.launchOf w = some l →
    s.traps = [] → s.reqs = [] → s.thread t.ref = some t → t.ref.wg = g → t.exited = false → t.saved = false →
    (∀ e ∈ s.threads, e.2.ref.wg = g → e = (refKey t.ref, t)) → (s.core w.core).claims = [] →
    w.preempt = some p → s.canPreempt g w = true → l.tvec ≠ 0 →
    let area := l.saveArea w.log
    let frame := frameAddr l w t.ref.tid
    fieldOf area 63 56 = 0 → area.toNat % 64 = 0 → s.tlbLook l.part w.core area.toNat = some x → x.w = true → s.linkLost x.pa = false →
    peerRefuses x.pa = false → x.poison = false → s.memPoisoned x.pa 64 = false → (s.tlb1 w.core (area.toNat / 4096)).isSome = true →
    fieldOf frame 63 56 = 0 → frame.toNat % 64 = 0 → s.tlbLook l.part w.core frame.toNat = some y → y.w = true → s.linkLost y.pa = false →
    peerRefuses y.pa = false → y.poison = false → s.memPoisoned y.pa 64 = false → (x.pa + 64 ≤ y.pa ∨ y.pa + 64 ≤ x.pa) →
    ∃ n u, exec (.preemptionTrap g) s = .next n ∧ n.thread t.ref = some u ∧ Claims.InHandler t u l frame 0x14 0
      ∧ Claims.FrameAt n y.pa t (if t.stall = .point then t.pc + 4 else t.resumePc) 0 (1#64 <<< w.laneOf t.ref.tid) 0x14 0
          (p.live.zeroExtend 32)
      ∧ Memory.readN n.mem x.pa 64 = (s.headerFor g w).bytes
      ∧ (s.headerFor g w).shape = { width := w.width, depth := w.depth, nregs := w.nregs, calls := w.calls, near := w.near, tiles := w.tiles }
      ∧ (s.headerFor g w).version = 1 ∧ (s.headerFor g w).live = p.live
      ∧ (∀ a, (a < x.pa ∨ x.pa + 64 ≤ a) → (a < y.pa ∨ y.pa + 64 ≤ a) → Memory.read n.mem a = Memory.read s.mem a)
      ∧ n.near = s.near ∧ n.traps = []

/-- R368: a workgroup that has not stopped within PRE_BOUND is terminated: it is gone, PRE_TERM advances by one, and so does the launch's
count of terminated workgroups; one within the bound is left alone. The bound is counted in the cycles of the workgroup's core (the model's
choices, log entries 18 and 19). -/
def Sys2Proof.Claims.PreemptionBound : Prop :=
  ∀ (s : State) (g : Nat) (w : Workgroup) (l : Launch) (p : Preempt), s.wg g = some w → s.launchOf w = some l → w.preempt = some p →
    s.traps = [] → s.reqs = [] → l.dq = [] → (∀ m ∈ w.teams, teamValid m = false) → (∀ e ∈ s.ops, e.2.wg ≠ g) →
    (∃ t ∈ s.live g, t.unstopped = true) →
    (s.mgmt.preBound ≤ (s.core w.core).cyc.toNat - p.since →
      ∃ n m, exec (.preemptionTermination g) s = .next n ∧ n.wg g = none ∧ n.launch w.launch = some m ∧ m.failed = l.failed + 1
        ∧ m.done = l.done ∧ m.cycles = l.cycles + s.chargeOf w ∧ (n.part l.part).preTerm = (s.part l.part).preTerm + 1)
    ∧ ((s.core w.core).cyc.toNat - p.since < s.mgmt.preBound → exec (.preemptionTermination g) s = .next s)

/-- Pre-emption points, requests and their bound. -/
def Obligations.Preemption : Prop := Claims.PreemptionPoints ∧ Claims.PreemptionRequests ∧ Claims.PreemptionBound


/-! ## Packets, admission, the dispatcher's visits, completion, self-test -/

/-- R351, R352, R372, R403: a notify of an own enabled host-fed queue without ERR moves WR to an index between WR and a full ring, both
ends included; any other index sets ERR and the partition's QERR bit; a notify of any other queue is ignored. -/
def Sys2Proof.Claims.Doorbell : Prop :=
  ∀ (s : State) (p : Nat) (value : Word), s.serves (.vf p) 0 = true →
    let k := (fieldOf value 7 0).toNat
    let w := fieldOf value 31 16
    let q := s.queue k
    ((q.owner ≠ some p ∨ q.en = false ∨ q.dev = true ∨ q.err = true) → exec (.lqNotify p value) s = .next s)
    ∧ (q.owner = some p → q.en = true → q.dev = false → q.err = false →
      ((q.wr - q.rd).toNat ≤ (w - q.rd).toNat → (w - q.rd).toNat ≤ 2 ^ q.log2.toNat →
        ∃ n, exec (.lqNotify p value) s = .next n ∧ n.queue k = { q with wr := w } ∧ (∀ j, j ≠ k → n.queue j = s.queue j) ∧ n.parts = s.parts
          ∧ n.mem = s.mem)
      ∧ (((w - q.rd).toNat < (q.wr - q.rd).toNat ∨ 2 ^ q.log2.toNat < (w - q.rd).toNat) →
        ∃ n, exec (.lqNotify p value) s = .next n ∧ n.queue k = { q with err := true } ∧ (∀ j, j ≠ k → n.queue j = s.queue j)
          ∧ (n.part p).irqStatus = (s.part p).irqStatus ||| 4#6 ∧ n.mem = s.mem))

namespace Sys2Proof.Claims

/-- The dispatcher has read: no byte of memory, no workgroup, thread or launch changes (R353). -/
def HasRead (s m : State) : Prop :=
  m.mem = s.mem ∧ m.near = s.near ∧ m.wgs = s.wgs ∧ m.launches = s.launches ∧ m.threads = s.threads
/-- The refusal of a packet with a code, in the state m in which the dispatcher has read what it checks (R373): the queue gives the
packet up, and the record gets its CSTATUS and zeros to 0x1F; where it cannot be written, ERR of the queue is set instead (R356). -/
def Refused (m n : State) (p k : Nat) (b : List Byte) (code : Byte) : Prop :=
  let q := m.queue k
  let r := packetRecord b
  n.wgs = m.wgs ∧ n.launches = m.launches ∧ n.threads = m.threads
    ∧ (∀ x, fieldOf r 63 56 = 0 → r.toNat % 256 = 0 → m.translate p none r.toNat = .ok x → x.w = true → m.linkLost x.pa = false →
        peerRefuses x.pa = false →
        n.queue k = { q with packet := none, last := none }
          ∧ Memory.readN n.mem x.pa 32 = code :: List.replicate 31 0
          ∧ ∀ a, (a < x.pa ∨ x.pa + 32 ≤ a) → Memory.read n.mem a = Memory.read m.mem a)
    ∧ (fieldOf r 63 56 ≠ 0 → n.queue k = { q with packet := none, last := none, err := true } ∧ n.mem = m.mem)

end Sys2Proof.Claims

/-- R353, R355, R356, R359, R373, R419: the dispatcher reads the packet at slot RD whole and advances RD; a packet whose RECORD address it
cannot read or write is dropped with ERR. It reads the packet's kernel descriptor and record once, and a malformed part is refused PARAM; a
packet whose dependences are pending waits; one with a failed dependence and DEPOK is refused DEP_FAILED; one with SERIAL waits for the
queue's last launch; any other that fits is admitted as the launch numbered next, all indices pending. The model's choices: a ring slot
outside the device memory is the fault absentRing (log entry 34), and the kernel descriptor and the record are read once (log entry 18). -/
def Sys2Proof.Claims.PacketsAdmitted : Prop :=
  (∀ (s : State) (k : Nat), (s.queue k).packet ≠ none → exec (.packetRead k) s = .next s)
  ∧ (∀ (s : State) (k p : Nat), (s.queue k).owner = some p → (s.queue k).en = true → (s.queue k).err = false → (s.queue k).packet = none →
    (s.queue k).rd ≠ (s.queue k).wr →
    let q := s.queue k
    let b := s.memRead (q.slotAddr q.rd) 64
    (q.slotThere q.rd = false → exec (.packetRead k) s = .fault .absentRing)
    ∧ (q.slotThere q.rd = true → s.recordThere p (packetRecord b) = true →
      ∃ n, exec (.packetRead k) s = .next n ∧ Claims.HasRead s n
        ∧ n.queue k = { q with rd := q.rd + 1, packet := some { bytes := b, after := q.last, read := none, met := 0, broke := false } })
    ∧ (q.slotThere q.rd = true → s.recordThere p (packetRecord b) = false →
      ∃ n, exec (.packetRead k) s = .next n ∧ Claims.HasRead s n ∧ n.queue k = { q with rd := q.rd + 1, err := true }))
  ∧ (∀ (s : State) (k p : Nat) (pk : Packet), (s.queue k).owner = some p → (s.queue k).packet = some pk →
    let m := (s.readOnce p k pk).2
    Claims.HasRead s m ∧ (m.queue k).packet = some { pk with read := some (s.readOnce p k pk).1 } ∧ (pk.read ≠ none → m = s)
    ∧ ((s.readOnce p k pk).1 = none → ∃ n, exec (.launchAdmission k) s = .next n ∧ Claims.Refused m n p k pk.bytes 0x06)
    ∧ (∀ l0, (s.readOnce p k pk).1 = some l0 →
      let l := m.numbered l0
      let d := (m.deps p k pk).2
      (pk.read = none → l.part = p ∧ l.queue = k ∧ l.groups = bytesAt pk.bytes 4 4 ∧ l.args = BitVec.ofNat 64 (bytesAt pk.bytes 16 8)
        ∧ l.record = packetRecord pk.bytes ∧ l.next = 0 ∧ l.done = 0 ∧ l.failed = 0 ∧ l.saved = [] ∧ l.retired = [])
      ∧ Claims.HasRead s d
      ∧ (m.coresOk l = false → ∃ n, exec (.launchAdmission k) s = .next n ∧ Claims.Refused m n p k pk.bytes 0x06)
      ∧ (m.coresOk l = true → (m.deps p k pk).1 = .unreadable →
        ∃ n, exec (.launchAdmission k) s = .next n ∧ Claims.Refused d n p k pk.bytes 0x06)
      ∧ (m.coresOk l = true → (m.deps p k pk).1 = .pending → exec (.launchAdmission k) s = .next d)
      ∧ (m.coresOk l = true → (m.deps p k pk).1 = .complete false → blk pk.bytes 3 % 2 = 1 →
        ∃ n, exec (.launchAdmission k) s = .next n ∧ Claims.Refused d n p k pk.bytes 0x05)
      ∧ (∀ ok, m.coresOk l = true → (m.deps p k pk).1 = .complete ok → (blk pk.bytes 3 % 2 = 0 ∨ ok = true) →
        (blk pk.bytes 3 / 2 % 2 = 1 → (pk.after.bind s.launch).isSome = true → exec (.launchAdmission k) s = .next d)
        ∧ ((blk pk.bytes 3 / 2 % 2 = 0 ∨ pk.after.bind s.launch = none) →
          (l.test = false → (l.cores.isEmpty = true ∨ capacityF (s.part p) l.shape = 0) →
            ∃ n, exec (.launchAdmission k) s = .next n ∧ Claims.Refused d n p k pk.bytes 0x03)
          ∧ (l.test = false → l.cores.isEmpty = false → capacityF (s.part p) l.shape ≠ 0 → l.progress = 2 → s.capacity l < l.groups →
            ∃ n, exec (.launchAdmission k) s = .next n ∧ Claims.Refused d n p k pk.bytes 0x04)
          ∧ ((l.test = true ∨ (l.cores.isEmpty = false ∧ capacityF (s.part p) l.shape ≠ 0 ∧ (l.progress = 2 → l.groups ≤ s.capacity l))) →
            ∃ n id, exec (.launchAdmission k) s = .next n ∧ n.launch id = some l
              ∧ n.queue k = { s.queue k with packet := none, last := some id } ∧ (s.launch s.nextLaunch.toNat = none → id = s.nextLaunch.toNat)
              ∧ n.wgs = s.wgs ∧ n.threads = s.threads ∧ n.mem = s.mem)))))

/-- The doorbell, and the admission of packets. -/
def Obligations.Admission : Prop := Claims.Doorbell ∧ Claims.PacketsAdmitted

/-- R39, R361, R363, R364: a visit of a queue with no launch that has a workgroup to start, and no packet waiting, cuts its credit to zero and
keeps its debt; one whose next workgroup cannot start yet leaves it. A visit of one whose next workgroup has room adds a quantum, up to two; with a positive deficit the workgroup starts at the place
that policy picks: its threads are at ENTRY with every register zero, and the launch goes on to its next index. -/
def Sys2Proof.Claims.QueueVisits : Prop :=
  ∀ (s : State) (k p : Nat) (pl : Placement), (s.queue k).owner = some p → s.nextVisit p = some k → s.traps = [] → (s.part p).reserve = none →
    (s.queue k).err = false →
    (s.queueHead k = none → (s.queue k).packet = none →
      ∃ n, exec (.queueVisit k pl) s = .next n ∧ (n.queue k).deficit.toInt = min (s.queue k).deficit.toInt 0
        ∧ (n.part p).visit = k + 1 ∧ n.wgs = s.wgs ∧ n.launches = s.launches ∧ n.threads = s.threads ∧ n.mem = s.mem)
    ∧ ((s.queueHead k = none ∧ (s.queue k).packet ≠ none ∨ (s.queueHead k).isSome = true ∧ s.queueStart k = none) →
      ∃ n, exec (.queueVisit k pl) s = .next n ∧ n.queue k = s.queue k ∧ (n.part p).visit = k + 1 ∧ n.wgs = s.wgs
        ∧ n.launches = s.launches ∧ n.threads = s.threads ∧ n.mem = s.mem)
    ∧ (∀ lid l, s.queueStart k = some (lid, l, .fresh) → (s.taskPlace lid l (.fresh l.next)).isSome = true →
      let c := min ((s.queue k).deficit.toInt + (s.queue k).quantum.toNat * 1024) (2 * ((s.queue k).quantum.toNat * 1024))
      (c ≤ 0 → ∃ n, exec (.queueVisit k pl) s = .next n ∧ (n.queue k).deficit = BitVec.ofInt 64 c ∧ (n.part p).visit = k + 1
        ∧ n.wgs = s.wgs ∧ n.launches = s.launches ∧ n.threads = s.threads ∧ n.mem = s.mem)
      ∧ (0 < c → s.fitsAt lid l l.next false l.shape 0 0 pl = true → s.launch lid = some l → l.width * l.depth ≤ 512 →
        ∃ n w, exec (.queueVisit k pl) s = .next n ∧ (n.queue k).deficit = BitVec.ofInt 64 c ∧ (n.part p).visit = k + 1
          ∧ n.wg s.nextId = some w ∧ w.launch = lid ∧ w.log = l.next ∧ w.core = pl.core ∧ w.quarter = pl.quarter ∧ w.lane = pl.lane
          ∧ w.width = l.width ∧ w.depth = l.depth ∧ w.nregs = l.nregs ∧ w.near = l.near ∧ w.preempt = none
          ∧ w.getS 0 = fieldOf l.args 31 0 ∧ w.getS 1 = fieldOf l.args 63 32
          ∧ w.getS 2 = fieldOf l.record 31 0 ∧ w.getS 3 = fieldOf l.record 63 32
          ∧ n.launch lid = some { l with next := l.next + 1 }
          ∧ ∀ tid, tid < l.width * l.depth → ∃ t, n.thread { wg := s.nextId, tid := tid } = some t ∧ t.pc = l.entry
            ∧ (∀ r, t.getV r = 0) ∧ (∀ k, t.getP k = decide (k = 0)) ∧ (∀ k, t.getH k = .empty) ∧ t.depth = 0 ∧ t.ret = [] ∧ t.fpflags = 0
            ∧ t.outLd = [] ∧ t.outSt = [] ∧ t.outTl = [] ∧ t.ops = [] ∧ t.batch = 0 ∧ t.batches = [] ∧ t.draw = 0
            ∧ t.handler = false ∧ t.exited = false ∧ t.stall = .none))

/-- R270, R276, R361, R370, R390, R391, R396, R403: the restore of a saved workgroup whose header passes the checks places it: each thread that
was live at the save is in the handler at TVEC with class 0x19 and its frame's address; the launch no longer holds it saved. A
header that fails holds the launch, counts in RST_CNT, raises RESTORE, and installs nothing. -/
def Sys2Proof.Claims.Restores : Prop :=
  ∀ (s : State) (g lid : Nat) (l : Launch) (x : SavedWg) (p : Nat) (pl : Placement),
    s.launches.find? (fun e => e.2.saved.any (fun y => y.id == g)) = some (lid, l) → s.launch lid = some l → x.id = g →
    (s.queue l.queue).owner = some p → s.nextVisit p = some l.queue → s.traps = [] → (s.part p).reserve = none → l.part = p →
    (s.queue l.queue).err = false → s.queueStart l.queue = some (lid, l, .restore x) →
    let h := (s.headerAt l x).1
    (s.restoreReasons l x.wg.log h = 0 → (s.taskPlace lid l (.restore x h)).isSome = true → 0 < (s.queue l.queue).credit →
      s.fitsAt lid l x.wg.log true h.shape h.slots (fieldOf h.books 3 0) pl = true → l.tvec ≠ 0 → x.books = [] → x.wg.fields = [] →
      (∀ i ∈ x.tids, i < 512) →
      ∃ n w, exec (.workgroupRestore g pl) s = .next n ∧ n.wg g = some w ∧ w.launch = lid ∧ w.log = x.wg.log ∧ w.core = pl.core
        ∧ w.quarter = pl.quarter ∧ w.lane = pl.lane ∧ w.width = h.shape.width ∧ w.depth = h.shape.depth
        ∧ n.launch lid = some { l with saved := l.saved.filter (fun y => y.id != g) }
        ∧ ∀ i ∈ x.tids, ∃ t, n.thread { wg := g, tid := i } = some t ∧ t.handler = true ∧ t.pc = fieldOf l.tvec 55 0
          ∧ t.getPair 0 = frameAddr l w i ∧ t.getV 2 = 0x19 ∧ t.getV 3 = 0 ∧ ∀ k, 4 ≤ k → t.getV k = 0)
    ∧ (s.restoreReasons l x.wg.log h ≠ 0 →
      ∃ n, exec (.workgroupRestore g pl) s = .next n ∧ n.launch lid = some { l with hold := true } ∧ n.wgs = s.wgs ∧ n.threads = s.threads
        ∧ n.mem = s.mem ∧ (n.part p).rstCnt = (s.part p).rstCnt + 1 ∧ (n.part p).irqStatus = (s.part p).irqStatus ||| 8#6
        ∧ ((s.part p).rstValid = false → (n.part p).rstValid = true ∧ (n.part p).rstLaunch = BitVec.ofNat 32 lid
            ∧ (n.part p).rstReason = s.restoreReasons l x.wg.log h ∧ (n.part p).rstWg = BitVec.ofNat 32 x.wg.log)
        ∧ ((s.part p).rstValid = true → (n.part p).rstLaunch = (s.part p).rstLaunch ∧ (n.part p).rstReason = (s.part p).rstReason))

/-- The visits of the dispatcher, and restores. -/
def Obligations.Dispatch : Prop := Claims.QueueVisits ∧ Claims.Restores

/-- R355, R356, R360: a launch outside deterministic modes whose every index has retired writes its record (CSTATUS OK, or FAILED where
a workgroup was terminated, CFLAGS, WGDONE, WGFAIL, CYCLES, zeros), interrupts where IRQ is set, and is gone. No other byte changes. -/
def Sys2Proof.Claims.LaunchesComplete : Prop :=
  ∀ (s : State) (lid : Nat) (l : Launch) (x : Xlate), s.launch lid = some l → s.launchOver lid l = true → l.test = false → l.det = 0 →
    let s1 := l.cores.foldl (fun s c => s.releaseCore c) s
    fieldOf l.record 63 56 = 0 → l.record.toNat % 256 = 0 → s1.translate l.part none l.record.toNat = .ok x → x.w = true →
    (∀ m, s1.writeVa l.part none (l.record + 4) l.counts none = .ok m → m.translate l.part none l.record.toNat = .ok x) →
    s.linkLost x.pa = false → peerRefuses x.pa = false →
    let status : Byte := if l.failed = 0 ∧ l.aborted = false then 0x01 else 0x02
    ∃ n, exec (.launchCompletion lid) s = .next n ∧ n.launch lid = none
      ∧ Memory.readN n.mem x.pa 32 = [status, 0, 0, 0] ++ leBytes 4 (if l.reexec then 1 else 0) ++ leBytes 4 l.done ++ leBytes 4 l.failed
          ++ leBytes 8 l.cycles ++ List.replicate 8 0
      ∧ (∀ a, (a < x.pa ∨ x.pa + 32 ≤ a) → Memory.read n.mem a = Memory.read s.mem a)
      ∧ (l.irq = true → (n.part l.part).irqStatus = (s.part l.part).irqStatus ||| 1#6)
      ∧ (l.irq = false → (n.part l.part).irqStatus = (s.part l.part).irqStatus)
      ∧ (∀ c ∈ l.cores, (n.core c).release = []) ∧ n.near = s.near ∧ n.wgs = s.wgs ∧ n.threads = s.threads

/-- R391: an abort terminates every resident workgroup of the launch it names; the launch holds no saved one, and is marked so that it
completes FAILED. A launch of another partition is not touched. -/
def Sys2Proof.Claims.LaunchesAbort : Prop :=
  ∀ (s : State) (p : Nat) (value : Word) (l : Launch), s.launch value.toNat = some l → s.traps = [] →
    s.serves (.vf p) 0 = true →
    (l.part = p → ∃ n m, exec (.launchAbort p value) s = .next n ∧ n.launch value.toNat = some m ∧ m.aborted = true ∧ m.saved = []
      ∧ n.residents value.toNat = [])
    ∧ (l.part ≠ p → exec (.launchAbort p value) s = .next s)

/-- Launches complete, or are aborted. -/
def Obligations.LaunchesEnd : Prop := Claims.LaunchesComplete ∧ Claims.LaunchesAbort

/-- R371, R393, R394, R395: the self-test of a named core that is empty and untested counts it and marks it passed; a core that fails is
marked failed, goes offline, and leaves a contained record with SOURCE 7 in the bank of the unit that failed: one of its quarters, its
near slice, L1, FFU, copy unit or matrix engine. -/
def Obligations.SelfTests : Prop :=
  ∀ (s : State) (k core lid : Nat) (l : Launch), s.launches.find? (fun e => e.2.queue == k && e.2.test) = some (lid, l) →
    s.launch lid = some l → l.logicalOf core < l.cores.length → l.mask.getLsbD (l.logicalOf core) = true →
    l.tested.getLsbD (l.logicalOf core) = false → (s.wgsOn core).isEmpty = true →
    let bit := 1#256 <<< l.logicalOf core
    (∃ n, exec (.selfTest k core none) s = .next n
      ∧ n.launch lid = some { l with tested := l.tested ||| bit, done := l.done + 1, passed := l.passed ||| bit } ∧ n.online = s.online
      ∧ n.mem = s.mem)
    ∧ (∀ type part, core < 256 → (type = 1 ∧ part < 4 ∨ 2 ≤ type ∧ type ≤ 6) →
      let bank := bankId type (if type = 1 then 4 * core + part else core)
      (s.bank bank).slots = [] →
      ∃ n m r, exec (.selfTest k core (some (type, part))) s = .next n ∧ n.launch lid = some m ∧ m.tested = l.tested ||| bit ∧ m.done = l.done + 1
        ∧ m.failed = l.failed + 1 ∧ m.broke = l.broke ||| bit ∧ m.passed = l.passed ∧ n.isOnline core = false
        ∧ (∀ c, c ≠ core → n.isOnline c = s.isOnline c) ∧ Tbl.find (n.bank bank).slots ((s.bank bank).next.toNat % 4) = some r
        ∧ r.cls = 2 ∧ r.source = 7 ∧ n.mem = s.mem)

/-! ## Walks, the fault ring, invalidation -/

/-- R159, R324, R326: the walk of a page serves every thread of a quadrant that waits for it: with a leaf, their cores hold the translation
and the threads execute their word again; with none, the threads of the word stop, one record of them goes to the fault ring at HEAD, and FAULT
is raised. Until then no register of theirs has changed. -/
def Sys2Proof.Claims.Walks : Prop :=
  ∀ (s : State) (p page kind : Nat) (va cyc : DWord) (t : Thread) (w : Workgroup) (l : Launch), s.Keyed → s.traps = [] →
    s.thread t.ref = some t → t.exited = false → t.stall = .walk page kind va cyc → s.wgOf t.ref = some w → s.launchOf w = some l → l.part = p →
    (∀ u ∈ Tbl.vals s.threads, failKey u = none) → (s.part p).waits = [] →
    (∀ u ∈ Tbl.vals s.threads, s.waitsWalk p page u = true → s.quadOfRef u.ref = w.core / 64) →
    (∀ leaf, s.walk (w.core / 64) p (page * 4096) = .ok leaf →
      ∃ n, exec (.translationWalk p page) s = .next n ∧ n.thread t.ref = some { t with stall := .none }
        ∧ n.tlb1 w.core page = some leaf ∧ n.mem = s.mem ∧ n.near = s.near ∧ n.wgs = s.wgs
        ∧ ∀ u, s.thread u.ref = some u → s.waitsWalk p page u = false → n.thread u.ref = some u)
    ∧ (∀ level cause, s.walk (w.core / 64) p (page * 4096) = .error (level, cause) → (s.part p).fqEn = true → (s.part p).fqHead + 1 ≠ (s.part p).fqTail →
      (∀ u ∈ Tbl.vals s.threads, u.ref ≠ t.ref → walkKey u = none) →
      let a := (fieldOf (s.part p).fqBase 51 17).toNat * 2 ^ 17 + 32 * (s.part p).fqHead.toNat
      ∃ n, exec (.translationWalk p page) s = .next n
        ∧ n.thread t.ref = some { t with stall := .fault (some (s.part p).fqHead.toNat) kind va (BitVec.ofNat 8 (level + 8 * cause)) cyc }
        ∧ (n.part p).fqHead = (s.part p).fqHead + 1 ∧ (n.part p).irqStatus = (s.part p).irqStatus ||| 2#6
        ∧ Claims.memNat n a 8 = va.toNat ∧ Claims.memNat n (a + 8) 8 = (1#64 <<< w.laneOf t.ref.tid).toNat
        ∧ Claims.memNat n (a + 16) 4 = w.launch % 2 ^ 32 ∧ Claims.memNat n (a + 20) 4 = w.log % 2 ^ 32
        ∧ Claims.memNat n (a + 24) 1 = l.logicalOf w.core % 256 ∧ Claims.memNat n (a + 25) 1 = w.quarter % 256
        ∧ Claims.memNat n (a + 26) 1 = kind % 256 ∧ Claims.memNat n (a + 28) 4 = 0
        ∧ Memory.read n.mem (a + 27) = (if (s.part p).fqLap then BitVec.ofNat 8 (level + 8 * cause) ||| 0x80 else BitVec.ofNat 8 (level + 8 * cause))
        ∧ (∀ b, (b < a ∨ a + 32 ≤ b) → Memory.read n.mem b = Memory.read s.mem b) ∧ n.near = s.near)

/-- R327: a replay lets every thread of the waiting record execute its word again; a decline gives it the trap of class 0x06 with the
faulting address; an answer to an index without a waiting record is ignored. The record is gone after either. -/
def Sys2Proof.Claims.FaultAnswers : Prop :=
  ∀ (s : State) (p i : Nat), s.serves (.vf p) 0 = true →
    ((s.part p).waiting i = none → exec (.fqRespReplay p i) s = .next s ∧ exec (.fqRespDecline p i) s = .next s)
    ∧ (∀ f, (s.part p).waiting i = some f →
      (∃ n, exec (.fqRespReplay p i) s = .next n ∧ (n.part p).waiting i = none
        ∧ (∀ t, s.thread t.ref = some t → t.ref ∈ f.threads → n.thread t.ref = some { t with stall := .none })
        ∧ (∀ r, (∀ q ∈ f.threads, refKey q ≠ refKey r) → n.thread r = s.thread r) ∧ n.mem = s.mem ∧ n.near = s.near ∧ n.wgs = s.wgs)
      ∧ (∀ t kind va walk cyc, f.threads = [t.ref] → s.thread t.ref = some t → t.stall = .fault (some i) kind va walk cyc →
        exec (.fqRespDecline p i) s = .next (((s.onPart p (fun x => { x with waits := x.waits.filter (fun g => g.index != some i) })).onThread
          t.ref (fun u => { u with stall := .none })).trapData t 0x06 0 va).settleTraps))

/-- Walks, fault records, and the answers of the driver. -/
def Obligations.WalksAndFaults : Prop := Claims.Walks ∧ Claims.FaultAnswers

/-- R323, R325, R329: a write of GO while no invalidation runs sets BUSY and removes every translation that meets the pages of its scope,
and no other, from the TLBs of the partition's cores and clusters, and its pointer entries that lead to them from the walkers; while BUSY
it is ignored. BUSY clears once nothing that translated through a removed entry is left, and the lines of the removed pages are then
written back; until then it stays. -/
def Obligations.Invalidations : Prop :=
  (∀ (s : State) (p scope page n : Nat) (value : Word) (i : Instr),
    (i = .xltInvPage p value ∧ scope = 0 ∧ page = (s.part p).invPage ∧ n = 1
      ∨ i = .xltInvRange p value ∧ scope = 1 ∧ page = (s.part p).invPage ∧ n = (fieldOf value 15 4).toNat + 1
      ∨ i = .xltInvPartition p value ∧ scope = 2 ∧ page = 0 ∧ n = 2 ^ 52) →
    s.serves (.vf p) 0 = true → value.getLsbD 0 = true → fieldOf value 2 1 = BitVec.ofNat 2 scope →
    let out := fun (e : TlbEntry) => e.page < page + n ∧ page < e.page + e.size
    ((s.part p).invBusy = true → exec i s = .next s)
    ∧ ((s.part p).invBusy = false →
      ∃ m, exec i s = .next m ∧ (m.part p).invBusy = true ∧ (m.part p).inv = value &&& 0x0000FFF6
        ∧ (∀ c, (s.part p).clusters.getLsbD (clusterOf c) = true → ∀ e, e ∈ (m.core c).tlb ↔ e ∈ (s.core c).tlb ∧ ¬ out e)
        ∧ (∀ c, (s.part p).clusters.getLsbD (clusterOf c) = false → m.core c = s.core c)
        ∧ (∀ k, (s.part p).clusters.getLsbD k = true → ∀ e, e ∈ Tbl.get [] m.ctlbs k ↔ e ∈ Tbl.get [] s.ctlbs k ∧ ¬ out e)
        ∧ (∀ k, (s.part p).clusters.getLsbD k = false → Tbl.get [] m.ctlbs k = Tbl.get [] s.ctlbs k)
        ∧ (∀ q e, e ∈ Tbl.get [] m.ptrs q ↔ e ∈ Tbl.get [] s.ptrs q ∧ ¬ (e.part = p ∧ e.meets page n = true))
        ∧ (∀ q, q ≠ p → m.part q = s.part q) ∧ m.mem = s.mem ∧ m.near = s.near ∧ m.wgs = s.wgs ∧ m.reqs = s.reqs))
  ∧ (∀ (s : State) (p : Nat), (s.part p).invBusy = true →
    ((∀ i ∈ (s.part p).invWaits, Tbl.find s.reqs i = none ∧ Tbl.find s.ops i = none) →
      ∃ m, exec (.invalidationComplete p) s = .next m ∧ (m.part p).invBusy = false
        ∧ (∀ e ∈ s.owners, (s.part p).goneLine e.1 = true → Tbl.find m.owners e.1 = none) ∧ m.mem = s.mem ∧ m.near = s.near
        ∧ m.threads = s.threads ∧ m.ctlbs = s.ctlbs ∧ (∀ c, (m.core c).tlb = (s.core c).tlb))
    ∧ ((∃ i ∈ (s.part p).invWaits, Tbl.find s.reqs i ≠ none ∨ Tbl.find s.ops i ≠ none) → exec (.invalidationComplete p) s = .next s))

/-! ## Registers and the host -/

/-- R6, R347, R403: a 1 written to IRQ_STATUS clears its bit; a write of IRQ_MASK sends the message of each set bit that it unmasks;
CLR zeroes every counter of the control page, and nothing else of it. -/
def Sys2Proof.Claims.InterruptRegisters : Prop :=
  (∀ (s : State) (p : Nat) (value : Word), s.serves (.vf p) 0 = true →
    (∃ n, exec (.irqStatusClear (.vf p) value) s = .next n
      ∧ n.part p = { s.part p with irqStatus := (s.part p).irqStatus &&& ~~~(fieldOf value 5 0) } ∧ n.sent = s.sent ∧ n.mem = s.mem)
    ∧ (∃ n, exec (.irqMaskWrite (.vf p) value) s = .next n ∧ n.part p = { s.part p with irqMask := fieldOf value 5 0 } ∧ n.mem = s.mem
      ∧ n.sent = s.sent ++ ((List.range 6).filter (fun i => (s.part p).irqStatus.getLsbD i && (s.part p).irqMask.getLsbD i
          && !value.getLsbD i)).map (.msix (.vf p) ·)))
  ∧ (∀ (s : State) (value : Word), s.serves .pf 0 = true →
    (∃ n, exec (.irqStatusClear .pf value) s = .next n
      ∧ n = { s with mgmt := { s.mgmt with irqStatus := s.mgmt.irqStatus &&& ~~~(fieldOf value 5 0) } })
    ∧ (∃ n, exec (.irqMaskWrite .pf value) s = .next n ∧ n.mgmt = { s.mgmt with irqMask := fieldOf value 5 0 }
      ∧ n.sent = s.sent ++ ((List.range 6).filter (fun i => s.mgmt.irqStatus.getLsbD i && s.mgmt.irqMask.getLsbD i
          && !value.getLsbD i)).map (.msix .pf ·)))
  ∧ (∀ (s : State) (p : Nat) (value : Word), s.serves (.vf p) 0 = true →
    (value.getLsbD 0 = true → ∃ n x, exec (.mvcCtlClr p value) s = .next n ∧ n.part p = x ∧ n = { s with parts := n.parts } ∧ (∀ q, q ≠ p → n.part q = s.part q)
      ∧ x = { s.part p with mvc := x.mvc, slip := x.slip, preTerm := x.preTerm, mcCont := x.mcCont, rstCnt := x.rstCnt, aturCnt := x.aturCnt,
                            reexec := x.reexec, linkDrop := x.linkDrop }
      ∧ (∀ off, 0x308 ≤ off → off ≤ 0x348 → off % 8 = 0 → n.ctlRead p off = 0)
      ∧ n.ctlRead p 0x410 = 0 ∧ n.ctlRead p 0x418 = 0 ∧ n.ctlRead p 0x500 = 0 ∧ n.ctlRead p 0x518 = 0 ∧ n.ctlRead p 0x610 = 0
      ∧ n.ctlRead p 0x620 = 0 ∧ n.ctlRead p 0x628 = 0)
    ∧ (value.getLsbD 0 = false → exec (.mvcCtlClr p value) s = .next s))

/-- R5, R6, R329, R372: a control-page register is written by its access codes: XLT_ROOT keeps its reserved bits zero and ignores a write
while the partition has a live launch, LQ_BASE one while the queue is enabled; a misaligned write, one of another width and one to an offset
without a register change nothing. That a misaligned write, or one of another width, changes nothing is the model's reading (log entry 27). -/
def Sys2Proof.Claims.RegisterWrites : Prop :=
  ∀ (s : State) (p : Nat) (value : DWord), s.serves (.vf p) 0 = true →
    (s.partLive p = false → ∃ n, exec (.registerWrite (.vf p) 0x200 8 value) s = .next n
      ∧ n.part p = { s.part p with xltRoot := value &&& 0x000FFFFFFFFFF001 } ∧ n.mem = s.mem ∧ n.threads = s.threads)
    ∧ (s.partLive p = true → exec (.registerWrite (.vf p) 0x200 8 value) s = .next s)
    ∧ (∃ n, exec (.registerWrite (.vf p) 0x208 8 value) s = .next n ∧ n.part p = { s.part p with invVa := value &&& 0x00FFFFFFFFFFF000 })
    ∧ (∀ k, k < 256 → (s.queue k).owner = some p →
      ((s.queue k).en = false → ∃ n, exec (.registerWrite (.vf p) (0x1000 + 32 * k) 8 value) s = .next n
        ∧ n.queue k = { s.queue k with ring := fieldOf value 51 12 } ∧ ∀ j, j ≠ k → n.queue j = s.queue j)
      ∧ ((s.queue k).en = true → ∃ n, exec (.registerWrite (.vf p) (0x1000 + 32 * k) 8 value) s = .next n ∧ n.queue k = s.queue k))
    ∧ (∀ k, k < 256 → (s.queue k).owner ≠ some p → ∀ r, r < 32 → r % 4 = 0 → exec (.registerWrite (.vf p) (0x1000 + 32 * k + r) 4 value) s = .next s)
    ∧ (∀ off width, (width ≠ 4 ∧ width ≠ 8 ∨ off % width ≠ 0) → exec (.registerWrite (.vf p) off width value) s = .next s)
    ∧ (∀ off, 0x630 ≤ off → off < 0x1000 → off % 4 = 0 → exec (.registerWrite (.vf p) off 4 value) s = .next s)

/-- Registers that the host writes. -/
def Obligations.Registers : Prop := Claims.InterruptRegisters ∧ Claims.RegisterWrites

/-- R300, R379, R398, R399: a host write to device memory that the function reaches changes its bytes and no other; a read of bytes that are
not poisoned answers with them and changes no memory; a read of BAR0 answers with the registers; any other request is answered Unsupported
Request, which the function's AER log records, and changes nothing else. That a posted write which is refused is answered and logged in the
same way is the model's reading (log entry 27). -/
def Obligations.HostAccesses : Prop :=
  ∀ (s : State) (fn : PcieFn) (off : Nat),
    (∀ data, s.serves fn 2 = true → s.reaches fn off data.length = true →
      ∃ n, exec (.hostWrite fn off data) s = .next n ∧ Claims.Writes s.mem n.mem off data ∧ n.near = s.near ∧ n.sent = s.sent
        ∧ n.threads = s.threads ∧ (∀ r ∈ n.reserves, r.near = false → (linesOf off data.length).contains r.line = false))
    ∧ (∀ data, (s.serves fn 2 = false ∨ s.reaches fn off data.length = false) → exec (.hostWrite fn off data) s = .next (s.unsupported fn))
    ∧ (∀ k, s.serves fn 2 = true → s.reaches fn off k = true → s.memPoisoned off k = false →
      ∃ n, exec (.hostRead fn 2 off k) s = .next n ∧ n.sent = s.sent ++ [.readData (s.memRead off k)] ∧ n.mem = s.mem ∧ n.near = s.near
        ∧ n.threads = s.threads)
    ∧ (∀ k, s.serves fn 0 = true → exec (.hostRead fn 0 off k) s = .next (s.send (.readData (s.bar0Read fn off k))))
    ∧ (∀ bar k, s.serves fn bar = false → s.servesFatal fn bar off k = false → exec (.hostRead fn bar off k) s = .next (s.unsupported fn))
    ∧ (∀ k, s.serves fn 2 = true → s.reaches fn off k = false → exec (.hostRead fn 2 off k) s = .next (s.unsupported fn))
    ∧ (s.mgmt.power = true → (s.unsupported fn).sent = s.sent ++ [.unsupported]
      ∧ (s.unsupported fn).mgmt = { s.mgmt with aer := s.mgmt.aer ||| match fn with
          | .pf => 0x100
          | .vf p => if p < 8 then 1#9 <<< p else 0 }
      ∧ (s.unsupported fn).mem = s.mem ∧ (s.unsupported fn).near = s.near ∧ (s.unsupported fn).threads = s.threads
      ∧ (s.unsupported fn).parts = s.parts)
    ∧ (s.mgmt.power = false → s.unsupported fn = s)

/-- R171, R172, R173, R301, R401, R404: a 32-bit AtomicOp of the host to a system-atomic page, or a peer's atomic to an exported frame,
answers with the old word and writes the new one; a peer's LR takes a reservation, and its SC stores where its thread holds one; a refused
AtomicOp is answered Unsupported Request and counted in ATUR_CNT of the frame's partition; a peer request for a frame that is not exported
gets a negative reply. Refused requests change no memory. The page that has the system-atomic attribute is looked up in the tree of the
frame's owner (the model's reading, log entry 22). -/
def Obligations.RemoteAtomics : Prop :=
  (∀ (s : State) (fn : PcieFn) (off p : Nat) (kind : HostAtom) (value cmp : Word), s.serves fn 2 = true → off % 4 = 0 →
    s.reaches fn off 4 = true → s.frameOwner (frameOf off) = some p →
    let old : Word := BitVec.ofNat 32 (leNat (s.memRead off 4))
    let new : Option Word := match kind with
      | .fetchAdd => some (old + value)
      | .swap => some value
      | .cas => if old = cmp then some value else none
    (s.saPage p off = true → s.memPoisoned off 4 = false →
      ∃ n, exec (.hostAtomicop fn 2 off 4 kind value cmp) s = .next n ∧ n.sent = s.sent ++ [.atomicOld old] ∧ n.near = s.near
        ∧ n.threads = s.threads
        ∧ match new with
          | some x => Claims.Writes s.mem n.mem off (leBytes 4 x.toNat)
          | none => n.mem = s.mem)
    ∧ (∀ size, (s.saPage p off = false ∨ size ≠ 4) →
      ∃ n, exec (.hostAtomicop fn 2 off size kind value cmp) s = .next n ∧ n.sent = s.sent ++ [.unsupported] ∧ n.mem = s.mem
        ∧ (n.part p).aturCnt = (s.part p).aturCnt + 1 ∧ (n.part p).aturLast = BitVec.ofNat 64 (off % 2 ^ 39)))
  ∧ (∀ (s : State) (dev off : Nat), s.mgmt.power = true → s.mgmt.bootState = 2 → s.mgmt.fatal = false →
    (∀ n, s.exported dev off n = true → s.memPoisoned off n = false →
      ∃ m, exec (.peerRequest dev (.read off n)) s = .next m ∧ m.sent = s.sent ++ [.peerData (s.memRead off n)] ∧ m.mem = s.mem)
    ∧ (∀ data, s.exported dev off data.length = true →
      ∃ m, exec (.peerRequest dev (.write off data)) s = .next m ∧ Claims.Writes s.mem m.mem off data ∧ m.near = s.near)
    ∧ (∀ op b c, s.exported dev off 4 = true → off % 4 = 0 → s.memPoisoned off 4 = false →
      let old : Word := BitVec.ofNat 32 (leNat (s.memRead off 4))
      ∃ m, exec (.peerRequest dev (.atomic off op b c)) s = .next m ∧ m.sent = s.sent ++ [.peerData (leBytes 4 old.toNat)]
        ∧ match Claims.swapped op old b c with
          | some x => Claims.Writes s.mem m.mem off (leBytes 4 x.toNat)
          | none => m.mem = s.mem)
    ∧ (∀ thread b, s.exported dev off 4 = true → off % 4 = 0 → s.memPoisoned off 4 = false →
      let old : Word := BitVec.ofNat 32 (leNat (s.memRead off 4))
      let holds := fun (r : Reserve) => r.peer = some dev ∧ r.thread.tid = thread ∧ r.line = off / 128
      (∃ m, exec (.peerRequest dev (.lr off thread)) s = .next m ∧ m.sent = s.sent ++ [.peerData (leBytes 4 old.toNat)] ∧ m.mem = s.mem
        ∧ ∃ r ∈ m.reserves, holds r)
      ∧ ((∃ r ∈ s.reserves, holds r) →
        ∃ m, exec (.peerRequest dev (.sc off thread b)) s = .next m ∧ m.sent = s.sent ++ [.peerData [0, 0, 0, 0]]
          ∧ Claims.Writes s.mem m.mem off (leBytes 4 b.toNat) ∧ ∀ r ∈ m.reserves, ¬ holds r)
      ∧ ((∀ r ∈ s.reserves, ¬ holds r) →
        ∃ m, exec (.peerRequest dev (.sc off thread b)) s = .next m ∧ m.sent = s.sent ++ [.peerData [1, 0, 0, 0]] ∧ m.mem = s.mem))
    ∧ (∀ n data op b c, s.exported dev off n = false → s.exported dev off data.length = false → s.exported dev (off / 4 * 4) 4 = false →
      exec (.peerRequest dev (.read off n)) s = .next (s.send .peerNegative)
      ∧ exec (.peerRequest dev (.write off data)) s = .next (s.send .peerNegative)
      ∧ exec (.peerRequest dev (.atomic off op b c)) s = .next (s.send .peerNegative)))

/-! ## Machine checks, links, background work, the fatal stop -/

/-- R374, R384, R385, R387, R388, R403: a corrected or contained event takes the next SEQ of its bank; its record names how it was detected
and what it strikes. It goes into the slot SEQ mod 4 if that is free; else a corrected one is dropped and counted, and a contained one
replaces the oldest corrected record, or sets OVL and goes to the firmware log. An acknowledgement frees the slot with its SEQ. A corrected
event changes no memory, no thread and no workgroup. MC_CONT counts each contained event, also one whose record is dropped (the model's
reading, log entry 23). -/
def Obligations.MachineCheckRecords : Prop :=
  (∀ (s : State) (type inst : Nat) (ev : McEvent), s.traps = [] → (s.classOf type inst ev = 1 ∨ s.classOf type inst ev = 2) →
    let cls := s.classOf type inst ev
    let b := s.bank (bankId type inst)
    let k := b.next.toNat % 4
    ∃ n r, exec (.machineCheckEvent type inst ev) s = .next n ∧ r.seq = b.next ∧ r.cls = cls
      ∧ (∀ code, ev.kind = .ecc code → r.source = 1 ∧ r.syndrome = code)
      ∧ (∀ stage index, ev.kind = .parity stage index → r.source = 2 ∧ fieldOf r.syndrome 7 0 = stage ∧ fieldOf r.syndrome 31 20 = 0)
      ∧ (∀ stage index e o, ev.kind = .residue stage index e o → r.source = 3 ∧ fieldOf r.syndrome 7 0 = stage
          ∧ fieldOf r.syndrome 17 16 = e ∧ fieldOf r.syndrome 19 18 = o ∧ fieldOf r.syndrome 31 20 = 0)
      ∧ (∀ pa, ev.place = .line pa → r.akind = 1 ∧ r.addr = BitVec.ofNat 64 pa ∧ r.launch = 0xFFFFFFFF ∧ r.wglog = 0xFFFFFFFF)
      ∧ (∀ core off, ev.place = .near core off → r.akind = 2 ∧ fieldOf r.addr 63 32 = 0 ∧ fieldOf r.addr 31 31 = 1
          ∧ (fieldOf r.addr 18 0).toNat = off)
      ∧ (∀ t th w, ev.place = .thread t → s.thread t = some th → s.wgOf t = some w → r.akind = 3 ∧ r.addr = th.pc.zeroExtend 64
          ∧ r.launch = BitVec.ofNat 32 w.launch ∧ r.wglog = BitVec.ofNat 32 w.log)
      ∧ (Tbl.find b.slots k = none → n.bank (bankId type inst) = { b with next := b.next + 1, slots := Tbl.insert b.slots k r })
      ∧ (Tbl.find b.slots k ≠ none → cls = 1 → n.bank (bankId type inst) = { b with next := b.next + 1, dropped := satInc b.dropped })
      ∧ (∀ old, Tbl.find b.slots k ≠ none → cls = 2 → b.oldestCorrected = some old →
          n.bank (bankId type inst) = { b with next := b.next + 1, dropped := satInc b.dropped, slots := Tbl.insert b.slots old r })
      ∧ (Tbl.find b.slots k ≠ none → cls = 2 → b.oldestCorrected = none →
          n.bank (bankId type inst) = { b with next := b.next + 1, ovl := true } ∧ n.mgmt.fwlogHead = s.mgmt.fwlogHead + 1
          ∧ n.mgmt.irqStatus.getLsbD 5 = true
          ∧ (∀ pa, ev.place = .line pa → Claims.Writes s.mem n.mem ((fieldOf s.mgmt.fwlogBase 51 12).toNat * 4096 + 64 * s.mgmt.fwlogHead.toNat)
              (r.bytes ++ leBytes 4 (bankId type inst) ++ List.replicate 28 0)))
      ∧ (cls = 2 → (∀ l, s.launch r.launch.toNat = some l → (n.part l.part).mcCont = (s.part l.part).mcCont + 1
          ∧ (n.part l.part).irqStatus.getLsbD 4 = true))
      ∧ (cls = 1 → n.parts = s.parts ∧ n.mgmt.irqStatus = s.mgmt.irqStatus ∧ n.mem = s.mem ∧ n.threads = s.threads ∧ n.wgs = s.wgs
          ∧ n.near = s.near ∧ n.poison = s.poison
          ∧ (∀ pa, ev.place = .line pa → type = 3 → Tbl.find (n.core inst).clean (pa / 128) = none)
          ∧ (∀ pa, ev.place = .line pa → type = 4 → Tbl.find (n.core inst).ffu (pa / 128) = none)))
  ∧ (∀ (s : State) (type inst : Nat) (ev : McEvent), s.classOf type inst ev = 0 → (∀ g i k, ev.place ≠ .acc g i k) →
    exec (.machineCheckEvent type inst ev) s = .next s)
  ∧ (∀ (s : State) (type inst : Nat) (seq : Word), s.serves .pf 0 = true → inst < bankCount type →
    ∃ n, exec (.mcAck type inst seq) s = .next n
      ∧ n.bank (bankId type inst) = { s.bank (bankId type inst) with slots := (s.bank (bankId type inst)).slots.filter (fun e => e.2.seq != seq) }
      ∧ (∀ id, id ≠ bankId type inst → n.bank id = s.bank id) ∧ n.mem = s.mem ∧ n.threads = s.threads)

/-- R306, R314, R375, R377, R395, R413: a contained error poisons the line or the near span it strikes, and damages the slot it strikes;
scrub poisons what it cannot correct and nothing else; an error in core control state terminates the core's workgroups and takes the core
offline. The model's readings: an activation of scrub is counted with its row (log entry 40); an error in a slot damages the whole slot, and
one in a codebook a line of 128 bytes (log entry 25). -/
def Sys2Proof.Claims.ContainedDamage : Prop :=
  (∀ (s : State) (type inst : Nat) (ev : McEvent), s.classOf type inst ev = 2 → s.traps = [] →
    (∀ pa, ev.place = .line pa → ∃ n, exec (.machineCheckEvent type inst ev) s = .next n ∧ pa / 128 ∈ n.poison ∧ n.nearPoison = s.nearPoison
      ∧ (s.reqs = [] → n.threads = s.threads) ∧ (∀ l, l ≠ pa / 128 → (l ∈ n.poison ↔ l ∈ s.poison)))
    ∧ (∀ core off, ev.place = .near core off → ∃ n, exec (.machineCheckEvent type inst ev) s = .next n
      ∧ spanOf (nearKey core off) ∈ n.nearPoison ∧ n.poison = s.poison ∧ (s.reqs = [] → n.threads = s.threads))
    ∧ (∀ core i, ev.place = .slot core i → ∃ n, exec (.machineCheckEvent type inst ev) s = .next n
      ∧ (n.core core).slot i = { (s.core core).slot i with damaged := true } ∧ n.poison = s.poison ∧ n.threads = s.threads)
    ∧ (∀ core i line, ev.place = .book core i line → ∃ n, exec (.machineCheckEvent type inst ev) s = .next n
      ∧ line ∈ ((n.core core).book i).damaged ∧ n.poison = s.poison ∧ n.threads = s.threads))
  ∧ (∀ (s : State) (x : ScrubPlace) (addr : Nat), isDevice addr = true → validPa 64 addr = true →
    (x = .dram ∨ x = .l2 ∧ (Tbl.find s.l2 (addr / 128)).isSome = true) →
    (∃ n, exec (.patrolScrub x addr .clean) s = .next n ∧ n = { s with acts := n.acts }
      ∧ (x = .dram → Tbl.get 0 n.acts (rowKey (dramBank addr) (dramRow addr)) = Tbl.get 0 s.acts (rowKey (dramBank addr) (dramRow addr)) + 1))
    ∧ (∃ n, exec (.patrolScrub x addr .correctable) s = .next n ∧ n.poison = s.poison ∧ n.threads = s.threads)
    ∧ (∃ n, exec (.patrolScrub x addr .uncorrectable) s = .next n ∧ addr / 128 ∈ n.poison ∧ (s.reqs = [] → n.threads = s.threads)))
  ∧ (∀ (s : State) (core off : Nat), core < 256 → off < 390144 →
    (∃ n, exec (.patrolScrub .near (nearKey core off) .correctable) s = .next n ∧ n.nearPoison = s.nearPoison ∧ n.near = s.near)
    ∧ (∃ n, exec (.patrolScrub .near (nearKey core off) .uncorrectable) s = .next n ∧ spanOf (nearKey core off) ∈ n.nearPoison ∧ n.near = s.near))
  ∧ (∀ (s : State) (core : Nat), core < 256 → s.isOnline core = true → s.traps = [] →
    ∃ n, exec (.coreControlError core) s = .next n ∧ n.isOnline core = false ∧ (∀ c, c ≠ core → n.isOnline c = s.isOnline c)
      ∧ ∀ e ∈ n.wgs, e.2.core ≠ core)

/-- R406, log entry 20: a replay on a link that is up leaves a corrected record in its bank; a link that goes down is down, and every
request in flight through it is over: a store is dropped, its counter falls, and LINK_DROP advances with the LINK interrupt; an asynchronous
copy through it completes LINK. What a lost link does to a request and to an operation in flight is the model's reading (log entry 24). -/
def Sys2Proof.Claims.Links : Prop :=
  ∀ (s : State) (link : Nat) (x : Link), link < 12 → Tbl.find s.links link = some x → x.up = true → s.traps = [] →
    (∃ n, exec (.flitReplay link) s = .next n ∧ n.threads = s.threads ∧ n.reqs = s.reqs ∧ n.links = s.links
      ∧ (n.bank (bankId 0x10 link)).next = (s.bank (bankId 0x10 link)).next + 1)
    ∧ (∃ n, exec (.linkDown link) s = .next n ∧ Tbl.find n.links link = some { x with up := false }
      ∧ (∀ j, j ≠ link → Tbl.find n.links j = Tbl.find s.links j) ∧ (n.bank (bankId 0x10 link)).next = (s.bank (bankId 0x10 link)).next + 1
      ∧ ∀ e ∈ n.reqs, e.2.uses s link = false)
    ∧ (∀ (id : Nat) (q : Req) (t : Thread), s.reqs = [(id, q)] → s.ops = [] → q.near = false → q.served = false → s.usesLink link q.addr = true →
      q.kind = .store → s.thread q.thread = some t →
      ∃ n, exec (.linkDown link) s = .next n ∧ n.reqs = [] ∧ n.thread q.thread = some { t with outSt := t.outSt.filter (· != q.seq) }
        ∧ (n.part (s.partOfRef q.thread)).linkDrop = (s.part (s.partOfRef q.thread)).linkDrop + 1
        ∧ (n.part (s.partOfRef q.thread)).irqStatus.getLsbD 5 = true)
    ∧ (∀ (id : Nat) (op : Op) (hd : HReg) (tag : Tag) (sp : SPair) (va : VReg) (dir : CpyDir) (sz : VecSize), s.reqs = [] → s.ops = [(id, op)] →
      op.instr = .cpy hd tag sp va dir sz → op.globals.any (s.vaUses link op.part op.core) = true →
      ∃ n, exec (.linkDown link) s = .next n ∧ Claims.Completes s n id op 0x0F)

/-- What a contained error damages, and link errors. -/
def Obligations.DamageAndLinks : Prop := Claims.ContainedDamage ∧ Claims.Links

/-- R343, R344, R347, R403, R414: ACTIVATION_ALERT, ALERT_REFRESH_DONE, DRAM_REFRESH and THROTTLE_CROSSING complete. A row whose count has
reached ACT_ALERT begins a refresh of its neighbours, which counts one pause for each partition with an MV job in that unit; a row with
fewer activations, or whose refresh is under way, begins none. The end of the refresh, and the periodic refresh, restart the counts of the
rows; a crossing of a throttle point is recorded with the THERMAL interrupt, and that of the trip is fatal. None of them changes a thread, a
workgroup or near memory. The model's choices (log entry 40): the end of the refresh restarts the count of the alerting row too, and an
alert of a row below ACT_ALERT does nothing. -/
def Obligations.BackgroundWork : Prop :=
  (∀ (s : State) (bank row : Nat),
    (s.mgmt.actAlert ≤ Tbl.get 0 s.acts (rowKey bank row) → (∀ a ∈ s.alerts, ¬ (a.bank = bank ∧ a.row = row)) →
      ∃ n a, exec (.activationAlert bank row) s = .next n ∧ n.alerts = s.alerts ++ [a] ∧ a.bank = bank ∧ a.row = row
        ∧ n.threads = s.threads ∧ n.wgs = s.wgs ∧ n.mem = s.mem ∧ n.near = s.near ∧ n.ops = s.ops ∧ n.acts = s.acts
        ∧ ∀ p, Tbl.get 0 (n.part p).mvc 8 = Tbl.get 0 (s.part p).mvc 8
            + (if s.ops.any (fun e => e.2.jobIn (bank / 4) && e.2.part == p) then 1 else 0))
    ∧ ((Tbl.get 0 s.acts (rowKey bank row) < s.mgmt.actAlert ∨ ∃ a ∈ s.alerts, a.bank = bank ∧ a.row = row) →
      exec (.activationAlert bank row) s = .next s)
    ∧ ((∃ a ∈ s.alerts, a.bank = bank ∧ a.row = row) →
      let hit := fun (j : Nat) => j = row ∨ j = row + 1 ∨ j = row + 2 ∨ j + 1 = row ∨ j + 2 = row
      ∃ n, exec (.alertRefreshDone bank row) s = .next n ∧ n = { s with alerts := n.alerts, acts := n.acts }
        ∧ (∀ a, a ∈ n.alerts ↔ a ∈ s.alerts ∧ ¬ (a.bank = bank ∧ a.row = row))
        ∧ (∀ j, hit j → Tbl.find n.acts (rowKey bank j) = none)
        ∧ ∀ k, (∀ j, hit j → k ≠ rowKey bank j) → Tbl.find n.acts k = Tbl.find s.acts k)
    ∧ (∃ n, exec (.dramRefresh bank row) s = .next n ∧ n = { s with acts := n.acts } ∧ Tbl.find n.acts (rowKey bank row) = none
      ∧ ∀ k, k ≠ rowKey bank row → Tbl.find n.acts k = Tbl.find s.acts k))
  ∧ (∀ (s : State) (quadrant level : Nat), quadrant < 4 → level < 4 → Tbl.get 0 s.mgmt.throttle quadrant ≠ level →
    ∃ n, exec (.throttleCrossing quadrant level) s = .next n ∧ Tbl.get 0 n.mgmt.throttle quadrant = level ∧ n.mgmt.irqStatus.getLsbD 3 = true
      ∧ (level < 3 → n.mgmt.fatal = s.mgmt.fatal) ∧ (level = 3 → n.mgmt.fatal = true) ∧ n.threads = s.threads ∧ n.wgs = s.wgs
      ∧ n.near = s.near)

/-- R375, R379, R381, R403: a fatal error names its record and stops the device; the inventory is then written to its region, its header
first (magic, version, number of entries, causing bank and SEQ), DONE is set and the FATAL interrupt raised; memory outside the 64 MiB
of the region is as before. An inventory that cannot be written leaves memory as it is. -/
def Obligations.FatalStops : Prop :=
  (∀ (s : State) (type inst : Nat) (ev : McEvent), s.classOf type inst ev ≠ 3 → exec (.fatalStop type inst ev) s = .next s)
  ∧ (∀ (s : State) (type inst : Nat) (ev : McEvent), s.classOf type inst ev = 3 → s.mgmt.fatal = false →
    ∃ n, exec (.fatalStop type inst ev) s = .next n ∧ n.mgmt.fatal = true ∧ n.mgmt.fatalDone = s.mgmt.fatalDone
      ∧ n.mgmt.cause = (bankId type inst, (s.bank (bankId type inst)).next) ∧ n.threads = s.threads ∧ n.wgs = s.wgs ∧ n.launches = s.launches
      ∧ n.near = s.near)
  ∧ (∀ (s : State) (ok : Bool), s.mgmt.fatal = true → s.mgmt.fatalDone = false →
    ∃ n, exec (.inventoryWrite ok) s = .next n ∧ n.mgmt.fatalDone = true ∧ n.mgmt.fatalInv = ok ∧ n.mgmt.irqStatus.getLsbD 0 = true
      ∧ n.threads = s.threads ∧ n.wgs = s.wgs
      ∧ (ok = false → n.mem = s.mem)
      ∧ (ok = true →
        let a := s.mgmt.fatalRegion.toNat
        Memory.readN n.mem a 4 = [0x56, 0x49, 0x4E, 0x56] ∧ Claims.memNat n (a + 4) 4 = 1
        ∧ Claims.memNat n (a + 8) 4 = min s.inventory.length 2097150
        ∧ Claims.memNat n (a + 12) 4 = s.mgmt.cause.1 % 2 ^ 32 ∧ Claims.memNat n (a + 16) 4 = s.mgmt.cause.2.toNat
        ∧ Claims.memNat n (a + 20) 4 = (if s.inventory.length ≤ 2097150 then 1 else 0)
        ∧ ∀ j, (j < a ∨ a + 2 ^ 26 ≤ j) → Memory.read n.mem j = Memory.read s.mem j))

/-! ## Firmware -/

namespace Sys2Proof.Claims

/-- Firmware may execute mailbox command k (R410). -/
def Called (s : State) (k : Nat) : Prop := s.mgmt.mboxBusy = true ∧ s.mgmt.mboxCmd.toNat = k ∧ s.mgmt.bootState = 2
/-- A mailbox command has ended with a status (R403, R410, R411): BUSY is clear and the MBOX interrupt bit set. -/
def Ended (s n : State) (status : BitVec 16) : Prop :=
  n.mgmt.mboxBusy = false ∧ n.mgmt.mboxStatus = status ∧ n.mgmt.irqStatus = s.mgmt.irqStatus ||| 16#6 ∧ n.threads = s.threads ∧ n.wgs = s.wgs
    ∧ n.launches = s.launches ∧ n.near = s.near
/-- A command was refused: STATUS 1, and nothing else is changed (R411). -/
def RefusedCommand (s n : State) : Prop :=
  Ended s n 1 ∧ n.mgmt.mboxData = s.mgmt.mboxData ∧ n.mem = s.mem ∧ n.parts = s.parts ∧ n.queues = s.queues ∧ n.poison = s.poison
    ∧ n.mgmt.retired = s.mgmt.retired ∧ n.mgmt.fusedSvn = s.mgmt.fusedSvn ∧ n.mgmt.snap = s.mgmt.snap ∧ n.mgmt.preBound = s.mgmt.preBound
/-- The n bytes of MBOX_DATA from an offset on. -/
def result (s : State) (lo n : Nat) : List Byte := Memory.readN s.mgmt.mboxData lo n

end Sys2Proof.Claims

/-- R408, R418: PCIe reset clears the machine, keeps the fuses, and brings firmware up from the package flash: READY where the image passes
the checks, FAIL where it does not; LOAD repeats them on the staged image, once the state is FAIL. Power-down loses all state. That LOAD
acts only in FAIL (log entry 26), and that memory is empty after power-down and after a reset that ends in FAIL (log entry 2), are the
model's choices. -/
def Obligations.BringUp : Prop :=
  (∀ s : State, ∃ n, exec .pcieReset s = .next n ∧ n.mgmt.power = true ∧ n.threads = [] ∧ n.wgs = [] ∧ n.launches = [] ∧ n.queues = []
    ∧ n.reqs = [] ∧ n.ops = [] ∧ n.near = [] ∧ n.parts = [] ∧ n.mgmt.fusedSvn = s.mgmt.fusedSvn ∧ n.mgmt.fatal = false
    ∧ (s.imageOk Config.flashImage = true → n.mgmt.bootState = 2 ∧ n.mgmt.orbitDev = Config.orbitDevice.zeroExtend 8)
    ∧ (s.imageOk Config.flashImage = false → n.mgmt.bootState = 3 ∧ n.mem = []))
  ∧ (∀ s : State, ∃ n, exec .powerDown s = .next n ∧ n.mgmt.power = false ∧ n.threads = [] ∧ n.wgs = [] ∧ n.launches = [] ∧ n.queues = []
    ∧ n.reqs = [] ∧ n.ops = [] ∧ n.mem = [] ∧ n.near = [] ∧ n.parts = [] ∧ n.mgmt.fusedSvn = s.mgmt.fusedSvn)
  ∧ (∀ (s : State) (value : Word), s.serves .pf 0 = true →
    ((value.getLsbD 0 = false ∨ s.mgmt.bootState ≠ 3) → exec (.bootCtlLoad value) s = .next s)
    ∧ (value.getLsbD 0 = true → s.mgmt.bootState = 3 →
      ∃ n, exec (.bootCtlLoad value) s = .next n
        ∧ (s.imageOk (Memory.readN s.mgmt.staging 0 (2 ^ 24)) = true → n.mgmt.bootState = 2
            ∧ n.mgmt.svn = BitVec.ofNat 16 (bytesAt (Memory.readN s.mgmt.staging 0 (2 ^ 24)) 8 4))
        ∧ (s.imageOk (Memory.readN s.mgmt.staging 0 (2 ^ 24)) = false → n.mgmt.bootState = 3 ∧ n.mem = s.mem)))

/-- R402, R410, R411, R412: PART_SET gives a partition its clusters, frames, host window and queues, or releases them; POLICY_SET sets a
policy, clamped to its range; a command that is refused ends with STATUS 1 and changes nothing. -/
def Sys2Proof.Claims.Configuration : Prop :=
  (∀ s : State, Claims.Called s 1 →
    (s.partSetOk = true →
      let p := s.mbox 0 1
      ∃ n, exec .partSet s = .next n ∧ Claims.Ended s n 0 ∧ n.mem = s.mem ∧ (∀ q, q ≠ p → n.part q = s.part q)
        ∧ (s.mbox 1 1 = 0 → n.part p = { s.part p with clusters := BitVec.ofNat 64 (s.mbox 8 8), frames := s.partRanges,
                                                       hostBase := s.mbox 48 8, hostLen := s.mbox 56 8 }
            ∧ ∀ k, k < 256 → (n.queue k).owner = (if (s.mbox (16 + k / 8) 1) / 2 ^ (k % 8) % 2 = 1 then some p
                else if (s.queue k).owner = some p then none else (s.queue k).owner))
        ∧ (s.mbox 1 1 = 1 → n.part p = { s.part p with clusters := 0, frames := [], hostBase := 0, hostLen := 0 }
            ∧ ∀ k, k < 256 → (n.queue k).owner = (if (s.queue k).owner = some p then none else (s.queue k).owner)))
    ∧ (s.partSetOk = false → ∃ n, exec .partSet s = .next n ∧ Claims.RefusedCommand s n))
  ∧ (∀ s : State, Claims.Called s 2 →
    (∀ e, s.policyOk = true → s.policyEntries = [e] →
      ∃ n, exec .policySet s = .next n ∧ Claims.Ended s n 0 ∧ n.mem = s.mem
        ∧ (e.item = 1 → (n.queue e.index).quantum = BitVec.ofNat 16 (max 1 (min 65535 e.value)))
        ∧ (e.item = 3 → n.mgmt.actAlert = max 256 (min 8192 e.value))
        ∧ (e.item = 4 → n.mgmt.preBound = max (2 ^ 12) (min (2 ^ 32) e.value))
        ∧ (e.item ≠ 4 → n.mgmt.preBound = s.mgmt.preBound) ∧ (e.item ≠ 1 → n.queues = s.queues) ∧ (e.item ≠ 12 → n.parts = s.parts))
    ∧ (s.policyOk = false → ∃ n, exec .policySet s = .next n ∧ Claims.RefusedCommand s n))

/-- R408, R409, R410, R411: ATTEST answers with the report, whose nonce, fused version and number of online cores stand at their places;
CERT with the certificate and its length; FUSE_SVN raises the fused version to the running image's; TELEMETRY answers with a snapshot
numbered one higher. A command whose arguments break its rule is refused. -/
def Sys2Proof.Claims.MailboxAnswers : Prop :=
  ∀ s : State,
    (Claims.Called s 3 →
      (s.mboxZero 32 = true → ∃ n, exec .attest s = .next n ∧ Claims.Ended s n 0 ∧ n.mem = s.mem ∧ n.parts = s.parts
        ∧ Claims.result n 116 32 = Claims.result s 0 32 ∧ leNat (Claims.result n 16 4) = s.fused % 2 ^ 32
        ∧ leNat (Claims.result n 148 4) = ((List.range 256).filter (fun c => s.isOnline c)).length
        ∧ Claims.result n 152 360 = List.replicate 360 0)
      ∧ (s.mboxZero 32 = false → ∃ n, exec .attest s = .next n ∧ Claims.RefusedCommand s n))
    ∧ (Claims.Called s 4 →
      (s.mboxZero 0 = true → ∃ n, exec .cert s = .next n ∧ Claims.Ended s n 0 ∧ n.mem = s.mem
        ∧ leNat (Claims.result n 0 4) = (Config.certificate.take 4092).length
        ∧ Claims.result n 4 (Config.certificate.take 4092).length = Config.certificate.take 4092)
      ∧ (s.mboxZero 0 = false → ∃ n, exec .cert s = .next n ∧ Claims.RefusedCommand s n))
    ∧ (Claims.Called s 6 →
      let v := s.mbox 0 4
      (s.mboxZero 4 = true → v = imageSvn s.mgmt.image → s.fused < v →
        ∃ n, exec .fuseSvn s = .next n ∧ Claims.Ended s n 0 ∧ n.mem = s.mem ∧ n.mgmt.fusedSvn = BitVec.ofNat 32 v ∧ n.mgmt.mboxData = [])
      ∧ ((s.mboxZero 4 = false ∨ v ≠ imageSvn s.mgmt.image ∨ v ≤ s.fused) → ∃ n, exec .fuseSvn s = .next n ∧ Claims.RefusedCommand s n))
    ∧ (Claims.Called s 7 →
      (s.mboxZero 0 = true → ∃ n, exec .telemetry s = .next n ∧ Claims.Ended s n 0 ∧ n.mem = s.mem ∧ n.mgmt.snap = s.mgmt.snap + 1
        ∧ leNat (Claims.result n 0 8) = (s.mgmt.snap + 1).toNat ∧ leNat (Claims.result n 36 4) = 0
        ∧ leNat (Claims.result n 40 8) = s.mgmt.reexec.toNat ∧ leNat (Claims.result n 48 8) = s.mgmt.mcCorr.toNat
        ∧ leNat (Claims.result n 56 8) = s.mgmt.mcCont.toNat)
      ∧ (s.mboxZero 0 = false → ∃ n, exec .telemetry s = .next n ∧ Claims.RefusedCommand s n))

/-- The mailbox commands, but for RETIRE_ACK. -/
def Obligations.MailboxCommands : Prop := Claims.Configuration ∧ Claims.MailboxAnswers

/-- R415, R416: firmware retires a frame by an entry in STATE 1 at the end of the list, written to its place in memory, and the RETIRE
interrupt; RETIRE_ACK turns the entry to STATE 2 in place, takes the frame from every partition and clears its poison; it is refused
where the list holds no such entry. -/
def Obligations.Retirement : Prop :=
  (∀ (s : State) (frame cause : Nat), frame < 196608 → (cause = 1 ∨ cause = 2) → s.mgmt.bootState = 2 →
    (∀ r ∈ s.mgmt.retired, r.frame ≠ frame) → s.mgmt.retired.length < 4096 →
    ∃ n r, exec (.frameRetirement frame cause) s = .next n ∧ r = { frame := frame, cause := cause, state := 1, part := s.frameOwner frame }
      ∧ n.mgmt.retired = s.mgmt.retired ++ [r] ∧ Claims.Writes s.mem n.mem (s.retireAt s.mgmt.retired.length) r.bytes
      ∧ n.mgmt.irqStatus = s.mgmt.irqStatus ||| 4#6 ∧ n.threads = s.threads ∧ n.parts = s.parts ∧ n.poison = s.poison)
  ∧ (∀ s : State, Claims.Called s 5 →
    (∀ r i, s.mgmt.retired.zipIdx.find? (fun e => e.1.frame == s.mbox 0 4 && e.1.state == 1) = some (r, i) → s.mboxZero 4 = true →
      ∃ n, exec .retireAck s = .next n ∧ Claims.Ended s n 0 ∧ n.mgmt.retired = s.mgmt.retired.set i { r with state := 2 }
        ∧ Claims.Writes s.mem n.mem (s.retireAt i) ({ r with state := 2 } : Retired).bytes
        ∧ (∀ e ∈ n.parts, ∀ g ∈ e.2.frames, ¬ (g.1 ≤ s.mbox 0 4 ∧ s.mbox 0 4 < g.1 + g.2))
        ∧ (∀ l, l ∈ n.poison ↔ l ∈ s.poison ∧ frameOf (l * 128) ≠ s.mbox 0 4))
    ∧ ((∀ r ∈ s.mgmt.retired, ¬ (r.frame = s.mbox 0 4 ∧ r.state = 1)) → ∃ n, exec .retireAck s = .next n ∧ Claims.RefusedCommand s n))
end

