-- ==== Sys2Proof/Laws/State.lean ====
section
/-! SUPPORT. What each named update of the state, of a thread and of a workgroup leaves unchanged, field by field. -/
namespace Sys2Proof.Machine

/-! Updates of the state -/

@[simp] theorem State.onThread_wgs (s : State) (r : ThreadRef) (f : Thread → Thread) : (s.onThread r f).wgs = s.wgs := rfl
@[simp] theorem State.onThread_launches (s : State) (r : ThreadRef) (f : Thread → Thread) : (s.onThread r f).launches = s.launches := rfl
@[simp] theorem State.onThread_cores (s : State) (r : ThreadRef) (f : Thread → Thread) : (s.onThread r f).cores = s.cores := rfl
@[simp] theorem State.onThread_online (s : State) (r : ThreadRef) (f : Thread → Thread) : (s.onThread r f).online = s.online := rfl
@[simp] theorem State.onThread_near (s : State) (r : ThreadRef) (f : Thread → Thread) : (s.onThread r f).near = s.near := rfl
@[simp] theorem State.onThread_merge (s : State) (r : ThreadRef) (f : Thread → Thread) : (s.onThread r f).merge = s.merge := rfl
@[simp] theorem State.onThread_empties (s : State) (r : ThreadRef) (f : Thread → Thread) : (s.onThread r f).empties = s.empties := rfl
@[simp] theorem State.onThread_nearPoison (s : State) (r : ThreadRef) (f : Thread → Thread) : (s.onThread r f).nearPoison = s.nearPoison := rfl
@[simp] theorem State.onThread_nearMarks (s : State) (r : ThreadRef) (f : Thread → Thread) : (s.onThread r f).nearMarks = s.nearMarks := rfl
@[simp] theorem State.onThread_nearWrote (s : State) (r : ThreadRef) (f : Thread → Thread) : (s.onThread r f).nearWrote = s.nearWrote := rfl
@[simp] theorem State.onThread_mem (s : State) (r : ThreadRef) (f : Thread → Thread) : (s.onThread r f).mem = s.mem := rfl
@[simp] theorem State.onThread_poison (s : State) (r : ThreadRef) (f : Thread → Thread) : (s.onThread r f).poison = s.poison := rfl
@[simp] theorem State.onThread_owners (s : State) (r : ThreadRef) (f : Thread → Thread) : (s.onThread r f).owners = s.owners := rfl
@[simp] theorem State.onThread_marks (s : State) (r : ThreadRef) (f : Thread → Thread) : (s.onThread r f).marks = s.marks := rfl
@[simp] theorem State.onThread_l2 (s : State) (r : ThreadRef) (f : Thread → Thread) : (s.onThread r f).l2 = s.l2 := rfl
@[simp] theorem State.onThread_l2cp (s : State) (r : ThreadRef) (f : Thread → Thread) : (s.onThread r f).l2cp = s.l2cp := rfl
@[simp] theorem State.onThread_frameFresh (s : State) (r : ThreadRef) (f : Thread → Thread) : (s.onThread r f).frameFresh = s.frameFresh := rfl
@[simp] theorem State.onThread_frameWrote (s : State) (r : ThreadRef) (f : Thread → Thread) : (s.onThread r f).frameWrote = s.frameWrote := rfl
@[simp] theorem State.onThread_occ (s : State) (r : ThreadRef) (f : Thread → Thread) : (s.onThread r f).occ = s.occ := rfl
@[simp] theorem State.onThread_icache (s : State) (r : ThreadRef) (f : Thread → Thread) : (s.onThread r f).icache = s.icache := rfl
@[simp] theorem State.onThread_reqs (s : State) (r : ThreadRef) (f : Thread → Thread) : (s.onThread r f).reqs = s.reqs := rfl
@[simp] theorem State.onThread_ops (s : State) (r : ThreadRef) (f : Thread → Thread) : (s.onThread r f).ops = s.ops := rfl
@[simp] theorem State.onThread_reserves (s : State) (r : ThreadRef) (f : Thread → Thread) : (s.onThread r f).reserves = s.reserves := rfl
@[simp] theorem State.onThread_struckOps (s : State) (r : ThreadRef) (f : Thread → Thread) : (s.onThread r f).struckOps = s.struckOps := rfl
@[simp] theorem State.onThread_peerOps (s : State) (r : ThreadRef) (f : Thread → Thread) : (s.onThread r f).peerOps = s.peerOps := rfl
@[simp] theorem State.onThread_queues (s : State) (r : ThreadRef) (f : Thread → Thread) : (s.onThread r f).queues = s.queues := rfl
@[simp] theorem State.onThread_parts (s : State) (r : ThreadRef) (f : Thread → Thread) : (s.onThread r f).parts = s.parts := rfl
@[simp] theorem State.onThread_mgmt (s : State) (r : ThreadRef) (f : Thread → Thread) : (s.onThread r f).mgmt = s.mgmt := rfl
@[simp] theorem State.onThread_banks (s : State) (r : ThreadRef) (f : Thread → Thread) : (s.onThread r f).banks = s.banks := rfl
@[simp] theorem State.onThread_streams (s : State) (r : ThreadRef) (f : Thread → Thread) : (s.onThread r f).streams = s.streams := rfl
@[simp] theorem State.onThread_teamBars (s : State) (r : ThreadRef) (f : Thread → Thread) : (s.onThread r f).teamBars = s.teamBars := rfl
@[simp] theorem State.onThread_colls (s : State) (r : ThreadRef) (f : Thread → Thread) : (s.onThread r f).colls = s.colls := rfl
@[simp] theorem State.onThread_links (s : State) (r : ThreadRef) (f : Thread → Thread) : (s.onThread r f).links = s.links := rfl
@[simp] theorem State.onThread_exports (s : State) (r : ThreadRef) (f : Thread → Thread) : (s.onThread r f).exports = s.exports := rfl
@[simp] theorem State.onThread_routes (s : State) (r : ThreadRef) (f : Thread → Thread) : (s.onThread r f).routes = s.routes := rfl
@[simp] theorem State.onThread_ctlbs (s : State) (r : ThreadRef) (f : Thread → Thread) : (s.onThread r f).ctlbs = s.ctlbs := rfl
@[simp] theorem State.onThread_ptrs (s : State) (r : ThreadRef) (f : Thread → Thread) : (s.onThread r f).ptrs = s.ptrs := rfl
@[simp] theorem State.onThread_alerts (s : State) (r : ThreadRef) (f : Thread → Thread) : (s.onThread r f).alerts = s.alerts := rfl
@[simp] theorem State.onThread_acts (s : State) (r : ThreadRef) (f : Thread → Thread) : (s.onThread r f).acts = s.acts := rfl
@[simp] theorem State.onThread_nextLaunch (s : State) (r : ThreadRef) (f : Thread → Thread) : (s.onThread r f).nextLaunch = s.nextLaunch := rfl
@[simp] theorem State.onThread_nextId (s : State) (r : ThreadRef) (f : Thread → Thread) : (s.onThread r f).nextId = s.nextId := rfl
@[simp] theorem State.onThread_free (s : State) (r : ThreadRef) (f : Thread → Thread) : (s.onThread r f).free = s.free := rfl
@[simp] theorem State.onThread_issue (s : State) (r : ThreadRef) (f : Thread → Thread) : (s.onThread r f).issue = s.issue := rfl
@[simp] theorem State.onThread_traps (s : State) (r : ThreadRef) (f : Thread → Thread) : (s.onThread r f).traps = s.traps := rfl
@[simp] theorem State.onThread_agenda (s : State) (r : ThreadRef) (f : Thread → Thread) : (s.onThread r f).agenda = s.agenda := rfl
@[simp] theorem State.onThread_sent (s : State) (r : ThreadRef) (f : Thread → Thread) : (s.onThread r f).sent = s.sent := rfl

@[simp] theorem State.putThread_wgs (s : State) (t : Thread) : (s.putThread t).wgs = s.wgs := rfl
@[simp] theorem State.putThread_launches (s : State) (t : Thread) : (s.putThread t).launches = s.launches := rfl
@[simp] theorem State.putThread_cores (s : State) (t : Thread) : (s.putThread t).cores = s.cores := rfl
@[simp] theorem State.putThread_online (s : State) (t : Thread) : (s.putThread t).online = s.online := rfl
@[simp] theorem State.putThread_near (s : State) (t : Thread) : (s.putThread t).near = s.near := rfl
@[simp] theorem State.putThread_merge (s : State) (t : Thread) : (s.putThread t).merge = s.merge := rfl
@[simp] theorem State.putThread_empties (s : State) (t : Thread) : (s.putThread t).empties = s.empties := rfl
@[simp] theorem State.putThread_nearPoison (s : State) (t : Thread) : (s.putThread t).nearPoison = s.nearPoison := rfl
@[simp] theorem State.putThread_nearMarks (s : State) (t : Thread) : (s.putThread t).nearMarks = s.nearMarks := rfl
@[simp] theorem State.putThread_nearWrote (s : State) (t : Thread) : (s.putThread t).nearWrote = s.nearWrote := rfl
@[simp] theorem State.putThread_mem (s : State) (t : Thread) : (s.putThread t).mem = s.mem := rfl
@[simp] theorem State.putThread_poison (s : State) (t : Thread) : (s.putThread t).poison = s.poison := rfl
@[simp] theorem State.putThread_owners (s : State) (t : Thread) : (s.putThread t).owners = s.owners := rfl
@[simp] theorem State.putThread_marks (s : State) (t : Thread) : (s.putThread t).marks = s.marks := rfl
@[simp] theorem State.putThread_l2 (s : State) (t : Thread) : (s.putThread t).l2 = s.l2 := rfl
@[simp] theorem State.putThread_l2cp (s : State) (t : Thread) : (s.putThread t).l2cp = s.l2cp := rfl
@[simp] theorem State.putThread_frameFresh (s : State) (t : Thread) : (s.putThread t).frameFresh = s.frameFresh := rfl
@[simp] theorem State.putThread_frameWrote (s : State) (t : Thread) : (s.putThread t).frameWrote = s.frameWrote := rfl
@[simp] theorem State.putThread_occ (s : State) (t : Thread) : (s.putThread t).occ = s.occ := rfl
@[simp] theorem State.putThread_icache (s : State) (t : Thread) : (s.putThread t).icache = s.icache := rfl
@[simp] theorem State.putThread_reqs (s : State) (t : Thread) : (s.putThread t).reqs = s.reqs := rfl
@[simp] theorem State.putThread_ops (s : State) (t : Thread) : (s.putThread t).ops = s.ops := rfl
@[simp] theorem State.putThread_reserves (s : State) (t : Thread) : (s.putThread t).reserves = s.reserves := rfl
@[simp] theorem State.putThread_struckOps (s : State) (t : Thread) : (s.putThread t).struckOps = s.struckOps := rfl
@[simp] theorem State.putThread_peerOps (s : State) (t : Thread) : (s.putThread t).peerOps = s.peerOps := rfl
@[simp] theorem State.putThread_queues (s : State) (t : Thread) : (s.putThread t).queues = s.queues := rfl
@[simp] theorem State.putThread_parts (s : State) (t : Thread) : (s.putThread t).parts = s.parts := rfl
@[simp] theorem State.putThread_mgmt (s : State) (t : Thread) : (s.putThread t).mgmt = s.mgmt := rfl
@[simp] theorem State.putThread_banks (s : State) (t : Thread) : (s.putThread t).banks = s.banks := rfl
@[simp] theorem State.putThread_streams (s : State) (t : Thread) : (s.putThread t).streams = s.streams := rfl
@[simp] theorem State.putThread_teamBars (s : State) (t : Thread) : (s.putThread t).teamBars = s.teamBars := rfl
@[simp] theorem State.putThread_colls (s : State) (t : Thread) : (s.putThread t).colls = s.colls := rfl
@[simp] theorem State.putThread_links (s : State) (t : Thread) : (s.putThread t).links = s.links := rfl
@[simp] theorem State.putThread_exports (s : State) (t : Thread) : (s.putThread t).exports = s.exports := rfl
@[simp] theorem State.putThread_routes (s : State) (t : Thread) : (s.putThread t).routes = s.routes := rfl
@[simp] theorem State.putThread_ctlbs (s : State) (t : Thread) : (s.putThread t).ctlbs = s.ctlbs := rfl
@[simp] theorem State.putThread_ptrs (s : State) (t : Thread) : (s.putThread t).ptrs = s.ptrs := rfl
@[simp] theorem State.putThread_alerts (s : State) (t : Thread) : (s.putThread t).alerts = s.alerts := rfl
@[simp] theorem State.putThread_acts (s : State) (t : Thread) : (s.putThread t).acts = s.acts := rfl
@[simp] theorem State.putThread_nextLaunch (s : State) (t : Thread) : (s.putThread t).nextLaunch = s.nextLaunch := rfl
@[simp] theorem State.putThread_nextId (s : State) (t : Thread) : (s.putThread t).nextId = s.nextId := rfl
@[simp] theorem State.putThread_free (s : State) (t : Thread) : (s.putThread t).free = s.free := rfl
@[simp] theorem State.putThread_issue (s : State) (t : Thread) : (s.putThread t).issue = s.issue := rfl
@[simp] theorem State.putThread_traps (s : State) (t : Thread) : (s.putThread t).traps = s.traps := rfl
@[simp] theorem State.putThread_agenda (s : State) (t : Thread) : (s.putThread t).agenda = s.agenda := rfl
@[simp] theorem State.putThread_sent (s : State) (t : Thread) : (s.putThread t).sent = s.sent := rfl

@[simp] theorem State.onLive_wgs (s : State) (g : Nat) (f : Thread → Thread) : (s.onLive g f).wgs = s.wgs := rfl
@[simp] theorem State.onLive_launches (s : State) (g : Nat) (f : Thread → Thread) : (s.onLive g f).launches = s.launches := rfl
@[simp] theorem State.onLive_cores (s : State) (g : Nat) (f : Thread → Thread) : (s.onLive g f).cores = s.cores := rfl
@[simp] theorem State.onLive_online (s : State) (g : Nat) (f : Thread → Thread) : (s.onLive g f).online = s.online := rfl
@[simp] theorem State.onLive_near (s : State) (g : Nat) (f : Thread → Thread) : (s.onLive g f).near = s.near := rfl
@[simp] theorem State.onLive_merge (s : State) (g : Nat) (f : Thread → Thread) : (s.onLive g f).merge = s.merge := rfl
@[simp] theorem State.onLive_empties (s : State) (g : Nat) (f : Thread → Thread) : (s.onLive g f).empties = s.empties := rfl
@[simp] theorem State.onLive_nearPoison (s : State) (g : Nat) (f : Thread → Thread) : (s.onLive g f).nearPoison = s.nearPoison := rfl
@[simp] theorem State.onLive_nearMarks (s : State) (g : Nat) (f : Thread → Thread) : (s.onLive g f).nearMarks = s.nearMarks := rfl
@[simp] theorem State.onLive_nearWrote (s : State) (g : Nat) (f : Thread → Thread) : (s.onLive g f).nearWrote = s.nearWrote := rfl
@[simp] theorem State.onLive_mem (s : State) (g : Nat) (f : Thread → Thread) : (s.onLive g f).mem = s.mem := rfl
@[simp] theorem State.onLive_poison (s : State) (g : Nat) (f : Thread → Thread) : (s.onLive g f).poison = s.poison := rfl
@[simp] theorem State.onLive_owners (s : State) (g : Nat) (f : Thread → Thread) : (s.onLive g f).owners = s.owners := rfl
@[simp] theorem State.onLive_marks (s : State) (g : Nat) (f : Thread → Thread) : (s.onLive g f).marks = s.marks := rfl
@[simp] theorem State.onLive_l2 (s : State) (g : Nat) (f : Thread → Thread) : (s.onLive g f).l2 = s.l2 := rfl
@[simp] theorem State.onLive_l2cp (s : State) (g : Nat) (f : Thread → Thread) : (s.onLive g f).l2cp = s.l2cp := rfl
@[simp] theorem State.onLive_frameFresh (s : State) (g : Nat) (f : Thread → Thread) : (s.onLive g f).frameFresh = s.frameFresh := rfl
@[simp] theorem State.onLive_frameWrote (s : State) (g : Nat) (f : Thread → Thread) : (s.onLive g f).frameWrote = s.frameWrote := rfl
@[simp] theorem State.onLive_occ (s : State) (g : Nat) (f : Thread → Thread) : (s.onLive g f).occ = s.occ := rfl
@[simp] theorem State.onLive_icache (s : State) (g : Nat) (f : Thread → Thread) : (s.onLive g f).icache = s.icache := rfl
@[simp] theorem State.onLive_reqs (s : State) (g : Nat) (f : Thread → Thread) : (s.onLive g f).reqs = s.reqs := rfl
@[simp] theorem State.onLive_ops (s : State) (g : Nat) (f : Thread → Thread) : (s.onLive g f).ops = s.ops := rfl
@[simp] theorem State.onLive_reserves (s : State) (g : Nat) (f : Thread → Thread) : (s.onLive g f).reserves = s.reserves := rfl
@[simp] theorem State.onLive_struckOps (s : State) (g : Nat) (f : Thread → Thread) : (s.onLive g f).struckOps = s.struckOps := rfl
@[simp] theorem State.onLive_peerOps (s : State) (g : Nat) (f : Thread → Thread) : (s.onLive g f).peerOps = s.peerOps := rfl
@[simp] theorem State.onLive_queues (s : State) (g : Nat) (f : Thread → Thread) : (s.onLive g f).queues = s.queues := rfl
@[simp] theorem State.onLive_parts (s : State) (g : Nat) (f : Thread → Thread) : (s.onLive g f).parts = s.parts := rfl
@[simp] theorem State.onLive_mgmt (s : State) (g : Nat) (f : Thread → Thread) : (s.onLive g f).mgmt = s.mgmt := rfl
@[simp] theorem State.onLive_banks (s : State) (g : Nat) (f : Thread → Thread) : (s.onLive g f).banks = s.banks := rfl
@[simp] theorem State.onLive_streams (s : State) (g : Nat) (f : Thread → Thread) : (s.onLive g f).streams = s.streams := rfl
@[simp] theorem State.onLive_teamBars (s : State) (g : Nat) (f : Thread → Thread) : (s.onLive g f).teamBars = s.teamBars := rfl
@[simp] theorem State.onLive_colls (s : State) (g : Nat) (f : Thread → Thread) : (s.onLive g f).colls = s.colls := rfl
@[simp] theorem State.onLive_links (s : State) (g : Nat) (f : Thread → Thread) : (s.onLive g f).links = s.links := rfl
@[simp] theorem State.onLive_exports (s : State) (g : Nat) (f : Thread → Thread) : (s.onLive g f).exports = s.exports := rfl
@[simp] theorem State.onLive_routes (s : State) (g : Nat) (f : Thread → Thread) : (s.onLive g f).routes = s.routes := rfl
@[simp] theorem State.onLive_ctlbs (s : State) (g : Nat) (f : Thread → Thread) : (s.onLive g f).ctlbs = s.ctlbs := rfl
@[simp] theorem State.onLive_ptrs (s : State) (g : Nat) (f : Thread → Thread) : (s.onLive g f).ptrs = s.ptrs := rfl
@[simp] theorem State.onLive_alerts (s : State) (g : Nat) (f : Thread → Thread) : (s.onLive g f).alerts = s.alerts := rfl
@[simp] theorem State.onLive_acts (s : State) (g : Nat) (f : Thread → Thread) : (s.onLive g f).acts = s.acts := rfl
@[simp] theorem State.onLive_nextLaunch (s : State) (g : Nat) (f : Thread → Thread) : (s.onLive g f).nextLaunch = s.nextLaunch := rfl
@[simp] theorem State.onLive_nextId (s : State) (g : Nat) (f : Thread → Thread) : (s.onLive g f).nextId = s.nextId := rfl
@[simp] theorem State.onLive_free (s : State) (g : Nat) (f : Thread → Thread) : (s.onLive g f).free = s.free := rfl
@[simp] theorem State.onLive_issue (s : State) (g : Nat) (f : Thread → Thread) : (s.onLive g f).issue = s.issue := rfl
@[simp] theorem State.onLive_traps (s : State) (g : Nat) (f : Thread → Thread) : (s.onLive g f).traps = s.traps := rfl
@[simp] theorem State.onLive_agenda (s : State) (g : Nat) (f : Thread → Thread) : (s.onLive g f).agenda = s.agenda := rfl
@[simp] theorem State.onLive_sent (s : State) (g : Nat) (f : Thread → Thread) : (s.onLive g f).sent = s.sent := rfl

@[simp] theorem State.onWg_threads (s : State) (g : Nat) (f : Workgroup → Workgroup) : (s.onWg g f).threads = s.threads := rfl
@[simp] theorem State.onWg_launches (s : State) (g : Nat) (f : Workgroup → Workgroup) : (s.onWg g f).launches = s.launches := rfl
@[simp] theorem State.onWg_cores (s : State) (g : Nat) (f : Workgroup → Workgroup) : (s.onWg g f).cores = s.cores := rfl
@[simp] theorem State.onWg_online (s : State) (g : Nat) (f : Workgroup → Workgroup) : (s.onWg g f).online = s.online := rfl
@[simp] theorem State.onWg_near (s : State) (g : Nat) (f : Workgroup → Workgroup) : (s.onWg g f).near = s.near := rfl
@[simp] theorem State.onWg_merge (s : State) (g : Nat) (f : Workgroup → Workgroup) : (s.onWg g f).merge = s.merge := rfl
@[simp] theorem State.onWg_empties (s : State) (g : Nat) (f : Workgroup → Workgroup) : (s.onWg g f).empties = s.empties := rfl
@[simp] theorem State.onWg_nearPoison (s : State) (g : Nat) (f : Workgroup → Workgroup) : (s.onWg g f).nearPoison = s.nearPoison := rfl
@[simp] theorem State.onWg_nearMarks (s : State) (g : Nat) (f : Workgroup → Workgroup) : (s.onWg g f).nearMarks = s.nearMarks := rfl
@[simp] theorem State.onWg_nearWrote (s : State) (g : Nat) (f : Workgroup → Workgroup) : (s.onWg g f).nearWrote = s.nearWrote := rfl
@[simp] theorem State.onWg_mem (s : State) (g : Nat) (f : Workgroup → Workgroup) : (s.onWg g f).mem = s.mem := rfl
@[simp] theorem State.onWg_poison (s : State) (g : Nat) (f : Workgroup → Workgroup) : (s.onWg g f).poison = s.poison := rfl
@[simp] theorem State.onWg_owners (s : State) (g : Nat) (f : Workgroup → Workgroup) : (s.onWg g f).owners = s.owners := rfl
@[simp] theorem State.onWg_marks (s : State) (g : Nat) (f : Workgroup → Workgroup) : (s.onWg g f).marks = s.marks := rfl
@[simp] theorem State.onWg_l2 (s : State) (g : Nat) (f : Workgroup → Workgroup) : (s.onWg g f).l2 = s.l2 := rfl
@[simp] theorem State.onWg_l2cp (s : State) (g : Nat) (f : Workgroup → Workgroup) : (s.onWg g f).l2cp = s.l2cp := rfl
@[simp] theorem State.onWg_frameFresh (s : State) (g : Nat) (f : Workgroup → Workgroup) : (s.onWg g f).frameFresh = s.frameFresh := rfl
@[simp] theorem State.onWg_frameWrote (s : State) (g : Nat) (f : Workgroup → Workgroup) : (s.onWg g f).frameWrote = s.frameWrote := rfl
@[simp] theorem State.onWg_occ (s : State) (g : Nat) (f : Workgroup → Workgroup) : (s.onWg g f).occ = s.occ := rfl
@[simp] theorem State.onWg_icache (s : State) (g : Nat) (f : Workgroup → Workgroup) : (s.onWg g f).icache = s.icache := rfl
@[simp] theorem State.onWg_reqs (s : State) (g : Nat) (f : Workgroup → Workgroup) : (s.onWg g f).reqs = s.reqs := rfl
@[simp] theorem State.onWg_ops (s : State) (g : Nat) (f : Workgroup → Workgroup) : (s.onWg g f).ops = s.ops := rfl
@[simp] theorem State.onWg_reserves (s : State) (g : Nat) (f : Workgroup → Workgroup) : (s.onWg g f).reserves = s.reserves := rfl
@[simp] theorem State.onWg_struckOps (s : State) (g : Nat) (f : Workgroup → Workgroup) : (s.onWg g f).struckOps = s.struckOps := rfl
@[simp] theorem State.onWg_peerOps (s : State) (g : Nat) (f : Workgroup → Workgroup) : (s.onWg g f).peerOps = s.peerOps := rfl
@[simp] theorem State.onWg_queues (s : State) (g : Nat) (f : Workgroup → Workgroup) : (s.onWg g f).queues = s.queues := rfl
@[simp] theorem State.onWg_parts (s : State) (g : Nat) (f : Workgroup → Workgroup) : (s.onWg g f).parts = s.parts := rfl
@[simp] theorem State.onWg_mgmt (s : State) (g : Nat) (f : Workgroup → Workgroup) : (s.onWg g f).mgmt = s.mgmt := rfl
@[simp] theorem State.onWg_banks (s : State) (g : Nat) (f : Workgroup → Workgroup) : (s.onWg g f).banks = s.banks := rfl
@[simp] theorem State.onWg_streams (s : State) (g : Nat) (f : Workgroup → Workgroup) : (s.onWg g f).streams = s.streams := rfl
@[simp] theorem State.onWg_teamBars (s : State) (g : Nat) (f : Workgroup → Workgroup) : (s.onWg g f).teamBars = s.teamBars := rfl
@[simp] theorem State.onWg_colls (s : State) (g : Nat) (f : Workgroup → Workgroup) : (s.onWg g f).colls = s.colls := rfl
@[simp] theorem State.onWg_links (s : State) (g : Nat) (f : Workgroup → Workgroup) : (s.onWg g f).links = s.links := rfl
@[simp] theorem State.onWg_exports (s : State) (g : Nat) (f : Workgroup → Workgroup) : (s.onWg g f).exports = s.exports := rfl
@[simp] theorem State.onWg_routes (s : State) (g : Nat) (f : Workgroup → Workgroup) : (s.onWg g f).routes = s.routes := rfl
@[simp] theorem State.onWg_ctlbs (s : State) (g : Nat) (f : Workgroup → Workgroup) : (s.onWg g f).ctlbs = s.ctlbs := rfl
@[simp] theorem State.onWg_ptrs (s : State) (g : Nat) (f : Workgroup → Workgroup) : (s.onWg g f).ptrs = s.ptrs := rfl
@[simp] theorem State.onWg_alerts (s : State) (g : Nat) (f : Workgroup → Workgroup) : (s.onWg g f).alerts = s.alerts := rfl
@[simp] theorem State.onWg_acts (s : State) (g : Nat) (f : Workgroup → Workgroup) : (s.onWg g f).acts = s.acts := rfl
@[simp] theorem State.onWg_nextLaunch (s : State) (g : Nat) (f : Workgroup → Workgroup) : (s.onWg g f).nextLaunch = s.nextLaunch := rfl
@[simp] theorem State.onWg_nextId (s : State) (g : Nat) (f : Workgroup → Workgroup) : (s.onWg g f).nextId = s.nextId := rfl
@[simp] theorem State.onWg_free (s : State) (g : Nat) (f : Workgroup → Workgroup) : (s.onWg g f).free = s.free := rfl
@[simp] theorem State.onWg_issue (s : State) (g : Nat) (f : Workgroup → Workgroup) : (s.onWg g f).issue = s.issue := rfl
@[simp] theorem State.onWg_traps (s : State) (g : Nat) (f : Workgroup → Workgroup) : (s.onWg g f).traps = s.traps := rfl
@[simp] theorem State.onWg_agenda (s : State) (g : Nat) (f : Workgroup → Workgroup) : (s.onWg g f).agenda = s.agenda := rfl
@[simp] theorem State.onWg_sent (s : State) (g : Nat) (f : Workgroup → Workgroup) : (s.onWg g f).sent = s.sent := rfl

@[simp] theorem State.onLaunch_threads (s : State) (l : Nat) (f : Launch → Launch) : (s.onLaunch l f).threads = s.threads := rfl
@[simp] theorem State.onLaunch_wgs (s : State) (l : Nat) (f : Launch → Launch) : (s.onLaunch l f).wgs = s.wgs := rfl
@[simp] theorem State.onLaunch_cores (s : State) (l : Nat) (f : Launch → Launch) : (s.onLaunch l f).cores = s.cores := rfl
@[simp] theorem State.onLaunch_online (s : State) (l : Nat) (f : Launch → Launch) : (s.onLaunch l f).online = s.online := rfl
@[simp] theorem State.onLaunch_near (s : State) (l : Nat) (f : Launch → Launch) : (s.onLaunch l f).near = s.near := rfl
@[simp] theorem State.onLaunch_merge (s : State) (l : Nat) (f : Launch → Launch) : (s.onLaunch l f).merge = s.merge := rfl
@[simp] theorem State.onLaunch_empties (s : State) (l : Nat) (f : Launch → Launch) : (s.onLaunch l f).empties = s.empties := rfl
@[simp] theorem State.onLaunch_nearPoison (s : State) (l : Nat) (f : Launch → Launch) : (s.onLaunch l f).nearPoison = s.nearPoison := rfl
@[simp] theorem State.onLaunch_nearMarks (s : State) (l : Nat) (f : Launch → Launch) : (s.onLaunch l f).nearMarks = s.nearMarks := rfl
@[simp] theorem State.onLaunch_nearWrote (s : State) (l : Nat) (f : Launch → Launch) : (s.onLaunch l f).nearWrote = s.nearWrote := rfl
@[simp] theorem State.onLaunch_mem (s : State) (l : Nat) (f : Launch → Launch) : (s.onLaunch l f).mem = s.mem := rfl
@[simp] theorem State.onLaunch_poison (s : State) (l : Nat) (f : Launch → Launch) : (s.onLaunch l f).poison = s.poison := rfl
@[simp] theorem State.onLaunch_owners (s : State) (l : Nat) (f : Launch → Launch) : (s.onLaunch l f).owners = s.owners := rfl
@[simp] theorem State.onLaunch_marks (s : State) (l : Nat) (f : Launch → Launch) : (s.onLaunch l f).marks = s.marks := rfl
@[simp] theorem State.onLaunch_l2 (s : State) (l : Nat) (f : Launch → Launch) : (s.onLaunch l f).l2 = s.l2 := rfl
@[simp] theorem State.onLaunch_l2cp (s : State) (l : Nat) (f : Launch → Launch) : (s.onLaunch l f).l2cp = s.l2cp := rfl
@[simp] theorem State.onLaunch_frameFresh (s : State) (l : Nat) (f : Launch → Launch) : (s.onLaunch l f).frameFresh = s.frameFresh := rfl
@[simp] theorem State.onLaunch_frameWrote (s : State) (l : Nat) (f : Launch → Launch) : (s.onLaunch l f).frameWrote = s.frameWrote := rfl
@[simp] theorem State.onLaunch_occ (s : State) (l : Nat) (f : Launch → Launch) : (s.onLaunch l f).occ = s.occ := rfl
@[simp] theorem State.onLaunch_icache (s : State) (l : Nat) (f : Launch → Launch) : (s.onLaunch l f).icache = s.icache := rfl
@[simp] theorem State.onLaunch_reqs (s : State) (l : Nat) (f : Launch → Launch) : (s.onLaunch l f).reqs = s.reqs := rfl
@[simp] theorem State.onLaunch_ops (s : State) (l : Nat) (f : Launch → Launch) : (s.onLaunch l f).ops = s.ops := rfl
@[simp] theorem State.onLaunch_reserves (s : State) (l : Nat) (f : Launch → Launch) : (s.onLaunch l f).reserves = s.reserves := rfl
@[simp] theorem State.onLaunch_struckOps (s : State) (l : Nat) (f : Launch → Launch) : (s.onLaunch l f).struckOps = s.struckOps := rfl
@[simp] theorem State.onLaunch_peerOps (s : State) (l : Nat) (f : Launch → Launch) : (s.onLaunch l f).peerOps = s.peerOps := rfl
@[simp] theorem State.onLaunch_queues (s : State) (l : Nat) (f : Launch → Launch) : (s.onLaunch l f).queues = s.queues := rfl
@[simp] theorem State.onLaunch_parts (s : State) (l : Nat) (f : Launch → Launch) : (s.onLaunch l f).parts = s.parts := rfl
@[simp] theorem State.onLaunch_mgmt (s : State) (l : Nat) (f : Launch → Launch) : (s.onLaunch l f).mgmt = s.mgmt := rfl
@[simp] theorem State.onLaunch_banks (s : State) (l : Nat) (f : Launch → Launch) : (s.onLaunch l f).banks = s.banks := rfl
@[simp] theorem State.onLaunch_streams (s : State) (l : Nat) (f : Launch → Launch) : (s.onLaunch l f).streams = s.streams := rfl
@[simp] theorem State.onLaunch_teamBars (s : State) (l : Nat) (f : Launch → Launch) : (s.onLaunch l f).teamBars = s.teamBars := rfl
@[simp] theorem State.onLaunch_colls (s : State) (l : Nat) (f : Launch → Launch) : (s.onLaunch l f).colls = s.colls := rfl
@[simp] theorem State.onLaunch_links (s : State) (l : Nat) (f : Launch → Launch) : (s.onLaunch l f).links = s.links := rfl
@[simp] theorem State.onLaunch_exports (s : State) (l : Nat) (f : Launch → Launch) : (s.onLaunch l f).exports = s.exports := rfl
@[simp] theorem State.onLaunch_routes (s : State) (l : Nat) (f : Launch → Launch) : (s.onLaunch l f).routes = s.routes := rfl
@[simp] theorem State.onLaunch_ctlbs (s : State) (l : Nat) (f : Launch → Launch) : (s.onLaunch l f).ctlbs = s.ctlbs := rfl
@[simp] theorem State.onLaunch_ptrs (s : State) (l : Nat) (f : Launch → Launch) : (s.onLaunch l f).ptrs = s.ptrs := rfl
@[simp] theorem State.onLaunch_alerts (s : State) (l : Nat) (f : Launch → Launch) : (s.onLaunch l f).alerts = s.alerts := rfl
@[simp] theorem State.onLaunch_acts (s : State) (l : Nat) (f : Launch → Launch) : (s.onLaunch l f).acts = s.acts := rfl
@[simp] theorem State.onLaunch_nextLaunch (s : State) (l : Nat) (f : Launch → Launch) : (s.onLaunch l f).nextLaunch = s.nextLaunch := rfl
@[simp] theorem State.onLaunch_nextId (s : State) (l : Nat) (f : Launch → Launch) : (s.onLaunch l f).nextId = s.nextId := rfl
@[simp] theorem State.onLaunch_free (s : State) (l : Nat) (f : Launch → Launch) : (s.onLaunch l f).free = s.free := rfl
@[simp] theorem State.onLaunch_issue (s : State) (l : Nat) (f : Launch → Launch) : (s.onLaunch l f).issue = s.issue := rfl
@[simp] theorem State.onLaunch_traps (s : State) (l : Nat) (f : Launch → Launch) : (s.onLaunch l f).traps = s.traps := rfl
@[simp] theorem State.onLaunch_agenda (s : State) (l : Nat) (f : Launch → Launch) : (s.onLaunch l f).agenda = s.agenda := rfl
@[simp] theorem State.onLaunch_sent (s : State) (l : Nat) (f : Launch → Launch) : (s.onLaunch l f).sent = s.sent := rfl

@[simp] theorem State.onCore_threads (s : State) (c : Nat) (f : CoreSt → CoreSt) : (s.onCore c f).threads = s.threads := rfl
@[simp] theorem State.onCore_wgs (s : State) (c : Nat) (f : CoreSt → CoreSt) : (s.onCore c f).wgs = s.wgs := rfl
@[simp] theorem State.onCore_launches (s : State) (c : Nat) (f : CoreSt → CoreSt) : (s.onCore c f).launches = s.launches := rfl
@[simp] theorem State.onCore_online (s : State) (c : Nat) (f : CoreSt → CoreSt) : (s.onCore c f).online = s.online := rfl
@[simp] theorem State.onCore_near (s : State) (c : Nat) (f : CoreSt → CoreSt) : (s.onCore c f).near = s.near := rfl
@[simp] theorem State.onCore_merge (s : State) (c : Nat) (f : CoreSt → CoreSt) : (s.onCore c f).merge = s.merge := rfl
@[simp] theorem State.onCore_empties (s : State) (c : Nat) (f : CoreSt → CoreSt) : (s.onCore c f).empties = s.empties := rfl
@[simp] theorem State.onCore_nearPoison (s : State) (c : Nat) (f : CoreSt → CoreSt) : (s.onCore c f).nearPoison = s.nearPoison := rfl
@[simp] theorem State.onCore_nearMarks (s : State) (c : Nat) (f : CoreSt → CoreSt) : (s.onCore c f).nearMarks = s.nearMarks := rfl
@[simp] theorem State.onCore_nearWrote (s : State) (c : Nat) (f : CoreSt → CoreSt) : (s.onCore c f).nearWrote = s.nearWrote := rfl
@[simp] theorem State.onCore_mem (s : State) (c : Nat) (f : CoreSt → CoreSt) : (s.onCore c f).mem = s.mem := rfl
@[simp] theorem State.onCore_poison (s : State) (c : Nat) (f : CoreSt → CoreSt) : (s.onCore c f).poison = s.poison := rfl
@[simp] theorem State.onCore_owners (s : State) (c : Nat) (f : CoreSt → CoreSt) : (s.onCore c f).owners = s.owners := rfl
@[simp] theorem State.onCore_marks (s : State) (c : Nat) (f : CoreSt → CoreSt) : (s.onCore c f).marks = s.marks := rfl
@[simp] theorem State.onCore_l2 (s : State) (c : Nat) (f : CoreSt → CoreSt) : (s.onCore c f).l2 = s.l2 := rfl
@[simp] theorem State.onCore_l2cp (s : State) (c : Nat) (f : CoreSt → CoreSt) : (s.onCore c f).l2cp = s.l2cp := rfl
@[simp] theorem State.onCore_frameFresh (s : State) (c : Nat) (f : CoreSt → CoreSt) : (s.onCore c f).frameFresh = s.frameFresh := rfl
@[simp] theorem State.onCore_frameWrote (s : State) (c : Nat) (f : CoreSt → CoreSt) : (s.onCore c f).frameWrote = s.frameWrote := rfl
@[simp] theorem State.onCore_occ (s : State) (c : Nat) (f : CoreSt → CoreSt) : (s.onCore c f).occ = s.occ := rfl
@[simp] theorem State.onCore_icache (s : State) (c : Nat) (f : CoreSt → CoreSt) : (s.onCore c f).icache = s.icache := rfl
@[simp] theorem State.onCore_reqs (s : State) (c : Nat) (f : CoreSt → CoreSt) : (s.onCore c f).reqs = s.reqs := rfl
@[simp] theorem State.onCore_ops (s : State) (c : Nat) (f : CoreSt → CoreSt) : (s.onCore c f).ops = s.ops := rfl
@[simp] theorem State.onCore_reserves (s : State) (c : Nat) (f : CoreSt → CoreSt) : (s.onCore c f).reserves = s.reserves := rfl
@[simp] theorem State.onCore_struckOps (s : State) (c : Nat) (f : CoreSt → CoreSt) : (s.onCore c f).struckOps = s.struckOps := rfl
@[simp] theorem State.onCore_peerOps (s : State) (c : Nat) (f : CoreSt → CoreSt) : (s.onCore c f).peerOps = s.peerOps := rfl
@[simp] theorem State.onCore_queues (s : State) (c : Nat) (f : CoreSt → CoreSt) : (s.onCore c f).queues = s.queues := rfl
@[simp] theorem State.onCore_parts (s : State) (c : Nat) (f : CoreSt → CoreSt) : (s.onCore c f).parts = s.parts := rfl
@[simp] theorem State.onCore_mgmt (s : State) (c : Nat) (f : CoreSt → CoreSt) : (s.onCore c f).mgmt = s.mgmt := rfl
@[simp] theorem State.onCore_banks (s : State) (c : Nat) (f : CoreSt → CoreSt) : (s.onCore c f).banks = s.banks := rfl
@[simp] theorem State.onCore_streams (s : State) (c : Nat) (f : CoreSt → CoreSt) : (s.onCore c f).streams = s.streams := rfl
@[simp] theorem State.onCore_teamBars (s : State) (c : Nat) (f : CoreSt → CoreSt) : (s.onCore c f).teamBars = s.teamBars := rfl
@[simp] theorem State.onCore_colls (s : State) (c : Nat) (f : CoreSt → CoreSt) : (s.onCore c f).colls = s.colls := rfl
@[simp] theorem State.onCore_links (s : State) (c : Nat) (f : CoreSt → CoreSt) : (s.onCore c f).links = s.links := rfl
@[simp] theorem State.onCore_exports (s : State) (c : Nat) (f : CoreSt → CoreSt) : (s.onCore c f).exports = s.exports := rfl
@[simp] theorem State.onCore_routes (s : State) (c : Nat) (f : CoreSt → CoreSt) : (s.onCore c f).routes = s.routes := rfl
@[simp] theorem State.onCore_ctlbs (s : State) (c : Nat) (f : CoreSt → CoreSt) : (s.onCore c f).ctlbs = s.ctlbs := rfl
@[simp] theorem State.onCore_ptrs (s : State) (c : Nat) (f : CoreSt → CoreSt) : (s.onCore c f).ptrs = s.ptrs := rfl
@[simp] theorem State.onCore_alerts (s : State) (c : Nat) (f : CoreSt → CoreSt) : (s.onCore c f).alerts = s.alerts := rfl
@[simp] theorem State.onCore_acts (s : State) (c : Nat) (f : CoreSt → CoreSt) : (s.onCore c f).acts = s.acts := rfl
@[simp] theorem State.onCore_nextLaunch (s : State) (c : Nat) (f : CoreSt → CoreSt) : (s.onCore c f).nextLaunch = s.nextLaunch := rfl
@[simp] theorem State.onCore_nextId (s : State) (c : Nat) (f : CoreSt → CoreSt) : (s.onCore c f).nextId = s.nextId := rfl
@[simp] theorem State.onCore_free (s : State) (c : Nat) (f : CoreSt → CoreSt) : (s.onCore c f).free = s.free := rfl
@[simp] theorem State.onCore_issue (s : State) (c : Nat) (f : CoreSt → CoreSt) : (s.onCore c f).issue = s.issue := rfl
@[simp] theorem State.onCore_traps (s : State) (c : Nat) (f : CoreSt → CoreSt) : (s.onCore c f).traps = s.traps := rfl
@[simp] theorem State.onCore_agenda (s : State) (c : Nat) (f : CoreSt → CoreSt) : (s.onCore c f).agenda = s.agenda := rfl
@[simp] theorem State.onCore_sent (s : State) (c : Nat) (f : CoreSt → CoreSt) : (s.onCore c f).sent = s.sent := rfl

@[simp] theorem State.onPart_threads (s : State) (p : Nat) (f : Partition → Partition) : (s.onPart p f).threads = s.threads := rfl
@[simp] theorem State.onPart_wgs (s : State) (p : Nat) (f : Partition → Partition) : (s.onPart p f).wgs = s.wgs := rfl
@[simp] theorem State.onPart_launches (s : State) (p : Nat) (f : Partition → Partition) : (s.onPart p f).launches = s.launches := rfl
@[simp] theorem State.onPart_cores (s : State) (p : Nat) (f : Partition → Partition) : (s.onPart p f).cores = s.cores := rfl
@[simp] theorem State.onPart_online (s : State) (p : Nat) (f : Partition → Partition) : (s.onPart p f).online = s.online := rfl
@[simp] theorem State.onPart_near (s : State) (p : Nat) (f : Partition → Partition) : (s.onPart p f).near = s.near := rfl
@[simp] theorem State.onPart_merge (s : State) (p : Nat) (f : Partition → Partition) : (s.onPart p f).merge = s.merge := rfl
@[simp] theorem State.onPart_empties (s : State) (p : Nat) (f : Partition → Partition) : (s.onPart p f).empties = s.empties := rfl
@[simp] theorem State.onPart_nearPoison (s : State) (p : Nat) (f : Partition → Partition) : (s.onPart p f).nearPoison = s.nearPoison := rfl
@[simp] theorem State.onPart_nearMarks (s : State) (p : Nat) (f : Partition → Partition) : (s.onPart p f).nearMarks = s.nearMarks := rfl
@[simp] theorem State.onPart_nearWrote (s : State) (p : Nat) (f : Partition → Partition) : (s.onPart p f).nearWrote = s.nearWrote := rfl
@[simp] theorem State.onPart_mem (s : State) (p : Nat) (f : Partition → Partition) : (s.onPart p f).mem = s.mem := rfl
@[simp] theorem State.onPart_poison (s : State) (p : Nat) (f : Partition → Partition) : (s.onPart p f).poison = s.poison := rfl
@[simp] theorem State.onPart_owners (s : State) (p : Nat) (f : Partition → Partition) : (s.onPart p f).owners = s.owners := rfl
@[simp] theorem State.onPart_marks (s : State) (p : Nat) (f : Partition → Partition) : (s.onPart p f).marks = s.marks := rfl
@[simp] theorem State.onPart_l2 (s : State) (p : Nat) (f : Partition → Partition) : (s.onPart p f).l2 = s.l2 := rfl
@[simp] theorem State.onPart_l2cp (s : State) (p : Nat) (f : Partition → Partition) : (s.onPart p f).l2cp = s.l2cp := rfl
@[simp] theorem State.onPart_frameFresh (s : State) (p : Nat) (f : Partition → Partition) : (s.onPart p f).frameFresh = s.frameFresh := rfl
@[simp] theorem State.onPart_frameWrote (s : State) (p : Nat) (f : Partition → Partition) : (s.onPart p f).frameWrote = s.frameWrote := rfl
@[simp] theorem State.onPart_occ (s : State) (p : Nat) (f : Partition → Partition) : (s.onPart p f).occ = s.occ := rfl
@[simp] theorem State.onPart_icache (s : State) (p : Nat) (f : Partition → Partition) : (s.onPart p f).icache = s.icache := rfl
@[simp] theorem State.onPart_reqs (s : State) (p : Nat) (f : Partition → Partition) : (s.onPart p f).reqs = s.reqs := rfl
@[simp] theorem State.onPart_ops (s : State) (p : Nat) (f : Partition → Partition) : (s.onPart p f).ops = s.ops := rfl
@[simp] theorem State.onPart_reserves (s : State) (p : Nat) (f : Partition → Partition) : (s.onPart p f).reserves = s.reserves := rfl
@[simp] theorem State.onPart_struckOps (s : State) (p : Nat) (f : Partition → Partition) : (s.onPart p f).struckOps = s.struckOps := rfl
@[simp] theorem State.onPart_peerOps (s : State) (p : Nat) (f : Partition → Partition) : (s.onPart p f).peerOps = s.peerOps := rfl
@[simp] theorem State.onPart_queues (s : State) (p : Nat) (f : Partition → Partition) : (s.onPart p f).queues = s.queues := rfl
@[simp] theorem State.onPart_mgmt (s : State) (p : Nat) (f : Partition → Partition) : (s.onPart p f).mgmt = s.mgmt := rfl
@[simp] theorem State.onPart_banks (s : State) (p : Nat) (f : Partition → Partition) : (s.onPart p f).banks = s.banks := rfl
@[simp] theorem State.onPart_streams (s : State) (p : Nat) (f : Partition → Partition) : (s.onPart p f).streams = s.streams := rfl
@[simp] theorem State.onPart_teamBars (s : State) (p : Nat) (f : Partition → Partition) : (s.onPart p f).teamBars = s.teamBars := rfl
@[simp] theorem State.onPart_colls (s : State) (p : Nat) (f : Partition → Partition) : (s.onPart p f).colls = s.colls := rfl
@[simp] theorem State.onPart_links (s : State) (p : Nat) (f : Partition → Partition) : (s.onPart p f).links = s.links := rfl
@[simp] theorem State.onPart_exports (s : State) (p : Nat) (f : Partition → Partition) : (s.onPart p f).exports = s.exports := rfl
@[simp] theorem State.onPart_routes (s : State) (p : Nat) (f : Partition → Partition) : (s.onPart p f).routes = s.routes := rfl
@[simp] theorem State.onPart_ctlbs (s : State) (p : Nat) (f : Partition → Partition) : (s.onPart p f).ctlbs = s.ctlbs := rfl
@[simp] theorem State.onPart_ptrs (s : State) (p : Nat) (f : Partition → Partition) : (s.onPart p f).ptrs = s.ptrs := rfl
@[simp] theorem State.onPart_alerts (s : State) (p : Nat) (f : Partition → Partition) : (s.onPart p f).alerts = s.alerts := rfl
@[simp] theorem State.onPart_acts (s : State) (p : Nat) (f : Partition → Partition) : (s.onPart p f).acts = s.acts := rfl
@[simp] theorem State.onPart_nextLaunch (s : State) (p : Nat) (f : Partition → Partition) : (s.onPart p f).nextLaunch = s.nextLaunch := rfl
@[simp] theorem State.onPart_nextId (s : State) (p : Nat) (f : Partition → Partition) : (s.onPart p f).nextId = s.nextId := rfl
@[simp] theorem State.onPart_free (s : State) (p : Nat) (f : Partition → Partition) : (s.onPart p f).free = s.free := rfl
@[simp] theorem State.onPart_issue (s : State) (p : Nat) (f : Partition → Partition) : (s.onPart p f).issue = s.issue := rfl
@[simp] theorem State.onPart_traps (s : State) (p : Nat) (f : Partition → Partition) : (s.onPart p f).traps = s.traps := rfl
@[simp] theorem State.onPart_agenda (s : State) (p : Nat) (f : Partition → Partition) : (s.onPart p f).agenda = s.agenda := rfl
@[simp] theorem State.onPart_sent (s : State) (p : Nat) (f : Partition → Partition) : (s.onPart p f).sent = s.sent := rfl

@[simp] theorem State.onQueue_threads (s : State) (q : Nat) (f : Queue → Queue) : (s.onQueue q f).threads = s.threads := rfl
@[simp] theorem State.onQueue_wgs (s : State) (q : Nat) (f : Queue → Queue) : (s.onQueue q f).wgs = s.wgs := rfl
@[simp] theorem State.onQueue_launches (s : State) (q : Nat) (f : Queue → Queue) : (s.onQueue q f).launches = s.launches := rfl
@[simp] theorem State.onQueue_cores (s : State) (q : Nat) (f : Queue → Queue) : (s.onQueue q f).cores = s.cores := rfl
@[simp] theorem State.onQueue_online (s : State) (q : Nat) (f : Queue → Queue) : (s.onQueue q f).online = s.online := rfl
@[simp] theorem State.onQueue_near (s : State) (q : Nat) (f : Queue → Queue) : (s.onQueue q f).near = s.near := rfl
@[simp] theorem State.onQueue_merge (s : State) (q : Nat) (f : Queue → Queue) : (s.onQueue q f).merge = s.merge := rfl
@[simp] theorem State.onQueue_empties (s : State) (q : Nat) (f : Queue → Queue) : (s.onQueue q f).empties = s.empties := rfl
@[simp] theorem State.onQueue_nearPoison (s : State) (q : Nat) (f : Queue → Queue) : (s.onQueue q f).nearPoison = s.nearPoison := rfl
@[simp] theorem State.onQueue_nearMarks (s : State) (q : Nat) (f : Queue → Queue) : (s.onQueue q f).nearMarks = s.nearMarks := rfl
@[simp] theorem State.onQueue_nearWrote (s : State) (q : Nat) (f : Queue → Queue) : (s.onQueue q f).nearWrote = s.nearWrote := rfl
@[simp] theorem State.onQueue_mem (s : State) (q : Nat) (f : Queue → Queue) : (s.onQueue q f).mem = s.mem := rfl
@[simp] theorem State.onQueue_poison (s : State) (q : Nat) (f : Queue → Queue) : (s.onQueue q f).poison = s.poison := rfl
@[simp] theorem State.onQueue_owners (s : State) (q : Nat) (f : Queue → Queue) : (s.onQueue q f).owners = s.owners := rfl
@[simp] theorem State.onQueue_marks (s : State) (q : Nat) (f : Queue → Queue) : (s.onQueue q f).marks = s.marks := rfl
@[simp] theorem State.onQueue_l2 (s : State) (q : Nat) (f : Queue → Queue) : (s.onQueue q f).l2 = s.l2 := rfl
@[simp] theorem State.onQueue_l2cp (s : State) (q : Nat) (f : Queue → Queue) : (s.onQueue q f).l2cp = s.l2cp := rfl
@[simp] theorem State.onQueue_frameFresh (s : State) (q : Nat) (f : Queue → Queue) : (s.onQueue q f).frameFresh = s.frameFresh := rfl
@[simp] theorem State.onQueue_frameWrote (s : State) (q : Nat) (f : Queue → Queue) : (s.onQueue q f).frameWrote = s.frameWrote := rfl
@[simp] theorem State.onQueue_occ (s : State) (q : Nat) (f : Queue → Queue) : (s.onQueue q f).occ = s.occ := rfl
@[simp] theorem State.onQueue_icache (s : State) (q : Nat) (f : Queue → Queue) : (s.onQueue q f).icache = s.icache := rfl
@[simp] theorem State.onQueue_reqs (s : State) (q : Nat) (f : Queue → Queue) : (s.onQueue q f).reqs = s.reqs := rfl
@[simp] theorem State.onQueue_ops (s : State) (q : Nat) (f : Queue → Queue) : (s.onQueue q f).ops = s.ops := rfl
@[simp] theorem State.onQueue_reserves (s : State) (q : Nat) (f : Queue → Queue) : (s.onQueue q f).reserves = s.reserves := rfl
@[simp] theorem State.onQueue_struckOps (s : State) (q : Nat) (f : Queue → Queue) : (s.onQueue q f).struckOps = s.struckOps := rfl
@[simp] theorem State.onQueue_peerOps (s : State) (q : Nat) (f : Queue → Queue) : (s.onQueue q f).peerOps = s.peerOps := rfl
@[simp] theorem State.onQueue_parts (s : State) (q : Nat) (f : Queue → Queue) : (s.onQueue q f).parts = s.parts := rfl
@[simp] theorem State.onQueue_mgmt (s : State) (q : Nat) (f : Queue → Queue) : (s.onQueue q f).mgmt = s.mgmt := rfl
@[simp] theorem State.onQueue_banks (s : State) (q : Nat) (f : Queue → Queue) : (s.onQueue q f).banks = s.banks := rfl
@[simp] theorem State.onQueue_streams (s : State) (q : Nat) (f : Queue → Queue) : (s.onQueue q f).streams = s.streams := rfl
@[simp] theorem State.onQueue_teamBars (s : State) (q : Nat) (f : Queue → Queue) : (s.onQueue q f).teamBars = s.teamBars := rfl
@[simp] theorem State.onQueue_colls (s : State) (q : Nat) (f : Queue → Queue) : (s.onQueue q f).colls = s.colls := rfl
@[simp] theorem State.onQueue_links (s : State) (q : Nat) (f : Queue → Queue) : (s.onQueue q f).links = s.links := rfl
@[simp] theorem State.onQueue_exports (s : State) (q : Nat) (f : Queue → Queue) : (s.onQueue q f).exports = s.exports := rfl
@[simp] theorem State.onQueue_routes (s : State) (q : Nat) (f : Queue → Queue) : (s.onQueue q f).routes = s.routes := rfl
@[simp] theorem State.onQueue_ctlbs (s : State) (q : Nat) (f : Queue → Queue) : (s.onQueue q f).ctlbs = s.ctlbs := rfl
@[simp] theorem State.onQueue_ptrs (s : State) (q : Nat) (f : Queue → Queue) : (s.onQueue q f).ptrs = s.ptrs := rfl
@[simp] theorem State.onQueue_alerts (s : State) (q : Nat) (f : Queue → Queue) : (s.onQueue q f).alerts = s.alerts := rfl
@[simp] theorem State.onQueue_acts (s : State) (q : Nat) (f : Queue → Queue) : (s.onQueue q f).acts = s.acts := rfl
@[simp] theorem State.onQueue_nextLaunch (s : State) (q : Nat) (f : Queue → Queue) : (s.onQueue q f).nextLaunch = s.nextLaunch := rfl
@[simp] theorem State.onQueue_nextId (s : State) (q : Nat) (f : Queue → Queue) : (s.onQueue q f).nextId = s.nextId := rfl
@[simp] theorem State.onQueue_free (s : State) (q : Nat) (f : Queue → Queue) : (s.onQueue q f).free = s.free := rfl
@[simp] theorem State.onQueue_issue (s : State) (q : Nat) (f : Queue → Queue) : (s.onQueue q f).issue = s.issue := rfl
@[simp] theorem State.onQueue_traps (s : State) (q : Nat) (f : Queue → Queue) : (s.onQueue q f).traps = s.traps := rfl
@[simp] theorem State.onQueue_agenda (s : State) (q : Nat) (f : Queue → Queue) : (s.onQueue q f).agenda = s.agenda := rfl
@[simp] theorem State.onQueue_sent (s : State) (q : Nat) (f : Queue → Queue) : (s.onQueue q f).sent = s.sent := rfl

@[simp] theorem State.onOp_threads (s : State) (o : Nat) (f : Op → Op) : (s.onOp o f).threads = s.threads := rfl
@[simp] theorem State.onOp_wgs (s : State) (o : Nat) (f : Op → Op) : (s.onOp o f).wgs = s.wgs := rfl
@[simp] theorem State.onOp_launches (s : State) (o : Nat) (f : Op → Op) : (s.onOp o f).launches = s.launches := rfl
@[simp] theorem State.onOp_cores (s : State) (o : Nat) (f : Op → Op) : (s.onOp o f).cores = s.cores := rfl
@[simp] theorem State.onOp_online (s : State) (o : Nat) (f : Op → Op) : (s.onOp o f).online = s.online := rfl
@[simp] theorem State.onOp_near (s : State) (o : Nat) (f : Op → Op) : (s.onOp o f).near = s.near := rfl
@[simp] theorem State.onOp_merge (s : State) (o : Nat) (f : Op → Op) : (s.onOp o f).merge = s.merge := rfl
@[simp] theorem State.onOp_empties (s : State) (o : Nat) (f : Op → Op) : (s.onOp o f).empties = s.empties := rfl
@[simp] theorem State.onOp_nearPoison (s : State) (o : Nat) (f : Op → Op) : (s.onOp o f).nearPoison = s.nearPoison := rfl
@[simp] theorem State.onOp_nearMarks (s : State) (o : Nat) (f : Op → Op) : (s.onOp o f).nearMarks = s.nearMarks := rfl
@[simp] theorem State.onOp_nearWrote (s : State) (o : Nat) (f : Op → Op) : (s.onOp o f).nearWrote = s.nearWrote := rfl
@[simp] theorem State.onOp_mem (s : State) (o : Nat) (f : Op → Op) : (s.onOp o f).mem = s.mem := rfl
@[simp] theorem State.onOp_poison (s : State) (o : Nat) (f : Op → Op) : (s.onOp o f).poison = s.poison := rfl
@[simp] theorem State.onOp_owners (s : State) (o : Nat) (f : Op → Op) : (s.onOp o f).owners = s.owners := rfl
@[simp] theorem State.onOp_marks (s : State) (o : Nat) (f : Op → Op) : (s.onOp o f).marks = s.marks := rfl
@[simp] theorem State.onOp_l2 (s : State) (o : Nat) (f : Op → Op) : (s.onOp o f).l2 = s.l2 := rfl
@[simp] theorem State.onOp_l2cp (s : State) (o : Nat) (f : Op → Op) : (s.onOp o f).l2cp = s.l2cp := rfl
@[simp] theorem State.onOp_frameFresh (s : State) (o : Nat) (f : Op → Op) : (s.onOp o f).frameFresh = s.frameFresh := rfl
@[simp] theorem State.onOp_frameWrote (s : State) (o : Nat) (f : Op → Op) : (s.onOp o f).frameWrote = s.frameWrote := rfl
@[simp] theorem State.onOp_occ (s : State) (o : Nat) (f : Op → Op) : (s.onOp o f).occ = s.occ := rfl
@[simp] theorem State.onOp_icache (s : State) (o : Nat) (f : Op → Op) : (s.onOp o f).icache = s.icache := rfl
@[simp] theorem State.onOp_reqs (s : State) (o : Nat) (f : Op → Op) : (s.onOp o f).reqs = s.reqs := rfl
@[simp] theorem State.onOp_reserves (s : State) (o : Nat) (f : Op → Op) : (s.onOp o f).reserves = s.reserves := rfl
@[simp] theorem State.onOp_struckOps (s : State) (o : Nat) (f : Op → Op) : (s.onOp o f).struckOps = s.struckOps := rfl
@[simp] theorem State.onOp_peerOps (s : State) (o : Nat) (f : Op → Op) : (s.onOp o f).peerOps = s.peerOps := rfl
@[simp] theorem State.onOp_queues (s : State) (o : Nat) (f : Op → Op) : (s.onOp o f).queues = s.queues := rfl
@[simp] theorem State.onOp_parts (s : State) (o : Nat) (f : Op → Op) : (s.onOp o f).parts = s.parts := rfl
@[simp] theorem State.onOp_mgmt (s : State) (o : Nat) (f : Op → Op) : (s.onOp o f).mgmt = s.mgmt := rfl
@[simp] theorem State.onOp_banks (s : State) (o : Nat) (f : Op → Op) : (s.onOp o f).banks = s.banks := rfl
@[simp] theorem State.onOp_streams (s : State) (o : Nat) (f : Op → Op) : (s.onOp o f).streams = s.streams := rfl
@[simp] theorem State.onOp_teamBars (s : State) (o : Nat) (f : Op → Op) : (s.onOp o f).teamBars = s.teamBars := rfl
@[simp] theorem State.onOp_colls (s : State) (o : Nat) (f : Op → Op) : (s.onOp o f).colls = s.colls := rfl
@[simp] theorem State.onOp_links (s : State) (o : Nat) (f : Op → Op) : (s.onOp o f).links = s.links := rfl
@[simp] theorem State.onOp_exports (s : State) (o : Nat) (f : Op → Op) : (s.onOp o f).exports = s.exports := rfl
@[simp] theorem State.onOp_routes (s : State) (o : Nat) (f : Op → Op) : (s.onOp o f).routes = s.routes := rfl
@[simp] theorem State.onOp_ctlbs (s : State) (o : Nat) (f : Op → Op) : (s.onOp o f).ctlbs = s.ctlbs := rfl
@[simp] theorem State.onOp_ptrs (s : State) (o : Nat) (f : Op → Op) : (s.onOp o f).ptrs = s.ptrs := rfl
@[simp] theorem State.onOp_alerts (s : State) (o : Nat) (f : Op → Op) : (s.onOp o f).alerts = s.alerts := rfl
@[simp] theorem State.onOp_acts (s : State) (o : Nat) (f : Op → Op) : (s.onOp o f).acts = s.acts := rfl
@[simp] theorem State.onOp_nextLaunch (s : State) (o : Nat) (f : Op → Op) : (s.onOp o f).nextLaunch = s.nextLaunch := rfl
@[simp] theorem State.onOp_nextId (s : State) (o : Nat) (f : Op → Op) : (s.onOp o f).nextId = s.nextId := rfl
@[simp] theorem State.onOp_free (s : State) (o : Nat) (f : Op → Op) : (s.onOp o f).free = s.free := rfl
@[simp] theorem State.onOp_issue (s : State) (o : Nat) (f : Op → Op) : (s.onOp o f).issue = s.issue := rfl
@[simp] theorem State.onOp_traps (s : State) (o : Nat) (f : Op → Op) : (s.onOp o f).traps = s.traps := rfl
@[simp] theorem State.onOp_agenda (s : State) (o : Nat) (f : Op → Op) : (s.onOp o f).agenda = s.agenda := rfl
@[simp] theorem State.onOp_sent (s : State) (o : Nat) (f : Op → Op) : (s.onOp o f).sent = s.sent := rfl

@[simp] theorem State.onReq_threads (s : State) (q : Nat) (f : Req → Req) : (s.onReq q f).threads = s.threads := rfl
@[simp] theorem State.onReq_wgs (s : State) (q : Nat) (f : Req → Req) : (s.onReq q f).wgs = s.wgs := rfl
@[simp] theorem State.onReq_launches (s : State) (q : Nat) (f : Req → Req) : (s.onReq q f).launches = s.launches := rfl
@[simp] theorem State.onReq_cores (s : State) (q : Nat) (f : Req → Req) : (s.onReq q f).cores = s.cores := rfl
@[simp] theorem State.onReq_online (s : State) (q : Nat) (f : Req → Req) : (s.onReq q f).online = s.online := rfl
@[simp] theorem State.onReq_near (s : State) (q : Nat) (f : Req → Req) : (s.onReq q f).near = s.near := rfl
@[simp] theorem State.onReq_merge (s : State) (q : Nat) (f : Req → Req) : (s.onReq q f).merge = s.merge := rfl
@[simp] theorem State.onReq_empties (s : State) (q : Nat) (f : Req → Req) : (s.onReq q f).empties = s.empties := rfl
@[simp] theorem State.onReq_nearPoison (s : State) (q : Nat) (f : Req → Req) : (s.onReq q f).nearPoison = s.nearPoison := rfl
@[simp] theorem State.onReq_nearMarks (s : State) (q : Nat) (f : Req → Req) : (s.onReq q f).nearMarks = s.nearMarks := rfl
@[simp] theorem State.onReq_nearWrote (s : State) (q : Nat) (f : Req → Req) : (s.onReq q f).nearWrote = s.nearWrote := rfl
@[simp] theorem State.onReq_mem (s : State) (q : Nat) (f : Req → Req) : (s.onReq q f).mem = s.mem := rfl
@[simp] theorem State.onReq_poison (s : State) (q : Nat) (f : Req → Req) : (s.onReq q f).poison = s.poison := rfl
@[simp] theorem State.onReq_owners (s : State) (q : Nat) (f : Req → Req) : (s.onReq q f).owners = s.owners := rfl
@[simp] theorem State.onReq_marks (s : State) (q : Nat) (f : Req → Req) : (s.onReq q f).marks = s.marks := rfl
@[simp] theorem State.onReq_l2 (s : State) (q : Nat) (f : Req → Req) : (s.onReq q f).l2 = s.l2 := rfl
@[simp] theorem State.onReq_l2cp (s : State) (q : Nat) (f : Req → Req) : (s.onReq q f).l2cp = s.l2cp := rfl
@[simp] theorem State.onReq_frameFresh (s : State) (q : Nat) (f : Req → Req) : (s.onReq q f).frameFresh = s.frameFresh := rfl
@[simp] theorem State.onReq_frameWrote (s : State) (q : Nat) (f : Req → Req) : (s.onReq q f).frameWrote = s.frameWrote := rfl
@[simp] theorem State.onReq_occ (s : State) (q : Nat) (f : Req → Req) : (s.onReq q f).occ = s.occ := rfl
@[simp] theorem State.onReq_icache (s : State) (q : Nat) (f : Req → Req) : (s.onReq q f).icache = s.icache := rfl
@[simp] theorem State.onReq_ops (s : State) (q : Nat) (f : Req → Req) : (s.onReq q f).ops = s.ops := rfl
@[simp] theorem State.onReq_reserves (s : State) (q : Nat) (f : Req → Req) : (s.onReq q f).reserves = s.reserves := rfl
@[simp] theorem State.onReq_struckOps (s : State) (q : Nat) (f : Req → Req) : (s.onReq q f).struckOps = s.struckOps := rfl
@[simp] theorem State.onReq_peerOps (s : State) (q : Nat) (f : Req → Req) : (s.onReq q f).peerOps = s.peerOps := rfl
@[simp] theorem State.onReq_queues (s : State) (q : Nat) (f : Req → Req) : (s.onReq q f).queues = s.queues := rfl
@[simp] theorem State.onReq_parts (s : State) (q : Nat) (f : Req → Req) : (s.onReq q f).parts = s.parts := rfl
@[simp] theorem State.onReq_mgmt (s : State) (q : Nat) (f : Req → Req) : (s.onReq q f).mgmt = s.mgmt := rfl
@[simp] theorem State.onReq_banks (s : State) (q : Nat) (f : Req → Req) : (s.onReq q f).banks = s.banks := rfl
@[simp] theorem State.onReq_streams (s : State) (q : Nat) (f : Req → Req) : (s.onReq q f).streams = s.streams := rfl
@[simp] theorem State.onReq_teamBars (s : State) (q : Nat) (f : Req → Req) : (s.onReq q f).teamBars = s.teamBars := rfl
@[simp] theorem State.onReq_colls (s : State) (q : Nat) (f : Req → Req) : (s.onReq q f).colls = s.colls := rfl
@[simp] theorem State.onReq_links (s : State) (q : Nat) (f : Req → Req) : (s.onReq q f).links = s.links := rfl
@[simp] theorem State.onReq_exports (s : State) (q : Nat) (f : Req → Req) : (s.onReq q f).exports = s.exports := rfl
@[simp] theorem State.onReq_routes (s : State) (q : Nat) (f : Req → Req) : (s.onReq q f).routes = s.routes := rfl
@[simp] theorem State.onReq_ctlbs (s : State) (q : Nat) (f : Req → Req) : (s.onReq q f).ctlbs = s.ctlbs := rfl
@[simp] theorem State.onReq_ptrs (s : State) (q : Nat) (f : Req → Req) : (s.onReq q f).ptrs = s.ptrs := rfl
@[simp] theorem State.onReq_alerts (s : State) (q : Nat) (f : Req → Req) : (s.onReq q f).alerts = s.alerts := rfl
@[simp] theorem State.onReq_acts (s : State) (q : Nat) (f : Req → Req) : (s.onReq q f).acts = s.acts := rfl
@[simp] theorem State.onReq_nextLaunch (s : State) (q : Nat) (f : Req → Req) : (s.onReq q f).nextLaunch = s.nextLaunch := rfl
@[simp] theorem State.onReq_nextId (s : State) (q : Nat) (f : Req → Req) : (s.onReq q f).nextId = s.nextId := rfl
@[simp] theorem State.onReq_free (s : State) (q : Nat) (f : Req → Req) : (s.onReq q f).free = s.free := rfl
@[simp] theorem State.onReq_issue (s : State) (q : Nat) (f : Req → Req) : (s.onReq q f).issue = s.issue := rfl
@[simp] theorem State.onReq_traps (s : State) (q : Nat) (f : Req → Req) : (s.onReq q f).traps = s.traps := rfl
@[simp] theorem State.onReq_agenda (s : State) (q : Nat) (f : Req → Req) : (s.onReq q f).agenda = s.agenda := rfl
@[simp] theorem State.onReq_sent (s : State) (q : Nat) (f : Req → Req) : (s.onReq q f).sent = s.sent := rfl

@[simp] theorem State.send_threads (s : State) (m : Message) : (s.send m).threads = s.threads := rfl
@[simp] theorem State.send_wgs (s : State) (m : Message) : (s.send m).wgs = s.wgs := rfl
@[simp] theorem State.send_launches (s : State) (m : Message) : (s.send m).launches = s.launches := rfl
@[simp] theorem State.send_cores (s : State) (m : Message) : (s.send m).cores = s.cores := rfl
@[simp] theorem State.send_online (s : State) (m : Message) : (s.send m).online = s.online := rfl
@[simp] theorem State.send_near (s : State) (m : Message) : (s.send m).near = s.near := rfl
@[simp] theorem State.send_merge (s : State) (m : Message) : (s.send m).merge = s.merge := rfl
@[simp] theorem State.send_empties (s : State) (m : Message) : (s.send m).empties = s.empties := rfl
@[simp] theorem State.send_nearPoison (s : State) (m : Message) : (s.send m).nearPoison = s.nearPoison := rfl
@[simp] theorem State.send_nearMarks (s : State) (m : Message) : (s.send m).nearMarks = s.nearMarks := rfl
@[simp] theorem State.send_nearWrote (s : State) (m : Message) : (s.send m).nearWrote = s.nearWrote := rfl
@[simp] theorem State.send_mem (s : State) (m : Message) : (s.send m).mem = s.mem := rfl
@[simp] theorem State.send_poison (s : State) (m : Message) : (s.send m).poison = s.poison := rfl
@[simp] theorem State.send_owners (s : State) (m : Message) : (s.send m).owners = s.owners := rfl
@[simp] theorem State.send_marks (s : State) (m : Message) : (s.send m).marks = s.marks := rfl
@[simp] theorem State.send_l2 (s : State) (m : Message) : (s.send m).l2 = s.l2 := rfl
@[simp] theorem State.send_l2cp (s : State) (m : Message) : (s.send m).l2cp = s.l2cp := rfl
@[simp] theorem State.send_frameFresh (s : State) (m : Message) : (s.send m).frameFresh = s.frameFresh := rfl
@[simp] theorem State.send_frameWrote (s : State) (m : Message) : (s.send m).frameWrote = s.frameWrote := rfl
@[simp] theorem State.send_occ (s : State) (m : Message) : (s.send m).occ = s.occ := rfl
@[simp] theorem State.send_icache (s : State) (m : Message) : (s.send m).icache = s.icache := rfl
@[simp] theorem State.send_reqs (s : State) (m : Message) : (s.send m).reqs = s.reqs := rfl
@[simp] theorem State.send_ops (s : State) (m : Message) : (s.send m).ops = s.ops := rfl
@[simp] theorem State.send_reserves (s : State) (m : Message) : (s.send m).reserves = s.reserves := rfl
@[simp] theorem State.send_struckOps (s : State) (m : Message) : (s.send m).struckOps = s.struckOps := rfl
@[simp] theorem State.send_peerOps (s : State) (m : Message) : (s.send m).peerOps = s.peerOps := rfl
@[simp] theorem State.send_queues (s : State) (m : Message) : (s.send m).queues = s.queues := rfl
@[simp] theorem State.send_parts (s : State) (m : Message) : (s.send m).parts = s.parts := rfl
@[simp] theorem State.send_mgmt (s : State) (m : Message) : (s.send m).mgmt = s.mgmt := rfl
@[simp] theorem State.send_banks (s : State) (m : Message) : (s.send m).banks = s.banks := rfl
@[simp] theorem State.send_streams (s : State) (m : Message) : (s.send m).streams = s.streams := rfl
@[simp] theorem State.send_teamBars (s : State) (m : Message) : (s.send m).teamBars = s.teamBars := rfl
@[simp] theorem State.send_colls (s : State) (m : Message) : (s.send m).colls = s.colls := rfl
@[simp] theorem State.send_links (s : State) (m : Message) : (s.send m).links = s.links := rfl
@[simp] theorem State.send_exports (s : State) (m : Message) : (s.send m).exports = s.exports := rfl
@[simp] theorem State.send_routes (s : State) (m : Message) : (s.send m).routes = s.routes := rfl
@[simp] theorem State.send_ctlbs (s : State) (m : Message) : (s.send m).ctlbs = s.ctlbs := rfl
@[simp] theorem State.send_ptrs (s : State) (m : Message) : (s.send m).ptrs = s.ptrs := rfl
@[simp] theorem State.send_alerts (s : State) (m : Message) : (s.send m).alerts = s.alerts := rfl
@[simp] theorem State.send_acts (s : State) (m : Message) : (s.send m).acts = s.acts := rfl
@[simp] theorem State.send_nextLaunch (s : State) (m : Message) : (s.send m).nextLaunch = s.nextLaunch := rfl
@[simp] theorem State.send_nextId (s : State) (m : Message) : (s.send m).nextId = s.nextId := rfl
@[simp] theorem State.send_free (s : State) (m : Message) : (s.send m).free = s.free := rfl
@[simp] theorem State.send_issue (s : State) (m : Message) : (s.send m).issue = s.issue := rfl
@[simp] theorem State.send_traps (s : State) (m : Message) : (s.send m).traps = s.traps := rfl
@[simp] theorem State.send_agenda (s : State) (m : Message) : (s.send m).agenda = s.agenda := rfl

@[simp] theorem State.raise_threads (s : State) (r : ThreadRef) (c : Byte) (d a : Word) (x : DWord) (p : Pc) : (s.raise r c d a x p).threads = s.threads := rfl
@[simp] theorem State.raise_wgs (s : State) (r : ThreadRef) (c : Byte) (d a : Word) (x : DWord) (p : Pc) : (s.raise r c d a x p).wgs = s.wgs := rfl
@[simp] theorem State.raise_launches (s : State) (r : ThreadRef) (c : Byte) (d a : Word) (x : DWord) (p : Pc) : (s.raise r c d a x p).launches = s.launches := rfl
@[simp] theorem State.raise_cores (s : State) (r : ThreadRef) (c : Byte) (d a : Word) (x : DWord) (p : Pc) : (s.raise r c d a x p).cores = s.cores := rfl
@[simp] theorem State.raise_online (s : State) (r : ThreadRef) (c : Byte) (d a : Word) (x : DWord) (p : Pc) : (s.raise r c d a x p).online = s.online := rfl
@[simp] theorem State.raise_near (s : State) (r : ThreadRef) (c : Byte) (d a : Word) (x : DWord) (p : Pc) : (s.raise r c d a x p).near = s.near := rfl
@[simp] theorem State.raise_merge (s : State) (r : ThreadRef) (c : Byte) (d a : Word) (x : DWord) (p : Pc) : (s.raise r c d a x p).merge = s.merge := rfl
@[simp] theorem State.raise_empties (s : State) (r : ThreadRef) (c : Byte) (d a : Word) (x : DWord) (p : Pc) : (s.raise r c d a x p).empties = s.empties := rfl
@[simp] theorem State.raise_nearPoison (s : State) (r : ThreadRef) (c : Byte) (d a : Word) (x : DWord) (p : Pc) : (s.raise r c d a x p).nearPoison = s.nearPoison := rfl
@[simp] theorem State.raise_nearMarks (s : State) (r : ThreadRef) (c : Byte) (d a : Word) (x : DWord) (p : Pc) : (s.raise r c d a x p).nearMarks = s.nearMarks := rfl
@[simp] theorem State.raise_nearWrote (s : State) (r : ThreadRef) (c : Byte) (d a : Word) (x : DWord) (p : Pc) : (s.raise r c d a x p).nearWrote = s.nearWrote := rfl
@[simp] theorem State.raise_mem (s : State) (r : ThreadRef) (c : Byte) (d a : Word) (x : DWord) (p : Pc) : (s.raise r c d a x p).mem = s.mem := rfl
@[simp] theorem State.raise_poison (s : State) (r : ThreadRef) (c : Byte) (d a : Word) (x : DWord) (p : Pc) : (s.raise r c d a x p).poison = s.poison := rfl
@[simp] theorem State.raise_owners (s : State) (r : ThreadRef) (c : Byte) (d a : Word) (x : DWord) (p : Pc) : (s.raise r c d a x p).owners = s.owners := rfl
@[simp] theorem State.raise_marks (s : State) (r : ThreadRef) (c : Byte) (d a : Word) (x : DWord) (p : Pc) : (s.raise r c d a x p).marks = s.marks := rfl
@[simp] theorem State.raise_l2 (s : State) (r : ThreadRef) (c : Byte) (d a : Word) (x : DWord) (p : Pc) : (s.raise r c d a x p).l2 = s.l2 := rfl
@[simp] theorem State.raise_l2cp (s : State) (r : ThreadRef) (c : Byte) (d a : Word) (x : DWord) (p : Pc) : (s.raise r c d a x p).l2cp = s.l2cp := rfl
@[simp] theorem State.raise_frameFresh (s : State) (r : ThreadRef) (c : Byte) (d a : Word) (x : DWord) (p : Pc) : (s.raise r c d a x p).frameFresh = s.frameFresh := rfl
@[simp] theorem State.raise_frameWrote (s : State) (r : ThreadRef) (c : Byte) (d a : Word) (x : DWord) (p : Pc) : (s.raise r c d a x p).frameWrote = s.frameWrote := rfl
@[simp] theorem State.raise_occ (s : State) (r : ThreadRef) (c : Byte) (d a : Word) (x : DWord) (p : Pc) : (s.raise r c d a x p).occ = s.occ := rfl
@[simp] theorem State.raise_icache (s : State) (r : ThreadRef) (c : Byte) (d a : Word) (x : DWord) (p : Pc) : (s.raise r c d a x p).icache = s.icache := rfl
@[simp] theorem State.raise_reqs (s : State) (r : ThreadRef) (c : Byte) (d a : Word) (x : DWord) (p : Pc) : (s.raise r c d a x p).reqs = s.reqs := rfl
@[simp] theorem State.raise_ops (s : State) (r : ThreadRef) (c : Byte) (d a : Word) (x : DWord) (p : Pc) : (s.raise r c d a x p).ops = s.ops := rfl
@[simp] theorem State.raise_reserves (s : State) (r : ThreadRef) (c : Byte) (d a : Word) (x : DWord) (p : Pc) : (s.raise r c d a x p).reserves = s.reserves := rfl
@[simp] theorem State.raise_struckOps (s : State) (r : ThreadRef) (c : Byte) (d a : Word) (x : DWord) (p : Pc) : (s.raise r c d a x p).struckOps = s.struckOps := rfl
@[simp] theorem State.raise_peerOps (s : State) (r : ThreadRef) (c : Byte) (d a : Word) (x : DWord) (p : Pc) : (s.raise r c d a x p).peerOps = s.peerOps := rfl
@[simp] theorem State.raise_queues (s : State) (r : ThreadRef) (c : Byte) (d a : Word) (x : DWord) (p : Pc) : (s.raise r c d a x p).queues = s.queues := rfl
@[simp] theorem State.raise_parts (s : State) (r : ThreadRef) (c : Byte) (d a : Word) (x : DWord) (p : Pc) : (s.raise r c d a x p).parts = s.parts := rfl
@[simp] theorem State.raise_mgmt (s : State) (r : ThreadRef) (c : Byte) (d a : Word) (x : DWord) (p : Pc) : (s.raise r c d a x p).mgmt = s.mgmt := rfl
@[simp] theorem State.raise_banks (s : State) (r : ThreadRef) (c : Byte) (d a : Word) (x : DWord) (p : Pc) : (s.raise r c d a x p).banks = s.banks := rfl
@[simp] theorem State.raise_streams (s : State) (r : ThreadRef) (c : Byte) (d a : Word) (x : DWord) (p : Pc) : (s.raise r c d a x p).streams = s.streams := rfl
@[simp] theorem State.raise_teamBars (s : State) (r : ThreadRef) (c : Byte) (d a : Word) (x : DWord) (p : Pc) : (s.raise r c d a x p).teamBars = s.teamBars := rfl
@[simp] theorem State.raise_colls (s : State) (r : ThreadRef) (c : Byte) (d a : Word) (x : DWord) (p : Pc) : (s.raise r c d a x p).colls = s.colls := rfl
@[simp] theorem State.raise_links (s : State) (r : ThreadRef) (c : Byte) (d a : Word) (x : DWord) (p : Pc) : (s.raise r c d a x p).links = s.links := rfl
@[simp] theorem State.raise_exports (s : State) (r : ThreadRef) (c : Byte) (d a : Word) (x : DWord) (p : Pc) : (s.raise r c d a x p).exports = s.exports := rfl
@[simp] theorem State.raise_routes (s : State) (r : ThreadRef) (c : Byte) (d a : Word) (x : DWord) (p : Pc) : (s.raise r c d a x p).routes = s.routes := rfl
@[simp] theorem State.raise_ctlbs (s : State) (r : ThreadRef) (c : Byte) (d a : Word) (x : DWord) (p : Pc) : (s.raise r c d a x p).ctlbs = s.ctlbs := rfl
@[simp] theorem State.raise_ptrs (s : State) (r : ThreadRef) (c : Byte) (d a : Word) (x : DWord) (p : Pc) : (s.raise r c d a x p).ptrs = s.ptrs := rfl
@[simp] theorem State.raise_alerts (s : State) (r : ThreadRef) (c : Byte) (d a : Word) (x : DWord) (p : Pc) : (s.raise r c d a x p).alerts = s.alerts := rfl
@[simp] theorem State.raise_acts (s : State) (r : ThreadRef) (c : Byte) (d a : Word) (x : DWord) (p : Pc) : (s.raise r c d a x p).acts = s.acts := rfl
@[simp] theorem State.raise_nextLaunch (s : State) (r : ThreadRef) (c : Byte) (d a : Word) (x : DWord) (p : Pc) : (s.raise r c d a x p).nextLaunch = s.nextLaunch := rfl
@[simp] theorem State.raise_nextId (s : State) (r : ThreadRef) (c : Byte) (d a : Word) (x : DWord) (p : Pc) : (s.raise r c d a x p).nextId = s.nextId := rfl
@[simp] theorem State.raise_free (s : State) (r : ThreadRef) (c : Byte) (d a : Word) (x : DWord) (p : Pc) : (s.raise r c d a x p).free = s.free := rfl
@[simp] theorem State.raise_issue (s : State) (r : ThreadRef) (c : Byte) (d a : Word) (x : DWord) (p : Pc) : (s.raise r c d a x p).issue = s.issue := rfl
@[simp] theorem State.raise_agenda (s : State) (r : ThreadRef) (c : Byte) (d a : Word) (x : DWord) (p : Pc) : (s.raise r c d a x p).agenda = s.agenda := rfl
@[simp] theorem State.raise_sent (s : State) (r : ThreadRef) (c : Byte) (d a : Word) (x : DWord) (p : Pc) : (s.raise r c d a x p).sent = s.sent := rfl

@[simp] theorem State.nearPut_threads (s : State) (k : Nat) (b : List Byte) : (s.nearPut k b).threads = s.threads := rfl
@[simp] theorem State.nearPut_wgs (s : State) (k : Nat) (b : List Byte) : (s.nearPut k b).wgs = s.wgs := rfl
@[simp] theorem State.nearPut_launches (s : State) (k : Nat) (b : List Byte) : (s.nearPut k b).launches = s.launches := rfl
@[simp] theorem State.nearPut_cores (s : State) (k : Nat) (b : List Byte) : (s.nearPut k b).cores = s.cores := rfl
@[simp] theorem State.nearPut_online (s : State) (k : Nat) (b : List Byte) : (s.nearPut k b).online = s.online := rfl
@[simp] theorem State.nearPut_empties (s : State) (k : Nat) (b : List Byte) : (s.nearPut k b).empties = s.empties := rfl
@[simp] theorem State.nearPut_nearPoison (s : State) (k : Nat) (b : List Byte) : (s.nearPut k b).nearPoison = s.nearPoison := rfl
@[simp] theorem State.nearPut_nearMarks (s : State) (k : Nat) (b : List Byte) : (s.nearPut k b).nearMarks = s.nearMarks := rfl
@[simp] theorem State.nearPut_mem (s : State) (k : Nat) (b : List Byte) : (s.nearPut k b).mem = s.mem := rfl
@[simp] theorem State.nearPut_poison (s : State) (k : Nat) (b : List Byte) : (s.nearPut k b).poison = s.poison := rfl
@[simp] theorem State.nearPut_owners (s : State) (k : Nat) (b : List Byte) : (s.nearPut k b).owners = s.owners := rfl
@[simp] theorem State.nearPut_marks (s : State) (k : Nat) (b : List Byte) : (s.nearPut k b).marks = s.marks := rfl
@[simp] theorem State.nearPut_l2 (s : State) (k : Nat) (b : List Byte) : (s.nearPut k b).l2 = s.l2 := rfl
@[simp] theorem State.nearPut_l2cp (s : State) (k : Nat) (b : List Byte) : (s.nearPut k b).l2cp = s.l2cp := rfl
@[simp] theorem State.nearPut_frameFresh (s : State) (k : Nat) (b : List Byte) : (s.nearPut k b).frameFresh = s.frameFresh := rfl
@[simp] theorem State.nearPut_frameWrote (s : State) (k : Nat) (b : List Byte) : (s.nearPut k b).frameWrote = s.frameWrote := rfl
@[simp] theorem State.nearPut_occ (s : State) (k : Nat) (b : List Byte) : (s.nearPut k b).occ = s.occ := rfl
@[simp] theorem State.nearPut_icache (s : State) (k : Nat) (b : List Byte) : (s.nearPut k b).icache = s.icache := rfl
@[simp] theorem State.nearPut_reqs (s : State) (k : Nat) (b : List Byte) : (s.nearPut k b).reqs = s.reqs := rfl
@[simp] theorem State.nearPut_ops (s : State) (k : Nat) (b : List Byte) : (s.nearPut k b).ops = s.ops := rfl
@[simp] theorem State.nearPut_reserves (s : State) (k : Nat) (b : List Byte) : (s.nearPut k b).reserves = s.reserves := rfl
@[simp] theorem State.nearPut_struckOps (s : State) (k : Nat) (b : List Byte) : (s.nearPut k b).struckOps = s.struckOps := rfl
@[simp] theorem State.nearPut_peerOps (s : State) (k : Nat) (b : List Byte) : (s.nearPut k b).peerOps = s.peerOps := rfl
@[simp] theorem State.nearPut_queues (s : State) (k : Nat) (b : List Byte) : (s.nearPut k b).queues = s.queues := rfl
@[simp] theorem State.nearPut_parts (s : State) (k : Nat) (b : List Byte) : (s.nearPut k b).parts = s.parts := rfl
@[simp] theorem State.nearPut_mgmt (s : State) (k : Nat) (b : List Byte) : (s.nearPut k b).mgmt = s.mgmt := rfl
@[simp] theorem State.nearPut_banks (s : State) (k : Nat) (b : List Byte) : (s.nearPut k b).banks = s.banks := rfl
@[simp] theorem State.nearPut_streams (s : State) (k : Nat) (b : List Byte) : (s.nearPut k b).streams = s.streams := rfl
@[simp] theorem State.nearPut_teamBars (s : State) (k : Nat) (b : List Byte) : (s.nearPut k b).teamBars = s.teamBars := rfl
@[simp] theorem State.nearPut_colls (s : State) (k : Nat) (b : List Byte) : (s.nearPut k b).colls = s.colls := rfl
@[simp] theorem State.nearPut_links (s : State) (k : Nat) (b : List Byte) : (s.nearPut k b).links = s.links := rfl
@[simp] theorem State.nearPut_exports (s : State) (k : Nat) (b : List Byte) : (s.nearPut k b).exports = s.exports := rfl
@[simp] theorem State.nearPut_routes (s : State) (k : Nat) (b : List Byte) : (s.nearPut k b).routes = s.routes := rfl
@[simp] theorem State.nearPut_ctlbs (s : State) (k : Nat) (b : List Byte) : (s.nearPut k b).ctlbs = s.ctlbs := rfl
@[simp] theorem State.nearPut_ptrs (s : State) (k : Nat) (b : List Byte) : (s.nearPut k b).ptrs = s.ptrs := rfl
@[simp] theorem State.nearPut_alerts (s : State) (k : Nat) (b : List Byte) : (s.nearPut k b).alerts = s.alerts := rfl
@[simp] theorem State.nearPut_acts (s : State) (k : Nat) (b : List Byte) : (s.nearPut k b).acts = s.acts := rfl
@[simp] theorem State.nearPut_nextLaunch (s : State) (k : Nat) (b : List Byte) : (s.nearPut k b).nextLaunch = s.nextLaunch := rfl
@[simp] theorem State.nearPut_nextId (s : State) (k : Nat) (b : List Byte) : (s.nearPut k b).nextId = s.nextId := rfl
@[simp] theorem State.nearPut_free (s : State) (k : Nat) (b : List Byte) : (s.nearPut k b).free = s.free := rfl
@[simp] theorem State.nearPut_issue (s : State) (k : Nat) (b : List Byte) : (s.nearPut k b).issue = s.issue := rfl
@[simp] theorem State.nearPut_traps (s : State) (k : Nat) (b : List Byte) : (s.nearPut k b).traps = s.traps := rfl
@[simp] theorem State.nearPut_agenda (s : State) (k : Nat) (b : List Byte) : (s.nearPut k b).agenda = s.agenda := rfl
@[simp] theorem State.nearPut_sent (s : State) (k : Nat) (b : List Byte) : (s.nearPut k b).sent = s.sent := rfl

@[simp] theorem State.memPut_threads (s : State) (a : Nat) (b : List Byte) : (s.memPut a b).threads = s.threads := rfl
@[simp] theorem State.memPut_wgs (s : State) (a : Nat) (b : List Byte) : (s.memPut a b).wgs = s.wgs := rfl
@[simp] theorem State.memPut_launches (s : State) (a : Nat) (b : List Byte) : (s.memPut a b).launches = s.launches := rfl
@[simp] theorem State.memPut_cores (s : State) (a : Nat) (b : List Byte) : (s.memPut a b).cores = s.cores := rfl
@[simp] theorem State.memPut_online (s : State) (a : Nat) (b : List Byte) : (s.memPut a b).online = s.online := rfl
@[simp] theorem State.memPut_near (s : State) (a : Nat) (b : List Byte) : (s.memPut a b).near = s.near := rfl
@[simp] theorem State.memPut_merge (s : State) (a : Nat) (b : List Byte) : (s.memPut a b).merge = s.merge := rfl
@[simp] theorem State.memPut_empties (s : State) (a : Nat) (b : List Byte) : (s.memPut a b).empties = s.empties := rfl
@[simp] theorem State.memPut_nearPoison (s : State) (a : Nat) (b : List Byte) : (s.memPut a b).nearPoison = s.nearPoison := rfl
@[simp] theorem State.memPut_nearMarks (s : State) (a : Nat) (b : List Byte) : (s.memPut a b).nearMarks = s.nearMarks := rfl
@[simp] theorem State.memPut_nearWrote (s : State) (a : Nat) (b : List Byte) : (s.memPut a b).nearWrote = s.nearWrote := rfl
@[simp] theorem State.memPut_poison (s : State) (a : Nat) (b : List Byte) : (s.memPut a b).poison = s.poison := rfl
@[simp] theorem State.memPut_owners (s : State) (a : Nat) (b : List Byte) : (s.memPut a b).owners = s.owners := rfl
@[simp] theorem State.memPut_marks (s : State) (a : Nat) (b : List Byte) : (s.memPut a b).marks = s.marks := rfl
@[simp] theorem State.memPut_l2 (s : State) (a : Nat) (b : List Byte) : (s.memPut a b).l2 = s.l2 := rfl
@[simp] theorem State.memPut_l2cp (s : State) (a : Nat) (b : List Byte) : (s.memPut a b).l2cp = s.l2cp := rfl
@[simp] theorem State.memPut_frameFresh (s : State) (a : Nat) (b : List Byte) : (s.memPut a b).frameFresh = s.frameFresh := rfl
@[simp] theorem State.memPut_occ (s : State) (a : Nat) (b : List Byte) : (s.memPut a b).occ = s.occ := rfl
@[simp] theorem State.memPut_icache (s : State) (a : Nat) (b : List Byte) : (s.memPut a b).icache = s.icache := rfl
@[simp] theorem State.memPut_reqs (s : State) (a : Nat) (b : List Byte) : (s.memPut a b).reqs = s.reqs := rfl
@[simp] theorem State.memPut_ops (s : State) (a : Nat) (b : List Byte) : (s.memPut a b).ops = s.ops := rfl
@[simp] theorem State.memPut_reserves (s : State) (a : Nat) (b : List Byte) : (s.memPut a b).reserves = s.reserves := rfl
@[simp] theorem State.memPut_struckOps (s : State) (a : Nat) (b : List Byte) : (s.memPut a b).struckOps = s.struckOps := rfl
@[simp] theorem State.memPut_peerOps (s : State) (a : Nat) (b : List Byte) : (s.memPut a b).peerOps = s.peerOps := rfl
@[simp] theorem State.memPut_queues (s : State) (a : Nat) (b : List Byte) : (s.memPut a b).queues = s.queues := rfl
@[simp] theorem State.memPut_parts (s : State) (a : Nat) (b : List Byte) : (s.memPut a b).parts = s.parts := rfl
@[simp] theorem State.memPut_mgmt (s : State) (a : Nat) (b : List Byte) : (s.memPut a b).mgmt = s.mgmt := rfl
@[simp] theorem State.memPut_banks (s : State) (a : Nat) (b : List Byte) : (s.memPut a b).banks = s.banks := rfl
@[simp] theorem State.memPut_streams (s : State) (a : Nat) (b : List Byte) : (s.memPut a b).streams = s.streams := rfl
@[simp] theorem State.memPut_teamBars (s : State) (a : Nat) (b : List Byte) : (s.memPut a b).teamBars = s.teamBars := rfl
@[simp] theorem State.memPut_colls (s : State) (a : Nat) (b : List Byte) : (s.memPut a b).colls = s.colls := rfl
@[simp] theorem State.memPut_links (s : State) (a : Nat) (b : List Byte) : (s.memPut a b).links = s.links := rfl
@[simp] theorem State.memPut_exports (s : State) (a : Nat) (b : List Byte) : (s.memPut a b).exports = s.exports := rfl
@[simp] theorem State.memPut_routes (s : State) (a : Nat) (b : List Byte) : (s.memPut a b).routes = s.routes := rfl
@[simp] theorem State.memPut_ctlbs (s : State) (a : Nat) (b : List Byte) : (s.memPut a b).ctlbs = s.ctlbs := rfl
@[simp] theorem State.memPut_ptrs (s : State) (a : Nat) (b : List Byte) : (s.memPut a b).ptrs = s.ptrs := rfl
@[simp] theorem State.memPut_alerts (s : State) (a : Nat) (b : List Byte) : (s.memPut a b).alerts = s.alerts := rfl
@[simp] theorem State.memPut_acts (s : State) (a : Nat) (b : List Byte) : (s.memPut a b).acts = s.acts := rfl
@[simp] theorem State.memPut_nextLaunch (s : State) (a : Nat) (b : List Byte) : (s.memPut a b).nextLaunch = s.nextLaunch := rfl
@[simp] theorem State.memPut_nextId (s : State) (a : Nat) (b : List Byte) : (s.memPut a b).nextId = s.nextId := rfl
@[simp] theorem State.memPut_free (s : State) (a : Nat) (b : List Byte) : (s.memPut a b).free = s.free := rfl
@[simp] theorem State.memPut_issue (s : State) (a : Nat) (b : List Byte) : (s.memPut a b).issue = s.issue := rfl
@[simp] theorem State.memPut_traps (s : State) (a : Nat) (b : List Byte) : (s.memPut a b).traps = s.traps := rfl
@[simp] theorem State.memPut_agenda (s : State) (a : Nat) (b : List Byte) : (s.memPut a b).agenda = s.agenda := rfl
@[simp] theorem State.memPut_sent (s : State) (a : Nat) (b : List Byte) : (s.memPut a b).sent = s.sent := rfl

/-! Updates of a thread -/

@[simp] theorem Thread.setV_ref (t : Thread) (k : Nat) (x : Word) : (t.setV k x).ref = t.ref := rfl
@[simp] theorem Thread.setV_p (t : Thread) (k : Nat) (x : Word) : (t.setV k x).p = t.p := rfl
@[simp] theorem Thread.setV_h (t : Thread) (k : Nat) (x : Word) : (t.setV k x).h = t.h := rfl
@[simp] theorem Thread.setV_fpflags (t : Thread) (k : Nat) (x : Word) : (t.setV k x).fpflags = t.fpflags := rfl
@[simp] theorem Thread.setV_draw (t : Thread) (k : Nat) (x : Word) : (t.setV k x).draw = t.draw := rfl
@[simp] theorem Thread.setV_pc (t : Thread) (k : Nat) (x : Word) : (t.setV k x).pc = t.pc := rfl
@[simp] theorem Thread.setV_ret (t : Thread) (k : Nat) (x : Word) : (t.setV k x).ret = t.ret := rfl
@[simp] theorem Thread.setV_depth (t : Thread) (k : Nat) (x : Word) : (t.setV k x).depth = t.depth := rfl
@[simp] theorem Thread.setV_batch (t : Thread) (k : Nat) (x : Word) : (t.setV k x).batch = t.batch := rfl
@[simp] theorem Thread.setV_batches (t : Thread) (k : Nat) (x : Word) : (t.setV k x).batches = t.batches := rfl
@[simp] theorem Thread.setV_nld (t : Thread) (k : Nat) (x : Word) : (t.setV k x).nld = t.nld := rfl
@[simp] theorem Thread.setV_nst (t : Thread) (k : Nat) (x : Word) : (t.setV k x).nst = t.nst := rfl
@[simp] theorem Thread.setV_ntl (t : Thread) (k : Nat) (x : Word) : (t.setV k x).ntl = t.ntl := rfl
@[simp] theorem Thread.setV_outLd (t : Thread) (k : Nat) (x : Word) : (t.setV k x).outLd = t.outLd := rfl
@[simp] theorem Thread.setV_outSt (t : Thread) (k : Nat) (x : Word) : (t.setV k x).outSt = t.outSt := rfl
@[simp] theorem Thread.setV_outTl (t : Thread) (k : Nat) (x : Word) : (t.setV k x).outTl = t.outTl := rfl
@[simp] theorem Thread.setV_ops (t : Thread) (k : Nat) (x : Word) : (t.setV k x).ops = t.ops := rfl
@[simp] theorem Thread.setV_role (t : Thread) (k : Nat) (x : Word) : (t.setV k x).role = t.role := rfl
@[simp] theorem Thread.setV_chorDep (t : Thread) (k : Nat) (x : Word) : (t.setV k x).chorDep = t.chorDep := rfl
@[simp] theorem Thread.setV_chorRes (t : Thread) (k : Nat) (x : Word) : (t.setV k x).chorRes = t.chorRes := rfl
@[simp] theorem Thread.setV_runLo (t : Thread) (k : Nat) (x : Word) : (t.setV k x).runLo = t.runLo := rfl
@[simp] theorem Thread.setV_runHi (t : Thread) (k : Nat) (x : Word) : (t.setV k x).runHi = t.runHi := rfl
@[simp] theorem Thread.setV_loops (t : Thread) (k : Nat) (x : Word) : (t.setV k x).loops = t.loops := rfl
@[simp] theorem Thread.setV_handler (t : Thread) (k : Nat) (x : Word) : (t.setV k x).handler = t.handler := rfl
@[simp] theorem Thread.setV_hclass (t : Thread) (k : Nat) (x : Word) : (t.setV k x).hclass = t.hclass := rfl
@[simp] theorem Thread.setV_hint (t : Thread) (k : Nat) (x : Word) : (t.setV k x).hint = t.hint := rfl
@[simp] theorem Thread.setV_grouping (t : Thread) (k : Nat) (x : Word) : (t.setV k x).grouping = t.grouping := rfl
@[simp] theorem Thread.setV_holdoff (t : Thread) (k : Nat) (x : Word) : (t.setV k x).holdoff = t.holdoff := rfl
@[simp] theorem Thread.setV_yield (t : Thread) (k : Nat) (x : Word) : (t.setV k x).yield = t.yield := rfl
@[simp] theorem Thread.setV_fresh (t : Thread) (k : Nat) (x : Word) : (t.setV k x).fresh = t.fresh := rfl
@[simp] theorem Thread.setV_stall (t : Thread) (k : Nat) (x : Word) : (t.setV k x).stall = t.stall := rfl
@[simp] theorem Thread.setV_since (t : Thread) (k : Nat) (x : Word) : (t.setV k x).since = t.since := rfl
@[simp] theorem Thread.setV_bars (t : Thread) (k : Nat) (x : Word) : (t.setV k x).bars = t.bars := rfl
@[simp] theorem Thread.setV_rebars (t : Thread) (k : Nat) (x : Word) : (t.setV k x).rebars = t.rebars := rfl
@[simp] theorem Thread.setV_orphan (t : Thread) (k : Nat) (x : Word) : (t.setV k x).orphan = t.orphan := rfl
@[simp] theorem Thread.setV_exited (t : Thread) (k : Nat) (x : Word) : (t.setV k x).exited = t.exited := rfl
@[simp] theorem Thread.setV_saved (t : Thread) (k : Nat) (x : Word) : (t.setV k x).saved = t.saved := rfl

@[simp] theorem Thread.setPair_ref (t : Thread) (k : Nat) (x : DWord) : (t.setPair k x).ref = t.ref := rfl
@[simp] theorem Thread.setPair_p (t : Thread) (k : Nat) (x : DWord) : (t.setPair k x).p = t.p := rfl
@[simp] theorem Thread.setPair_h (t : Thread) (k : Nat) (x : DWord) : (t.setPair k x).h = t.h := rfl
@[simp] theorem Thread.setPair_fpflags (t : Thread) (k : Nat) (x : DWord) : (t.setPair k x).fpflags = t.fpflags := rfl
@[simp] theorem Thread.setPair_draw (t : Thread) (k : Nat) (x : DWord) : (t.setPair k x).draw = t.draw := rfl
@[simp] theorem Thread.setPair_pc (t : Thread) (k : Nat) (x : DWord) : (t.setPair k x).pc = t.pc := rfl
@[simp] theorem Thread.setPair_ret (t : Thread) (k : Nat) (x : DWord) : (t.setPair k x).ret = t.ret := rfl
@[simp] theorem Thread.setPair_depth (t : Thread) (k : Nat) (x : DWord) : (t.setPair k x).depth = t.depth := rfl
@[simp] theorem Thread.setPair_batch (t : Thread) (k : Nat) (x : DWord) : (t.setPair k x).batch = t.batch := rfl
@[simp] theorem Thread.setPair_batches (t : Thread) (k : Nat) (x : DWord) : (t.setPair k x).batches = t.batches := rfl
@[simp] theorem Thread.setPair_nld (t : Thread) (k : Nat) (x : DWord) : (t.setPair k x).nld = t.nld := rfl
@[simp] theorem Thread.setPair_nst (t : Thread) (k : Nat) (x : DWord) : (t.setPair k x).nst = t.nst := rfl
@[simp] theorem Thread.setPair_ntl (t : Thread) (k : Nat) (x : DWord) : (t.setPair k x).ntl = t.ntl := rfl
@[simp] theorem Thread.setPair_outLd (t : Thread) (k : Nat) (x : DWord) : (t.setPair k x).outLd = t.outLd := rfl
@[simp] theorem Thread.setPair_outSt (t : Thread) (k : Nat) (x : DWord) : (t.setPair k x).outSt = t.outSt := rfl
@[simp] theorem Thread.setPair_outTl (t : Thread) (k : Nat) (x : DWord) : (t.setPair k x).outTl = t.outTl := rfl
@[simp] theorem Thread.setPair_ops (t : Thread) (k : Nat) (x : DWord) : (t.setPair k x).ops = t.ops := rfl
@[simp] theorem Thread.setPair_role (t : Thread) (k : Nat) (x : DWord) : (t.setPair k x).role = t.role := rfl
@[simp] theorem Thread.setPair_chorDep (t : Thread) (k : Nat) (x : DWord) : (t.setPair k x).chorDep = t.chorDep := rfl
@[simp] theorem Thread.setPair_chorRes (t : Thread) (k : Nat) (x : DWord) : (t.setPair k x).chorRes = t.chorRes := rfl
@[simp] theorem Thread.setPair_runLo (t : Thread) (k : Nat) (x : DWord) : (t.setPair k x).runLo = t.runLo := rfl
@[simp] theorem Thread.setPair_runHi (t : Thread) (k : Nat) (x : DWord) : (t.setPair k x).runHi = t.runHi := rfl
@[simp] theorem Thread.setPair_loops (t : Thread) (k : Nat) (x : DWord) : (t.setPair k x).loops = t.loops := rfl
@[simp] theorem Thread.setPair_handler (t : Thread) (k : Nat) (x : DWord) : (t.setPair k x).handler = t.handler := rfl
@[simp] theorem Thread.setPair_hclass (t : Thread) (k : Nat) (x : DWord) : (t.setPair k x).hclass = t.hclass := rfl
@[simp] theorem Thread.setPair_hint (t : Thread) (k : Nat) (x : DWord) : (t.setPair k x).hint = t.hint := rfl
@[simp] theorem Thread.setPair_grouping (t : Thread) (k : Nat) (x : DWord) : (t.setPair k x).grouping = t.grouping := rfl
@[simp] theorem Thread.setPair_holdoff (t : Thread) (k : Nat) (x : DWord) : (t.setPair k x).holdoff = t.holdoff := rfl
@[simp] theorem Thread.setPair_yield (t : Thread) (k : Nat) (x : DWord) : (t.setPair k x).yield = t.yield := rfl
@[simp] theorem Thread.setPair_fresh (t : Thread) (k : Nat) (x : DWord) : (t.setPair k x).fresh = t.fresh := rfl
@[simp] theorem Thread.setPair_stall (t : Thread) (k : Nat) (x : DWord) : (t.setPair k x).stall = t.stall := rfl
@[simp] theorem Thread.setPair_since (t : Thread) (k : Nat) (x : DWord) : (t.setPair k x).since = t.since := rfl
@[simp] theorem Thread.setPair_bars (t : Thread) (k : Nat) (x : DWord) : (t.setPair k x).bars = t.bars := rfl
@[simp] theorem Thread.setPair_rebars (t : Thread) (k : Nat) (x : DWord) : (t.setPair k x).rebars = t.rebars := rfl
@[simp] theorem Thread.setPair_orphan (t : Thread) (k : Nat) (x : DWord) : (t.setPair k x).orphan = t.orphan := rfl
@[simp] theorem Thread.setPair_exited (t : Thread) (k : Nat) (x : DWord) : (t.setPair k x).exited = t.exited := rfl
@[simp] theorem Thread.setPair_saved (t : Thread) (k : Nat) (x : DWord) : (t.setPair k x).saved = t.saved := rfl

@[simp] theorem Thread.setH_ref (t : Thread) (k : HReg) (x : Handle) : (t.setH k x).ref = t.ref := rfl
@[simp] theorem Thread.setH_v (t : Thread) (k : HReg) (x : Handle) : (t.setH k x).v = t.v := rfl
@[simp] theorem Thread.setH_p (t : Thread) (k : HReg) (x : Handle) : (t.setH k x).p = t.p := rfl
@[simp] theorem Thread.setH_fpflags (t : Thread) (k : HReg) (x : Handle) : (t.setH k x).fpflags = t.fpflags := rfl
@[simp] theorem Thread.setH_draw (t : Thread) (k : HReg) (x : Handle) : (t.setH k x).draw = t.draw := rfl
@[simp] theorem Thread.setH_pc (t : Thread) (k : HReg) (x : Handle) : (t.setH k x).pc = t.pc := rfl
@[simp] theorem Thread.setH_ret (t : Thread) (k : HReg) (x : Handle) : (t.setH k x).ret = t.ret := rfl
@[simp] theorem Thread.setH_depth (t : Thread) (k : HReg) (x : Handle) : (t.setH k x).depth = t.depth := rfl
@[simp] theorem Thread.setH_batch (t : Thread) (k : HReg) (x : Handle) : (t.setH k x).batch = t.batch := rfl
@[simp] theorem Thread.setH_batches (t : Thread) (k : HReg) (x : Handle) : (t.setH k x).batches = t.batches := rfl
@[simp] theorem Thread.setH_nld (t : Thread) (k : HReg) (x : Handle) : (t.setH k x).nld = t.nld := rfl
@[simp] theorem Thread.setH_nst (t : Thread) (k : HReg) (x : Handle) : (t.setH k x).nst = t.nst := rfl
@[simp] theorem Thread.setH_ntl (t : Thread) (k : HReg) (x : Handle) : (t.setH k x).ntl = t.ntl := rfl
@[simp] theorem Thread.setH_outLd (t : Thread) (k : HReg) (x : Handle) : (t.setH k x).outLd = t.outLd := rfl
@[simp] theorem Thread.setH_outSt (t : Thread) (k : HReg) (x : Handle) : (t.setH k x).outSt = t.outSt := rfl
@[simp] theorem Thread.setH_outTl (t : Thread) (k : HReg) (x : Handle) : (t.setH k x).outTl = t.outTl := rfl
@[simp] theorem Thread.setH_loads (t : Thread) (k : HReg) (x : Handle) : (t.setH k x).loads = t.loads := rfl
@[simp] theorem Thread.setH_ops (t : Thread) (k : HReg) (x : Handle) : (t.setH k x).ops = t.ops := rfl
@[simp] theorem Thread.setH_role (t : Thread) (k : HReg) (x : Handle) : (t.setH k x).role = t.role := rfl
@[simp] theorem Thread.setH_chorDep (t : Thread) (k : HReg) (x : Handle) : (t.setH k x).chorDep = t.chorDep := rfl
@[simp] theorem Thread.setH_chorRes (t : Thread) (k : HReg) (x : Handle) : (t.setH k x).chorRes = t.chorRes := rfl
@[simp] theorem Thread.setH_runLo (t : Thread) (k : HReg) (x : Handle) : (t.setH k x).runLo = t.runLo := rfl
@[simp] theorem Thread.setH_runHi (t : Thread) (k : HReg) (x : Handle) : (t.setH k x).runHi = t.runHi := rfl
@[simp] theorem Thread.setH_loops (t : Thread) (k : HReg) (x : Handle) : (t.setH k x).loops = t.loops := rfl
@[simp] theorem Thread.setH_handler (t : Thread) (k : HReg) (x : Handle) : (t.setH k x).handler = t.handler := rfl
@[simp] theorem Thread.setH_hclass (t : Thread) (k : HReg) (x : Handle) : (t.setH k x).hclass = t.hclass := rfl
@[simp] theorem Thread.setH_hint (t : Thread) (k : HReg) (x : Handle) : (t.setH k x).hint = t.hint := rfl
@[simp] theorem Thread.setH_grouping (t : Thread) (k : HReg) (x : Handle) : (t.setH k x).grouping = t.grouping := rfl
@[simp] theorem Thread.setH_holdoff (t : Thread) (k : HReg) (x : Handle) : (t.setH k x).holdoff = t.holdoff := rfl
@[simp] theorem Thread.setH_yield (t : Thread) (k : HReg) (x : Handle) : (t.setH k x).yield = t.yield := rfl
@[simp] theorem Thread.setH_fresh (t : Thread) (k : HReg) (x : Handle) : (t.setH k x).fresh = t.fresh := rfl
@[simp] theorem Thread.setH_stall (t : Thread) (k : HReg) (x : Handle) : (t.setH k x).stall = t.stall := rfl
@[simp] theorem Thread.setH_since (t : Thread) (k : HReg) (x : Handle) : (t.setH k x).since = t.since := rfl
@[simp] theorem Thread.setH_bars (t : Thread) (k : HReg) (x : Handle) : (t.setH k x).bars = t.bars := rfl
@[simp] theorem Thread.setH_rebars (t : Thread) (k : HReg) (x : Handle) : (t.setH k x).rebars = t.rebars := rfl
@[simp] theorem Thread.setH_orphan (t : Thread) (k : HReg) (x : Handle) : (t.setH k x).orphan = t.orphan := rfl
@[simp] theorem Thread.setH_exited (t : Thread) (k : HReg) (x : Handle) : (t.setH k x).exited = t.exited := rfl
@[simp] theorem Thread.setH_saved (t : Thread) (k : HReg) (x : Handle) : (t.setH k x).saved = t.saved := rfl

@[simp] theorem Thread.orFlags_ref (t : Thread) (x : BitVec 5) : (t.orFlags x).ref = t.ref := rfl
@[simp] theorem Thread.orFlags_v (t : Thread) (x : BitVec 5) : (t.orFlags x).v = t.v := rfl
@[simp] theorem Thread.orFlags_p (t : Thread) (x : BitVec 5) : (t.orFlags x).p = t.p := rfl
@[simp] theorem Thread.orFlags_h (t : Thread) (x : BitVec 5) : (t.orFlags x).h = t.h := rfl
@[simp] theorem Thread.orFlags_draw (t : Thread) (x : BitVec 5) : (t.orFlags x).draw = t.draw := rfl
@[simp] theorem Thread.orFlags_pc (t : Thread) (x : BitVec 5) : (t.orFlags x).pc = t.pc := rfl
@[simp] theorem Thread.orFlags_ret (t : Thread) (x : BitVec 5) : (t.orFlags x).ret = t.ret := rfl
@[simp] theorem Thread.orFlags_depth (t : Thread) (x : BitVec 5) : (t.orFlags x).depth = t.depth := rfl
@[simp] theorem Thread.orFlags_batch (t : Thread) (x : BitVec 5) : (t.orFlags x).batch = t.batch := rfl
@[simp] theorem Thread.orFlags_batches (t : Thread) (x : BitVec 5) : (t.orFlags x).batches = t.batches := rfl
@[simp] theorem Thread.orFlags_nld (t : Thread) (x : BitVec 5) : (t.orFlags x).nld = t.nld := rfl
@[simp] theorem Thread.orFlags_nst (t : Thread) (x : BitVec 5) : (t.orFlags x).nst = t.nst := rfl
@[simp] theorem Thread.orFlags_ntl (t : Thread) (x : BitVec 5) : (t.orFlags x).ntl = t.ntl := rfl
@[simp] theorem Thread.orFlags_outLd (t : Thread) (x : BitVec 5) : (t.orFlags x).outLd = t.outLd := rfl
@[simp] theorem Thread.orFlags_outSt (t : Thread) (x : BitVec 5) : (t.orFlags x).outSt = t.outSt := rfl
@[simp] theorem Thread.orFlags_outTl (t : Thread) (x : BitVec 5) : (t.orFlags x).outTl = t.outTl := rfl
@[simp] theorem Thread.orFlags_loads (t : Thread) (x : BitVec 5) : (t.orFlags x).loads = t.loads := rfl
@[simp] theorem Thread.orFlags_ops (t : Thread) (x : BitVec 5) : (t.orFlags x).ops = t.ops := rfl
@[simp] theorem Thread.orFlags_role (t : Thread) (x : BitVec 5) : (t.orFlags x).role = t.role := rfl
@[simp] theorem Thread.orFlags_chorDep (t : Thread) (x : BitVec 5) : (t.orFlags x).chorDep = t.chorDep := rfl
@[simp] theorem Thread.orFlags_chorRes (t : Thread) (x : BitVec 5) : (t.orFlags x).chorRes = t.chorRes := rfl
@[simp] theorem Thread.orFlags_runLo (t : Thread) (x : BitVec 5) : (t.orFlags x).runLo = t.runLo := rfl
@[simp] theorem Thread.orFlags_runHi (t : Thread) (x : BitVec 5) : (t.orFlags x).runHi = t.runHi := rfl
@[simp] theorem Thread.orFlags_loops (t : Thread) (x : BitVec 5) : (t.orFlags x).loops = t.loops := rfl
@[simp] theorem Thread.orFlags_handler (t : Thread) (x : BitVec 5) : (t.orFlags x).handler = t.handler := rfl
@[simp] theorem Thread.orFlags_hclass (t : Thread) (x : BitVec 5) : (t.orFlags x).hclass = t.hclass := rfl
@[simp] theorem Thread.orFlags_hint (t : Thread) (x : BitVec 5) : (t.orFlags x).hint = t.hint := rfl
@[simp] theorem Thread.orFlags_grouping (t : Thread) (x : BitVec 5) : (t.orFlags x).grouping = t.grouping := rfl
@[simp] theorem Thread.orFlags_holdoff (t : Thread) (x : BitVec 5) : (t.orFlags x).holdoff = t.holdoff := rfl
@[simp] theorem Thread.orFlags_yield (t : Thread) (x : BitVec 5) : (t.orFlags x).yield = t.yield := rfl
@[simp] theorem Thread.orFlags_fresh (t : Thread) (x : BitVec 5) : (t.orFlags x).fresh = t.fresh := rfl
@[simp] theorem Thread.orFlags_stall (t : Thread) (x : BitVec 5) : (t.orFlags x).stall = t.stall := rfl
@[simp] theorem Thread.orFlags_since (t : Thread) (x : BitVec 5) : (t.orFlags x).since = t.since := rfl
@[simp] theorem Thread.orFlags_bars (t : Thread) (x : BitVec 5) : (t.orFlags x).bars = t.bars := rfl
@[simp] theorem Thread.orFlags_rebars (t : Thread) (x : BitVec 5) : (t.orFlags x).rebars = t.rebars := rfl
@[simp] theorem Thread.orFlags_orphan (t : Thread) (x : BitVec 5) : (t.orFlags x).orphan = t.orphan := rfl
@[simp] theorem Thread.orFlags_exited (t : Thread) (x : BitVec 5) : (t.orFlags x).exited = t.exited := rfl
@[simp] theorem Thread.orFlags_saved (t : Thread) (x : BitVec 5) : (t.orFlags x).saved = t.saved := rfl

@[simp] theorem Thread.setP_ref (t : Thread) (k : PReg) (x : Bool) : (t.setP k x).ref = t.ref := by unfold Thread.setP; split <;> rfl
@[simp] theorem Thread.setP_v (t : Thread) (k : PReg) (x : Bool) : (t.setP k x).v = t.v := by unfold Thread.setP; split <;> rfl
@[simp] theorem Thread.setP_h (t : Thread) (k : PReg) (x : Bool) : (t.setP k x).h = t.h := by unfold Thread.setP; split <;> rfl
@[simp] theorem Thread.setP_fpflags (t : Thread) (k : PReg) (x : Bool) : (t.setP k x).fpflags = t.fpflags := by unfold Thread.setP; split <;> rfl
@[simp] theorem Thread.setP_draw (t : Thread) (k : PReg) (x : Bool) : (t.setP k x).draw = t.draw := by unfold Thread.setP; split <;> rfl
@[simp] theorem Thread.setP_pc (t : Thread) (k : PReg) (x : Bool) : (t.setP k x).pc = t.pc := by unfold Thread.setP; split <;> rfl
@[simp] theorem Thread.setP_ret (t : Thread) (k : PReg) (x : Bool) : (t.setP k x).ret = t.ret := by unfold Thread.setP; split <;> rfl
@[simp] theorem Thread.setP_depth (t : Thread) (k : PReg) (x : Bool) : (t.setP k x).depth = t.depth := by unfold Thread.setP; split <;> rfl
@[simp] theorem Thread.setP_batch (t : Thread) (k : PReg) (x : Bool) : (t.setP k x).batch = t.batch := by unfold Thread.setP; split <;> rfl
@[simp] theorem Thread.setP_batches (t : Thread) (k : PReg) (x : Bool) : (t.setP k x).batches = t.batches := by unfold Thread.setP; split <;> rfl
@[simp] theorem Thread.setP_nld (t : Thread) (k : PReg) (x : Bool) : (t.setP k x).nld = t.nld := by unfold Thread.setP; split <;> rfl
@[simp] theorem Thread.setP_nst (t : Thread) (k : PReg) (x : Bool) : (t.setP k x).nst = t.nst := by unfold Thread.setP; split <;> rfl
@[simp] theorem Thread.setP_ntl (t : Thread) (k : PReg) (x : Bool) : (t.setP k x).ntl = t.ntl := by unfold Thread.setP; split <;> rfl
@[simp] theorem Thread.setP_outLd (t : Thread) (k : PReg) (x : Bool) : (t.setP k x).outLd = t.outLd := by unfold Thread.setP; split <;> rfl
@[simp] theorem Thread.setP_outSt (t : Thread) (k : PReg) (x : Bool) : (t.setP k x).outSt = t.outSt := by unfold Thread.setP; split <;> rfl
@[simp] theorem Thread.setP_outTl (t : Thread) (k : PReg) (x : Bool) : (t.setP k x).outTl = t.outTl := by unfold Thread.setP; split <;> rfl
@[simp] theorem Thread.setP_loads (t : Thread) (k : PReg) (x : Bool) : (t.setP k x).loads = t.loads := by unfold Thread.setP; split <;> rfl
@[simp] theorem Thread.setP_ops (t : Thread) (k : PReg) (x : Bool) : (t.setP k x).ops = t.ops := by unfold Thread.setP; split <;> rfl
@[simp] theorem Thread.setP_role (t : Thread) (k : PReg) (x : Bool) : (t.setP k x).role = t.role := by unfold Thread.setP; split <;> rfl
@[simp] theorem Thread.setP_chorDep (t : Thread) (k : PReg) (x : Bool) : (t.setP k x).chorDep = t.chorDep := by unfold Thread.setP; split <;> rfl
@[simp] theorem Thread.setP_chorRes (t : Thread) (k : PReg) (x : Bool) : (t.setP k x).chorRes = t.chorRes := by unfold Thread.setP; split <;> rfl
@[simp] theorem Thread.setP_runLo (t : Thread) (k : PReg) (x : Bool) : (t.setP k x).runLo = t.runLo := by unfold Thread.setP; split <;> rfl
@[simp] theorem Thread.setP_runHi (t : Thread) (k : PReg) (x : Bool) : (t.setP k x).runHi = t.runHi := by unfold Thread.setP; split <;> rfl
@[simp] theorem Thread.setP_loops (t : Thread) (k : PReg) (x : Bool) : (t.setP k x).loops = t.loops := by unfold Thread.setP; split <;> rfl
@[simp] theorem Thread.setP_handler (t : Thread) (k : PReg) (x : Bool) : (t.setP k x).handler = t.handler := by unfold Thread.setP; split <;> rfl
@[simp] theorem Thread.setP_hclass (t : Thread) (k : PReg) (x : Bool) : (t.setP k x).hclass = t.hclass := by unfold Thread.setP; split <;> rfl
@[simp] theorem Thread.setP_hint (t : Thread) (k : PReg) (x : Bool) : (t.setP k x).hint = t.hint := by unfold Thread.setP; split <;> rfl
@[simp] theorem Thread.setP_grouping (t : Thread) (k : PReg) (x : Bool) : (t.setP k x).grouping = t.grouping := by unfold Thread.setP; split <;> rfl
@[simp] theorem Thread.setP_holdoff (t : Thread) (k : PReg) (x : Bool) : (t.setP k x).holdoff = t.holdoff := by unfold Thread.setP; split <;> rfl
@[simp] theorem Thread.setP_yield (t : Thread) (k : PReg) (x : Bool) : (t.setP k x).yield = t.yield := by unfold Thread.setP; split <;> rfl
@[simp] theorem Thread.setP_fresh (t : Thread) (k : PReg) (x : Bool) : (t.setP k x).fresh = t.fresh := by unfold Thread.setP; split <;> rfl
@[simp] theorem Thread.setP_stall (t : Thread) (k : PReg) (x : Bool) : (t.setP k x).stall = t.stall := by unfold Thread.setP; split <;> rfl
@[simp] theorem Thread.setP_since (t : Thread) (k : PReg) (x : Bool) : (t.setP k x).since = t.since := by unfold Thread.setP; split <;> rfl
@[simp] theorem Thread.setP_bars (t : Thread) (k : PReg) (x : Bool) : (t.setP k x).bars = t.bars := by unfold Thread.setP; split <;> rfl
@[simp] theorem Thread.setP_rebars (t : Thread) (k : PReg) (x : Bool) : (t.setP k x).rebars = t.rebars := by unfold Thread.setP; split <;> rfl
@[simp] theorem Thread.setP_orphan (t : Thread) (k : PReg) (x : Bool) : (t.setP k x).orphan = t.orphan := by unfold Thread.setP; split <;> rfl
@[simp] theorem Thread.setP_exited (t : Thread) (k : PReg) (x : Bool) : (t.setP k x).exited = t.exited := by unfold Thread.setP; split <;> rfl
@[simp] theorem Thread.setP_saved (t : Thread) (k : PReg) (x : Bool) : (t.setP k x).saved = t.saved := by unfold Thread.setP; split <;> rfl

@[simp] theorem Thread.leaveRun_ref (t : Thread) (x : Pc) : (t.leaveRun x).ref = t.ref := by unfold Thread.leaveRun; split <;> rfl
@[simp] theorem Thread.leaveRun_v (t : Thread) (x : Pc) : (t.leaveRun x).v = t.v := by unfold Thread.leaveRun; split <;> rfl
@[simp] theorem Thread.leaveRun_p (t : Thread) (x : Pc) : (t.leaveRun x).p = t.p := by unfold Thread.leaveRun; split <;> rfl
@[simp] theorem Thread.leaveRun_h (t : Thread) (x : Pc) : (t.leaveRun x).h = t.h := by unfold Thread.leaveRun; split <;> rfl
@[simp] theorem Thread.leaveRun_fpflags (t : Thread) (x : Pc) : (t.leaveRun x).fpflags = t.fpflags := by unfold Thread.leaveRun; split <;> rfl
@[simp] theorem Thread.leaveRun_draw (t : Thread) (x : Pc) : (t.leaveRun x).draw = t.draw := by unfold Thread.leaveRun; split <;> rfl
@[simp] theorem Thread.leaveRun_pc (t : Thread) (x : Pc) : (t.leaveRun x).pc = t.pc := by unfold Thread.leaveRun; split <;> rfl
@[simp] theorem Thread.leaveRun_ret (t : Thread) (x : Pc) : (t.leaveRun x).ret = t.ret := by unfold Thread.leaveRun; split <;> rfl
@[simp] theorem Thread.leaveRun_depth (t : Thread) (x : Pc) : (t.leaveRun x).depth = t.depth := by unfold Thread.leaveRun; split <;> rfl
@[simp] theorem Thread.leaveRun_batch (t : Thread) (x : Pc) : (t.leaveRun x).batch = t.batch := by unfold Thread.leaveRun; split <;> rfl
@[simp] theorem Thread.leaveRun_batches (t : Thread) (x : Pc) : (t.leaveRun x).batches = t.batches := by unfold Thread.leaveRun; split <;> rfl
@[simp] theorem Thread.leaveRun_nld (t : Thread) (x : Pc) : (t.leaveRun x).nld = t.nld := by unfold Thread.leaveRun; split <;> rfl
@[simp] theorem Thread.leaveRun_nst (t : Thread) (x : Pc) : (t.leaveRun x).nst = t.nst := by unfold Thread.leaveRun; split <;> rfl
@[simp] theorem Thread.leaveRun_ntl (t : Thread) (x : Pc) : (t.leaveRun x).ntl = t.ntl := by unfold Thread.leaveRun; split <;> rfl
@[simp] theorem Thread.leaveRun_outLd (t : Thread) (x : Pc) : (t.leaveRun x).outLd = t.outLd := by unfold Thread.leaveRun; split <;> rfl
@[simp] theorem Thread.leaveRun_outSt (t : Thread) (x : Pc) : (t.leaveRun x).outSt = t.outSt := by unfold Thread.leaveRun; split <;> rfl
@[simp] theorem Thread.leaveRun_outTl (t : Thread) (x : Pc) : (t.leaveRun x).outTl = t.outTl := by unfold Thread.leaveRun; split <;> rfl
@[simp] theorem Thread.leaveRun_loads (t : Thread) (x : Pc) : (t.leaveRun x).loads = t.loads := by unfold Thread.leaveRun; split <;> rfl
@[simp] theorem Thread.leaveRun_ops (t : Thread) (x : Pc) : (t.leaveRun x).ops = t.ops := by unfold Thread.leaveRun; split <;> rfl
@[simp] theorem Thread.leaveRun_role (t : Thread) (x : Pc) : (t.leaveRun x).role = t.role := by unfold Thread.leaveRun; split <;> rfl
@[simp] theorem Thread.leaveRun_chorDep (t : Thread) (x : Pc) : (t.leaveRun x).chorDep = t.chorDep := by unfold Thread.leaveRun; split <;> rfl
@[simp] theorem Thread.leaveRun_chorRes (t : Thread) (x : Pc) : (t.leaveRun x).chorRes = t.chorRes := by unfold Thread.leaveRun; split <;> rfl
@[simp] theorem Thread.leaveRun_loops (t : Thread) (x : Pc) : (t.leaveRun x).loops = t.loops := by unfold Thread.leaveRun; split <;> rfl
@[simp] theorem Thread.leaveRun_handler (t : Thread) (x : Pc) : (t.leaveRun x).handler = t.handler := by unfold Thread.leaveRun; split <;> rfl
@[simp] theorem Thread.leaveRun_hclass (t : Thread) (x : Pc) : (t.leaveRun x).hclass = t.hclass := by unfold Thread.leaveRun; split <;> rfl
@[simp] theorem Thread.leaveRun_hint (t : Thread) (x : Pc) : (t.leaveRun x).hint = t.hint := by unfold Thread.leaveRun; split <;> rfl
@[simp] theorem Thread.leaveRun_grouping (t : Thread) (x : Pc) : (t.leaveRun x).grouping = t.grouping := by unfold Thread.leaveRun; split <;> rfl
@[simp] theorem Thread.leaveRun_holdoff (t : Thread) (x : Pc) : (t.leaveRun x).holdoff = t.holdoff := by unfold Thread.leaveRun; split <;> rfl
@[simp] theorem Thread.leaveRun_yield (t : Thread) (x : Pc) : (t.leaveRun x).yield = t.yield := by unfold Thread.leaveRun; split <;> rfl
@[simp] theorem Thread.leaveRun_fresh (t : Thread) (x : Pc) : (t.leaveRun x).fresh = t.fresh := by unfold Thread.leaveRun; split <;> rfl
@[simp] theorem Thread.leaveRun_stall (t : Thread) (x : Pc) : (t.leaveRun x).stall = t.stall := by unfold Thread.leaveRun; split <;> rfl
@[simp] theorem Thread.leaveRun_since (t : Thread) (x : Pc) : (t.leaveRun x).since = t.since := by unfold Thread.leaveRun; split <;> rfl
@[simp] theorem Thread.leaveRun_bars (t : Thread) (x : Pc) : (t.leaveRun x).bars = t.bars := by unfold Thread.leaveRun; split <;> rfl
@[simp] theorem Thread.leaveRun_rebars (t : Thread) (x : Pc) : (t.leaveRun x).rebars = t.rebars := by unfold Thread.leaveRun; split <;> rfl
@[simp] theorem Thread.leaveRun_orphan (t : Thread) (x : Pc) : (t.leaveRun x).orphan = t.orphan := by unfold Thread.leaveRun; split <;> rfl
@[simp] theorem Thread.leaveRun_exited (t : Thread) (x : Pc) : (t.leaveRun x).exited = t.exited := by unfold Thread.leaveRun; split <;> rfl
@[simp] theorem Thread.leaveRun_saved (t : Thread) (x : Pc) : (t.leaveRun x).saved = t.saved := by unfold Thread.leaveRun; split <;> rfl

@[simp] theorem Thread.arm_ref (t : Thread) : (t.arm).ref = t.ref := by unfold Thread.arm; split <;> rfl
@[simp] theorem Thread.arm_v (t : Thread) : (t.arm).v = t.v := by unfold Thread.arm; split <;> rfl
@[simp] theorem Thread.arm_p (t : Thread) : (t.arm).p = t.p := by unfold Thread.arm; split <;> rfl
@[simp] theorem Thread.arm_h (t : Thread) : (t.arm).h = t.h := by unfold Thread.arm; split <;> rfl
@[simp] theorem Thread.arm_fpflags (t : Thread) : (t.arm).fpflags = t.fpflags := by unfold Thread.arm; split <;> rfl
@[simp] theorem Thread.arm_draw (t : Thread) : (t.arm).draw = t.draw := by unfold Thread.arm; split <;> rfl
@[simp] theorem Thread.arm_pc (t : Thread) : (t.arm).pc = t.pc := by unfold Thread.arm; split <;> rfl
@[simp] theorem Thread.arm_ret (t : Thread) : (t.arm).ret = t.ret := by unfold Thread.arm; split <;> rfl
@[simp] theorem Thread.arm_depth (t : Thread) : (t.arm).depth = t.depth := by unfold Thread.arm; split <;> rfl
@[simp] theorem Thread.arm_batch (t : Thread) : (t.arm).batch = t.batch := by unfold Thread.arm; split <;> rfl
@[simp] theorem Thread.arm_batches (t : Thread) : (t.arm).batches = t.batches := by unfold Thread.arm; split <;> rfl
@[simp] theorem Thread.arm_nld (t : Thread) : (t.arm).nld = t.nld := by unfold Thread.arm; split <;> rfl
@[simp] theorem Thread.arm_nst (t : Thread) : (t.arm).nst = t.nst := by unfold Thread.arm; split <;> rfl
@[simp] theorem Thread.arm_ntl (t : Thread) : (t.arm).ntl = t.ntl := by unfold Thread.arm; split <;> rfl
@[simp] theorem Thread.arm_outLd (t : Thread) : (t.arm).outLd = t.outLd := by unfold Thread.arm; split <;> rfl
@[simp] theorem Thread.arm_outSt (t : Thread) : (t.arm).outSt = t.outSt := by unfold Thread.arm; split <;> rfl
@[simp] theorem Thread.arm_outTl (t : Thread) : (t.arm).outTl = t.outTl := by unfold Thread.arm; split <;> rfl
@[simp] theorem Thread.arm_loads (t : Thread) : (t.arm).loads = t.loads := by unfold Thread.arm; split <;> rfl
@[simp] theorem Thread.arm_ops (t : Thread) : (t.arm).ops = t.ops := by unfold Thread.arm; split <;> rfl
@[simp] theorem Thread.arm_role (t : Thread) : (t.arm).role = t.role := by unfold Thread.arm; split <;> rfl
@[simp] theorem Thread.arm_chorDep (t : Thread) : (t.arm).chorDep = t.chorDep := by unfold Thread.arm; split <;> rfl
@[simp] theorem Thread.arm_chorRes (t : Thread) : (t.arm).chorRes = t.chorRes := by unfold Thread.arm; split <;> rfl
@[simp] theorem Thread.arm_runLo (t : Thread) : (t.arm).runLo = t.runLo := by unfold Thread.arm; split <;> rfl
@[simp] theorem Thread.arm_runHi (t : Thread) : (t.arm).runHi = t.runHi := by unfold Thread.arm; split <;> rfl
@[simp] theorem Thread.arm_loops (t : Thread) : (t.arm).loops = t.loops := by unfold Thread.arm; split <;> rfl
@[simp] theorem Thread.arm_handler (t : Thread) : (t.arm).handler = t.handler := by unfold Thread.arm; split <;> rfl
@[simp] theorem Thread.arm_hclass (t : Thread) : (t.arm).hclass = t.hclass := by unfold Thread.arm; split <;> rfl
@[simp] theorem Thread.arm_grouping (t : Thread) : (t.arm).grouping = t.grouping := by unfold Thread.arm; split <;> rfl
@[simp] theorem Thread.arm_stall (t : Thread) : (t.arm).stall = t.stall := by unfold Thread.arm; split <;> rfl
@[simp] theorem Thread.arm_since (t : Thread) : (t.arm).since = t.since := by unfold Thread.arm; split <;> rfl
@[simp] theorem Thread.arm_bars (t : Thread) : (t.arm).bars = t.bars := by unfold Thread.arm; split <;> rfl
@[simp] theorem Thread.arm_rebars (t : Thread) : (t.arm).rebars = t.rebars := by unfold Thread.arm; split <;> rfl
@[simp] theorem Thread.arm_orphan (t : Thread) : (t.arm).orphan = t.orphan := by unfold Thread.arm; split <;> rfl
@[simp] theorem Thread.arm_exited (t : Thread) : (t.arm).exited = t.exited := by unfold Thread.arm; split <;> rfl
@[simp] theorem Thread.arm_saved (t : Thread) : (t.arm).saved = t.saved := by unfold Thread.arm; split <;> rfl

@[simp] theorem Thread.goto_ref (t : Thread) (x : Pc) : (t.goto x).ref = t.ref := (Thread.leaveRun_ref t.arm x).trans (Thread.arm_ref t)
@[simp] theorem Thread.goto_v (t : Thread) (x : Pc) : (t.goto x).v = t.v := (Thread.leaveRun_v t.arm x).trans (Thread.arm_v t)
@[simp] theorem Thread.goto_p (t : Thread) (x : Pc) : (t.goto x).p = t.p := (Thread.leaveRun_p t.arm x).trans (Thread.arm_p t)
@[simp] theorem Thread.goto_h (t : Thread) (x : Pc) : (t.goto x).h = t.h := (Thread.leaveRun_h t.arm x).trans (Thread.arm_h t)
@[simp] theorem Thread.goto_fpflags (t : Thread) (x : Pc) : (t.goto x).fpflags = t.fpflags := (Thread.leaveRun_fpflags t.arm x).trans (Thread.arm_fpflags t)
@[simp] theorem Thread.goto_draw (t : Thread) (x : Pc) : (t.goto x).draw = t.draw := (Thread.leaveRun_draw t.arm x).trans (Thread.arm_draw t)
@[simp] theorem Thread.goto_ret (t : Thread) (x : Pc) : (t.goto x).ret = t.ret := (Thread.leaveRun_ret t.arm x).trans (Thread.arm_ret t)
@[simp] theorem Thread.goto_depth (t : Thread) (x : Pc) : (t.goto x).depth = t.depth := (Thread.leaveRun_depth t.arm x).trans (Thread.arm_depth t)
@[simp] theorem Thread.goto_batch (t : Thread) (x : Pc) : (t.goto x).batch = t.batch := (Thread.leaveRun_batch t.arm x).trans (Thread.arm_batch t)
@[simp] theorem Thread.goto_batches (t : Thread) (x : Pc) : (t.goto x).batches = t.batches := (Thread.leaveRun_batches t.arm x).trans (Thread.arm_batches t)
@[simp] theorem Thread.goto_nld (t : Thread) (x : Pc) : (t.goto x).nld = t.nld := (Thread.leaveRun_nld t.arm x).trans (Thread.arm_nld t)
@[simp] theorem Thread.goto_nst (t : Thread) (x : Pc) : (t.goto x).nst = t.nst := (Thread.leaveRun_nst t.arm x).trans (Thread.arm_nst t)
@[simp] theorem Thread.goto_ntl (t : Thread) (x : Pc) : (t.goto x).ntl = t.ntl := (Thread.leaveRun_ntl t.arm x).trans (Thread.arm_ntl t)
@[simp] theorem Thread.goto_outLd (t : Thread) (x : Pc) : (t.goto x).outLd = t.outLd := (Thread.leaveRun_outLd t.arm x).trans (Thread.arm_outLd t)
@[simp] theorem Thread.goto_outSt (t : Thread) (x : Pc) : (t.goto x).outSt = t.outSt := (Thread.leaveRun_outSt t.arm x).trans (Thread.arm_outSt t)
@[simp] theorem Thread.goto_outTl (t : Thread) (x : Pc) : (t.goto x).outTl = t.outTl := (Thread.leaveRun_outTl t.arm x).trans (Thread.arm_outTl t)
@[simp] theorem Thread.goto_loads (t : Thread) (x : Pc) : (t.goto x).loads = t.loads := (Thread.leaveRun_loads t.arm x).trans (Thread.arm_loads t)
@[simp] theorem Thread.goto_ops (t : Thread) (x : Pc) : (t.goto x).ops = t.ops := (Thread.leaveRun_ops t.arm x).trans (Thread.arm_ops t)
@[simp] theorem Thread.goto_role (t : Thread) (x : Pc) : (t.goto x).role = t.role := (Thread.leaveRun_role t.arm x).trans (Thread.arm_role t)
@[simp] theorem Thread.goto_chorDep (t : Thread) (x : Pc) : (t.goto x).chorDep = t.chorDep := (Thread.leaveRun_chorDep t.arm x).trans (Thread.arm_chorDep t)
@[simp] theorem Thread.goto_chorRes (t : Thread) (x : Pc) : (t.goto x).chorRes = t.chorRes := (Thread.leaveRun_chorRes t.arm x).trans (Thread.arm_chorRes t)
@[simp] theorem Thread.goto_loops (t : Thread) (x : Pc) : (t.goto x).loops = t.loops := (Thread.leaveRun_loops t.arm x).trans (Thread.arm_loops t)
@[simp] theorem Thread.goto_handler (t : Thread) (x : Pc) : (t.goto x).handler = t.handler := (Thread.leaveRun_handler t.arm x).trans (Thread.arm_handler t)
@[simp] theorem Thread.goto_hclass (t : Thread) (x : Pc) : (t.goto x).hclass = t.hclass := (Thread.leaveRun_hclass t.arm x).trans (Thread.arm_hclass t)
@[simp] theorem Thread.goto_grouping (t : Thread) (x : Pc) : (t.goto x).grouping = t.grouping := (Thread.leaveRun_grouping t.arm x).trans (Thread.arm_grouping t)
@[simp] theorem Thread.goto_since (t : Thread) (x : Pc) : (t.goto x).since = t.since := (Thread.leaveRun_since t.arm x).trans (Thread.arm_since t)
@[simp] theorem Thread.goto_bars (t : Thread) (x : Pc) : (t.goto x).bars = t.bars := (Thread.leaveRun_bars t.arm x).trans (Thread.arm_bars t)
@[simp] theorem Thread.goto_rebars (t : Thread) (x : Pc) : (t.goto x).rebars = t.rebars := (Thread.leaveRun_rebars t.arm x).trans (Thread.arm_rebars t)
@[simp] theorem Thread.goto_orphan (t : Thread) (x : Pc) : (t.goto x).orphan = t.orphan := (Thread.leaveRun_orphan t.arm x).trans (Thread.arm_orphan t)
@[simp] theorem Thread.goto_exited (t : Thread) (x : Pc) : (t.goto x).exited = t.exited := (Thread.leaveRun_exited t.arm x).trans (Thread.arm_exited t)
@[simp] theorem Thread.goto_saved (t : Thread) (x : Pc) : (t.goto x).saved = t.saved := (Thread.leaveRun_saved t.arm x).trans (Thread.arm_saved t)

@[simp] theorem Thread.advance_ref (t : Thread) : (t.advance).ref = t.ref := Thread.goto_ref t _
@[simp] theorem Thread.advance_v (t : Thread) : (t.advance).v = t.v := Thread.goto_v t _
@[simp] theorem Thread.advance_p (t : Thread) : (t.advance).p = t.p := Thread.goto_p t _
@[simp] theorem Thread.advance_h (t : Thread) : (t.advance).h = t.h := Thread.goto_h t _
@[simp] theorem Thread.advance_fpflags (t : Thread) : (t.advance).fpflags = t.fpflags := Thread.goto_fpflags t _
@[simp] theorem Thread.advance_draw (t : Thread) : (t.advance).draw = t.draw := Thread.goto_draw t _
@[simp] theorem Thread.advance_ret (t : Thread) : (t.advance).ret = t.ret := Thread.goto_ret t _
@[simp] theorem Thread.advance_depth (t : Thread) : (t.advance).depth = t.depth := Thread.goto_depth t _
@[simp] theorem Thread.advance_batch (t : Thread) : (t.advance).batch = t.batch := Thread.goto_batch t _
@[simp] theorem Thread.advance_batches (t : Thread) : (t.advance).batches = t.batches := Thread.goto_batches t _
@[simp] theorem Thread.advance_nld (t : Thread) : (t.advance).nld = t.nld := Thread.goto_nld t _
@[simp] theorem Thread.advance_nst (t : Thread) : (t.advance).nst = t.nst := Thread.goto_nst t _
@[simp] theorem Thread.advance_ntl (t : Thread) : (t.advance).ntl = t.ntl := Thread.goto_ntl t _
@[simp] theorem Thread.advance_outLd (t : Thread) : (t.advance).outLd = t.outLd := Thread.goto_outLd t _
@[simp] theorem Thread.advance_outSt (t : Thread) : (t.advance).outSt = t.outSt := Thread.goto_outSt t _
@[simp] theorem Thread.advance_outTl (t : Thread) : (t.advance).outTl = t.outTl := Thread.goto_outTl t _
@[simp] theorem Thread.advance_loads (t : Thread) : (t.advance).loads = t.loads := Thread.goto_loads t _
@[simp] theorem Thread.advance_ops (t : Thread) : (t.advance).ops = t.ops := Thread.goto_ops t _
@[simp] theorem Thread.advance_role (t : Thread) : (t.advance).role = t.role := Thread.goto_role t _
@[simp] theorem Thread.advance_chorDep (t : Thread) : (t.advance).chorDep = t.chorDep := Thread.goto_chorDep t _
@[simp] theorem Thread.advance_chorRes (t : Thread) : (t.advance).chorRes = t.chorRes := Thread.goto_chorRes t _
@[simp] theorem Thread.advance_loops (t : Thread) : (t.advance).loops = t.loops := Thread.goto_loops t _
@[simp] theorem Thread.advance_handler (t : Thread) : (t.advance).handler = t.handler := Thread.goto_handler t _
@[simp] theorem Thread.advance_hclass (t : Thread) : (t.advance).hclass = t.hclass := Thread.goto_hclass t _
@[simp] theorem Thread.advance_grouping (t : Thread) : (t.advance).grouping = t.grouping := Thread.goto_grouping t _
@[simp] theorem Thread.advance_since (t : Thread) : (t.advance).since = t.since := Thread.goto_since t _
@[simp] theorem Thread.advance_bars (t : Thread) : (t.advance).bars = t.bars := Thread.goto_bars t _
@[simp] theorem Thread.advance_rebars (t : Thread) : (t.advance).rebars = t.rebars := Thread.goto_rebars t _
@[simp] theorem Thread.advance_orphan (t : Thread) : (t.advance).orphan = t.orphan := Thread.goto_orphan t _
@[simp] theorem Thread.advance_exited (t : Thread) : (t.advance).exited = t.exited := Thread.goto_exited t _
@[simp] theorem Thread.advance_saved (t : Thread) : (t.advance).saved = t.saved := Thread.goto_saved t _

@[simp] theorem Thread.goto_pc (t : Thread) (x : Pc) : (t.goto x).pc = x := rfl
@[simp] theorem Thread.goto_hint (t : Thread) (x : Pc) : (t.goto x).hint = none := rfl
@[simp] theorem Thread.goto_stall (t : Thread) (x : Pc) : (t.goto x).stall = .none := rfl
@[simp] theorem Thread.advance_pc (t : Thread) : t.advance.pc = t.pc + 4 := rfl
@[simp] theorem Thread.advance_hint (t : Thread) : t.advance.hint = none := rfl
@[simp] theorem Thread.advance_stall (t : Thread) : t.advance.stall = .none := rfl

/-! Updates of a workgroup -/

@[simp] theorem Workgroup.setS_launch (w : Workgroup) (k : Nat) (x : Word) : (w.setS k x).launch = w.launch := rfl
@[simp] theorem Workgroup.setS_log (w : Workgroup) (k : Nat) (x : Word) : (w.setS k x).log = w.log := rfl
@[simp] theorem Workgroup.setS_width (w : Workgroup) (k : Nat) (x : Word) : (w.setS k x).width = w.width := rfl
@[simp] theorem Workgroup.setS_depth (w : Workgroup) (k : Nat) (x : Word) : (w.setS k x).depth = w.depth := rfl
@[simp] theorem Workgroup.setS_nregs (w : Workgroup) (k : Nat) (x : Word) : (w.setS k x).nregs = w.nregs := rfl
@[simp] theorem Workgroup.setS_calls (w : Workgroup) (k : Nat) (x : Word) : (w.setS k x).calls = w.calls := rfl
@[simp] theorem Workgroup.setS_near (w : Workgroup) (k : Nat) (x : Word) : (w.setS k x).near = w.near := rfl
@[simp] theorem Workgroup.setS_tiles (w : Workgroup) (k : Nat) (x : Word) : (w.setS k x).tiles = w.tiles := rfl
@[simp] theorem Workgroup.setS_core (w : Workgroup) (k : Nat) (x : Word) : (w.setS k x).core = w.core := rfl
@[simp] theorem Workgroup.setS_quarter (w : Workgroup) (k : Nat) (x : Word) : (w.setS k x).quarter = w.quarter := rfl
@[simp] theorem Workgroup.setS_lane (w : Workgroup) (k : Nat) (x : Word) : (w.setS k x).lane = w.lane := rfl
@[simp] theorem Workgroup.setS_slot (w : Workgroup) (k : Nat) (x : Word) : (w.setS k x).slot = w.slot := rfl
@[simp] theorem Workgroup.setS_base (w : Workgroup) (k : Nat) (x : Word) : (w.setS k x).base = w.base := rfl
@[simp] theorem Workgroup.setS_gen (w : Workgroup) (k : Nat) (x : Word) : (w.setS k x).gen = w.gen := rfl
@[simp] theorem Workgroup.setS_epoch (w : Workgroup) (k : Nat) (x : Word) : (w.setS k x).epoch = w.epoch := rfl
@[simp] theorem Workgroup.setS_teams (w : Workgroup) (k : Nat) (x : Word) : (w.setS k x).teams = w.teams := rfl
@[simp] theorem Workgroup.setS_mflags (w : Workgroup) (k : Nat) (x : Word) : (w.setS k x).mflags = w.mflags := rfl
@[simp] theorem Workgroup.setS_acc (w : Workgroup) (k : Nat) (x : Word) : (w.setS k x).acc = w.acc := rfl
@[simp] theorem Workgroup.setS_fields (w : Workgroup) (k : Nat) (x : Word) : (w.setS k x).fields = w.fields := rfl
@[simp] theorem Workgroup.setS_phases (w : Workgroup) (k : Nat) (x : Word) : (w.setS k x).phases = w.phases := rfl
@[simp] theorem Workgroup.setS_pushes (w : Workgroup) (k : Nat) (x : Word) : (w.setS k x).pushes = w.pushes := rfl
@[simp] theorem Workgroup.setS_digest (w : Workgroup) (k : Nat) (x : Word) : (w.setS k x).digest = w.digest := rfl
@[simp] theorem Workgroup.setS_preempt (w : Workgroup) (k : Nat) (x : Word) : (w.setS k x).preempt = w.preempt := rfl
@[simp] theorem Workgroup.setS_ran (w : Workgroup) (k : Nat) (x : Word) : (w.setS k x).ran = w.ran := rfl
@[simp] theorem Workgroup.setS_placed (w : Workgroup) (k : Nat) (x : Word) : (w.setS k x).placed = w.placed := rfl
@[simp] theorem Workgroup.setS_colls (w : Workgroup) (k : Nat) (x : Word) : (w.setS k x).colls = w.colls := rfl
@[simp] theorem Workgroup.setS_images (w : Workgroup) (k : Nat) (x : Word) : (w.setS k x).images = w.images := rfl
@[simp] theorem Workgroup.setS_faulted (w : Workgroup) (k : Nat) (x : Word) : (w.setS k x).faulted = w.faulted := rfl

end Sys2Proof.Machine
end

