-- ==== Sys2Proof/Laws/Tables.lean ====
section
/-! SUPPORT. Tables and memories: what a key reads as after a write, and that writes keep the canonical form. -/
namespace Sys2Proof.Machine

variable {α : Type}

theorem Tbl.find_insert_self (m : Tbl α) (k : Nat) (a : α) : Tbl.find (Tbl.insert m k a) k = some a := by
  induction m with
  | nil => simp [Tbl.insert, Tbl.find]
  | cons e l ih => obtain ⟨j, b⟩ := e; simp only [Tbl.insert]; split_ifs <;> simp_all [Tbl.find]

theorem Tbl.find_insert_ne (m : Tbl α) {k j : Nat} (a : α) (h : j ≠ k) : Tbl.find (Tbl.insert m k a) j = Tbl.find m j := by
  induction m with
  | nil => simp [Tbl.insert, Tbl.find, h]
  | cons e l ih => obtain ⟨i, b⟩ := e; simp only [Tbl.insert]; split_ifs <;> simp_all [Tbl.find]

theorem Tbl.find_insert (m : Tbl α) (k j : Nat) (a : α) :
    Tbl.find (Tbl.insert m k a) j = if j = k then some a else Tbl.find m j := by
  split_ifs with h
  · subst h; exact Tbl.find_insert_self m j a
  · exact Tbl.find_insert_ne m a h

theorem Tbl.find_modify_self (m : Tbl α) (k : Nat) (f : α → α) : Tbl.find (Tbl.modify m k f) k = (Tbl.find m k).map f := by
  induction m with
  | nil => rfl
  | cons e l ih =>
    obtain ⟨j, b⟩ := e
    by_cases h : k = j
    · simp [Tbl.modify, Tbl.find, h]
    · have h' : ¬ j = k := fun x => h x.symm
      simpa [Tbl.modify, Tbl.find, h, h'] using ih

theorem Tbl.find_modify_ne (m : Tbl α) {k j : Nat} (f : α → α) (h : j ≠ k) : Tbl.find (Tbl.modify m k f) j = Tbl.find m j := by
  induction m with
  | nil => rfl
  | cons e l ih =>
    obtain ⟨i, b⟩ := e
    by_cases hi : i = k
    · have hj : ¬ j = i := fun x => h (x.trans hi)
      simpa [Tbl.modify, Tbl.find, hi, h, hj] using ih
    · by_cases hj : j = i
      · simp [Tbl.modify, Tbl.find, hj, hi]
      · simpa [Tbl.modify, Tbl.find, hi, hj] using ih

theorem Tbl.find_filter_key (m : Tbl α) (p : Nat → Bool) (j : Nat) :
    Tbl.find (m.filter (fun e => p e.1)) j = if p j then Tbl.find m j else none := by
  induction m with
  | nil => simp [Tbl.find]
  | cons e l ih =>
    obtain ⟨i, b⟩ := e
    by_cases hi : p i = true <;> by_cases hj : j = i <;> simp_all [Tbl.find]

theorem Tbl.find_erase (m : Tbl α) (k j : Nat) : Tbl.find (Tbl.erase m k) j = if j = k then none else Tbl.find m j := by
  have h := Tbl.find_filter_key m (fun i => i != k) j
  by_cases hj : j = k <;> simp_all [Tbl.erase]

/-! Canonical form -/

theorem Tbl.rising_mono {lo lo' : Nat} {m : Tbl α} (h : lo' ≤ lo) (r : Tbl.risingFrom lo m = true) : Tbl.risingFrom lo' m = true := by
  cases m with
  | nil => rfl
  | cons e l => obtain ⟨j, b⟩ := e; simp only [Tbl.risingFrom, Bool.and_eq_true, decide_eq_true_eq] at *; exact ⟨by omega, r.2⟩

theorem Tbl.rising_insert {lo : Nat} {m : Tbl α} {k : Nat} (a : α) (hk : lo ≤ k) (r : Tbl.risingFrom lo m = true) :
    Tbl.risingFrom lo (Tbl.insert m k a) = true := by
  induction m generalizing lo with
  | nil => simp [Tbl.insert, Tbl.risingFrom, hk]
  | cons e l ih =>
    obtain ⟨j, b⟩ := e
    simp only [Tbl.risingFrom, Bool.and_eq_true, decide_eq_true_eq] at r
    simp only [Tbl.insert]
    split_ifs with h1 h2
    · simp only [Tbl.risingFrom, Bool.and_eq_true, decide_eq_true_eq]; exact ⟨hk, by omega, r.2⟩
    · subst h2; simp only [Tbl.risingFrom, Bool.and_eq_true, decide_eq_true_eq]; exact ⟨hk, r.2⟩
    · simp only [Tbl.risingFrom, Bool.and_eq_true, decide_eq_true_eq]; exact ⟨r.1, ih (by omega) r.2⟩

theorem Tbl.rising_filter {lo : Nat} {m : Tbl α} (p : Nat × α → Bool) (r : Tbl.risingFrom lo m = true) :
    Tbl.risingFrom lo (m.filter p) = true := by
  induction m generalizing lo with
  | nil => rfl
  | cons e l ih =>
    obtain ⟨j, b⟩ := e
    simp only [Tbl.risingFrom, Bool.and_eq_true, decide_eq_true_eq] at r
    by_cases h : p (j, b) = true
    · simp only [List.filter_cons_of_pos h, Tbl.risingFrom, Bool.and_eq_true, decide_eq_true_eq]; exact ⟨r.1, ih r.2⟩
    · simp only [List.filter_cons_of_neg h]; exact Tbl.rising_mono (by omega) (ih r.2)

theorem Tbl.mem_insert {m : Tbl α} {k : Nat} {a : α} {e : Nat × α} (h : e ∈ Tbl.insert m k a) : e = (k, a) ∨ e ∈ m := by
  induction m with
  | nil => simpa [Tbl.insert] using h
  | cons x l ih =>
    obtain ⟨j, b⟩ := x
    simp only [Tbl.insert] at h
    split_ifs at h <;> simp_all [List.mem_cons]
    all_goals tauto

theorem Tbl.wf_insert [DecidableEq α] {d : α} {m : Tbl α} {k : Nat} {a : α} (ha : a ≠ d) (h : Tbl.wf d m = true) :
    Tbl.wf d (Tbl.insert m k a) = true := by
  simp only [Tbl.wf, Bool.and_eq_true, List.all_eq_true, decide_eq_true_eq] at *
  refine ⟨Tbl.rising_insert a (Nat.zero_le k) h.1, fun e he => ?_⟩
  rcases Tbl.mem_insert he with rfl | he
  · exact ha
  · exact h.2 e he

theorem Tbl.wf_filter [DecidableEq α] {d : α} {m : Tbl α} (p : Nat × α → Bool) (h : Tbl.wf d m = true) : Tbl.wf d (m.filter p) = true := by
  simp only [Tbl.wf, Bool.and_eq_true, List.all_eq_true, decide_eq_true_eq] at *
  exact ⟨Tbl.rising_filter p h.1, fun e he => h.2 e (List.mem_of_mem_filter he)⟩

theorem Tbl.wf_put [DecidableEq α] {d : α} {m : Tbl α} (k : Nat) (a : α) (h : Tbl.wf d m = true) : Tbl.wf d (Tbl.put d m k a) = true := by
  unfold Tbl.put
  split_ifs with ha
  · exact Tbl.wf_filter _ h
  · exact Tbl.wf_insert ha h

theorem Tbl.get_put [DecidableEq α] (d : α) (m : Tbl α) (k j : Nat) (a : α) :
    Tbl.get d (Tbl.put d m k a) j = if j = k then a else Tbl.get d m j := by
  unfold Tbl.put Tbl.get
  split_ifs with ha hj hj
  · subst hj ha; simp [Tbl.find_erase]
  · simp [Tbl.find_erase, hj]
  · subst hj; simp [Tbl.find_insert_self]
  · simp [Tbl.find_insert_ne m a hj]

/-! Memories -/

theorem Memory.wf_write {m : Memory} (a : Nat) (b : Byte) (h : Memory.wf m = true) : Memory.wf (Memory.write m a b) = true :=
  Tbl.wf_put a b h

theorem Memory.wf_writeN {m : Memory} (a : Nat) (bs : List Byte) (h : Memory.wf m = true) : Memory.wf (Memory.writeN m a bs) = true := by
  induction bs generalizing m a with
  | nil => exact h
  | cons b l ih => exact ih (a + 1) (Memory.wf_write a b h)

theorem Memory.wf_filter {m : Memory} (p : Nat × Byte → Bool) (h : Memory.wf m = true) : Memory.wf (m.filter p) = true := Tbl.wf_filter p h

theorem Memory.read_write (m : Memory) (a j : Nat) (b : Byte) :
    Memory.read (Memory.write m a b) j = if j = a then b else Memory.read m j := Tbl.get_put 0 m a j b

theorem Memory.read_writeN (m : Memory) (a j : Nat) (bs : List Byte) :
    Memory.read (Memory.writeN m a bs) j = if a ≤ j ∧ j < a + bs.length then bs.getD (j - a) 0 else Memory.read m j := by
  induction bs generalizing m a with
  | nil =>
    have h : ¬ (a ≤ j ∧ j < a) := by omega
    simp [Memory.writeN, h]
  | cons b l ih =>
    simp only [Memory.writeN, ih, Memory.read_write, List.length_cons]
    by_cases h1 : a + 1 ≤ j ∧ j < a + 1 + l.length
    · have h2 : a ≤ j ∧ j < a + (l.length + 1) := by omega
      have h3 : j - a = (j - (a + 1)) + 1 := by omega
      simp [h1, h2, h3]
    · by_cases h4 : j = a
      · subst h4; simp
      · have h5 : ¬ (a ≤ j ∧ j < a + (l.length + 1)) := by omega
        rw [if_neg h1, if_neg h4, if_neg h5]

end Sys2Proof.Machine
end

