-- ==== Sys2Proof/Laws/Issue.lean ====
section
/-! SUPPORT. Looking threads and workgroups up after updates, the end of an issue, and the execution of a word that
changes only its own threads. -/
namespace Sys2Proof.Machine

/-! Looking up after an update -/

theorem State.thread_onThread_self (s : State) (r : ThreadRef) (f : Thread → Thread) :
    (s.onThread r f).thread r = (s.thread r).map (Thread.kept f) := Tbl.find_modify_self _ _ _

theorem State.thread_onThread_ne (s : State) {r q : ThreadRef} (f : Thread → Thread) (h : refKey q ≠ refKey r) :
    (s.onThread r f).thread q = s.thread q := Tbl.find_modify_ne _ _ h

@[simp] theorem State.thread_onWg (s : State) (g : Nat) (f : Workgroup → Workgroup) (r : ThreadRef) :
    (s.onWg g f).thread r = s.thread r := rfl
@[simp] theorem State.thread_onCore (s : State) (c : Nat) (f : CoreSt → CoreSt) (r : ThreadRef) :
    (s.onCore c f).thread r = s.thread r := rfl
@[simp] theorem State.wg_onThread (s : State) (r : ThreadRef) (f : Thread → Thread) (g : Nat) : (s.onThread r f).wg g = s.wg g := rfl
@[simp] theorem State.wgOf_onThread (s : State) (r q : ThreadRef) (f : Thread → Thread) : (s.onThread r f).wgOf q = s.wgOf q := rfl
@[simp] theorem State.core_onThread (s : State) (r : ThreadRef) (f : Thread → Thread) (c : Nat) : (s.onThread r f).core c = s.core c := rfl
@[simp] theorem State.part_onThread (s : State) (r : ThreadRef) (f : Thread → Thread) (p : Nat) : (s.onThread r f).part p = s.part p := rfl
@[simp] theorem State.launch_onThread (s : State) (r : ThreadRef) (f : Thread → Thread) (l : Nat) : (s.onThread r f).launch l = s.launch l := rfl
@[simp] theorem State.launchOf_onThread (s : State) (r : ThreadRef) (f : Thread → Thread) (w : Workgroup) :
    (s.onThread r f).launchOf w = s.launchOf w := rfl

theorem State.wg_onWg_self (s : State) (g : Nat) (f : Workgroup → Workgroup) : (s.onWg g f).wg g = (s.wg g).map f :=
  Tbl.find_modify_self _ _ _
theorem State.wg_onWg_ne (s : State) {g h : Nat} (f : Workgroup → Workgroup) (e : h ≠ g) : (s.onWg g f).wg h = s.wg h :=
  Tbl.find_modify_ne _ _ e
theorem State.core_onCore_self (s : State) (c : Nat) (f : CoreSt → CoreSt) : (s.onCore c f).core c = f (s.core c) := by
  simp [State.core, State.onCore, Tbl.get, Tbl.find_insert_self]
theorem State.core_onCore_ne (s : State) {c d : Nat} (f : CoreSt → CoreSt) (h : d ≠ c) : (s.onCore c f).core d = s.core d := by
  simp [State.core, State.onCore, Tbl.get, Tbl.find_insert_ne _ _ h]
theorem State.part_onPart_self (s : State) (p : Nat) (f : Partition → Partition) : (s.onPart p f).part p = f (s.part p) := by
  simp [State.part, State.onPart, Tbl.get, Tbl.find_insert_self]
theorem State.part_onPart_ne (s : State) {p q : Nat} (f : Partition → Partition) (h : q ≠ p) : (s.onPart p f).part q = s.part q := by
  simp [State.part, State.onPart, Tbl.get, Tbl.find_insert_ne _ _ h]

/-- A change that keeps the reference is not altered by `kept`. -/
theorem Thread.kept_eq {f : Thread → Thread} {t : Thread} (h : (f t).ref = t.ref) : Thread.kept f t = f t := by
  unfold Thread.kept; rw [← h]

/-! Registers -/

theorem Thread.getV_setV_self (t : Thread) (k : Nat) (x : Word) : (t.setV k x).getV k = x := by
  simp [Thread.getV, Thread.setV, Tbl.get_put]
theorem Thread.getV_setV_ne (t : Thread) {k j : Nat} (x : Word) (h : j ≠ k) : (t.setV k x).getV j = t.getV j := by
  simp [Thread.getV, Thread.setV, Tbl.get_put, h]
@[simp] theorem Thread.getV_advance (t : Thread) (k : Nat) : t.advance.getV k = t.getV k := by simp [Thread.getV]
@[simp] theorem Thread.getP_advance (t : Thread) (k : PReg) : t.advance.getP k = t.getP k := by simp [Thread.getP]
theorem Workgroup.getS_setS_self (w : Workgroup) (k : Nat) (x : Word) : (w.setS k x).getS k = x := by
  simp [Workgroup.getS, Workgroup.setS, Tbl.get_put]
theorem Workgroup.getS_setS_ne (w : Workgroup) {k j : Nat} (x : Word) (h : j ≠ k) : (w.setS k x).getS j = w.getS j := by
  simp [Workgroup.getS, Workgroup.setS, Tbl.get_put, h]

/-! The end of an issue -/

theorem State.settleTraps_quiet {s : State} (h : s.traps = []) : s.settleTraps = s := by
  simp [State.settleTraps, State.deliverRounds, h]
theorem State.finish_quiet {s : State} (h : s.traps = []) : s.finish = { s with issue := none } := by
  rw [State.finish, State.settleTraps_quiet]
  exact h
/-- The end of an issue that raised no trap. -/
theorem State.finish_over {s : State} (h : s.traps = []) : s.finish = s.over := State.finish_quiet h
theorem State.deliverRounds_traps (n : Nat) (s : State) : (State.deliverRounds n s).traps = [] := by
  induction n generalizing s with
  | zero => rfl
  | succ n ih =>
    simp only [State.deliverRounds]
    split_ifs with h
    · simpa using h
    · exact ih _
/-- No trap is pending once traps have been taken. -/
theorem State.settleTraps_traps (s : State) : s.settleTraps.traps = [] := State.deliverRounds_traps _ _

/-! Words of one thread -/

theorem State.Runs.fate {s : State} {i : Instr} {t : Thread} {w : Workgroup} (h : s.Runs i t w) : s.fate t w i = .run := by
  simp [State.fate, h.checked, h.applies, h.free]

/-- A word that is not blocked finds room in its tag (R35). -/
theorem State.tagFull_of_free {s : State} {t : Thread} {w : Workgroup} {i : Instr} (h : s.blocked t w i = false) : s.tagFull w i = false := by
  simp only [State.blocked, Bool.or_eq_false_iff] at h
  exact h.1.1.1.2
/-- A change of another thread does not change what a thread does at a word that reads no memory at issue. -/
theorem State.fate_onThread (s : State) (r : ThreadRef) (f : Thread → Thread) (t : Thread) (w : Workgroup) (i : Instr)
    (h : blockOf i = none) (hg : isBind i = false) : (s.onThread r f).fate t w i = s.fate t w i := by
  simp only [State.fate, State.checkDetail, State.tagBad, State.launchOf_onThread, State.blocked, State.bindBusy, hg, h, State.tagFull]
  rfl

/-- Executing a word in each thread of a group in turn, where each changes itself only. -/
theorem State.lanes_become (i : Instr) (f : Thread → Workgroup → Thread) (hb : blockOf i = none)
    (hg : isBind i = false) (hf : ∀ t w, (f t w).ref = t.ref) (ts : List Thread) (s : State) (res : ∀ t ∈ ts, s.thread t.ref = some t)
    (dis : (ts.map (fun t => refKey t.ref)).Nodup) (run : ∀ t ∈ ts, ∃ w, s.wgOf t.ref = some w ∧ s.fate t w i = .run) :
    ∃ n, s.lanes (ts.map (·.ref)) (lane i (fun t w s => s.onThread t.ref (fun _ => (f t w).advance))) = n
      ∧ (∀ t ∈ ts, ∃ w, s.wgOf t.ref = some w ∧ n.thread t.ref = some (f t w).advance)
      ∧ (∀ r, (∀ t ∈ ts, refKey t.ref ≠ refKey r) → n.thread r = s.thread r)
      ∧ n = { s with threads := n.threads } := by
  induction ts generalizing s with
  | nil => exact ⟨s, rfl, by simp, by simp, rfl⟩
  | cons t ts ih =>
    obtain ⟨w, hw, hr⟩ := run t (by simp)
    have ht := res t (by simp)
    simp only [List.map_cons, List.nodup_cons, List.mem_map, not_exists, not_and] at dis
    have ne : ∀ u ∈ ts, refKey u.ref ≠ refKey t.ref := fun u hu => dis.1 u hu
    obtain ⟨n, hn, h1, h2, h3⟩ := ih (s.onThread t.ref (fun _ => (f t w).advance))
      (fun u hu => by rw [State.thread_onThread_ne _ _ (ne u hu)]; exact res u (by simp [hu])) dis.2
      (fun u hu => by
        obtain ⟨x, hx, hy⟩ := run u (by simp [hu])
        exact ⟨x, hx, by rw [State.fate_onThread _ _ _ _ _ _ hb hg]; exact hy⟩)
    have self : (s.onThread t.ref (fun _ => (f t w).advance)).thread t.ref = some (f t w).advance := by
      rw [State.thread_onThread_self, ht, Option.map_some, Thread.kept_eq (by simp [hf])]
    refine ⟨n, ?_, ?_, ?_, ?_⟩
    · simp only [State.lanes, List.map_cons, List.foldl_cons, ht, hw, lane, hr] at hn ⊢
      exact hn
    · intro u hu
      rcases List.mem_cons.1 hu with rfl | hu
      · exact ⟨w, hw, by rw [h2 _ (fun v hv => ne v hv), self]⟩
      · exact h1 u hu
    · intro r hr
      rw [h2 r (fun u hu => hr u (by simp [hu])), State.thread_onThread_ne _ _ (fun e => hr t (by simp) e.symm)]
    · rw [h3]; rfl

/-- A word that changes only its own thread, executed by an issue group: its threads become `f t w` and go on. -/
theorem issueThread_become {s : State} {ts : List Thread} {i : Instr} {f : Thread → Workgroup → Thread} (hs : s.Issues ts)
    (hb : blockOf i = none) (hg : isBind i = false) (hf : ∀ t w, (f t w).ref = t.ref) (run : ∀ t ∈ ts, ∃ w, s.Runs i t w) :
    ∃ n, issueThread i f s = .next n ∧ (∀ t ∈ ts, ∃ w, s.wgOf t.ref = some w ∧ n.thread t.ref = some (f t w).advance)
      ∧ (∀ r, (∀ t ∈ ts, refKey t.ref ≠ refKey r) → n.thread r = s.thread r) ∧ n = { s with threads := n.threads, issue := none } := by
  obtain ⟨c, q, pc, hi⟩ := hs.group
  obtain ⟨n, hn, h1, h2, h3⟩ := State.lanes_become i f hb hg hf ts s hs.resident hs.distinct
    (fun t ht => by obtain ⟨w, hw⟩ := run t ht; exact ⟨w, hw.workgroup, hw.fate⟩)
  refine ⟨{ n with issue := none }, ?_, h1, h2, by rw [h3]⟩
  have hq : n.traps = [] := by rw [h3]; exact hs.settled
  simp only [issueThread, issueLanes, issueWith, hi]
  rw [hn, State.finish_quiet hq]

/-- The same where the change does not depend on the workgroup. -/
theorem issueThread_threadsBecome {s : State} {ts : List Thread} {i : Instr} {f : Thread → Thread} (hs : s.Issues ts)
    (hb : blockOf i = none) (hg : isBind i = false) (hf : ∀ t, (f t).ref = t.ref) (run : ∀ t ∈ ts, ∃ w, s.Runs i t w) :
    ∃ n, issueThread i (fun t _ => f t) s = .next n ∧ s.ThreadsBecome n ts (fun t => (f t).advance) := by
  obtain ⟨n, hn, h1, h2, h3⟩ := issueThread_become (f := fun t _ => f t) hs hb hg (fun t _ => hf t) run
  exact ⟨n, hn, fun t ht => by obtain ⟨_, _, h⟩ := h1 t ht; exact h, h2, h3⟩

/-! One executing thread -/

theorem issueWith_one {s : State} {t : Thread} {w : Workgroup} {i : Instr} {f : Thread → Workgroup → State → State}
    {e : Nat → Nat → Nat → State → State} (hs : s.Issues [t]) (run : s.Runs i t w) :
    issueWith i f e s = .next (f t w s).finish := by
  obtain ⟨c, q, pc, hg⟩ := hs.group
  simp [issueWith, hg, State.lanes, hs.resident t (by simp), run.workgroup, lane, run.fate]

/-- A word that one thread executes. -/
theorem issueLanes_one {s : State} {t : Thread} {w : Workgroup} {i : Instr} {f : Thread → Workgroup → State → State}
    (hs : s.Issues [t]) (run : s.Runs i t w) : issueLanes i f s = .next (f t w s).finish := issueWith_one hs run

/-! Elected words -/

theorem State.gatherRun_all {s : State} {i : Instr} {ts : List Thread} (res : ∀ t ∈ ts, s.thread t.ref = some t)
    (run : ∀ t ∈ ts, ∃ w, s.Runs i t w) : s.gatherRun i (ts.map (·.ref)) = (ts.map (·.ref), s) := by
  suffices h : ∀ l : List ThreadRef, (ts.map (·.ref)).foldl (gatherOne i) (l, s) = (l ++ ts.map (·.ref), s) by
    simpa [State.gatherRun] using h []
  induction ts with
  | nil => simp
  | cons t ts ih =>
    intro l
    obtain ⟨w, hw⟩ := run t (by simp)
    simp only [List.map_cons, List.foldl_cons, gatherOne, res t (by simp), hw.workgroup, hw.fate]
    rw [ih (fun u hu => res u (by simp [hu])) (fun u hu => run u (by simp [hu]))]
    simp

/-- References of one workgroup form one entry. -/
theorem byWg_one {g : Nat} {l : List ThreadRef} (hne : l ≠ []) (h : ∀ r ∈ l, r.wg = g) : byWg l = [(g, l)] := by
  suffices hs : ∀ (m l : List ThreadRef), (∀ r ∈ l, r.wg = g) → l.foldl (fun m r => Tbl.insert m r.wg (Tbl.get [] m r.wg ++ [r]))
      ([(g, m)] : Tbl (List ThreadRef)) = [(g, m ++ l)] by
    cases l with
    | nil => exact absurd rfl hne
    | cons r l =>
      have hr := h r (by simp)
      have := hs [r] l (fun q hq => h q (by simp [hq]))
      simpa [byWg, Tbl.insert, Tbl.get, Tbl.find, hr] using this
  intro m l
  induction l generalizing m with
  | nil => simp
  | cons r l ih =>
    intro h
    have hr := h r (by simp)
    have e : Tbl.insert ([(g, m)] : Tbl (List ThreadRef)) r.wg (Tbl.get [] ([(g, m)] : Tbl (List ThreadRef)) r.wg ++ [r])
        = [(g, m ++ [r])] := by simp [hr, Tbl.get, Tbl.find, Tbl.insert]
    rw [List.foldl_cons, e, ih (m ++ [r]) (fun q hq => h q (by simp [hq]))]
    simp

/-- The leader is the reference with the lowest thread index. -/
theorem leader_lowest {r : ThreadRef} {l : List ThreadRef} (hr : r ∈ l) (h : ∀ q ∈ l, q = r ∨ r.tid < q.tid) : leader l = some r := by
  let step := fun (a : Option ThreadRef) (r : ThreadRef) => match a with
    | some b => if r.tid < b.tid then some r else some b
    | none => some r
  have keep : ∀ l : List ThreadRef, (∀ q ∈ l, q = r ∨ r.tid < q.tid) → l.foldl step (some r) = some r := by
    intro l
    induction l with
    | nil => intro _; rfl
    | cons q l ih =>
      intro h
      have e : step (some r) q = some r := by
        rcases h q (by simp) with rfl | hq
        · simp [step]
        · have : ¬ q.tid < r.tid := by omega
          simp [step, this]
      simpa [e] using ih (fun q hq => h q (by simp [hq]))
  have find : ∀ (l : List ThreadRef) (a : Option ThreadRef), r ∈ l → (∀ q ∈ l, q = r ∨ r.tid < q.tid) →
      (∀ b, a = some b → b = r ∨ r.tid < b.tid) → l.foldl step a = some r := by
    intro l
    induction l with
    | nil => intro a hm; simp at hm
    | cons q l ih =>
      intro a hm h ha
      by_cases hq : q = r
      · subst hq
        have e : step a q = some q := by
          cases a with
          | none => rfl
          | some b =>
            rcases ha b rfl with rfl | hb
            · simp [step]
            · simp [step, hb]
        simpa [e] using keep l (fun p hp => h p (by simp [hp]))
      · have hm' : r ∈ l := by
          rcases List.mem_cons.1 hm with e | e
          · exact absurd e.symm hq
          · exact e
        have hlt : r.tid < q.tid := (h q (by simp)).resolve_left hq
        refine ih (step a q) hm' (fun p hp => h p (by simp [hp])) ?_
        intro b hb
        cases a with
        | none => simp only [step, Option.some.injEq] at hb; subst hb; exact .inr hlt
        | some c =>
          simp only [step] at hb
          split_ifs at hb with hc
          · simp only [Option.some.injEq] at hb; subst hb; exact .inr hlt
          · simp only [Option.some.injEq] at hb; subst hb; exact ha c rfl
  exact find l none hr h (by simp)

/-- An elected word, executed by threads of one workgroup. -/
theorem issueGroup_elects {s : State} {ts : List Thread} {t : Thread} {w : Workgroup} {i : Instr}
    {f : Thread → Workgroup → List ThreadRef → State → State} {e : Nat → Nat → Nat → State → State} (h : s.Elects i ts t w) :
    issueGroup i f e s = .next (f t w (ts.map (·.ref)) s).finish := by
  obtain ⟨c, q, pc, hg⟩ := h.issues.group
  have ne : ts.map (·.ref) ≠ [] := by
    intro e
    have := h.elected
    simp_all
  have hl : leader (ts.map (·.ref)) = some t.ref := by
    refine leader_lowest (List.mem_map.2 ⟨t, h.elected, rfl⟩) ?_
    intro r hr
    obtain ⟨u, hu, rfl⟩ := List.mem_map.1 hr
    by_cases e : u = t
    · exact .inl (by rw [e])
    · exact .inr (h.lowest u hu e)
  have hb : byWg (ts.map (·.ref)) = [(t.ref.wg, ts.map (·.ref))] := byWg_one ne (by
    intro r hr
    obtain ⟨u, hu, rfl⟩ := List.mem_map.1 hr
    exact h.one u hu)
  simp only [issueGroup, hg, State.gatherRun_all h.issues.resident (fun u hu => ⟨w, h.runs u hu⟩)]
  simp [State.elected, hb, hl, h.issues.resident t h.elected, (h.runs t h.elected).workgroup, State.inTurn,
    State.tagFull_of_free (h.runs t h.elected).free]

theorem issueElected_elects {s : State} {ts : List Thread} {t : Thread} {w : Workgroup} {i : Instr}
    {f : Thread → Workgroup → List ThreadRef → State → State} (h : s.Elects i ts t w) :
    issueElected i f s = .next (f t w (ts.map (·.ref)) s).finish := issueGroup_elects h

end Sys2Proof.Machine
end

