-- ==== Sys2Proof/Laws/Layouts.lean ====
section
/-! SUPPORT. The fields of a word laid out by a layout of R89, and those of a concatenation. -/
set_option Elab.async false
namespace Sys2Proof

theorem field_append_high {m n : Nat} (a : BitVec m) (b : BitVec n) (lo len : Nat) (h : n ≤ lo) :
    (a ++ b).extractLsb' lo len = a.extractLsb' (lo - n) len := by
  apply BitVec.eq_of_getLsbD_eq
  intro i hi
  have e : lo + i - n = lo - n + i := by omega
  simp [BitVec.getLsbD_append, show ¬ (lo + i < n) by omega, e]
theorem field_append_low {m n : Nat} (a : BitVec m) (b : BitVec n) (lo len : Nat) (h : lo + len ≤ n) :
    (a ++ b).extractLsb' lo len = b.extractLsb' lo len := by
  apply BitVec.eq_of_getLsbD_eq
  intro i hi
  simp [BitVec.getLsbD_append, show lo + i < n by omega]
theorem field_whole {n : Nat} (a : BitVec n) : a.extractLsb' 0 n = a := by
  apply BitVec.eq_of_getLsbD_eq
  intro i hi
  simp

theorem layR_fn (m : BitVec 6) (vd va vb : BitVec 7) (fn : BitVec 5) :
    fieldOf (layR m vd va vb fn) 4 0 = fn := by
  unfold layR fieldOf
  rw [field_append_low _ _ _ _ (by decide)]
  exact field_whole _
theorem layR_vb (m : BitVec 6) (vd va vb : BitVec 7) (fn : BitVec 5) :
    fieldOf (layR m vd va vb fn) 11 5 = vb := by
  unfold layR fieldOf
  rw [field_append_high _ _ _ _ (by decide), field_append_low _ _ _ _ (by decide)]
  exact field_whole _
theorem layR_va (m : BitVec 6) (vd va vb : BitVec 7) (fn : BitVec 5) :
    fieldOf (layR m vd va vb fn) 18 12 = va := by
  unfold layR fieldOf
  rw [field_append_high _ _ _ _ (by decide), field_append_high _ _ _ _ (by decide), field_append_low _ _ _ _ (by decide)]
  exact field_whole _
theorem layR_vd (m : BitVec 6) (vd va vb : BitVec 7) (fn : BitVec 5) :
    fieldOf (layR m vd va vb fn) 25 19 = vd := by
  unfold layR fieldOf
  rw [field_append_high _ _ _ _ (by decide), field_append_high _ _ _ _ (by decide), field_append_high _ _ _ _ (by decide), field_append_low _ _ _ _ (by decide)]
  exact field_whole _
theorem layR_major (m : BitVec 6) (vd va vb : BitVec 7) (fn : BitVec 5) :
    fieldOf (layR m vd va vb fn) 31 26 = m := by
  unfold layR fieldOf
  rw [field_append_high _ _ _ _ (by decide), field_append_high _ _ _ _ (by decide), field_append_high _ _ _ _ (by decide), field_append_high _ _ _ _ (by decide)]
  exact field_whole _
theorem layI_imm (m : BitVec 6) (vd va : BitVec 7) (imm : BitVec 12) :
    fieldOf (layI m vd va imm) 11 0 = imm := by
  unfold layI fieldOf
  rw [field_append_low _ _ _ _ (by decide)]
  exact field_whole _
theorem layI_va (m : BitVec 6) (vd va : BitVec 7) (imm : BitVec 12) :
    fieldOf (layI m vd va imm) 18 12 = va := by
  unfold layI fieldOf
  rw [field_append_high _ _ _ _ (by decide), field_append_low _ _ _ _ (by decide)]
  exact field_whole _
theorem layI_vd (m : BitVec 6) (vd va : BitVec 7) (imm : BitVec 12) :
    fieldOf (layI m vd va imm) 25 19 = vd := by
  unfold layI fieldOf
  rw [field_append_high _ _ _ _ (by decide), field_append_high _ _ _ _ (by decide), field_append_low _ _ _ _ (by decide)]
  exact field_whole _
theorem layI_major (m : BitVec 6) (vd va : BitVec 7) (imm : BitVec 12) :
    fieldOf (layI m vd va imm) 31 26 = m := by
  unfold layI fieldOf
  rw [field_append_high _ _ _ _ (by decide), field_append_high _ _ _ _ (by decide), field_append_high _ _ _ _ (by decide)]
  exact field_whole _
theorem layU_imm (m : BitVec 6) (vd : BitVec 7) (imm : BitVec 19) :
    fieldOf (layU m vd imm) 18 0 = imm := by
  unfold layU fieldOf
  rw [field_append_low _ _ _ _ (by decide)]
  exact field_whole _
theorem layU_vd (m : BitVec 6) (vd : BitVec 7) (imm : BitVec 19) :
    fieldOf (layU m vd imm) 25 19 = vd := by
  unfold layU fieldOf
  rw [field_append_high _ _ _ _ (by decide), field_append_low _ _ _ _ (by decide)]
  exact field_whole _
theorem layU_major (m : BitVec 6) (vd : BitVec 7) (imm : BitVec 19) :
    fieldOf (layU m vd imm) 31 26 = m := by
  unfold layU fieldOf
  rw [field_append_high _ _ _ _ (by decide), field_append_high _ _ _ _ (by decide)]
  exact field_whole _
theorem layM_imm (m : BitVec 6) (vd vo : BitVec 7) (sb : BitVec 5) (sz : BitVec 3) (imm : BitVec 4) :
    fieldOf (layM m vd vo sb sz imm) 3 0 = imm := by
  unfold layM fieldOf
  rw [field_append_low _ _ _ _ (by decide)]
  exact field_whole _
theorem layM_sz (m : BitVec 6) (vd vo : BitVec 7) (sb : BitVec 5) (sz : BitVec 3) (imm : BitVec 4) :
    fieldOf (layM m vd vo sb sz imm) 6 4 = sz := by
  unfold layM fieldOf
  rw [field_append_high _ _ _ _ (by decide), field_append_low _ _ _ _ (by decide)]
  exact field_whole _
theorem layM_sb (m : BitVec 6) (vd vo : BitVec 7) (sb : BitVec 5) (sz : BitVec 3) (imm : BitVec 4) :
    fieldOf (layM m vd vo sb sz imm) 11 7 = sb := by
  unfold layM fieldOf
  rw [field_append_high _ _ _ _ (by decide), field_append_high _ _ _ _ (by decide), field_append_low _ _ _ _ (by decide)]
  exact field_whole _
theorem layM_vo (m : BitVec 6) (vd vo : BitVec 7) (sb : BitVec 5) (sz : BitVec 3) (imm : BitVec 4) :
    fieldOf (layM m vd vo sb sz imm) 18 12 = vo := by
  unfold layM fieldOf
  rw [field_append_high _ _ _ _ (by decide), field_append_high _ _ _ _ (by decide), field_append_high _ _ _ _ (by decide), field_append_low _ _ _ _ (by decide)]
  exact field_whole _
theorem layM_vd (m : BitVec 6) (vd vo : BitVec 7) (sb : BitVec 5) (sz : BitVec 3) (imm : BitVec 4) :
    fieldOf (layM m vd vo sb sz imm) 25 19 = vd := by
  unfold layM fieldOf
  rw [field_append_high _ _ _ _ (by decide), field_append_high _ _ _ _ (by decide), field_append_high _ _ _ _ (by decide), field_append_high _ _ _ _ (by decide), field_append_low _ _ _ _ (by decide)]
  exact field_whole _
theorem layM_major (m : BitVec 6) (vd vo : BitVec 7) (sb : BitVec 5) (sz : BitVec 3) (imm : BitVec 4) :
    fieldOf (layM m vd vo sb sz imm) 31 26 = m := by
  unfold layM fieldOf
  rw [field_append_high _ _ _ _ (by decide), field_append_high _ _ _ _ (by decide), field_append_high _ _ _ _ (by decide), field_append_high _ _ _ _ (by decide), field_append_high _ _ _ _ (by decide)]
  exact field_whole _
theorem layP_fn (m : BitVec 6) (pd : BitVec 3) (cond : BitVec 4) (va vb : BitVec 7) (fn : BitVec 5) :
    fieldOf (layP m pd cond va vb fn) 4 0 = fn := by
  unfold layP fieldOf
  rw [field_append_low _ _ _ _ (by decide)]
  exact field_whole _
theorem layP_vb (m : BitVec 6) (pd : BitVec 3) (cond : BitVec 4) (va vb : BitVec 7) (fn : BitVec 5) :
    fieldOf (layP m pd cond va vb fn) 11 5 = vb := by
  unfold layP fieldOf
  rw [field_append_high _ _ _ _ (by decide), field_append_low _ _ _ _ (by decide)]
  exact field_whole _
theorem layP_va (m : BitVec 6) (pd : BitVec 3) (cond : BitVec 4) (va vb : BitVec 7) (fn : BitVec 5) :
    fieldOf (layP m pd cond va vb fn) 18 12 = va := by
  unfold layP fieldOf
  rw [field_append_high _ _ _ _ (by decide), field_append_high _ _ _ _ (by decide), field_append_low _ _ _ _ (by decide)]
  exact field_whole _
theorem layP_cond (m : BitVec 6) (pd : BitVec 3) (cond : BitVec 4) (va vb : BitVec 7) (fn : BitVec 5) :
    fieldOf (layP m pd cond va vb fn) 22 19 = cond := by
  unfold layP fieldOf
  rw [field_append_high _ _ _ _ (by decide), field_append_high _ _ _ _ (by decide), field_append_high _ _ _ _ (by decide), field_append_low _ _ _ _ (by decide)]
  exact field_whole _
theorem layP_pd (m : BitVec 6) (pd : BitVec 3) (cond : BitVec 4) (va vb : BitVec 7) (fn : BitVec 5) :
    fieldOf (layP m pd cond va vb fn) 25 23 = pd := by
  unfold layP fieldOf
  rw [field_append_high _ _ _ _ (by decide), field_append_high _ _ _ _ (by decide), field_append_high _ _ _ _ (by decide), field_append_high _ _ _ _ (by decide), field_append_low _ _ _ _ (by decide)]
  exact field_whole _
theorem layP_major (m : BitVec 6) (pd : BitVec 3) (cond : BitVec 4) (va vb : BitVec 7) (fn : BitVec 5) :
    fieldOf (layP m pd cond va vb fn) 31 26 = m := by
  unfold layP fieldOf
  rw [field_append_high _ _ _ _ (by decide), field_append_high _ _ _ _ (by decide), field_append_high _ _ _ _ (by decide), field_append_high _ _ _ _ (by decide), field_append_high _ _ _ _ (by decide)]
  exact field_whole _
theorem layB_off (m : BitVec 6) (ps : BitVec 3) (neg : BitVec 1) (kind : BitVec 2) (off : BitVec 20) :
    fieldOf (layB m ps neg kind off) 19 0 = off := by
  unfold layB fieldOf
  rw [field_append_low _ _ _ _ (by decide)]
  exact field_whole _
theorem layB_kind (m : BitVec 6) (ps : BitVec 3) (neg : BitVec 1) (kind : BitVec 2) (off : BitVec 20) :
    fieldOf (layB m ps neg kind off) 21 20 = kind := by
  unfold layB fieldOf
  rw [field_append_high _ _ _ _ (by decide), field_append_low _ _ _ _ (by decide)]
  exact field_whole _
theorem layB_neg (m : BitVec 6) (ps : BitVec 3) (neg : BitVec 1) (kind : BitVec 2) (off : BitVec 20) :
    fieldOf (layB m ps neg kind off) 22 22 = neg := by
  unfold layB fieldOf
  rw [field_append_high _ _ _ _ (by decide), field_append_high _ _ _ _ (by decide), field_append_low _ _ _ _ (by decide)]
  exact field_whole _
theorem layB_ps (m : BitVec 6) (ps : BitVec 3) (neg : BitVec 1) (kind : BitVec 2) (off : BitVec 20) :
    fieldOf (layB m ps neg kind off) 25 23 = ps := by
  unfold layB fieldOf
  rw [field_append_high _ _ _ _ (by decide), field_append_high _ _ _ _ (by decide), field_append_high _ _ _ _ (by decide), field_append_low _ _ _ _ (by decide)]
  exact field_whole _
theorem layB_major (m : BitVec 6) (ps : BitVec 3) (neg : BitVec 1) (kind : BitVec 2) (off : BitVec 20) :
    fieldOf (layB m ps neg kind off) 31 26 = m := by
  unfold layB fieldOf
  rw [field_append_high _ _ _ _ (by decide), field_append_high _ _ _ _ (by decide), field_append_high _ _ _ _ (by decide), field_append_high _ _ _ _ (by decide)]
  exact field_whole _
theorem layV_z (m : BitVec 6) (vd va : BitVec 7) (dfmt sfmt : BitVec 5) (z : BitVec 2) :
    fieldOf (layV m vd va dfmt sfmt z) 1 0 = z := by
  unfold layV fieldOf
  rw [field_append_low _ _ _ _ (by decide)]
  exact field_whole _
theorem layV_sfmt (m : BitVec 6) (vd va : BitVec 7) (dfmt sfmt : BitVec 5) (z : BitVec 2) :
    fieldOf (layV m vd va dfmt sfmt z) 6 2 = sfmt := by
  unfold layV fieldOf
  rw [field_append_high _ _ _ _ (by decide), field_append_low _ _ _ _ (by decide)]
  exact field_whole _
theorem layV_dfmt (m : BitVec 6) (vd va : BitVec 7) (dfmt sfmt : BitVec 5) (z : BitVec 2) :
    fieldOf (layV m vd va dfmt sfmt z) 11 7 = dfmt := by
  unfold layV fieldOf
  rw [field_append_high _ _ _ _ (by decide), field_append_high _ _ _ _ (by decide), field_append_low _ _ _ _ (by decide)]
  exact field_whole _
theorem layV_va (m : BitVec 6) (vd va : BitVec 7) (dfmt sfmt : BitVec 5) (z : BitVec 2) :
    fieldOf (layV m vd va dfmt sfmt z) 18 12 = va := by
  unfold layV fieldOf
  rw [field_append_high _ _ _ _ (by decide), field_append_high _ _ _ _ (by decide), field_append_high _ _ _ _ (by decide), field_append_low _ _ _ _ (by decide)]
  exact field_whole _
theorem layV_vd (m : BitVec 6) (vd va : BitVec 7) (dfmt sfmt : BitVec 5) (z : BitVec 2) :
    fieldOf (layV m vd va dfmt sfmt z) 25 19 = vd := by
  unfold layV fieldOf
  rw [field_append_high _ _ _ _ (by decide), field_append_high _ _ _ _ (by decide), field_append_high _ _ _ _ (by decide), field_append_high _ _ _ _ (by decide), field_append_low _ _ _ _ (by decide)]
  exact field_whole _
theorem layV_major (m : BitVec 6) (vd va : BitVec 7) (dfmt sfmt : BitVec 5) (z : BitVec 2) :
    fieldOf (layV m vd va dfmt sfmt z) 31 26 = m := by
  unfold layV fieldOf
  rw [field_append_high _ _ _ _ (by decide), field_append_high _ _ _ _ (by decide), field_append_high _ _ _ _ (by decide), field_append_high _ _ _ _ (by decide), field_append_high _ _ _ _ (by decide)]
  exact field_whole _
theorem layW_z (m : BitVec 6) (nld nst : BitVec 6) (ncp ntl : BitVec 4) (z : BitVec 6) :
    fieldOf (layW m nld nst ncp ntl z) 5 0 = z := by
  unfold layW fieldOf
  rw [field_append_low _ _ _ _ (by decide)]
  exact field_whole _
theorem layW_ntl (m : BitVec 6) (nld nst : BitVec 6) (ncp ntl : BitVec 4) (z : BitVec 6) :
    fieldOf (layW m nld nst ncp ntl z) 9 6 = ntl := by
  unfold layW fieldOf
  rw [field_append_high _ _ _ _ (by decide), field_append_low _ _ _ _ (by decide)]
  exact field_whole _
theorem layW_ncp (m : BitVec 6) (nld nst : BitVec 6) (ncp ntl : BitVec 4) (z : BitVec 6) :
    fieldOf (layW m nld nst ncp ntl z) 13 10 = ncp := by
  unfold layW fieldOf
  rw [field_append_high _ _ _ _ (by decide), field_append_high _ _ _ _ (by decide), field_append_low _ _ _ _ (by decide)]
  exact field_whole _
theorem layW_nst (m : BitVec 6) (nld nst : BitVec 6) (ncp ntl : BitVec 4) (z : BitVec 6) :
    fieldOf (layW m nld nst ncp ntl z) 19 14 = nst := by
  unfold layW fieldOf
  rw [field_append_high _ _ _ _ (by decide), field_append_high _ _ _ _ (by decide), field_append_high _ _ _ _ (by decide), field_append_low _ _ _ _ (by decide)]
  exact field_whole _
theorem layW_nld (m : BitVec 6) (nld nst : BitVec 6) (ncp ntl : BitVec 4) (z : BitVec 6) :
    fieldOf (layW m nld nst ncp ntl z) 25 20 = nld := by
  unfold layW fieldOf
  rw [field_append_high _ _ _ _ (by decide), field_append_high _ _ _ _ (by decide), field_append_high _ _ _ _ (by decide), field_append_high _ _ _ _ (by decide), field_append_low _ _ _ _ (by decide)]
  exact field_whole _
theorem layW_major (m : BitVec 6) (nld nst : BitVec 6) (ncp ntl : BitVec 4) (z : BitVec 6) :
    fieldOf (layW m nld nst ncp ntl z) 31 26 = m := by
  unfold layW fieldOf
  rw [field_append_high _ _ _ _ (by decide), field_append_high _ _ _ _ (by decide), field_append_high _ _ _ _ (by decide), field_append_high _ _ _ _ (by decide), field_append_high _ _ _ _ (by decide)]
  exact field_whole _
theorem layG_fn (m : BitVec 6) (vd va : BitVec 7) (sm : BitVec 5) (pp : BitVec 3) (fn : BitVec 4) :
    fieldOf (layG m vd va sm pp fn) 3 0 = fn := by
  unfold layG fieldOf
  rw [field_append_low _ _ _ _ (by decide)]
  exact field_whole _
theorem layG_pp (m : BitVec 6) (vd va : BitVec 7) (sm : BitVec 5) (pp : BitVec 3) (fn : BitVec 4) :
    fieldOf (layG m vd va sm pp fn) 6 4 = pp := by
  unfold layG fieldOf
  rw [field_append_high _ _ _ _ (by decide), field_append_low _ _ _ _ (by decide)]
  exact field_whole _
theorem layG_sm (m : BitVec 6) (vd va : BitVec 7) (sm : BitVec 5) (pp : BitVec 3) (fn : BitVec 4) :
    fieldOf (layG m vd va sm pp fn) 11 7 = sm := by
  unfold layG fieldOf
  rw [field_append_high _ _ _ _ (by decide), field_append_high _ _ _ _ (by decide), field_append_low _ _ _ _ (by decide)]
  exact field_whole _
theorem layG_va (m : BitVec 6) (vd va : BitVec 7) (sm : BitVec 5) (pp : BitVec 3) (fn : BitVec 4) :
    fieldOf (layG m vd va sm pp fn) 18 12 = va := by
  unfold layG fieldOf
  rw [field_append_high _ _ _ _ (by decide), field_append_high _ _ _ _ (by decide), field_append_high _ _ _ _ (by decide), field_append_low _ _ _ _ (by decide)]
  exact field_whole _
theorem layG_vd (m : BitVec 6) (vd va : BitVec 7) (sm : BitVec 5) (pp : BitVec 3) (fn : BitVec 4) :
    fieldOf (layG m vd va sm pp fn) 25 19 = vd := by
  unfold layG fieldOf
  rw [field_append_high _ _ _ _ (by decide), field_append_high _ _ _ _ (by decide), field_append_high _ _ _ _ (by decide), field_append_high _ _ _ _ (by decide), field_append_low _ _ _ _ (by decide)]
  exact field_whole _
theorem layG_major (m : BitVec 6) (vd va : BitVec 7) (sm : BitVec 5) (pp : BitVec 3) (fn : BitVec 4) :
    fieldOf (layG m vd va sm pp fn) 31 26 = m := by
  unfold layG fieldOf
  rw [field_append_high _ _ _ _ (by decide), field_append_high _ _ _ _ (by decide), field_append_high _ _ _ _ (by decide), field_append_high _ _ _ _ (by decide), field_append_high _ _ _ _ (by decide)]
  exact field_whole _
theorem layX_fn (m : BitVec 6) (hd : BitVec 4) (tag : BitVec 6) (sp : BitVec 5) (va : BitVec 7) (fn : BitVec 4) :
    fieldOf (layX m hd tag sp va fn) 3 0 = fn := by
  unfold layX fieldOf
  rw [field_append_low _ _ _ _ (by decide)]
  exact field_whole _
theorem layX_va (m : BitVec 6) (hd : BitVec 4) (tag : BitVec 6) (sp : BitVec 5) (va : BitVec 7) (fn : BitVec 4) :
    fieldOf (layX m hd tag sp va fn) 10 4 = va := by
  unfold layX fieldOf
  rw [field_append_high _ _ _ _ (by decide), field_append_low _ _ _ _ (by decide)]
  exact field_whole _
theorem layX_sp (m : BitVec 6) (hd : BitVec 4) (tag : BitVec 6) (sp : BitVec 5) (va : BitVec 7) (fn : BitVec 4) :
    fieldOf (layX m hd tag sp va fn) 15 11 = sp := by
  unfold layX fieldOf
  rw [field_append_high _ _ _ _ (by decide), field_append_high _ _ _ _ (by decide), field_append_low _ _ _ _ (by decide)]
  exact field_whole _
theorem layX_tag (m : BitVec 6) (hd : BitVec 4) (tag : BitVec 6) (sp : BitVec 5) (va : BitVec 7) (fn : BitVec 4) :
    fieldOf (layX m hd tag sp va fn) 21 16 = tag := by
  unfold layX fieldOf
  rw [field_append_high _ _ _ _ (by decide), field_append_high _ _ _ _ (by decide), field_append_high _ _ _ _ (by decide), field_append_low _ _ _ _ (by decide)]
  exact field_whole _
theorem layX_hd (m : BitVec 6) (hd : BitVec 4) (tag : BitVec 6) (sp : BitVec 5) (va : BitVec 7) (fn : BitVec 4) :
    fieldOf (layX m hd tag sp va fn) 25 22 = hd := by
  unfold layX fieldOf
  rw [field_append_high _ _ _ _ (by decide), field_append_high _ _ _ _ (by decide), field_append_high _ _ _ _ (by decide), field_append_high _ _ _ _ (by decide), field_append_low _ _ _ _ (by decide)]
  exact field_whole _
theorem layX_major (m : BitVec 6) (hd : BitVec 4) (tag : BitVec 6) (sp : BitVec 5) (va : BitVec 7) (fn : BitVec 4) :
    fieldOf (layX m hd tag sp va fn) 31 26 = m := by
  unfold layX fieldOf
  rw [field_append_high _ _ _ _ (by decide), field_append_high _ _ _ _ (by decide), field_append_high _ _ _ _ (by decide), field_append_high _ _ _ _ (by decide), field_append_high _ _ _ _ (by decide)]
  exact field_whole _
theorem layS_z (m : BitVec 6) (op : BitVec 2) (mask : BitVec 8) (z : BitVec 16) :
    fieldOf (layS m op mask z) 15 0 = z := by
  unfold layS fieldOf
  rw [field_append_low _ _ _ _ (by decide)]
  exact field_whole _
theorem layS_mask (m : BitVec 6) (op : BitVec 2) (mask : BitVec 8) (z : BitVec 16) :
    fieldOf (layS m op mask z) 23 16 = mask := by
  unfold layS fieldOf
  rw [field_append_high _ _ _ _ (by decide), field_append_low _ _ _ _ (by decide)]
  exact field_whole _
theorem layS_op (m : BitVec 6) (op : BitVec 2) (mask : BitVec 8) (z : BitVec 16) :
    fieldOf (layS m op mask z) 25 24 = op := by
  unfold layS fieldOf
  rw [field_append_high _ _ _ _ (by decide), field_append_high _ _ _ _ (by decide), field_append_low _ _ _ _ (by decide)]
  exact field_whole _
theorem layS_major (m : BitVec 6) (op : BitVec 2) (mask : BitVec 8) (z : BitVec 16) :
    fieldOf (layS m op mask z) 31 26 = m := by
  unfold layS fieldOf
  rw [field_append_high _ _ _ _ (by decide), field_append_high _ _ _ _ (by decide), field_append_high _ _ _ _ (by decide)]
  exact field_whole _
theorem layFB_z (m : BitVec 6) (fs : BitVec 3) (sp : BitVec 5) (va : BitVec 7) (near : BitVec 1) (z : BitVec 10) :
    fieldOf (layFB m fs sp va near z) 9 0 = z := by
  unfold layFB fieldOf
  rw [field_append_low _ _ _ _ (by decide)]
  exact field_whole _
theorem layFB_near (m : BitVec 6) (fs : BitVec 3) (sp : BitVec 5) (va : BitVec 7) (near : BitVec 1) (z : BitVec 10) :
    fieldOf (layFB m fs sp va near z) 10 10 = near := by
  unfold layFB fieldOf
  rw [field_append_high _ _ _ _ (by decide), field_append_low _ _ _ _ (by decide)]
  exact field_whole _
theorem layFB_va (m : BitVec 6) (fs : BitVec 3) (sp : BitVec 5) (va : BitVec 7) (near : BitVec 1) (z : BitVec 10) :
    fieldOf (layFB m fs sp va near z) 17 11 = va := by
  unfold layFB fieldOf
  rw [field_append_high _ _ _ _ (by decide), field_append_high _ _ _ _ (by decide), field_append_low _ _ _ _ (by decide)]
  exact field_whole _
theorem layFB_sp (m : BitVec 6) (fs : BitVec 3) (sp : BitVec 5) (va : BitVec 7) (near : BitVec 1) (z : BitVec 10) :
    fieldOf (layFB m fs sp va near z) 22 18 = sp := by
  unfold layFB fieldOf
  rw [field_append_high _ _ _ _ (by decide), field_append_high _ _ _ _ (by decide), field_append_high _ _ _ _ (by decide), field_append_low _ _ _ _ (by decide)]
  exact field_whole _
theorem layFB_fs (m : BitVec 6) (fs : BitVec 3) (sp : BitVec 5) (va : BitVec 7) (near : BitVec 1) (z : BitVec 10) :
    fieldOf (layFB m fs sp va near z) 25 23 = fs := by
  unfold layFB fieldOf
  rw [field_append_high _ _ _ _ (by decide), field_append_high _ _ _ _ (by decide), field_append_high _ _ _ _ (by decide), field_append_high _ _ _ _ (by decide), field_append_low _ _ _ _ (by decide)]
  exact field_whole _
theorem layFB_major (m : BitVec 6) (fs : BitVec 3) (sp : BitVec 5) (va : BitVec 7) (near : BitVec 1) (z : BitVec 10) :
    fieldOf (layFB m fs sp va near z) 31 26 = m := by
  unfold layFB fieldOf
  rw [field_append_high _ _ _ _ (by decide), field_append_high _ _ _ _ (by decide), field_append_high _ _ _ _ (by decide), field_append_high _ _ _ _ (by decide), field_append_high _ _ _ _ (by decide)]
  exact field_whole _
theorem layF_z (m : BitVec 6) (vd va : BitVec 7) (fs : BitVec 3) (z : BitVec 9) :
    fieldOf (layF m vd va fs z) 8 0 = z := by
  unfold layF fieldOf
  rw [field_append_low _ _ _ _ (by decide)]
  exact field_whole _
theorem layF_fs (m : BitVec 6) (vd va : BitVec 7) (fs : BitVec 3) (z : BitVec 9) :
    fieldOf (layF m vd va fs z) 11 9 = fs := by
  unfold layF fieldOf
  rw [field_append_high _ _ _ _ (by decide), field_append_low _ _ _ _ (by decide)]
  exact field_whole _
theorem layF_va (m : BitVec 6) (vd va : BitVec 7) (fs : BitVec 3) (z : BitVec 9) :
    fieldOf (layF m vd va fs z) 18 12 = va := by
  unfold layF fieldOf
  rw [field_append_high _ _ _ _ (by decide), field_append_high _ _ _ _ (by decide), field_append_low _ _ _ _ (by decide)]
  exact field_whole _
theorem layF_vd (m : BitVec 6) (vd va : BitVec 7) (fs : BitVec 3) (z : BitVec 9) :
    fieldOf (layF m vd va fs z) 25 19 = vd := by
  unfold layF fieldOf
  rw [field_append_high _ _ _ _ (by decide), field_append_high _ _ _ _ (by decide), field_append_high _ _ _ _ (by decide), field_append_low _ _ _ _ (by decide)]
  exact field_whole _
theorem layF_major (m : BitVec 6) (vd va : BitVec 7) (fs : BitVec 3) (z : BitVec 9) :
    fieldOf (layF m vd va fs z) 31 26 = m := by
  unfold layF fieldOf
  rw [field_append_high _ _ _ _ (by decide), field_append_high _ _ _ _ (by decide), field_append_high _ _ _ _ (by decide), field_append_high _ _ _ _ (by decide)]
  exact field_whole _
theorem layHD_z (m : BitVec 6) (ch snd rcv : BitVec 4) (pk : BitVec 2) (va : BitVec 7) (z : BitVec 5) :
    fieldOf (layHD m ch snd rcv pk va z) 4 0 = z := by
  unfold layHD fieldOf
  rw [field_append_low _ _ _ _ (by decide)]
  exact field_whole _
theorem layHD_va (m : BitVec 6) (ch snd rcv : BitVec 4) (pk : BitVec 2) (va : BitVec 7) (z : BitVec 5) :
    fieldOf (layHD m ch snd rcv pk va z) 11 5 = va := by
  unfold layHD fieldOf
  rw [field_append_high _ _ _ _ (by decide), field_append_low _ _ _ _ (by decide)]
  exact field_whole _
theorem layHD_pk (m : BitVec 6) (ch snd rcv : BitVec 4) (pk : BitVec 2) (va : BitVec 7) (z : BitVec 5) :
    fieldOf (layHD m ch snd rcv pk va z) 13 12 = pk := by
  unfold layHD fieldOf
  rw [field_append_high _ _ _ _ (by decide), field_append_high _ _ _ _ (by decide), field_append_low _ _ _ _ (by decide)]
  exact field_whole _
theorem layHD_rcv (m : BitVec 6) (ch snd rcv : BitVec 4) (pk : BitVec 2) (va : BitVec 7) (z : BitVec 5) :
    fieldOf (layHD m ch snd rcv pk va z) 17 14 = rcv := by
  unfold layHD fieldOf
  rw [field_append_high _ _ _ _ (by decide), field_append_high _ _ _ _ (by decide), field_append_high _ _ _ _ (by decide), field_append_low _ _ _ _ (by decide)]
  exact field_whole _
theorem layHD_snd (m : BitVec 6) (ch snd rcv : BitVec 4) (pk : BitVec 2) (va : BitVec 7) (z : BitVec 5) :
    fieldOf (layHD m ch snd rcv pk va z) 21 18 = snd := by
  unfold layHD fieldOf
  rw [field_append_high _ _ _ _ (by decide), field_append_high _ _ _ _ (by decide), field_append_high _ _ _ _ (by decide), field_append_high _ _ _ _ (by decide), field_append_low _ _ _ _ (by decide)]
  exact field_whole _
theorem layHD_ch (m : BitVec 6) (ch snd rcv : BitVec 4) (pk : BitVec 2) (va : BitVec 7) (z : BitVec 5) :
    fieldOf (layHD m ch snd rcv pk va z) 25 22 = ch := by
  unfold layHD fieldOf
  rw [field_append_high _ _ _ _ (by decide), field_append_high _ _ _ _ (by decide), field_append_high _ _ _ _ (by decide), field_append_high _ _ _ _ (by decide), field_append_high _ _ _ _ (by decide), field_append_low _ _ _ _ (by decide)]
  exact field_whole _
theorem layHD_major (m : BitVec 6) (ch snd rcv : BitVec 4) (pk : BitVec 2) (va : BitVec 7) (z : BitVec 5) :
    fieldOf (layHD m ch snd rcv pk va z) 31 26 = m := by
  unfold layHD fieldOf
  rw [field_append_high _ _ _ _ (by decide), field_append_high _ _ _ _ (by decide), field_append_high _ _ _ _ (by decide), field_append_high _ _ _ _ (by decide), field_append_high _ _ _ _ (by decide), field_append_high _ _ _ _ (by decide)]
  exact field_whole _
theorem layL_back (m : BitVec 6) (mode : BitVec 1) (cnt : BitVec 11) (back : BitVec 14) :
    fieldOf (layL m mode cnt back) 13 0 = back := by
  unfold layL fieldOf
  rw [field_append_low _ _ _ _ (by decide)]
  exact field_whole _
theorem layL_cnt (m : BitVec 6) (mode : BitVec 1) (cnt : BitVec 11) (back : BitVec 14) :
    fieldOf (layL m mode cnt back) 24 14 = cnt := by
  unfold layL fieldOf
  rw [field_append_high _ _ _ _ (by decide), field_append_low _ _ _ _ (by decide)]
  exact field_whole _
theorem layL_mode (m : BitVec 6) (mode : BitVec 1) (cnt : BitVec 11) (back : BitVec 14) :
    fieldOf (layL m mode cnt back) 25 25 = mode := by
  unfold layL fieldOf
  rw [field_append_high _ _ _ _ (by decide), field_append_high _ _ _ _ (by decide), field_append_low _ _ _ _ (by decide)]
  exact field_whole _
theorem layL_major (m : BitVec 6) (mode : BitVec 1) (cnt : BitVec 11) (back : BitVec 14) :
    fieldOf (layL m mode cnt back) 31 26 = m := by
  unfold layL fieldOf
  rw [field_append_high _ _ _ _ (by decide), field_append_high _ _ _ _ (by decide), field_append_high _ _ _ _ (by decide)]
  exact field_whole _
theorem layE_z2 (m : BitVec 6) (role eidx : BitVec 4) (z : BitVec 6) (va : BitVec 7) (z' : BitVec 5) :
    fieldOf (layE m role eidx z va z') 4 0 = z' := by
  unfold layE fieldOf
  rw [field_append_low _ _ _ _ (by decide)]
  exact field_whole _
theorem layE_va (m : BitVec 6) (role eidx : BitVec 4) (z : BitVec 6) (va : BitVec 7) (z' : BitVec 5) :
    fieldOf (layE m role eidx z va z') 11 5 = va := by
  unfold layE fieldOf
  rw [field_append_high _ _ _ _ (by decide), field_append_low _ _ _ _ (by decide)]
  exact field_whole _
theorem layE_z (m : BitVec 6) (role eidx : BitVec 4) (z : BitVec 6) (va : BitVec 7) (z' : BitVec 5) :
    fieldOf (layE m role eidx z va z') 17 12 = z := by
  unfold layE fieldOf
  rw [field_append_high _ _ _ _ (by decide), field_append_high _ _ _ _ (by decide), field_append_low _ _ _ _ (by decide)]
  exact field_whole _
theorem layE_eidx (m : BitVec 6) (role eidx : BitVec 4) (z : BitVec 6) (va : BitVec 7) (z' : BitVec 5) :
    fieldOf (layE m role eidx z va z') 21 18 = eidx := by
  unfold layE fieldOf
  rw [field_append_high _ _ _ _ (by decide), field_append_high _ _ _ _ (by decide), field_append_high _ _ _ _ (by decide), field_append_low _ _ _ _ (by decide)]
  exact field_whole _
theorem layE_role (m : BitVec 6) (role eidx : BitVec 4) (z : BitVec 6) (va : BitVec 7) (z' : BitVec 5) :
    fieldOf (layE m role eidx z va z') 25 22 = role := by
  unfold layE fieldOf
  rw [field_append_high _ _ _ _ (by decide), field_append_high _ _ _ _ (by decide), field_append_high _ _ _ _ (by decide), field_append_high _ _ _ _ (by decide), field_append_low _ _ _ _ (by decide)]
  exact field_whole _
theorem layE_major (m : BitVec 6) (role eidx : BitVec 4) (z : BitVec 6) (va : BitVec 7) (z' : BitVec 5) :
    fieldOf (layE m role eidx z va z') 31 26 = m := by
  unfold layE fieldOf
  rw [field_append_high _ _ _ _ (by decide), field_append_high _ _ _ _ (by decide), field_append_high _ _ _ _ (by decide), field_append_high _ _ _ _ (by decide), field_append_high _ _ _ _ (by decide)]
  exact field_whole _
theorem layC_len (m : BitVec 6) (rmask : BitVec 16) (len : BitVec 10) :
    fieldOf (layC m rmask len) 9 0 = len := by
  unfold layC fieldOf
  rw [field_append_low _ _ _ _ (by decide)]
  exact field_whole _
theorem layC_rmask (m : BitVec 6) (rmask : BitVec 16) (len : BitVec 10) :
    fieldOf (layC m rmask len) 25 10 = rmask := by
  unfold layC fieldOf
  rw [field_append_high _ _ _ _ (by decide), field_append_low _ _ _ _ (by decide)]
  exact field_whole _
theorem layC_major (m : BitVec 6) (rmask : BitVec 16) (len : BitVec 10) :
    fieldOf (layC m rmask len) 31 26 = m := by
  unfold layC fieldOf
  rw [field_append_high _ _ _ _ (by decide), field_append_high _ _ _ _ (by decide)]
  exact field_whole _
theorem layH_payload (m : BitVec 6) (kind : BitVec 4) (payload : BitVec 22) :
    fieldOf (layH m kind payload) 21 0 = payload := by
  unfold layH fieldOf
  rw [field_append_low _ _ _ _ (by decide)]
  exact field_whole _
theorem layH_kind (m : BitVec 6) (kind : BitVec 4) (payload : BitVec 22) :
    fieldOf (layH m kind payload) 25 22 = kind := by
  unfold layH fieldOf
  rw [field_append_high _ _ _ _ (by decide), field_append_low _ _ _ _ (by decide)]
  exact field_whole _
theorem layH_major (m : BitVec 6) (kind : BitVec 4) (payload : BitVec 22) :
    fieldOf (layH m kind payload) 31 26 = m := by
  unfold layH fieldOf
  rw [field_append_high _ _ _ _ (by decide), field_append_high _ _ _ _ (by decide)]
  exact field_whole _

end Sys2Proof
end

