-- ==== Sys2Proof/Laws/Memory.lean ====
section
/-! SUPPORT. The operations on memory: all they change of the bytes, that they keep the canonical form, and what is read after a
write. -/
namespace Sys2Proof.Machine

/-- The bytes of memory are the same, and so is what they are undefined by. -/
structure State.SameBytes (s n : State) : Prop where
  mem   : n.mem = s.mem
  near  : n.near = s.near
  fresh : n.frameFresh = s.frameFresh
  wrote : n.frameWrote = s.frameWrote

theorem State.SameBytes.refl (s : State) : s.SameBytes s := ⟨rfl, rfl, rfl, rfl⟩
theorem State.SameBytes.trans {a b c : State} (h : a.SameBytes b) (k : b.SameBytes c) : a.SameBytes c :=
  ⟨k.mem.trans h.mem, k.near.trans h.near, k.fresh.trans h.fresh, k.wrote.trans h.wrote⟩
theorem State.SameBytes.foldl {α : Type} (f : State → α → State) (hf : ∀ (s : State) (a : α), s.SameBytes (f s a)) (l : List α) (s : State) :
    s.SameBytes (l.foldl f s) := by
  induction l generalizing s with
  | nil => exact .refl s
  | cons a l ih => exact (hf s a).trans (ih _)
theorem State.SameBytes.memByte {s n : State} (h : s.SameBytes n) (pa : Nat) : n.memByte pa = s.memByte pa := by
  simp [State.memByte, h.mem, h.fresh, h.wrote]
theorem State.SameBytes.canonical {s n : State} (h : s.SameBytes n) (c : s.Canonical) : n.Canonical := by
  simpa [State.Canonical, h.mem, h.near] using c

/-! The operations that change no byte -/

theorem State.clearReserves_bytes (s : State) (near : Bool) (a n : Nat) : s.SameBytes (s.clearReserves near a n) := ⟨rfl, rfl, rfl, rfl⟩
theorem State.markNear_bytes (s : State) (a n : Nat) (core : Option Nat) : s.SameBytes (s.markNear a n core) := ⟨rfl, rfl, rfl, rfl⟩
theorem State.onCore_bytes (s : State) (c : Nat) (f : CoreSt → CoreSt) : s.SameBytes (s.onCore c f) := ⟨rfl, rfl, rfl, rfl⟩
theorem State.activate_bytes (s : State) (pa : Nat) : s.SameBytes (s.activate pa) := ⟨rfl, rfl, rfl, rfl⟩
theorem State.l2Policy_bytes (s : State) (pa n cp : Nat) : s.SameBytes (s.l2Policy pa n cp) := ⟨rfl, rfl, rfl, rfl⟩
/-- Room in the L2 is made by a line's leaving it: no byte changes. -/
theorem State.l2Room_bytes (s : State) (qd : Nat) : s.SameBytes (s.l2Room qd) := by
  unfold State.l2Room
  split
  · exact .refl s
  · dsimp only [State.freshWord]
    split
    · exact ⟨rfl, rfl, rfl, rfl⟩
    · split <;> exact ⟨rfl, rfl, rfl, rfl⟩
theorem State.l2Touch_bytes (s : State) (line : Nat) (dirty : Bool) : s.SameBytes (s.l2Touch line dirty) := by
  unfold State.l2Touch
  split
  · dsimp only
    split
    · exact ⟨rfl, rfl, rfl, rfl⟩
    · exact ((State.l2Room_bytes s _).trans (State.activate_bytes _ (line * 128))).trans ⟨rfl, rfl, rfl, rfl⟩
  · exact .refl s
theorem State.l2Read_bytes (s : State) (pa n : Nat) : s.SameBytes (s.l2Read pa n) :=
  State.SameBytes.foldl _ (fun s l => State.l2Touch_bytes s l false) _ s
theorem State.dropClean_bytes (s : State) (core line : Nat) : s.SameBytes (s.dropClean core line) := ⟨rfl, rfl, rfl, rfl⟩
theorem State.recall_bytes (s : State) (line : Nat) : s.SameBytes (s.recall line) := by
  unfold State.recall
  split
  · exact .refl s
  · exact State.SameBytes.trans (b := State.onCore { s with owners := Tbl.erase s.owners line } _ _) ⟨rfl, rfl, rfl, rfl⟩
      (State.l2Touch_bytes _ line true)
theorem State.lineWritten_bytes (s : State) (line : Nat) (mark : Option Nat) : s.SameBytes (s.lineWritten line mark) := by
  refine ((State.recall_bytes s line).trans (State.l2Touch_bytes _ line true)).trans ?_
  unfold State.lineWritten
  dsimp only
  split <;> exact ⟨rfl, rfl, rfl, rfl⟩
theorem State.gather_bytes (s : State) (core : Nat) (mark : Option Nat) : s.SameBytes (s.gather core mark) := by
  unfold State.gather
  split
  · exact .refl s
  · split
    · exact .refl s
    · exact State.onCore_bytes _ _ _
theorem State.releaseCore_bytes (s : State) (core : Nat) : s.SameBytes (s.releaseCore core) :=
  (State.SameBytes.foldl _ (fun s l => State.l2Touch_bytes s l true) _ s).trans (State.onCore_bytes _ _ _)
theorem State.acquireWide_bytes (s : State) (core : Nat) : s.SameBytes (s.acquireWide core) :=
  (State.SameBytes.foldl _ (fun s c => State.releaseCore_bytes s c) (promoted (s.core core).promote) s).trans ⟨rfl, rfl, rfl, rfl⟩
/-- A thread's load changes caches alone (R291, R292, R308). -/
theorem State.memLoad_bytes (s : State) (pa n core cp : Nat) : s.SameBytes (s.memLoad pa n core cp).2 := by
  have g := (State.gather_bytes s core (Tbl.find s.marks (pa / 128))).trans (State.l2Policy_bytes _ pa n cp)
  simp only [State.memLoad]
  split
  · exact (g.trans (State.l2Touch_bytes _ _ _)).trans ⟨rfl, rfl, rfl, rfl⟩
  · split
    · exact g
    · split
      · exact g
      · exact (g.trans (State.l2Touch_bytes _ (pa / 128) false)).trans ⟨rfl, rfl, rfl, rfl⟩
/-- An engine's read changes the L2 alone (R291, R309). -/
theorem State.memFetch_bytes (s : State) (pa n : Nat) : s.SameBytes (s.memFetch pa n).2 :=
  State.l2Read_bytes s pa n

/-! The operations that write bytes keep the canonical form -/

/-- No byte of memory is listed at reset. -/
theorem State.reset_canonical : State.reset.Canonical := ⟨rfl, rfl⟩
theorem State.canonical_nearPut {s : State} (key : Nat) (bs : List Byte) (c : s.Canonical) : (s.nearPut key bs).Canonical :=
  ⟨c.1, Memory.wf_writeN key bs c.2⟩
theorem State.canonical_memPut {s : State} (pa : Nat) (bs : List Byte) (c : s.Canonical) : (s.memPut pa bs).Canonical :=
  ⟨Memory.wf_writeN pa bs c.1, c.2⟩
theorem State.canonical_mergePut {s : State} (key : Nat) (bs : List Byte) (by_ : Nat) (c : s.Canonical) : (s.mergePut key bs by_).Canonical := c
theorem State.canonical_drainMerge {s : State} (p : Nat → Nat → Bool) (c : s.Canonical) : (s.drainMerge p).Canonical := by
  unfold State.drainMerge
  generalize s.merge.filter _ = l
  induction l with
  | nil => exact c
  | cons e l ih => exact State.canonical_nearPut _ _ ih
theorem State.canonical_nearOver {s : State} (key : Nat) (bs : List Byte) (c : s.Canonical) : (s.nearOver key bs).Canonical :=
  State.canonical_nearPut _ _ (State.canonical_drainMerge _ c)
theorem State.canonical_nearStore {s : State} (key : Nat) (bs : List Byte) (core by_ : Nat) (drain : Bool) (c : s.Canonical) :
    (s.nearStore key bs core by_ drain).Canonical := by
  unfold State.nearStore
  split
  · exact State.canonical_nearOver _ _ c
  · exact c
theorem State.canonical_nearEngine {s : State} (key : Nat) (bs : List Byte) (c : s.Canonical) : (s.nearEngine key bs).Canonical :=
  State.canonical_nearOver (s := (s.clearReserves true key bs.length).markNear key bs.length none) key bs c
theorem State.canonical_nearHome {s : State} (key : Nat) (bs : List Byte) (core : Option Nat) (c : s.Canonical) :
    (s.nearHome key bs core).Canonical :=
  State.canonical_nearOver (s := (s.clearReserves true key bs.length).markNear key bs.length core) key bs c
theorem State.canonical_freshNear {s : State} (core base size : Nat) (c : s.Canonical) : (s.freshNear core base size).Canonical :=
  ⟨c.1, Memory.wf_filter _ c.2⟩
theorem State.canonical_memEngine {s : State} (pa : Nat) (bs : List Byte) (mark : Option Nat) (c : s.Canonical) :
    (s.memEngine pa bs mark).Canonical :=
  State.canonical_memPut _ _ (((State.clearReserves_bytes s false pa bs.length).trans
    (State.SameBytes.foldl _ (fun s l => State.lineWritten_bytes s l mark) _ _)).canonical c)
theorem State.canonical_memCore {s : State} (pa : Nat) (bs : List Byte) (core : Nat) (c : s.Canonical) : (s.memCore pa bs core).Canonical :=
  (State.SameBytes.foldl _ (fun s l => State.dropClean_bytes s core l) _ _).canonical (State.canonical_memEngine pa bs none c)
/-- What a thread's store does before its bytes change. -/
theorem State.memStore_bytes (s : State) (pa : Nat) (bs : List Byte) (core cp : Nat) :
    ∃ m, s.SameBytes m ∧ s.memStore pa bs core cp = m.memPut pa bs := by
  unfold State.memStore
  split
  · exact ⟨_, ((State.l2Policy_bytes s pa bs.length cp).trans (State.clearReserves_bytes _ false pa bs.length)).trans
      (State.SameBytes.foldl _ (fun s l => State.lineWritten_bytes s l (some core)) _ _), rfl⟩
  · refine ⟨_, ((State.l2Policy_bytes s pa bs.length cp).trans (State.clearReserves_bytes _ false pa bs.length)).trans (State.SameBytes.foldl _ (fun s l => ?_) _ _), rfl⟩
    refine State.SameBytes.trans (b := { (if Tbl.find s.owners l == some core then s else (s.recall l).l2Touch l false) with
      owners := _, marks := _ }) ?_ (State.onCore_bytes _ _ _)
    split
    · exact ⟨rfl, rfl, rfl, rfl⟩
    · exact ((State.recall_bytes s l).trans (State.l2Touch_bytes _ l false)).trans ⟨rfl, rfl, rfl, rfl⟩
theorem State.canonical_memStore {s : State} (pa : Nat) (bs : List Byte) (core cp : Nat) (c : s.Canonical) :
    (s.memStore pa bs core cp).Canonical := by
  obtain ⟨m, h, e⟩ := State.memStore_bytes s pa bs core cp
  exact e ▸ State.canonical_memPut _ _ (h.canonical c)

/-! Reading after writing -/

/-- Every byte that a write does not reach holds what it held, and those it reaches hold what was written. -/
theorem State.mem_memPut (s : State) (pa a : Nat) (bs : List Byte) :
    Memory.read (s.memPut pa bs).mem a = if pa ≤ a ∧ a < pa + bs.length then bs.getD (a - pa) 0 else Memory.read s.mem a :=
  Memory.read_writeN s.mem pa a bs
theorem State.near_nearPut (s : State) (key a : Nat) (bs : List Byte) :
    Memory.read (s.nearPut key bs).near a = if key ≤ a ∧ a < key + bs.length then bs.getD (a - key) 0 else Memory.read s.near a :=
  Memory.read_writeN s.near key a bs
theorem State.mem_memStore (s : State) (pa a core cp : Nat) (bs : List Byte) :
    Memory.read (s.memStore pa bs core cp).mem a
      = if pa ≤ a ∧ a < pa + bs.length then bs.getD (a - pa) 0 else Memory.read s.mem a := by
  obtain ⟨m, h, e⟩ := State.memStore_bytes s pa bs core cp
  rw [e, State.mem_memPut, h.mem]
/-- Where no frame is undefined (R415), a byte is what the memory lists. -/
theorem State.memByte_listed {s : State} (h : s.frameFresh = []) (pa : Nat) : s.memByte pa = Memory.read s.mem pa := by
  simp [State.memByte, h, Tbl.find]

end Sys2Proof.Machine
end

