-- ==== Sys2Proof/Laws/Request.lean ====
section
/-! SUPPORT. What making a request can do: the free values of a load's destination (R162), the counters (R38), the checks of an
access that passes them (R156-R159). -/
namespace Sys2Proof.Machine

/-- A thread whose v registers alone have changed, outside dest to dest + count - 1 none of them. -/
structure Thread.OnlyV (t u : Thread) (dest count : Nat) : Prop where
  v    : ∀ k, (k < dest ∨ dest + count ≤ k) → u.getV k = t.getV k
  rest : u = { t with v := u.v, loads := u.loads }
/-- A state in which thread r alone has changed, and the free values used. -/
structure State.OnlyThread (s n : State) (r : ThreadRef) : Prop where
  others : ∀ q, refKey q ≠ refKey r → n.thread q = s.thread q
  rest   : n = { s with threads := n.threads, free := n.free }

theorem State.OnlyThread.refl (s : State) (r : ThreadRef) : s.OnlyThread s r := ⟨fun _ _ => rfl, rfl⟩
theorem State.OnlyThread.trans {a b c : State} {r : ThreadRef} (h : a.OnlyThread b r) (k : b.OnlyThread c r) : a.OnlyThread c r :=
  ⟨fun q hq => (k.others q hq).trans (h.others q hq), by rw [k.rest, h.rest]⟩
theorem State.onThread_onlyThread (s : State) (r : ThreadRef) (f : Thread → Thread) : s.OnlyThread (s.onThread r f) r :=
  ⟨fun _ hq => State.thread_onThread_ne s f hq, rfl⟩
theorem State.thread_onThread_some {s : State} {r : ThreadRef} {t : Thread} {f : Thread → Thread} (h : s.thread r = some t)
    (hf : (f t).ref = t.ref) : (s.onThread r f).thread r = some (f t) := by
  rw [State.thread_onThread_self, h, Option.map_some, Thread.kept_eq hf]

/-- One register takes a fresh free value. -/
theorem State.freshStep {m : State} {r : ThreadRef} {u : Thread} (k : Nat) (hu : m.thread r = some u) :
    (({ m with free := m.free + 1 } : State).onThread r (fun t => t.setV k (Config.freeWord m.free))).thread r
        = some (u.setV k (Config.freeWord m.free))
      ∧ m.OnlyThread (({ m with free := m.free + 1 } : State).onThread r (fun t => t.setV k (Config.freeWord m.free))) r :=
  ⟨State.thread_onThread_some (by exact hu) rfl, ⟨fun _ hq => State.thread_onThread_ne (s := { m with free := m.free + 1 }) _ hq, rfl⟩⟩
/-- The free values of a destination change nothing else. -/
theorem State.freshRegs_spec (s : State) (r : ThreadRef) (t : Thread) (dest count : Nat) (h : s.thread r = some t) :
    ∃ u, (s.freshRegs r dest count).thread r = some u ∧ t.OnlyV u dest count ∧ s.OnlyThread (s.freshRegs r dest count) r
      ∧ (s.freshRegs r dest count).free = s.free + count := by
  unfold State.freshRegs
  induction count with
  | zero => exact ⟨t, by simpa using h, ⟨fun _ _ => rfl, rfl⟩, by simpa using State.OnlyThread.refl s r, rfl⟩
  | succ n ih =>
    obtain ⟨u, hu, hv, ho, hf⟩ := ih
    rw [List.range_succ, List.foldl_append]
    simp only [List.foldl_cons, List.foldl_nil]
    obtain ⟨h1, h2⟩ := State.freshStep (dest + n) hu
    refine ⟨_, h1, ⟨fun k hk => ?_, ?_⟩, ho.trans h2, ?_⟩
    · rw [Thread.getV_setV_ne _ _ (by omega)]; exact hv.v k (by omega)
    · rw [Thread.setV, hv.rest]
    · exact (congrArg (· + 1) hf).trans (Nat.add_assoc _ _ _)

/-- R162: a load joins the counter, with its destination free and its request made. -/
theorem State.startLoad_spec (s : State) (t : Thread) (q : Req) (dest count : Nat) (h : s.thread t.ref = some t) :
    ∃ u, (s.startLoad t q dest count).thread t.ref = some (u.loadIssued dest count (t.shared dest count) (t.getVs dest count) q.kind.isField) ∧ t.OnlyV u dest count
      ∧ (∀ r, refKey r ≠ refKey t.ref → (s.startLoad t q dest count).thread r = s.thread r)
      ∧ s.startLoad t q dest count = { s with
          threads := (s.startLoad t q dest count).threads
          reqs := Tbl.insert s.reqs s.nextId { q with dest := dest, seq := t.nld + 1 }
          nextId := s.nextId + 1
          free := s.free + count } := by
  obtain ⟨u, hu, hv, ho, hf⟩ := State.freshRegs_spec s t.ref t dest count h
  have hr : u.ref = t.ref := by rw [hv.rest]
  refine ⟨u, ?_, hv, fun r hr => ?_, ?_⟩
  · exact State.thread_onThread_some (f := fun u => u.loadIssued dest count (t.shared dest count) (t.getVs dest count) q.kind.isField) hu (by simp [Thread.loadIssued, Thread.joinLoad])
  · exact (State.thread_onThread_ne _ _ hr).trans (ho.others r hr)
  · simp only [State.startLoad, State.addReq, State.takeId, State.onThread]
    rw [ho.rest]
    simp [hf]

/-- R161: a store joins the counter and its request is made. -/
theorem State.startStore_spec (s : State) (t : Thread) (q : Req) (h : s.thread t.ref = some t) :
    (s.startStore t q).thread t.ref = some t.joinStore.advance
      ∧ (∀ r, refKey r ≠ refKey t.ref → (s.startStore t q).thread r = s.thread r)
      ∧ s.startStore t q = { s with
          threads := (s.startStore t q).threads
          reqs := Tbl.insert s.reqs s.nextId { q with seq := t.nst + 1 }
          nextId := s.nextId + 1 } :=
  ⟨State.thread_onThread_some (f := fun u => u.joinStore.advance) h (by simp [Thread.joinStore]),
    fun _ hr => State.thread_onThread_ne s _ hr, rfl⟩

/-- The thread of a request that it waits for at its word. -/
def Thread.waitFor (u : Thread) (id : Nat) (load store : Bool) : Thread :=
  let u := if load then { u with nld := u.nld + 1, outLd := (u.nld + 1) :: u.outLd } else u
  let u := if store then u.joinStore else u
  u.park (.request id)
theorem Thread.park_ref (t : Thread) (x : Stall) : (t.park x).ref = t.ref := Thread.arm_ref t
/-- R166, R280: the thread waits at its word for the request. -/
theorem State.startWaiting_spec (s : State) (t : Thread) (q : Req) (load store : Bool) (h : s.thread t.ref = some t) :
    (s.startWaiting t q load store).thread t.ref = some (t.waitFor s.nextId load store)
      ∧ (∀ r, refKey r ≠ refKey t.ref → (s.startWaiting t q load store).thread r = s.thread r)
      ∧ s.startWaiting t q load store = { s with
          threads := (s.startWaiting t q load store).threads
          reqs := Tbl.insert s.reqs s.nextId { q with seq := if load then t.nld + 1 else if store then t.nst + 1 else 0 }
          nextId := s.nextId + 1 } := by
  refine ⟨?_, fun _ hr => State.thread_onThread_ne s _ hr, rfl⟩
  refine State.thread_onThread_some (f := fun u => u.waitFor s.nextId load store) h ?_
  rw [Thread.waitFor, Thread.park_ref]
  cases load <;> cases store <;> rfl

/-! Looking a translation up -/

theorem State.CoresOnly.refl (s : State) : s.CoresOnly s := rfl
theorem State.holdEntry_free {α : Type} (s : State) (n : Nat) (l : List α) (x : α) :
    (s.holdEntry n l x).2 = { s with free := (s.holdEntry n l x).2.free } := by
  unfold State.holdEntry; split <;> rfl
theorem State.install1_coresOnly (s : State) (core : Nat) (e : TlbEntry) : s.CoresOnly (s.install1 core e) := by
  unfold State.install1 State.CoresOnly
  rw [State.onCore, State.holdEntry_free]
/-- R324: a look that the L1 TLB misses and the cluster's answers refills the L1, and changes nothing else. -/
theorem State.tlbTouch_coresOnly (s : State) (core va : Nat) : s.CoresOnly (s.tlbTouch core va) := by
  unfold State.tlbTouch
  split
  · exact .refl s
  · split
    · exact State.install1_coresOnly _ _ _
    · exact .refl s
/-- R324: what a look does. -/
theorem State.tlbTouch_looks (s : State) (core va : Nat) : s.Looks (s.tlbTouch core va) core va :=
  ⟨State.tlbTouch_coresOnly s core va, fun h => by
    unfold State.tlbTouch
    split
    · rfl
    · next e => simp [e] at h⟩
@[simp] theorem State.thread_tlbTouch (s : State) (core va : Nat) (r : ThreadRef) : (s.tlbTouch core va).thread r = s.thread r := by
  rw [State.tlbTouch_coresOnly s core va]; rfl
@[simp] theorem State.linkLost_tlbTouch (s : State) (core va pa : Nat) : (s.tlbTouch core va).linkLost pa = s.linkLost pa := by
  rw [State.tlbTouch_coresOnly s core va]; rfl
@[simp] theorem State.memPoisoned_tlbTouch (s : State) (core va pa n : Nat) :
    (s.tlbTouch core va).memPoisoned pa n = s.memPoisoned pa n := by
  rw [State.tlbTouch_coresOnly s core va]; rfl

/-! The checks of an access -/

/-- An access that passes the checks of R156, R159 and R404. -/
theorem State.globalAccess_ok {s : State} {t : Thread} {w : Workgroup} {va : DWord} {n kind : Nat} {read write sysAtomic : Bool}
    {k : Xlate → State → State} {x : Xlate} (hc : fieldOf va 63 56 = 0) (ha : va.toNat % n = 0)
    (hx : s.tlbLook (s.partOf w) w.core va.toNat = some x) (hr : read = true → x.r = true) (hw : write = true → x.w = true)
    (hs : sysAtomic = true → regionOf x.pa = 2 → x.sa = true) (hp : peerRefuses x.pa = true → s.linkLost x.pa = true) :
    s.globalAccess t w va n kind read write sysAtomic k = k x (s.tlbTouch w.core va.toNat) := by
  have h1 : (read && !x.r) = false := by cases read <;> simp_all
  have h2 : (write && !x.w) = false := by cases write <;> simp_all
  have h3 : (sysAtomic && regionOf x.pa == 2 && !x.sa) = false := by
    cases sysAtomic
    · simp
    · by_cases h : regionOf x.pa = 2
      · simp [h, hs rfl h]
      · simp [h]
  have h4 : (peerRefuses x.pa && !s.linkLost x.pa) = false := by
    cases h : peerRefuses x.pa
    · simp
    · simp [hp h]
  simp only [State.globalAccess, hc, ha, hx, h1, h2, h3, h4]
  rfl
/-- A near access that passes the checks of R157. -/
theorem State.nearAccess_ok {s : State} {t : Thread} {na : Word} {n key target : Nat} {k : Nat → State}
    (h : s.checkNear t.ref.wg t.handler na n n = .ok (key, target)) : s.nearAccess t na n k = k key := by
  simp [State.nearAccess, h]

/-- R159, R160: a global load that passes its checks. -/
theorem State.loadGlobal_ok {s : State} {t : Thread} {w : Workgroup} {va : DWord} {sz : LdSize} {vd : VReg} {x : Xlate}
    (hc : fieldOf va 63 56 = 0) (ha : va.toNat % ldBytes sz = 0) (hx : s.tlbLook (s.partOf w) w.core va.toNat = some x)
    (hl : s.linkLost x.pa = false) (he : peerRefuses x.pa = false) (hr : x.r = true) (hp : x.poison = false)
    (hm : s.memPoisoned x.pa (ldBytes sz) = false) :
    s.loadGlobal t w va sz vd = (s.tlbTouch w.core va.toNat).startLoad t
      { newReq t w (.load sz) false x.pa va (ldBytes sz) with cp := x.cp } vd.toNat (ldRegs sz) := by
  unfold State.loadGlobal
  simp only []
  rw [State.globalAccess_ok hc ha hx (fun _ => hr) (by simp) (by simp) (by simp [he])]
  simp [hl, hp, hm]
/-- R159, R161: a global store that passes its checks. -/
theorem State.storeGlobal_ok {s : State} {t : Thread} {w : Workgroup} {va : DWord} {bs : List Byte} {x : Xlate}
    (hc : fieldOf va 63 56 = 0) (ha : va.toNat % bs.length = 0) (hx : s.tlbLook (s.partOf w) w.core va.toNat = some x)
    (hl : s.linkLost x.pa = false) (he : peerRefuses x.pa = false) (hw : x.w = true) :
    s.storeGlobal t w va bs = (s.tlbTouch w.core va.toNat).startStore t
      { newReq t w .store false x.pa va bs.length with data := bs, cp := x.cp } := by
  unfold State.storeGlobal
  rw [State.globalAccess_ok hc ha hx (by simp) (fun _ => hw) (by simp) (by simp [he])]
  simp [hl]
/-- R406: a global store with no route left to its peer is dropped. -/
theorem State.storeGlobal_lost {s : State} {t : Thread} {w : Workgroup} {va : DWord} {bs : List Byte} {x : Xlate}
    (hc : fieldOf va 63 56 = 0) (ha : va.toNat % bs.length = 0) (hx : s.tlbLook (s.partOf w) w.core va.toNat = some x)
    (hl : s.linkLost x.pa = true) (hw : x.w = true) :
    s.storeGlobal t w va bs = (s.tlbTouch w.core va.toNat).dropStore t w := by
  unfold State.storeGlobal
  rw [State.globalAccess_ok hc ha hx (by simp) (fun _ => hw) (by simp) (fun _ => hl)]
  simp [hl]
theorem leBytes_length (n v : Nat) : (leBytes n v).length = n := by
  induction n generalizing v with
  | zero => rfl
  | succ n ih => simp [leBytes, ih]
/-- R161: the bytes of a store are the low bytes of its data registers. -/
theorem Thread.storeData_eq (t : Thread) (vd : VReg) (sz : StSize) : t.storeData vd sz
    = (leBytes 4 (t.getV vd.toNat).toNat ++ leBytes 4 (t.getV (vd.toNat + 1)).toNat ++ leBytes 4 (t.getV (vd.toNat + 2)).toNat
      ++ leBytes 4 (t.getV (vd.toNat + 3)).toNat).take (stBytes sz) := by
  simp [Thread.storeData, List.range_succ]
theorem Thread.storeData_length (t : Thread) (vd : VReg) (sz : StSize) : (t.storeData vd sz).length = stBytes sz := by
  rw [Thread.storeData_eq]
  cases sz <;> simp [leBytes_length, stBytes]

end Sys2Proof.Machine
end

