-- ==== Sys2Proof/Tests/Demo.lean ====
section
/-! SUPPORT. A small state in which the tests and the witnesses of the statements live: one launch, one workgroup with near
memory and tiles, one thread that executes a word. -/
set_option Elab.async false
namespace Sys2Proof.Tests
open Sys2Proof.Machine

/-- Its registers: v2 0x40, v4:v5 a global address, v6 3, v7 minus 1, v8:v9 a tag mask; p1 is true. -/
def demoT : Thread :=
  { placeThread with v := [(2, 0x40), (4, 0x210000), (6, 3), (7, 0xFFFFFFFF), (8, 5)], p := 2 }
/-- s2:s3 is the global base 0x21_0000, s4:s5 the columns 0 and 1, s6:s7 column 1; %team0 is valid. -/
def demoW : Workgroup :=
  { placeWorkgroup with near := 65536, tiles := 16, acc := List.replicate 16 { epoch := 0, cells := [] }, s := [(2, 0x210000), (4, 3), (6, 2)],
                        teams := [0x80000000, 0, 0, 0] }
/-- The one member of team 0. -/
def demoM : MemberWord := { role := 0, bound := true, kind := 0, unit := 0, dev := 0, index := 0 }
def demoL : Launch :=
  { placeLaunch with near := 65536, acc := 16, tvec := 0x200100, tframe := 0x202000, record := 0x201000, saveAt := 0x204000,
                     teams := [(0, [demoM])] }
/-- One page of 2 MiB at 0x20_0000, with every right. -/
def demoP : Partition := { Partition.reset with xltRoot := 1, clusters := 1, frames := [(1, 1)] }
/-- What the core's L1 TLB holds: the page, with the attributes of a leaf. -/
def demoE (leaf : DWord) : TlbEntry := { page := 512, leaf := leaf, size := 512 }
/-- Core 0 as reset leaves it, with the page in its L1 TLB. -/
def demoC (leaf : DWord) : CoreSt := { State.reset.core 0 with tlb := [demoE leaf] }
def demoQ : Queue := { Queue.reset with owner := some 0, en := true }
def demo : State :=
  { State.reset with
    threads := [(refKey demoT.ref, demoT)]
    wgs := [(0, demoW)]
    launches := [(1, demoL)]
    online := 1
    parts := [(0, demoP)]
    cores := [(0, demoC 0x20007F)]
    queues := [(0, demoQ)]
    mgmt := { Management.reset with bootState := 2 }
    issue := some { unit := .quarter 0 0, pc := placeVa, members := [demoT.ref] } }
/-- The state with another thread, workgroup or launch in the place of the first. -/
def setT (t : Thread) (s : State) : State := { s with threads := [(refKey t.ref, t)] }
def setW (w : Workgroup) (s : State) : State := { s with wgs := [(0, w)] }
def setL (l : Launch) (s : State) : State := { s with launches := [(1, l)] }
/-- The page with other attributes: bit 2 is R, 3 W, 4 X, 5 SA, 6 CC, 9 the poison of the page. -/
def setPage (leaf : DWord) (s : State) : State := { s with cores := [(0, demoC leaf)] }
/-- The state with the entry of the page in a table, which a walk finds from the pointer entry that the walkers hold. -/
def tabled (leaf : DWord) (s : State) : State :=
  { s with mem := Memory.writeN s.mem 0x3F0008 (leBytes 8 leaf.toNat)
           ptrs := [(0, [{ part := 0, level := 2, index := 0, table := 0x3F0000 }])] }
/-- Whether a quarter's issue group consists of these threads. -/
def issuesB (s : State) (ts : List Thread) : Bool :=
  (match s.issue with
    | some g => g.members == ts.map (·.ref) && (match g.unit with
      | .quarter _ _ => true
      | .engine _ _ _ => false)
    | none => false)
  && ts.all (fun t => decide (s.thread t.ref = some t)) && decide ((ts.map (fun t => refKey t.ref)).Nodup) && s.traps.isEmpty
theorem issues {s : State} {ts : List Thread} (h : issuesB s ts = true) : s.Issues ts := by
  unfold issuesB at h
  simp only [Bool.and_eq_true, List.all_eq_true, decide_eq_true_eq, List.isEmpty_iff] at h
  obtain ⟨⟨⟨h1, h2⟩, h3⟩, h4⟩ := h
  refine ⟨?_, h2, h3, h4⟩
  split at h1
  · rename_i g hg
    simp only [Bool.and_eq_true, beq_iff_eq] at h1
    obtain ⟨h5, h6⟩ := h1
    split at h6
    · rename_i c q hu
      refine ⟨c, q, g.pc, ?_⟩
      rw [hg, ← h5, ← hu]
    · simp at h6
  · simp at h1
/-- Whether a thread executes a word. -/
def runsB (s : State) (i : Instr) (t : Thread) (w : Workgroup) : Bool :=
  decide (s.wgOf t.ref = some w) && (s.checkDetail t w i).isNone && !t.suppressed && !s.blocked t w i
theorem runs {s : State} {i : Instr} {t : Thread} {w : Workgroup} (h : runsB s i t w = true) : s.Runs i t w := by
  unfold runsB at h
  simp only [Bool.and_eq_true, decide_eq_true_eq, Bool.not_eq_true', Option.isNone_iff_eq_none] at h
  obtain ⟨⟨⟨h1, h2⟩, h3⟩, h4⟩ := h
  exact ⟨h1, h2, h3, h4⟩
/-- Whether the one thread of a group executes an elected word. -/
theorem elects {s : State} {i : Instr} {t : Thread} {w : Workgroup} (h : issuesB s [t] = true) (r : runsB s i t w = true) :
    s.Elects i [t] t w :=
  ⟨issues h, by simp, by simpa using runs r, by simp, by simp⟩
/-- Each thread of a group of one executes the word. -/
theorem each {s : State} {i : Instr} {t : Thread} {w : Workgroup} (r : runsB s i t w = true) : ∀ u ∈ [t], ∃ w, s.Runs i u w := by
  simpa using ⟨w, runs r⟩

/-- Whether a step answers a next state. -/
def goesOn (o : Host.Outcome State Fault Refusal) : Bool :=
  match o with
  | .next _ => true
  | .fault _ => false
  | .refused _ => false
theorem next {o : Host.Outcome State Fault Refusal} (h : goesOn o = true) : ∃ t, o = .next t := by
  unfold goesOn at h
  split at h <;> simp_all
/-- A step that does not wait for a refresh under way goes on where its event does. -/
theorem waits {s : State} {o : Host.Outcome State Fault Refusal} (a : s.alerts = []) (h : goesOn o = true) : ∃ t, s.orWaits o = .next t := by
  obtain ⟨t, rfl⟩ := next h
  unfold State.orWaits State.refreshFor
  rw [a]
  dsimp only
  split
  · split <;> exact ⟨_, rfl⟩
  · exact ⟨_, rfl⟩
/-- A step with no issue group goes on where its event does. -/
theorem event {s : State} (i : s.issue = none) (a : s.alerts = []) (h : goesOn (settled s.nextOutcome) = true) : ∃ t, step s = .next t := by
  unfold step
  rw [i]
  exact waits a h
theorem demo_issues : issuesB demo [demoT] = true := by decide +kernel

end Sys2Proof.Tests
end

