-- ==== Sys2Proof/Tests/Slice0.lean ====
section
/-! SUPPORT. Tests: the terms that no encoding writes are refused by well-formedness, and single steps whose results are worked by
hand from the rules of the spec. -/
set_option Elab.async false
namespace Sys2Proof.Tests
open Sys2Proof.Machine

/-- R94: a field that runs past bit 31. -/
theorem test_illformed_bfx : Instr.wellFormed (.bfx 1 2 true 31 1) = false := by decide
theorem test_wellformed_bfx : Instr.wellFormed (.bfx 1 2 true 31 0) = true := by decide
theorem test_illformed_bfi : Instr.wellFormed (.bfi 1 2 7 25) = false := by decide
theorem test_wellformed_bfi : Instr.wellFormed (.bfi 1 2 7 24) = true := by decide
/-- R101, R107: p0 with negate. -/
theorem test_illformed_bra : Instr.wellFormed (.bra 0 true .plain 4) = false := by decide
theorem test_illformed_call : Instr.wellFormed (.call 0 true 4) = false := by decide
theorem test_illformed_pred : Instr.wellFormed (.pred 0 true) = false := by decide
theorem test_wellformed_pred : Instr.wellFormed (.pred 0 false) = true := by decide
/-- R98, R199: a pair with a copy from near memory to near memory. -/
theorem test_illformed_cpy : Instr.wellFormed (.cpy 1 2 1 3 .nn .b4) = false := by decide
/-- R98: an empty mask of matrix columns. -/
theorem test_illformed_oclm : Instr.wellFormed (.oclm 0) = false := by decide
theorem test_illformed_orel : Instr.wellFormed (.orel 0) = false := by decide
/-- R98: a member that hands to itself; a base with no payload. -/
theorem test_illformed_hand : Instr.wellFormed (.hand 0 3 3 .none 0) = false ∧ Instr.wellFormed (.hand 0 3 4 .none 1) = false := by decide
/-- R98: a loop of no passes and a loop of no words. -/
theorem test_illformed_cloop : Instr.wellFormed (.cloop 0 4) = false ∧ Instr.wellFormed (.cloop 4 0) = false := by decide
theorem test_illformed_cloopReg : Instr.wellFormed (.cloopReg 1 0) = false := by decide
/-- spec/95: an event of another agent has no word. -/
theorem test_illformed_event : Instr.wellFormed .attest = false ∧ (encode .attest).isNone = true := by decide

/-- The register of a thread after one word, the thread holding these registers before it. -/
def after (v : List (Nat × Word)) (i : Instr) (k : Nat) : Option Word :=
  let t := { demoT with v := v }
  match exec i (setT t demo) with
  | .next n => (n.thread t.ref).map (·.getV k)
  | _ => none
/-- The same for the scalar registers of its workgroup. -/
def sAfter (s : List (Nat × Word)) (i : Instr) (k : Nat) : Option Word :=
  match exec i (setW { demoW with s := s } demo) with
  | .next n => (n.wg 0).map (·.getS k)
  | _ => none
/-- The predicates of a thread after one word. -/
def pAfter (v : List (Nat × Word)) (i : Instr) (k : PReg) : Option Bool :=
  let t := { demoT with v := v }
  match exec i (setT t demo) with
  | .next n => (n.thread t.ref).map (·.getP k)
  | _ => none
/-- Every operation of R132 with -1, 7 and the like, two sources a and b in v5 and v6. -/
def results (a b : Word) (l : List (Instr × Word)) : Bool := l.all (fun e => after [(5, a), (6, b)] e.1 4 == some e.2)

/-- The worked example of R133 and its variants. -/
theorem test_div_worked : results 0xFFFFFFF9 2 [(.div 4 5 6, 0xFFFFFFFD), (.rem 4 5 6, 0xFFFFFFFF), (.divu 4 5 6, 0x7FFFFFFC), (.remu 4 5 6, 1)]
    = true := by decide +kernel
theorem test_div_by_zero : results 0xFFFFFFF9 0 [(.div 4 5 6, 0xFFFFFFFF), (.rem 4 5 6, 0xFFFFFFF9), (.divu 4 5 6, 0xFFFFFFFF),
    (.remu 4 5 6, 0xFFFFFFF9)] = true := by decide +kernel
theorem test_div_overflow : results 0x80000000 0xFFFFFFFF [(.div 4 5 6, 0x80000000), (.rem 4 5 6, 0), (.divu 4 5 6, 0), (.remu 4 5 6, 0x80000000)]
    = true := by decide +kernel
/-- R132: wrap, signed and unsigned high products, saturation. -/
theorem test_sums_and_products : results 0x80000000 0xFFFFFFFF [(.add 4 5 6, 0x7FFFFFFF), (.sub 4 5 6, 0x80000001), (.mul 4 5 6, 0x80000000),
    (.mulh 4 5 6, 0), (.mulhu 4 5 6, 0x7FFFFFFF), (.adds 4 5 6, 0x80000000), (.subs 4 5 6, 0x80000001), (.min 4 5 6, 0x80000000),
    (.max 4 5 6, 0xFFFFFFFF), (.minu 4 5 6, 0x80000000), (.maxu 4 5 6, 0xFFFFFFFF)] = true := by decide +kernel
/-- R132: the count is the low five bits, here 33, which counts 1. -/
theorem test_shifts : results 0x80000001 33 [(.shl 4 5 6, 2), (.shr 4 5 6, 0x40000000), (.sar 4 5 6, 0xC0000000), (.rol 4 5 6, 3)] = true := by
  decide +kernel
theorem test_logic : results 0x12345678 0x0FF00FF0 [(.and 4 5 6, 0x02300670), (.or 4 5 6, 0x1FF45FF8), (.xor 4 5 6, 0x1DC45988)] = true := by
  decide +kernel
theorem test_counts : results 0x12345678 0 [(.popc 4 5, 13), (.clz 4 5, 3), (.brev 4 5, 0x1E6A2C48), (.clz 4 6, 32)] = true := by decide +kernel
/-- R132: the pair v8:v9 plus v10:v11 carries into the high half. -/
theorem test_add64_carries : after [(8, 0xFFFFFFFF), (9, 1), (10, 1)] (.add64 4 8 10) 4 = some 0
    ∧ after [(8, 0xFFFFFFFF), (9, 1), (10, 1)] (.add64 4 8 10) 5 = some 2 := by decide +kernel
theorem test_sub64_borrows : after [(9, 1), (10, 1)] (.sub64 4 8 10) 4 = some 0xFFFFFFFF ∧ after [(9, 1), (10, 1)] (.sub64 4 8 10) 5 = some 0 := by
  decide +kernel
/-- R93, R133: s5 and v6 are the sources; ud 4 is s4. -/
theorem test_usub : sAfter [(5, 10)] (.usub 4 5 (64 + 6)) 4 = some 7 := by decide +kernel
/-- R134: ADDI extends the sign of its immediate, the others do not. -/
theorem test_immediates : results 5 0 [(.addi 4 5 0xFFF, 4), (.andi 4 5 0xFFD, 5), (.ori 4 5 0x800, 0x805), (.xori 4 5 0xFFF, 0xFFA),
    (.lui 4 0x7FFFF, 0xFFFFE000), (.shli 4 5 31, 0x80000000)] = true := by decide +kernel
/-- R135: the worked example of BFX, and BFI reads vd. -/
theorem test_bfx_worked : after [(8, 0xABC0)] (.bfx 3 8 true 11 4) 3 = some 0xFFFFFABC ∧ after [(8, 0xABC0)] (.bfx 3 8 false 11 4) 3 = some 0xABC := by
  decide +kernel
theorem test_bfi : after [(3, 0xFFFFFFFF), (8, 0)] (.bfi 3 8 7 8) 3 = some 0xFFFF00FF := by decide +kernel
/-- R136: -1 is below 1 signed and above it unsigned; minus zero equals plus zero; a NaN is unordered. -/
theorem test_icmp : pAfter [(5, 0xFFFFFFFF), (6, 1)] (.icmp 2 .lt 5 6 false .set) 2 = some true
    ∧ pAfter [(5, 0xFFFFFFFF), (6, 1)] (.icmp 2 .ltu 5 6 false .set) 2 = some false := by decide +kernel
theorem test_fcmp : pAfter [(5, 0x80000000)] (.fcmp 2 .eq 5 6 .fp32 .set) 2 = some true
    ∧ pAfter [(5, 0x7FC00000)] (.fcmp 2 .ne 5 6 .fp32 .set) 2 = some true := by decide +kernel
/-- R137: p1 is true, so the first source; inverted, the second. -/
theorem test_sel : after [(5, 7), (6, 9)] (.sel 4 5 6 false false 1) 4 = some 7 ∧ after [(5, 7), (6, 9)] (.sel 4 5 6 false true 1) 4 = some 9 := by
  decide +kernel
/-- R139: 1 plus 2 is 3; 1 divided by 0 is infinity; the root of 4 is 2; NaN beside 2 gives 2. -/
theorem test_scalar_float : results 0x3F800000 0x40000000 [(.fadd 4 5 6, 0x40400000), (.fsub 4 5 6, 0xBF800000), (.fdiv 4 5 7, 0x7F800000),
    (.fdiv 4 5 6, 0x3F000000), (.fmul 4 6 6, 0x40800000), (.fneg 4 5, 0xBF800000)] = true := by decide +kernel
theorem test_float_corners : results 0x40800000 0x7FC00000 [(.fsqrt 4 5, 0x40000000), (.fmin 4 5 6, 0x40800000), (.fadd 4 5 6, 0x7FC00000)]
    = true := by decide +kernel
/-- R140: the worked examples of FSIN and FCOS. -/
theorem test_sine_worked : results 0x3F000000 0xC0000000 [(.fsin 4 5, 0x3F800000), (.fcos 4 5, 0), (.fsin 4 6, 0x80000000)] = true := by decide +kernel
/-- R141: the worked example of FCVT, 500 to E4M3. -/
theorem test_fcvt_worked : after [(7, 0x43FA0000)] (.fcvt 4 7 5 0) 4 = some 0x7E := by decide +kernel
/-- R10: a thread's register that a word does not name keeps its value. -/
theorem test_other_register : after [(5, 1), (6, 2)] (.add 4 5 6) 5 = some 1 := by decide +kernel

end Sys2Proof.Tests
end

