-- ==== Sys2Proof/Tests/Witness1.lean ====
section
/-! SUPPORT. States and operands that meet the hypotheses of the statements about steps, and about the words that change
registers of their own thread, control flow and traps. -/
set_option Elab.async false
namespace Sys2Proof.Tests
open Sys2Proof Sys2Proof.Machine

theorem witness_DecodeEncode : (Instr.add 3 1 2).wellFormed = true := rfl
theorem witness_EncodeDecode : decode 0x04181040 = .ok (.add 3 1 2) := by decide +kernel

/-- The word ADD v3, v1, v2 in the line at the placed page. -/
def stepState : State := State.reset.withFetchWord 32 0x04181040
theorem witness_StepRunsDecoded : stepState.issue = some { unit := .quarter 0 0, pc := placeVa, members := [placeThread.ref] }
    ∧ stepState.stopped = false ∧ stepState.groupPlace { unit := .quarter 0 0, pc := placeVa, members := [placeThread.ref] } = some (0, 0, placeVa)
    ∧ (∃ x line, stepState.tlbLook 0 0 placeVa.toNat = some x ∧ x.x = true ∧ x.poison = false ∧ stepState.linkLost x.pa = false ∧ peerRefuses x.pa = false
      ∧ Tbl.find stepState.icache (icacheKey 0 (x.pa / 128)) = some line
      ∧ decode (BitVec.ofNat 32 (bytesAt line (x.pa % 128) 4)) = .ok (.add 3 1 2)) := by
  refine ⟨?_, ?_, ?_, xlateOf (demoE 0x20001F) 0x200000, leBytes 4 0x04181040 ++ List.replicate 124 0, ?_, ?_, ?_, ?_, ?_, ?_, ?_⟩ <;> decide +kernel
/-- A word of the unassigned major 0x3D. -/
def badState : State := State.reset.withFetchWord 32 0xF4000000
theorem witness_UndecodableWordTraps : issuesB badState [placeThread] = true ∧ badState.stopped = false
    ∧ badState.groupPlace { unit := .quarter 0 0, pc := placeVa, members := [placeThread.ref] } = some (0, 0, placeVa)
    ∧ (∃ x line, badState.tlbLook 0 0 placeVa.toNat = some x ∧ x.x = true ∧ x.poison = false ∧ badState.linkLost x.pa = false ∧ peerRefuses x.pa = false
      ∧ Tbl.find badState.icache (icacheKey 0 (x.pa / 128)) = some line
      ∧ decode (BitVec.ofNat 32 (bytesAt line (x.pa % 128) 4)) = .error .reservedMajor)
    ∧ ∃ w, badState.wgOf placeThread.ref = some w := by
  refine ⟨?_, ?_, ?_, ⟨xlateOf (demoE 0x20001F) 0x200000, leBytes 4 0xF4000000 ++ List.replicate 124 0, ?_, ?_, ?_, ?_, ?_, ?_, ?_⟩, placeWorkgroup, ?_⟩ <;>
    decide +kernel
theorem witness_StepRunsAgenda : ({ State.reset with agenda := [.powerDown] } : State).issue = none ∧ Instr.powerDown.isEvent = true
    ∧ State.reset.allows .powerDown = true := ⟨rfl, rfl, by decide +kernel⟩
theorem witness_StepKeepsInvariant : State.reset.Inv ∧ ∃ t, step State.reset = .next t :=
  ⟨⟨⟨rfl, rfl⟩, ⟨rfl, by simp [State.reset]⟩, rfl⟩, event rfl rfl (by decide +kernel)⟩
/-- The device after a fatal stop. -/
def fatalState : State := { demo with mgmt := { demo.mgmt with fatal := true }, issue := none }
theorem witness_FatalStopHolds : fatalState.Inv ∧ fatalState.FatalStopped ∧ ∃ t, step fatalState = .next t :=
  ⟨⟨⟨rfl, rfl⟩, ⟨by decide +kernel, by simp [fatalState, demo]⟩, rfl⟩, ⟨rfl, rfl⟩, event rfl rfl (by decide +kernel)⟩

/-! Words that change registers of their own thread -/

theorem witness_IntegerResults : demo.Issues [demoT] ∧ (∀ t ∈ [demoT], ∃ w, demo.Runs (.add 3 2 6) t w)
    ∧ ∃ f : Thread → Thread, ∀ t, Claims.integerEffect (.add 3 2 6) t = some (f t) := ⟨issues demo_issues, each (w := demoW) (by decide +kernel), _, fun _ => rfl⟩
theorem witness_UniformResults : demo.Elects (.uadd 4 2 3) [demoT] demoT demoW ∧ Claims.uniformResult (.uadd 4 2 3) demoT demoW = some (4, 0x210000)
    ∧ demo.Elects (.uadd 65 2 3) [demoT] demoT demoW ∧ Claims.uniformResult (.uadd 65 2 3) demoT demoW = some (65, 0x210000)
    ∧ demo.Elects (.uadd64 62 2 2) [demoT] demoT demoW ∧ Claims.uniformResult64 (.uadd64 62 2 2) demoT demoW = some (62, 0x420000)
    ∧ demo.Elects (.uadd64 64 2 2) [demoT] demoT demoW ∧ Claims.uniformResult64 (.uadd64 64 2 2) demoT demoW = some (64, 0x420000) :=
  ⟨elects demo_issues (by decide +kernel), by decide +kernel, elects demo_issues (by decide +kernel), by decide +kernel,
   elects demo_issues (by decide +kernel), by decide +kernel, elects demo_issues (by decide +kernel), by decide +kernel⟩
theorem witness_PredicateResults : demo.Issues [demoT] ∧ (∀ t ∈ [demoT], ∃ w, demo.Runs (.icmp 2 .lt 7 6 false .set) t w)
    ∧ ∃ f : Thread → PReg × Bool, ∀ t, Claims.predicateResult (.icmp 2 .lt 7 6 false .set) t = some (f t) :=
  ⟨issues demo_issues, each (w := demoW) (by decide +kernel), _, fun _ => rfl⟩
theorem witness_FloatResults : demo.Issues [demoT] ∧ (∀ t ∈ [demoT], ∃ w, demo.Runs (.fadd 3 2 6) t w)
    ∧ (∃ f : Thread → VReg × Val × Flags, ∀ t, Claims.floatResult (.fadd 3 2 6) t = some (f t)) ∧ (∀ t ∈ [demoT], ∃ w, demo.Runs (.fneg 3 2) t w)
    ∧ ∃ f : Thread → VReg × Val, ∀ t, Claims.quietResult (.fneg 3 2) t = some (f t) :=
  ⟨issues demo_issues, each (w := demoW) (by decide +kernel), ⟨_, fun _ => rfl⟩, each (w := demoW) (by decide +kernel), _, fun _ => rfl⟩
theorem witness_PackedAndDotResults : demo.Issues [demoT] ∧ (∀ t ∈ [demoT], ∃ w, demo.Runs (.fcvt 3 2 0 8) t w)
    ∧ (∀ t ∈ [demoT], ∃ w, demo.Runs (.pkadd 3 2 6) t w) ∧ (∃ f : Thread → VReg × Fmt × (Nat → Val × Flags), ∀ t, Claims.packedResult (.pkadd 3 2 6) t = some (f t))
    ∧ (∀ t ∈ [demoT], ∃ w, demo.Runs (.idp4Su 3 2 6) t w) ∧ (∃ f : Thread → VReg × Word, ∀ t, Claims.idotResult (.idp4Su 3 2 6) t = some (f t))
    ∧ (∀ t ∈ [demoT], ∃ w, demo.Runs (.fdot4E4m3 3 2 6) t w) ∧ Claims.fdotFormat (.fdot4E4m3 3 2 6) = some (3, 2, 6, 5) :=
  ⟨issues demo_issues, each (w := demoW) (by decide +kernel), each (w := demoW) (by decide +kernel), ⟨_, fun _ => rfl⟩,
   each (w := demoW) (by decide +kernel), ⟨_, fun _ => rfl⟩, each (w := demoW) (by decide +kernel), rfl⟩
theorem witness_HandleWords : demo.Issues [demoT] ∧ (∀ t ∈ [demoT], ∃ w, demo.Runs (.hstat 3 2) t w)
    ∧ ∃ f : Thread → Thread, ∀ t, Claims.moveEffect (.hstat 3 2) t = some (f t) :=
  ⟨issues demo_issues, each (w := demoW) (by decide +kernel), _, fun _ => rfl⟩
theorem witness_SpecialRegisters : demo.Issues [demoT] ∧ demo.Runs (.srd 2 0x0D) demoT demoW ∧ demo.Runs (.swr 0x0F 2) demoT demoW
    ∧ demo.launchOf demoW = some demoL := ⟨issues demo_issues, runs (by decide +kernel), runs (by decide +kernel), rfl⟩
theorem witness_RandomDraw : demo.Issues [demoT] ∧ (∀ t ∈ [demoT], ∃ w, demo.Runs (.rnd 1) t w) ∧ demo.wgOf demoT.ref = some demoW
    ∧ demo.launchOf demoW = some demoL := ⟨issues demo_issues, each (w := demoW) (by decide +kernel), rfl, rfl⟩
theorem witness_DigestWords : demo.Issues [demoT] ∧ demo.Runs (.dgstRead 2) demoT demoW ∧ demo.Elects (.dgstFold 4) [demoT] demoT demoW
    ∧ demo.launchOf demoW = some demoL :=
  ⟨issues demo_issues, runs (by decide +kernel), elects demo_issues (by decide +kernel), rfl⟩

/-! Control flow, traps -/

/-- A thread in a run of one word of a choreography stream. -/
def runT : Thread := { demoT with role := 0x80000000, runLo := placeVa, runHi := placeVa }
def runState : State := setT runT demo
theorem witness_Branches : demo.Issues [demoT] ∧ demo.Runs (.bra 1 true .plain 2) demoT demoW ∧ demoT.getP 1 = true
    ∧ demo.Runs (.bra 1 false .likely 0x80000) demoT demoW ∧ demoT.getP 1 ≠ false
    ∧ demoT.leavesRun (Claims.target demoT.pc 0x80000) false = false
    ∧ runState.Issues [runT] ∧ runState.Runs (.bra 1 false .plain 2) runT demoW ∧ runT.leavesRun (Claims.target runT.pc 2) false = true :=
  ⟨issues demo_issues, runs (by decide +kernel), rfl, runs (by decide +kernel), by decide +kernel, by decide +kernel,
   issues (by decide +kernel), runs (by decide +kernel), by decide +kernel⟩
/-- Threads at the depth of their workgroup, with nine return entries, with an address beyond 56 bits, and at the end of 2^34 bytes. -/
def fullT : Thread := { demoT with depth := 8, ret := List.replicate 8 0x80000 }
def deepT : Thread := { demoT with depth := 9, ret := List.replicate 8 0x80000, v := [(5, 0x1000000), (7, 0xFFFFFFFF)] }
def edgeT : Thread := { demoT with pc := 0x3FFFFFFF8 }
theorem witness_CallsAndReturns :
    (demo.Runs (.call 1 true 2) demoT demoW ∧ demoT.getP 1 = true)
    ∧ ((setT fullT demo).Issues [fullT] ∧ (setT fullT demo).Runs (.call 1 false 2) fullT demoW ∧ fullT.getP 1 ≠ false ∧ fullT.depth = demoW.calls)
    ∧ ((setT edgeT demo).Issues [edgeT] ∧ (setT edgeT demo).Runs (.call 1 false 2) edgeT demoW ∧ edgeT.depth ≠ demoW.calls
        ∧ fieldOf (edgeT.pc + 4) 55 34 ≠ fieldOf (Claims.target edgeT.pc 2) 55 34)
    ∧ (demo.Runs (.call 1 false 2) demoT demoW ∧ demoT.depth ≠ demoW.calls ∧ fieldOf (demoT.pc + 4) 55 34 = fieldOf (Claims.target demoT.pc 2) 55 34)
    ∧ (demo.Runs (.callr 4) demoT demoW ∧ fieldOf (demoT.getPair 4) 63 56 = 0 ∧ fieldOf (demoT.getPair 4) 1 0 = 0
        ∧ fieldOf (demoT.pc + 4) 55 34 = fieldOf (fieldOf (demoT.getPair 4) 55 0) 55 34)
    ∧ ((setT deepT demo).Runs (.jr 4) deepT demoW ∧ fieldOf (deepT.getPair 4) 63 56 ≠ 0)
    ∧ (demo.Runs (.jr 6) demoT demoW ∧ fieldOf (demoT.getPair 6) 63 56 ≠ 0)
    ∧ (demo.Runs (.jr 8) demoT demoW ∧ fieldOf (demoT.getPair 8) 63 56 = 0 ∧ fieldOf (demoT.getPair 8) 1 0 ≠ 0)
    ∧ (demo.Runs (.jr 4) demoT demoW ∧ demoT.leavesRun (fieldOf (demoT.getPair 4) 55 0) false = false)
    ∧ (demo.Runs .ret demoT demoW ∧ demoT.ret = [])
    ∧ ((setT fullT demo).Runs .ret fullT demoW ∧ fullT.depth ≤ 8 ∧ fullT.leavesRun (fieldOf fullT.pc 55 34 ++ ((0x80000 : Word) ++ 0#2)) true = false)
    ∧ ((setT deepT demo).Runs .ret deepT demoW ∧ 8 < deepT.depth ∧ deepT.leavesRun (fieldOf deepT.pc 55 34 ++ ((0x80000 : Word) ++ 0#2)) true = false
        ∧ (setT deepT demo).nearPoisoned (spillKey demoW deepT.ref.tid (deepT.depth - 9)) 4 = false) := by
  refine ⟨⟨runs ?_, ?_⟩, ⟨issues ?_, runs ?_, ?_, ?_⟩, ⟨issues ?_, runs ?_, ?_, ?_⟩, ⟨runs ?_, ?_, ?_⟩, ⟨runs ?_, ?_, ?_, ?_⟩, ⟨runs ?_, ?_⟩,
    ⟨runs ?_, ?_⟩, ⟨runs ?_, ?_, ?_⟩, ⟨runs ?_, ?_⟩, ⟨runs ?_, ?_⟩, ⟨runs ?_, ?_, ?_⟩, ⟨runs ?_, ?_, ?_, ?_⟩⟩ <;> decide +kernel
theorem witness_TrapEntry : demo.Issues [demoT] ∧ demo.launchOf demoW = some demoL ∧ demoT.exited = false ∧ demoT.handler = false
    ∧ demoL.tvec ≠ 0 ∧ (∃ x, demo.engineVa (demo.partOf demoW) (some demoW.core) (frameAddr demoL demoW demoT.ref.tid) 64 true = .ok x ∧ x.poison = false
      ∧ demo.memPoisoned x.pa 64 = false) ∧ demo.Runs (.trap 5) demoT demoW ∧ demo.Runs (.brk 5) demoT demoW :=
  ⟨issues demo_issues, rfl, rfl, rfl, by decide, ⟨xlateOf (demoE 0x20007F) 0x202000, by rfl, by decide +kernel, by decide +kernel⟩,
   runs (by decide +kernel), runs (by decide +kernel)⟩
/-- A thread in handler mode. -/
def handT : Thread := { demoT with handler := true, hclass := 0x15 }
def noVec : Launch := { demoL with tvec := 0 }
theorem witness_TrapTerminates : ((setT handT demo).Issues [handT] ∧ (setT handT demo).Runs (.trap 0) handT demoW ∧ handT.handler = true
      ∧ (setT handT demo).launchOf demoW = some demoL)
    ∧ ((setL noVec demo).Issues [demoT] ∧ (setL noVec demo).Runs (.trap 0) demoT demoW ∧ noVec.tvec = 0)
    ∧ ((setPage 0x200017 demo).Issues [demoT] ∧ (setPage 0x200017 demo).Runs (.trap 0) demoT demoW
      ∧ (setPage 0x200017 demo).engineVa 0 (some 0) (frameAddr demoL demoW 0) 64 true = .error .access) :=
  ⟨⟨issues (by decide +kernel), runs (by decide +kernel), rfl, rfl⟩, ⟨issues (by decide +kernel), runs (by decide +kernel), rfl⟩,
   issues (by decide +kernel), runs (by decide +kernel), by rfl⟩
theorem witness_EretReturns : (setT handT demo).Issues [handT] ∧ (setT handT demo).Runs .eret handT demoW ∧ (handT.handler = true ∧ handT.exited = false)
    ∧ (setT handT demo).launchOf demoW = some demoL ∧ fieldOf (frameAddr demoL demoW 0) 63 56 = 0 ∧ (frameAddr demoL demoW 0).toNat % 64 = 0
    ∧ ∃ x, (setT handT demo).tlbLook 0 0 (frameAddr demoL demoW 0).toNat = some x ∧ x.r = true ∧ (setT handT demo).linkLost x.pa = false
      ∧ peerRefuses x.pa = false ∧ x.poison = false ∧ (setT handT demo).memPoisoned x.pa 64 = false
      ∧ fieldOf (BitVec.ofNat 64 (bytesAt ((setT handT demo).memLoad x.pa 64 0 x.cp).1 0 8) : DWord) 63 56 = 0
      ∧ fieldOf (BitVec.ofNat 64 (bytesAt ((setT handT demo).memLoad x.pa 64 0 x.cp).1 0 8) : DWord) 1 0 = 0 := by
  refine ⟨issues ?_, runs ?_, ?_, ?_, ?_, ?_, xlateOf (demoE 0x20007F) 0x202000, ?_, ?_, ?_, ?_, ?_, ?_, ?_, ?_⟩ <;> decide +kernel
theorem witness_HandlerModeOnly : demo.Runs .eret demoT demoW ∧ demo.Runs (.dsav 2) demoT demoW ∧ demo.Runs (.drst 2) demoT demoW
    ∧ demoT.handler = false := ⟨runs (by decide +kernel), runs (by decide +kernel), runs (by decide +kernel), rfl⟩
/-- A thread that has executed EXIT, alone and beside another. -/
def exitT : Thread := { demoT with stall := .exiting }
def secondT : Thread := { demoT with ref := { wg := 0, tid := 1 } }
def plainW : Workgroup := { demoW with teams := [0, 0, 0, 0] }
def twoState (t u : Thread) : State := { demo with threads := [(refKey t.ref, t), (refKey u.ref, u)], wgs := [(0, plainW)], issue := none }
theorem witness_ExitEnds : demo.Runs .exit demoT demoW ∧ demoT.active = false ∧ demoT.poisonedUpTo demoT.nld = none :=
  ⟨runs (by decide +kernel), rfl, by decide +kernel⟩
theorem witness_ExitEnds_beside : (twoState exitT secondT).thread exitT.ref = some exitT
    ∧ (twoState exitT secondT).wgOf exitT.ref = some plainW ∧ plainW.teamList = []
    ∧ (∃ u ∈ (twoState exitT secondT).live 0, u.ref ≠ exitT.ref) ∧ (∀ u ∈ (twoState exitT secondT).live 0, u.bars = 0)
    ∧ (∀ u ∈ (twoState exitT secondT).live 0, u.ref ≠ exitT.ref → u.stall = .none ∧ u.saved = false)
    ∧ (∀ u ∈ (twoState exitT secondT).live 0, refKey u.ref = refKey exitT.ref → u.ref = exitT.ref) := by decide +kernel
theorem witness_ExitEnds_keyed : (twoState exitT secondT).Keyed := ⟨by decide +kernel, by decide +kernel⟩
/-- The last thread of its workgroup. -/
def lastState : State := setW plainW (setT exitT demo)
theorem witness_ExitEnds_last : lastState.thread exitT.ref = some exitT ∧ lastState.launchOf plainW = some demoL ∧ demoL.dq = []
    ∧ (∀ m ∈ plainW.teams, teamValid m = false) ∧ ∀ e ∈ lastState.threads, e.2.ref.wg = 0 → e = (refKey exitT.ref, exitT) :=
  ⟨by decide +kernel, by decide +kernel, rfl, by simp [plainW, teamValid], by decide +kernel⟩

end Sys2Proof.Tests
end

