-- ==== Sys2Proof/Tests/Witness2.lean ====
section
/-! SUPPORT. States and operands that meet the hypotheses of the statements about loads, stores, full/empty operations, atomics,
fences, barriers and row operations. -/
set_option Elab.async false
namespace Sys2Proof.Tests
open Sys2Proof Sys2Proof.Machine

/-- The translation of a global address of the page. -/
def at_ (va : Nat) : Xlate := xlateOf (demoE 0x20007F) va
theorem globalOk {s : State} {w : Workgroup} {va : DWord} {n : Nat} {x : Xlate}
    (h : fieldOf va 63 56 = 0 ∧ va.toNat % n = 0 ∧ s.tlbLook (s.partOf w) w.core va.toNat = some x ∧ s.linkLost x.pa = false
      ∧ peerRefuses x.pa = false) :
    Claims.GlobalOk s w va n x := ⟨h.1, h.2.1, h.2.2.1, h.2.2.2.1, h.2.2.2.2⟩

theorem witness_LoadsIssue : demo.Issues [demoT] ∧ demo.Runs (.ld 12 0 1 .q 15) demoT demoW
    ∧ demoW.sPair 1 + BitVec.ofNat 64 (demoT.scaledImm 15 * 16) = 0x2100F0 ∧ Claims.GlobalOk demo demoW 0x2100F0 16 (at_ 0x2100F0)
    ∧ demo.memPoisoned 0x2100F0 16 = false
    ∧ demo.Runs (.ldn 1 2 .sh 0) demoT demoW ∧ demo.checkNear 0 false 0x40 2 2 = .ok (0x40, 0) ∧ demo.nearPoisoned 0x40 2 = false :=
  ⟨issues demo_issues, runs (by decide +kernel), by decide +kernel, globalOk (by decide +kernel), by decide +kernel, runs (by decide +kernel), by rfl,
   by decide +kernel⟩
theorem witness_StoresIssue : demo.Runs (.st 12 0 1 .q 15) demoT demoW ∧ Claims.GlobalOk demo demoW 0x2100F0 16 (at_ 0x2100F0)
    ∧ demo.Runs (.stn 1 2 .b 0) demoT demoW ∧ demo.checkNear 0 false 0x40 1 1 = .ok (0x40, 0) :=
  ⟨runs (by decide +kernel), globalOk (by decide +kernel), runs (by decide +kernel), by rfl⟩
/-- s2:s3 beyond 56 bits; a page without rights; a near address beyond the allocation, and one that is not aligned. -/
def farW : Workgroup := { demoW with s := [(3, 0x01000000)] }
def nearT : Thread := { demoT with v := [(2, 0x10000), (3, 0x41)] }
theorem witness_AccessTraps :
    ((setW farW demo).Issues [demoT] ∧ (setW farW demo).Runs (.ld 1 0 1 .b 0) demoT farW ∧ fieldOf (farW.sPair 1) 63 56 ≠ 0)
    ∧ (demo.Runs (.ld 1 6 1 .w 0) demoT demoW ∧ demo.Runs (.ld 2 8 1 .d 0) demoT demoW)
    ∧ ((setW { demoW with s := [(2, 0x210002)] } demo).Runs (.ld 1 0 1 .w 0) demoT { demoW with s := [(2, 0x210002)] }
      ∧ (0x210002 : DWord).toNat % 4 ≠ 0)
    ∧ ((setPage 0x200003 demo).Issues [demoT] ∧ (setPage 0x200003 demo).Runs (.ld 1 0 1 .w 0) demoT demoW
      ∧ (setPage 0x200003 demo).Runs (.st 1 0 1 .w 0) demoT demoW
      ∧ ∃ x, (setPage 0x200003 demo).tlbLook 0 0 0x210000 = some x ∧ x.r = false ∧ x.w = false)
    ∧ ((setT nearT demo).Issues [nearT] ∧ (setT nearT demo).Runs (.ldn 1 3 .w 0) nearT demoW
      ∧ (setT nearT demo).checkNear 0 false 0x41 4 4 = .error .align
      ∧ (setT nearT demo).Runs (.ldn 1 2 .w 0) nearT demoW ∧ (setT nearT demo).checkNear 0 false 0x10000 4 4 = .error (.cause 1)) := by
  refine ⟨⟨issues ?_, runs ?_, ?_⟩, ⟨runs ?_, runs ?_⟩, ⟨runs ?_, ?_⟩, ⟨issues ?_, runs ?_, runs ?_, xlateOf (demoE 0x200003) 0x210000, ?_, ?_, ?_⟩,
    issues ?_, runs ?_, ?_, runs ?_, ?_⟩ <;> first | rfl | decide +kernel

/-- A load of one word in flight, and its thread. -/
def loadRec : LoadRec := { seq := 1, dest := 1, count := 1, value := none, dirty := [], old := [], gone := [], poison := none }
def loadT : Thread := { demoT with nld := 1, outLd := [1], loads := [loadRec] }
def loadReq (near : Bool) (a : Nat) : Req := { newReq demoT demoW (.load .w) near a (BitVec.ofNat 64 a) 4 with dest := 1, seq := 1 }
def reqState (t : Thread) (q : Req) : State := { setT t demo with reqs := [(0, q)], issue := none, nextId := 1 }
def poisoned (s : State) : State := { s with poison := [0x210000 / 128], nearPoison := [0] }
theorem witness_LoadArrives : (∀ e ∈ [(false, 0x21007C), (true, 0x7C)],
      (reqState loadT (loadReq e.1 e.2)).inOrder 0 (loadReq e.1 e.2) = true ∧ (loadReq e.1 e.2).addr % 128 + (loadReq e.1 e.2).size ≤ 128)
    ∧ (reqState loadT (loadReq false 0x21007C)).memPoisoned 0x21007C 4 = false
    ∧ (poisoned (reqState loadT (loadReq false 0x21007C))).memPoisoned 0x21007C 4 = true
    ∧ (reqState loadT (loadReq true 0x7C)).nearPoisoned 0x7C 4 = false
    ∧ (poisoned (reqState loadT (loadReq true 0x7C))).nearPoisoned 0x7C 4 = true := by decide +kernel
/-- Threads whose load has arrived: with its data, with its data in a register that a trap's entry has given it before, and with poison. -/
def gotT : Thread := { demoT with nld := 1, loads := [{ loadRec with value := some [7] }] }
def goneT : Thread := { demoT with nld := 1, loads := [{ loadRec with value := some [7], gone := [1] }] }
def badT : Thread := { demoT with nld := 1, loads := [{ loadRec with poison := some 0x210000 }] }
theorem witness_WaitCovers : (setT gotT demo).Issues [gotT] ∧ (setT gotT demo).Runs (.wait 0 0 0 0) gotT demoW
    ∧ gotT.loads.filter (fun x => decide (x.seq ≤ gotT.nld - 0)) = [{ loadRec with value := some [7] }]
    ∧ (setT gotT demo).Runs (.wait 63 63 15 15) gotT demoW
    ∧ (setT goneT demo).Issues [goneT] ∧ (setT goneT demo).Runs (.wait 0 0 0 0) goneT demoW
    ∧ goneT.loads.filter (fun x => decide (x.seq ≤ goneT.nld - 0)) = [{ loadRec with value := some [7], gone := [1] }]
    ∧ (setT badT demo).Issues [badT] ∧ (setT badT demo).Runs (.wait 0 63 15 15) badT demoW
    ∧ badT.loads.filter (fun x => decide (x.seq ≤ badT.nld - 0)) = [{ loadRec with poison := some 0x210000 }] := by
  refine ⟨issues ?_, runs ?_, ?_, runs ?_, issues ?_, runs ?_, ?_, issues ?_, runs ?_, ?_⟩ <;> decide +kernel
/-- A store in flight. -/
def storeT : Thread := { demoT with nst := 1, outSt := [1] }
def storeReq (near : Bool) (a : Nat) : Req :=
  { newReq demoT demoW .store near a (BitVec.ofNat 64 a) 4 with seq := 1, data := [1, 2, 3, 4] }
theorem witness_StoresPerform : (reqState storeT (storeReq false 0x210000)).inOrder 0 (storeReq false 0x210000) = true
    ∧ (reqState storeT (storeReq true 0x40)).inOrder 0 (storeReq true 0x40) = true
    ∧ (reqState storeT (storeReq true 0x40)).thread demoT.ref = some storeT := by decide +kernel
/-- The store in a launch in RECORD mode. -/
def recordState (near : Bool) : State := setL { demoL with det := 2 } (reqState storeT (storeReq near (if near then 0x40 else 0x210000)))
theorem witness_StoresPerform_digest : ∀ near, (recordState near).inOrder 0 (storeReq near (if near then 0x40 else 0x210000)) = true
    ∧ (recordState near).thread demoT.ref = some storeT ∧ (recordState near).wgOf demoT.ref = some demoW
    ∧ (recordState near).launchOf demoW = some { demoL with det := 2 } := by decide +kernel
theorem witness_FullEmpty_issue : ∀ i ∈ [Instr.ldnf 1 2, .ldnw 1 2, .stne 2 6, .stnf 2 6, .fesetE 2, .fesetF 2, .feq 1 2],
    runsB demo i demoT demoW = true ∧ (Claims.fullEmptyWord i demoT).isSome = true := by decide +kernel
theorem witness_FullEmpty_near : demo.checkNear 0 false 0x40 4 4 = .ok (0x40, 0) := rfl
/-- A full/empty operation in flight. -/
def feReq (fn : Nat) : Req := { newReq demoT demoW (.fullEmpty fn) true 0x40 0x40 4 with dest := 1, seq := 1, data := if fn = 2 ∨ fn = 3 then [1, 2, 3, 4] else [] }
def feT (fn : Nat) : Thread := if feLoads fn then { demoT with nld := 1, outLd := [1], stall := .request 0 } else
  { demoT with nst := 1, outSt := [1], stall := .request 0 }
def feState (fn : Nat) : State := { reqState (feT fn) (feReq fn) with empties := if fn = 2 then [0x10] else [] }
theorem witness_FullEmpty_perform : ∀ fn ∈ List.range 7, (feState fn).inOrder 0 (feReq fn) = true ∧ (feState fn).nearPoisoned 0x40 4 = false
    ∧ (feState fn).thread demoT.ref = some (feT fn) ∧ ((feState fn).empties.contains (0x40 / 4) = decide (fn = 2))
    ∧ (fn = 2 ∨ fn = 3 → (feT fn).outLd = [] ∧ (feT fn).outSt = [1] ∧ (feReq fn).data.length = 4)
    ∧ (feState fn).traps = [] ∧ (∀ e ∈ (feState fn).reqs, e.2.parked = true → e.2.addr ≠ (feReq fn).addr) := by decide +kernel

/-! Atomics -/

theorem witness_AtomicsIssue : ∀ i ∈ [Instr.atom 1 4 8 .global .cas, .atom 1 2 8 .near .add, .red 4 6 .global .fadd, .red 2 6 .near .xor,
      .lr 1 4 .global, .lr 1 2 .near, .sc 1 4 6 .global, .sc 1 2 6 .near],
    runsB demo i demoT demoW = true ∧ (Claims.atomicWord i demoT).isSome = true := by decide +kernel
theorem witness_AtomicsIssue_addresses : Claims.GlobalOk demo demoW 0x210000 4 (at_ 0x210000) ∧ (at_ 0x210000).w = true ∧ (at_ 0x210000).r = true
    ∧ demo.checkNear 0 false 0x40 4 4 = .ok (0x40, 0) := ⟨globalOk (by decide +kernel), rfl, rfl, rfl⟩
/-- The page of host memory with the system-atomic attribute. -/
def hostState : State := setPage 0x800000020007F demo
theorem witness_AtomicsIssue_host : hostState.Runs (.atom 1 4 8 .global .xchg) demoT demoW
    ∧ ∃ x, hostState.tlbLook 0 0 0x210000 = some x ∧ regionOf x.pa = 2 ∧ x.sa = true ∧ hostState.linkLost x.pa = false :=
  ⟨runs (by decide +kernel), xlateOf (demoE 0x800000020007F) 0x210000, rfl, by decide +kernel, rfl, by decide +kernel⟩
/-- An atomic on its way to its home, and one served. -/
def atomReq (k : ReqKind) (near : Bool) (args : List Word) : Req :=
  { newReq demoT demoW k near (if near then 0x40 else 0x210000) 0x210000 4 with dest := 1, seq := 1, args := args }
theorem witness_AtomicsServe : ∀ near, ∀ k ∈ [ReqKind.red .add, .atom .cas, .lr, .sc],
    let q := atomReq k near [1, 2]
    let s := reqState (match k with
      | .red _ => storeT
      | _ => loadT) q
    s.inOrder 0 q = true ∧ s.nearPoisoned 0x40 4 = false ∧ s.memPoisoned 0x210000 4 = false ∧ s.reserved q = false := by decide +kernel
def heldState : State :=
  { reqState loadT (atomReq .sc false [1]) with reserves := [{ home := homeOf 0x210000, peer := none, thread := demoT.ref, near := false, line := 0x210000 / 128 }] }
theorem witness_AtomicsServe_reserved : heldState.reserved (atomReq .sc false [1]) = true ∧ heldState.inOrder 0 (atomReq .sc false [1]) = true := by
  decide +kernel
def servedReq (data : List Byte) : Req := { atomReq .lr false [] with served := true, data := data }
theorem witness_AtomicReplyArrives : ∀ d ∈ [[], [1, 2, 3, 4]], Tbl.find (reqState loadT (servedReq d)).reqs 0 = some (servedReq d)
    ∧ (reqState loadT (servedReq d)).thread demoT.ref = some loadT ∧ (reqState loadT (servedReq d)).wgOf demoT.ref = some demoW := by decide +kernel

/-! Fences, barriers, row operations -/

theorem witness_Fences : (∀ k ∈ [FenceKind.full, .acquire, .release], ∀ c ∈ [Scope.workgroup, .cluster, .system], runsB demo (.fence k c) demoT demoW = true)
    ∧ runsB demo .fencePath demoT demoW = true ∧ runsB demo .oprdy demoT demoW = true ∧ Tbl.risingFrom 0 demo.merge = true := by decide +kernel
/-- Bytes in the merge buffer: two of one 16-byte block, one the thread's own, and one of another thread and block. -/
def mergeState : State := { demo with merge := [(0x40, 1, [refKey demoT.ref]), (0x41, 2, [512]), (0x50, 3, [512])] }
theorem witness_Fences_merge : ∀ i ∈ [Instr.fencePath, .oprdy], runsB mergeState i demoT demoW = true ∧ issuesB mergeState [demoT] = true
    ∧ (Tbl.find mergeState.merge 0x41).isSome = true ∧ (∃ x ∈ mergeState.merge, x.1 / 16 = 0x41 / 16 ∧ refKey demoT.ref ∈ x.2.2 ∧ (0x41 : Nat) / 2 ^ 19 = demoW.core)
    ∧ ¬ (∃ x ∈ mergeState.merge, x.1 / 16 = 0x50 / 16 ∧ refKey demoT.ref ∈ x.2.2) := by decide +kernel
/-- Two threads of the workgroup, of which the first executes a word. -/
def pair (u : Thread) : State := { demo with threads := [(refKey demoT.ref, demoT), (refKey u.ref, u)] }
theorem together {u : Thread} (h : (Tbl.risingFrom 0 (pair u).threads = true ∧ ∀ e ∈ (pair u).threads, e.1 = refKey e.2.ref) ∧ (pair u).thread demoT.ref = some demoT ∧ ∀ v ∈ (pair u).live 0, v.ref.tid < 512) :
    Claims.Together (pair u) demoT demoW := ⟨h.1, ⟨h.2.1, rfl, rfl, rfl⟩, h.2.2⟩
def barT : Thread := { secondT with bars := 4, stall := .barrier 2 }
theorem witness_Barriers : (pair secondT).Issues [demoT] ∧ (pair secondT).Runs (.bar 2) demoT demoW ∧ Claims.Together (pair secondT) demoT demoW
    ∧ (∃ u ∈ (pair secondT).live 0, u.ref ≠ demoT.ref ∧ u.bars = 0 ∧ u.stall = .none)
    ∧ (pair barT).Issues [demoT] ∧ (pair barT).Runs (.bar 2) demoT demoW ∧ Claims.Together (pair barT) demoT demoW
    ∧ (∀ u ∈ (pair barT).live 0, u.ref ≠ demoT.ref → u.bars = 1#4 <<< (2 : BitVec 2).toNat ∧ u.stall = .barrier 2) :=
  ⟨issues (by decide +kernel), runs (by decide +kernel), together (by decide +kernel), by decide +kernel, issues (by decide +kernel),
   runs (by decide +kernel), together (by decide +kernel), by decide +kernel⟩
def teamT : Thread := { secondT with stall := .team 0 2 }
theorem witness_TeamBarriers : (demoW.team 1).getLsbD 31 = false ∧ (pair secondT).Runs (.tbar 2 1) demoT demoW
    ∧ (demoW.team 0).getLsbD 31 = true ∧ Tbl.get [] demoL.teams (teamIndex (demoW.team 0)) = [demoM] ∧ (pair secondT).resident 1 0 = some 0
    ∧ (pair secondT).Runs (.tbar 2 0) demoT demoW ∧ (∃ u ∈ (pair secondT).live 0, u.ref ≠ demoT.ref ∧ u.stall = .none)
    ∧ (pair teamT).Issues [demoT] ∧ (pair teamT).Runs (.tbar 2 0) demoT demoW ∧ Claims.Together (pair teamT) demoT demoW
    ∧ (pair teamT).Runs (.tbar 0 0) demoT demoW
    ∧ (∀ u ∈ (pair teamT).live 0, u.ref ≠ demoT.ref → u.stall = .team 0 2) :=
  ⟨by decide +kernel, runs (by decide +kernel), by decide +kernel, by decide +kernel, by decide +kernel, runs (by decide +kernel), by decide +kernel,
   issues (by decide +kernel), runs (by decide +kernel), together (by decide +kernel), runs (by decide +kernel), by decide +kernel⟩
def rowT (i : Instr) : Thread := { secondT with stall := .row i 3 }
theorem witness_RowOperations : (∀ i ∈ [Instr.voteEvery 1 3 1, .confd 2 2 3], runsB (pair secondT) i demoT demoW = true
      ∧ ((demoW.sPair 3).getLsbD (demoW.column 0) = false))
    ∧ (∀ i ∈ [Instr.voteEvery 1 2 1, .voteSome 1 2 1, .voteMask 2 2 1, .voteCount 1 2 1, .shflAt 1 2 2, .shflRot 1 2 2, .shflRev 1 2 2,
          .shflSwap 1 2 2, .matchSame 2 2 2, .matchUnif 2 2 2, .matchLead 1 2 2, .confd 2 2 2, .cmpk 1 2 1],
      rowMaskOf i = some 2 ∧ runsB (pair secondT) i demoT demoW = true ∧ runsB (pair (rowT i)) i demoT demoW = true
      ∧ issuesB (pair (rowT i)) [demoT] = true ∧ (rowT i).pc = demoT.pc ∧ (demoW.sPair 2).getLsbD (demoW.column 0) = true
      ∧ ((pair (rowT i)).rowThreads 0 demoW 0).map (fun e => e.1) = [0, 1]) := by decide +kernel

end Sys2Proof.Tests
end

