-- ==== Sys2Proof/Tests/Witness3.lean ====
section
/-! SUPPORT. States and operands that meet the hypotheses of the statements about asynchronous operations, tags and operand slots. -/
set_option Elab.async false
namespace Sys2Proof.Tests
open Sys2Proof Sys2Proof.Machine

/-- Near bytes from an offset on, and slots of the core that workgroup 0 owns. -/
def nearWith (a : Nat) (bs : List Byte) (s : State) : State :=
  { s with near := Memory.writeN [] a bs, nearWrote := (List.range bs.length).map (a + ·) }
def slotOf (x : SlotState) : Slot := { state := x, epoch := 0, bytes := [], damaged := false }
def coreWith (slots : List SlotState) : CoreSt := { demoC 0x20007F with slots := (slots.zipIdx).map (fun e => (e.2, slotOf e.1)) }
def coreState (c : CoreSt) (s : State) : State := { s with cores := [(0, c)] }
def ownSlots : State := coreState (coreWith (List.replicate 8 (.claimed 0))) demo
def goes (r : MxIssue) : Bool :=
  match r with
  | .go _ => true
  | _ => false
theorem goes_some {r : MxIssue} (h : goes r = true) : ∃ o, r = .go o := by
  cases r <;> simp_all [goes]
def isParam (r : MxIssue) : Bool :=
  match r with
  | .param => true
  | _ => false

def bookT (own : Option Nat) : State :=
  coreState { demoC 0x20007F with books := [(1, { owner := own, vec := 4, origin := 0, loaded := false, epoch := 0, bytes := [], damaged := [] })] } demo
def cpymBlock : List Byte := leBytes 4 0x1000 ++ leBytes 4 256 ++ leBytes 4 0x2000 ++ leBytes 4 0 ++ leBytes 8 1 ++ List.replicate 8 0
theorem witness_CopiesIssue :
    (∀ d ∈ [CpyDir.gn, .ng, .nn, .gg], runsB demo (.cpy 1 2 (if d = .nn then 0 else 1) 2 d .b16) demoT demoW = true)
    ∧ (∀ own ∈ [some 0, none], issuesB (bookT own) [demoT] = true ∧ runsB (bookT own) (.cpyq 1 2 1 2 true 1) demoT demoW = true
        ∧ (((bookT own).core 0).book 1).owner = own)
    ∧ runsB demo (.cbook 1 2 1 .b4 3) demoT demoW = true
    ∧ (let s := nearWith 0x40 cpymBlock demo
       issuesB s [demoT] = true ∧ runsB s (.cpym 1 2 1 2 true) demoT demoW = true ∧ s.nearPoisoned 0x40 32 = false
       ∧ s.nearLoad 0x40 32 = cpymBlock ∧ (demoW.team (bytesAt cpymBlock 24 1 % 4)).getLsbD 31 = true
       ∧ s.cpymOk 0 false (s.teamWords demoW (demoW.team 0)).length cpymBlock = true) := by decide +kernel
theorem witness_block_address : demo.checkNear 0 false 0x40 32 32 = .ok (0x40, 0) ∧ demo.checkNear 0 false 0x40 16 16 = .ok (0x40, 0)
    ∧ demo.checkNear 0 false 0x40 32 16 = .ok (0x40, 0) := ⟨rfl, rfl, rfl⟩

/-- A word with a block, its block, and the register of its base pair. -/
def blockCases : List (Instr × List Byte) :=
  [(.old 1 2 1 2 0, leBytes 4 0 ++ leBytes 4 256 ++ List.replicate 8 0),
   (.mma 1 2 1 2 true, [2, 2, 1, 1, 0, 0, 0, 0, 1, 0, 0, 0, 0, 0, 16, 0] ++ List.replicate 16 0),
   (.mmas 1 2 1 2 false .n6, [2, 2, 1, 1, 0, 0, 0, 0, 1, 0, 0, 0, 0, 0, 12, 0] ++ List.replicate 16 0),
   (.mv 1 2 1 2 true .auto, List.replicate 12 0 ++ [16, 0, 16, 0, 2, 0, 0, 1] ++ List.replicate 12 0),
   (.mv 1 2 1 2 false .bank, List.replicate 12 0 ++ [16, 0, 16, 0, 2, 0, 0, 1] ++ List.replicate 12 0),
   (.accld 1 2 1 2, [0, 1] ++ List.replicate 14 0),
   (.accst 1 2 1 2, [0, 1] ++ List.replicate 14 0),
   (.acz 1 2 1 2, [0, 16] ++ List.replicate 14 0),
   (.scacc 1 2 2 true, [0, 1, 64] ++ List.replicate 13 0),
   (.nprune 1 2 2 .n3, List.replicate 16 0 ++ [1, 0, 12, 0, 2] ++ List.replicate 11 0)]
def blockOp (s : State) (i : Instr) (x : Claims.BlockWord) : Op :=
  { s.threadOp i demoT demoW x.sp with block := s.nearLoad 0x40 x.size, args := [BitVec.ofNat 32 0x40] }
def blockRuns (s : State) (i : Instr) (p : MxIssue → Bool) : Bool :=
  match Claims.blockWord i 0 with
  | some x => issuesB s [demoT] && runsB s i demoT demoW && !s.nearPoisoned 0x40 x.size && p (x.check s (blockOp s i x) demoW)
  | none => false
theorem witness_MatrixIssue : (∀ e ∈ blockCases, blockRuns (nearWith 0x40 e.2 ownSlots) e.1 goes = true)
    ∧ (∀ e ∈ blockCases, blockRuns (nearWith 0x40 (List.replicate 32 0xFF) ownSlots) e.1 isParam = true) := by
  refine ⟨?_, ?_⟩ <;> simp only [blockCases, List.forall_mem_cons, List.not_mem_nil, false_imp_iff, implies_true, and_true] <;> decide +kernel

/-! Completions -/

def opOf (i : Instr) : Op := { newOp i 0 demoW 0 (.threads [(demoT.ref, 0)]) 0x210000 false (some 2) with hd := some [(demoT.ref, 1)] }
def heldT : Thread := { demoT with h := [(1, .pending 1)], ops := [1], batches := [(0, 1)] }
def opState (o : Op) : State := { setT heldT demo with ops := [(1, o)], issue := none, nextId := 2 }
def copyOp (d : CpyDir) (a b : Word) : Op := { opOf (.cpy 1 2 1 2 d .b16) with args := [a, b] }
theorem witness_CopyCompletes : (∀ e ∈ [(CpyDir.gn, (0x10 : Word), (0x40 : Word)), (.ng, 0x40, 0x10), (.nn, 0x40, 0x50), (.gg, 0x10, 0x20)],
      let o := copyOp e.1 e.2.1 e.2.2
      let s := opState o
      s.copyGroup 1 o e.1 = [(1, o)] ∧ (∃ x, s.copySide o (e.1 == .ng || e.1 == .nn) (o.args.getD 0 0) 16 false = .ok x ∧ Claims.sidePoisoned s x 16 = false)
      ∧ ∃ x, s.copySide o (e.1 == .gn || e.1 == .nn) (o.args.getD 1 0) 16 true = .ok x)
    ∧ (let o := copyOp .gn 0 0x40
       ∃ x, (poisoned (opState o)).copySide o false 0 16 false = .ok x ∧ Claims.sidePoisoned (poisoned (opState o)) x 16 = true) := by
  simp only [List.forall_mem_cons, List.not_mem_nil, false_imp_iff, implies_true, and_true]
  refine ⟨⟨⟨rfl, ⟨_, rfl, ?_⟩, _, rfl⟩, ⟨rfl, ⟨_, rfl, ?_⟩, _, rfl⟩, ⟨rfl, ⟨_, rfl, ?_⟩, _, rfl⟩, rfl, ⟨_, rfl, ?_⟩, _, rfl⟩, _, rfl, ?_⟩ <;> decide +kernel
def goneOp : Op := { copyOp .gn 0 0x40 with canceled := true }
theorem witness_CopyCompletes_canceled : Tbl.find (opState goneOp).ops 1 = some goneOp ∧ (opState goneOp).copyGroup 1 goneOp .gn = [(1, goneOp)]
    ∧ goneOp.canceled = true := ⟨rfl, rfl, rfl⟩
def bookOp : Op := opOf (.cbook 1 2 1 .b4 3)
def isRead (r : Except (DWord × AccessErr) (List Byte × State)) : Bool :=
  match r with
  | .ok x => x.1.length == 1024
  | .error _ => false
theorem isRead_some {r : Except (DWord × AccessErr) (List Byte × State)} (h : isRead r = true) : ∃ b s, r = .ok (b, s) ∧ b.length = 1024 := by
  cases r with
  | error _ => simp [isRead] at h
  | ok x => exact ⟨x.1, x.2, rfl, by simpa [isRead] using h⟩
theorem witness_CodebookAndMulticast_book : Tbl.find (opState bookOp).ops 1 = some bookOp
    ∧ (opState bookOp).tableFree 1 bookOp (fun i => loadsTable 3 i || readsTable 3 i) = true
    ∧ (((opState bookOp).core 0).book 3).owner = none ∧ bookOp.base.toNat % 128 = 0
    ∧ ∃ b s, (opState bookOp).readVa 0 (some 0) bookOp.base (256 * 4) = .ok (b, s) ∧ b.length = 1024 :=
  ⟨rfl, by decide +kernel, by decide +kernel, by decide +kernel, isRead_some (by decide +kernel)⟩
def member (next : Nat) (st : Byte) : MemberSt := { index := 0, wg := 0, gen := demoW.gen, epoch := demoW.epoch, dst := 0x2000, next := next, status := st }
def cpymOp (m : MemberSt) : Op := { opOf (.cpym 1 2 1 2 true) with block := cpymBlock, members := [m] }
theorem witness_CodebookAndMulticast_line : (cpymOp (member 1 0)).canceled = false ∧ 1 < cpymLines cpymBlock
    ∧ (opState (cpymOp (member 1 0))).checkNear 0 false (BitVec.ofNat 32 (cpymSrc cpymBlock)) (cpymLen cpymBlock) 16 = .ok (0x1000, 0)
    ∧ (opState (cpymOp (member 1 0))).nearPoisoned (0x1000 + 128 * 1) (min 128 (cpymLen cpymBlock - 128 * 1)) = false
    ∧ (opState (cpymOp (member 1 0))).wg 0 = some demoW ∧ demoW.gen = (member 1 0).gen ∧ demoW.epoch = (member 1 0).epoch ∧ (cpymOp (member 1 0)).rows = [] ∧ demoW.preempt = none :=
  ⟨rfl, by decide +kernel, rfl, by decide +kernel, rfl, rfl, rfl, rfl, rfl⟩
theorem witness_CodebookAndMulticast_end : ∀ st ∈ [(0 : Nat), 8], let m := member 2 (BitVec.ofNat 8 st)
    cpymStatv (cpymOp m).block = false ∧ (m.status = 0 → cpymLines cpymBlock ≤ m.next) ∧ (cpymOp m).failed = 0
    ∧ Tbl.find (opState (cpymOp m)).ops 1 = some (cpymOp m) := by decide +kernel
/-- Every line of the source has been read. -/
def readOp (m : MemberSt) : Op := { cpymOp m with rows := (List.range (cpymLines cpymBlock)).map (fun k => (k, [])) }
theorem witness_CodebookAndMulticast_read : ∀ st ∈ [(0 : Nat), 8], (∀ k, k < cpymLines cpymBlock →
    (Tbl.find (readOp (member 2 (BitVec.ofNat 8 st))).rows k).isSome = true)
    ∧ Tbl.find (opState (readOp (member 2 (BitVec.ofNat 8 st)))).ops 1 = some (readOp (member 2 (BitVec.ofNat 8 st))) := by decide +kernel
/-- The source passes the end of the allocation, and the only member has failed. -/
def lostOp : Op := { cpymOp (member 0 0x0A) with block := (leBytes 4 0xFFFFF0) ++ cpymBlock.drop 4 }
theorem witness_CodebookAndMulticast_lost : lostOp.rows = [] ∧ 0 < cpymLines lostOp.block ∧ cpymStatv lostOp.block = false
    ∧ Tbl.find (opState lostOp).ops 1 = some lostOp ∧ (member 0 0x0A).status ≠ 0 := by decide +kernel
theorem witness_CodebookAndMulticast_gone : ∃ e, (opState lostOp).checkNear 0 false (BitVec.ofNat 32 (cpymSrc lostOp.block)) (cpymLen lostOp.block) 16
    = .error e := ⟨_, rfl⟩

/-! Tags and slots -/

/-- The mask v8:v9 is tags 0 and 2; tag 2 has an operation pending. -/
def tagState (clear : Bool) : State :=
  coreState { demoC 0x20007F with tags := if clear then [(0, { count := 0, clear := true }), (2, { count := 1, clear := false })] else
    [(2, { count := 1, clear := false })] } (setL { demoL with tagMask := 7 } demo)
def quietT : Thread := { demoT with v := [(2, 0x40), (8, 5)] }
theorem witness_TagWords : (∀ i ∈ [Instr.twany 8, .tffr 1 8, .tclr 8, .hcan 1], runsB (tagState false) i demoT demoW = true)
    ∧ issuesB (tagState false) [demoT] = true ∧ (tagState false).tagsIn demoW (demoT.getPair 8) = true ∧ demoT.getPair 8 ≠ 0
    ∧ runsB (coreState (demoC 0x20007F) (tagState false)) (.twall 8) demoT demoW = true
    ∧ runsB (tagState true) (.tffr 1 8) demoT demoW = true
    ∧ (let s := setL { demoL with tagMask := 1 } demo
       issuesB s [demoT] = true ∧ s.tagsIn demoW (demoT.getPair 8) = false ∧ runsB s (.twany 8) demoT demoW = true
       ∧ runsB s (.twall 8) demoT demoW = true) := by decide +kernel
def oclmState (x : SlotState) : State := coreState (coreWith [.free, x]) demo
theorem witness_SlotWords : (∀ x ∈ [SlotState.free, .claimed 1, .claimed 0], issuesB (oclmState x) [demoT] = true
      ∧ runsB (oclmState x) (.oclm 3) demoT demoW = true ∧ ((oclmState x).core 0).claims = []
      ∧ (((oclmState x).core 0).slot 1).state = x)
    ∧ runsB ownSlots (.orel 0xFF) demoT demoW = true ∧ issuesB ownSlots [demoT] = true ∧ (ownSlots.core 0).claims = []
    ∧ (∀ k, k < 8 → ((ownSlots.core 0).slot k).owner = some 0)
    ∧ runsB (oclmState (.claimed 1)) (.orel 2) demoT demoW = true := by decide +kernel
def oldOp : Op := { opOf (.old 1 2 1 2 0) with block := [0, 0, 0, 0, 0, 1, 0, 0, 1] ++ List.replicate 7 0 }
def oldState : State := coreState (coreWith [.filling 0 1]) (opState oldOp)
def noErrors (r : List SideErr × List (List Byte) × State) : Bool := r.1.isEmpty
theorem noErrors_some {r : List SideErr × List (List Byte) × State} (h : noErrors r = true) : ∃ ls s, r = ([], ls, s) := by
  obtain ⟨a, b, c⟩ := r
  exact ⟨b, c, by simpa [noErrors] using h⟩
theorem witness_SlotWords_fill : Tbl.find oldState.ops 1 = some oldOp ∧ oldOp.torn = [] ∧ (∀ e ∈ oldState.ops, e.1 < 1 → isOld e.2.instr = false)
    ∧ ((oldState.core 0).slot 0).state = .filling 0 1
    ∧ ∃ ls s, oldState.spansRead oldOp (oldOp.block.getD 8 0 == 1)
        ((List.range 64).map (fun i => (bytesAt oldOp.block 0 4 + i * bytesAt oldOp.block 4 4, 256))) = ([], ls, s) :=
  ⟨rfl, rfl, by decide +kernel, by decide +kernel, noErrors_some (by decide +kernel)⟩
end Sys2Proof.Tests
end

