-- ==== Sys2Proof/Tests/Witness4.lean ====
section
/-! SUPPORT. States and operands that meet the hypotheses of the statements about the matrix engine, MV and fields. -/
set_option Elab.async false
namespace Sys2Proof.Tests
open Sys2Proof Sys2Proof.Machine

def nearAnswer (r : Except NearError (Nat × Nat)) : Option (Nat × Nat) :=
  match r with
  | .ok x => some x
  | .error _ => none
theorem nearOk {r : Except NearError (Nat × Nat)} {x : Nat × Nat} (h : nearAnswer r = some x) : r = .ok x := by
  cases r <;> simp_all [nearAnswer]

/-! The matrix engine -/

def aczOp : Op := { opOf (.acz 1 2 1 2) with block := [0, 16] ++ List.replicate 14 0 }
def accldOp : Op := { opOf (.accld 1 2 1 2) with block := [0, 1, 0, 0, 0, 0, 0, 0, 0, 0, 0, 0, 1, 0, 0, 0] }
def mmaOp (ov : Bool) : Op :=
  { opOf (.mma 1 2 1 2 ov) with block := [2, 2, 1, 1, 0, 0, 0, 0, 1, 0, 0, 0, 0, 0, 16, 0] ++ List.replicate 16 0, reason := if ov then 1 else 0 }
theorem witness_MatrixResults : (∀ o ∈ [aczOp, accldOp, mmaOp true, mmaOp false], Tbl.find (opState o).ops 1 = some o
      ∧ (opState o).wg o.wg = some demoW ∧ o.torn = [])
    ∧ blk aczOp.block 0 + blk aczOp.block 1 ≤ demoW.acc.length
    ∧ (blk accldOp.block 0 < demoW.acc.length ∧ blk accldOp.block 1 = 1 ∧ blk accldOp.block 2 = 0 ∧ blk accldOp.block 12 = 1
      ∧ (opState accldOp).nearPoisoned 0 32768 = false)
    ∧ (∀ ov, (opState (mmaOp ov)).mmaTurn 1 (mmaOp ov) = true ∧ 0 < mmaMa (mmaOp ov).block ∧ 0 < mmaNb (mmaOp ov).block
      ∧ blk (mmaOp ov).block 12 + mmaMa (mmaOp ov).block * mmaNb (mmaOp ov).block ≤ demoW.acc.length) := by
  simp only [List.forall_mem_cons, List.not_mem_nil, false_imp_iff, implies_true, and_true]
  refine ⟨⟨⟨?_, ?_, ?_⟩, ⟨?_, ?_, ?_⟩, ⟨?_, ?_, ?_⟩, ?_, ?_, ?_⟩, ?_, ?_, ?_⟩ <;> decide +kernel
theorem witness_MatrixResults_near : (opState accldOp).checkNear 0 false (BitVec.ofNat 32 (bytesAt accldOp.block 4 4)) 32768 16 = .ok (0, 0) :=
  nearOk (by decide +kernel)
theorem witness_MatrixResults_slots : ∀ k, (((opState (mmaOp true)).core 0).slot k).damaged = false := fun _ => rfl
/-- Words of even parity everywhere, and one of wrong parity in tile 0. -/
theorem witness_MatrixResults_parity : (∀ k, demoW.badWord (mmaOp true) k 64 64 = false)
    ∧ (let w := { demoW with acc := demoW.acc.set 0 { epoch := 0, cells := [(0, 1)] } }
       let s := setW w (opState (mmaOp false))
       s.wg 0 = some w ∧ s.mmaTurn 1 (mmaOp false) = true ∧ 0 < mmaMa (mmaOp false).block * mmaNb (mmaOp false).block
       ∧ w.badWord (mmaOp false) (blk (mmaOp false).block 12 + 0) 64 64 = true) := by
  refine ⟨fun k => ?_, by decide +kernel⟩
  have h : (demoW.tile k).cells = [] := by
    by_cases hk : k < 16
    · interval_cases k <;> rfl
    · simp [Workgroup.tile, demoW, List.getD, hk]
  simp [Workgroup.badWord, h]
def cmpkBlock : List Byte := List.replicate 16 0 ++ [1, 0, 8, 0, 2, 0, 0, 0, 16] ++ List.replicate 7 0
def cmpkOp (s : State) : Op :=
  { s.threadOp (.cmpkSparse 1 2 2) demoT demoW 0 with block := s.nearLoad 0x40 32, pa := (demoT.getV 2).toNat }
def countOp : Op := { opOf (.cmpkSparse 1 2 2) with block := cmpkBlock, phase := 4, issuer := .threads [], tag := none }
def countState : State := nearWith 0 (List.replicate 64 1) { demo with ops := [(1, countOp)], issue := none, nextId := 2 }
def counts (r : Except SideErr (List (List (Nat × Nat)) × Bool)) (cap : Nat) : Bool :=
  match r with
  | .ok x => decide ((x.1.map List.length).foldl (· + ·) 0 ≤ min cap 65536)
  | .error _ => false
theorem counts_some {r : Except SideErr (List (List (Nat × Nat)) × Bool)} {cap : Nat} (h : counts r cap = true) :
    ∃ rows nv, r = .ok (rows, nv) ∧ (rows.map List.length).foldl (· + ·) 0 ≤ min cap 65536 := by
  cases r with
  | error _ => simp [counts] at h
  | ok x => exact ⟨x.1, x.2, rfl, by simpa [counts] using h⟩
theorem witness_CountPass : (let s := nearWith 0x40 cmpkBlock demo
      issuesB s [demoT] = true ∧ runsB s (.cmpkSparse 1 2 2) demoT demoW = true ∧ s.nearPoisoned 0x40 32 = false
      ∧ goes (pruneCheck none s (cmpkOp s) demoW) = true)
    ∧ (Tbl.find countState.ops 1 = some countOp ∧ countOp.phase = 4 ∧ countOp.hd = some [(demoT.ref, 1)] ∧ countOp.issuer = .threads []
      ∧ countOp.core = demoW.core ∧ countState.thread demoT.ref = some demoT ∧ countState.wgOf demoT.ref = some demoW ∧ countState.traps = []
      ∧ 1 ≠ countState.nextId ∧ demoT.active = false) := by
  refine ⟨by decide +kernel, ?_⟩
  decide +kernel
theorem witness_CountPass_rows : ∃ rows nv, countState.sparseRows countOp = .ok (rows, nv)
    ∧ (rows.map List.length).foldl (· + ·) 0 ≤ min (bytesAt countOp.block 24 4) 65536 := counts_some (by decide +kernel)

/-! MV -/

def mvBlock (off : Nat) : List Byte := leBytes 8 off ++ List.replicate 4 0 ++ [16, 0, 16, 0, 2, 0, 0, 1] ++ List.replicate 12 0
def mvOp (mode : MvMode) (base : DWord) (phase : Nat) : Op :=
  { opOf (.mv 1 2 1 2 true mode) with base := base, block := mvBlock 0, phase := phase }
def doneOp (failed : Nat) : Op :=
  { mvOp .bank 0x200000 3 with outRows := List.range 16, rows := (mvRowList (mvBlock 0)).map (fun r => (r, [BitVec.ofNat 35 r])), failed := failed }
theorem witness_MvStages : (∀ o ∈ [mvOp .bank 0x200000 0, { mvOp .core 0x200000 0 with canceled := true }, mvOp .bank 0x0100000000000000 0,
      mvOp .bank 0x200001 0, mvOp .bank 0x200000 2, mvOp .bank 0x200000 3, doneOp 0, doneOp 6], Tbl.find (opState o).ops 1 = some o ∧ o.torn = [])
    ∧ (∀ m ∈ [MvMode.core, .bank], let o := mvOp m 0x200000 0
        let wa := o.base + BitVec.ofNat 64 (bytesAt o.block 0 8)
        let b := o.block
        o.canceled = false ∧ fieldOf wa 63 56 = 0 ∧ wa.toNat % 2 ^ 21 = 0
        ∧ ((mvRow0 b + mvRows b - 1) / 512 + 1) * mvRb b ≤ 4096 ∧ (opState o).mvRanges o = none)
    ∧ (let o := mvOp .bank 0x0100000000000000 0; fieldOf (o.base + BitVec.ofNat 64 (bytesAt o.block 0 8)) 63 56 ≠ 0)
    ∧ (let o := mvOp .bank 0x200001 0; fieldOf (o.base + BitVec.ofNat 64 (bytesAt o.block 0 8)) 63 56 = 0
        ∧ (o.base + BitVec.ofNat 64 (bytesAt o.block 0 8)).toNat % 2 ^ 21 ≠ 0)
    ∧ (let o := mvOp .bank 0x200000 3
       o.jobs.contains 0 = false ∧ mvUnitRows o.block 0 ≠ [] ∧ (opState o).unitHeld (o.pa / 2 ^ 37 % 4 * 512 + 0) = false
       ∧ (let o := { o with jobs := [0] }; o.jobs.contains (0 % 512) = true ∧ (mvRowList o.block).contains 0 = true ∧ o.outRows.contains 0 = false))
    ∧ (∀ f ∈ [0, 6], (doneOp f).phase = 3 ∧ (doneOp f).mvAll = true ∧ (doneOp f).failed = f
       ∧ (doneOp f).rows = (mvRowList (doneOp f).block).map (fun r => (r, [BitVec.ofNat 35 r])) ∧ mvB (doneOp f).block = 1
       ∧ mvYaddr (doneOp f).block + (mvRows (doneOp f).block + 63) / 64 ≤ demoW.acc.length) := by
  refine ⟨?_, ?_, ?_, ?_, ?_, ?_⟩
  · simp only [List.forall_mem_cons, List.not_mem_nil, false_imp_iff, implies_true, and_true]
    refine ⟨⟨?_, ?_⟩, ⟨?_, ?_⟩, ⟨?_, ?_⟩, ⟨?_, ?_⟩, ⟨?_, ?_⟩, ⟨?_, ?_⟩, ⟨?_, ?_⟩, ?_, ?_⟩ <;> decide +kernel
  all_goals decide +kernel
theorem witness_MvStages_page : (opState (mvOp .bank 0x200000 0)).translate 0 (some 0) 0x200000 = .ok (at_ 0x200000) ∧ (at_ 0x200000).r = true
    ∧ (at_ 0x200000).cc = true := ⟨rfl, rfl, rfl⟩
def okBytes (r : Except Byte (List Byte)) : Bool :=
  match r with
  | .ok _ => true
  | .error _ => false
theorem okBytes_some {r : Except Byte (List Byte)} (h : okBytes r = true) : ∃ bs, r = .ok bs := by
  cases r with
  | error _ => simp [okBytes] at h
  | ok x => exact ⟨x, rfl⟩
theorem witness_MvStages_x : ∃ bs, (opState (mvOp .bank 0x200000 2)).mvReadX (mvOp .bank 0x200000 2) = .ok bs := okBytes_some (by decide +kernel)

/-! Fields -/

/-- A near field of one axis of 8 FP32 entries at 0x80, nearest; kind and format as given. -/
def fieldDesc (kind fmt : Byte) : List Byte :=
  leBytes 8 0x80 ++ [kind, fmt, 0, 1, 0, 0, 0, 0] ++ leBytes 2 7 ++ List.replicate 14 0 ++ leBytes 4 0x3F800000 ++ List.replicate 28 0
def demoF (fmt : Byte) : Field := { desc := fieldDesc 0 fmt, near := true, origin := 0x40 }
def globalDesc (kind : Byte) : State := { demo with mem := Memory.writeN [] 0x210000 (fieldDesc kind 0) }
theorem witness_FieldBind : (∀ k ∈ [(0 : Nat), 3], let s := globalDesc (BitVec.ofNat 8 k)
      issuesB s [demoT] = true ∧ runsB s (.fbind 2 1 20) demoT demoW = true ∧ demoW.sPair 1 + (demoT.getV 20).zeroExtend 64 = 0x210000
      ∧ s.memPoisoned 0x210000 64 = false
      ∧ ({ desc := Claims.l1Bytes s 0x210000 64 0 (at_ 0x210000).cp, near := false, origin := 0x210000 } : Field).ok = decide (k = 0))
    ∧ (∀ k ∈ [(0 : Nat), 3], let s := nearWith 0x40 (fieldDesc (BitVec.ofNat 8 k) 0) demo
      issuesB s [demoT] = true ∧ runsB s (.fbindNear 2 2) demoT demoW = true ∧ s.nearPoisoned 0x40 64 = false
      ∧ ({ desc := s.nearLoad 0x40 64, near := true, origin := BitVec.ofNat 64 (0x40 - nearKey demoW.core demoW.base) } : Field).ok = decide (k = 0)) := by
  decide +kernel
theorem witness_FieldBind_addresses : Claims.GlobalOk (globalDesc 0) demoW 0x210000 64 (at_ 0x210000) ∧ (at_ 0x210000).r = true
    ∧ (at_ 0x210000).poison = false ∧ (at_ 0x210000).pa % 128 + 64 ≤ 128 ∧ demo.checkNear 0 false 0x40 64 64 = .ok (0x40, 0) :=
  ⟨globalOk (by decide +kernel), rfl, rfl, by decide +kernel, rfl⟩
/-- The descriptor in another workgroup of the team. -/
def foreignT : Thread := { demoT with v := [(2, 0x10000)] }
def foreignState : State := { setT foreignT demo with wgs := [(0, demoW), (1, { demoW with base := 65536, log := 1 })] }
theorem witness_FieldBind_foreign : foreignState.Issues [foreignT] ∧ foreignState.Runs (.fbindNear 2 2) foreignT demoW
    ∧ foreignState.checkNear 0 false (foreignT.getV 2) 64 64 = .ok (0x10000, 1) ∧ foreignState.nearPoisoned 0x10000 64 = false :=
  ⟨issues (by decide +kernel), runs (by decide +kernel), rfl, by decide +kernel⟩
def fieldW (fmt : Byte) : Workgroup := { demoW with fields := [(2, demoF fmt)] }
def fieldState (fmt : Byte) : State := setW (fieldW fmt) demo
/-- The tap of coordinate v20, which is 0. -/
def demoTap (value : Word) : Tap := { idx := 0, near := true, addr := 0x80, va := 0x80, cp := 0, poison := false, value := value }
theorem witness_FieldLoads : demo.Issues [demoT] ∧ (∀ g : Bool, runsB demo (if g then .fldg 1 20 2 else .fld 1 20 2) demoT demoW = true)
    ∧ Tbl.find demoW.fields 2 = none
    ∧ (fieldState 0).Issues [demoT] ∧ (∀ g : Bool, runsB (fieldState 0) (if g then .fldg 1 20 2 else .fld 1 20 2) demoT (fieldW 0) = true)
    ∧ Tbl.find (fieldW 0).fields 2 = some (demoF 0)
    ∧ (∀ k, (fieldState 0).withTaps demoT (fieldW 0) (demoF 0) false
        ((((demoF 0).tapsOf (demoT.coords 20 (demoF 0).dims)).getD []).filterMap (fun x => x.entry.map (fun e => (x.idx, e, (0 : Word))))) [] k
        = k [demoTap 0] (fieldState 0)) ∧ (fieldState 0).CoresOnly (fieldState 0) :=
  ⟨issues (by decide +kernel), by decide +kernel, rfl, issues (by decide +kernel), by decide +kernel, rfl, fun _ => rfl, rfl⟩
def fieldReq (g : Bool) (x : Word) : Req :=
  { newReq demoT demoW (.field g) false 0 0 0 with dest := 1, seq := 1, field := some (demoF 0), args := [x], taps := [demoTap 0] }
theorem witness_FieldLoads_reply : (∀ g, ∀ x ∈ [0, 8], let q := fieldReq g (BitVec.ofNat 32 (x * 0x0FF00000))
      Tbl.find (reqState loadT q).reqs 0 = some q ∧ (reqState loadT q).thread q.thread = some loadT ∧ (reqState loadT q).wg 0 = some demoW)
    ∧ (demoF 0).tapsOf [0x7F800000] = none ∧ (∃ l, (demoF 0).tapsOf [0] = some l) ∧ ∀ x ∈ (fieldReq true 0).taps, x.near = true :=
  ⟨by decide +kernel, rfl, ⟨_, rfl⟩, by decide +kernel⟩
def splatL (det cap : Nat) : Launch := { demoL with det := det, splatCap := cap }
/-- v20 not finite. -/
def nanT : Thread := { demoT with v := [(6, 3), (20, 0x7FC00000)] }
theorem witness_Splats : (∀ e ∈ [(2, 0, 0), (0, 0, 0), (0, 1, 0), (0, 1, 4)], let s := setL (splatL e.2.1 e.2.2) (fieldState (BitVec.ofNat 8 e.1))
      let w := fieldW (BitVec.ofNat 8 e.1)
      issuesB s [demoT] = true ∧ runsB s (.fspl 6 20 2) demoT w = true ∧ (Tbl.find w.fields 2).isSome = true
      ∧ s.launchOf w = some (splatL e.2.1 e.2.2) ∧ s.splatRoom w.launch (splatL e.2.1 e.2.2) = e.2.2)
    ∧ (let s := setT nanT (fieldState 0); issuesB s [nanT] = true ∧ runsB s (.fspl 6 20 2) nanT (fieldW 0) = true) := by decide +kernel
theorem witness_Splats_taps : (demoF 0).tapsOf (nanT.coords 20 (demoF 0).dims) = none ∧ (demoF 2).fmt ≠ 0 ∧ (demoF 0).fmt = 0
    ∧ ∃ taps x, (demoF 0).tapsOf (demoT.coords 20 (demoF 0).dims) = some taps
      ∧ (∀ k, (fieldState 0).withTaps demoT (fieldW 0) (demoF 0) true (splatParts taps (ofFp32 (demoT.getV 6))).1 [] k = k [x] (fieldState 0))
      ∧ (fieldState 0).CoresOnly (fieldState 0) ∧ x.near = true :=
  ⟨rfl, by decide +kernel, rfl, _, demoTap 3, rfl, fun _ => rfl, rfl, rfl⟩
def splatReq (near : Bool) : Req :=
  { newReq demoT demoW .splat near (if near then 0x80 else 0x210080) 0x210080 4 with args := [3, 1], seq := 1 }
def logReq : Req := { newReq demoT demoW .splatLog false 0 0 0 with taps := [demoTap 3], args := [0, 1], seq := 1 }
theorem witness_Splats_apply : (∀ near, let q := splatReq near
      let s := reqState storeT q
      Tbl.find s.reqs 0 = some q ∧ s.thread q.thread = some storeT ∧ s.wg q.thread.wg = some demoW ∧ s.inOrder 0 q = true ∧ s.splatTurn 0 q = true ∧ s.homePoisoned q = false
      ∧ ∀ e ∈ s.reqs, e.1 ≠ 0 → e.2.thread = q.thread → e.2.kind = .splat → e.2.seq ≠ q.seq)
    ∧ Tbl.find (reqState storeT logReq).reqs 0 = some logReq ∧ (reqState storeT logReq).thread logReq.thread = some storeT
    ∧ (reqState storeT logReq).wgOf logReq.thread = some demoW ∧ (reqState storeT logReq).launchOf demoW = some demoL
    ∧ (reqState storeT logReq).logTurn 0 logReq = true := by decide +kernel
end Sys2Proof.Tests
end

