-- ==== Sys2Proof/Tests/Witness5.lean ====
section
/-! SUPPORT. States and operands that meet the hypotheses of the statements about choreography, device-side launches, queues,
collectives, images and hints. -/
set_option Elab.async false
namespace Sys2Proof.Tests
open Sys2Proof Sys2Proof.Machine

/-! Choreography -/

/-- An open instance of team 0 whose stream starts at 0x21_0000, and a thread in role 0 of it. -/
def demoSt : Stream := { addr := 0x210000, drift := 2, nch := 2, channels := [], records := [], roles := [], wgRoles := [], aborted := none }
def actT : Thread := { demoT with role := 0x80000000, chorRes := 0x200040 }
def withStream (st : Stream) (s : State) : State := { s with streams := [(teamKey 1 0, st)] }
def actState (t : Thread) (st : Stream) : State := withStream st (setT t demo)
theorem atControl {s : State} {t : Thread} {w : Workgroup} {st : Stream} (h : s.live t.ref.wg = [t] ∧ s.wgOf t.ref = some w
    ∧ t.role.getLsbD 31 = true ∧ t.depth ≤ t.chorDep ∧ t.inRun = false ∧ t.orphan = none
    ∧ Tbl.find s.streams (teamKey w.launch (teamIndex (w.team t.roleSlot))) = some st ∧ st.aborted = none) : Claims.AtControl s t w st :=
  ⟨⟨h.2.1, h.2.2.1, h.2.2.2.1, h.2.2.2.2.1, h.2.2.2.2.2.1, h.2.2.2.2.2.2.1, h.2.2.2.2.2.2.2⟩, h.1⟩
def headerState : State := { demo with mem := Memory.writeN [] 0x210000 (leBytes 4 0xF4000002) }
theorem witness_StreamEntry : demo.Issues [demoT] ∧ demo.Runs (.chor 1 1) demoT demoW ∧ (demoW.team 1).getLsbD 31 = false
    ∧ (demoW.team 0).getLsbD 31 = true
    ∧ (actState actT demoSt).Issues [actT] ∧ (actState actT demoSt).Runs (.chor 0 1) actT demoW ∧ actT.inRun = false
    ∧ headerState.Issues [demoT] ∧ headerState.Runs (.chor 0 1) demoT demoW ∧ demoT.role.getLsbD 31 = false
    ∧ (∃ x ∈ headerState.boundMembers 1 0, x.kind = 0 ∧ x.dev = headerState.mgmt.orbitDev.toNat ∧ x.index = demoW.log)
    ∧ fieldOf (demoW.sPair 1) 63 56 = 0 ∧ fieldOf (demoW.sPair 1) 1 0 = 0
    ∧ fieldOf (demoT.pc + 4) 55 34 = fieldOf (fieldOf (demoW.sPair 1) 55 0 : Pc) 55 34
    ∧ Tbl.find headerState.streams (teamKey 1 0) = none ∧ headerState.memPoisoned 0x210000 4 = false
    ∧ (let h : Word := BitVec.ofNat 32 (leNat (headerState.memRead 0x210000 4))
       fieldOf h 31 26 = 0x3D ∧ fieldOf h 25 12 = 0 ∧ fieldOf h 7 4 = 0 ∧ fieldOf h 3 0 ≠ 0)
    ∧ (withStream demoSt demo).Issues [demoT] ∧ (withStream demoSt demo).Runs (.chor 0 1) demoT demoW := by
  refine ⟨issues ?_, runs ?_, ?_, ?_, issues ?_, runs ?_, ?_, issues ?_, runs ?_, ?_, ?_, ?_, ?_, ?_, ?_, ?_, ?_, issues ?_, runs ?_⟩ <;>
    decide +kernel
theorem witness_StreamEntry_page : headerState.tlbLook 0 0 0x210000 = some (at_ 0x210000) ∧ (at_ 0x210000).x = true ∧ (at_ 0x210000).poison = false
    ∧ headerState.linkLost (at_ 0x210000).pa = false ∧ peerRefuses (at_ 0x210000).pa = false := by decide +kernel
def demoRole : RoleSt :=
  { kind := 1, unit := 0, host := 0, pc := 0x210004, e := [], loops := [], hint := none, ops := [], marks := [], pushes := [], runHi := 0, runLo := 0,
    atEnd := false, stall := .none }
def roleSt : Stream := { demoSt with roles := [(1, demoRole)] }
/-- A copy unit is bound to role 1. -/
def roleState : State := setL { demoL with teams := [(0, [demoM, { demoM with role := 1, kind := 1 }])] } (actState actT roleSt)
theorem witness_StreamEntry_epset : roleState.Elects (.epset 1 3 6) [actT] actT demoW
    ∧ Claims.AtControl roleState actT demoW roleSt ∧ Tbl.find roleSt.roles 1 = some demoRole
    ∧ ∃ m ∈ roleState.boundMembers 1 0, m.kind ≠ 0 ∧ m.role = 1 :=
  ⟨elects (by decide +kernel) (by decide +kernel), atControl (by decide +kernel), by decide +kernel, by decide +kernel⟩
/-- In a run. -/
def cueT : Thread := { actT with runLo := 0x200000, runHi := 0x200010 }
theorem witness_CueWords : demo.Runs (.cue 1 4) demoT demoW ∧ demoT.role.getLsbD 31 = false
    ∧ (actState cueT demoSt).Issues [cueT] ∧ (actState cueT demoSt).Runs (.cue 1 4) cueT demoW ∧ cueT.inRun = true ∧ cueT.depth ≤ cueT.chorDep
    ∧ (actState actT demoSt).Runs (.cue 1 4) actT demoW ∧ (actState actT demoSt).Runs (.cue 2 4) actT demoW
    ∧ Claims.AtControl (actState actT demoSt) actT demoW demoSt ∧ actT.pc.toNat + 4 * 1024 < 2 ^ 56 ∧ actT.handler = false
    ∧ (1 : BitVec 16).getLsbD actT.roleNo = true ∧ (2 : BitVec 16).getLsbD actT.roleNo = false := by
  refine ⟨runs ?_, ?_, issues ?_, runs ?_, ?_, ?_, runs ?_, runs ?_, atControl ?_, ?_, ?_, ?_, ?_⟩ <;> decide +kernel
def loopT (r : Nat) : Thread := { actT with loops := [{ pc := actT.pc, remaining := r }] }
theorem witness_LoopsAndEnd : (actState actT demoSt).Issues [actT] ∧ Claims.AtControl (actState actT demoSt) actT demoW demoSt
    ∧ (∀ i ∈ [Instr.cloop 1 1, .cloop 3 1, .cloopReg 6 1, .cloopReg 20 1], runsB (actState actT demoSt) i actT demoW = true)
    ∧ (demoW.getS 6).toNat = 2 ∧ (demoW.getS 20).toNat = 0 ∧ actT.loops = [] ∧ demoSt.records = [] ∧ Tbl.find demoSt.wgRoles 0 = none
    ∧ (∀ r ∈ [1, 2], issuesB (actState (loopT r) demoSt) [loopT r] = true ∧ runsB (actState (loopT r) demoSt) (.cloop 3 1) (loopT r) demoW = true
      ∧ (loopT r).loops = [{ pc := (loopT r).pc, remaining := r }])
    ∧ (actState actT demoSt).Runs .cend actT demoW ∧ (actState actT demoSt).boundMembers 1 0 = [demoM] ∧ demoM.kind = 0
    ∧ demoM.dev = (actState actT demoSt).mgmt.orbitDev.toNat ∧ (actState actT demoSt).resident 1 demoM.index = some 0 ∧ demoSt.roles = [] := by
  refine ⟨issues ?_, atControl ?_, ?_, ?_, ?_, ?_, ?_, ?_, ?_, runs ?_, ?_, ?_, ?_, ?_, ?_⟩ <;> decide +kernel
theorem witness_LoopsAndEnd_loop : ∀ r ∈ [1, 2], Claims.AtControl (actState (loopT r) demoSt) (loopT r) demoW demoSt := by
  simp only [List.forall_mem_cons, List.not_mem_nil, false_imp_iff, implies_true, and_true]
  exact ⟨atControl (by decide +kernel), atControl (by decide +kernel)⟩
/-- Two bound roles; the channel of the second direction holds a token. -/
def pairL : Launch := { demoL with teams := [(0, [demoM, { demoM with role := 1, index := 1 }])] }
def tokenSt : Stream := { demoSt with channels := [(1, { pair := some (1, 0), posted := 1, taken := 0, tokens := [{ payload := some 7, status := 0 }] })] }
/-- A token without a payload. -/
def bareSt : Stream := { demoSt with channels := [(1, { pair := some (1, 0), posted := 1, taken := 0, tokens := [{ payload := none, status := 0 }] })] }
def bareState : State := setL pairL (actState actT bareSt)
def handState : State := setL pairL (actState actT tokenSt)
theorem witness_HandOver : handState.Issues [actT] ∧ Claims.AtControl handState actT demoW tokenSt
    ∧ (∀ i ∈ [Instr.hand 0 2 3 .none 0, .hand 0 0 1 .none 0, .hand 0 0 1 .value 6, .hand 0 0 1 .buffer 2, .hand 1 1 0 .none 0, .hand 1 1 0 .value 6,
        .hand 1 1 0 .buffer 2], runsB handState i actT demoW = true)
    ∧ actT.roleNo = 0 ∧ 1 < tokenSt.nch ∧ handState.isBound 1 0 0 = true ∧ handState.isBound 1 0 1 = true ∧ Tbl.find tokenSt.wgRoles 0 = none
    ∧ Tbl.find tokenSt.channels 0 = none ∧ 0 < 0 + tokenSt.drift := by
  refine ⟨issues ?_, atControl ?_, ?_, ?_, ?_, ?_, ?_, ?_, ?_, ?_⟩ <;> decide +kernel
theorem witness_HandOver_bare : bareState.Issues [actT] ∧ Claims.AtControl bareState actT demoW bareSt
    ∧ bareState.Runs (.hand 1 1 0 .value 6) actT demoW ∧ bareState.isBound 1 0 0 = true ∧ bareState.isBound 1 0 1 = true := by
  refine ⟨issues ?_, atControl ?_, runs ?_, ?_, ?_⟩ <;> decide +kernel
theorem witness_HandOver_buffer : ∃ r, handState.checkNear actT.ref.wg false (actT.getV 2) 1 1 = .ok r := ⟨_, rfl⟩

/-! Launches from threads -/

def packet2 : List Byte := [2, 0, 0, 0, 1, 0, 0, 0] ++ List.replicate 56 0
def launchOp : Op := { opOf (.launch 1 2 1 2 true) with args := [0x40] }
def launchState (q : Queue) : State := nearWith 0x40 packet2 { opState launchOp with queues := [(0, q)] }
def devQ : Queue := { demoQ with dev := true, ring := 0x300 }
theorem witness_LaunchAppends : demo.Runs (.launch 1 2 1 2 true) demoT demoW ∧ demo.Runs (.launch 1 2 1 20 false) demoT demoW
    ∧ (∀ q ∈ [demoQ, devQ, { devQ with ring := 0xFFFFFFFFFF }], let s := launchState q
      Tbl.find s.ops 1 = some launchOp ∧ launchOp.block = [] ∧ s.nearPoisoned 0x40 64 = false ∧ s.nearRead 0x40 64 = packet2
      ∧ s.queue 0 = q ∧ launchOp.order = 0 ∧ s.launchFirst 1 launchOp 0 = true ∧ s.launchTurn 1 launchOp (packet2.getD 1 0).toNat = true)
    ∧ demoQ.dev = false ∧ packetFields packet2 = true ∧ devQ.owner = some launchOp.part ∧ devQ.dev = true ∧ devQ.en = true ∧ devQ.err = false
    ∧ (devQ.wr - devQ.rd).toNat ≠ 2 ^ devQ.log2.toNat ∧ devQ.slotThere devQ.wr = true
    ∧ ({ devQ with ring := 0xFFFFFFFFFF } : Queue).slotThere devQ.wr = false := by
  refine ⟨runs ?_, runs ?_, ?_⟩ <;> decide +kernel
def sideAnswer (r : Except SideErr Side) : Option Side :=
  match r with
  | .ok x => some x
  | .error _ => none
theorem sideOk {r : Except SideErr Side} {x : Side} (h : sideAnswer r = some x) : r = .ok x := by
  cases r <;> simp_all [sideAnswer]
theorem witness_LaunchAppends_side : ∀ q, q = demoQ ∨ q = devQ ∨ q = { devQ with ring := 0xFFFFFFFFFF } →
    (launchState q).copySide launchOp true (launchOp.args.getD 0 0) 64 false = .ok (.near 0x40) := by
  rintro _ (rfl | rfl | rfl) <;> exact sideOk (by decide +kernel)
def gcReq (inc : Word) : Req := { newReq demoT demoW .gcinc false 0 0 0 with dest := 1, seq := 1, args := [inc] }
theorem witness_GroupCount : demo.Runs (.gcinc 1 6) demoT demoW ∧ (∀ g ∈ [1, 4], let q := gcReq 3
      let s := setL { demoL with gmax := g } (reqState loadT q)
      Tbl.find s.reqs 0 = some q ∧ (∀ e ∈ s.reqs, e.1 < 0 → e.2.kind ≠ .gcinc) ∧ s.thread q.thread = some loadT ∧ s.wgOf q.thread = some demoW
      ∧ s.launchOf demoW = some { demoL with gmax := g })
    ∧ 1 < demoL.groups + (3 : Word).toNat ∧ demoL.groups + (3 : Word).toNat ≤ 4 ∧ demoL.progress ≠ 2 := by
  refine ⟨runs ?_, ?_⟩ <;> decide +kernel

/-! Queues -/

def qdescBytes : List Byte := leBytes 8 0x211000 ++ leBytes 4 16 ++ leBytes 4 0 ++ leBytes 4 0 ++ leBytes 4 5 ++ leBytes 4 5 ++ List.replicate 36 0
def qReq (push : Bool) : Req :=
  { newReq demoT demoW (if push then .push else .pop) false 0 0x210000 0 with args := if push then [7] else [], dest := 10 }
def qT : Thread := { demoT with stall := .request 0 }
def qState (push : Bool) : State :=
  tabled 0x20007F { reqState qT (qReq push) with mem := Memory.writeN (Memory.writeN [] 0x210000 qdescBytes) 0x211028 (leBytes 4 9 ++ leBytes 4 21) }
def looks (r : QueueStep) (p : QDesc → Word → Bool) : Bool :=
  match r with
  | .go _ d t _ => p d t
  | _ => false
theorem looks_some {r : QueueStep} {p : QDesc → Word → Bool} (h : looks r p = true) : ∃ s d t e, r = .go s d t e ∧ p d t = true := by
  cases r with
  | go s d t e => exact ⟨s, d, t, e, rfl, h⟩
  | trap _ => simp [looks] at h
  | wait => simp [looks] at h
theorem witness_Queues : demo.Runs (.qpush 10 6 1) demoT demoW ∧ demo.Runs (.qpop 10 1) demoT demoW
    ∧ (∀ push, let s := qState push
      Tbl.find s.reqs 0 = some (qReq push) ∧ s.peerOps = [] ∧ (∀ x ∈ s.reqs, x.1 = 0) ∧ s.traps = [] ∧ s.thread (qReq push).thread = some qT
      ∧ qT.ref = (qReq push).thread ∧ s.wgOf (qReq push).thread = some demoW ∧ s.launchOf demoW = some demoL ∧ qT.outLd = [] ∧ qT.outSt = [])
    ∧ (qReq true).kind = .push ∧ (qReq false).kind = .pop := by
  refine ⟨runs ?_, runs ?_, ?_⟩ <;> decide +kernel
theorem witness_Queues_look : ∀ push, ∃ s d t e, (qState push).queueLook (qReq push) demoW demoL = .go s d t e
    ∧ (d.entry t == 0x211028) = true := by
  intro push
  cases push <;> exact looks_some (p := fun d t => d.entry t == 0x211028) (by decide +kernel)
/-- Whether the walks for the entry and for PUSHC, and the store of the entry, succeed after the look. -/
def storesB (r : QueueStep) (q : Req) : Bool :=
  match r with
  | .go s d t _ =>
    (match (s.queueOut 0 q).translate 0 none (d.entry t).toNat, (s.queueOut 0 q).writeVa 0 none (d.entry t) (leBytes 4 7 ++ leBytes 4 (t.toNat % 2 ^ 30 * 4 + 1)) (some 0) with
    | .ok x, .ok s1 => x.w && decide (fieldOf (d.entry t) 63 56 = 0) && decide ((d.entry t).toNat % 8 = 0)
      && (match s1.translate 0 none (q.va + 20).toNat with
        | .ok y => y.w && !s1.linkLost y.pa && !peerRefuses y.pa && decide (y.pa + 4 ≤ x.pa)
        | .error _ => false)
    | _, _ => false)
  | _ => false
theorem stores {r : QueueStep} {q : Req} (h : storesB r q = true) : ∃ s d t e x s1 y, r = .go s d t e
    ∧ (s.queueOut 0 q).translate 0 none (d.entry t).toNat = .ok x ∧ x.w = true
    ∧ (s.queueOut 0 q).writeVa 0 none (d.entry t) (leBytes 4 7 ++ leBytes 4 (t.toNat % 2 ^ 30 * 4 + 1)) (some 0) = .ok s1
    ∧ s1.translate 0 none (q.va + 20).toNat = .ok y ∧ y.w = true ∧ s1.linkLost y.pa = false ∧ peerRefuses y.pa = false
    ∧ fieldOf (d.entry t) 63 56 = 0 ∧ (d.entry t).toNat % 8 = 0 ∧ y.pa + 4 ≤ x.pa := by
  unfold storesB at h
  split at h
  · split at h
    · split at h
      · rename_i h1 h2 _ _ h3
        simp only [Bool.and_eq_true, decide_eq_true_eq, Bool.not_eq_true'] at h
        exact ⟨_, _, _, _, _, _, _, rfl, h1, h.1.1.1, h2, h3, h.2.1.1.1, h.2.1.1.2, h.2.1.2, h.1.1.2, h.1.2, h.2.2⟩
      · simp at h
    · simp at h
  · simp at h
theorem witness_Queues_store : (qReq true).args = [7] ∧ demoL.det = 0 ∧ demoL.part = 0 ∧ demoW.core = 0
    ∧ fieldOf ((qReq true).va + 20) 63 56 = 0 ∧ (qReq true).va.toNat % 64 = 0
    ∧ storesB ((qState true).queueLook (qReq true) demoW demoL) (qReq true) = true := by decide +kernel
theorem witness_Queues_stored : ∃ s d t e x s1 y, (qState true).queueLook (qReq true) demoW demoL = .go s d t e
    ∧ (s.queueOut 0 (qReq true)).translate 0 none (d.entry t).toNat = .ok x ∧ x.w = true
    ∧ (s.queueOut 0 (qReq true)).writeVa 0 none (d.entry t) (leBytes 4 7 ++ leBytes 4 (t.toNat % 2 ^ 30 * 4 + 1)) (some 0) = .ok s1
    ∧ s1.translate 0 none ((qReq true).va + 20).toNat = .ok y ∧ y.w = true ∧ s1.linkLost y.pa = false ∧ peerRefuses y.pa = false
    ∧ fieldOf (d.entry t) 63 56 = 0 ∧ (d.entry t).toNat % 8 = 0 ∧ y.pa + 4 ≤ x.pa := stores (by decide +kernel)
def oddReq : Req := { qReq false with va := 0x210008 }
theorem witness_Queues_unaligned : Tbl.find (reqState qT oddReq).reqs 0 = some oddReq ∧ oddReq.kind = .pop ∧ oddReq.va.toNat % 64 ≠ 0
    ∧ (reqState qT oddReq).thread oddReq.thread = some qT ∧ (reqState qT oddReq).traps = [] := by decide +kernel

/-! Collectives, images, hints -/

def collBlock : List Byte := leBytes 4 0x1000 ++ leBytes 4 0x2000 ++ leBytes 4 16 ++ List.replicate 4 0
theorem witness_Collectives : ∀ i ∈ [Instr.ared 1 2 2, .agath 1 2 2, .bcast 1 2 2], let s := nearWith 0x40 collBlock demo
    let b := s.nearLoad 0x40 16
    issuesB s [demoT] = true ∧ runsB s i demoT demoW = true ∧ s.launchOf demoW = some demoL ∧ s.nearPoisoned 0x40 16 = false
    ∧ (demoW.team (blk b 13 % 4)).getLsbD 31 = true ∧ collOk (collKind i) (ranksOf demoL 0).length b = true := by decide +kernel
def collOp (i : Instr) : Op := { opOf i with block := collBlock }
def collState (i : Instr) : State := { opState (collOp i) with colls := [(collKey 1 0 0, { ops := [(0, 1)] })] }
theorem witness_Collectives_end : ∀ i ∈ [Instr.ared 1 2 2, .agath 1 2 2, .bcast 1 2 2], (collState i).launch 1 = some demoL
    ∧ Tbl.get [] demoL.teams 0 = [demoM] ∧ demoM.kind = 0 ∧ demoM.dev = (collState i).mgmt.orbitDev.toNat ∧ demoL.retired = []
    ∧ Tbl.find (collState i).colls (collKey 1 0 0) = some { ops := [(demoM.index, 1)] } ∧ Tbl.find (collState i).ops 1 = some (collOp i)
    ∧ (collOp i).failed = 0 ∧ collLen (collOp i).block % 4 = 0 ∧ blk (collOp i).block 14 = 0 ∧ (collState i).nearPoisoned 0x1000 16 = false := by decide +kernel
theorem witness_Collectives_ranges : (collState (.ared 1 2 2)).checkNear 0 false 0x1000 16 16 = .ok (0x1000, 0)
    ∧ (collState (.ared 1 2 2)).checkNear 0 false 0x2000 16 16 = .ok (0x2000, 0) := ⟨rfl, rfl⟩
def imageBytes : List Byte := List.replicate 39 0 ++ [1] ++ List.replicate 88 0
def imageT (busy : Bool) : Thread := { demoT with handler := true, hclass := 0x14, v := [(2, 0x40)], outSt := if busy then [1] else [], nst := 1 }
def imageState (busy : Bool) : State :=
  nearWith 0x40 imageBytes { demo with threads := [(refKey demoT.ref, imageT busy), (refKey secondT.ref, secondT)] }
theorem witness_Images : (∀ busy, issuesB (imageState busy) [imageT busy] = true ∧ (imageT busy).handler = true
      ∧ runsB (imageState busy) (.dsav 2) (imageT busy) demoW = true ∧ (imageT busy).busyImage = busy)
    ∧ runsB (imageState false) (.drst 2) (imageT false) demoW = true ∧ (imageState false).nearPoisoned 0x40 128 = false
    ∧ imageOk demoW 0 ((imageState false).nearLoad 0x40 128) = true := by decide +kernel
theorem witness_Images_near : ∀ busy, (imageState busy).checkNear 0 true 0x40 128 16 = .ok (0x40, 0) := by
  intro b
  cases b <;> exact nearOk (by decide +kernel)
def hintT : Thread := { demoT with hint := some { first := 0x1FFFFC, imm := some 5, pred := none, ipf := true, sched := none, rmode := none } }
theorem witness_HintRuns : demo.wgOf demoT.ref = some demoW ∧ demoT.inRun = false
    ∧ (∀ i ∈ [Instr.imm 1, .pred 1 true, .ipf 2 6, .sched true 4, .rmode 1], Claims.isHint i = true
      ∧ (Claims.joined i { first := demoT.pc, imm := none, pred := none, ipf := false, sched := none, rmode := none }).isSome = true)
    ∧ issuesB (setT hintT demo) [hintT] = true ∧ (setT hintT demo).wgOf hintT.ref = some demoW ∧ hintT.inRun = false
    ∧ (∀ r, hintT.hint = some r → Claims.joined (.imm 1) r = none) ∧ (hintT.hint.bind (Claims.joined (.sched true 4))).isSome = true := by
  refine ⟨by decide +kernel, by decide +kernel, by decide +kernel, by decide +kernel, by decide +kernel, by decide +kernel, ?_, by decide +kernel⟩
  intro r h
  simp only [hintT, Option.some.injEq] at h
  subst h
  rfl
end Sys2Proof.Tests
end

