-- ==== Sys2Proof/Tests/Witness6.lean ====
section
/-! SUPPORT. States and operands that meet the hypotheses of the statements about issue groups, pre-emption, packets, the dispatcher
and the ends of launches. -/
set_option Elab.async false
namespace Sys2Proof.Tests
open Sys2Proof Sys2Proof.Machine

/-! Issue groups, turns, lines -/

theorem demo_keyed : demo.Keyed := ⟨by decide +kernel, by decide +kernel⟩
theorem witness_IssueGroups : demo.Keyed ∧ (∃ t ∈ demo.quarterThreads 0 0, demo.threadReady t = true)
    ∧ (∀ t ∈ demo.quarterThreads 0 0, demo.threadReady t = true → t.yield = false)
    ∧ ((demo.quarterThreads 0 0).filter demo.threadReady).length ≤ 256 :=
  ⟨demo_keyed, by decide +kernel, by decide +kernel, by decide +kernel⟩
def engineState : State := withStream roleSt demo
def fetchT : Thread := { demoT with stall := .fetch }
theorem witness_TurnEvents : engineState.roleAt 1 0 1 = some (demoRole, 0, demoW) ∧ engineState.engineReady 1 0 1 = true
    ∧ (∀ h ∈ [0, 1], let t := { demoT with holdoff := h }; (setT t demo).thread t.ref = some t ∧ t.holdoff ≤ 1)
    ∧ (setT fetchT demo).thread fetchT.ref = some fetchT ∧ (setT fetchT demo).wgOf fetchT.ref = some demoW ∧ clusterOf demoW.core = 0
    ∧ (setT fetchT demo).tlbLook 0 0 fetchT.pc.toNat = some (at_ 0x200000) ∧ (at_ 0x200000).pa / 128 = 0x4000 := by decide +kernel
theorem witness_TurnEvents_keyed : (setT fetchT demo).Keyed := ⟨by decide +kernel, by decide +kernel⟩
def ownedState : State := { demo with owners := [(0x4200, 3)] }
theorem witness_LinesMove_room : ∀ qd, (ownedState.l2.filter (fun e => quadOf e.1 == qd)).length + (ownedState.core 1).release.length ≤ l2Lines :=
  fun _ => by simp [ownedState, demo, State.reset, State.core, Tbl.get, Tbl.find, CoreSt.reset]
theorem witness_LinesMove : Tbl.find ownedState.owners 0x4200 = some 3 := rfl

/-! Pre-emption -/

def demoPre : Preempt := { since := 0, byPolicy := false, taken := false, live := 0 }
def preW : Workgroup := { demoW with preempt := some demoPre }
theorem witness_PreemptionPoints : demo.Runs (.ppt 4) demoT demoW ∧ demoW.preempt = none
    ∧ (setW preW demo).Issues [demoT] ∧ (setW preW demo).Runs (.ppt 4) demoT preW ∧ preW.preempt = some demoPre ∧ demoT.handler = false
    ∧ (setW preW demo).holdsMx 0 preW = true
    ∧ (let w := { preW with tiles := 0 }; (setW w demo).Runs (.ppt 4) demoT w ∧ (setW w demo).holdsMx 0 w = false)
    ∧ (let s := setW preW (setT handT demo); s.Issues [handT] ∧ s.Runs (.ppt 4) handT preW ∧ handT.handler = true) := by
  refine ⟨runs ?_, ?_, issues ?_, runs ?_, ?_, ?_, ?_, ⟨runs ?_, ?_⟩, issues ?_, runs ?_, ?_⟩ <;> decide +kernel
/-- Queue 1 has credit and a workgroup to start; queue 0 is in debt. -/
def policyState : State :=
  { demo with queues := [(0, { demoQ with deficit := BitVec.ofInt 64 (-1) }), (1, { demoQ with deficit := 1 })],
              launches := [(1, demoL), (2, { demoL with queue := 1, next := 0 })] }
theorem witness_PreemptionRequests : demo.serves (.vf 0) 0 = true ∧ (setW preW demo).serves (.vf 0) 0 = true ∧ (∀ s ∈ [demo, setW preW demo], Tbl.risingFrom 0 s.wgs = true ∧ s.launch (fieldOf (1 : DWord) 31 0).toNat = some demoL)
    ∧ demoL.part = 0 ∧ (∃ g w, demo.wg g = some w ∧ w.launch = 1 ∧ w.preempt = none)
    ∧ policyState.wg 0 = some demoW ∧ policyState.launchOf demoW = some demoL ∧ (policyState.queue 1).owner = some demoL.part
    ∧ 0 < (policyState.queue 1).deficit.toInt ∧ (policyState.queueStart 1).isSome = true ∧ demoL.progress = 0
    ∧ (policyState.queue demoL.queue).deficit.toInt < 0 ∧ demoW.preempt = none ∧ 0 ≤ (demo.queue demoL.queue).deficit.toInt := by
  refine ⟨by decide +kernel, by decide +kernel, ?_, by decide +kernel, ⟨0, demoW, by decide +kernel⟩, ?_⟩
  · simp only [List.forall_mem_cons, List.not_mem_nil, false_imp_iff, implies_true, and_true]
    refine ⟨⟨?_, ?_⟩, ?_, ?_⟩ <;> decide +kernel
  · decide +kernel
def pointT : Thread := { demoT with stall := .point }
def trapState : State := setW preW (setT pointT { demo with issue := none })
theorem witness_PreemptionTraps : trapState.wg 0 = some preW ∧ trapState.launchOf preW = some demoL ∧ trapState.traps = [] ∧ trapState.reqs = []
    ∧ trapState.thread pointT.ref = some pointT ∧ pointT.exited = false
    ∧ (∀ e ∈ trapState.threads, e.2.ref.wg = 0 → e = (refKey pointT.ref, pointT)) ∧ (trapState.core preW.core).claims = []
    ∧ trapState.canPreempt 0 preW = true ∧ demoL.tvec ≠ 0 ∧ demoL.saveArea preW.log = 0x204000 ∧ frameAddr demoL preW 0 = 0x202000
    ∧ trapState.tlbLook demoL.part 0 0x204000 = some (at_ 0x204000) ∧ (at_ 0x204000).w = true ∧ trapState.linkLost (at_ 0x204000).pa = false
    ∧ peerRefuses (at_ 0x204000).pa = false ∧ (at_ 0x204000).poison = false ∧ trapState.memPoisoned (at_ 0x204000).pa 64 = false
    ∧ (trapState.tlb1 0 (0x204000 / 4096)).isSome = true ∧ pointT.saved = false ∧ peerRefuses (at_ 0x202000).pa = false
    ∧ trapState.tlbLook demoL.part 0 0x202000 = some (at_ 0x202000) ∧ (at_ 0x202000).w = true ∧ trapState.linkLost (at_ 0x202000).pa = false
    ∧ (at_ 0x202000).poison = false ∧ trapState.memPoisoned (at_ 0x202000).pa 64 = false ∧ (at_ 0x202000).pa + 64 ≤ (at_ 0x204000).pa := by
  decide +kernel
def boundW : Workgroup := { plainW with preempt := some demoPre }
def boundState (cyc : Nat) : State := setW boundW { demo with issue := none, cores := [(0, { demoC 0x20007F with cyc := BitVec.ofNat 64 cyc })] }
theorem witness_PreemptionBound : (∀ c ∈ [2 ^ 24, 5], let s := boundState c
      s.wg 0 = some boundW ∧ s.launchOf boundW = some demoL ∧ s.traps = [] ∧ s.reqs = [] ∧ (∀ e ∈ s.ops, e.2.wg ≠ 0)
      ∧ (∃ t ∈ s.live 0, t.unstopped = true))
    ∧ demoL.dq = [] ∧ (boundState (2 ^ 24)).mgmt.preBound ≤ ((boundState (2 ^ 24)).core 0).cyc.toNat - demoPre.since
    ∧ ((boundState 5).core 0).cyc.toNat - demoPre.since < (boundState 5).mgmt.preBound := by decide +kernel
theorem witness_PreemptionBound_teams : ∀ m ∈ boundW.teams, teamValid m = false := by simp [boundW, plainW, teamValid]

/-! Packets -/

theorem witness_Doorbell : demo.serves (.vf 0) 0 = true ∧ (demo.queue 0).owner = some 0 ∧ (demo.queue 0).en = true ∧ (demo.queue 0).dev = false ∧ (demo.queue 0).err = false
    ∧ (let w : BitVec 16 := fieldOf (0x00030000 : Word) 31 16
       let q := demo.queue (fieldOf (0x00030000 : Word) 7 0).toNat
       (q.wr - q.rd).toNat ≤ (w - q.rd).toNat ∧ (w - q.rd).toNat ≤ 2 ^ q.log2.toNat)
    ∧ (let w : BitVec 16 := fieldOf (0x00110000 : Word) 31 16
       let q := demo.queue (fieldOf (0x00110000 : Word) 7 0).toNat
       2 ^ q.log2.toNat < (w - q.rd).toNat)
    ∧ (demo.queue 1).owner ≠ some 0 := by decide +kernel
/-- A packet of `groups` workgroups with a kernel at 0x21_1000, a record at 0x21_2000 and a dependence at dep, if that is not 0. -/
def packet1 (flags : Byte) (groups dep : Nat) (rec : Nat) : List Byte :=
  [1, 0, if dep = 0 then 0 else 1, flags] ++ leBytes 4 groups ++ leBytes 8 0x211000 ++ leBytes 8 5 ++ leBytes 8 rec ++ leBytes 8 dep ++ List.replicate 24 0
def kernelBytes (progress : Byte) : List Byte :=
  leBytes 8 0x200000 ++ [8, 1, 16, 0] ++ leBytes 4 0 ++ leBytes 2 8 ++ [progress, 0] ++ leBytes 8 0 ++ List.replicate 36 0
def packetMem (progress : Byte) (b : List Byte) : Memory :=
  let m := Memory.writeN [] 0x211000 (kernelBytes progress)
  let m := Memory.writeN m 0x212020 (leBytes 4 0x10000)
  let m := Memory.writeN m 0x213000 (leBytes 4 2)
  let m := Memory.writeN m 0x213100 (leBytes 4 1)
  Memory.writeN m 0x300000 b
def demoPk (b : List Byte) : Packet := { bytes := b, after := some 1, read := none, met := 0, broke := false }
def packetState (progress : Byte) (flags : Byte) (groups dep rec : Nat) (held : Bool) : State :=
  let b := packet1 flags groups dep rec
  tabled 0x20007F { demo with
    queues := [(0, { demoQ with ring := 0x300, wr := 1, packet := if held then some (demoPk b) else none })]
    mem := packetMem progress b }
theorem witness_PacketsAdmitted_read : ((packetState 0 0 1 0 0x212000 true).queue 0).packet ≠ none
    ∧ (∀ rec ∈ [0x212000, 0x900000], let s := packetState 0 0 1 0 rec false
      let q := s.queue 0
      q.owner = some 0 ∧ q.en = true ∧ q.err = false ∧ q.packet = none ∧ q.rd ≠ q.wr ∧ q.slotThere q.rd = true
      ∧ s.recordThere 0 (packetRecord (s.memRead (q.slotAddr q.rd) 64)) = decide (rec = 0x212000))
    ∧ (let q : Queue := { demoQ with ring := 0xFFFFFFFFFF, wr := 1 }; q.rd ≠ q.wr ∧ q.slotThere q.rd = false) := by decide +kernel
/-- Whether the packet in hand describes a launch with p in the state in which the dispatcher has read it, and its dependences
stand as d. -/
def parsesB (s : State) (b : List Byte) (d : DepState) (p : State → Launch → Bool) : Bool :=
  let r := s.readOnce 0 0 (demoPk b)
  (match r.1 with
    | some l => p r.2 (r.2.numbered l)
    | none => false) && (r.2.deps 0 0 (demoPk b)).1 == d && decide ((s.queue 0).owner = some 0) && decide ((s.queue 0).packet = some (demoPk b))
theorem parses {s : State} {b : List Byte} {d : DepState} {p : State → Launch → Bool} (h : parsesB s b d p = true) :
    (s.queue 0).owner = some 0 ∧ (s.queue 0).packet = some (demoPk b) ∧ ∃ l0, (s.readOnce 0 0 (demoPk b)).1 = some l0
      ∧ p (s.readOnce 0 0 (demoPk b)).2 ((s.readOnce 0 0 (demoPk b)).2.numbered l0) = true
      ∧ ((s.readOnce 0 0 (demoPk b)).2.deps 0 0 (demoPk b)).1 = d := by
  unfold parsesB at h
  simp only [Bool.and_eq_true, beq_iff_eq, decide_eq_true_eq] at h
  obtain ⟨⟨⟨h1, h2⟩, h3⟩, h4⟩ := h
  split at h1
  · rename_i l hl
    exact ⟨h3, h4, l, hl, h1, h2⟩
  · simp at h1
/-- The cases of admission: too few cores, no room at all, more workgroups than fit together, and admission. -/
def fits (s : State) (l : Launch) : Bool := !l.test && s.coresOk l
def noCores (s : State) : State := { s with online := 0 }
def fewCores (s : State) : State := { s with mem := Memory.writeN s.mem 0x212024 (leBytes 4 9) }
theorem witness_PacketsAdmitted : ((packetState 0 0 0 0 0x212000 true).readOnce 0 0 (demoPk (packet1 0 0 0 0x212000))).1 = none
    ∧ ((packetState 0 0 0 0 0x212000 true).queue 0).packet = some (demoPk (packet1 0 0 0 0x212000))
    ∧ parsesB (fewCores (packetState 0 0 1 0 0x212000 true)) (packet1 0 1 0 0x212000) (.complete true) (fun m l => !m.coresOk l) = true
    ∧ (∀ e ∈ [(0x900000, DepState.unreadable), (0x213200, .pending)],
        parsesB (packetState 0 0 1 e.1 0x212000 true) (packet1 0 1 e.1 0x212000) e.2 fits = true)
    ∧ parsesB (packetState 0 1 1 0x213000 0x212000 true) (packet1 1 1 0x213000 0x212000) (.complete false) fits = true
    ∧ blk (packet1 1 1 0x213000 0x212000) 3 % 2 = 1
    ∧ parsesB (packetState 0 1 1 0x213100 0x212000 true) (packet1 1 1 0x213100 0x212000) (.complete true)
        (fun m l => fits m l && !l.cores.isEmpty && capacityF (m.part 0) l.shape != 0 && l.progress == 0) = true
    ∧ blk (packet1 1 1 0x213100 0x212000) 3 / 2 % 2 = 0
    ∧ parsesB (packetState 0 2 1 0 0x212000 true) (packet1 2 1 0 0x212000) (.complete true) fits = true
    ∧ blk (packet1 2 1 0 0x212000) 3 / 2 % 2 = 1 ∧ ((demoPk []).after.bind demo.launch).isSome = true
    ∧ parsesB (noCores (packetState 0 0 1 0 0x212000 true)) (packet1 0 1 0 0x212000) (.complete true) (fun m l => fits m l && l.cores.isEmpty) = true
    ∧ parsesB (packetState 2 0 5000 0 0x212000 true) (packet1 0 5000 0 0x212000) (.complete true)
        (fun m l => fits m l && capacityF (m.part 0) l.shape != 0 && l.progress == 2 && decide (m.capacity l < l.groups)) = true := by
  decide +kernel
/-- Whether an engine's access of the record succeeds, for a refusal that is written. -/
def reaches (r : Except (Nat × Nat) Xlate) (p : Xlate → Bool) : Bool :=
  match r with
  | .ok x => p x
  | .error _ => false
theorem reaches_some {r : Except (Nat × Nat) Xlate} {p : Xlate → Bool} (h : reaches r p = true) : ∃ x, r = .ok x ∧ p x = true := by
  cases r with
  | error _ => simp [reaches] at h
  | ok x => exact ⟨x, rfl, h⟩
theorem witness_PacketsAdmitted_record : ∃ x, (packetState 0 0 0 0 0x212000 true).translate 0 none 0x212000 = .ok x
    ∧ (x.w && !peerRefuses x.pa && !(packetState 0 0 0 0 0x212000 true).linkLost x.pa) = true := reaches_some (by decide +kernel)

/-! The dispatcher -/

def visitL (next : Nat) (x : List SavedWg) : Launch := { demoL with acc := 0, groups := 2, next := next, saved := x }
def visitState (l : Launch) (q : Queue) : State := { setL l demo with queues := [(0, q)], wgs := [(0, { demoW with tiles := 0 })] }
def visitAt : Placement := { core := 0, quarter := 0, lane := 8, near := 65536 }
theorem witness_QueueVisits : (∀ q ∈ [demoQ, { demoQ with packet := some (demoPk []) }, { demoQ with deficit := BitVec.ofInt 64 (-2 ^ 20) }],
      let s := visitState (visitL 2 []) q
      (s.queue 0).owner = some 0 ∧ s.nextVisit 0 = some 0 ∧ s.traps = [] ∧ (s.part 0).reserve = none ∧ (s.queue 0).err = false
      ∧ s.queueHead 0 = none ∧ (q.packet = none ∨ (s.queue 0).packet ≠ none))
    ∧ (let s := visitState { visitL 1 [] with serial := true } demoQ
      (s.queueHead 0).isSome = true ∧ s.queueStart 0 = none ∧ s.nextVisit 0 = some 0)
    ∧ (∀ d ∈ [(0 : Int), -2 ^ 20], let s := visitState (visitL 1 []) { demoQ with deficit := BitVec.ofInt 64 d }
      s.queueStart 0 = some (1, visitL 1 [], .fresh) ∧ (s.taskPlace 1 (visitL 1 []) (.fresh (visitL 1 []).next)).isSome = true ∧ s.nextVisit 0 = some 0
      ∧ (s.part 0).reserve = none
      ∧ ((s.queue 0).deficit.toInt + (s.queue 0).quantum.toNat * 1024 ≤ 0 ↔ d < 0)
      ∧ s.fitsAt 1 (visitL 1 []) (visitL 1 []).next false (visitL 1 []).shape 0 0 visitAt = true ∧ s.launch 1 = some (visitL 1 [])
      ∧ (visitL 1 []).width * (visitL 1 []).depth ≤ 512) := by
  refine ⟨?_, by decide +kernel, by decide +kernel⟩
  simp only [List.forall_mem_cons, List.not_mem_nil, false_imp_iff, implies_true, and_true]
  refine ⟨?_, ?_, ?_⟩ <;> decide +kernel
def savedWg : SavedWg := { id := 5, wg := { demoW with tiles := 0, log := 1 }, tids := [0, 3], books := [] }
def saveHeader : Header :=
  { shape := { width := 8, depth := 1, nregs := 128, calls := 8, near := 65536, tiles := 0 }, bars := 0, books := 0, slots := 0, live := 0, version := 1,
    zeros := true }
def restoreState (b : List Byte) : State := tabled 0x20007F { visitState (visitL 2 [savedWg]) demoQ with mem := Memory.writeN [] 0x204000 b }
theorem witness_Restores : ∀ b ∈ [saveHeader.bytes, []], let s := restoreState b
    let l := visitL 2 [savedWg]
    s.launches.find? (fun e => e.2.saved.any (fun y => y.id == 5)) = some (1, l) ∧ s.launch 1 = some l ∧ (s.queue 0).owner = some 0
    ∧ s.nextVisit 0 = some 0 ∧ s.traps = [] ∧ (s.part 0).reserve = none ∧ (s.queue 0).err = false ∧ s.queueStart 0 = some (1, l, .restore savedWg)
    ∧ (s.restoreReasons l 1 (s.headerAt l savedWg).1 = 0 ↔ b ≠ [])
    ∧ (b ≠ [] → (s.taskPlace 1 l (.restore savedWg (s.headerAt l savedWg).1)).isSome = true ∧ 0 < (s.queue 0).credit
      ∧ s.fitsAt 1 l 1 true (s.headerAt l savedWg).1.shape (s.headerAt l savedWg).1.slots (fieldOf (s.headerAt l savedWg).1.books 3 0) visitAt = true)
    ∧ l.tvec ≠ 0 ∧ savedWg.wg.fields = [] ∧ ∀ i ∈ savedWg.tids, i < 512 := by
  simp only [List.forall_mem_cons, List.not_mem_nil, false_imp_iff, implies_true, and_true]
  refine ⟨?_, ?_⟩ <;> decide +kernel

/-! The ends of launches, the self-test -/

def overState (l : Launch) : State := tabled 0x20007F { setL l demo with wgs := [], threads := [], issue := none }
/-- Whether the record is written after the counts, at the page that the walk finds. -/
def recordsB (l : Launch) : Bool :=
  let s := l.cores.foldl (fun s c => s.releaseCore c) (overState l)
  reaches (s.translate l.part none l.record.toNat) (fun x => x == at_ 0x201000)
  && (match s.writeVa l.part none (l.record + 4) l.counts none with
    | .ok m => reaches (m.translate l.part none l.record.toNat) (fun x => x == at_ 0x201000)
    | .error _ => false)
theorem records {l : Launch} (h : recordsB l = true) :
    (l.cores.foldl (fun s c => s.releaseCore c) (overState l)).translate l.part none l.record.toNat = .ok (at_ 0x201000)
    ∧ ∀ m, (l.cores.foldl (fun s c => s.releaseCore c) (overState l)).writeVa l.part none (l.record + 4) l.counts none = .ok m →
      m.translate l.part none l.record.toNat = .ok (at_ 0x201000) := by
  unfold recordsB at h
  simp only [Bool.and_eq_true] at h
  obtain ⟨h1, h2⟩ := h
  obtain ⟨x, hx, e⟩ := reaches_some h1
  rw [beq_iff_eq] at e
  refine ⟨e ▸ hx, fun m hm => ?_⟩
  rw [hm] at h2
  obtain ⟨y, hy, e⟩ := reaches_some h2
  rw [beq_iff_eq] at e
  exact e ▸ hy
theorem witness_LaunchesComplete : ∀ e ∈ [(0, true), (1, false)], let l := { demoL with failed := e.1, irq := e.2 }
    (overState l).launch 1 = some l ∧ (overState l).launchOver 1 l = true ∧ l.test = false ∧ l.det = 0 ∧ fieldOf l.record 63 56 = 0
    ∧ l.record.toNat % 256 = 0 ∧ recordsB l = true ∧ (at_ 0x201000).w = true
    ∧ (overState l).linkLost (at_ 0x201000).pa = false ∧ peerRefuses (at_ 0x201000).pa = false := by decide +kernel
theorem witness_LaunchesComplete_record : ∀ e ∈ [(0, true), (1, false)], let l := { demoL with failed := e.1, irq := e.2 }
    (l.cores.foldl (fun s c => s.releaseCore c) (overState l)).translate l.part none l.record.toNat = .ok (at_ 0x201000)
    ∧ ∀ m, (l.cores.foldl (fun s c => s.releaseCore c) (overState l)).writeVa l.part none (l.record + 4) l.counts none = .ok m →
      m.translate l.part none l.record.toNat = .ok (at_ 0x201000) :=
  fun e h => records (witness_LaunchesComplete e h).2.2.2.2.2.2.1
theorem witness_LaunchesAbort : demo.serves (.vf 0) 0 = true ∧ demo.serves (.vf 1) 0 = true ∧ demo.launch (1 : Word).toNat = some demoL ∧ demo.traps = [] ∧ demoL.part = 0 ∧ demoL.part ≠ 1 := by decide +kernel
def testL : Launch := { demoL with test := true, mask := 1 }
theorem witness_SelfTests : (overState testL).launches.find? (fun e => e.2.queue == 0 && e.2.test) = some (1, testL)
    ∧ (overState testL).launch 1 = some testL ∧ testL.logicalOf 0 < testL.cores.length ∧ testL.mask.getLsbD (testL.logicalOf 0) = true
    ∧ testL.tested.getLsbD (testL.logicalOf 0) = false ∧ ((overState testL).wgsOn 0).isEmpty = true
    ∧ (∀ e ∈ [(1, 3), (2, 0), (3, 0), (4, 0), (5, 0), (6, 0)], ((overState testL).bank (bankId e.1 e.2)).slots = []) := by decide +kernel
end Sys2Proof.Tests
end

