-- ==== Sys2Proof/Tests/Witness7.lean ====
section
/-! SUPPORT. States and operands that meet the hypotheses of the statements about walks, registers, the host, peers, machine checks and
firmware. -/
set_option Elab.async false
namespace Sys2Proof.Tests
open Sys2Proof Sys2Proof.Machine

/-! Walks, faults, invalidation -/

/-- A tree of four levels at 0x22_0000 with the page of the demo state as its leaf, and the partition that uses it. -/
def treeMem : Memory :=
  let m := Memory.writeN [] 0x220000 (leBytes 8 0x221001)
  let m := Memory.writeN m 0x221000 (leBytes 8 0x222001)
  let m := Memory.writeN m 0x222000 (leBytes 8 0x223001)
  Memory.writeN m 0x223008 (leBytes 8 0x20007F)
def treePart : Partition := { demoP with xltRoot := 0x220001, fqEn := true, fqBase := 0x240000 }
def walkT (page : Nat) : Thread := { demoT with stall := .walk page 0 (BitVec.ofNat 64 (page * 4096)) 0 }
def walkState (page : Nat) : State := setT (walkT page) { demo with mem := treeMem, parts := [(0, treePart)], issue := none }
def leaves (r : Except (Nat × Nat) TlbEntry) : Option TlbEntry :=
  match r with
  | .ok x => some x
  | .error _ => none
theorem leaves_some {r : Except (Nat × Nat) TlbEntry} {x : TlbEntry} (h : leaves r = some x) : r = .ok x := by
  cases r <;> simp_all [leaves]
theorem leaves_none {r : Except (Nat × Nat) TlbEntry} (h : leaves r = none) : ∃ e, r = .error e := by
  cases r <;> simp_all [leaves]
theorem witness_Walks : (∀ page ∈ [512, 2048], let s := walkState page
      Tbl.risingFrom 0 s.threads = true ∧ (∀ e ∈ s.threads, e.1 = refKey e.2.ref) ∧ s.traps = [] ∧ s.thread demoT.ref = some (walkT page)
      ∧ (walkT page).exited = false ∧ s.wgOf demoT.ref = some demoW ∧ s.launchOf demoW = some demoL ∧ demoL.part = 0
      ∧ (∀ u ∈ Tbl.vals s.threads, failKey u = none) ∧ (s.part 0).waits = [] ∧ (s.part 0).fqEn = true ∧ (s.part 0).fqHead + 1 ≠ (s.part 0).fqTail
      ∧ (∀ u ∈ Tbl.vals s.threads, u.ref ≠ demoT.ref → walkKey u = none)
      ∧ (∀ u ∈ Tbl.vals s.threads, s.waitsWalk 0 page u = true → s.quadOfRef u.ref = demoW.core / 64)) := by
  simp only [List.forall_mem_cons, List.not_mem_nil, false_imp_iff, implies_true, and_true]
  refine ⟨?_, ?_⟩ <;> decide +kernel
theorem witness_Walks_leaf : (walkState 512).walk 0 0 (512 * 4096) = .ok (demoE 0x20007F) := leaves_some (by decide +kernel)
theorem witness_Walks_none : ∃ e, (walkState 2048).walk 0 0 (2048 * 4096) = .error e := leaves_none (by decide +kernel)
def faultT : Thread := { demoT with stall := .fault (some 3) 0 0x800000 0x0B 0 }
def demoWait : FaultWait :=
  { index := some 3, va := 0x800000, lanes := 1, launch := 1, wglog := 0, core := 0, quarter := 0, kind := 0, walk := 0x0B, threads := [demoT.ref] }
def faultState : State := setT faultT { demo with parts := [(0, { demoP with waits := [demoWait] })], issue := none }
theorem witness_FaultAnswers : faultState.serves (.vf 0) 0 = true ∧ (faultState.part 0).waiting 4 = none ∧ (faultState.part 0).waiting 3 = some demoWait
    ∧ demoWait.threads = [faultT.ref] ∧ faultState.thread faultT.ref = some faultT := by decide +kernel
def busyPart (busy : Bool) (waits : List Nat) : Partition := { demoP with invBusy := busy, invVa := 0x200000, invWaits := waits }
def invState (busy : Bool) : State := { demo with parts := [(0, busyPart busy [7])], owners := [(0x4200, 3)] }
theorem witness_Invalidations : (∀ e ∈ [((0x1 : Word), (0 : Nat)), (0x13, 1), (0x5, 2)], e.1.getLsbD 0 = true ∧ fieldOf e.1 2 1 = BitVec.ofNat 2 e.2)
    ∧ (∀ busy, ((invState busy).part 0).invBusy = busy ∧ (invState busy).serves (.vf 0) 0 = true)
    ∧ (∀ i ∈ ((invState true).part 0).invWaits, Tbl.find (invState true).reqs i = none ∧ Tbl.find (invState true).ops i = none)
    ∧ (let s := { reqState storeT (storeReq false 0x210000) with parts := [(0, busyPart true [0])] }
       (s.part 0).invBusy = true ∧ ∃ i ∈ (s.part 0).invWaits, Tbl.find s.reqs i ≠ none ∨ Tbl.find s.ops i ≠ none) := by decide +kernel

/-! Registers, the host, peers -/

theorem witness_InterruptRegisters : demo.serves (.vf 0) 0 = true ∧ demo.serves .pf 0 = true ∧ (1 : Word).getLsbD 0 = true := by decide +kernel
def disabled : State := { demo with queues := [(0, { demoQ with en := false })], launches := [] }
theorem witness_RegisterWrites : demo.serves (.vf 0) 0 = true ∧ demo.partLive 0 = true ∧ disabled.serves (.vf 0) 0 = true
    ∧ disabled.partLive 0 = false ∧ (demo.queue 0).owner = some 0 ∧ (demo.queue 0).en = true ∧ (disabled.queue 0).owner = some 0
    ∧ (disabled.queue 0).en = false ∧ (demo.queue 1).owner ≠ some 0 := by decide +kernel
theorem witness_HostAccesses : (∀ fn ∈ [PcieFn.pf, .vf 0], demo.serves fn 2 = true ∧ demo.serves fn 0 = true
      ∧ demo.reaches fn 0x210000 3 = true ∧ demo.memPoisoned 0x210000 3 = false)
    ∧ demo.reaches (.vf 1) 0x210000 3 = false ∧ demo.serves (.vf 1) 2 = true ∧ demo.serves (.vf 8) 2 = false ∧ demo.servesFatal (.vf 8) 2 0 4 = false
    ∧ demo.mgmt.power = true ∧ ({ demo with mgmt := { demo.mgmt with power := false } } : State).mgmt.power = false := by
  decide +kernel
def treeState : State := walkState 512
def peerState : State := { demo with exports := [(3, [(1, 1)])] }
theorem witness_RemoteAtomics : (∀ s ∈ [treeState, demo], s.serves (.vf 0) 2 = true ∧ s.reaches (.vf 0) 0x210000 4 = true
      ∧ s.frameOwner (frameOf 0x210000) = some 0)
    ∧ treeState.saPage 0 0x210000 = true ∧ treeState.memPoisoned 0x210000 4 = false ∧ demo.saPage 0 0x210000 = false
    ∧ (∀ s ∈ [peerState, demo], s.mgmt.bootState = 2 ∧ s.mgmt.fatal = false) ∧ peerState.exported 3 0x210000 4 = true
    ∧ (∀ s ∈ [peerState, demo], s.mgmt.power = true)
    ∧ peerState.memPoisoned 0x210000 4 = false ∧ demo.exported 3 0x210000 4 = false := by
  refine ⟨?_, by decide +kernel, by decide +kernel, by decide +kernel, ?_, by decide +kernel, ?_, by decide +kernel, by decide +kernel⟩ <;>
    simp only [List.forall_mem_cons, List.not_mem_nil, false_imp_iff, implies_true, and_true]
  · refine ⟨⟨?_, ?_, ?_⟩, ?_, ?_, ?_⟩ <;> decide +kernel
  · refine ⟨⟨?_, ?_⟩, ?_, ?_⟩ <;> decide +kernel
  · refine ⟨?_, ?_⟩ <;> decide +kernel
/-- A peer's reservation. -/
def peerHeld : State :=
  { peerState with reserves := [{ home := homeOf 0x210000, peer := some 3, thread := { wg := 0, tid := 9 }, near := false, line := 0x210000 / 128 }] }
theorem witness_RemoteAtomics_held : peerHeld.exported 3 0x210000 4 = true ∧ peerHeld.memPoisoned 0x210000 4 = false
    ∧ (∃ r ∈ peerHeld.reserves, r.peer = some 3 ∧ r.thread.tid = 9 ∧ r.line = 0x210000 / 128)
    ∧ ∀ r ∈ peerState.reserves, ¬ (r.peer = some 3 ∧ r.thread.tid = 9 ∧ r.line = 0x210000 / 128) := by decide +kernel

/-! Machine checks, links, background work, the fatal stop -/

/-- An event: of a DRAM sector of channel 16, a near word, a slot or table of core 0, or the thread's own instruction. -/
def demoEv (x : McPlace) (k : McKind) (c : Bool) : McEvent := { place := x, kind := k, correctable := c }
def lineEv (c : Bool) : McEvent := demoEv (.line 0x210000) (.ecc 9) c
def demoRec (cls : BitVec 2) : McRecord :=
  { seq := 0, cls := cls, source := 0, akind := 0, addr := 0, syndrome := 0, launch := 0, wglog := 0, cyc := 0 }
def bankState (cls : BitVec 2) : State :=
  { demo with banks := [(bankId 0x0C 16, { next := 4, dropped := 0, ovl := false, slots := [(0, demoRec cls)] })] }
theorem witness_MachineCheckRecords : demo.traps = [] ∧ (∀ c, demo.classOf 0x0C 16 (lineEv c) = if c then 1 else 2)
    ∧ demo.classOf 2 0 (demoEv (.near 0 64) (.ecc 9) true) = 1 ∧ (64 : Nat) < 390144
    ∧ (∀ k ∈ [McKind.parity 5 1, .residue 1 2 0 1], demo.classOf 1 0 (demoEv (.thread demoT.ref) k false) = 2)
    ∧ demo.thread demoT.ref = some demoT ∧ demo.wgOf demoT.ref = some demoW ∧ demo.launch demoW.launch = some demoL
    ∧ Tbl.find (demo.bank (bankId 0x0C 16)).slots ((demo.bank (bankId 0x0C 16)).next.toNat % 4) = none
    ∧ (∀ c ∈ [1, 2], let s := bankState (BitVec.ofNat 2 c)
      let b := s.bank (bankId 0x0C 16)
      Tbl.find b.slots (b.next.toNat % 4) ≠ none ∧ b.oldestCorrected = (if c = 1 then some 0 else none)
      ∧ ∀ d, s.classOf 0x0C 16 (lineEv d) = if d then 1 else 2)
    ∧ demo.classOf 0x0C 15 (lineEv true) = 0 ∧ demo.serves .pf 0 = true ∧ 16 < bankCount 0x0C := by decide +kernel
/-- A line that the L1 and the FFU hold clean. -/
def cleanState : State := coreState { demoC 0x20007F with clean := [(0x4200, [])], ffu := [(0x4200, [])] } demo
theorem witness_MachineCheckRecords_caches : cleanState.classOf 3 0 (lineEv true) = 1 ∧ cleanState.classOf 4 0 (lineEv true) = 1 := by decide +kernel
theorem witness_ContainedDamage : demo.traps = [] ∧ demo.reqs = []
    ∧ (∀ e ∈ [(McPlace.line 0x210000, 0x0C, 16), (.near 0 64, 2, 0), (.slot 0 2, 6, 0), (.book 0 1 3, 5, 0)],
      demo.classOf e.2.1 e.2.2 (demoEv e.1 (.ecc 9) false) = 2)
    ∧ isDevice 0x210000 = true ∧ validPa 64 0x210000 = true ∧ demo.isOnline 0 = true
    ∧ (Tbl.find ({ demo with l2 := [(0x4200, false)] } : State).l2 (0x210000 / 128)).isSome = true := by decide +kernel
/-- One route to device 1, through link 2; a store to it in flight, and a copy from it. -/
def linkState : State := { demo with links := [(2, { up := true, budget := 64 })], routes := [(1, [[2]])] }
def peerPa : Nat := 0x4008000210000
def linkStore : State := { linkState with threads := [(refKey demoT.ref, storeT)], reqs := [(0, storeReq false peerPa)], issue := none, nextId := 1 }
def linkCopy : State := { opState (copyOp .gn 0 0x40) with links := linkState.links, routes := linkState.routes, cores := [(0, demoC 0x400800020007F)] }
theorem witness_Links : Tbl.find linkState.links 2 = some { up := true, budget := 64 } ∧ linkState.traps = []
    ∧ (let q := storeReq false peerPa
       linkStore.reqs = [(0, q)] ∧ linkStore.ops = [] ∧ q.near = false ∧ q.served = false ∧ linkStore.usesLink 2 q.addr = true ∧ q.kind = .store
       ∧ linkStore.thread q.thread = some storeT ∧ Tbl.find linkStore.links 2 = some { up := true, budget := 64 } ∧ linkStore.traps = [])
    ∧ (let o := copyOp .gn 0 0x40
       linkCopy.reqs = [] ∧ linkCopy.ops = [(1, o)] ∧ o.globals.any (linkCopy.vaUses 2 o.part o.core) = true
       ∧ Tbl.find linkCopy.links 2 = some { up := true, budget := 64 } ∧ linkCopy.traps = []) := by decide +kernel
/-- A row at its threshold, one whose refresh is under way. -/
def actState2 (a : List Alert) : State := { demo with acts := [(rowKey 5 7, demo.mgmt.actAlert)], alerts := a }
theorem witness_BackgroundWork : (actState2 []).mgmt.actAlert ≤ Tbl.get 0 (actState2 []).acts (rowKey 5 7)
    ∧ (∀ a ∈ (actState2 []).alerts, ¬ (a.bank = 5 ∧ a.row = 7)) ∧ Tbl.get 0 demo.acts (rowKey 5 7) < demo.mgmt.actAlert
    ∧ (∃ a ∈ (actState2 [{ bank := 5, row := 7, counted := [] }]).alerts, a.bank = 5 ∧ a.row = 7)
    ∧ Tbl.get 0 demo.mgmt.throttle 1 ≠ 2 ∧ Tbl.get 0 demo.mgmt.throttle 1 ≠ 3 := by decide +kernel
def stoppedState : State := { demo with mgmt := { demo.mgmt with fatal := true, fatalRegion := 0x4000000 } }
theorem witness_FatalStops : demo.classOf 0x0F 0 (demoEv .control .protocol false) = 3 ∧ demo.classOf 0x0C 16 (lineEv false) ≠ 3 ∧ demo.mgmt.fatal = false ∧ stoppedState.mgmt.fatal = true ∧ stoppedState.mgmt.fatalDone = false := by decide +kernel

/-! Firmware -/

theorem witness_BringUp : ({ demo with mgmt := { demo.mgmt with bootState := 3 } } : State).mgmt.bootState = 3
    ∧ ({ demo with mgmt := { demo.mgmt with bootState := 3 } } : State).serves .pf 0 = true ∧ demo.serves .pf 0 = true ∧ (1 : Word).getLsbD 0 = true
    ∧ demo.mgmt.bootState ≠ 3 := by decide +kernel
/-- A device without launches whose mailbox holds a command. -/
def boxState (cmd : Byte) (data : Memory) : State :=
  { State.reset with mgmt := { Management.reset with bootState := 2, mboxBusy := true, mboxCmd := cmd, mboxData := data } }
theorem called {cmd : Byte} {data : Memory} : Claims.Called (boxState cmd data) cmd.toNat := ⟨rfl, rfl, rfl⟩
def partData (p op : Byte) : Memory :=
  Memory.writeN [] 0 ([p, op] ++ leBytes 2 1 ++ List.replicate 4 0 ++ leBytes 8 1 ++ leBytes 8 1 ++ List.replicate 40 0 ++ leBytes 4 1 ++ leBytes 4 2)
def policyData (item : Byte) (value : Nat) : Memory := Memory.writeN [] 0 (leBytes 2 1 ++ List.replicate 14 0 ++ [item] ++ List.replicate 7 0 ++ leBytes 8 value)
theorem witness_Configuration : (∀ op ∈ [0, 1], (boxState 1 (partData 0 (BitVec.ofNat 8 op))).partSetOk = true
      ∧ (boxState 1 (partData 0 (BitVec.ofNat 8 op))).mbox 1 1 = op)
    ∧ (boxState 1 (partData 8 0)).partSetOk = false
    ∧ (∀ item ∈ [1, 3, 4], (boxState 2 (policyData (BitVec.ofNat 8 item) 5)).policyOk = true
      ∧ (boxState 2 (policyData (BitVec.ofNat 8 item) 5)).policyEntries = [{ item := item, index := 0, value := 5 }])
    ∧ (boxState 2 (policyData 0 5)).policyOk = false := by decide +kernel
theorem witness_MailboxAnswers : (boxState 3 [(5, 1)]).mboxZero 32 = true ∧ (boxState 3 [(40, 1)]).mboxZero 32 = false
    ∧ (boxState 4 []).mboxZero 0 = true ∧ (boxState 4 [(0, 1)]).mboxZero 0 = false ∧ (boxState 7 []).mboxZero 0 = true
    ∧ (boxState 7 [(0, 1)]).mboxZero 0 = false ∧ (boxState 6 [(4, 1)]).mboxZero 4 = false := by decide +kernel
/-- The fused version is a free value: it can be raised unless it is the highest. -/
def fuseState : State :=
  let s := boxState 6 (Memory.writeN [] 0 (leBytes 4 0xFFFFFFFF))
  { s with mgmt := { s.mgmt with image := List.replicate 8 0 ++ leBytes 4 0xFFFFFFFF } }
theorem witness_MailboxAnswers_fuse (h : Config.fusedVersion ≠ 0xFFFFFFFF) : Claims.Called fuseState 6 ∧ fuseState.mboxZero 4 = true
    ∧ fuseState.mbox 0 4 = imageSvn fuseState.mgmt.image ∧ fuseState.fused < fuseState.mbox 0 4 := by
  refine ⟨⟨rfl, rfl, rfl⟩, by decide +kernel, by decide +kernel, ?_⟩
  have e : fuseState.mbox 0 4 = 4294967295 := by decide +kernel
  have f : fuseState.mgmt.fusedSvn = 0 := rfl
  rw [e, State.fused, f]
  bv_omega
def ackState : State :=
  let s := boxState 5 [(0, 1)]
  { s with mgmt := { s.mgmt with retired := [{ frame := 1, cause := 1, state := 1, part := some 0 }] } }
theorem witness_Retirement : ackState.mgmt.bootState = 2 ∧ (∀ r ∈ ackState.mgmt.retired, r.frame ≠ 7) ∧ ackState.mgmt.retired.length < 4096
    ∧ Claims.Called ackState 5
    ∧ ackState.mgmt.retired.zipIdx.find? (fun e => e.1.frame == ackState.mbox 0 4 && e.1.state == 1)
      = some ({ frame := 1, cause := 1, state := 1, part := some 0 }, 0)
    ∧ ackState.mboxZero 4 = true
    ∧ (∀ r ∈ (boxState 5 [(0, 1)]).mgmt.retired, ¬ (r.frame = (boxState 5 [(0, 1)]).mbox 0 4 ∧ r.state = 1)) := by
  refine ⟨rfl, by decide +kernel, by decide +kernel, ⟨rfl, rfl, rfl⟩, by decide +kernel, by decide +kernel, by decide +kernel⟩
end Sys2Proof.Tests
end

