-- ==== Sys2Proof/Tests/Witness8.lean ====
section
/-! SUPPORT. States and operands that meet the hypotheses of the clauses about what a word or an operation does where it cannot
complete: traps, parked and poisoned requests, members that are gone, rows that are stuck. -/
set_option Elab.async false
namespace Sys2Proof.Tests
open Sys2Proof Sys2Proof.Machine

/-! Calls, returns, exits -/

/-- Targets that are not a word's, or lie in another 2^34 bytes; threads that would leave a run; a poisoned spilled entry. -/
def farT : Thread := { demoT with v := [(4, 0x210000), (5, 4)] }
def runRetT : Thread := { runT with ret := [0x80004], depth := 1 }
def fullCallT : Thread := { fullT with v := [(4, 0x210000)] }
theorem witness_CallsAndReturns_traps :
    ((setT deepT demo).Runs (.callr 4) deepT demoW ∧ fieldOf (deepT.getPair 4) 63 56 ≠ 0)
    ∧ (demo.Runs (.callr 8) demoT demoW ∧ fieldOf (demoT.getPair 8) 63 56 = 0 ∧ fieldOf (demoT.getPair 8) 1 0 ≠ 0)
    ∧ ((setT fullCallT demo).Runs (.callr 4) fullCallT demoW ∧ fieldOf (fullCallT.getPair 4) 63 56 = 0 ∧ fieldOf (fullCallT.getPair 4) 1 0 = 0
        ∧ fullCallT.depth = demoW.calls)
    ∧ ((setT farT demo).Runs (.callr 4) farT demoW ∧ fieldOf (farT.getPair 4) 63 56 = 0 ∧ fieldOf (farT.getPair 4) 1 0 = 0
        ∧ farT.depth ≠ demoW.calls ∧ fieldOf (farT.pc + 4) 55 34 ≠ fieldOf (fieldOf (farT.getPair 4) 55 0 : Pc) 55 34)
    ∧ (runState.Runs (.jr 4) runT demoW ∧ fieldOf (runT.getPair 4) 63 56 = 0 ∧ fieldOf (runT.getPair 4) 1 0 = 0
        ∧ runT.leavesRun (fieldOf (runT.getPair 4) 55 0) false = true)
    ∧ ((setT runRetT demo).Runs .ret runRetT demoW ∧ runRetT.leavesRun (fieldOf runRetT.pc 55 34 ++ ((0x80004 : Word) ++ 0#2)) true = true)
    ∧ (let s := { setT deepT demo with nearPoison := [spillKey demoW 0 0 / 128] }
       s.Runs .ret deepT demoW ∧ s.nearPoisoned (spillKey demoW deepT.ref.tid (deepT.depth - 9)) 4 = true) := by
  refine ⟨⟨runs ?_, ?_⟩, ⟨runs ?_, ?_, ?_⟩, ⟨runs ?_, ?_, ?_, ?_⟩, ⟨runs ?_, ?_, ?_, ?_, ?_⟩, ⟨runs ?_, ?_, ?_, ?_⟩, ⟨runs ?_, ?_⟩, runs ?_, ?_⟩ <;>
    decide +kernel
/-- A thread in the handler of a pre-emption, before and after its EXIT. -/
def saveT : Thread := { demoT with role := 0x80000000, handler := true, hclass := 0x14 }
def savedT : Thread := { saveT with stall := .exiting }
def saveState : State := { setT savedT demo with issue := none }
theorem witness_ExitEnds_active : (runState.Runs .exit runT demoW ∧ runT.active = true ∧ runT.handler = false ∧ runT.poisonedUpTo runT.nld = none)
    ∧ (setT saveT demo).Runs .exit saveT demoW ∧ saveT.handler = true ∧ saveT.hclass = 0x14 :=
  ⟨⟨runs (by decide +kernel), rfl, rfl, by decide +kernel⟩, runs (by decide +kernel), rfl, rfl⟩
theorem witness_ExitEnds_save : saveState.thread savedT.ref = some savedT ∧ saveState.wgOf savedT.ref = some demoW
    ∧ saveState.launchOf demoW = some demoL ∧ saveState.Keyed ∧ ∀ e ∈ saveState.threads, e.2.ref.wg = 0 → e = (refKey savedT.ref, savedT) :=
  ⟨by decide +kernel, by decide +kernel, by decide +kernel, ⟨by decide +kernel, by decide +kernel⟩, by decide +kernel⟩

theorem witness_FloatExact : Claims.real (.fin false 3 1) = some 6 ∧ Claims.real (.fin true 3 1) = some (-6) ∧ Claims.real (.zero true) = some 0 := by
  simp [Claims.real, Val.zero]; norm_num

/-! Accesses -/

/-- A global address of a page that the core has not translated, and a page of a peer to which no link is up. -/
def awayW : Workgroup := { demoW with s := [(2, 0x400000)] }
def peerPage : State := { setPage 0x400000020007F demo with links := [] }
theorem witness_AccessTraps_more :
    ((setW farW demo).Runs (.st 1 0 1 .b 0) demoT farW)
    ∧ (∀ i ∈ [Instr.ld 1 0 1 .w 0, .st 1 0 1 .w 0], runsB (setW awayW demo) i demoT awayW = true)
    ∧ (setW awayW demo).tlbLook 0 0 0x400000 = none
    ∧ (∀ i ∈ [Instr.ld 1 0 1 .w 0, .st 1 0 1 .w 0], runsB peerPage i demoT demoW = true)
    ∧ (∃ x, peerPage.tlbLook 0 0 0x210000 = some x ∧ x.r = true ∧ x.w = true ∧ peerPage.linkLost x.pa = true)
    ∧ ((poisoned demo).Runs (.ld 1 0 1 .w 0) demoT demoW ∧ (poisoned demo).tlbLook 0 0 0x210000 = some (at_ 0x210000)
      ∧ (poisoned demo).memPoisoned (at_ 0x210000).pa 4 = true ∧ (poisoned demo).linkLost (at_ 0x210000).pa = false ∧ peerRefuses (at_ 0x210000).pa = false)
    ∧ ((poisoned demo).Runs (.ldn 1 2 .w 0) demoT demoW ∧ (poisoned demo).checkNear 0 false 0x40 4 4 = .ok (0x40, 0)
      ∧ (poisoned demo).nearPoisoned 0x40 4 = true)
    ∧ ((setT nearT demo).Runs (.stn 1 3 .w 0) nearT demoW ∧ (setT nearT demo).Runs (.stn 1 2 .w 0) nearT demoW) := by
  refine ⟨runs ?_, ?_, ?_, ?_, ⟨xlateOf (demoE 0x400000020007F) 0x210000, ?_, ?_, ?_, ?_⟩, ⟨runs ?_, ?_, ?_, ?_, ?_⟩, ⟨runs ?_, ?_, ?_⟩,
    runs ?_, runs ?_⟩ <;> first | rfl | decide +kernel
/-- Full/empty operations that cannot be performed, and loads of a poisoned span. -/
def waitFe (fn : Nat) : State := { reqState (feT fn) (feReq fn) with empties := if fn = 2 then [] else [0x10] }
theorem witness_FullEmpty_parks : ∀ fn ∈ List.range 3, (waitFe fn).inOrder 0 (feReq fn) = true ∧ (waitFe fn).thread demoT.ref = some (feT fn)
    ∧ (waitFe fn).empties.contains (0x40 / 4) = decide (fn ≠ 2) ∧ (fn = 2 → (feT fn).outLd = [] ∧ (feT fn).outSt = [1]) := by decide +kernel
theorem witness_FullEmpty_poison : ∀ fn ∈ [0, 1, 6], (poisoned (feState fn)).inOrder 0 (feReq fn) = true
    ∧ (poisoned (feState fn)).thread demoT.ref = some (feT fn) ∧ (poisoned (feState fn)).empties.contains (0x40 / 4) = false
    ∧ (poisoned (feState fn)).nearPoisoned 0x40 4 = true ∧ ∀ e ∈ (poisoned (feState fn)).reqs, e.2.parked = true → e.2.addr ≠ (feReq fn).addr := by
  decide +kernel
theorem witness_AtomicsPoisoned : ∀ near, ∀ k ∈ [ReqKind.red .add, .atom .cas, .lr, .sc],
    let q := atomReq k near [1, 2]
    let s := poisoned (reqState (match k with
      | .red _ => storeT
      | _ => loadT) q)
    s.inOrder 0 q = true ∧ s.nearPoisoned 0x40 4 = true ∧ s.memPoisoned 0x210000 4 = true ∧ s.wgOf q.thread = some demoW
      ∧ s.banks = [] := by decide +kernel
/-- A request for a word of a peer, on a page that its table poisons. -/
def peerWord (k : ReqKind) : Req := { atomReq k false [1, 2] with addr := 0x4000000210000, poison := true }
theorem witness_AtomicsPoisoned_peer : ∀ k ∈ [ReqKind.red .add, .lr], let s := reqState (if k = .lr then loadT else storeT) (peerWord k)
    Tbl.find s.reqs 0 = some (peerWord k) ∧ s.inOrder 0 (peerWord k) = true ∧ regionOf (peerWord k).addr = 1 ∧ s.banks = [] := by decide +kernel
/-- An atomic in a launch in RECORD mode. -/
theorem witness_AtomicsServe_digest : ∀ near, (setL { demoL with det := 2 } (reqState storeT (atomReq (.red .add) near [1]))).wgOf demoT.ref = some demoW
    ∧ (setL { demoL with det := 2 } (reqState storeT (atomReq (.red .add) near [1]))).launchOf demoW = some { demoL with det := 2 } := by decide +kernel

/-! Teams and rows -/

/-- Two workgroups of one team: the other member's thread waits at its TBAR, or does not. -/
def mateM : MemberWord := { demoM with index := 1 }
def mateW : Workgroup := { demoW with log := 1, base := 0x10000, lane := 32 }
def mateT (stall : Stall) : Thread := { demoT with ref := { wg := 1, tid := 0 }, stall := stall }
def mates (stall : Stall) (bars : Tbl TeamBar) : State :=
  { demo with threads := [(refKey demoT.ref, demoT), (refKey (mateT stall).ref, mateT stall)], wgs := [(0, demoW), (1, mateW)]
              launches := [(1, { demoL with teams := [(0, [demoM, mateM])] })], teamBars := bars }
def arrivedBars : Tbl TeamBar := [(teamKey 1 0, { arrived := [1], owed := [] })]
theorem witness_TeamBarriers_two : ∀ e ∈ [(Stall.none, ([] : Tbl TeamBar)), (.team 0 2, arrivedBars)],
    let s := mates e.1 e.2
    issuesB s [demoT] = true ∧ runsB s (.tbar 2 0) demoT demoW = true
    ∧ s.resident 1 0 = some 0 ∧ s.resident 1 1 = some 1 ∧ s.wg 1 = some mateW ∧ teamIndex (mateW.team 0) = teamIndex (demoW.team 0)
    ∧ Tbl.find s.teamBars (teamKey 1 (teamIndex (demoW.team 0))) = (if e.1 = .none then none else some { arrived := [1], owed := [] })
    ∧ (∀ u ∈ s.live 1, u.stall = e.1) ∧ s.live 1 ≠ [] ∧ (∀ u ∈ s.live 0, u.ref ≠ demoT.ref → u.stall = .team 0 2) := by decide +kernel
theorem witness_TeamBarriers_keyed : ∀ e ∈ [(Stall.none, ([] : Tbl TeamBar)), (.team 0 2, arrivedBars)],
    (Tbl.risingFrom 0 (mates e.1 e.2).threads = true ∧ ∀ x ∈ (mates e.1 e.2).threads, x.1 = refKey x.2.ref)
    ∧ (mates e.1 e.2).thread demoT.ref = some demoT ∧ ∀ u ∈ (mates e.1 e.2).live 0, u.ref.tid < 512 := by decide +kernel
/-- The other thread of the row waits at another word, or at this one with a mask of its own column. -/
def elsewhereT (i : Instr) : Thread := { rowT i with pc := demoT.pc + 64 }
def otherMaskT (i : Instr) : Thread := { secondT with stall := .row i 2 }
theorem witness_RowOperations_errors : ∀ i ∈ [Instr.voteEvery 1 2 1],
    (let s := pair (elsewhereT i)
     let row' := (s.onThread demoT.ref (fun u => u.park (.row i (demoW.sPair 2)))).rowThreads 0 demoW (demoW.row 0)
     runsB s i demoT demoW = true ∧ issuesB s [demoT] = true ∧ (demoW.sPair 2).getLsbD (demoW.column 0) = true
     ∧ (∀ e ∈ s.rowThreads 0 demoW (demoW.row 0), e.2.pc = demoT.pc → e.2 = demoT) ∧ demoT.stall = .none
     ∧ (s.live 0).map (fun u => (u.ref.tid, u.stall)) = [(0, .none), (1, .row i 3)]
     ∧ ∀ e ∈ row', rowReady row' e.2 = false)
    ∧ (let s := pair (otherMaskT i)
     let row := s.rowThreads 0 demoW (demoW.row 0)
     runsB s i demoT demoW = true ∧ issuesB s [demoT] = true
     ∧ (row.map (fun e => (e.1, e.2.pc, e.2.stall))) = [(0, demoT.pc, .none), (1, demoT.pc, .row i 2)]
     ∧ effective row 2 ≠ effective row (demoW.sPair 2)) := by decide +kernel

/-! Copies -/

/-- A CPYQ of a table that its workgroup owns. -/
def quantOp (i8 : Bool) (dst : Word) : Op := { opOf (.cpyq 1 2 1 2 i8 1) with args := [3, dst] }
def quantState (o : Op) : State :=
  coreState { demoC 0x20007F with books := [(1, { owner := some 0, vec := 4, origin := 0, loaded := true, epoch := 0, bytes := [], damaged := [] })] }
    (opState o)
theorem witness_QuantCompletes : ∀ i8, (quantState (quantOp i8 0x40)).tableFree 1 (quantOp i8 0x40) (loadsTable 1) = true
    ∧ Tbl.find (quantState (quantOp i8 0x40)).ops 1 = some (quantOp i8 0x40)
    ∧ (quantState (quantOp i8 0x40)).memPoisoned 0x210001 1 = false ∧ (poisoned (quantState (quantOp i8 0x40))).memPoisoned 0x210001 1 = true
    ∧ ((quantState (quantOp i8 0x40)).core 0).book 1 = { owner := some 0, vec := 4, origin := 0, loaded := true, epoch := 0, bytes := [], damaged := [] } := by
  decide +kernel
theorem witness_QuantCompletes_sides : ∀ i8, (∃ x, (quantState (quantOp i8 0x40)).sideGlobal (quantOp i8 0x40) (0x210000 + if i8 = true then 3 else 1) 1 false = .ok x)
    ∧ (∃ x, (poisoned (quantState (quantOp i8 0x40))).sideGlobal (quantOp i8 0x40) (0x210000 + if i8 = true then 3 else 1) 1 false = .ok x)
    ∧ (quantState (quantOp i8 0x40)).checkNear 0 false 0x40 4 4 = .ok (0x40, 0) ∧ (quantState (quantOp i8 0x41)).checkNear 0 false 0x41 4 4 = .error .align := by
  intro i8
  cases i8 <;> exact ⟨⟨_, rfl⟩, ⟨_, rfl⟩, rfl, rfl⟩
theorem witness_QuantCompletes_ends : ({ quantOp true 0x40 with canceled := true } : Op).canceled = true
    ∧ fieldOf (({ quantOp true 0x40 with base := 0x0100000000000000 } : Op).base + BitVec.ofNat 64 3) 63 56 ≠ 0 := by decide +kernel
/-- A CPYM from global memory, to a member that is there, whose allocation is another, or whose save has begun. -/
def farOp : Op := { opOf (.cpym 1 2 1 2 false) with block := cpymBlock, members := [member 1 0] }
theorem witness_CodebookAndMulticast_global : Tbl.find (opState farOp).ops 1 = some farOp ∧ farOp.rows = [] ∧ farOp.canceled = false
    ∧ 1 < cpymLines cpymBlock ∧ (farOp.base + BitVec.ofNat 64 (cpymSrc cpymBlock + 128 * 1)).toNat % 16 = 0
    ∧ (opState farOp).wg 0 = some demoW ∧ demoW.gen = (member 1 0).gen ∧ demoW.epoch = (member 1 0).epoch ∧ demoW.preempt = none := by decide +kernel
def isOk {α ε : Type} (r : Except ε α) : Bool :=
  match r with
  | .ok _ => true
  | .error _ => false
theorem isOk_some {α ε : Type} {r : Except ε α} (h : isOk r = true) : ∃ x, r = .ok x := by
  cases r with
  | error _ => simp [isOk] at h
  | ok x => exact ⟨x, rfl⟩
theorem witness_CodebookAndMulticast_global_read : ∃ r, (opState farOp).readVa 0 (some 0) (farOp.base + BitVec.ofNat 64 (cpymSrc cpymBlock + 128 * 1))
    (min 128 (cpymLen cpymBlock - 128 * 1)) = .ok r := isOk_some (by decide +kernel)
theorem witness_CodebookAndMulticast_away : ∀ w ∈ [{ demoW with gen := demoW.gen + 1 }, { demoW with epoch := demoW.epoch + 1 },
      { demoW with preempt := some { since := 0, byPolicy := false, taken := true, live := 0 } }],
    (setW w (opState farOp)).wg (member 1 0).wg = some w
      ∧ (w.gen ≠ (member 1 0).gen ∨ w.epoch ≠ (member 1 0).epoch ∨ (w.preempt.any (·.taken)) = true) := by decide +kernel

end Sys2Proof.Tests
end

