-- ==== Sys2Proof/Tests/Witness9.lean ====
section
/-! SUPPORT. Operands that meet the hypotheses of the statements about numbers and their formats, and states that meet those of the
statements about scaled, sparse, packed and stored tiles, collectives of several members, the claim queue and roles of several threads. -/
set_option Elab.async false
namespace Sys2Proof.Tests
open Sys2Proof Sys2Proof.Machine

/-! Numbers -/

theorem real_fin (neg : Bool) (m : Nat) (e : Int) : Claims.real (.fin neg m e) = some ((if neg then -1 else 1) * (m : ℚ) * (2 : ℚ) ^ e) := rfl
/-- FP32 words of 3, 2, 1/2, -1, 0 and 4. -/
theorem witness_SpecialFunctions : Claims.real (ofFp32 0x40400000) = some 3 ∧ Claims.real (ofFp32 0x40000000) = some 2
    ∧ Claims.real (ofFp32 0x3F000000) = some (1 / 2) ∧ Claims.real (ofFp32 0xBF800000) = some (-1) ∧ Claims.real (ofFp32 0) = some 0
    ∧ Claims.real (ofFp32 0x40800000) = some (2 ^ (2 : ℤ)) := by
  rw [show ofFp32 0x40400000 = .fin false 12582912 (-22) by decide +kernel, show ofFp32 0x40000000 = .fin false 8388608 (-22) by decide +kernel,
    show ofFp32 0x3F000000 = .fin false 8388608 (-24) by decide +kernel, show ofFp32 0xBF800000 = .fin true 8388608 (-23) by decide +kernel,
    show ofFp32 0 = .fin false 0 0 by decide +kernel, show ofFp32 0x40800000 = .fin false 8388608 (-21) by decide +kernel]
  simp only [real_fin]
  norm_num
/-- A format with infinities, FP8 without, another without NaN, a scale; values on both sides of 0. -/
theorem witness_FloatFormats : Claims.layout 0 = some (8, 23, 127) ∧ Claims.layout 5 = some (4, 3, 7) ∧ Claims.layout 10 = some (2, 1, 1)
    ∧ Claims.layout 13 = some (5, 3, 15) ∧ Claims.real (.fin true 6 0) = some (-6) ∧ Claims.real (.fin false 6 0) = some 6
    ∧ Claims.real (.zero true) = some 0 := by
  refine ⟨rfl, rfl, rfl, rfl, ?_, ?_, ?_⟩ <;> simp [Claims.real, Val.zero]
/-- Unsigned and signed codes, the two codes of BIN, and values below, in, and above their ranges. -/
theorem witness_IntegerFormats : Claims.intRange 22 = some (2, 0, 3) ∧ Claims.intRange 25 = some (2, -1, 1) ∧ Claims.intRange 17 = some (8, -128, 127)
    ∧ Claims.real (.fin true 6 0) = some (-6) ∧ Claims.real (.fin false 6 0) = some 6 ∧ Claims.real (.fin false 1 0) = some 1
    ∧ Claims.real (.fin true 1 0) = some (-1) ∧ Claims.real (.fin false 1 (-1)) = some (1 / 2) := by
  refine ⟨rfl, rfl, rfl, ?_, ?_, ?_, ?_, ?_⟩ <;> simp [Claims.real]
/-- Scales, codebooks and logarithmic formats, at values beyond, at and between their levels. -/
theorem witness_OtherFormats : (∀ f ∈ [(26 : Fmt), 27, 28, 29], (Claims.codebook f).isSome = true) ∧ Claims.real (.fin true 6 0) = some (-6)
    ∧ Claims.real (.fin false 6 0) = some 6 ∧ Claims.real (.fin false 1 (-1)) = some (1 / 2) ∧ Claims.real (.fin false 1 (-200)) = some (1 / 2 ^ 200)
    ∧ Claims.real (.zero false) = some 0 ∧ (1 : ℚ) / 2 ^ 200 < 2 ^ ((0 : ℤ) - 127) := by
  refine ⟨by decide +kernel, ?_, ?_, ?_, ?_, ?_, ?_⟩ <;> simp [Claims.real, Val.zero]
  norm_num
/-- FP8 elements 1 and infinity, 0 and a NaN: finite products, an invalid one, infinite ones of both signs. -/
theorem witness_DotOrder : (∀ f ∈ [(4 : Fmt), 5], ∃ m e, (decodeFmt f (if f = 4 then 0x3C else 0x38)).1 = .fin false m e)
    ∧ Claims.real (decodeFmt 4 0x3C).1 = some 1 ∧ Claims.real (ofFp32 0) = some 0 ∧ (decodeFmt 4 0x7C).1 = .inf false ∧ (decodeFmt 4 0xFC).1 = .inf true
    ∧ (decodeFmt 4 0).1.isZero = true ∧ (decodeFmt 4 0x3C).1.isZero = false ∧ (decodeFmt 4 0x7F).1 = .nan ∧ (decodeFmt 5 0x7F).1 = .nan
    ∧ ofFp32 0x7F800000 = .inf false ∧ ofFp32 0x7FC00000 = .nan ∧ ofFp32 0 ≠ .nan := by
  refine ⟨?_, ?_, ?_, ?_⟩
  · simp only [List.forall_mem_cons, List.not_mem_nil, false_imp_iff, implies_true, and_true]
    exact ⟨⟨4, -2, by decide +kernel⟩, 8, -3, by decide +kernel⟩
  · rw [show (decodeFmt 4 0x3C).1 = .fin false 4 (-2) by decide +kernel, real_fin]
    norm_num
  · rw [show ofFp32 0 = .fin false 0 0 by decide +kernel, real_fin]
    norm_num
  · decide +kernel

/-! Scaled, sparse, packed and stored tiles -/

def scaccOp (code : Bool) (one : Byte) : Op :=
  { opOf (.scacc 1 2 2 code) with block := [0, 1, 64, one] ++ leBytes 4 0x1000 ++ leBytes 4 0x2000 ++ List.replicate 4 0 }
theorem witness_ScaledResults : ∀ e ∈ [(false, (0 : Byte)), (false, 1), (true, 0)], let o := scaccOp e.1 e.2
    let len := if e.1 = true ∨ e.2 = 1 then 4 else 256
    Tbl.find (opState o).ops 1 = some o ∧ (opState o).wg o.wg = some demoW ∧ o.torn = [] ∧ blk o.block 0 < demoW.acc.length ∧ blk o.block 2 ≤ 64
    ∧ nearAnswer ((opState o).checkNear 0 false (BitVec.ofNat 32 (bytesAt o.block 4 4)) len 16) = some (0x1000, 0)
    ∧ (opState o).nearPoisoned 0x1000 len = false
    ∧ nearAnswer ((opState o).checkNear 0 false (BitVec.ofNat 32 (bytesAt o.block 8 4)) 64 16) = some (0x2000, 0)
    ∧ (opState o).nearPoisoned 0x2000 64 = false ∧ demoW.badWord o (blk o.block 0) 64 (blk o.block 2) = false
    ∧ demoW.badWord o (blk o.block 1) 64 (blk o.block 2) = false := by decide +kernel
theorem witness_ScaledResults_range : Claims.real (.fin false 1 0) = some 1 ∧ 2 ^ (-510 : ℤ) ≤ |(1 : ℚ) + 1 * 1| ∧ |(1 : ℚ) + 1 * 1| < 2 ^ (511 : ℤ) := by
  have h : |(1 : ℚ) + 1 * 1| = 2 ^ (1 : ℤ) := by norm_num
  rw [h]
  exact ⟨by simp [Claims.real], zpow_le_zpow_right₀ (by norm_num) (by norm_num), zpow_lt_zpow_right₀ (by norm_num) (by norm_num)⟩
/-- An MMAS of 12 elements that keeps three; its metadata are the positions 0 to 2 in every row, or all 0. -/
def mmasOp (ov : Bool) : Op :=
  { opOf (.mmas 1 2 1 2 ov .n3) with block := [2, 2, 1, 1, 0, 0, 0, 0, 1, 0, 0, 0, 0, 0, 12, 0] ++ List.replicate 16 0, reason := if ov then 1 else 0 }
def metaState (a b : Byte) (o : Op) : State :=
  { opState o with near := (List.range 64).flatMap (fun r => [(r * 16, a), (r * 16 + 1, b)]), nearWrote := (List.range 64).flatMap (fun r => [r * 16, r * 16 + 1]) }
/-- Entry e of row r of the metadata. -/
def metaAt (s : State) (r e : Nat) : Nat := Claims.elemIn s.nearByte 20 (r * 16) e
theorem witness_SparseProducts : ∀ ov, let o := mmasOp ov
    let s := metaState 0x10 2 o
    Tbl.find s.ops 1 = some o ∧ s.wg o.wg = some demoW ∧ o.torn = [] ∧ o.reason = (if ov then 1 else 0) ∧ s.mmaTurn 1 o = true
    ∧ mmaK o.block = 12 ∧ mmaMeta o.block = 0 ∧ mmaMa o.block = 1 ∧ nearAnswer (s.checkNear 0 false 0 1024 16) = some (0, 0)
    ∧ s.nearPoisoned 0 1024 = false ∧ blk o.block 12 + mmaMa o.block * mmaNb o.block ≤ demoW.acc.length := by decide +kernel
theorem witness_SparseProducts_order : (let s := metaState 0x10 2 (mmasOp false)
      ∀ r, r < 64 → ∀ e, e < 3 → metaAt s r e ≤ 11 ∧ ((e + 1) % 3 ≠ 0 → metaAt s r e < metaAt s r (e + 1)))
    ∧ (let s := metaState 0 0 (mmasOp false)
      s.mmaTurn 1 (mmasOp false) = true ∧ s.nearPoisoned 0 1024 = false ∧ ¬ metaAt s 0 0 < metaAt s 0 1) := by decide +kernel
/-- The blocks of NPRUNE and of CMPK.SPARSE: one row of k BF16 elements at 0x1000, results at 0x2000, 0x3000 and 0x4000. -/
def packBlock (k cap : Nat) : List Byte :=
  leBytes 4 0x1000 ++ leBytes 4 0x2000 ++ leBytes 4 0x3000 ++ leBytes 4 0x4000 ++ [1, 0] ++ leBytes 2 k ++ [3, 0, 0, 0] ++ leBytes 4 cap ++ leBytes 4 0
def pruneOp (keep : SparseN) : Op := { opOf (.nprune 1 2 2 keep) with block := packBlock 12 0 }
def storeOp (cap failed : Nat) : Op := { opOf (.cmpkSparse 1 2 2) with block := packBlock 8 cap, phase := 5, failed := failed }
def packState (o : Op) : State := nearWith 0x1000 (List.replicate 32 1) (opState o)
theorem witness_PackedRows_prune : ∀ e ∈ [(SparseN.n6, 6), (.n4, 4), (.n3, 3)], let o := pruneOp e.1
    let s := packState o
    Tbl.find s.ops 1 = some o ∧ s.wg o.wg = some demoW ∧ o.torn = [] ∧ bytesAt o.block 16 2 = 1 ∧ bytesAt o.block 18 2 = 12
    ∧ storageBits (BitVec.ofNat 5 (blk o.block 20)) = 16 ∧ nearAnswer (s.checkNear 0 false 0x1000 24 16) = some (0x1000, 0)
    ∧ s.nearPoisoned 0x1000 24 = false ∧ nearAnswer (s.checkNear 0 false 0x2000 (2 * e.2) 16) = some (0x2000, 0)
    ∧ nearAnswer (s.checkNear 0 false 0x3000 ((e.2 * 4 + 7) / 8) 16) = some (0x3000, 0)
    ∧ packedBytes 3 e.2 = 2 * e.2 ∧ packedBytes 20 e.2 = (e.2 * 4 + 7) / 8 := by decide +kernel
/-- The elements before e of the row that are not zero. -/
def keptBelow (s : State) (e : Nat) : Nat :=
  ((List.range e).filter (fun x => !(decodeFmt 3 (Claims.elemIn s.nearByte 3 0x1000 x)).1.isZero)).length
/-- All rows, a row that the first pass could not read, and a row for which there is no room. -/
theorem witness_PackedRows_store : ∀ e ∈ [(16, 0, 1), (16, 1, 0), (4, 0, 0)], let o := storeOp e.1 e.2.1
    let s := packState o
    Tbl.find s.ops 1 = some o ∧ s.wg o.wg = some demoW ∧ o.torn = [] ∧ o.phase = 5 ∧ o.failed = e.2.1 ∧ keptBelow s 8 = 8
    ∧ ((if e.2.2 = 1 then keptBelow s 8 else 0) ≤ min (bytesAt o.block 24 4) 65536)
    ∧ (e.2.2 = 1 ∧ e.2.1 = 0 ∨ e.2.1 = e.2.2 + 1 ∨ e.2.1 = 0 ∧ e.2.2 < 1 ∧ min (bytesAt o.block 24 4) 65536 < keptBelow s 8)
    ∧ nearAnswer (s.checkNear 0 false 0x1000 16 16) = some (0x1000, 0) ∧ s.nearPoisoned 0x1000 16 = false
    ∧ nearAnswer (s.checkNear 0 false 0x2000 (packedBytes 3 8) 16) = some (0x2000, 0) ∧ packedBytes 3 8 = 16
    ∧ nearAnswer (s.checkNear 0 false 0x3000 16 16) = some (0x3000, 0)
    ∧ nearAnswer (s.checkNear 0 false 0x4000 (2 * (e.2.2 + 1)) 16) = some (0x4000, 0) := by decide +kernel
/-- An ACCST of tile 0, or of slot 0, in each layout, with a pitch of 128 bytes. -/
def accstOp (near : Bool) (mode : Byte) : Op :=
  { opOf (.accst 1 2 1 2) with block := [0, 1, mode, 3] ++ leBytes 4 0x1000 ++ leBytes 4 128 ++ [if near then 1 else 0, 0, 0, 0] }
def accstState (o : Op) : State := coreState (coreWith (List.replicate 8 (.ready 0))) (opState o)
theorem witness_StoredTiles : (∀ e ∈ [((0 : Byte), 32768), (1, 128), (2, 16384)], let o := accstOp true e.1
      let s := accstState o
      Tbl.find s.ops 1 = some o ∧ s.wg o.wg = some demoW ∧ o.torn = [] ∧ blk o.block 2 ≤ 2 ∧ demoW.badWord o 0 64 64 = false
      ∧ ((s.core 0).slot 0).damaged = false ∧ ((s.core 0).slot 0).state = .ready 0
      ∧ ∀ r, r < (if e.1 = 1 then 64 else 1) → nearAnswer (s.checkNear 0 false (BitVec.ofNat 32 (0x1000 + r * 128)) e.2 16) = some (0x1000 + r * 128, 0))
    ∧ (let o := accstOp false 1
      let s := accstState o
      Tbl.find s.ops 1 = some o ∧ packedBytes 3 64 = 128 ∧ o.base = 0x210000
      ∧ ∀ r, r < 64 → (match s.checkWriteVa o.part (some o.core) (o.base + BitVec.ofNat 64 (0x1000 + r * 128)) 128 with
        | .ok l => decide (l = [(0x211000 + r * 128, 128)])
        | .error _ => false) = true) := by decide +kernel
theorem witness_StoredTiles_places : (∀ r j, j < 128 → Claims.placeOf [(0x211000 + r * 128, 128)] j = 0x211000 + r * 128 + j)
    ∧ ∀ r j r' j' : Nat, j < 128 → j' < 128 → 0x211000 + r * 128 + j = 0x211000 + r' * 128 + j' → r = r' ∧ j = j' :=
  ⟨fun _ _ h => by simp [Claims.placeOf, h], by omega⟩

/-! Collectives of two members -/

/-- Member r's operation: its sources at 0x1000 and its result at 0x2000 of its own allocation. -/
def mateOp (i : Instr) (r len : Nat) : Op :=
  { opOf i with wg := r, issuer := .threads [({ wg := r, tid := 0 }, 0)], block := leBytes 4 (0x10000 * r + 0x1000) ++ leBytes 4 (0x10000 * r + 0x2000) ++ leBytes 4 len ++ [0, 0, 1, 0] }
def mateL (retired : List Nat) : Launch := { demoL with teams := [(0, [demoM, mateM])], retired := retired }
def collMates (i : Instr) (len : Nat) : State :=
  { mates .none [] with launches := [(1, mateL [])], issue := none, ops := [(1, mateOp i 0 16), (2, mateOp i 1 len)], nextId := 3,
                        colls := [(collKey 1 0 0, { ops := [(0, 1), (1, 2)] })] }
theorem witness_CollectiveOfMany_held (i : Instr) (len : Nat) :
    Claims.AllIssued (collMates i len) 1 0 0 2 (· + 1) (fun r => mateOp i r (if r = 0 then 16 else len)) := by
  refine ⟨⟨mateL [], { ops := [(0, 1), (1, 2)] }, [demoM, mateM], rfl, rfl, rfl, rfl, ?_⟩, ?_, by omega⟩
  · intro r e h
    match r, h with
    | 0, h => obtain rfl := Option.some.inj h; exact ⟨rfl, rfl⟩
    | 1, h => obtain rfl := Option.some.inj h; exact ⟨rfl, rfl⟩
  · intro r h
    match r, h with
    | 0, _ => rfl
    | 1, _ => rfl
theorem witness_CollectiveOfMany : (∀ i ∈ [Instr.ared 1 2 2, .agath 1 2 2, .bcast 1 2 2], ∀ r, r < 2 → let s := collMates i 16
      let o := mateOp i r 16
      let size := if collKind i = 1 then 2 * 16 else 16
      o.failed = 0 ∧ bytesAt o.block 8 4 = 16 ∧ blk o.block 14 = 1 ∧ s.nearPoisoned (0x10000 * r + 0x1000) 16 = false
      ∧ nearAnswer (s.checkNear r false (BitVec.ofNat 32 (bytesAt o.block 0 4)) 16 16) = some (0x10000 * r + 0x1000, r)
      ∧ nearAnswer (s.checkNear r false (BitVec.ofNat 32 (bytesAt o.block 4 4)) size 16) = some (0x10000 * r + 0x2000, r))
    ∧ bytesAt (mateOp (.agath 1 2 2) 1 32).block 8 4 ≠ bytesAt (mateOp (.agath 1 2 2) 0 16).block 8 4
    ∧ (let l := mateL [1]; mateM.index ∈ l.retired ∧ Tbl.find ({ ops := [(0, 1)] } : Collective).ops mateM.index = none
      ∧ mateM ∈ (Tbl.get [] l.teams 0).filter (fun e => e.kind == 0)) := by decide +kernel

/-! The claim queue -/

/-- Slots 0 and 1 of the core, and a queue whose head asks for the slots of a mask for a workgroup. -/
def queueState (x y : SlotState) (g : Nat) (m : BitVec 8) : State :=
  { mates (.claim m) [] with cores := [(0, { coreWith [x, y] with claims := [(g, m, [{ wg := 1, tid := 0 }])] })] }
theorem witness_ClaimQueue : (let s := queueState .free (.claimed 7) 1 2
      issuesB s [demoT] = true ∧ runsB s (.oclm 1) demoT demoW = true ∧ ((s.core 0).slot 1).state ≠ .free
      ∧ (∀ k, k < 8 → (1 : BitVec 8).getLsbD k = true → ((s.core 0).slot k).owner ≠ some 0) ∧ (∀ e ∈ (s.core 0).claims, e.1 ≠ 0))
    ∧ (let s := queueState .free (.claimed 7) 0 3
      issuesB s [demoT] = true ∧ runsB s (.oclm 1) demoT demoW = true ∧ ∃ e ∈ (s.core 0).claims, e.1 = 0 ∧ e.2.1.getLsbD 0 = true)
    ∧ (∀ m ∈ [(3 : BitVec 8), 1], let s := queueState (.claimed 0) (.claimed 0) 1 3
      issuesB s [demoT] = true ∧ runsB s (.orel m) demoT demoW = true ∧ (s.core 0).claims = [(1, 3, [{ wg := 1, tid := 0 }])]
      ∧ (∀ k, k < 8 → m.getLsbD k = true → ((s.core 0).slot k).owner = some 0)
      ∧ ((∀ k, k < 8 → (3 : BitVec 8).getLsbD k = true → (if m.getLsbD k then SlotState.free else ((s.core 0).slot k).state) = .free) ↔ m = 3)
      ∧ (s.thread { wg := 1, tid := 0 }).isSome = true) := by decide +kernel

/-! Roles of several threads, records -/

/-- Two threads of a role; the second waits as given. The team's second member is workgroup 1, whose thread waits as given too. -/
def act2T (stall : Stall) (loops : List LoopEntry) : Thread := { actT with ref := { wg := 0, tid := 1 }, stall := stall, loops := loops }
def otherT (stall : Stall) : Thread := { actT with ref := { wg := 1, tid := 0 }, stall := stall }
def roleM : MemberWord := { mateM with role := 1 }
def rolesState (st : Stream) (stall other : Stall) (loops : List LoopEntry) : State :=
  withStream st { demo with
    threads := [(refKey actT.ref, { actT with loops := loops }), (refKey (act2T stall loops).ref, act2T stall loops), (refKey (otherT other).ref, otherT other)]
    wgs := [(0, demoW), (1, mateW)], launches := [(1, { demoL with teams := [(0, [demoM, roleM])] })] }
theorem inStream {s : State} {t : Thread} {w : Workgroup} {st : Stream} (h : s.wgOf t.ref = some w ∧ t.role.getLsbD 31 = true ∧ t.depth ≤ t.chorDep
    ∧ t.inRun = false ∧ t.orphan = none ∧ Tbl.find s.streams (teamKey w.launch (teamIndex (w.team t.roleSlot))) = some st ∧ st.aborted = none) :
    Claims.InStream s t w st := ⟨h.1, h.2.1, h.2.2.1, h.2.2.2.1, h.2.2.2.2.1, h.2.2.2.2.2.1, h.2.2.2.2.2.2⟩
theorem witness_RolesAndRecords_in : Claims.InStream (rolesState demoSt .none .none []) actT demoW demoSt
    ∧ (rolesState demoSt .none .none []).Keyed := ⟨inStream (by decide +kernel), by decide +kernel, by decide +kernel⟩
/-- The second thread has not reached the word. -/
theorem witness_RolesAndRecords_waits : ∀ i ∈ [Instr.cend, .cloop 3 1, .cloopReg 6 1, .hand 0 0 1 .none 0], let s := rolesState demoSt .none .none []
    issuesB s [actT] = true ∧ runsB s i actT demoW = true ∧ actT.roleNo = 0
    ∧ ∃ u ∈ s.live 0, u ≠ actT ∧ ¬ (u.pc = actT.pc ∧ u.stall = .control i) := by decide +kernel
/-- Records of the count 3, and none; pushes of the first role, four ahead of the second, and none. -/
def recordSt (rs : List (Nat × Nat × Nat)) (ps : Tbl Nat) : Stream := { demoSt with records := rs, wgRoles := [(0, { ops := [], marks := [], pushes := ps })] }
def fourLoops : List LoopEntry := (List.range 4).map (fun k => { pc := BitVec.ofNat 56 (64 * k), remaining := 2 })
theorem witness_RolesAndRecords : ∀ e ∈ [(Instr.cloop 3 1, [(0, 0, 3)], ([] : Tbl Nat), ([] : List LoopEntry)), (.cloop 2 1, [(0, 0, 3)], [], []),
      (.cloop 0 1, [], [], []), (.cloop 3 1, [], [], []), (.cloop 3 1, [(0, 0, 3)], [(0, 4)], []), (.cloopReg 6 1, [], [], fourLoops)],
    let st := recordSt e.2.1 e.2.2.1
    let s := rolesState st (.control e.1) .none e.2.2.2
    let t := { actT with loops := e.2.2.2 }
    let mine := Claims.pushesOf st 0 e.2.2.2.length
    issuesB s [t] = true ∧ runsB s e.1 t demoW = true ∧ (∀ u ∈ s.live 0, u ≠ t → u.pc = t.pc ∧ u.stall = .control e.1)
    ∧ (∀ u ∈ s.live 0, u.loops = e.2.2.2) ∧ (∀ x ∈ e.2.2.2.head?, x.pc ≠ t.pc) ∧ s.boundMembers 1 0 = [demoM, roleM]
    ∧ s.resident 1 0 = some 0 ∧ s.resident 1 1 = some 1 ∧ Claims.pushesOf st 1 e.2.2.2.length = 0 ∧ mine = (if e.2.2.1 = [] then 0 else 4)
    ∧ ((∃ r ∈ st.records, r.1 = e.2.2.2.length ∧ r.2.1 = mine) ↔ e.2.1 ≠ [] ∧ e.2.2.1 = []) := by decide +kernel
theorem witness_RolesAndRecords_end : ∀ x ∈ [Stall.none, .control .cend], let s := rolesState demoSt (.control .cend) x []
    issuesB s [actT] = true ∧ runsB s .cend actT demoW = true ∧ (∀ u ∈ s.live 0, u ≠ actT → u.pc = actT.pc ∧ u.stall = .control .cend)
    ∧ demoSt.roles = [] ∧ s.boundMembers 1 0 = [demoM, roleM] ∧ s.resident 1 1 = some 1 ∧ s.live 1 ≠ [] ∧ (∀ u ∈ s.live 1, u.stall = x)
    ∧ (∀ g ∈ [0, 1], ∀ u ∈ s.live g, u.role.getLsbD 31 = true ∧ (s.wgOf u.ref).map (fun w => (w.launch, teamIndex (w.team u.roleSlot))) = some (1, 0)) := by
  decide +kernel
end Sys2Proof.Tests
end

