-- ==== Sys2Proof/Tests/Words.lean ====
section
/-! SUPPORT. Tests of decoding: words written out field by field from the layouts of R89 and the codes of R91 to R108, one or more for
every instruction, decode to their instructions; words that the spec leaves unassigned decode to nothing. -/
set_option Elab.async false
namespace Sys2Proof

/-- The word decodes to the instruction. -/
def decodesTo (e : Word × Instr) : Bool :=
  match decode e.1 with
  | .ok i => decide (i = e.2)
  | .error _ => false

/-- R91, R92: major 0x00. -/
theorem test_decode_system : ([
    (0#6 ++ 0#7 ++ 0#7 ++ 0#7 ++ 0#5, .nop),
    (0#6 ++ 0#7 ++ 0#7 ++ 0#7 ++ 1#5, .exit),
    (0#6 ++ 0#7 ++ 0#7 ++ 101#7 ++ 2#5, .trap 101),
    (0#6 ++ 0#7 ++ 0#7 ++ 0#7 ++ 3#5, .eret),
    (0#6 ++ 3#7 ++ 0#7 ++ 77#7 ++ 4#5, .srd 3 77),
    (0#6 ++ 0#7 ++ 9#7 ++ 66#7 ++ 5#5, .swr 66 9),
    (0#6 ++ 0#7 ++ 0#7 ++ 127#7 ++ 6#5, .brk 127),
    (0#6 ++ 0#7 ++ 41#7 ++ 0#7 ++ 7#5, .ppt 41),
    (0#6 ++ 0#7 ++ 6#7 ++ 0#7 ++ 8#5, .dsav 6),
    (0#6 ++ 0#7 ++ 126#7 ++ 0#7 ++ 9#5, .drst 126)] : List (Word × Instr)).all decodesTo = true := by decide

/-- R91, R92: major 0x01. -/
theorem test_decode_integer_1 : ([
    (1#6 ++ 3#7 ++ 65#7 ++ 127#7 ++ 0#5, .add 3 65 127),
    (1#6 ++ 4#7 ++ 65#7 ++ 126#7 ++ 1#5, .sub 4 65 126),
    (1#6 ++ 5#7 ++ 65#7 ++ 125#7 ++ 2#5, .mul 5 65 125),
    (1#6 ++ 6#7 ++ 65#7 ++ 124#7 ++ 3#5, .mulh 6 65 124),
    (1#6 ++ 7#7 ++ 65#7 ++ 123#7 ++ 4#5, .mulhu 7 65 123),
    (1#6 ++ 8#7 ++ 65#7 ++ 122#7 ++ 5#5, .and 8 65 122),
    (1#6 ++ 9#7 ++ 65#7 ++ 121#7 ++ 6#5, .or 9 65 121),
    (1#6 ++ 10#7 ++ 65#7 ++ 120#7 ++ 7#5, .xor 10 65 120),
    (1#6 ++ 11#7 ++ 65#7 ++ 119#7 ++ 8#5, .shl 11 65 119),
    (1#6 ++ 12#7 ++ 65#7 ++ 118#7 ++ 9#5, .shr 12 65 118),
    (1#6 ++ 13#7 ++ 65#7 ++ 117#7 ++ 10#5, .sar 13 65 117),
    (1#6 ++ 14#7 ++ 65#7 ++ 116#7 ++ 11#5, .rol 14 65 116),
    (1#6 ++ 15#7 ++ 65#7 ++ 115#7 ++ 12#5, .min 15 65 115),
    (1#6 ++ 16#7 ++ 65#7 ++ 114#7 ++ 13#5, .max 16 65 114),
    (1#6 ++ 17#7 ++ 65#7 ++ 113#7 ++ 14#5, .minu 17 65 113),
    (1#6 ++ 18#7 ++ 65#7 ++ 112#7 ++ 15#5, .maxu 18 65 112)] : List (Word × Instr)).all decodesTo = true := by decide

/-- R91, R92: major 0x01. -/
theorem test_decode_integer_2 : ([
    (1#6 ++ 19#7 ++ 65#7 ++ 111#7 ++ 16#5, .div 19 65 111),
    (1#6 ++ 20#7 ++ 65#7 ++ 110#7 ++ 17#5, .divu 20 65 110),
    (1#6 ++ 21#7 ++ 65#7 ++ 109#7 ++ 18#5, .rem 21 65 109),
    (1#6 ++ 22#7 ++ 65#7 ++ 108#7 ++ 19#5, .remu 22 65 108),
    (1#6 ++ 23#7 ++ 65#7 ++ 107#7 ++ 20#5, .adds 23 65 107),
    (1#6 ++ 24#7 ++ 65#7 ++ 106#7 ++ 21#5, .subs 24 65 106),
    (1#6 ++ 9#7 ++ 70#7 ++ 0#7 ++ 22#5, .popc 9 70),
    (1#6 ++ 9#7 ++ 71#7 ++ 0#7 ++ 23#5, .clz 9 71),
    (1#6 ++ 9#7 ++ 72#7 ++ 0#7 ++ 24#5, .brev 9 72),
    (1#6 ++ 8#7 ++ 2#7 ++ 124#7 ++ 25#5, .add64 8 2 124),
    (1#6 ++ 124#7 ++ 8#7 ++ 2#7 ++ 26#5, .sub64 124 8 2)] : List (Word × Instr)).all decodesTo = true := by decide

/-- R93: major 0x1F. -/
theorem test_decode_uniform_1 : ([
    (31#6 ++ 3#7 ++ 65#7 ++ 127#7 ++ 0#5, .uadd 3 65 127),
    (31#6 ++ 4#7 ++ 65#7 ++ 126#7 ++ 1#5, .usub 4 65 126),
    (31#6 ++ 5#7 ++ 65#7 ++ 125#7 ++ 2#5, .umul 5 65 125),
    (31#6 ++ 6#7 ++ 65#7 ++ 124#7 ++ 3#5, .umulh 6 65 124),
    (31#6 ++ 7#7 ++ 65#7 ++ 123#7 ++ 4#5, .umulhu 7 65 123),
    (31#6 ++ 8#7 ++ 65#7 ++ 122#7 ++ 5#5, .uand 8 65 122),
    (31#6 ++ 9#7 ++ 65#7 ++ 121#7 ++ 6#5, .uor 9 65 121),
    (31#6 ++ 10#7 ++ 65#7 ++ 120#7 ++ 7#5, .uxor 10 65 120),
    (31#6 ++ 11#7 ++ 65#7 ++ 119#7 ++ 8#5, .ushl 11 65 119),
    (31#6 ++ 12#7 ++ 65#7 ++ 118#7 ++ 9#5, .ushr 12 65 118),
    (31#6 ++ 13#7 ++ 65#7 ++ 117#7 ++ 10#5, .usar 13 65 117),
    (31#6 ++ 14#7 ++ 65#7 ++ 116#7 ++ 11#5, .urol 14 65 116),
    (31#6 ++ 15#7 ++ 65#7 ++ 115#7 ++ 12#5, .umin 15 65 115),
    (31#6 ++ 16#7 ++ 65#7 ++ 114#7 ++ 13#5, .umax 16 65 114),
    (31#6 ++ 17#7 ++ 65#7 ++ 113#7 ++ 14#5, .uminu 17 65 113),
    (31#6 ++ 18#7 ++ 65#7 ++ 112#7 ++ 15#5, .umaxu 18 65 112)] : List (Word × Instr)).all decodesTo = true := by decide

/-- R93: major 0x1F. -/
theorem test_decode_uniform_2 : ([
    (31#6 ++ 19#7 ++ 65#7 ++ 111#7 ++ 16#5, .udiv 19 65 111),
    (31#6 ++ 20#7 ++ 65#7 ++ 110#7 ++ 17#5, .udivu 20 65 110),
    (31#6 ++ 21#7 ++ 65#7 ++ 109#7 ++ 18#5, .urem 21 65 109),
    (31#6 ++ 22#7 ++ 65#7 ++ 108#7 ++ 19#5, .uremu 22 65 108),
    (31#6 ++ 23#7 ++ 65#7 ++ 107#7 ++ 20#5, .uadds 23 65 107),
    (31#6 ++ 24#7 ++ 65#7 ++ 106#7 ++ 21#5, .usubs 24 65 106),
    (31#6 ++ 9#7 ++ 70#7 ++ 0#7 ++ 22#5, .upopc 9 70),
    (31#6 ++ 9#7 ++ 71#7 ++ 0#7 ++ 23#5, .uclz 9 71),
    (31#6 ++ 9#7 ++ 72#7 ++ 0#7 ++ 24#5, .ubrev 9 72),
    (31#6 ++ 8#7 ++ 66#7 ++ 124#7 ++ 25#5, .uadd64 8 66 124),
    (31#6 ++ 124#7 ++ 8#7 ++ 2#7 ++ 26#5, .usub64 124 8 2)] : List (Word × Instr)).all decodesTo = true := by decide

/-- R94: majors 0x02 to 0x08. -/
theorem test_decode_immediate : ([
    (2#6 ++ 5#7 ++ 6#7 ++ 2748#12, .addi 5 6 2748),
    (3#6 ++ 5#7 ++ 6#7 ++ 2749#12, .andi 5 6 2749),
    (4#6 ++ 5#7 ++ 6#7 ++ 2750#12, .ori 5 6 2750),
    (5#6 ++ 5#7 ++ 6#7 ++ 2751#12, .xori 5 6 2751),
    (6#6 ++ 5#7 ++ 6#7 ++ 0#2 ++ 0#5 ++ 17#5, .shli 5 6 17),
    (6#6 ++ 5#7 ++ 6#7 ++ 1#2 ++ 0#5 ++ 18#5, .shri 5 6 18),
    (6#6 ++ 5#7 ++ 6#7 ++ 2#2 ++ 0#5 ++ 19#5, .sari 5 6 19),
    (6#6 ++ 5#7 ++ 6#7 ++ 3#2 ++ 0#5 ++ 20#5, .roli 5 6 20),
    (7#6 ++ 9#7 ++ 370085#19, .lui 9 370085),
    (8#6 ++ 9#7 ++ 10#7 ++ 0#1 ++ 1#1 ++ 7#5 ++ 24#5, .bfx 9 10 true 7 24),
    (8#6 ++ 9#7 ++ 10#7 ++ 1#1 ++ 0#1 ++ 11#5 ++ 3#5, .bfi 9 10 11 3)] : List (Word × Instr)).all decodesTo = true := by decide

/-- R92, R94: ICMP, FCMP, SEL and predicate logic. -/
theorem test_decode_compare : ([
    (9#6 ++ 6#3 ++ 0#4 ++ 12#7 ++ 14#7 ++ 4#5, .icmp 6 .eq 12 14 true .set),
    (9#6 ++ 6#3 ++ 5#4 ++ 12#7 ++ 14#7 ++ 6#5, .icmp 6 .ge 12 14 true .or),
    (9#6 ++ 6#3 ++ 9#4 ++ 12#7 ++ 14#7 ++ 4#5, .icmp 6 .geu 12 14 true .set),
    (9#6 ++ 6#3 ++ 2#4 ++ 13#7 ++ 15#7 ++ 1#5, .icmp 6 .lt 13 15 false .and),
    (10#6 ++ 5#3 ++ 1#4 ++ 12#7 ++ 15#7 ++ 6#5, .fcmp 5 .ne 12 15 .fp16 .or),
    (10#6 ++ 5#3 ++ 6#4 ++ 12#7 ++ 15#7 ++ 1#5, .fcmp 5 .un 12 15 .fp32 .and),
    (10#6 ++ 5#3 ++ 7#4 ++ 12#7 ++ 15#7 ++ 6#5, .fcmp 5 .ord 12 15 .fp16 .or),
    (11#6 ++ 4#7 ++ 6#7 ++ 8#7 ++ 29#5, .sel 4 6 8 true true 5),
    (19#6 ++ 7#3 ++ 0#8 ++ 5#3 ++ 0#4 ++ 3#3 ++ 0#5, .pand 7 5 3),
    (19#6 ++ 7#3 ++ 0#8 ++ 5#3 ++ 0#4 ++ 3#3 ++ 1#5, .por 7 5 3),
    (19#6 ++ 7#3 ++ 0#8 ++ 5#3 ++ 0#4 ++ 3#3 ++ 2#5, .pxor 7 5 3),
    (19#6 ++ 7#3 ++ 0#8 ++ 5#3 ++ 0#4 ++ 3#3 ++ 3#5, .pandn 7 5 3),
    (19#6 ++ 7#3 ++ 0#8 ++ 5#3 ++ 0#4 ++ 0#3 ++ 4#5, .pnot 7 5),
    (19#6 ++ 7#3 ++ 0#8 ++ 5#3 ++ 0#4 ++ 0#3 ++ 5#5, .pmov 7 5),
    (19#6 ++ 7#3 ++ 0#8 ++ 0#3 ++ 0#4 ++ 0#3 ++ 6#5, .pset 7),
    (19#6 ++ 7#3 ++ 0#8 ++ 0#3 ++ 0#4 ++ 0#3 ++ 7#5, .pclr 7)] : List (Word × Instr)).all decodesTo = true := by decide

/-- R94: majors 0x0C to 0x0E. -/
theorem test_decode_float_1 : ([
    (12#6 ++ 1#7 ++ 2#7 ++ 3#7 ++ 0#5, .fadd 1 2 3),
    (12#6 ++ 2#7 ++ 2#7 ++ 3#7 ++ 1#5, .fsub 2 2 3),
    (12#6 ++ 3#7 ++ 2#7 ++ 3#7 ++ 2#5, .fmul 3 2 3),
    (12#6 ++ 4#7 ++ 2#7 ++ 3#7 ++ 3#5, .ffma 4 2 3),
    (12#6 ++ 5#7 ++ 2#7 ++ 3#7 ++ 4#5, .fmin 5 2 3),
    (12#6 ++ 6#7 ++ 2#7 ++ 3#7 ++ 5#5, .fmax 6 2 3),
    (12#6 ++ 9#7 ++ 2#7 ++ 3#7 ++ 8#5, .fdiv 9 2 3),
    (12#6 ++ 11#7 ++ 2#7 ++ 3#7 ++ 10#5, .fsgnj 11 2 3),
    (12#6 ++ 7#7 ++ 2#7 ++ 0#7 ++ 6#5, .fabs 7 2),
    (12#6 ++ 8#7 ++ 2#7 ++ 0#7 ++ 7#5, .fneg 8 2),
    (12#6 ++ 10#7 ++ 2#7 ++ 0#7 ++ 9#5, .fsqrt 10 2),
    (13#6 ++ 20#7 ++ 2#7 ++ 0#7 ++ 0#5, .frcp 20 2),
    (13#6 ++ 21#7 ++ 2#7 ++ 0#7 ++ 1#5, .frsq 21 2),
    (13#6 ++ 22#7 ++ 2#7 ++ 0#7 ++ 2#5, .fexp2 22 2),
    (13#6 ++ 23#7 ++ 2#7 ++ 0#7 ++ 3#5, .flog2 23 2),
    (13#6 ++ 24#7 ++ 2#7 ++ 0#7 ++ 4#5, .fsin 24 2)] : List (Word × Instr)).all decodesTo = true := by decide

/-- R94: majors 0x0C to 0x0E. -/
theorem test_decode_float_2 : ([
    (13#6 ++ 25#7 ++ 2#7 ++ 0#7 ++ 5#5, .fcos 25 2),
    (13#6 ++ 26#7 ++ 2#7 ++ 0#7 ++ 6#5, .ftanh 26 2),
    (13#6 ++ 27#7 ++ 2#7 ++ 0#7 ++ 7#5, .fsigm 27 2),
    (14#6 ++ 4#7 ++ 5#7 ++ 21#5 ++ 10#5 ++ 0#2, .fcvt 4 5 21 10)] : List (Word × Instr)).all decodesTo = true := by decide

/-- R94: major 0x0F. -/
theorem test_decode_packed_1 : ([
    (15#6 ++ 4#7 ++ 5#7 ++ 60#7 ++ 0#5, .pkadd 4 5 60),
    (15#6 ++ 4#7 ++ 5#7 ++ 60#7 ++ 8#5, .pkaddBf16 4 5 60),
    (15#6 ++ 4#7 ++ 5#7 ++ 61#7 ++ 1#5, .pkmul 4 5 61),
    (15#6 ++ 4#7 ++ 5#7 ++ 61#7 ++ 9#5, .pkmulBf16 4 5 61),
    (15#6 ++ 4#7 ++ 5#7 ++ 62#7 ++ 2#5, .pkfma 4 5 62),
    (15#6 ++ 4#7 ++ 5#7 ++ 62#7 ++ 10#5, .pkfmaBf16 4 5 62),
    (15#6 ++ 4#7 ++ 5#7 ++ 63#7 ++ 3#5, .pkmin 4 5 63),
    (15#6 ++ 4#7 ++ 5#7 ++ 63#7 ++ 11#5, .pkminBf16 4 5 63),
    (15#6 ++ 4#7 ++ 5#7 ++ 64#7 ++ 4#5, .pkmax 4 5 64),
    (15#6 ++ 4#7 ++ 5#7 ++ 64#7 ++ 12#5, .pkmaxBf16 4 5 64),
    (15#6 ++ 4#7 ++ 5#7 ++ 65#7 ++ 5#5, .pksub 4 5 65),
    (15#6 ++ 4#7 ++ 5#7 ++ 65#7 ++ 13#5, .pksubBf16 4 5 65),
    (15#6 ++ 4#7 ++ 5#7 ++ 6#7 ++ 16#5, .fdot4E4m3 4 5 6),
    (15#6 ++ 4#7 ++ 5#7 ++ 6#7 ++ 17#5, .fdot4E5m2 4 5 6),
    (15#6 ++ 4#7 ++ 5#7 ++ 6#7 ++ 20#5, .idp4Ss 4 5 6),
    (15#6 ++ 4#7 ++ 5#7 ++ 6#7 ++ 21#5, .idp4Su 4 5 6)] : List (Word × Instr)).all decodesTo = true := by decide

/-- R94: major 0x0F. -/
theorem test_decode_packed_2 : ([
    (15#6 ++ 4#7 ++ 5#7 ++ 6#7 ++ 22#5, .idp4Us 4 5 6),
    (15#6 ++ 4#7 ++ 5#7 ++ 6#7 ++ 23#5, .idp4Uu 4 5 6)] : List (Word × Instr)).all decodesTo = true := by decide

/-- R89, R107: BRA, CALL and major 0x12. -/
theorem test_decode_control : ([
    (16#6 ++ 3#3 ++ 1#1 ++ 0#2 ++ 1048574#20, .bra 3 true .plain 1048574),
    (16#6 ++ 3#3 ++ 1#1 ++ 1#2 ++ 1048573#20, .bra 3 true .likely 1048573),
    (16#6 ++ 3#3 ++ 1#1 ++ 2#2 ++ 1048572#20, .bra 3 true .unlikely 1048572),
    (17#6 ++ 2#3 ++ 0#1 ++ 0#2 ++ 524289#20, .call 2 false 524289),
    (18#6 ++ 0#7 ++ 10#7 ++ 0#7 ++ 0#5, .jr 10),
    (18#6 ++ 0#7 ++ 12#7 ++ 0#7 ++ 1#5, .callr 12),
    (18#6 ++ 0#7 ++ 0#7 ++ 0#7 ++ 2#5, .ret)] : List (Word × Instr)).all decodesTo = true := by decide

/-- R95: LD, ST, LDN and STN. -/
theorem test_decode_memory_1 : ([
    (20#6 ++ 0#7 ++ 5#7 ++ 17#5 ++ 0#3 ++ 9#4, .ld 0 5 17 .b 9),
    (22#6 ++ 0#7 ++ 5#7 ++ 0#5 ++ 0#3 ++ 10#4, .ldn 0 5 .b 10),
    (21#6 ++ 0#7 ++ 5#7 ++ 30#5 ++ 0#3 ++ 11#4, .st 0 5 30 .b 11),
    (23#6 ++ 0#7 ++ 5#7 ++ 0#5 ++ 0#3 ++ 12#4, .stn 0 5 .b 12),
    (20#6 ++ 4#7 ++ 5#7 ++ 17#5 ++ 1#3 ++ 9#4, .ld 4 5 17 .sb 9),
    (22#6 ++ 4#7 ++ 5#7 ++ 0#5 ++ 1#3 ++ 10#4, .ldn 4 5 .sb 10),
    (20#6 ++ 8#7 ++ 5#7 ++ 17#5 ++ 2#3 ++ 9#4, .ld 8 5 17 .h 9),
    (22#6 ++ 8#7 ++ 5#7 ++ 0#5 ++ 2#3 ++ 10#4, .ldn 8 5 .h 10),
    (21#6 ++ 8#7 ++ 5#7 ++ 30#5 ++ 2#3 ++ 11#4, .st 8 5 30 .h 11),
    (23#6 ++ 8#7 ++ 5#7 ++ 0#5 ++ 2#3 ++ 12#4, .stn 8 5 .h 12),
    (20#6 ++ 12#7 ++ 5#7 ++ 17#5 ++ 3#3 ++ 9#4, .ld 12 5 17 .sh 9),
    (22#6 ++ 12#7 ++ 5#7 ++ 0#5 ++ 3#3 ++ 10#4, .ldn 12 5 .sh 10),
    (20#6 ++ 16#7 ++ 5#7 ++ 17#5 ++ 4#3 ++ 9#4, .ld 16 5 17 .w 9),
    (22#6 ++ 16#7 ++ 5#7 ++ 0#5 ++ 4#3 ++ 10#4, .ldn 16 5 .w 10),
    (21#6 ++ 16#7 ++ 5#7 ++ 30#5 ++ 4#3 ++ 11#4, .st 16 5 30 .w 11),
    (23#6 ++ 16#7 ++ 5#7 ++ 0#5 ++ 4#3 ++ 12#4, .stn 16 5 .w 12)] : List (Word × Instr)).all decodesTo = true := by decide

/-- R95: LD, ST, LDN and STN. -/
theorem test_decode_memory_2 : ([
    (20#6 ++ 20#7 ++ 5#7 ++ 17#5 ++ 5#3 ++ 9#4, .ld 20 5 17 .d 9),
    (22#6 ++ 20#7 ++ 5#7 ++ 0#5 ++ 5#3 ++ 10#4, .ldn 20 5 .d 10),
    (21#6 ++ 20#7 ++ 5#7 ++ 30#5 ++ 5#3 ++ 11#4, .st 20 5 30 .d 11),
    (23#6 ++ 20#7 ++ 5#7 ++ 0#5 ++ 5#3 ++ 12#4, .stn 20 5 .d 12),
    (20#6 ++ 24#7 ++ 5#7 ++ 17#5 ++ 6#3 ++ 9#4, .ld 24 5 17 .q 9),
    (22#6 ++ 24#7 ++ 5#7 ++ 0#5 ++ 6#3 ++ 10#4, .ldn 24 5 .q 10),
    (21#6 ++ 24#7 ++ 5#7 ++ 30#5 ++ 6#3 ++ 11#4, .st 24 5 30 .q 11),
    (23#6 ++ 24#7 ++ 5#7 ++ 0#5 ++ 6#3 ++ 12#4, .stn 24 5 .q 12)] : List (Word × Instr)).all decodesTo = true := by decide

/-- R95: major 0x18. -/
theorem test_decode_full_empty : ([
    (24#6 ++ 33#7 ++ 44#7 ++ 0#7 ++ 0#5, .ldnf 33 44),
    (24#6 ++ 33#7 ++ 44#7 ++ 0#7 ++ 1#5, .ldnw 33 44),
    (24#6 ++ 0#7 ++ 44#7 ++ 55#7 ++ 2#5, .stne 44 55),
    (24#6 ++ 0#7 ++ 44#7 ++ 55#7 ++ 3#5, .stnf 44 55),
    (24#6 ++ 0#7 ++ 44#7 ++ 0#7 ++ 4#5, .fesetE 44),
    (24#6 ++ 0#7 ++ 44#7 ++ 0#7 ++ 5#5, .fesetF 44),
    (24#6 ++ 33#7 ++ 44#7 ++ 0#7 ++ 6#5, .feq 33 44)] : List (Word × Instr)).all decodesTo = true := by decide

/-- R96. -/
theorem test_decode_atomic_1 : ([
    (25#6 ++ 7#7 ++ 8#7 ++ 10#7 ++ 0#5, .atom 7 8 10 .global .add),
    (26#6 ++ 0#7 ++ 8#7 ++ 11#7 ++ 16#5, .red 8 11 .near .add),
    (25#6 ++ 7#7 ++ 8#7 ++ 10#7 ++ 17#5, .atom 7 8 10 .near .fadd),
    (26#6 ++ 0#7 ++ 8#7 ++ 11#7 ++ 1#5, .red 8 11 .global .fadd),
    (25#6 ++ 7#7 ++ 8#7 ++ 10#7 ++ 2#5, .atom 7 8 10 .global .min),
    (26#6 ++ 0#7 ++ 8#7 ++ 11#7 ++ 18#5, .red 8 11 .near .min),
    (25#6 ++ 7#7 ++ 8#7 ++ 10#7 ++ 19#5, .atom 7 8 10 .near .max),
    (26#6 ++ 0#7 ++ 8#7 ++ 11#7 ++ 3#5, .red 8 11 .global .max),
    (25#6 ++ 7#7 ++ 8#7 ++ 10#7 ++ 4#5, .atom 7 8 10 .global .minu),
    (26#6 ++ 0#7 ++ 8#7 ++ 11#7 ++ 20#5, .red 8 11 .near .minu),
    (25#6 ++ 7#7 ++ 8#7 ++ 10#7 ++ 21#5, .atom 7 8 10 .near .maxu),
    (26#6 ++ 0#7 ++ 8#7 ++ 11#7 ++ 5#5, .red 8 11 .global .maxu),
    (25#6 ++ 7#7 ++ 8#7 ++ 10#7 ++ 6#5, .atom 7 8 10 .global .and),
    (26#6 ++ 0#7 ++ 8#7 ++ 11#7 ++ 22#5, .red 8 11 .near .and),
    (25#6 ++ 7#7 ++ 8#7 ++ 10#7 ++ 23#5, .atom 7 8 10 .near .or),
    (26#6 ++ 0#7 ++ 8#7 ++ 11#7 ++ 7#5, .red 8 11 .global .or)] : List (Word × Instr)).all decodesTo = true := by decide

/-- R96. -/
theorem test_decode_atomic_2 : ([
    (25#6 ++ 7#7 ++ 8#7 ++ 10#7 ++ 8#5, .atom 7 8 10 .global .xor),
    (26#6 ++ 0#7 ++ 8#7 ++ 11#7 ++ 24#5, .red 8 11 .near .xor),
    (25#6 ++ 7#7 ++ 8#7 ++ 10#7 ++ 25#5, .atom 7 8 10 .near .xchg),
    (25#6 ++ 7#7 ++ 8#7 ++ 10#7 ++ 10#5, .atom 7 8 10 .global .cas),
    (27#6 ++ 5#7 ++ 6#7 ++ 0#7 ++ 0#5, .lr 5 6 .global),
    (27#6 ++ 5#7 ++ 6#7 ++ 7#7 ++ 17#5, .sc 5 6 7 .near)] : List (Word × Instr)).all decodesTo = true := by decide

/-- R97. -/
theorem test_decode_sync : ([
    (28#6 ++ 0#5 ++ 0#2 ++ 0#7 ++ 0#7 ++ 0#2 ++ 0#3, .fence .full .workgroup),
    (28#6 ++ 0#5 ++ 1#2 ++ 0#7 ++ 0#7 ++ 0#2 ++ 1#3, .fence .acquire .core),
    (28#6 ++ 0#5 ++ 2#2 ++ 0#7 ++ 0#7 ++ 0#2 ++ 2#3, .fence .release .cluster),
    (28#6 ++ 0#5 ++ 0#2 ++ 0#7 ++ 0#7 ++ 0#2 ++ 3#3, .fence .full .device),
    (28#6 ++ 0#5 ++ 1#2 ++ 0#7 ++ 0#7 ++ 0#2 ++ 4#3, .fence .acquire .system),
    (28#6 ++ 0#7 ++ 0#7 ++ 0#7 ++ 5#5, .fencePath),
    (28#6 ++ 0#7 ++ 0#7 ++ 0#7 ++ 11#5, .bar 3),
    (28#6 ++ 0#4 ++ 6#3 ++ 0#7 ++ 0#7 ++ 2#2 ++ 0#1 ++ 2#2, .tbar 6 2),
    (29#6 ++ 33#6 ++ 62#6 ++ 9#4 ++ 14#4 ++ 0#6, .wait 33 62 9 14)] : List (Word × Instr)).all decodesTo = true := by decide

/-- R97: major 0x1E. -/
theorem test_decode_row : ([
    (30#6 ++ 6#7 ++ 0#7 ++ 21#5 ++ 5#3 ++ 0#4, .voteEvery 6 21 5),
    (30#6 ++ 6#7 ++ 0#7 ++ 21#5 ++ 5#3 ++ 1#4, .voteSome 6 21 5),
    (30#6 ++ 6#7 ++ 0#7 ++ 21#5 ++ 5#3 ++ 2#4, .voteMask 6 21 5),
    (30#6 ++ 6#7 ++ 0#7 ++ 21#5 ++ 5#3 ++ 3#4, .voteCount 6 21 5),
    (30#6 ++ 6#7 ++ 0#7 ++ 21#5 ++ 5#3 ++ 11#4, .cmpk 6 21 5),
    (30#6 ++ 6#7 ++ 3#7 ++ 21#5 ++ 0#3 ++ 4#4, .shflAt 6 3 21),
    (30#6 ++ 6#7 ++ 3#7 ++ 21#5 ++ 0#3 ++ 5#4, .shflRot 6 3 21),
    (30#6 ++ 6#7 ++ 3#7 ++ 21#5 ++ 0#3 ++ 6#4, .shflRev 6 3 21),
    (30#6 ++ 6#7 ++ 3#7 ++ 21#5 ++ 0#3 ++ 7#4, .shflSwap 6 3 21),
    (30#6 ++ 6#7 ++ 3#7 ++ 21#5 ++ 0#3 ++ 8#4, .matchSame 6 3 21),
    (30#6 ++ 6#7 ++ 3#7 ++ 21#5 ++ 0#3 ++ 9#4, .matchUnif 6 3 21),
    (30#6 ++ 6#7 ++ 3#7 ++ 21#5 ++ 0#3 ++ 10#4, .confd 6 3 21),
    (30#6 ++ 6#7 ++ 3#7 ++ 21#5 ++ 0#3 ++ 12#4, .matchLead 6 3 21)] : List (Word × Instr)).all decodesTo = true := by decide

/-- R98: majors 0x20 to 0x25. -/
theorem test_decode_copy : ([
    (32#6 ++ 9#4 ++ 43#6 ++ 19#5 ++ 6#7 ++ 0#4, .cpy 9 43 19 6 .gn .b4),
    (32#6 ++ 9#4 ++ 43#6 ++ 19#5 ++ 6#7 ++ 5#4, .cpy 9 43 19 6 .ng .b8),
    (32#6 ++ 9#4 ++ 43#6 ++ 0#5 ++ 6#7 ++ 10#4, .cpy 9 43 0 6 .nn .b16),
    (32#6 ++ 9#4 ++ 43#6 ++ 19#5 ++ 6#7 ++ 12#4, .cpy 9 43 19 6 .gg .b4),
    (33#6 ++ 9#4 ++ 43#6 ++ 19#5 ++ 6#7 ++ 1#4, .cpym 9 43 19 6 true),
    (34#6 ++ 9#4 ++ 43#6 ++ 19#5 ++ 6#7 ++ 6#4, .cpyq 9 43 19 6 true 2),
    (35#6 ++ 9#4 ++ 43#6 ++ 19#5 ++ 0#7 ++ 11#4, .cbook 9 43 19 .b16 3),
    (36#6 ++ 0#7 ++ 0#7 ++ 0#7 ++ 0#5, .bseal),
    (36#6 ++ 0#7 ++ 10#7 ++ 0#7 ++ 1#5, .twany 10),
    (36#6 ++ 0#7 ++ 10#7 ++ 0#7 ++ 2#5, .twall 10),
    (36#6 ++ 5#7 ++ 10#7 ++ 0#7 ++ 3#5, .tffr 5 10),
    (36#6 ++ 0#7 ++ 10#7 ++ 0#7 ++ 4#5, .tclr 10),
    (37#6 ++ 5#7 ++ 0#3 ++ 11#4 ++ 0#3 ++ 0#4 ++ 0#5, .htest 5 11),
    (37#6 ++ 0#7 ++ 0#3 ++ 11#4 ++ 0#3 ++ 0#4 ++ 1#5, .hcan 11),
    (37#6 ++ 5#7 ++ 0#3 ++ 11#4 ++ 0#3 ++ 0#4 ++ 2#5, .hstat 5 11),
    (37#6 ++ 0#7 ++ 0#3 ++ 11#4 ++ 0#3 ++ 14#4 ++ 3#5, .hmov 11 14)] : List (Word × Instr)).all decodesTo = true := by decide

/-- R98: majors 0x26 to 0x2E. -/
theorem test_decode_matrix : ([
    (38#6 ++ 0#2 ++ 165#8 ++ 0#16, .oclm 165),
    (38#6 ++ 1#2 ++ 91#8 ++ 0#16, .orel 91),
    (39#6 ++ 3#4 ++ 60#6 ++ 7#5 ++ 88#7 ++ 5#4, .old 3 60 7 88 5),
    (40#6 ++ 3#4 ++ 60#6 ++ 7#5 ++ 88#7 ++ 1#4, .mma 3 60 7 88 true),
    (41#6 ++ 3#4 ++ 60#6 ++ 7#5 ++ 88#7 ++ 5#4, .mmas 3 60 7 88 true .n4),
    (41#6 ++ 3#4 ++ 60#6 ++ 7#5 ++ 88#7 ++ 2#4, .mmas 3 60 7 88 false .n3),
    (42#6 ++ 3#4 ++ 60#6 ++ 7#5 ++ 88#7 ++ 5#4, .mv 3 60 7 88 true .bank),
    (42#6 ++ 3#4 ++ 60#6 ++ 7#5 ++ 88#7 ++ 2#4, .mv 3 60 7 88 false .core),
    (43#6 ++ 3#4 ++ 60#6 ++ 7#5 ++ 88#7 ++ 0#4, .accld 3 60 7 88),
    (43#6 ++ 3#4 ++ 60#6 ++ 7#5 ++ 88#7 ++ 1#4, .accst 3 60 7 88),
    (43#6 ++ 3#4 ++ 60#6 ++ 7#5 ++ 88#7 ++ 2#4, .acz 3 60 7 88),
    (44#6 ++ 3#4 ++ 60#6 ++ 0#5 ++ 88#7 ++ 1#4, .scacc 3 60 88 true),
    (45#6 ++ 0#26, .oprdy),
    (46#6 ++ 3#4 ++ 60#6 ++ 0#5 ++ 88#7 ++ 2#4, .nprune 3 60 88 .n3),
    (46#6 ++ 3#4 ++ 60#6 ++ 0#5 ++ 88#7 ++ 3#4, .cmpkSparse 3 60 88)] : List (Word × Instr)).all decodesTo = true := by decide

/-- R98: majors 0x2F to 0x32. -/
theorem test_decode_field : ([
    (47#6 ++ 5#3 ++ 18#5 ++ 90#7 ++ 0#1 ++ 0#10, .fbind 5 18 90),
    (47#6 ++ 5#3 ++ 0#5 ++ 90#7 ++ 1#1 ++ 0#10, .fbindNear 5 90),
    (48#6 ++ 21#7 ++ 42#7 ++ 6#3 ++ 0#9, .fld 21 42 6),
    (49#6 ++ 21#7 ++ 42#7 ++ 6#3 ++ 0#9, .fldg 21 42 6),
    (50#6 ++ 21#7 ++ 42#7 ++ 6#3 ++ 0#9, .fspl 21 42 6)] : List (Word × Instr)).all decodesTo = true := by decide

/-- R98, R108: majors 0x33 to 0x36 and 0x3E. -/
theorem test_decode_choreography : ([
    (51#6 ++ 0#5 ++ 3#2 ++ 0#7 ++ 0#2 ++ 27#5 ++ 0#5, .chor 3 27),
    (51#6 ++ 0#7 ++ 0#7 ++ 0#7 ++ 1#5, .cend),
    (52#6 ++ 13#4 ++ 2#4 ++ 9#4 ++ 0#2 ++ 0#7 ++ 0#5, .hand 13 2 9 .none 0),
    (52#6 ++ 13#4 ++ 2#4 ++ 9#4 ++ 1#2 ++ 99#7 ++ 0#5, .hand 13 2 9 .value 99),
    (52#6 ++ 13#4 ++ 2#4 ++ 9#4 ++ 2#2 ++ 99#7 ++ 0#5, .hand 13 2 9 .buffer 99),
    (53#6 ++ 0#1 ++ 2047#11 ++ 16383#14, .cloop 2047 16383),
    (53#6 ++ 1#1 ++ 0#5 ++ 45#6 ++ 1#14, .cloopReg 45 1),
    (54#6 ++ 12#4 ++ 5#4 ++ 0#6 ++ 77#7 ++ 0#5, .epset 12 5 77),
    (62#6 ++ 33825#16 ++ 1023#10, .cue 33825 1023)] : List (Word × Instr)).all decodesTo = true := by decide

/-- R98: majors 0x37 to 0x3C. -/
theorem test_decode_launch : ([
    (55#6 ++ 3#4 ++ 60#6 ++ 7#5 ++ 88#7 ++ 1#4, .launch 3 60 7 88 true),
    (56#6 ++ 5#7 ++ 6#7 ++ 0#7 ++ 0#5, .gcinc 5 6),
    (57#6 ++ 5#7 ++ 6#7 ++ 0#2 ++ 29#5 ++ 0#5, .qpush 5 6 29),
    (57#6 ++ 5#7 ++ 0#7 ++ 0#2 ++ 29#5 ++ 1#5, .qpop 5 29),
    (58#6 ++ 5#7 ++ 0#7 ++ 0#7 ++ 0#5, .rnd 5),
    (59#6 ++ 3#4 ++ 60#6 ++ 0#5 ++ 88#7 ++ 0#4, .ared 3 60 88),
    (59#6 ++ 3#4 ++ 60#6 ++ 0#5 ++ 88#7 ++ 1#4, .agath 3 60 88),
    (59#6 ++ 3#4 ++ 60#6 ++ 0#5 ++ 88#7 ++ 2#4, .bcast 3 60 88),
    (60#6 ++ 6#7 ++ 0#7 ++ 0#7 ++ 0#5, .dgstRead 6),
    (60#6 ++ 0#7 ++ 6#7 ++ 0#7 ++ 1#5, .dgstFold 6)] : List (Word × Instr)).all decodesTo = true := by decide

/-- R99. -/
theorem test_decode_hint : ([
    (63#6 ++ 0#4 ++ 0#2 ++ 74565#20, .imm 74565),
    (63#6 ++ 1#4 ++ 5#3 ++ 1#1 ++ 0#18, .pred 5 true),
    (63#6 ++ 2#4 ++ 9#4 ++ 262142#18, .ipf 9 262142),
    (63#6 ++ 3#4 ++ 0#17 ++ 1#1 ++ 11#4, .sched true 11),
    (63#6 ++ 4#4 ++ 0#20 ++ 2#2, .rmode 2)] : List (Word × Instr)).all decodesTo = true := by decide

/-- R91, R92, R95, R97, R98, R107: majors, functions and fields that the spec leaves unassigned or reserved decode to nothing. -/
theorem test_decode_unassigned : ([
    61#6 ++ 0#26,
    0#6 ++ 0#7 ++ 0#7 ++ 0#7 ++ 10#5,
    1#6 ++ 1#7 ++ 2#7 ++ 3#7 ++ 27#5,
    1#6 ++ 1#7 ++ 2#7 ++ 3#7 ++ 22#5,
    16#6 ++ 0#3 ++ 1#1 ++ 0#2 ++ 4#20,
    16#6 ++ 1#3 ++ 0#1 ++ 3#2 ++ 4#20,
    17#6 ++ 1#3 ++ 0#1 ++ 1#2 ++ 4#20,
    21#6 ++ 1#7 ++ 2#7 ++ 3#5 ++ 1#3 ++ 0#4,
    20#6 ++ 1#7 ++ 2#7 ++ 3#5 ++ 7#3 ++ 0#4,
    22#6 ++ 1#7 ++ 2#7 ++ 3#5 ++ 4#3 ++ 0#4,
    25#6 ++ 1#7 ++ 2#7 ++ 3#7 ++ 11#5,
    26#6 ++ 0#7 ++ 2#7 ++ 3#7 ++ 9#5,
    28#6 ++ 0#7 ++ 0#7 ++ 0#7 ++ 24#5,
    32#6 ++ 1#4 ++ 2#6 ++ 3#5 ++ 4#7 ++ 3#4,
    38#6 ++ 0#2 ++ 0#8 ++ 0#16,
    52#6 ++ 1#4 ++ 2#4 ++ 2#4 ++ 0#2 ++ 0#7 ++ 0#5] : List Word).all (fun w => match decode w with
      | .ok _ => false
      | .error _ => true) = true := by decide

end Sys2Proof
end

section
/-! SUPPORT. Register writes of the host: what a served write does, the words of a 64-bit register, the interrupt registers, the counters and
the queue blocks of the control page; with the obligations on register writes and on reset. -/
namespace Sys2Proof.Machine

/-! Reset: an unlisted entry reads as its reset value -/

@[simp] theorem State.part_reset (p : Nat) : State.reset.part p = Partition.reset := rfl
@[simp] theorem State.queue_reset (q : Nat) : State.reset.queue q = Queue.reset := rfl
@[simp] theorem State.core_reset (c : Nat) : State.reset.core c = CoreSt.reset := rfl
/-- R35: a tag of a reset core has count 0 and bit 1. -/
theorem CoreSt.tag_bit_reset (i : Nat) : (CoreSt.reset.tag i).bit = true := rfl
/-- R32: a slot of a reset core is FREE. -/
theorem CoreSt.slot_owner_reset (i : Nat) : (CoreSt.reset.slot i).owner = none := rfl

/-! Served writes -/

theorem State.hostSets_of_serves {s : State} {fn : PcieFn} (f : State → State) (h : s.serves fn 0 = true) : s.hostSets fn f = .next (f s) :=
  if_pos h
theorem State.queue_onQueue_self (s : State) (k : Nat) (f : Queue → Queue) : (s.onQueue k f).queue k = f (s.queue k) := by
  simp [State.queue, State.onQueue, Tbl.get, Tbl.find_insert_self]
theorem State.queue_onQueue_ne (s : State) {k j : Nat} (f : Queue → Queue) (h : j ≠ k) : (s.onQueue k f).queue j = s.queue j := by
  simp [State.queue, State.onQueue, Tbl.get, Tbl.find_insert_ne _ _ h]
@[simp] theorem State.partLive_onPart (s : State) (p q : Nat) (f : Partition → Partition) : (s.onPart p f).partLive q = s.partLive q := rfl

/-! Interrupt registers (R403) -/

/-- Sending a message for each listed number that meets a condition appends those messages, in the list's order. -/
theorem State.foldl_send_if (l : List Nat) (c : Nat → Bool) (m : Nat → Message) (s : State) :
    l.foldl (fun (s : State) i => if c i then s.send (m i) else s) s = { s with sent := s.sent ++ (l.filter c).map m } := by
  induction l generalizing s with
  | nil => simp
  | cons i l ih =>
    rw [List.foldl_cons, ih]
    by_cases h : c i = true <;> simp [h, State.send]

/-- A mask write sends the message of each vector whose status bit is 1 and whose mask bit it clears. -/
theorem State.unmasked_fieldOf (s : State) (fn : PcieFn) (status old : BitVec 6) (value : Word) :
    s.unmasked fn status old (fieldOf value 5 0)
      = { s with sent := s.sent ++ ((List.range 6).filter (fun i => status.getLsbD i && old.getLsbD i && !value.getLsbD i)).map (.msix fn ·) } := by
  have hbits : ∀ i ∈ List.range 6, (status.getLsbD i && old.getLsbD i && !(fieldOf value 5 0).getLsbD i)
      = (status.getLsbD i && old.getLsbD i && !value.getLsbD i) := by
    intro i hi
    simp [List.mem_range.mp hi]
  rw [State.unmasked, State.foldl_send_if, List.filter_congr hbits]

/-- A served write of a partition's IRQ_STATUS clears the bits written 1. -/
theorem exec_irqStatusClear_vf {s : State} {p : Nat} (value : Word) (hs : s.serves (.vf p) 0 = true) :
    exec (.irqStatusClear (.vf p) value) s = .next (s.onPart p (fun x => { x with irqStatus := x.irqStatus &&& ~~~(fieldOf value 5 0) })) := by
  change execIrqStatusClear (.vf p) value s = _
  exact State.hostSets_of_serves _ hs
/-- A served write of the PF's IRQ_STATUS clears the bits written 1. -/
theorem exec_irqStatusClear_pf {s : State} (value : Word) (hs : s.serves .pf 0 = true) :
    exec (.irqStatusClear .pf value) s
      = .next { s with mgmt := { s.mgmt with irqStatus := s.mgmt.irqStatus &&& ~~~(fieldOf value 5 0) } } := by
  change execIrqStatusClear .pf value s = _
  exact State.hostSets_of_serves _ hs
/-- A served write of a partition's IRQ_MASK sets the mask and sends what it unmasks. -/
theorem exec_irqMaskWrite_vf {s : State} {p : Nat} (value : Word) (hs : s.serves (.vf p) 0 = true) :
    exec (.irqMaskWrite (.vf p) value) s
      = .next ((s.onPart p (fun x => { x with irqMask := fieldOf value 5 0 })).unmasked (.vf p) (s.part p).irqStatus (s.part p).irqMask
          (fieldOf value 5 0)) := by
  change execIrqMaskWrite (.vf p) value s = _
  simp only [execIrqMaskWrite, State.hostSets_of_serves _ hs]
/-- A served write of the PF's IRQ_MASK sets the mask and sends what it unmasks. -/
theorem exec_irqMaskWrite_pf {s : State} (value : Word) (hs : s.serves .pf 0 = true) :
    exec (.irqMaskWrite .pf value) s
      = .next (({ s with mgmt := { s.mgmt with irqMask := fieldOf value 5 0 } } : State).unmasked .pf s.mgmt.irqStatus s.mgmt.irqMask
          (fieldOf value 5 0)) := by
  change execIrqMaskWrite .pf value s = _
  simp only [execIrqMaskWrite, State.hostSets_of_serves _ hs]

/-! Counters (R347) -/

/-- A served write of MVC_CTL clears the counters of the partition if its CLR is 1. -/
theorem exec_mvcCtlClr {s : State} {p : Nat} (value : Word) (hs : s.serves (.vf p) 0 = true) :
    exec (.mvcCtlClr p value) s = .next (if value.getLsbD 0 then s.onPart p Partition.clearCounters else s) := by
  change execMvcCtlClr p value s = _
  exact State.hostSets_of_serves _ hs

/-- The MVC block of the control page holds the movement counters. -/
theorem State.ctlRead_mvc (s : State) (p : Nat) {off : Nat} (hlo : 0x308 ≤ off) (hhi : off ≤ 0x348) :
    s.ctlRead p off = Tbl.get 0 (s.part p).mvc ((off - 0x308) / 8) := by
  unfold State.ctlRead
  split
  case h_25 => exact if_pos ⟨hlo, hhi⟩
  all_goals omega

/-! Words of a 64-bit register -/

@[simp] theorem getLsbD_loWord (d : DWord) (i : Nat) : (loWord d).getLsbD i = (decide (i < 32) && d.getLsbD i) := by simp [loWord]
@[simp] theorem getLsbD_hiWord (d : DWord) (i : Nat) : (hiWord d).getLsbD i = (decide (i < 32) && d.getLsbD (32 + i)) := by simp [hiWord]
@[simp] theorem getLsbD_setLo (d : DWord) (v : Word) (i : Nat) : (setLo d v).getLsbD i = if i < 32 then v.getLsbD i else d.getLsbD i := by
  refine (BitVec.getLsbD_append (x := hiWord d) (y := v)).trans ?_
  split_ifs with h
  · rfl
  · have hback : 32 + (i - 32) = i := by omega
    by_cases hi : i - 32 < 32
    · simp [hi, hback, -BitVec.getLsbD_eq_getElem]
    · simp [hi, BitVec.getLsbD_of_ge d i (by omega)]
@[simp] theorem getLsbD_setHi (d : DWord) (v : Word) (i : Nat) : (setHi d v).getLsbD i = if i < 32 then d.getLsbD i else v.getLsbD (i - 32) := by
  refine (BitVec.getLsbD_append (x := v) (y := loWord d)).trans ?_
  split_ifs with h <;> simp [h, -BitVec.getLsbD_eq_getElem]

/-- Writing the low word and then the high word of a register writes its unreserved bits: the mask `m` keeps the others zero. -/
theorem setHi_setLo_masked (d m x : DWord) : setHi (setLo d (loWord x) &&& m) (hiWord x) &&& m = x &&& m := by
  refine BitVec.eq_of_getLsbD_eq fun i hi => ?_
  by_cases h : i < 32
  · simp [h, -BitVec.getLsbD_eq_getElem]
  · have hback : 32 + (i - 32) = i := by omega
    have hword : i - 32 < 32 := by omega
    simp [h, hback, hword, -BitVec.getLsbD_eq_getElem]

/-- Writing the two words of LQ_BASE, of which only bits 51 to 12 are kept, writes that field (R372). -/
theorem ring_setHi_setLo (d x : DWord) :
    fieldOf (setHi ((fieldOf (setLo d (loWord x)) 51 12).zeroExtend 64 <<< 12) (hiWord x)) 51 12 = fieldOf x 51 12 := by
  refine BitVec.eq_of_getLsbD_eq fun i hi => ?_
  by_cases h : 12 + i < 32
  · have hring : i < 40 := by omega
    have hreg : 12 + i < 64 := by omega
    have hlow : i < 64 := by omega
    simp [h, hring, hreg, hlow, -BitVec.getLsbD_eq_getElem]
  · have hback : 32 + (12 + i - 32) = 12 + i := by omega
    have hword : 12 + i - 32 < 32 := by omega
    simp [h, hback, hword, -BitVec.getLsbD_eq_getElem]

/-! The control page (R5, R6) -/

/-- A 64-bit write of the control page is a write of its low word and then of its high word. -/
theorem exec_registerWrite_wide {s : State} {p off : Nat} (value : DWord) (hs : s.serves (.vf p) 0 = true) (ho : off % 8 = 0) :
    exec (.registerWrite (.vf p) off 8 value) s
      = .next ((s.ctlWrite p off (loWord value)).ctlWrite p (off + 4) (hiWord value)) := by
  change execRegisterWrite (.vf p) off 8 value s = _
  simp [execRegisterWrite, State.hostSets_of_serves _ hs, State.bar0Write, ho]
/-- A 32-bit write of the control page writes the low word of the value. -/
theorem exec_registerWrite_word {s : State} {p off : Nat} (value : DWord) (hs : s.serves (.vf p) 0 = true) (ho : off % 4 = 0) :
    exec (.registerWrite (.vf p) off 4 value) s = .next (s.ctlWrite p off (loWord value)) := by
  change execRegisterWrite (.vf p) off 4 value s = _
  simp [execRegisterWrite, State.hostSets_of_serves _ hs, State.bar0Write, ho]
/-- A misaligned write, or one of another width, changes nothing (log entry 27). -/
theorem exec_registerWrite_malformed {s : State} {fn : PcieFn} {off width : Nat} (value : DWord) (hs : s.serves fn 0 = true)
    (h : width ≠ 4 ∧ width ≠ 8 ∨ off % width ≠ 0) : exec (.registerWrite fn off width value) s = .next s := by
  change execRegisterWrite fn off width value s = _
  rw [execRegisterWrite, State.hostSets_of_serves _ hs, if_pos h]

/-- A write in the block of queue k reaches the queue if the partition owns it (R372). -/
theorem State.ctlWrite_queue (s : State) (p : Nat) {k r : Nat} (v : Word) (hk : k < 256) (hr : r < 32) :
    s.ctlWrite p (0x1000 + 32 * k + r) v
      = if (s.queue k).owner = some p then s.onQueue k (fun q => q.write (r / 4) v) else s := by
  have hpage : 0x1000 ≤ 0x1000 + 32 * k + r := by omega
  have hend : 0x1000 + 32 * k + r < 0x3000 := by omega
  have hqueue : (0x1000 + 32 * k + r - 0x1000) / 32 = k := by omega
  have hword : (0x1000 + 32 * k + r) % 32 / 4 = r / 4 := by omega
  simp only [State.ctlWrite, if_pos hpage, hend, hqueue, hword, true_and]
/-- No register lies between LINK_DROP and the queue blocks. -/
theorem State.ctlWrite_gap (s : State) (p : Nat) {off : Nat} (v : Word) (hlo : 0x630 ≤ off) (hhi : off < 0x1000) : s.ctlWrite p off v = s := by
  unfold State.ctlWrite
  rw [if_neg (by omega)]
  split
  case h_10 => rfl
  all_goals omega

/-- The low word of XLT_ROOT is written, its reserved bits zero, while the partition has no live launch (R5). -/
theorem State.ctlWrite_xltRoot_lo {s : State} {p : Nat} (v : Word) (h : s.partLive p = false) :
    s.ctlWrite p 0x200 v = s.onPart p (fun x => { x with xltRoot := setLo x.xltRoot v &&& 0x000FFFFFFFFFF001 }) := by
  simp only [State.ctlWrite, h]
  rfl
/-- The high word of XLT_ROOT is written likewise. -/
theorem State.ctlWrite_xltRoot_hi {s : State} {p : Nat} (v : Word) (h : s.partLive p = false) :
    s.ctlWrite p 0x204 v = s.onPart p (fun x => { x with xltRoot := setHi x.xltRoot v &&& 0x000FFFFFFFFFF001 }) := by
  simp only [State.ctlWrite, h]
  rfl
/-- XLT_ROOT ignores a write while the partition has a live launch. -/
theorem State.ctlWrite_xltRoot_live {s : State} {p : Nat} (lo hi : Word) (h : s.partLive p = true) :
    (s.ctlWrite p 0x200 lo).ctlWrite p 0x204 hi = s := by
  simp [State.ctlWrite, h]
/-- INV_VA is written with its reserved bits zero (R329). -/
theorem State.part_ctlWrite_invVa (s : State) (p : Nat) (value : DWord) :
    ((s.ctlWrite p 0x208 (loWord value)).ctlWrite p 0x20C (hiWord value)).part p
      = { s.part p with invVa := value &&& 0x00FFFFFFFFFFF000 } := by
  simp [State.ctlWrite, State.part_onPart_self, setHi_setLo_masked]

/-! LQ_BASE (R372) -/

theorem Queue.write_base_disabled {q : Queue} (value : DWord) (h : q.en = false) :
    (q.write 0 (loWord value)).write 1 (hiWord value) = { q with ring := fieldOf value 51 12 } := by
  simp only [Queue.write, h, Bool.false_eq_true, if_false, ring_setHi_setLo]
theorem Queue.write_base_enabled {q : Queue} (lo hi : Word) (h : q.en = true) : (q.write 0 lo).write 1 hi = q := by
  simp [Queue.write, h]
@[simp] theorem Queue.write_owner (q : Queue) (r : Nat) (v : Word) : (q.write r v).owner = q.owner := by
  unfold Queue.write
  dsimp only
  split
  case h_4 => rfl
  all_goals split <;> rfl

/-- A 64-bit write of an own queue's LQ_BASE writes the block's words 0 and 1. -/
theorem exec_registerWrite_base {s : State} {p k : Nat} (value : DWord) (hs : s.serves (.vf p) 0 = true) (hk : k < 256)
    (ho : (s.queue k).owner = some p) :
    exec (.registerWrite (.vf p) (0x1000 + 32 * k) 8 value) s
      = .next ((s.onQueue k (fun q => q.write 0 (loWord value))).onQueue k (fun q => q.write 1 (hiWord value))) := by
  have hlo := s.ctlWrite_queue p (loWord value) hk (r := 0) (by omega)
  have hhi := (s.onQueue k (fun q => q.write 0 (loWord value))).ctlWrite_queue p (hiWord value) hk (r := 4) (by omega)
  rw [if_pos ho] at hlo
  rw [if_pos (by rw [State.queue_onQueue_self, Queue.write_owner, ho])] at hhi
  rw [exec_registerWrite_wide value hs (by omega)]
  exact congrArg _ ((congrArg (fun n => State.ctlWrite n p _ _) hlo).trans hhi)

/-! The obligations -/

/-- Settles O8: every table of the reset state is empty, so each entry reads as its own reset value. -/
theorem resetValues : Obligations.ResetValues := by
  unfold Obligations.ResetValues
  refine ⟨rfl, rfl, rfl, rfl, rfl, fun p => ?_, fun q => ?_, fun c i _ => ?_, fun c i => ?_, rfl, rfl, rfl⟩
  · rw [State.part_reset]
    decide
  · rw [State.queue_reset]
    decide
  · exact CoreSt.tag_bit_reset i
  · exact CoreSt.slot_owner_reset i

/-- The interrupt registers and CLR of a control page, and the interrupt registers of the management page (R347, R403). -/
theorem interruptRegisters : Claims.InterruptRegisters := by
  refine ⟨fun s p value hs => ⟨⟨_, exec_irqStatusClear_vf value hs, ?_⟩, ⟨_, exec_irqMaskWrite_vf value hs, ?_⟩⟩,
    fun s value hs => ⟨⟨_, exec_irqStatusClear_pf value hs, rfl⟩, ⟨_, exec_irqMaskWrite_pf value hs, ?_⟩⟩,
    fun s p value hs => ⟨fun hset => ?_, fun hclear => ?_⟩⟩
  · exact ⟨State.part_onPart_self s p _, rfl, rfl⟩
  · have hpart := State.part_onPart_self s p (fun x => { x with irqMask := fieldOf value 5 0 })
    rw [State.unmasked_fieldOf]
    exact ⟨hpart, rfl, rfl⟩
  · rw [State.unmasked_fieldOf]
    exact ⟨rfl, rfl⟩
  · have hpart : (s.onPart p Partition.clearCounters).part p = (s.part p).clearCounters := State.part_onPart_self s p _
    refine ⟨_, _, (exec_mvcCtlClr value hs).trans (by rw [if_pos hset]), hpart, rfl, fun q hq => State.part_onPart_ne s _ hq, rfl, fun off hlo hhi _ => ?_, ?_⟩
    · rw [State.ctlRead_mvc _ p hlo hhi, hpart]
      rfl
    · simp [State.ctlRead, hpart, Partition.clearCounters]
  · rw [exec_mvcCtlClr value hs, hclear, if_neg Bool.false_ne_true]

/-- The registers of the control page that are written by their access codes (R5, R6, R329, R372). -/
theorem registerWrites : Claims.RegisterWrites := by
  refine fun s p value hs => ⟨fun hidle => ?_, fun hlive => ?_, ?_, fun k hk ho => ⟨fun hoff => ?_, fun hon => ?_⟩, fun k hk ho r hr ha => ?_,
    fun off width h => exec_registerWrite_malformed value hs h, fun off hlo hhi ha => ?_⟩
  · have hexec := exec_registerWrite_wide value hs (off := 0x200) rfl
    rw [State.ctlWrite_xltRoot_lo _ hidle, State.ctlWrite_xltRoot_hi _ (by rwa [State.partLive_onPart])] at hexec
    refine ⟨_, hexec, ?_, rfl, rfl⟩
    rw [State.part_onPart_self, State.part_onPart_self, setHi_setLo_masked]
  · rw [exec_registerWrite_wide value hs rfl, State.ctlWrite_xltRoot_live _ _ hlive]
  · exact ⟨_, exec_registerWrite_wide value hs rfl, State.part_ctlWrite_invVa s p value⟩
  · refine ⟨_, exec_registerWrite_base value hs hk ho, ?_, fun j hj => ?_⟩
    · rw [State.queue_onQueue_self, State.queue_onQueue_self, Queue.write_base_disabled value hoff]
    · rw [State.queue_onQueue_ne _ _ hj, State.queue_onQueue_ne _ _ hj]
  · refine ⟨_, exec_registerWrite_base value hs hk ho, ?_⟩
    rw [State.queue_onQueue_self, State.queue_onQueue_self, Queue.write_base_enabled _ _ hon]
  · rw [exec_registerWrite_word value hs (by omega), State.ctlWrite_queue s p _ hk hr, if_neg ho]
  · rw [exec_registerWrite_word value hs ha, State.ctlWrite_gap s p _ hlo hhi]

/-- Settles O51, from what each register's write does to its partition or queue. -/
theorem registers : Obligations.Registers := ⟨interruptRegisters, registerWrites⟩

end Sys2Proof.Machine
end

section
/-! SUPPORT. Words that change several threads in one go: what a change of every executing thread does; with the obligation on the uniform
words and on the words that write predicates. -/
namespace Sys2Proof.Machine

/-! Changing the executing threads -/

/-- The threads ts have become `f t`, and nothing else has changed. -/
structure State.Becomes (s n : State) (ts : List Thread) (f : Thread → Thread) : Prop where
  changed : ∀ t ∈ ts, n.thread t.ref = some (f t)
  others  : ∀ r, (∀ t ∈ ts, refKey t.ref ≠ refKey r) → n.thread r = s.thread r
  rest    : n = { s with threads := n.threads }

/-- Changing each of several distinct resident threads, one after the other. -/
theorem State.foldl_onThread_becomes {f : Thread → Thread} (hf : ∀ t, (f t).ref = t.ref) (ts : List Thread) (s : State)
    (res : ∀ t ∈ ts, s.thread t.ref = some t) (dis : (ts.map (fun t => refKey t.ref)).Nodup) :
    s.Becomes ((ts.map (·.ref)).foldl (fun s r => s.onThread r f) s) ts f := by
  induction ts generalizing s with
  | nil => exact ⟨by simp, fun _ _ => rfl, rfl⟩
  | cons t ts ih =>
    simp only [List.map_cons, List.nodup_cons, List.mem_map, not_exists, not_and] at dis
    obtain ⟨hne, hdis⟩ := dis
    have hself : (s.onThread t.ref f).thread t.ref = some (f t) := State.thread_onThread_some (res t (by simp)) (hf t)
    obtain ⟨hc, ho, hr⟩ := ih (s.onThread t.ref f)
      (fun u hu => by rw [State.thread_onThread_ne s f (hne u hu)]; exact res u (by simp [hu])) hdis
    refine ⟨fun u hu => ?_, fun r hr => ?_, ?_⟩
    · rcases List.mem_cons.1 hu with rfl | hu
      · exact (ho _ hne).trans hself
      · exact hc u hu
    · exact (ho r (fun u hu => hr u (by simp [hu]))).trans (State.thread_onThread_ne s f (fun e => hr t (by simp) e.symm))
    · rw [List.map_cons, List.foldl_cons, hr]
      rfl

/-- Two changes of the executing threads, one after the other. -/
theorem State.Becomes.trans {a b c : State} {ts : List Thread} {f g : Thread → Thread} (h : a.Becomes b ts f)
    (k : b.Becomes c (ts.map f) g) (hf : ∀ t, (f t).ref = t.ref) : a.Becomes c ts (fun t => g (f t)) := by
  refine ⟨fun t ht => ?_, fun r hr => ?_, by rw [k.rest, h.rest]⟩
  · have := k.changed (f t) (List.mem_map_of_mem ht)
    rwa [hf] at this
  · refine (k.others r fun u hu => ?_).trans (h.others r hr)
    obtain ⟨t, ht, rfl⟩ := List.mem_map.1 hu
    rw [hf]
    exact hr t ht

/-- The executing threads go on. -/
theorem State.advanceAll_becomes {ts : List Thread} {s : State} (res : ∀ t ∈ ts, s.thread t.ref = some t)
    (dis : (ts.map (fun t => refKey t.ref)).Nodup) : s.Becomes (s.advanceAll (ts.map (·.ref))) ts Thread.advance :=
  State.foldl_onThread_becomes Thread.advance_ref ts s res dis

/-- The executing threads change and go on. -/
theorem State.foldl_onThread_advanceAll {f : Thread → Thread} (hf : ∀ t, (f t).ref = t.ref) {ts : List Thread} {s : State}
    (res : ∀ t ∈ ts, s.thread t.ref = some t) (dis : (ts.map (fun t => refKey t.ref)).Nodup) :
    s.Becomes (((ts.map (·.ref)).foldl (fun s r => s.onThread r f) s).advanceAll (ts.map (·.ref))) ts (fun t => (f t).advance) := by
  have hfirst := State.foldl_onThread_becomes hf ts s res dis
  have hrefs : (ts.map f).map (·.ref) = ts.map (·.ref) := by simp [hf]
  have hsecond := State.advanceAll_becomes (ts := ts.map f) (s := (ts.map (·.ref)).foldl (fun s r => s.onThread r f) s)
    (fun u hu => by
      obtain ⟨t, ht, rfl⟩ := List.mem_map.1 hu
      rw [hf]
      exact hfirst.changed t ht)
    (by simpa [Function.comp_def, hf] using dis)
  rw [hrefs] at hsecond
  exact hfirst.trans hsecond hf

/-- The end of an issue that has changed the executing threads alone. -/
theorem State.Becomes.finish {s n : State} {ts : List Thread} {f : Thread → Thread} (h : s.Becomes n ts f) (hs : s.traps = []) :
    s.ThreadsBecome n.finish ts f := by
  have hn : n.traps = [] := by rw [h.rest]; exact hs
  rw [State.finish_quiet hn]
  exact ⟨h.changed, h.others, congrArg (fun m : State => { m with issue := none }) h.rest⟩

/-! Uniform words (R133): the specified functions are the model's -/

theorem wrap_toInt_add (a b : Word) : Claims.wrap (a.toInt + b.toInt) = opAdd a b := by
  simp [Claims.wrap, opAdd, BitVec.ofInt_add]
theorem wrap_toInt_sub (a b : Word) : Claims.wrap (a.toInt - b.toInt) = opSub a b := by
  simp [Claims.wrap, opSub, Int.sub_eq_add_neg, BitVec.ofInt_add, BitVec.ofInt_neg, BitVec.sub_eq_add_neg]
theorem wrap_toInt_mul (a b : Word) : Claims.wrap (a.toInt * b.toInt) = opMul a b := by
  simp [Claims.wrap, opMul, BitVec.ofInt_mul]
theorem shlSpec_eq_opShl (a b : Word) : Claims.shlSpec a b = opShl a b := by
  apply BitVec.eq_of_toNat_eq
  simp [Claims.shlSpec, opShl, Nat.shiftLeft_eq]
theorem shrSpec_eq_opShr (a b : Word) : Claims.shrSpec a b = opShr a b := by
  apply BitVec.eq_of_toNat_eq
  rw [Claims.shrSpec, opShr, BitVec.toNat_ofNat, BitVec.toNat_ushiftRight, Nat.shiftRight_eq_div_pow,
    Nat.mod_eq_of_lt (lt_of_le_of_lt (Nat.div_le_self _ _) a.isLt)]
theorem sarSpec_eq_opSar (a b : Word) : Claims.sarSpec a b = opSar a b := by
  simp [Claims.sarSpec, Claims.wrap, opSar, BitVec.sshiftRight, Int.shiftRight_eq_div_pow]
/-- The bits shifted out at the top come back at the bottom. -/
theorem rolSpec_eq_opRol (a b : Word) : Claims.rolSpec a b = opRol a b := by
  have hk : b.toNat % 32 < 32 := Nat.mod_lt _ (by omega)
  unfold Claims.rolSpec opRol
  generalize b.toNat % 32 = k at hk
  have hpow : 2 ^ (32 - k) * 2 ^ k = 2 ^ 32 := by rw [← Nat.pow_add, Nat.sub_add_cancel hk.le]
  have hlow : a.toNat / 2 ^ (32 - k) < 2 ^ k := Nat.div_lt_of_lt_mul (hpow ▸ a.isLt)
  have hhigh : a.toNat * 2 ^ k % 2 ^ 32 = a.toNat % 2 ^ (32 - k) * 2 ^ k := by rw [← hpow, Nat.mul_mod_mul_right]
  have hlt : a.toNat % 2 ^ (32 - k) * 2 ^ k + a.toNat / 2 ^ (32 - k) < 2 ^ 32 :=
    calc _ < (a.toNat % 2 ^ (32 - k) + 1) * 2 ^ k := by rw [Nat.succ_mul]; omega
      _ ≤ 2 ^ (32 - k) * 2 ^ k := Nat.mul_le_mul_right _ (Nat.mod_lt _ (by positivity))
      _ = 2 ^ 32 := hpow
  have hor := Nat.shiftLeft_add_eq_or_of_lt hlow (a.toNat % 2 ^ (32 - k))
  rw [Nat.shiftLeft_eq] at hor
  apply BitVec.eq_of_toNat_eq
  rw [BitVec.toNat_ofNat, BitVec.toNat_rotateLeft, Nat.mod_eq_of_lt hk, Nat.shiftLeft_eq, Nat.shiftRight_eq_div_pow, hhigh, ← hor,
    Nat.add_mod, hhigh, Nat.add_mod_mod, Nat.mod_eq_of_lt hlt]
theorem wrap_min_toInt (a b : Word) : Claims.wrap (min a.toInt b.toInt) = opMin a b := by
  unfold opMin
  split_ifs with h
  · simp [Claims.wrap, min_eq_left h]
  · simp [Claims.wrap, min_eq_right (le_of_not_ge h)]
theorem wrap_max_toInt (a b : Word) : Claims.wrap (max a.toInt b.toInt) = opMax a b := by
  unfold opMax
  split_ifs with h
  · simp [Claims.wrap, max_eq_right h]
  · simp [Claims.wrap, max_eq_left (le_of_not_ge h)]
theorem ofNat_min_toNat (a b : Word) : BitVec.ofNat 32 (min a.toNat b.toNat) = opMinu a b := by
  unfold opMinu
  split_ifs with h
  · simp [min_eq_left h]
  · simp [min_eq_right (le_of_not_ge h)]
theorem ofNat_max_toNat (a b : Word) : BitVec.ofNat 32 (max a.toNat b.toNat) = opMaxu a b := by
  unfold opMaxu
  split_ifs with h
  · simp [max_eq_right h]
  · simp [max_eq_left (le_of_not_ge h)]
/-- The remainder is what the truncated quotient leaves. -/
theorem remSpec_eq_opRem (a b : Word) : Claims.remSpec a b = opRem a b := by
  simp only [Claims.remSpec, opRem, Int.tmod_def]
  rfl
theorem remuSpec_eq_opRemu (a b : Word) : Claims.remuSpec a b = opRemu a b := by
  simp only [Claims.remuSpec, opRemu, Nat.mod_eq_sub_mul_div]
/-- Clamping to the signed range. -/
theorem clampSpec_eq_clamp32 (i : Int) : Claims.clampSpec i = clamp32 i := by
  unfold Claims.clampSpec clamp32
  split_ifs with hlo hhi
  · have : max (-(2 ^ 31)) (min i (2 ^ 31 - 1)) = -(2 ^ 31 : Int) := by omega
    rw [this]; rfl
  · have : max (-(2 ^ 31)) (min i (2 ^ 31 - 1)) = (2 ^ 31 - 1 : Int) := by omega
    rw [this]; rfl
  · have : max (-(2 ^ 31)) (min i (2 ^ 31 - 1)) = i := by omega
    rw [this]; rfl

/-- A uniform word with two sources computes, in the elected thread, the function of R132 of its thread form. -/
theorem exec_of_uniform2 {i : Instr} {d a b : UReg} {same : VReg → VReg → VReg → Instr} (h : Claims.uniform2 i = some (d, a, b, same)) :
    ∃ f, (∀ s, exec i s = issueElected i (uniform2 d a b f) s) ∧ Claims.alu2 (same 0 0 0) = some (0, 0, 0, f) := by
  have spec : ∀ {f g : Word → Word → Word}, (∀ a b, f a b = g a b) → some ((0 : VReg), (0 : VReg), (0 : VReg), f) = some (0, 0, 0, g) :=
    fun e => by rw [funext fun a => funext (e a)]
  unfold Claims.uniform2 at h
  split at h
  · cases h; exact ⟨_, fun _ => rfl, spec wrap_toInt_add⟩
  · cases h; exact ⟨_, fun _ => rfl, spec wrap_toInt_sub⟩
  · cases h; exact ⟨_, fun _ => rfl, spec wrap_toInt_mul⟩
  · cases h; exact ⟨_, fun _ => rfl, spec fun _ _ => rfl⟩
  · cases h; exact ⟨_, fun _ => rfl, spec fun _ _ => rfl⟩
  · cases h; exact ⟨_, fun _ => rfl, spec fun _ _ => rfl⟩
  · cases h; exact ⟨_, fun _ => rfl, spec fun _ _ => rfl⟩
  · cases h; exact ⟨_, fun _ => rfl, spec fun _ _ => rfl⟩
  · cases h; exact ⟨_, fun _ => rfl, spec shlSpec_eq_opShl⟩
  · cases h; exact ⟨_, fun _ => rfl, spec shrSpec_eq_opShr⟩
  · cases h; exact ⟨_, fun _ => rfl, spec sarSpec_eq_opSar⟩
  · cases h; exact ⟨_, fun _ => rfl, spec rolSpec_eq_opRol⟩
  · cases h; exact ⟨_, fun _ => rfl, spec wrap_min_toInt⟩
  · cases h; exact ⟨_, fun _ => rfl, spec wrap_max_toInt⟩
  · cases h; exact ⟨_, fun _ => rfl, spec ofNat_min_toNat⟩
  · cases h; exact ⟨_, fun _ => rfl, spec ofNat_max_toNat⟩
  · cases h; exact ⟨_, fun _ => rfl, spec fun _ _ => rfl⟩
  · cases h; exact ⟨_, fun _ => rfl, spec fun _ _ => rfl⟩
  · cases h; exact ⟨_, fun _ => rfl, spec remSpec_eq_opRem⟩
  · cases h; exact ⟨_, fun _ => rfl, spec remuSpec_eq_opRemu⟩
  · cases h; exact ⟨_, fun _ => rfl, spec fun a b => clampSpec_eq_clamp32 _⟩
  · cases h; exact ⟨_, fun _ => rfl, spec fun a b => clampSpec_eq_clamp32 _⟩
  · cases h

/-- R133: a uniform word with a 32-bit result writes it and lets the threads go on. -/
theorem exec_uniform32 {s : State} {ts : List Thread} {t : Thread} {w : Workgroup} {i : Instr} {d : UReg} {x : Word} (h : s.Elects i ts t w)
    (hx : Claims.uniformResult i t w = some (d, x)) :
    exec i s = .next ((s.putU t.ref.wg (ts.map (·.ref)) d x).advanceAll (ts.map (·.ref))).finish := by
  unfold Claims.uniformResult at hx
  split at hx
  · cases hx; exact issueElected_elects h
  · cases hx; exact issueElected_elects h
  · cases hx; exact issueElected_elects h
  · split at hx
    next hu =>
      obtain ⟨f, hexec, halu⟩ := exec_of_uniform2 hu
      rw [halu] at hx
      cases hx
      rw [hexec]
      exact issueElected_elects h
    next => cases hx
/-- R133: likewise with a 64-bit result. -/
theorem exec_uniform64 {s : State} {ts : List Thread} {t : Thread} {w : Workgroup} {i : Instr} {d : UReg} {x : DWord} (h : s.Elects i ts t w)
    (hx : Claims.uniformResult64 i t w = some (d, x)) :
    exec i s = .next ((s.putU64 t.ref.wg (ts.map (·.ref)) d x).advanceAll (ts.map (·.ref))).finish := by
  unfold Claims.uniformResult64 at hx
  split at hx
  · cases hx; exact issueElected_elects h
  · cases hx; exact issueElected_elects h
  · cases hx

/-- A word of a workgroup that changes the workgroup once and lets the threads go on. -/
theorem State.Elects.onWg_advanceAll {s : State} {ts : List Thread} {t : Thread} {w : Workgroup} {i : Instr} (h : s.Elects i ts t w)
    (f : Workgroup → Workgroup) :
    let n := ((s.onWg t.ref.wg f).advanceAll (ts.map (·.ref))).finish
    n.wg t.ref.wg = some (f w) ∧ (∀ g, g ≠ t.ref.wg → n.wg g = s.wg g)
      ∧ ({ s with wgs := n.wgs } : State).ThreadsBecome n ts Thread.advance := by
  have hb := (State.advanceAll_becomes (s := s.onWg t.ref.wg f) h.issues.resident h.issues.distinct).finish h.issues.settled
  have hw : s.wg t.ref.wg = some w := (h.runs t h.elected).workgroup
  generalize ((s.onWg t.ref.wg f).advanceAll (ts.map (·.ref))).finish = n at hb ⊢
  have hwgs : n.wgs = (s.onWg t.ref.wg f).wgs := (congrArg State.wgs hb.rest :)
  have hn : ∀ g, n.wg g = (s.onWg t.ref.wg f).wg g := fun g => congrArg (Tbl.find · g) hwgs
  refine ⟨?_, fun g hg => ?_, ⟨hb.changed, hb.others, ?_⟩⟩
  · rw [hn, State.wg_onWg_self, hw]
    rfl
  · rw [hn, State.wg_onWg_ne s f hg]
  · rw [hwgs]
    exact hb.rest

/-- R93, R98, R133: the results and the frames of the uniform words. -/
theorem uniformResults : Claims.UniformResults := by
  refine fun s ts t w i d h => ⟨fun x hx => ⟨_, exec_uniform32 h hx, ?_⟩, fun x hx => ⟨_, exec_uniform64 h hx, ?_⟩⟩
  · unfold State.putU
    split_ifs with hd
    · exact h.onWg_advanceAll _
    · exact (State.foldl_onThread_advanceAll (f := fun u => u.setV (d.toNat - 64) x) (fun _ => rfl) h.issues.resident h.issues.distinct).finish h.issues.settled
  · unfold State.putU64
    split_ifs with hd
    · exact h.onWg_advanceAll _
    · exact (State.foldl_onThread_advanceAll (f := fun u => u.setPair (d.toNat - 64) x) (fun _ => rfl) h.issues.resident h.issues.distinct).finish h.issues.settled

/-! Words that write predicates (R136, R138) -/

theorem Thread.getP_zero (t : Thread) : t.getP 0 = true := rfl
theorem Thread.setP_zero (t : Thread) (b : Bool) : t.setP 0 b = t := rfl
/-- A predicate's bit after a write of another predicate or of itself (R14). -/
theorem Thread.getLsbD_setP (t : Thread) {p : PReg} (b : Bool) (hp : p ≠ 0) (q : PReg) :
    (t.setP p b).p.getLsbD q.toNat = if q = p then b else t.p.getLsbD q.toNat := by
  have hq8 : q.toNat < 8 := q.isLt
  have hbit : (1#8 <<< p.toNat).getLsbD q.toNat = decide (q = p) := by
    have hp8 : p.toNat < 8 := p.isLt
    rw [← BitVec.twoPow_eq, BitVec.getLsbD_twoPow]
    simp [BitVec.toNat_eq, hp8, eq_comm]
  unfold Thread.setP
  rw [if_neg (by simpa using hp)]
  by_cases h : q = p
  · rw [if_pos h]
    subst h
    cases b <;> simp [hbit, hq8, -BitVec.getLsbD_eq_getElem]
  · rw [if_neg h]
    cases b <;> simp [hbit, h, hq8, -BitVec.getLsbD_eq_getElem]
theorem Thread.getP_setP_self (t : Thread) {p : PReg} (b : Bool) (h : p ≠ 0) : (t.setP p b).getP p = b := by
  rw [Thread.getP, Thread.getLsbD_setP t b h, if_pos rfl, beq_false_of_ne h, Bool.false_or]
theorem Thread.getP_setP_ne (t : Thread) {p q : PReg} (b : Bool) (h : q ≠ p) : (t.setP p b).getP q = t.getP q := by
  by_cases hp : p = 0
  · rw [hp]; rfl
  · rw [Thread.getP, Thread.getP, Thread.getLsbD_setP t b hp, if_neg h]

/-- A compare or predicate word gives each thread its predicate. -/
theorem exec_predicate {i : Instr} {f : Thread → PReg × Bool} (h : ∀ t, Claims.predicateResult i t = some (f t)) (s : State) :
    exec i s = issueThread i (fun t _ => t.setP (f t).1 (f t).2) s ∧ blockOf i = none ∧ isBind i = false := by
  have hstart := h (Thread.start { wg := 0, tid := 0 } 0 0)
  obtain rfl : f = fun t => (Claims.predicateResult i t).getD (0, false) := funext fun t => by rw [h]; rfl
  unfold Claims.predicateResult at hstart
  split at hstart
  case h_1 p c a b wide m =>
    refine ⟨congrArg (fun g => issueThread _ g s) (funext fun t => funext fun _ => ?_), rfl, rfl⟩
    refine congrArg (t.combine p m) ?_
    cases wide <;> cases c with
    | ne => exact decide_not.symm
    | _ => rfl
  · exact ⟨rfl, rfl, rfl⟩
  · exact ⟨rfl, rfl, rfl⟩
  · exact ⟨rfl, rfl, rfl⟩
  · exact ⟨rfl, rfl, rfl⟩
  · exact ⟨rfl, rfl, rfl⟩
  · exact ⟨rfl, rfl, rfl⟩
  · exact ⟨rfl, rfl, rfl⟩
  · exact ⟨rfl, rfl, rfl⟩
  · exact ⟨rfl, rfl, rfl⟩
  · cases hstart

/-- R14, R136, R138: the results of the predicate words, and what p0 reads as. -/
theorem predicateResults : Claims.PredicateResults := by
  refine ⟨fun s ts i f hs run hf => ?_, fun t p q b => ⟨t.getP_zero, t.setP_zero b, t.getP_setP_self b, t.getP_setP_ne b⟩⟩
  obtain ⟨hexec, hb, hg⟩ := exec_predicate hf s
  rw [hexec]
  exact issueThread_threadsBecome hs hb hg (fun t => t.setP_ref _ _) run

/-- Settles O12, from what an elected word does and what a word of one thread does. -/
theorem uniformAndPredicateWords : Obligations.UniformAndPredicateWords := ⟨uniformResults, predicateResults⟩

end Sys2Proof.Machine
end

section
/-! SUPPORT. Words that each executing thread executes for itself, reading more than its own registers; handles, special registers, random
numbers and the digest, with the obligation on them. -/
namespace Sys2Proof.Machine

/-! A word that every thread of a group executes for itself -/

/-- What threads do at a word that reads no memory at issue does not depend on the threads. -/
theorem State.fate_threads (s : State) (ths : Tbl Thread) (t : Thread) (w : Workgroup) {i : Instr} (hb : blockOf i = none)
    (hg : isBind i = false) : ({ s with threads := ths } : State).fate t w i = s.fate t w i := by
  simp only [State.fate, State.checkDetail, State.tagBad, State.blocked, State.bindBusy, hg, hb, State.tagFull]
  rfl

theorem State.Becomes.wgOf {s n : State} {ts : List Thread} {f : Thread → Thread} (h : s.Becomes n ts f) (r : ThreadRef) :
    n.wgOf r = s.wgOf r := by
  rw [h.rest]; rfl

/-- A change of one resident thread. -/
theorem State.onThread_becomes {s : State} {t : Thread} {f g : Thread → Thread} (h : s.thread t.ref = some t) (hf : (f t).ref = t.ref)
    (hg : f t = g t) : s.Becomes (s.onThread t.ref f) [t] g :=
  ⟨fun u hu => by rw [List.mem_singleton.1 hu, ← hg]; exact State.thread_onThread_some h hf,
    fun _ hr => State.thread_onThread_ne s f (hr t (by simp)).symm, rfl⟩

/-- Executing a word in each thread of a group in turn, where each changes itself only. -/
theorem State.lanes_becomes {s : State} {i : Instr} {act : Thread → Workgroup → State → State} {f : Thread → Thread} (hb : blockOf i = none)
    (hg : isBind i = false) (ts : List Thread) (m : State) (hm : m = { s with threads := m.threads })
    (hact : ∀ t ∈ ts, ∀ (w : Workgroup) (m : State), s.wgOf t.ref = some w → m = { s with threads := m.threads } → m.thread t.ref = some t →
      m.Becomes (act t w m) [t] f)
    (res : ∀ t ∈ ts, m.thread t.ref = some t) (dis : (ts.map (fun t => refKey t.ref)).Nodup)
    (run : ∀ t ∈ ts, ∃ w, s.Runs i t w) : m.Becomes (m.lanes (ts.map (·.ref)) (lane i act)) ts f := by
  induction ts generalizing m with
  | nil => exact ⟨by simp, fun _ _ => rfl, rfl⟩
  | cons t ts ih =>
    simp only [List.map_cons, List.nodup_cons, List.mem_map, not_exists, not_and] at dis
    obtain ⟨hne, hdis⟩ := dis
    obtain ⟨w, hw⟩ := run t (by simp)
    have ht := res t (by simp)
    have hfate : m.fate t w i = .run := by rw [hm, State.fate_threads s _ t w hb hg, hw.fate]
    have hwg : m.wgOf t.ref = some w := by rw [hm]; exact hw.workgroup
    have hone := hact t (by simp) w m hw.workgroup hm ht
    have hrest := ih (act t w m) (by rw [hone.rest, hm]) (fun u hu => hact u (by simp [hu]))
      (fun u hu => by
        rw [hone.others _ (by simpa using fun e => hne u hu e.symm)]
        exact res u (by simp [hu])) hdis (fun u hu => run u (by simp [hu]))
    have hstep : m.lanes ((t :: ts).map (·.ref)) (lane i act) = (act t w m).lanes (ts.map (·.ref)) (lane i act) := by
      simp [State.lanes, ht, hwg, lane, hfate]
    rw [hstep]
    refine ⟨fun u hu => ?_, fun r hr => ?_, by rw [hrest.rest, hone.rest]⟩
    · rcases List.mem_cons.1 hu with rfl | hu
      · exact (hrest.others _ hne).trans (hone.changed _ (by simp))
      · exact hrest.changed u hu
    · exact (hrest.others r (fun u hu => hr u (by simp [hu]))).trans (hone.others r (by simpa using hr t (by simp)))

/-- A word that each executing thread executes for itself, at the end of its issue. -/
theorem issueLanes_threadsBecome {s : State} {ts : List Thread} {i : Instr} {act : Thread → Workgroup → State → State} {f : Thread → Thread}
    (hs : s.Issues ts) (run : ∀ t ∈ ts, ∃ w, s.Runs i t w) (hb : blockOf i = none) (hg : isBind i = false)
    (hact : ∀ t ∈ ts, ∀ (w : Workgroup) (m : State), s.wgOf t.ref = some w → m = { s with threads := m.threads } → m.thread t.ref = some t →
      m.Becomes (act t w m) [t] f) : ∃ n, issueLanes i act s = .next n ∧ s.ThreadsBecome n ts f := by
  obtain ⟨c, q, pc, hi⟩ := hs.group
  refine ⟨_, ?_, (State.lanes_becomes hb hg ts s rfl hact hs.resident hs.distinct run).finish hs.settled⟩
  simp only [issueLanes, issueWith, hi]

/-- What a thread becomes where that depends on its workgroup. -/
def State.inOwnWg (s : State) (f : Thread → Workgroup → Thread) (t : Thread) : Thread :=
  match s.wgOf t.ref with
  | some w => f t w
  | none => t
theorem State.inOwnWg_some {s : State} {t : Thread} {w : Workgroup} (f : Thread → Workgroup → Thread) (h : s.wgOf t.ref = some w) :
    s.inOwnWg f t = f t w := by
  simp [State.inOwnWg, h]

/-! Handles (R37, R148, R209, R211) -/

/-- NOP, BSEAL and the handle words change each thread as stated. -/
theorem exec_move {i : Instr} {f : Thread → Thread} (h : ∀ t, Claims.moveEffect i t = some (f t)) (s : State) :
    exec i s = issueThread i (fun t _ => f t) s ∧ (∀ t, (f t).ref = t.ref) ∧ blockOf i = none ∧ isBind i = false := by
  have hstart := h (Thread.start { wg := 0, tid := 0 } 0 0)
  obtain rfl : f = fun t => (Claims.moveEffect i t).getD t := funext fun t => by rw [h]; rfl
  unfold Claims.moveEffect at hstart
  split at hstart
  · exact ⟨rfl, fun _ => rfl, rfl, rfl⟩
  · exact ⟨rfl, fun _ => rfl, rfl, rfl⟩
  · refine ⟨congrArg (fun g => issueThread _ g s) (funext fun t => funext fun _ => congrArg (t.setV _) ?_), fun _ => rfl, rfl, rfl⟩
    cases t.getH _ <;> rfl
  · refine ⟨congrArg (fun g => issueThread _ g s) (funext fun t => funext fun _ => congrArg (t.setV _) ?_), fun _ => rfl, rfl, rfl⟩
    cases t.getH _ <;> rfl
  · refine ⟨rfl, fun t => ?_, rfl, rfl⟩
    simp only [Claims.moveEffect, Option.getD_some]
    split <;> rfl
  · cases hstart

/-- R37, R148, R209, R211: the words that change handles, batch or a register. -/
theorem handleWords : Claims.HandleWords := by
  intro s ts i f hs run hf
  obtain ⟨hexec, href, hb, hg⟩ := exec_move hf s
  rw [hexec]
  exact issueThread_threadsBecome hs hb hg href run

/-! Special registers (R22-R25, R272) -/

/-- The special registers of 64 bits are %seed, %cycle and %tagbits (R22). -/
theorem specialWidth_eq_wide (sr : BitVec 7) : specialWidth sr = some 64 ↔ sr = 0x0D ∨ sr = 0x10 ∨ sr = 0x15 := by
  have : ∀ k : Nat, k < 128 → (sr = BitVec.ofNat 7 k ↔ sr.toNat = k) := fun k hk => by
    rw [BitVec.toNat_eq, BitVec.toNat_ofNat, Nat.mod_eq_of_lt hk]
  rw [show (0x0D : BitVec 7) = BitVec.ofNat 7 13 from rfl, show (0x10 : BitVec 7) = BitVec.ofNat 7 16 from rfl,
    show (0x15 : BitVec 7) = BitVec.ofNat 7 21 from rfl, this _ (by omega), this _ (by omega), this _ (by omega)]
  unfold specialWidth
  dsimp only
  split_ifs <;> simp <;> omega

/-- The bits that a fold over 0 to n - 1 sets. -/
theorem getLsbD_foldl_setBits (p : Nat → Bool) (n k : Nat) (hk : k < 64) :
    ((List.range n).foldl (fun (a : DWord) i => if p i then a ||| (1#64 <<< i) else a) 0).getLsbD k = (decide (k < n) && p k) := by
  induction n with
  | zero => simp
  | succ n ih =>
    have hbit : (1#64 <<< n).getLsbD k = decide (k = n) := by
      rw [← BitVec.twoPow_eq, BitVec.getLsbD_twoPow]
      by_cases h : k = n
      · simp [h, h ▸ hk]
      · simp [h, Ne.symm h]
    rw [List.range_succ, List.foldl_append]
    simp only [List.foldl_cons, List.foldl_nil]
    by_cases hp : p n = true
    · rw [if_pos hp, BitVec.getLsbD_or, ih, hbit]
      by_cases h : k = n
      · simp [h, hp]
      · have : k < n + 1 ↔ k < n := by omega
        simp [h, this]
    · rw [if_neg hp, ih]
      by_cases h : k = n
      · simp [h, hp]
      · have : k < n + 1 ↔ k < n := by omega
        simp [this]
/-- %tagbits (R22, R35). -/
theorem CoreSt.getLsbD_tagBits (c : CoreSt) {k : Nat} (hk : k < 64) : c.tagBits.getLsbD k = (c.tag k).bit := by
  rw [CoreSt.tagBits, getLsbD_foldl_setBits (fun i => (c.tag i).bit) 64 k hk]
  simp [hk]

/-- The result of SRD in a thread (R272). -/
def State.srdThread (s : State) (vd : VReg) (sr : BitVec 7) (t : Thread) (w : Workgroup) : Thread :=
  (if specialWidth sr = some 64 then t.setPair vd.toNat (s.special t w sr.toNat) else t.setV vd.toNat (fieldOf (s.special t w sr.toNat) 31 0)).advance

theorem State.srdThread_eq (s : State) (vd : VReg) (sr : BitVec 7) (t : Thread) (w : Workgroup) : s.srdThread vd sr t w
    = (if sr = 0x0D ∨ sr = 0x10 ∨ sr = 0x15 then t.setPair vd.toNat (s.special t w sr.toNat)
        else t.setV vd.toNat (fieldOf (s.special t w sr.toNat) 31 0)).advance := by
  simp only [State.srdThread, specialWidth_eq_wide]

theorem exec_srd {s : State} {ts : List Thread} {vd : VReg} {sr : BitVec 7} (hs : s.Issues ts) (run : ∀ t ∈ ts, ∃ w, s.Runs (.srd vd sr) t w) :
    ∃ n, exec (.srd vd sr) s = .next n ∧ s.ThreadsBecome n ts (s.inOwnWg (s.srdThread vd sr)) := by
  change ∃ n, execSrd vd sr s = _ ∧ _
  refine issueLanes_threadsBecome hs run rfl rfl fun t _ w m hw hm ht => ?_
  have hspecial : m.special t w sr.toNat = s.special t w sr.toNat := by rw [hm]; rfl
  refine State.onThread_becomes ht ?_ ?_
  · split <;> simp
  · rw [State.inOwnWg_some _ hw, hspecial, State.srdThread]

/-- SWR in one thread: what it writes, and that the thread goes on (R5, R22, R272). -/
theorem exec_swr {s : State} {t : Thread} {w : Workgroup} {va : VReg} {sr : BitVec 7} (hs : s.Issues [t]) (run : s.Runs (.swr sr va) t w) :
    exec (.swr sr va) s = .next ((s.setSpecial t sr.toNat (t.getV va.toNat)).onThread t.ref Thread.advance).finish :=
  issueLanes_one hs run

/-- SWR writes no special register but %draw, %fpflags and %mflags. -/
theorem State.setSpecial_readOnly (s : State) (t : Thread) {n : Nat} (x : Word) (h : n ≠ 0x0C ∧ n ≠ 0x0E ∧ n ≠ 0x0F) :
    s.setSpecial t n x = s := by
  unfold State.setSpecial
  split
  case h_4 => rfl
  all_goals omega

/-- What SWR makes of its thread and of its workgroup, before the thread goes on. -/
structure State.SpecialSet (s m : State) (t : Thread) (w : Workgroup) (sr : BitVec 7) (x : Word) : Prop where
  thread : m.thread t.ref = some (if sr = 0x0C then { t with draw := x } else if sr = 0x0E then { t with fpflags := x &&& 0x31F } else t)
  group  : m.wg t.ref.wg = some (if sr = 0x0F then { w with mflags := x &&& 0xF } else w)
  others : ∀ r, refKey r ≠ refKey t.ref → m.thread r = s.thread r
  groups : ∀ g, g ≠ t.ref.wg → m.wg g = s.wg g
  rest   : m = { s with threads := m.threads, wgs := m.wgs }

theorem State.setSpecial_set {s : State} {t : Thread} {w : Workgroup} (sr : BitVec 7) (x : Word) (ht : s.thread t.ref = some t)
    (hw : s.wg t.ref.wg = some w) : s.SpecialSet (s.setSpecial t sr.toNat x) t w sr x := by
  by_cases hdraw : sr = 0x0C
  · subst hdraw
    exact ⟨State.thread_onThread_some (f := fun u => { u with draw := x }) ht rfl, hw, fun _ hr => State.thread_onThread_ne s _ hr,
      fun _ _ => rfl, rfl⟩
  by_cases hfp : sr = 0x0E
  · subst hfp
    exact ⟨State.thread_onThread_some (f := fun u => { u with fpflags := x &&& 0x31F }) ht rfl, hw,
      fun _ hr => State.thread_onThread_ne s _ hr, fun _ _ => rfl, rfl⟩
  by_cases hm : sr = 0x0F
  · subst hm
    have hself := State.wg_onWg_self s t.ref.wg (fun w => { w with mflags := x &&& 0xF })
    rw [hw] at hself
    exact ⟨ht, hself, fun _ _ => rfl, fun _ hg => State.wg_onWg_ne s _ hg, rfl⟩
  · have hne : ∀ k : BitVec 7, sr ≠ k → sr.toNat ≠ k.toNat := fun k h e => h (BitVec.eq_of_toNat_eq e)
    rw [State.setSpecial_readOnly s t x ⟨hne _ hdraw, hne _ hfp, hne _ hm⟩]
    refine ⟨?_, ?_, fun _ _ => rfl, fun _ _ => rfl, rfl⟩
    · rw [if_neg hdraw, if_neg hfp, ht]
    · rw [if_neg hm, hw]

/-- R5, R22, R272: what SWR writes. -/
theorem swrWrites {s : State} {t : Thread} {w : Workgroup} {va : VReg} {sr : BitVec 7} (hs : s.Issues [t]) (run : s.Runs (.swr sr va) t w) :
    ∃ n, exec (.swr sr va) s = .next n ∧ n = { s with threads := n.threads, wgs := n.wgs, issue := none } ∧
      let x := t.getV va.toNat
      n.thread t.ref = some (if sr = 0x0C then ({ t with draw := x } : Thread).advance
        else if sr = 0x0E then ({ t with fpflags := x &&& 0x31F } : Thread).advance else t.advance)
      ∧ n.wg t.ref.wg = some (if sr = 0x0F then { w with mflags := x &&& 0xF } else w)
      ∧ (∀ r, refKey r ≠ refKey t.ref → n.thread r = s.thread r) ∧ ∀ g, g ≠ t.ref.wg → n.wg g = s.wg g := by
  have hset := State.setSpecial_set sr (t.getV va.toNat) (hs.resident t (by simp)) run.workgroup
  have hexec := exec_swr hs run
  generalize s.setSpecial t sr.toNat (t.getV va.toNat) = m at hset hexec
  have hquiet : (m.onThread t.ref Thread.advance).traps = [] := by rw [State.onThread_traps, hset.rest]; exact hs.settled
  rw [State.finish_quiet hquiet] at hexec
  refine ⟨_, hexec, by rw [hset.rest]; rfl, ?_, hset.group, fun r hr => (State.thread_onThread_ne m _ hr).trans (hset.others r hr), hset.groups⟩
  have hthread := congrArg (Option.map (Thread.kept Thread.advance)) hset.thread
  rw [← State.thread_onThread_self] at hthread
  refine hthread.trans ?_
  rw [Option.map_some, Thread.kept_eq (Thread.advance_ref _)]
  split_ifs <;> rfl

theorem State.special_team (s : State) (t : Thread) (w : Workgroup) {k : Nat} (hk : k < 4) :
    s.special t w (0x06 + k) = (w.team k).zeroExtend 64 := by
  match k, hk with
  | 0, _ => rfl
  | 1, _ => rfl
  | 2, _ => rfl
  | 3, _ => rfl

/-- R22 to R25, R272: SRD, SWR and the table of the special registers. -/
theorem specialRegisters : Claims.SpecialRegisters := by
  refine ⟨fun s ts vd sr hs run => ?_, fun s t w va sr hs run => swrWrites hs run, fun s t w l hl => ?_⟩
  · obtain ⟨n, hexec, hn⟩ := exec_srd hs run
    exact ⟨n, _, hexec, hn, fun t _ w hw => (State.inOwnWg_some _ hw).trans (s.srdThread_eq vd sr t w)⟩
  · refine ⟨rfl, fun hwidth => ⟨?_, ?_⟩, ?_, rfl, rfl, fun k hk => s.special_team t w hk, rfl, ?_, rfl, ?_, rfl, rfl, rfl, rfl, rfl, rfl, rfl,
      fun k hk => CoreSt.getLsbD_tagBits _ hk, rfl, rfl, ?_, rfl⟩
    · simp [State.special, Workgroup.laneOf, Workgroup.column, hwidth]
    · simp [State.special, Workgroup.row, hwidth]
    · simp [State.special, State.wgid, State.logicalCore, hl]
    · simp [State.special, hl]
    · simp [State.special, hl]
    · simp [State.special, hl]

/-! RND (R285) -/

/-- What RND makes of a thread of a workgroup. -/
def State.rndThread (s : State) (vd : VReg) (t : Thread) (w : Workgroup) : Thread :=
  let (g, seed) := match s.launchOf w with
    | some l => (l.generator w.launch, l.seed)
    | none => (0, 0)
  { t.setV vd.toNat (rndValue g (BitVec.ofNat 32 w.log) (BitVec.ofNat 32 t.ref.tid) t.draw seed) with draw := t.draw + 1 }
/-- The draw of a thread whose launch is there. -/
theorem State.rndThread_launch {s : State} {w : Workgroup} {l : Launch} (vd : VReg) (t : Thread) (h : s.launchOf w = some l) :
    s.rndThread vd t w = { t.setV vd.toNat (rndValue (if l.genid = 0 then BitVec.ofNat 32 w.launch else l.genid)
      (BitVec.ofNat 32 w.log) (BitVec.ofNat 32 t.ref.tid) t.draw l.seed) with draw := t.draw + 1 } := by
  simp [State.rndThread, h, Launch.generator]

/-- R285: RND draws once in each thread. -/
theorem randomDraw : Claims.RandomDraw := by
  intro s ts vd hs run
  obtain ⟨n, hexec, hn⟩ := issueLanes_threadsBecome (act := fun t w m => m.onThread t.ref (fun _ => (s.rndThread vd t w).advance))
    (f := s.inOwnWg fun t w => (s.rndThread vd t w).advance) hs run rfl rfl fun t _ w m hw _ ht =>
      State.onThread_becomes ht (Thread.advance_ref _) (State.inOwnWg_some (fun t w => (s.rndThread vd t w).advance) hw).symm
  refine ⟨n, _, hexec, hn, fun t _ w l hw hl => ?_⟩
  rw [State.inOwnWg_some _ hw, State.rndThread_launch vd t hl]

/-! The digest (R282, R284) -/

/-- The digest counts in RECORD and CHECK mode. -/
theorem State.digests_launch {s : State} {w : Workgroup} {l : Launch} (h : s.launchOf w = some l) : s.digests w = decide (2 ≤ l.det) := by
  simp [State.digests, h]

/-- DGST.READ in each executing thread. -/
theorem exec_dgstRead {s : State} {ts : List Thread} {vd : VReg} (hs : s.Issues ts) (run : ∀ t ∈ ts, ∃ w, s.Runs (.dgstRead vd) t w) :
    ∃ n, exec (.dgstRead vd) s = .next n
      ∧ s.ThreadsBecome n ts (s.inOwnWg fun t w => (t.setPair vd.toNat (if s.digests w then w.digest else 0)).advance) := by
  change ∃ n, execDgstRead vd s = _ ∧ _
  refine issueLanes_threadsBecome hs run rfl rfl fun t _ w m hw hm ht => ?_
  have hdigests : m.digests w = s.digests w := by rw [hm]; rfl
  exact State.onThread_becomes ht (by simp) (by rw [State.inOwnWg_some _ hw, hdigests])

theorem Tbl.modify_id {α : Type} (m : Tbl α) (k : Nat) : Tbl.modify m k (fun a => a) = m := by
  simp [Tbl.modify]
/-- A change of a workgroup and the going on of threads do not meet. -/
theorem State.advanceAll_onWg (s : State) (g : Nat) (f : Workgroup → Workgroup) (refs : List ThreadRef) :
    (s.onWg g f).advanceAll refs = (s.advanceAll refs).onWg g f := by
  induction refs generalizing s with
  | nil => rfl
  | cons r refs ih => exact ih (s.onThread r Thread.advance)
@[simp] theorem State.digests_advanceAll (s : State) (refs : List ThreadRef) (w : Workgroup) : (s.advanceAll refs).digests w = s.digests w := by
  induction refs generalizing s with
  | nil => rfl
  | cons r refs ih => exact ih (s.onThread r Thread.advance)

/-- DGST.FOLD: the threads go on, and the workgroup's digest grows in the modes that have one. -/
theorem exec_dgstFold {s : State} {ts : List Thread} {t : Thread} {w : Workgroup} {va : VReg} (h : s.Elects (.dgstFold va) ts t w) :
    exec (.dgstFold va) s = .next ((s.onWg t.ref.wg
      (fun u => if s.digests w then { u with digest := u.digest + t.getPair va.toNat } else u)).advanceAll (ts.map (·.ref))).finish := by
  refine (issueElected_elects h).trans (congrArg (fun m : State => Host.Outcome.next m.finish) ?_)
  dsimp only
  rw [State.advanceAll_onWg, State.digests_advanceAll]
  cases s.digests w
  · simp [State.onWg, Tbl.modify_id]
  · rfl

/-- R282, R284: what the digest words read and write. -/
theorem digestWords : Claims.DigestWords := by
  refine ⟨fun s ts vd hs run => ?_, fun s ts t w l va h hl => ⟨_, exec_dgstFold h, ?_⟩⟩
  · obtain ⟨n, hexec, hn⟩ := exec_dgstRead hs run
    refine ⟨n, _, hexec, hn, fun t _ w l hw hl => ?_⟩
    simp only [State.inOwnWg_some _ hw, State.digests_launch hl, decide_eq_true_eq]
  · obtain ⟨hself, hothers, hthreads⟩ := h.onWg_advanceAll
      (fun u => if s.digests w then { u with digest := u.digest + t.getPair va.toNat } else u)
    refine ⟨hthreads, hself.trans ?_, hothers⟩
    simp only [State.digests_launch hl, decide_eq_true_eq]

/-- Settles O15, from what a word does that each thread executes for itself. -/
theorem handleAndSystemWords : Obligations.HandleAndSystemWords := ⟨handleWords, specialRegisters, randomDraw, digestWords⟩

end Sys2Proof.Machine
end

section
/-! SUPPORT. The end of a thread and of its workgroup: which threads a change of one thread leaves live, when barriers and rows do nothing,
what the release of a workgroup leaves, and EXIT with the obligation on it. -/
namespace Sys2Proof.Machine

/-! Entries of tables -/

/-- The entries of a table after a change of one key. -/
theorem Tbl.mem_modify {α : Type} {m : Tbl α} {k : Nat} {f : α → α} {e : Nat × α} :
    e ∈ Tbl.modify m k f ↔ (e ∈ m ∧ e.1 ≠ k) ∨ ∃ a, (k, a) ∈ m ∧ e = (k, f a) := by
  simp only [Tbl.modify, List.mem_map]
  constructor
  · rintro ⟨x, hx, rfl⟩
    by_cases h : x.1 = k
    · exact .inr ⟨x.2, by rwa [← h], by rw [if_pos h, h]⟩
    · exact .inl ⟨by rwa [if_neg h], by rwa [if_neg h]⟩
  · rintro (⟨he, hk⟩ | ⟨a, ha, rfl⟩)
    · exact ⟨e, he, if_neg hk⟩
    · exact ⟨(k, a), ha, if_pos rfl⟩
theorem Tbl.mem_of_find {α : Type} {m : Tbl α} {k : Nat} {a : α} (h : Tbl.find m k = some a) : (k, a) ∈ m := by
  induction m with
  | nil => cases h
  | cons e l ih =>
    by_cases hk : k = e.1
    · simp only [Tbl.find, if_pos hk, Option.some.injEq] at h
      rw [hk, ← h]
      exact List.mem_cons_self
    · simp only [Tbl.find, if_neg hk] at h
      exact List.mem_cons_of_mem _ (ih h)
/-- The keys of a table in canonical form are distinct. -/
theorem Tbl.rising_pairwise {α : Type} {lo : Nat} {m : Tbl α} (h : Tbl.risingFrom lo m = true) :
    (∀ e ∈ m, lo ≤ e.1) ∧ m.Pairwise (fun x y => x.1 < y.1) := by
  induction m generalizing lo with
  | nil => exact ⟨by simp, List.Pairwise.nil⟩
  | cons e l ih =>
    obtain ⟨j, a⟩ := e
    simp only [Tbl.risingFrom, Bool.and_eq_true, decide_eq_true_eq] at h
    obtain ⟨hlo, hl⟩ := ih h.2
    refine ⟨fun x hx => ?_, List.pairwise_cons.2 ⟨fun x hx => hlo x hx, hl⟩⟩
    rcases List.mem_cons.1 hx with rfl | hx
    · exact h.1
    · have := hlo x hx
      omega
theorem Tbl.find_of_mem {α : Type} {lo : Nat} {m : Tbl α} (h : Tbl.risingFrom lo m = true) {k : Nat} {a : α} (hm : (k, a) ∈ m) :
    Tbl.find m k = some a := by
  have hp := (Tbl.rising_pairwise h).2
  induction m generalizing lo with
  | nil => cases hm
  | cons e l ih =>
    obtain ⟨j, b⟩ := e
    obtain ⟨hlt, hl⟩ := List.pairwise_cons.1 hp
    simp only [Tbl.risingFrom, Bool.and_eq_true] at h
    rcases List.mem_cons.1 hm with e | hm
    · cases e
      simp [Tbl.find]
    · have hne : k ≠ j := by
        have := hlt _ hm
        dsimp only at this
        omega
      simp only [Tbl.find, if_neg hne]
      exact ih h.2 hm hl
theorem mem_setInsert_self (l : List Nat) (k : Nat) : k ∈ setInsert l k := by
  induction l with
  | nil => simp [setInsert]
  | cons j l ih =>
    unfold setInsert
    split_ifs with h1 h2
    · simp
    · simp [h2]
    · simp [ih]

/-! Live threads after a change of one thread -/

theorem State.mem_live {s : State} {g : Nat} {u : Thread} : u ∈ s.live g ↔ (∃ k, (k, u) ∈ s.threads) ∧ u.ref.wg = g ∧ u.exited = false := by
  simp [State.live, Tbl.vals]

/-- In a keyed state the live threads after a change of one are the others and that one, changed. -/
theorem State.mem_live_onThread {s : State} {r : ThreadRef} {f : Thread → Thread} {g : Nat} {u : Thread} (hk : s.Keyed)
    (h : u ∈ (s.onThread r f).live g) : (u ∈ s.live g ∧ refKey u.ref ≠ refKey r) ∨ ∃ t, s.thread r = some t ∧ u = Thread.kept f t := by
  obtain ⟨hrising, hkeys⟩ := hk
  obtain ⟨⟨k, hmem⟩, hg, he⟩ := State.mem_live.1 h
  rcases Tbl.mem_modify.1 hmem with ⟨hm, hne⟩ | ⟨a, ha, e⟩
  · exact .inl ⟨State.mem_live.2 ⟨⟨k, hm⟩, hg, he⟩, by rw [← hkeys _ hm]; exact hne⟩
  · exact .inr ⟨a, Tbl.find_of_mem hrising ha, by cases e; rfl⟩
theorem State.mem_live_onThread_ne {s : State} {r : ThreadRef} {f : Thread → Thread} {g : Nat} {u : Thread} (hk : s.Keyed)
    (hu : u ∈ s.live g) (hne : refKey u.ref ≠ refKey r) : u ∈ (s.onThread r f).live g := by
  obtain ⟨⟨k, hmem⟩, hg, he⟩ := State.mem_live.1 hu
  exact State.mem_live.2 ⟨⟨k, Tbl.mem_modify.2 (.inl ⟨hmem, by rw [hk.2 _ hmem]; exact hne⟩)⟩, hg, he⟩

/-! Barriers and rows for which nothing is due -/

/-- No barrier of a workgroup completes while a live thread runs and has arrived at none. -/
theorem State.barrierCheck_running {s : State} {g : Nat} {u : Thread} (hu : u ∈ s.live g) (hbars : u.bars = 0) (hstall : u.stall = .none) :
    s.barrierCheck g = s := by
  have hne : (s.live g).isEmpty = false := by
    cases h : s.live g
    · rw [h] at hu; cases hu
    · rfl
  have harrived : ([0, 1, 2, 3] : List (BitVec 2)).filter (fun n => (s.live g).all (fun t => t.arrivedAt n)) = [] := by
    refine List.filter_eq_nil_iff.2 fun n _ hall => ?_
    have := List.all_eq_true.1 hall u hu
    simp [Thread.arrivedAt, hbars] at this
  unfold State.barrierCheck
  simp only [hne, harrived, Bool.false_eq_true, if_false]
  refine if_neg fun hall => ?_
  have := List.all_eq_true.1 hall u hu
  rw [hstall] at this
  cases this
/-- No row operation of a row is due while none of its live threads waits at one. -/
theorem State.rowCheck_running {s : State} {g d : Nat} (h : ∀ u ∈ s.live g, u.stall = .none) : s.rowCheck g d = s := by
  unfold State.rowCheck
  split
  · rfl
  next w _ =>
    have hrow : ∀ e ∈ s.rowThreads g w d, e.2 ∈ s.live g ∧ w.row e.2.ref.tid = d := by
      intro e he
      obtain ⟨u, hu, rfl⟩ := List.mem_map.1 he
      obtain ⟨hl, hd⟩ := List.mem_filter.1 hu
      simp only [Bool.and_eq_true, beq_iff_eq] at hd
      exact ⟨hl, hd.1⟩
    have hready : (s.rowThreads g w d).filter (fun e => rowReady (s.rowThreads g w d) e.2) = [] := by
      refine List.filter_eq_nil_iff.2 fun e he hr => ?_
      simp [rowReady, h _ (hrow e he).1] at hr
    simp only [hready, List.isEmpty_nil, Bool.not_true, Bool.false_eq_true, if_false]
    refine if_neg fun hstuck => ?_
    simp only [Bool.and_eq_true, Bool.not_eq_true', State.rowStuck, List.all_eq_true] at hstuck
    obtain ⟨hne, hall⟩ := hstuck
    cases hl : s.rowThreads g w d with
    | nil => rw [hl] at hne; cases hne
    | cons e l =>
      obtain ⟨hlive, hd⟩ := hrow e (by rw [hl]; exact List.mem_cons_self)
      have := hall e.2 (List.mem_filter.2 ⟨hlive, by simpa using hd⟩)
      rw [h _ hlive] at this
      cases this

/-! The word -/

/-- The class of the handler tells the save exit (log entry 16). -/
theorem saves_eq_false {t : Thread} (h : t.handler = false ∨ t.hclass ≠ 0x14) : (t.handler && t.hclass == clPreempt) = false := by
  rcases h with h | h
  · rw [h, Bool.false_and]
  · rw [beq_false_of_ne (by exact h), Bool.and_false]

theorem exec_exit {s : State} {t : Thread} {w : Workgroup} (hs : s.Issues [t]) (run : s.Runs .exit t w) (hp : t.poisonedUpTo t.nld = none) :
    exec .exit s = .next (if t.active && !(t.handler && t.hclass == clPreempt) then s.chorFault t 4
      else s.onThread t.ref (fun u => { u with stall := .exiting, hint := none })).finish := by
  refine (issueLanes_one hs run).trans ?_
  simp only [hp]

/-- EXIT stops the thread, or is a choreography fault (R40, R148, R259). -/
theorem exitStops {s : State} {t : Thread} {w : Workgroup} (hs : s.Issues [t]) (run : s.Runs .exit t w) (hp : t.poisonedUpTo t.nld = none) :
    (t.active = false ∨ (t.handler = true ∧ t.hclass = 0x14) →
      exec .exit s = .next (s.onThread t.ref (fun u => { u with stall := .exiting, hint := none })).over)
    ∧ (t.active = true → (t.handler = false ∨ t.hclass ≠ 0x14) → exec .exit s = .next (s.trapWord t 0x13 4).finish) := by
  rw [exec_exit hs run hp]
  refine ⟨fun h => ?_, fun ha h => ?_⟩
  · have : (t.active && !(t.handler && t.hclass == clPreempt)) = false := by
      rcases h with h | ⟨hh, hc⟩
      · simp [h]
      · simp [hh, hc, clPreempt]
    rw [this, if_neg Bool.false_ne_true, State.finish_over (by exact hs.settled)]
  · have : (t.active && !(t.handler && t.hclass == clPreempt)) = true := by rw [ha, saves_eq_false h]; rfl
    rw [if_pos this]
    rfl

/-! The end of the thread -/

/-- A thread whose operations are complete ends (R40, R370). -/
theorem exec_exitCompletion {s : State} {t : Thread} {r : ThreadRef} (ht : s.thread r = some t) (hstall : t.stall = .exiting) (hsaved : t.saved = false)
    (hops : t.ops = []) (hst : t.outSt = []) (hld : t.outLd = []) :
    exec (.exitCompletion r) s = .next (s.threadEnd r (t.handler && t.hclass == clPreempt)).settleTraps := by
  change execExitCompletion r s = _
  simp only [execExitCompletion, ht]
  exact if_pos ⟨hstall, hsaved, hops, hst, hld⟩

/-- The state in which a thread has ended, or made its save exit, before its workgroup is looked at. -/
def State.ended (s : State) (r : ThreadRef) (save : Bool) : State :=
  (s.onThread r (fun u => { u with exited := !save, saved := save, stall := if save then .exiting else .none })).dropReserve r

/-- A thread that ends while others of its workgroup run on. -/
theorem exitBeside {s : State} {t : Thread} {w : Workgroup} (ht : s.thread t.ref = some t) (hw : s.wgOf t.ref = some w) (htraps : s.traps = [])
    (hstall : t.stall = .exiting) (hsaved : t.saved = false) (hops : t.ops = []) (hst : t.outSt = []) (hld : t.outLd = [])
    (hnosave : t.handler = false ∨ t.hclass ≠ 0x14) (hteams : w.teamList = [])
    (hother : ∃ u ∈ s.live t.ref.wg, u.ref ≠ t.ref) (hbars : ∀ u ∈ s.live t.ref.wg, u.bars = 0)
    (hrun : ∀ u ∈ s.live t.ref.wg, u.ref ≠ t.ref → u.stall = .none ∧ u.saved = false)
    (hk : s.Keyed) (hkey : ∀ u ∈ s.live t.ref.wg, refKey u.ref = refKey t.ref → u.ref = t.ref) :
    exec (.exitCompletion t.ref) s = .next (s.ended t.ref false) := by
  have hlive : ∀ u ∈ (s.ended t.ref false).live t.ref.wg, u ∈ s.live t.ref.wg ∧ u.ref ≠ t.ref := by
    intro u hu
    rcases State.mem_live_onThread hk hu with ⟨h, hne⟩ | ⟨a, _, rfl⟩
    · exact ⟨h, fun e => hne (by rw [e])⟩
    · cases (State.mem_live.1 hu).2.2
  obtain ⟨u, hu, hne⟩ := hother
  have hu' : u ∈ (s.ended t.ref false).live t.ref.wg := State.mem_live_onThread_ne hk hu fun e => hne (hkey u hu e)
  have hnonempty : ((s.ended t.ref false).live t.ref.wg).isEmpty = false := by
    cases h : (s.ended t.ref false).live t.ref.wg
    · rw [h] at hu'; cases hu'
    · rfl
  have hunsaved : ((s.ended t.ref false).live t.ref.wg).all (·.saved) = false := by
    rw [List.all_eq_false]
    exact ⟨u, hu', by simp [(hrun u hu hne).2]⟩
  have hbarrier := State.barrierCheck_running hu' (hbars u hu) (hrun u hu hne).1
  have hrow := State.rowCheck_running (d := w.row t.ref.tid) fun v hv => (hrun v (hlive v hv).1 (hlive v hv).2).1
  rw [exec_exitCompletion ht hstall hsaved hops hst hld, saves_eq_false hnosave]
  have hend : s.threadEnd t.ref false = s.ended t.ref false := by
    unfold State.threadEnd
    simp only [ht, hw, hteams, List.foldl_nil]
    change (if ((s.ended t.ref false).live t.ref.wg).isEmpty then _ else if ((s.ended t.ref false).live t.ref.wg).all (·.saved) then _ else
      ((s.ended t.ref false).barrierCheck t.ref.wg).rowCheck t.ref.wg (w.row t.ref.tid)) = _
    rw [hnonempty, hunsaved, hbarrier, hrow]
    rfl
  rw [hend, State.settleTraps_quiet (by exact htraps)]

/-! The release of a workgroup -/

/-- Only the L2, its DRAM activations and the free values used have changed. -/
def State.L2Only (s n : State) : Prop := n = { s with l2 := n.l2, acts := n.acts, free := n.free }
theorem State.L2Only.refl (s : State) : s.L2Only s := rfl
theorem State.L2Only.trans {a b c : State} (h : a.L2Only b) (k : b.L2Only c) : a.L2Only c := by
  unfold State.L2Only at *
  rw [k, h]
theorem State.L2Only.foldl {α : Type} (f : State → α → State) (hf : ∀ (s : State) (a : α), s.L2Only (f s a)) (l : List α) (s : State) :
    s.L2Only (l.foldl f s) := by
  induction l generalizing s with
  | nil => exact .refl s
  | cons a l ih => exact (hf s a).trans (ih _)
theorem State.l2Room_l2Only (s : State) (qd : Nat) : s.L2Only (s.l2Room qd) := by
  unfold State.l2Room
  split
  · exact .refl s
  · dsimp only [State.freshWord]
    split
    · exact rfl
    · split <;> exact rfl
theorem State.l2Touch_l2Only (s : State) (line : Nat) (dirty : Bool) : s.L2Only (s.l2Touch line dirty) := by
  unfold State.l2Touch
  split
  · dsimp only
    split
    · exact rfl
    · exact (State.l2Room_l2Only s _).trans rfl
  · exact .refl s
/-- R293: a core's release writes its lines back to the L2 and empties its release set. -/
theorem State.releaseCore_eq (s : State) (core : Nat) :
    ∃ m, s.L2Only m ∧ s.releaseCore core = m.onCore core (fun k => { k with release := [] }) :=
  ⟨_, State.L2Only.foldl _ (fun s l => State.l2Touch_l2Only s l true) _ s, rfl⟩

/-- Only threads and cores have changed, and the release set of a core has not. -/
structure State.ClaimsOnly (s n : State) (c : Nat) : Prop where
  rest    : n = { s with threads := n.threads, cores := n.cores }
  release : (n.core c).release = (s.core c).release
theorem State.ClaimsOnly.trans {a b d : State} {c : Nat} (h : a.ClaimsOnly b c) (k : b.ClaimsOnly d c) : a.ClaimsOnly d c :=
  ⟨by rw [k.rest, h.rest], k.release.trans h.release⟩
theorem State.advanceAll_claimsOnly (s : State) (refs : List ThreadRef) (c : Nat) : s.ClaimsOnly (s.advanceAll refs) c := by
  induction refs generalizing s with
  | nil => exact ⟨rfl, rfl⟩
  | cons r refs ih => exact State.ClaimsOnly.trans (b := s.onThread r Thread.advance) ⟨rfl, rfl⟩ (ih _)
/-- A change of a core step by step, of which no step changes the release set. -/
theorem CoreSt.release_foldl {α : Type} {f : CoreSt → α → CoreSt} (hf : ∀ k a, (f k a).release = k.release) (l : List α) (k : CoreSt) :
    (l.foldl f k).release = k.release := by
  induction l generalizing k with
  | nil => rfl
  | cons i l ih => exact (ih _).trans (hf k i)
/-- R213: granting claims changes slots, the claim queue and the threads that go on. -/
theorem State.grantClaims_claimsOnly (fuel : Nat) (s : State) (c : Nat) : s.ClaimsOnly (s.grantClaims fuel c) c := by
  induction fuel generalizing s with
  | zero => exact ⟨rfl, rfl⟩
  | succ f ih =>
    unfold State.grantClaims
    split
    · exact ⟨rfl, rfl⟩
    · split
      · refine (State.ClaimsOnly.trans ?_ (State.advanceAll_claimsOnly _ _ c)).trans (ih _)
        refine ⟨rfl, ?_⟩
        rw [State.core_onCore_self]
        exact CoreSt.release_foldl (fun _ _ => by rfl) _ _
      · exact ⟨rfl, rfl⟩
/-- With no request in flight no parked operation is withdrawn. -/
theorem State.withdrawParked_none {s : State} (core base size : Nat) (h : s.reqs = []) : s.withdrawParked core base size = s := by
  simp [State.withdrawParked, h]

/-- Workgroup g is gone, and the launches, the memory and the release set of its core c are as before. -/
structure State.WgGone (s n : State) (g c : Nat) : Prop where
  wgs      : n.wgs = Tbl.erase s.wgs g
  launches : n.launches = s.launches
  traps    : n.traps = s.traps
  mem      : n.mem = s.mem
  release  : (n.core c).release = (s.core c).release

/-- R40, R370: the release of a workgroup's resources, with no request in flight. -/
theorem State.releaseWg_gone {s : State} (g : Nat) (w : Workgroup) (h : s.reqs = []) : s.WgGone (s.releaseWg g w) g w.core := by
  have hfree : ∃ m, s.releaseWg g w = m.claimCheck w.core ∧ s.WgGone m g w.core := by
    unfold State.releaseWg
    dsimp only [State.freshEpoch]
    rw [State.withdrawParked_none _ _ _ (by simp [State.onCore, h])]
    refine ⟨_, rfl, ⟨rfl, rfl, rfl, rfl, ?_⟩⟩
    simp only [State.core, State.onCore, Tbl.get, Tbl.find_insert_self, Option.getD_some]
    refine (CoreSt.release_foldl (fun k i => by split <;> rfl) _ _).trans ((CoreSt.release_foldl (fun k i => by split <;> rfl) _ _).trans ?_)
    exact CoreSt.release_foldl (fun _ _ => by rfl) _ _
  obtain ⟨m, hm, hgone⟩ := hfree
  have hclaims := State.grantClaims_claimsOnly ((m.core w.core).claims.length + 1) m w.core
  rw [hm, State.claimCheck]
  refine ⟨?_, ?_, ?_, ?_, hclaims.release.trans hgone.release⟩
  · rw [hclaims.rest]; exact hgone.wgs
  · rw [hclaims.rest]; exact hgone.launches
  · rw [hclaims.rest]; exact hgone.traps
  · rw [hclaims.rest]; exact hgone.mem

/-- PRE_REQ falls at most (R372). -/
theorem State.preSettle_eq (s : State) (k : Nat) : s.preSettle k = { s with launches := (s.preSettle k).launches } := by
  unfold State.preSettle
  split <;> rfl
theorem State.launch_onLaunch_self {s : State} {k : Nat} {l : Launch} (f : Launch → Launch) (h : s.launch k = some l) :
    (s.onLaunch k f).launch k = some (f l) := by
  rw [State.launch, State.onLaunch, Tbl.find_modify_self]
  exact congrArg (Option.map f) h
theorem State.launch_preSettle {s : State} {k : Nat} {l : Launch} (h : s.launch k = some l) :
    ∃ b, (s.preSettle k).launch k = some { l with preBusy := b } := by
  unfold State.preSettle
  split
  · exact ⟨l.preBusy, h⟩
  · exact ⟨false, by rw [State.launch, State.onLaunch, Tbl.find_modify_self]; exact congrArg (Option.map _) h⟩
/-- What a workgroup that leaves makes of its launch, whatever its queue is charged. -/
theorem State.launch_leaves {s : State} {k : Nat} {l : Launch} (f : Launch → Launch) (q : Nat) (g : Queue → Queue) (h : s.launch k = some l) :
    ∃ b, (((s.onLaunch k f).onQueue q g).preSettle k).launch k = some { f l with preBusy := b } :=
  State.launch_preSettle (State.launch_onLaunch_self f h)
theorem State.WgGone.launch {s n : State} {g c : Nat} (h : s.WgGone n g c) (k : Nat) : n.launch k = s.launch k := by
  rw [State.launch, h.launches]
  rfl
theorem State.WgGone.wg {s n : State} {g c : Nat} (h : s.WgGone n g c) : n.wg g = none := by
  rw [State.wg, h.wgs, Tbl.find_erase, if_pos rfl]

/-! The last thread of a workgroup -/

/-- The only thread of its workgroup: nothing of the workgroup is live once it has ended. -/
theorem State.live_ended_alone {s : State} {t : Thread} (hone : ∀ e ∈ s.threads, e.2.ref.wg = t.ref.wg → e = (refKey t.ref, t)) :
    (s.ended t.ref false).live t.ref.wg = [] := by
  refine List.eq_nil_iff_forall_not_mem.2 fun u hu => ?_
  obtain ⟨⟨k, hmem⟩, hg, he⟩ := State.mem_live.1 hu
  rcases Tbl.mem_modify.1 hmem with ⟨hm, hne⟩ | ⟨a, _, e⟩
  · exact hne (congrArg Prod.fst (hone _ hm hg))
  · cases e
    cases he

theorem Workgroup.teamList_invalid {w : Workgroup} (h : ∀ m ∈ w.teams, teamValid m = false) : w.teamList = [] := by
  rw [Workgroup.teamList, List.filter_eq_nil_iff.2 (by simpa using h), List.map_nil]
/-- A workgroup of no team aborts no stream. -/
theorem State.abortMember_invalid {s : State} {w : Workgroup} (h : ∀ m ∈ w.teams, teamValid m = false) : s.abortMember w = s := by
  unfold State.abortMember
  revert h
  generalize w.teams = l
  intro h
  induction l with
  | nil => rfl
  | cons m l ih =>
    rw [List.foldl_cons, if_neg (by simp [h m (by simp)])]
    exact ih fun x hx => h x (by simp [hx])
/-- A launch without deterministic queues has no tickets to void. -/
theorem State.voidTickets_none {s : State} {l : Launch} (p : Nat) (w : Workgroup) (kind : Nat) (h : l.dq = []) : s.voidTickets p l w kind = s := by
  unfold State.voidTickets
  split_ifs
  · rfl
  · rw [h]; rfl

/-- R40, R362: a workgroup of no team, with nothing in flight, leaves its launch. -/
theorem State.retireWg_done {s : State} {g : Nat} {w : Workgroup} {l : Launch} (hw : s.wg g = some w) (hl : s.launchOf w = some l)
    (htraps : s.traps = []) (hreqs : s.reqs = []) (hdq : l.dq = []) (hteams : ∀ m ∈ w.teams, teamValid m = false) :
    ∃ m, (s.retireWg g false).traps = [] ∧ (s.retireWg g false).wg g = none ∧ (s.retireWg g false).launch w.launch = some m
      ∧ m.done = l.done + 1 ∧ m.failed = l.failed ∧ m.cycles = l.cycles + s.chargeOf w ∧ w.log ∈ m.retired := by
  have hgone := State.releaseWg_gone g w hreqs
  unfold State.retireWg
  simp only [hw, hl, State.voidTickets_none _ _ _ hdq, State.abortMember_invalid hteams, Workgroup.teamList_invalid hteams, List.foldl_nil]
  refine ⟨_, ?_, ?_, (State.launch_leaves _ _ _ ((hgone.launch w.launch).trans hl)).choose_spec, rfl, rfl, rfl, mem_setInsert_self _ _⟩
  · rw [State.preSettle_eq]
    exact hgone.traps.trans htraps
  · rw [State.preSettle_eq]
    exact hgone.wg

/-- The last thread of a workgroup ends: the workgroup leaves its launch (R40, R362). -/
theorem exitLast {s : State} {t : Thread} {w : Workgroup} {l : Launch} (ht : s.thread t.ref = some t) (hw : s.wgOf t.ref = some w)
    (hl : s.launchOf w = some l) (htraps : s.traps = []) (hreqs : s.reqs = []) (hdq : l.dq = []) (hteams : ∀ m ∈ w.teams, teamValid m = false)
    (hstall : t.stall = .exiting) (hsaved : t.saved = false) (hops : t.ops = []) (hst : t.outSt = []) (hld : t.outLd = [])
    (hnosave : t.handler = false ∨ t.hclass ≠ 0x14) (hone : ∀ e ∈ s.threads, e.2.ref.wg = t.ref.wg → e = (refKey t.ref, t)) :
    ∃ n m, exec (.exitCompletion t.ref) s = .next n ∧ n.wg t.ref.wg = none ∧ n.launch w.launch = some m
      ∧ m.done = l.done + 1 ∧ m.failed = l.failed ∧ m.cycles = l.cycles + s.chargeOf w ∧ w.log ∈ m.retired := by
  obtain ⟨m, hquiet, hm⟩ := State.retireWg_done (s := s.ended t.ref false) hw hl htraps hreqs hdq hteams
  have hend : s.threadEnd t.ref false = (s.ended t.ref false).retireWg t.ref.wg false := by
    unfold State.threadEnd
    simp only [ht, hw]
    change (if ((s.ended t.ref false).live t.ref.wg).isEmpty then _ else _) = _
    rw [State.live_ended_alone hone]
    rfl
  refine ⟨_, m, ?_, hm⟩
  rw [exec_exitCompletion ht hstall hsaved hops hst hld, saves_eq_false hnosave, hend, State.settleTraps_quiet hquiet]

/-! The save of a workgroup (R299, R370) -/

/-- The entries of a workgroup whose only thread is t. -/
theorem State.threads_filter_alone {s : State} {t : Thread} (hk : s.Keyed) (ht : s.thread t.ref = some t)
    (hone : ∀ e ∈ s.threads, e.2.ref.wg = t.ref.wg → e = (refKey t.ref, t)) :
    s.threads.filter (fun e => e.2.ref.wg == t.ref.wg) = [(refKey t.ref, t)] := by
  have hall : ∀ e ∈ s.threads.filter (fun e => e.2.ref.wg == t.ref.wg), e = (refKey t.ref, t) := fun e he => by
    obtain ⟨hm, hg⟩ := List.mem_filter.1 he
    exact hone e hm (by simpa using hg)
  have hmem : (refKey t.ref, t) ∈ s.threads.filter (fun e => e.2.ref.wg == t.ref.wg) :=
    List.mem_filter.2 ⟨Tbl.mem_of_find ht, by simp⟩
  have hnodup : (s.threads.filter (fun e => e.2.ref.wg == t.ref.wg)).Nodup :=
    ((Tbl.rising_pairwise hk.1).2.imp fun h e => by rw [e] at h; omega).filter _
  rw [List.eq_replicate_of_mem hall] at hnodup hmem ⊢
  have hone := List.nodup_replicate.1 hnodup
  generalize (s.threads.filter (fun e => e.2.ref.wg == t.ref.wg)).length = n at *
  obtain rfl : n = 1 := by
    have := (List.mem_replicate.1 hmem).1
    omega
  rfl

/-- The threads of a workgroup after a change of its only one. -/
theorem State.threadsOf_onThread_alone {s : State} {t : Thread} (f : Thread → Thread) (hk : s.Keyed) (ht : s.thread t.ref = some t)
    (hone : ∀ e ∈ s.threads, e.2.ref.wg = t.ref.wg → e = (refKey t.ref, t)) :
    (s.onThread t.ref f).threadsOf t.ref.wg = [Thread.kept f t] := by
  have hsame : (fun u : Thread => u.ref.wg == t.ref.wg) ∘ (Prod.snd ∘ fun e : Nat × Thread => if e.1 = refKey t.ref then (e.1, Thread.kept f e.2) else e)
      = fun e => e.2.ref.wg == t.ref.wg := funext fun e => by
    by_cases h : e.1 = refKey t.ref
    · simp only [Function.comp_apply, if_pos h]
      rfl
    · simp only [Function.comp_apply, if_neg h]
  simp only [State.threadsOf, Tbl.vals, State.onThread, Tbl.modify, List.map_map, List.filter_map, hsame,
    State.threads_filter_alone hk ht hone]
  simp
theorem State.live_eq (s : State) (g : Nat) : s.live g = (s.threadsOf g).filter (fun t => !t.exited) := by
  simp [State.live, State.threadsOf, List.filter_filter, Bool.and_comm]

/-- R299, R370: with no request in flight a workgroup is saved with its saved threads, and its core has made its release. -/
theorem State.saveWg_saved {s : State} {g : Nat} {w : Workgroup} {l : Launch} (hw : s.wg g = some w) (hl : s.launchOf w = some l)
    (hreqs : s.reqs = []) :
    ∃ m x, (s.saveWg g).traps = s.traps ∧ (s.saveWg g).wg g = none ∧ (s.saveWg g).launch w.launch = some m ∧ m.saved = l.saved ++ [x]
      ∧ x.id = g ∧ x.tids = ((s.threadsOf g).filter (·.saved)).map (·.ref.tid) ∧ x.wg.log = w.log ∧ x.wg.digest = w.digest ∧ m.done = l.done
      ∧ m.failed = l.failed ∧ m.retired = l.retired ∧ (s.saveWg g).mem = s.mem ∧ ((s.saveWg g).core w.core).release = [] := by
  obtain ⟨m, hm, hrelease⟩ := s.releaseCore_eq w.core
  have hgone := State.releaseWg_gone (s := s.releaseCore w.core) g w (by rw [hrelease, hm]; exact hreqs)
  have hlaunch : ((s.releaseCore w.core).releaseWg g w).launch w.launch = some l := by
    rw [hgone.launch, hrelease, hm]
    exact hl
  unfold State.saveWg
  simp only [hw]
  refine ⟨_, _, ?_, ?_, (State.launch_preSettle (State.launch_onLaunch_self _ hlaunch)).choose_spec, rfl, rfl, rfl, rfl, rfl, rfl, rfl, rfl,
    ?_, ?_⟩
  · rw [State.preSettle_eq]
    refine hgone.traps.trans ?_
    rw [hrelease, hm]
    rfl
  · rw [State.preSettle_eq]
    exact hgone.wg
  · rw [State.preSettle_eq]
    refine hgone.mem.trans ?_
    rw [hrelease, hm]
    rfl
  · rw [State.preSettle_eq]
    refine hgone.release.trans ?_
    rw [hrelease, State.core_onCore_self]

/-- R370: with the save exit of its last thread a workgroup is saved. -/
theorem exitSave {s : State} {t : Thread} {w : Workgroup} {l : Launch} (ht : s.thread t.ref = some t) (hw : s.wgOf t.ref = some w)
    (hl : s.launchOf w = some l) (htraps : s.traps = []) (hreqs : s.reqs = [])
    (hstall : t.stall = .exiting) (hsaved : t.saved = false) (hops : t.ops = []) (hst : t.outSt = []) (hld : t.outLd = [])
    (hhandler : t.handler = true) (hclass : t.hclass = 0x14) (hk : s.Keyed)
    (hone : ∀ e ∈ s.threads, e.2.ref.wg = t.ref.wg → e = (refKey t.ref, t)) :
    ∃ n m x, exec (.exitCompletion t.ref) s = .next n ∧ n.wg t.ref.wg = none ∧ n.launch w.launch = some m ∧ m.saved = l.saved ++ [x]
      ∧ x.id = t.ref.wg ∧ x.tids = [t.ref.tid] ∧ x.wg.log = w.log ∧ x.wg.digest = w.digest ∧ m.done = l.done ∧ m.failed = l.failed
      ∧ m.retired = l.retired ∧ n.mem = s.mem ∧ (n.core w.core).release = [] := by
  have hthreads := State.threadsOf_onThread_alone (fun u => { u with exited := false, saved := true, stall := .exiting }) hk ht hone
  have hlive : (s.ended t.ref true).live t.ref.wg = [{ t with exited := false, saved := true, stall := .exiting }] := by
    rw [State.live_eq]
    exact congrArg (List.filter _) hthreads
  have hend : s.threadEnd t.ref true = (s.ended t.ref true).saveWg t.ref.wg := by
    unfold State.threadEnd
    simp only [ht, hw]
    change (if ((s.ended t.ref true).live t.ref.wg).isEmpty then _ else if ((s.ended t.ref true).live t.ref.wg).all (·.saved) then _ else _) = _
    rw [hlive]
    rfl
  obtain ⟨m, x, hquiet, hwg, hlaunch, hx, hid, htids, hrest⟩ := State.saveWg_saved (s := s.ended t.ref true) hw hl hreqs
  refine ⟨_, m, x, ?_, hwg, hlaunch, hx, hid, htids.trans ?_, hrest⟩
  · have hsave : (t.handler && t.hclass == clPreempt) = true := by rw [hhandler, hclass]; rfl
    rw [exec_exitCompletion ht hstall hsaved hops hst hld, hsave, hend, State.settleTraps_quiet (hquiet.trans htraps)]
  · exact congrArg (fun l : List Thread => (l.filter (·.saved)).map (·.ref.tid)) hthreads

/-- Settles O19, from what a thread's end finds of its workgroup. -/
theorem exitEnds : Obligations.ExitEnds := by
  refine ⟨fun s t w hs run hp => exitStops hs run hp, ?_, ?_, ?_⟩
  · intro s t w ht hw htraps hstall hsaved hops hst hld hnosave hteams hother hbars hrun hk hkey
    refine ⟨_, exitBeside ht hw htraps hstall hsaved hops hst hld hnosave hteams hother hbars hrun hk hkey, ?_,
      fun r hr => State.thread_onThread_ne s _ hr, rfl, rfl, rfl, rfl⟩
    exact State.thread_onThread_some ht rfl
  · intro s t w l ht hw hl htraps hreqs hdq _ hteams hstall hsaved hops hst hld hnosave _ hone
    exact exitLast ht hw hl htraps hreqs hdq hteams hstall hsaved hops hst hld hnosave hone
  · intro s t w l ht hw hl htraps hreqs hstall hsaved hops hst hld hhandler hclass _ hk hone
    exact exitSave ht hw hl htraps hreqs hstall hsaved hops hst hld hhandler hclass hk hone

end Sys2Proof.Machine
end

section
/-! SUPPORT. Loads, stores and atomics that pass their checks: the thread after the issue and the request made; with the obligations on the
issue of accesses and of atomics. -/
namespace Sys2Proof.Machine

/-! The thread after an issue -/

/-- A thread that has issued a load goes on with its destination free (R38, R162). -/
theorem Thread.loadIssued_goesOn {t u : Thread} {dest count : Nat} (h : t.OnlyV u dest count) (dirty : List Nat) (old : List Word) (field : Bool) :
    Claims.GoesOn t (u.loadIssued dest count dirty old field) dest count := by
  refine ⟨⟨fun k hk => (Thread.getV_advance _ k).trans (h.v k hk), ?_⟩, ?_, rfl⟩
  · rw [h.rest]
    simp [Thread.loadIssued, Thread.joinLoad]
  · rw [h.rest]
    rfl
/-- The counters of a thread that has issued a load. -/
theorem Thread.loadIssued_counters {t u : Thread} {dest count : Nat} (h : t.OnlyV u dest count) (dirty : List Nat) (old : List Word)
    (field : Bool) :
    (u.loadIssued dest count dirty old field).nld = t.nld + 1
      ∧ (u.loadIssued dest count dirty old field).outLd = (t.nld + 1) :: t.outLd
      ∧ (u.loadIssued dest count dirty old field).outSt = t.outSt := by
  rw [h.rest]
  simp [Thread.loadIssued, Thread.joinLoad]
/-- A thread that has issued a store goes on; no register changes (R38, R161). -/
theorem Thread.joinStore_goesOn (t : Thread) : Claims.GoesOn t t.joinStore.advance 0 0 :=
  ⟨⟨fun k _ => Thread.getV_advance _ k, by simp [Thread.joinStore]⟩, rfl, rfl⟩
theorem Thread.joinStore_counters (t : Thread) :
    t.joinStore.advance.nst = t.nst + 1 ∧ t.joinStore.advance.outSt = (t.nst + 1) :: t.outSt ∧ t.joinStore.advance.outLd = t.outLd := by
  simp [Thread.joinStore]

/-! Accesses of one thread -/

/-- Looking a translation up makes no request (R324). -/
@[simp] theorem State.nextId_tlbTouch (s : State) (core va : Nat) : (s.tlbTouch core va).nextId = s.nextId := by
  rw [State.tlbTouch_coresOnly s core va]
@[simp] theorem State.reqs_tlbTouch (s : State) (core va : Nat) : (s.tlbTouch core va).reqs = s.reqs := by
  rw [State.tlbTouch_coresOnly s core va]

theorem exec_ld {s : State} {t : Thread} {w : Workgroup} {vd vo : VReg} {sb : SPair} {sz : LdSize} {imm : BitVec 4} (hs : s.Issues [t])
    (run : s.Runs (.ld vd vo sb sz imm) t w) :
    exec (.ld vd vo sb sz imm) s = .next (s.loadGlobal t w (globalAddr t w vo sb (ldBytes sz) imm) sz vd).finish := issueLanes_one hs run
theorem exec_st {s : State} {t : Thread} {w : Workgroup} {vd vo : VReg} {sb : SPair} {sz : StSize} {imm : BitVec 4} (hs : s.Issues [t])
    (run : s.Runs (.st vd vo sb sz imm) t w) :
    exec (.st vd vo sb sz imm) s = .next (s.storeGlobal t w (globalAddr t w vo sb (stBytes sz) imm) (t.storeData vd sz)).finish :=
  issueLanes_one hs run
/-- R157: a near load that passes its checks. -/
theorem exec_ldn {s : State} {t : Thread} {w : Workgroup} {vd vo : VReg} {sz : LdSize} {imm : BitVec 4} {key target : Nat} (hs : s.Issues [t])
    (run : s.Runs (.ldn vd vo sz imm) t w)
    (hk : s.checkNear t.ref.wg t.handler (nearAddr t vo (ldBytes sz) imm) (ldBytes sz) (ldBytes sz) = .ok (key, target))
    (hp : s.nearPoisoned key (ldBytes sz) = false) :
    exec (.ldn vd vo sz imm) s = .next (s.startLoad t
      (newReq t w (.load sz) true key ((nearAddr t vo (ldBytes sz) imm).zeroExtend 64) (ldBytes sz)) vd.toNat (ldRegs sz)).finish := by
  refine (issueLanes_one hs run).trans (congrArg (fun m : State => Host.Outcome.next m.finish) ?_)
  dsimp only
  rw [State.nearAccess_ok hk, if_neg (by simp [hp])]
/-- R157: a near store that passes its checks. -/
theorem exec_stn {s : State} {t : Thread} {w : Workgroup} {vd vo : VReg} {sz : StSize} {imm : BitVec 4} {key target : Nat} (hs : s.Issues [t])
    (run : s.Runs (.stn vd vo sz imm) t w)
    (hk : s.checkNear t.ref.wg t.handler (nearAddr t vo (stBytes sz) imm) (stBytes sz) (stBytes sz) = .ok (key, target)) :
    exec (.stn vd vo sz imm) s = .next (s.startStore t { newReq t w .store true key ((nearAddr t vo (stBytes sz) imm).zeroExtend 64) (stBytes sz)
      with data := t.storeData vd sz }).finish := by
  refine (issueLanes_one hs run).trans (congrArg (fun m : State => Host.Outcome.next m.finish) ?_)
  dsimp only
  rw [State.nearAccess_ok hk]

/-- A new request is of its thread, and nothing has been done for it. -/
theorem newReq_is (t : Thread) (w : Workgroup) (kind : ReqKind) (near : Bool) (addr : Nat) (va : DWord) (size dest seq : Nat)
    (data : List Byte) (cp : Nat) (sa poison : Bool) (args : List Word) :
    Claims.RequestIs { newReq t w kind near addr va size with
      data := data, dest := dest, seq := seq, cp := cp, sa := sa, poison := poison, args := args } t w kind near addr size dest seq :=
  ⟨rfl, ⟨rfl, rfl, rfl⟩, ⟨rfl, rfl, rfl⟩, ⟨rfl, rfl⟩, ⟨rfl, rfl⟩⟩

/-- The state in which a load has been issued, at the end of the issue (R38, R162). -/
theorem State.startLoad_issued {m : State} {t : Thread} (q : Req) (dest count : Nat) (h : m.thread t.ref = some t) (htraps : m.traps = []) :
    ∃ u, Claims.OnlyRequests m (m.startLoad t q dest count).finish t u ∧ Claims.GoesOn t u dest count
      ∧ u.nld = t.nld + 1 ∧ u.outLd = (t.nld + 1) :: t.outLd ∧ u.outSt = t.outSt ∧ (m.startLoad t q dest count).finish.free = m.free + count
      ∧ (m.startLoad t q dest count).finish.nextId = m.nextId + 1
      ∧ (m.startLoad t q dest count).finish.reqs = Tbl.insert m.reqs m.nextId { q with dest := dest, seq := t.nld + 1 } := by
  obtain ⟨u, hthread, hv, hothers, hrest⟩ := m.startLoad_spec t q dest count h
  obtain ⟨hnld, hld, hst⟩ := Thread.loadIssued_counters hv (t.shared dest count) (t.getVs dest count) q.kind.isField
  have hfinish := State.finish_quiet (s := m.startLoad t q dest count) (by rw [hrest]; exact htraps)
  rw [hfinish]
  refine ⟨_, ⟨hthread, hothers, ?_⟩, Thread.loadIssued_goesOn hv _ _ _, hnld, hld, hst, ?_, ?_, ?_⟩
  all_goals rw [hrest]
/-- The state in which a store has been issued, at the end of the issue (R38, R161). -/
theorem State.startStore_issued {m : State} {t : Thread} (q : Req) (h : m.thread t.ref = some t) (htraps : m.traps = []) :
    Claims.OnlyRequests m (m.startStore t q).finish t t.joinStore.advance ∧ (m.startStore t q).finish.free = m.free
      ∧ (m.startStore t q).finish.nextId = m.nextId + 1
      ∧ (m.startStore t q).finish.reqs = Tbl.insert m.reqs m.nextId { q with seq := t.nst + 1 } := by
  obtain ⟨hthread, hothers, hrest⟩ := m.startStore_spec t q h
  have hfinish := State.finish_quiet (s := m.startStore t q) (by rw [hrest]; exact htraps)
  rw [hfinish]
  refine ⟨⟨hthread, hothers, ?_⟩, ?_, ?_, ?_⟩
  all_goals rw [hrest]

/-- R38, R156, R157, R160, R162: the loads that pass their checks. -/
theorem loadsIssue : Claims.LoadsIssue := by
  intro s t w vd vo sz imm hs
  refine ⟨fun sb x run => ?_, fun key target run => ?_⟩
  · intro va hok hr hp hm
    have hlooks := State.tlbTouch_looks s w.core va.toNat
    obtain ⟨u, honly, hgoes, hnld, hld, hst, hfree, hid, hreqs⟩ := State.startLoad_issued (m := s.tlbTouch w.core va.toNat)
      { newReq t w (.load sz) false x.pa va (ldBytes sz) with cp := x.cp } vd.toNat (ldRegs sz)
      (by simpa using hs.resident t (by simp)) (by rw [hlooks.only]; exact hs.settled)
    rw [State.nextId_tlbTouch] at hid hreqs
    rw [State.reqs_tlbTouch] at hreqs
    refine ⟨_, _, u, _, hlooks, ?_, honly, hgoes, hnld, hld, hst, hfree, hid, hreqs, newReq_is t w _ false x.pa va _ _ _ _ _ _ _ _⟩
    rw [exec_ld hs run]
    exact congrArg (fun m : State => Host.Outcome.next m.finish)
      (State.loadGlobal_ok hok.canonical hok.aligned hok.held hok.linked hok.exported hr hp hm)
  · intro na hk hp
    obtain ⟨u, honly, hgoes, hnld, hld, hst, hfree, hid, hreqs⟩ := State.startLoad_issued (m := s)
      (newReq t w (.load sz) true key (na.zeroExtend 64) (ldBytes sz)) vd.toNat (ldRegs sz) (hs.resident t (by simp)) hs.settled
    exact ⟨_, u, _, exec_ldn hs run hk hp, honly, hgoes, hnld, hld, hst, hfree, hid, hreqs, newReq_is t w _ true key _ _ _ _ _ _ _ _ _⟩

/-- R38, R156, R157, R160, R161: the stores that pass their checks. -/
theorem storesIssue : Claims.StoresIssue := by
  intro s t w vd vo sz imm hs bytes
  have hbytes : t.storeData vd sz = bytes := t.storeData_eq vd sz
  have hlength : (t.storeData vd sz).length = stBytes sz := t.storeData_length vd sz
  obtain ⟨hnst, hst, hld⟩ := t.joinStore_counters
  refine ⟨fun sb x run => ?_, fun key target run => ?_⟩
  · intro va hok hw
    have hlooks := State.tlbTouch_looks s w.core va.toNat
    obtain ⟨honly, hfree, hid, hreqs⟩ := State.startStore_issued (m := s.tlbTouch w.core va.toNat)
      { newReq t w .store false x.pa va (t.storeData vd sz).length with data := t.storeData vd sz, cp := x.cp }
      (by simpa using hs.resident t (by simp)) (by rw [hlooks.only]; exact hs.settled)
    rw [State.nextId_tlbTouch] at hid hreqs
    rw [State.reqs_tlbTouch] at hreqs
    refine ⟨_, _, _, _, hlooks, ?_, honly, t.joinStore_goesOn, hnst, hst, hld, hfree, hid, hreqs, hbytes, ?_⟩
    · rw [exec_st hs run]
      exact congrArg (fun m : State => Host.Outcome.next m.finish)
        (State.storeGlobal_ok hok.canonical (by rw [hlength]; exact hok.aligned) hok.held hok.linked hok.exported hw)
    · rw [← hlength]
      exact newReq_is t w _ false x.pa va _ 0 _ _ _ _ _ _
  · intro na hk
    obtain ⟨honly, hfree, hid, hreqs⟩ := State.startStore_issued (m := s)
      { newReq t w .store true key (na.zeroExtend 64) (stBytes sz) with data := t.storeData vd sz } (hs.resident t (by simp)) hs.settled
    exact ⟨_, _, _, exec_stn hs run hk, honly, t.joinStore_goesOn, hnst, hst, hld, hfree, hid, hreqs, hbytes,
      newReq_is t w _ true key _ _ 0 _ _ _ _ _ _⟩

/-- Settles O20, from what the start of a load and of a store does. -/
theorem accessesIssue : Obligations.AccessesIssue := ⟨loadsIssue, storesIssue⟩

end Sys2Proof.Machine
end

section
/-! SUPPORT. What making room in the caches leaves unchanged; with the obligation on the issue of atomics. -/
namespace Sys2Proof.Machine

/-! Caches and return slots -/

/-- Only caches, their owners, TLBs and free words have changed, and no core's count of return slots has. -/
structure State.CachesOnly (s n : State) : Prop where
  rest    : n = { s with cores := n.cores, owners := n.owners, l2 := n.l2, acts := n.acts, free := n.free }
  returns : ∀ c, (n.core c).returns = (s.core c).returns
theorem State.CachesOnly.refl (s : State) : s.CachesOnly s := ⟨rfl, fun _ => rfl⟩
theorem State.CachesOnly.trans {a b c : State} (h : a.CachesOnly b) (k : b.CachesOnly c) : a.CachesOnly c :=
  ⟨by rw [k.rest, h.rest], fun d => (k.returns d).trans (h.returns d)⟩
theorem State.L2Only.cachesOnly {s n : State} (h : s.L2Only n) : s.CachesOnly n :=
  ⟨by rw [h], fun c => by rw [h]; rfl⟩
theorem State.onCore_returns (s : State) (c d : Nat) (f : CoreSt → CoreSt) (hf : ∀ k, (f k).returns = k.returns) :
    ((s.onCore c f).core d).returns = (s.core d).returns := by
  by_cases h : d = c
  · subst h
    rw [State.core_onCore_self, hf]
  · rw [State.core_onCore_ne s f h]
theorem State.onCore_cachesOnly (s : State) (c : Nat) (f : CoreSt → CoreSt) (hf : ∀ k, (f k).returns = k.returns) :
    s.CachesOnly (s.onCore c f) := ⟨rfl, fun d => State.onCore_returns s c d f hf⟩
/-- R324: a look-up refills at most a TLB. -/
theorem State.tlbTouch_cachesOnly (s : State) (core va : Nat) : s.CachesOnly (s.tlbTouch core va) := by
  unfold State.tlbTouch
  split
  · exact .refl s
  · split
    · next e _ =>
      have hfree := State.holdEntry_free s 64 ((s.core core).tlb.filter (fun x => !x.meets e.page e.size)) e
      refine State.CachesOnly.trans (b := (s.holdEntry 64 ((s.core core).tlb.filter (fun x => !x.meets e.page e.size)) e).2) ⟨?_, fun c => ?_⟩
        (State.onCore_cachesOnly _ core
          (fun k => { k with tlb := (s.holdEntry 64 ((s.core core).tlb.filter (fun x => !x.meets e.page e.size)) e).1 }) fun _ => rfl)
      all_goals rw [hfree]
      rfl
    · exact .refl s
/-- R292: a recall writes a line back and takes its ownership away. -/
theorem State.recall_cachesOnly (s : State) (line : Nat) : s.CachesOnly (s.recall line) := by
  unfold State.recall
  split
  · exact .refl s
  · next c _ =>
    have howners : s.CachesOnly { s with owners := Tbl.erase s.owners line } := ⟨rfl, fun _ => rfl⟩
    exact (howners.trans (State.onCore_cachesOnly _ c (fun k => { k with release := setErase k.release line }) fun _ => rfl)).trans (State.l2Touch_l2Only _ line true).cachesOnly
/-- R291: the core's own copy of the line of its atomic goes. -/
theorem State.ownAtomic_cachesOnly (s : State) (core line : Nat) : s.CachesOnly (s.ownAtomic core line) := by
  unfold State.ownAtomic
  dsimp only
  split
  · exact (State.recall_cachesOnly s line).trans (State.onCore_cachesOnly _ core _ fun _ => rfl)
  · exact State.onCore_cachesOnly _ core _ fun _ => rfl
theorem State.CachesOnly.thread {s n : State} (h : s.CachesOnly n) (r : ThreadRef) : n.thread r = s.thread r := by
  rw [h.rest]; rfl
/-- R318: an atomic takes a return slot of its lane. -/
theorem State.takeReturn_returns (s : State) (t : Thread) (w : Workgroup) :
    Tbl.get 0 ((s.takeReturn t w).core w.core).returns (laneKey w t.ref.tid) = Tbl.get 0 (s.core w.core).returns (laneKey w t.ref.tid) + 1 := by
  rw [State.takeReturn, State.core_onCore_self]
  simp [Tbl.get_put]

/-! The request of an atomic -/

/-- A state in which only caches and requests have changed is the same but for cores. -/
theorem sameButCores_of_requests {s m n : State} {t u : Thread}
    (h : m = { s with cores := m.cores, owners := m.owners, l2 := m.l2, acts := m.acts, free := m.free }) (k : Claims.OnlyRequests m n t u) :
    Claims.SameButCores s n t := by
  refine ⟨?_, ?_, fun r hr => (k.others r hr).trans (by rw [h]; rfl)⟩
  · rw [k.rest, h]
    exact ⟨rfl, rfl, rfl, rfl⟩
  · rw [k.rest, h]
    exact ⟨rfl, rfl, rfl⟩

/-- An atomic with a reply, made from a state in which only caches have changed. -/
theorem State.CachesOnly.startsLoad {s m : State} {t : Thread} {w : Workgroup} (h : s.CachesOnly m) (q : Req) (vd : VReg)
    (ht : s.thread t.ref = some t) (htraps : s.traps = []) :
    ∃ u, Claims.SameButCores s ((m.takeReturn t w).startLoad t q vd.toNat 1).finish t
      ∧ ((m.takeReturn t w).startLoad t q vd.toNat 1).finish.thread t.ref = some u
      ∧ ((m.takeReturn t w).startLoad t q vd.toNat 1).finish.reqs = Tbl.insert s.reqs s.nextId { q with dest := vd.toNat, seq := t.nld + 1 }
      ∧ Claims.GoesOn t u vd.toNat 1 ∧ u.outLd = (t.nld + 1) :: t.outLd ∧ u.outSt = t.outSt
      ∧ Tbl.get 0 (((m.takeReturn t w).startLoad t q vd.toNat 1).finish.core w.core).returns (laneKey w t.ref.tid)
        = Tbl.get 0 (s.core w.core).returns (laneKey w t.ref.tid) + 1 := by
  have htaken : (m.takeReturn t w).thread t.ref = some t := (h.thread t.ref).trans ht
  have hquiet : (m.takeReturn t w).traps = [] := (congrArg State.traps h.rest :).trans htraps
  obtain ⟨u, honly, hgoes, _, hld, hst, _, _, hreqs⟩ := State.startLoad_issued q vd.toNat 1 htaken hquiet
  refine ⟨u, sameButCores_of_requests ?_ honly, honly.thread, hreqs.trans ?_, hgoes, hld, hst, ?_⟩
  · rw [State.takeReturn, State.onCore, h.rest]
  · rw [State.takeReturn, State.onCore, h.rest]
  · have hcore : ((m.takeReturn t w).startLoad t q vd.toNat 1).finish.core w.core = (m.takeReturn t w).core w.core := by
      rw [honly.rest]
      rfl
    rw [hcore, State.takeReturn_returns, h.returns]
/-- An atomic with no reply, made from a state in which only caches have changed. -/
theorem State.CachesOnly.startsStore {s m : State} {t : Thread} (h : s.CachesOnly m) (q : Req) (ht : s.thread t.ref = some t) (htraps : s.traps = []) :
    Claims.SameButCores s (m.startStore t q).finish t ∧ (m.startStore t q).finish.thread t.ref = some t.joinStore.advance
      ∧ (m.startStore t q).finish.reqs = Tbl.insert s.reqs s.nextId { q with seq := t.nst + 1 } := by
  obtain ⟨honly, _, _, hreqs⟩ := State.startStore_issued q ((h.thread t.ref).trans ht) ((congrArg State.traps h.rest :).trans htraps)
  refine ⟨sameButCores_of_requests h.rest honly, honly.thread, hreqs.trans ?_⟩
  rw [h.rest]

/-! The accesses of atomics -/

theorem exec_atom {s : State} {t : Thread} {w : Workgroup} {vd va vb : VReg} {sp : Space} {op : AtomOp} (hs : s.Issues [t])
    (run : s.Runs (.atom vd va vb sp op) t w) :
    exec (.atom vd va vb sp op) s = .next (s.atomicAccess t w sp va (.atom op) true (fun q m =>
      (m.takeReturn t w).startLoad t { q with args := [t.getV vb.toNat, t.getV (vb.toNat + 1)] } vd.toNat 1)).finish := issueLanes_one hs run
theorem exec_red {s : State} {t : Thread} {w : Workgroup} {va vb : VReg} {sp : Space} {op : RedOp} (hs : s.Issues [t])
    (run : s.Runs (.red va vb sp op) t w) :
    exec (.red va vb sp op) s = .next (s.atomicAccess t w sp va (.red op) true (fun q m =>
      m.startStore t { q with args := [t.getV vb.toNat] })).finish := issueLanes_one hs run
theorem exec_lr {s : State} {t : Thread} {w : Workgroup} {vd va : VReg} {sp : Space} (hs : s.Issues [t]) (run : s.Runs (.lr vd va sp) t w) :
    exec (.lr vd va sp) s = .next (s.atomicAccess t w sp va .lr false (fun q m =>
      (m.takeReturn t w).startLoad t q vd.toNat 1)).finish := issueLanes_one hs run
theorem exec_sc {s : State} {t : Thread} {w : Workgroup} {vd va vb : VReg} {sp : Space} (hs : s.Issues [t])
    (run : s.Runs (.sc vd va vb sp) t w) :
    exec (.sc vd va vb sp) s = .next (s.atomicAccess t w sp va .sc true (fun q m =>
      (m.takeReturn t w).startLoad t { q with args := [t.getV vb.toNat] } vd.toNat 1)).finish := issueLanes_one hs run

/-- R156, R170, R301: a global atomic whose address passes its checks goes on with its request. -/
theorem atomicAccess_global {s : State} {t : Thread} {w : Workgroup} {va : VReg} {kind : ReqKind} {write : Bool} {k : Req → State → State}
    {x : Xlate} (hok : Claims.GlobalOk s w (t.getPair va.toNat) 4 x) (hw : write = true → x.w = true) (hr : write = false → x.r = true)
    (hsys : regionOf x.pa = 2 → x.sa = true ∧ hostAtomic kind = true) :
    s.atomicAccess t w .global va kind write k = k { newReq t w kind false x.pa (t.getPair va.toNat) 4 with cp := x.cp, sa := x.sa, poison := x.poison }
      ((s.tlbTouch w.core (t.getPair va.toNat).toNat).ownAtomic w.core (x.pa / 128)) := by
  have hread : (!write) = true → x.r = true := fun h => hr (by simpa using h)
  have hhost : (regionOf x.pa == 2 && !hostAtomic kind) = false := by
    by_cases h : regionOf x.pa = 2
    · simp [(hsys h).2]
    · simp [h]
  simp only [State.atomicAccess, atomAddr]
  rw [State.globalAccess_ok hok.canonical hok.aligned hok.held hread hw (fun _ h => (hsys h).1) (by simp [hok.exported])]
  simp [hhost, hok.linked]
/-- R157, R170: a near atomic whose address passes its checks goes on with its request. -/
theorem atomicAccess_near {s : State} {t : Thread} {w : Workgroup} {va : VReg} {kind : ReqKind} {write : Bool} {k : Req → State → State}
    {key target : Nat} (hk : s.checkNear t.ref.wg t.handler (t.getV va.toNat) 4 4 = .ok (key, target)) :
    s.atomicAccess t w .near va kind write k = k (newReq t w kind true key ((t.getV va.toNat).zeroExtend 64) 4) s := by
  have haddr : fieldOf ((t.getV va.toNat).zeroExtend 64) 31 0 = t.getV va.toNat := by
    apply BitVec.eq_of_toNat_eq
    simpa using (t.getV va.toNat).isLt
  simp only [State.atomicAccess, atomAddr, haddr]
  exact State.nearAccess_ok hk

/-- What an atomic does once its address has passed its checks. -/
def State.startAtomic (m : State) (t : Thread) (w : Workgroup) (a : Claims.AtomicWord) (q : Req) : State :=
  match a.dest with
  | some vd => (m.takeReturn t w).startLoad t { q with args := a.args } vd.toNat 1
  | none => m.startStore t { q with args := a.args }
/-- R301: the functions that cross PCIe. -/
theorem atomicWord_host {i : Instr} {t : Thread} {a : Claims.AtomicWord} (ha : Claims.atomicWord i t = some a) : a.host = hostAtomic a.kind := by
  unfold Claims.atomicWord at ha
  split at ha <;> cases ha <;> rfl
theorem exec_atomic_global {s : State} {t : Thread} {w : Workgroup} {i : Instr} {a : Claims.AtomicWord} {x : Xlate} (hs : s.Issues [t])
    (run : s.Runs i t w) (ha : Claims.atomicWord i t = some a) (hsp : a.space = .global) (hok : Claims.GlobalOk s w (t.getPair a.va.toNat) 4 x)
    (hw : a.write = true → x.w = true) (hr : a.write = false → x.r = true) (hsys : regionOf x.pa = 2 → x.sa = true ∧ a.host = true) :
    exec i s = .next (((s.tlbTouch w.core (t.getPair a.va.toNat).toNat).ownAtomic w.core (x.pa / 128)).startAtomic t w a
      { newReq t w a.kind false x.pa (t.getPair a.va.toNat) 4 with cp := x.cp, sa := x.sa, poison := x.poison }).finish := by
  rw [atomicWord_host ha] at hsys
  unfold Claims.atomicWord at ha
  split at ha <;> cases ha <;> cases hsp
  · rw [exec_atom hs run, atomicAccess_global hok hw hr hsys]; rfl
  · rw [exec_red hs run, atomicAccess_global hok hw hr hsys]; rfl
  · rw [exec_lr hs run, atomicAccess_global hok hw hr hsys]; rfl
  · rw [exec_sc hs run, atomicAccess_global hok hw hr hsys]; rfl
theorem exec_atomic_near {s : State} {t : Thread} {w : Workgroup} {i : Instr} {a : Claims.AtomicWord} {key target : Nat} (hs : s.Issues [t])
    (run : s.Runs i t w) (ha : Claims.atomicWord i t = some a) (hsp : a.space = .near)
    (hk : s.checkNear t.ref.wg t.handler (t.getV a.va.toNat) 4 4 = .ok (key, target)) :
    exec i s = .next (s.startAtomic t w a (newReq t w a.kind true key ((t.getV a.va.toNat).zeroExtend 64) 4)).finish := by
  unfold Claims.atomicWord at ha
  split at ha <;> cases ha <;> cases hsp
  · rw [exec_atom hs run, atomicAccess_near hk]; rfl
  · rw [exec_red hs run, atomicAccess_near hk]; rfl
  · rw [exec_lr hs run, atomicAccess_near hk]; rfl
  · rw [exec_sc hs run, atomicAccess_near hk]; rfl
/-- The request of an atomic, made from a state in which only caches have changed. -/
theorem State.CachesOnly.atomicIssued {s m : State} {t : Thread} {w : Workgroup} {i : Instr} {a : Claims.AtomicWord} {near : Bool} {addr : Nat} {q : Req}
    (h : s.CachesOnly m) (ht : s.thread t.ref = some t) (htraps : s.traps = []) (hexec : exec i s = .next (m.startAtomic t w a q).finish)
    (hdest0 : q.dest = 0) (hq : ∀ dest seq, Claims.RequestIs { q with args := a.args, dest := dest, seq := seq } t w a.kind near addr 4 dest seq) :
    Claims.AtomicIssued s (m.startAtomic t w a q).finish t w i a near addr := by
  cases hdest : a.dest with
  | some vd =>
    obtain ⟨u, hsame, hthread, hreqs, hgoes, hld, hst, hslot⟩ := h.startsLoad (w := w) { q with args := a.args } vd ht htraps
    simp only [State.startAtomic, hdest] at hexec ⊢
    refine ⟨u, _, hexec, hsame, hthread, hreqs, rfl, ?_⟩
    rw [hdest]
    exact ⟨hgoes, hld, hst, hq _ _, hslot⟩
  | none =>
    obtain ⟨hsame, hthread, hreqs⟩ := h.startsStore { q with args := a.args } ht htraps
    obtain ⟨_, hst, hld⟩ := t.joinStore_counters
    simp only [State.startAtomic, hdest] at hexec ⊢
    refine ⟨_, _, hexec, hsame, hthread, hreqs, rfl, ?_⟩
    rw [hdest]
    have his := hq q.dest (t.nst + 1)
    exact ⟨t.joinStore_goesOn, hst, hld, his.kind, his.thread, his.at_, ⟨hdest0, rfl⟩, his.fresh⟩

/-- Settles O25, from what the start of an atomic does once its address has passed its checks. -/
theorem atomicsIssue : Obligations.AtomicsIssue := by
  intro s t w i a hs run ha
  have ht : s.thread t.ref = some t := hs.resident t (by simp)
  refine ⟨fun x hsp hok hw hr hsys => ?_, fun key target hsp hk => ?_⟩
  · have hcaches := (State.tlbTouch_cachesOnly s w.core (t.getPair a.va.toNat).toNat).trans (State.ownAtomic_cachesOnly _ w.core (x.pa / 128))
    exact ⟨_, hcaches.atomicIssued ht hs.settled (exec_atomic_global hs run ha hsp hok hw hr hsys) rfl fun _ _ => newReq_is ..⟩
  · exact ⟨_, (State.CachesOnly.refl s).atomicIssued ht hs.settled (exec_atomic_near hs run ha hsp hk) rfl fun _ _ => newReq_is ..⟩

end Sys2Proof.Machine
end

section
/-! SUPPORT. The issue of asynchronous operations and their completion: the record, the tag, and the threads' handles; with the obligation
on the words that start them. -/
namespace Sys2Proof.Machine

/-! Issuing an operation for threads (R196) -/

/-- The numbers that the tile counters of the threads give an operation (R38). -/
def State.opSeqs (s : State) (op : Op) (refs : List ThreadRef) : List (ThreadRef × Nat) :=
  if isTileOp op.instr then refs.filterMap (fun r => (s.thread r).map (fun t => (r, t.ntl + 1))) else []
/-- The state with an operation recorded and its tag counted, before its threads know of it. -/
def State.opRecorded (s : State) (op : Op) (tag : Tag) (refs : List ThreadRef) : State :=
  ({ s with nextId := s.nextId + 1, ops := Tbl.insert s.ops s.nextId { op with
      tag := some tag, issuer := .threads (refs.filterMap (fun r => (s.thread r).map (fun t => (r, t.batch)))),
      stseq := s.opSeqs op refs } } : State).onCore op.core
    (fun c => c.setTag tag.toNat { count := (c.tag tag.toNat).count + 1, clear := false })
theorem State.core_opRecorded (s : State) (op : Op) (tag : Tag) (refs : List ThreadRef) : (s.opRecorded op tag refs).core op.core
    = (s.core op.core).setTag tag.toNat { count := ((s.core op.core).tag tag.toNat).count + 1, clear := false } :=
  State.core_onCore_self ..
/-- The note that the role of the issuing workgroup keeps of an operation (R261). -/
def State.opNoted (s : State) (g id : Nat) (refs : List ThreadRef) : State :=
  match (refs.filterMap (fun r => (s.thread r).bind (fun t => s.streamKeyOf t))).head? with
  | some k => { s with streams := Tbl.modify s.streams k (fun x =>
      { x with wgRoles := Tbl.modify x.wgRoles g (fun w => { w with ops := w.ops ++ [(id, none)] }) }) }
  | none => s
theorem State.opNoted_eq (s : State) (g id : Nat) (refs : List ThreadRef) :
    s.opNoted g id refs = { s with streams := (s.opNoted g id refs).streams } := by
  unfold State.opNoted
  split <;> rfl
theorem State.issueOp_eq (s : State) {op : Op} {tag : Tag} {l : List (ThreadRef × BitVec 16)} (hd : HReg) (refs : List ThreadRef)
    (hissuer : op.issuer = .threads l) (htag : op.tag = some tag) :
    s.issueOp op hd refs = (refs.foldl (fun s' r => s'.onThread r (fun t => t.startOp s.nextId hd (isTileOp op.instr)))
      (s.opRecorded op tag refs)).opNoted op.wg s.nextId refs := by
  cases op
  cases hissuer
  cases htag
  rfl
theorem State.filterMap_thread {α : Type} {s : State} {ts : List Thread} (f : Thread → α) (res : ∀ t ∈ ts, s.thread t.ref = some t) :
    (ts.map (·.ref)).filterMap (fun r => (s.thread r).map (fun t => (r, f t))) = ts.map (fun t => (t.ref, f t)) := by
  rw [List.filterMap_map, ← List.filterMap_eq_map]
  refine List.filterMap_congr fun t ht => ?_
  simp [res t ht]
theorem State.advanceAll_streams (s : State) (x : Tbl Stream) (refs : List ThreadRef) :
    ({ s with streams := x } : State).advanceAll refs = { s.advanceAll refs with streams := x } := by
  induction refs generalizing s with
  | nil => rfl
  | cons r refs ih => exact ih (s.onThread r Thread.advance)

@[simp] theorem Thread.startOp_ref (t : Thread) (id : Nat) (hd : HReg) (tile : Bool) : (t.startOp id hd tile).ref = t.ref := by
  cases tile <;> rfl
/-- What an operation leaves when it has been issued for the threads ts, which go on. -/
structure State.Issued (s n : State) (ts : List Thread) (op : Op) (hd : HReg) (tag : Tag) : Prop where
  threads : ∀ t ∈ ts, n.thread t.ref = some (t.startOp s.nextId hd (isTileOp op.instr)).advance
  others  : ∀ r, (∀ t ∈ ts, refKey t.ref ≠ refKey r) → n.thread r = s.thread r
  record  : ∃ seqs, Tbl.find n.ops s.nextId
              = some { op with tag := some tag, issuer := .threads (ts.map (fun t => (t.ref, t.batch))), stseq := seqs }
  core    : n.core op.core = (s.core op.core).setTag tag.toNat { count := ((s.core op.core).tag tag.toNat).count + 1, clear := false }
  rest    : n = { s with threads := n.threads, cores := n.cores, ops := n.ops, streams := n.streams, nextId := n.nextId }
theorem State.issueFor_issued {s : State} {ts : List Thread} {op : Op} {tag : Tag} {l : List (ThreadRef × BitVec 16)} (hd : HReg)
    (hissuer : op.issuer = .threads l) (htag : op.tag = some tag) (res : ∀ t ∈ ts, s.thread t.ref = some t)
    (dis : (ts.map (fun t => refKey t.ref)).Nodup) : s.Issued (s.issueFor op hd (ts.map (·.ref))) ts op hd tag := by
  obtain ⟨hthreads, hothers, hrest⟩ := State.foldl_onThread_advanceAll (s := s.opRecorded op tag (ts.map (·.ref)))
    (f := fun t => t.startOp s.nextId hd (isTileOp op.instr)) (fun t => t.startOp_ref _ _ _) res dis
  rw [State.issueFor, s.issueOp_eq hd (ts.map (·.ref)) hissuer htag, State.opNoted_eq, State.advanceAll_streams, hrest]
  refine ⟨hthreads, hothers, ⟨s.opSeqs op (ts.map (·.ref)), ?_⟩, s.core_opRecorded op tag (ts.map (·.ref)), rfl⟩
  rw [← State.filterMap_thread Thread.batch res]
  exact Tbl.find_insert_self ..
/-! The thread's side -/

theorem Thread.getH_setH (t : Thread) (k j : HReg) (x : Handle) : (t.setH k x).getH j = if j = k then x else t.getH j := by
  simp [Thread.getH, Thread.setH, Tbl.get_put, BitVec.toNat_inj]
@[simp] theorem Thread.getH_advance (t : Thread) (k : HReg) : t.advance.getH k = t.getH k := by simp [Thread.getH]
theorem Thread.getH_startOp (t : Thread) (id : Nat) (hd : HReg) (tile : Bool) (k : HReg) :
    (t.startOp id hd tile).getH k = if k = hd then .pending id else t.getH k := by
  rw [← Thread.getH_setH]
  cases tile <;> rfl
/-- R37: the open batch holds the operation that joins it. -/
theorem mem_joinBatch (l : List (BitVec 16 × Nat)) (b : BitVec 16) : ∃ c, (b, c + 1) ∈ joinBatch l b := by
  unfold joinBatch
  split
  · next c n t =>
    split
    · next h => exact ⟨n, by simp [h]⟩
    · exact ⟨0, by simp⟩
  · exact ⟨0, by simp⟩
/-- What the thread keeps of the issue of an operation. -/
structure Thread.Starts (t u : Thread) (id : Nat) (hd : HReg) : Prop where
  pc      : u.pc = t.pc + 4 ∧ u.stall = .none
  kept    : u.v = t.v ∧ u.p = t.p ∧ u.outLd = t.outLd ∧ u.outSt = t.outSt ∧ u.ref = t.ref
  handles : ∀ k, u.getH k = if k = hd then .pending id else t.getH k
  ops     : id ∈ u.ops
  batch   : ∃ c, (t.batch, c + 1) ∈ u.batches
theorem Thread.startOp_starts (t : Thread) (id : Nat) (hd : HReg) (tile : Bool) : t.Starts (t.startOp id hd tile).advance id hd := by
  refine ⟨⟨?_, rfl⟩, ?_, fun k => (Thread.getH_advance _ k).trans (t.getH_startOp id hd tile k), ?_, ?_⟩
  · cases tile <;> rfl
  · cases tile <;> simp [Thread.startOp]
  · cases tile <;> simp [Thread.startOp]
  · obtain ⟨c, hc⟩ := mem_joinBatch t.batches t.batch
    refine ⟨c, ?_⟩
    cases tile <;> simpa [Thread.startOp] using hc

/-! The tag -/

theorem CoreSt.tag_setTag (c : CoreSt) (k : Nat) (x : TagSt) : (c.setTag k x).tag k = x := by
  simp [CoreSt.tag, CoreSt.setTag, Tbl.get_put]

/-- An operation issued after a change of other operations alone. -/
theorem State.Issued.opStarted {s m n : State} {ts : List Thread} {w : Workgroup} {op : Op} {hd : HReg} {tag : Tag} (h : m.Issued n ts op hd tag)
    (hm : m = { s with ops := m.ops }) (hcore : op.core = w.core) : Claims.OpStarted s n ts w op.instr hd tag s.nextId := by
  have hid : m.nextId = s.nextId := by rw [hm]
  obtain ⟨seqs, hop⟩ := h.record
  rw [← hid]
  refine ⟨⟨_, hop, rfl, hcore, rfl⟩, fun t ht => ?_, fun r hr => (h.others r hr).trans (by rw [hm]; rfl), ?_, ?_⟩
  · obtain ⟨⟨hpc, hstall⟩, ⟨hv, hp, hld, hst, _⟩, hhandles, hops, hbatch⟩ := t.startOp_starts m.nextId hd (isTileOp op.instr)
    exact ⟨_, h.threads t ht, hpc, hstall, hv, hp, by rw [hhandles, if_pos rfl], fun k hk => by rw [hhandles, if_neg hk], hops, hld, hst, hbatch⟩
  · have hmcore : m.core w.core = s.core w.core := by rw [hm]; rfl
    rw [← hcore, h.core, CoreSt.tag_setTag, hcore, hmcore]
  · rw [h.rest, hm]
    exact ⟨rfl, rfl, rfl⟩
/-- The end of the issue. -/
theorem opStarted_finish {s n : State} {ts : List Thread} {w : Workgroup} {i : Instr} {hd : HReg} {tag : Tag} {id : Nat}
    (h : Claims.OpStarted s n ts w i hd tag id) (hn : n.traps = []) : Claims.OpStarted s n.finish ts w i hd tag id := by
  rw [State.finish_quiet hn]
  exact ⟨h.op, h.threads, h.others, h.tag, h.memory⟩
theorem State.Issued.traps {s n : State} {ts : List Thread} {op : Op} {hd : HReg} {tag : Tag} (h : s.Issued n ts op hd tag) :
    n.traps = s.traps := by rw [h.rest]
/-- R35, R37, R196: an operation issued for its threads. -/
theorem State.issueFor_opStarted {s : State} {ts : List Thread} {w : Workgroup} {op : Op} {tag : Tag} {l : List (ThreadRef × BitVec 16)} (hd : HReg)
    (hissuer : op.issuer = .threads l) (htag : op.tag = some tag) (hcore : op.core = w.core) (h : s.Issues ts) :
    Claims.OpStarted s (s.issueFor op hd (ts.map (·.ref))).finish ts w op.instr hd tag s.nextId := by
  have hissued := State.issueFor_issued hd hissuer htag h.resident h.distinct
  exact opStarted_finish (hissued.opStarted rfl hcore) (hissued.traps.trans h.settled)

/-- R158: a block whose address passes its checks is read. -/
theorem State.withBlock_ok {s : State} {t : Thread} {refs : List ThreadRef} {va : VReg} {n al key target : Nat} {k : Nat → Nat → List Byte → State}
    (hk : s.checkNear t.ref.wg t.handler (t.getV va.toNat) n al = .ok (key, target)) (hp : s.nearPoisoned key n = false) :
    s.withBlock t refs va n al k = k key target (s.nearLoad key n) := by
  simp [State.withBlock, hk, hp]
theorem exec_cpy {s : State} {t : Thread} {w : Workgroup} {hd : HReg} {tag : Tag} {sp : SPair} {va : VReg} {dir : CpyDir} {sz : VecSize}
    (hs : s.Issues [t]) (run : s.Runs (.cpy hd tag sp va dir sz) t w) :
    exec (.cpy hd tag sp va dir sz) s = .next (s.issueFor { s.threadOp (.cpy hd tag sp va dir sz) t w sp with
      args := [t.getV va.toNat, t.getV (va.toNat + 1)], group := s.copyGroupNo t w } hd [t.ref]).finish := by
  change execCpy hd tag sp va dir sz s = _
  unfold execCpy
  exact issueWith_one hs run
theorem exec_cbook {s : State} {ts : List Thread} {t : Thread} {w : Workgroup} {hd : HReg} {tag : Tag} {sp : SPair} {vec : VecSize} {k : BitVec 2}
    (h : s.Elects (.cbook hd tag sp vec k) ts t w) :
    exec (.cbook hd tag sp vec k) s = .next (s.issueFor (s.threadOp (.cbook hd tag sp vec k) t w sp) hd (ts.map (·.ref))).finish := by
  change execCbook hd tag sp vec k s = _
  exact issueElected_elects h
/-- R207: a CPYM whose block passes the checks. -/
theorem exec_cpym {s : State} {ts : List Thread} {t : Thread} {w : Workgroup} {hd : HReg} {tag : Tag} {sp : SPair} {va : VReg} {near : Bool}
    {key target : Nat} (h : s.Elects (.cpym hd tag sp va near) ts t w)
    (hk : s.checkNear t.ref.wg t.handler (t.getV va.toNat) 32 32 = .ok (key, target)) (hp : s.nearPoisoned key 32 = false) {b : List Byte}
    (hb : s.nearLoad key 32 = b) (hteam : teamValid (w.team (cpymTeam b % 4)) = true)
    (hok : s.cpymOk t.ref.wg t.handler (s.teamWords w (w.team (cpymTeam b % 4))).length b = true) :
    exec (.cpym hd tag sp va near) s = .next (s.issueFor { s.threadOp (.cpym hd tag sp va near) t w sp with
      block := b, pa := (t.getV va.toNat).toNat, members := s.captureAll w.launch (s.teamWords w (w.team (cpymTeam b % 4))) b }
      hd (ts.map (·.ref))).finish := by
  change execCpym hd tag sp va near s = _
  unfold execCpym
  rw [issueGroup_elects h, State.withBlock_ok hk hp, hb]
  simp only [hteam, hok]
  rfl
/-- R35, R37, R196, R199, R202, R203, R206: the copies. -/
theorem copiesIssue : Claims.CopiesIssue := by
  refine ⟨fun s t w hd tag sp va dir sz hs run => ?_, fun s t w hd tag sp va idx8 k hs run => ⟨fun howns => ?_, fun hother => ?_⟩,
    fun s ts t w hd tag sp vec k h => ?_, fun s ts t w hd tag sp va near key target h hk hp => ?_⟩
  · have hexec := exec_cpy hs run
    have hstarted := State.issueFor_opStarted (w := w) (op := { s.threadOp (.cpy hd tag sp va dir sz) t w sp with
      args := [t.getV va.toNat, t.getV (va.toNat + 1)], group := s.copyGroupNo t w }) (tag := tag) (l := []) hd rfl rfl rfl hs
    exact ⟨_, hexec, hstarted⟩
  · refine ⟨_, (issueLanes_one hs run).trans ?_, State.issueFor_opStarted (op := { s.threadOp (.cpyq hd tag sp va idx8 k) t w sp with
      args := [t.getV va.toNat, t.getV (va.toNat + 1)] }) hd rfl rfl rfl hs⟩
    simp [howns]
  · refine (issueLanes_one hs run).trans ?_
    simp [hother, clCodebook]
  · have hexec := exec_cbook h
    exact ⟨_, hexec, State.issueFor_opStarted hd rfl rfl rfl h.issues⟩
  · intro b m hvalid hok
    have hexec := exec_cpym h hk hp rfl hvalid hok
    exact ⟨_, hexec, State.issueFor_opStarted hd rfl rfl rfl h.issues⟩

/-! The completion of an operation of threads (R197) -/

/-- Changes of distinct resident threads, each with its own argument. -/
theorem State.foldl_onThread_pairs {α : Type} {g : ThreadRef × α → Thread → Thread} (hg : ∀ e t, (g e t).ref = t.ref) (l : List (ThreadRef × α))
    (dis : (l.map (fun e => refKey e.1)).Nodup) (s : State) :
    (∀ e ∈ l, ∀ t, s.thread e.1 = some t → t.ref = e.1 → (l.foldl (fun s e => s.onThread e.1 (g e)) s).thread e.1 = some (g e t))
      ∧ (∀ r, (∀ e ∈ l, refKey e.1 ≠ refKey r) → (l.foldl (fun s e => s.onThread e.1 (g e)) s).thread r = s.thread r)
      ∧ l.foldl (fun s e => s.onThread e.1 (g e)) s = { s with threads := (l.foldl (fun s e => s.onThread e.1 (g e)) s).threads } := by
  induction l generalizing s with
  | nil => exact ⟨by simp, fun _ _ => rfl, rfl⟩
  | cons e l ih =>
    simp only [List.map_cons, List.nodup_cons, List.mem_map, not_exists, not_and] at dis
    obtain ⟨hne, hdis⟩ := dis
    obtain ⟨hself, hothers, hrest⟩ := ih hdis (s.onThread e.1 (g e))
    refine ⟨fun d hd t ht href => ?_, fun r hr => ?_, hrest.trans rfl⟩
    · rcases List.mem_cons.1 hd with rfl | hd
      · refine (hothers _ hne).trans ?_
        rw [← href] at ht ⊢
        exact State.thread_onThread_some ht (hg d t)
      · exact hself d hd t ((State.thread_onThread_ne s _ (hne d hd)).trans ht) href
    · exact (hothers r fun d hd => hr d (by simp [hd])).trans (State.thread_onThread_ne s _ fun h => hr e (by simp) h.symm)

theorem Tbl.find_mapIf {α : Type} (m : Tbl α) (p : α → Prop) [DecidablePred p] (f : α → α) (k : Nat) :
    Tbl.find (m.map (fun e => if p e.2 then (e.1, f e.2) else e)) k = (Tbl.find m k).map (fun a => if p a then f a else a) := by
  induction m with
  | nil => rfl
  | cons e m ih =>
    obtain ⟨j, a⟩ := e
    by_cases hp : p a <;> by_cases h : k = j <;> simp [Tbl.find, h, hp]
    all_goals simpa [h] using ih
@[simp] theorem Thread.finishOp_ref (t : Thread) (id : Nat) (b : BitVec 16) (q : Option Nat) (st : Byte) : (t.finishOp id b q st).ref = t.ref := rfl
/-- R197: the handles that waited for the operation hold its status. -/
theorem Thread.getH_finishOp (t : Thread) (id : Nat) (b : BitVec 16) (q : Option Nat) (st : Byte) (k : HReg) :
    (t.finishOp id b q st).getH k = if t.getH k = .pending id then .done st else t.getH k := by
  simp only [Thread.getH, Thread.finishOp, Tbl.get]
  rw [Tbl.find_mapIf t.h (fun x => x = .pending id) (fun _ => .done st)]
  rcases Option.eq_none_or_eq_some (Tbl.find t.h k.toNat) with h | ⟨x, h⟩ <;> simp [h]
/-- R210: a thread that does not wait does not go on when a tag is set. -/
theorem State.thread_tagsWake_running {s : State} {core : Nat} {r : ThreadRef} {t : Thread} (h : s.thread r = some t) (hstall : t.stall = .none) :
    (s.tagsWake core).thread r = some t := by
  have hfind : Tbl.find s.threads (refKey r) = some t := h
  refine (Tbl.find_mapIf s.threads (fun u => (((s.wgOf u.ref).map (·.core)) == some core && u.tagsMet (s.core core).tagBits) = true)
    (Thread.kept Thread.advance) (refKey r)).trans ?_
  simp [hfind, Thread.tagsMet, hstall]
/-- What an operation of running threads leaves when it has completed. -/
structure State.Completed (m n : State) (id : Nat) (op : Op) (l : List (ThreadRef × BitVec 16)) (tag : Tag) (status : Byte) : Prop where
  threads : ∀ e ∈ l, ∀ t, m.thread e.1 = some t → t.ref = e.1 → t.stall = .none → ∃ q, n.thread e.1 = some (t.finishOp id e.2 q status)
  ops     : n.ops = Tbl.erase m.ops id
  core    : n.core op.core = (m.core op.core).tagDone tag.toNat
  rest    : n = { m with threads := n.threads, ops := n.ops, cores := n.cores, streams := n.streams }
/-- The state with an operation taken out and its tag's count reduced, before its threads know of it. -/
def State.opOver (m : State) (id : Nat) (op : Op) (tag : Tag) (status : Byte) : State :=
  let mark := fun (l : List (Nat × Option Byte)) => l.map (fun e => if e.1 = id then (e.1, some status) else e)
  { ({ m with ops := Tbl.erase m.ops id } : State).onCore op.core (fun c => c.tagDone tag.toNat) with
    streams := m.streams.map (fun e => (e.1, { e.2 with
      roles := e.2.roles.map (fun r => (r.1, { r.2 with ops := mark r.2.ops })),
      wgRoles := e.2.wgRoles.map (fun r => (r.1, { r.2 with ops := mark r.2.ops })) })) }
theorem State.completeOp_eq (m : State) {id : Nat} {op : Op} {l : List (ThreadRef × BitVec 16)} {tag : Tag} (status : Byte)
    (hop : Tbl.find m.ops id = some op) (hissuer : op.issuer = .threads l) (htag : op.tag = some tag) :
    m.completeOp id status = (l.foldl (fun s e => s.onThread e.1 (fun t =>
      t.finishOp id e.2 ((op.stseq.find? (fun q => q.1 == e.1)).map (·.2)) status)) (m.opOver id op tag status)).tagsWake op.core := by
  unfold State.completeOp
  rw [hop]
  simp only [hissuer, htag]
  rfl
theorem State.completeOp_completed {m : State} {id : Nat} {op : Op} {l : List (ThreadRef × BitVec 16)} {tag : Tag} (status : Byte)
    (hop : Tbl.find m.ops id = some op) (hissuer : op.issuer = .threads l) (htag : op.tag = some tag)
    (dis : (l.map (fun e => refKey e.1)).Nodup) : m.Completed (m.completeOp id status) id op l tag status := by
  obtain ⟨hself, _, hrest⟩ := State.foldl_onThread_pairs
    (g := fun e t => t.finishOp id e.2 ((op.stseq.find? (fun q => q.1 == e.1)).map (·.2)) status) (fun _ _ => by rfl) l dis (m.opOver id op tag status)
  have heq := m.completeOp_eq status hop hissuer htag
  rw [hrest] at heq
  refine ⟨fun e he t ht href hstall => ⟨(op.stseq.find? (fun q => q.1 == e.1)).map (·.2), ?_⟩, by rw [heq]; rfl, ?_, by rw [heq]; rfl⟩
  · rw [heq]
    exact State.thread_tagsWake_running (hself e he t ht href) hstall
  · rw [heq]
    exact State.core_onCore_self { m with ops := Tbl.erase m.ops id } op.core (fun c => c.tagDone tag.toNat)

/-! Words that read a block (R216) -/

theorem MxIssue.go_of_ite {p : Prop} [Decidable p] {a b : MxIssue} {op : Op} (ha : a ≠ .go op) (h : (if p then a else b) = .go op) : b = .go op := by
  split at h
  · exact absurd h ha
  · exact h
theorem MxIssue.go_of_param {p : Prop} [Decidable p] {b : MxIssue} {op : Op} (h : (if p then .param else b) = MxIssue.go op) : b = .go op :=
  MxIssue.go_of_ite (fun h => by cases h) h
theorem MxIssue.go_of_trap {p : Prop} [Decidable p] {x : MxTrap} {b : MxIssue} {op : Op} (h : (if p then .trap x else b) = MxIssue.go op) :
    b = .go op := MxIssue.go_of_ite (fun h => by cases h) h
theorem oldCheck_go {slot : BitVec 3} {s : State} {op op' : Op} {w : Workgroup} (h : oldCheck slot s op w = .go op') :
    ∃ rects reason, op' = { op with rects := rects, reason := reason } := by
  unfold oldCheck at h
  cases MxIssue.go_of_param (MxIssue.go_of_trap h)
  exact ⟨_, _, rfl⟩
theorem mmaCheck_go {keep : Option Nat} {ov : Bool} {s : State} {op op' : Op} {w : Workgroup} (h : mmaCheck keep ov s op w = .go op') :
    ∃ rects reason, op' = { op with rects := rects, reason := reason } := by
  unfold mmaCheck at h
  cases MxIssue.go_of_trap (MxIssue.go_of_trap (MxIssue.go_of_param h))
  exact ⟨_, _, rfl⟩
theorem mvCheck_go {tile : Bool} {target : Nat} {op op' : Op} {w : Workgroup} (h : mvCheck tile target op w = .go op') :
    ∃ rects reason, op' = { op with rects := rects, reason := reason } := by
  unfold mvCheck at h
  have hplaced := MxIssue.go_of_param (MxIssue.go_of_trap h)
  cases tile
  · cases hplaced
    exact ⟨_, _, rfl⟩
  · cases MxIssue.go_of_trap hplaced
    exact ⟨_, _, rfl⟩
theorem accCheck_go {fn : AccFn} {s : State} {op op' : Op} {w : Workgroup} (h : accCheck fn s op w = .go op') :
    ∃ rects reason, op' = { op with rects := rects, reason := reason } := by
  unfold accCheck at h
  have hfields := MxIssue.go_of_param h
  split at hfields
  · split at hfields <;> cases hfields
    exact ⟨_, _, rfl⟩
  · cases MxIssue.go_of_trap hfields
    exact ⟨_, _, rfl⟩
theorem scaccCheck_go {code : Bool} {s : State} {op op' : Op} {w : Workgroup} (h : scaccCheck code s op w = .go op') :
    ∃ rects reason, op' = { op with rects := rects, reason := reason } := by
  unfold scaccCheck at h
  cases MxIssue.go_of_trap (MxIssue.go_of_param h)
  exact ⟨_, _, rfl⟩
theorem pruneCheck_go {keep : Option Nat} {s : State} {op op' : Op} {w : Workgroup} (h : pruneCheck keep s op w = .go op') :
    ∃ rects reason, op' = { op with rects := rects, reason := reason } := by
  unfold pruneCheck at h
  cases MxIssue.go_of_param h
  exact ⟨_, _, rfl⟩
/-- The check of a block changes no more of the operation than its rectangles and its reason. -/
theorem blockWord_go {s : State} {i : Instr} {target : Nat} {x : Claims.BlockWord} {op op' : Op} {w : Workgroup}
    (hx : Claims.blockWord i target = some x) (hgo : x.check s op w = .go op') : ∃ rects reason, op' = { op with rects := rects, reason := reason } := by
  unfold Claims.blockWord at hx
  split at hx <;> cases hx <;> dsimp only at hgo
  · exact oldCheck_go hgo
  · exact mmaCheck_go hgo
  · exact mmaCheck_go hgo
  · exact mvCheck_go hgo
  · exact accCheck_go hgo
  · exact accCheck_go hgo
  · exact accCheck_go hgo
  · exact scaccCheck_go hgo
  · exact pruneCheck_go hgo

/-- What an OLD does to its slot at issue (R215). -/
def State.fillsSlot (m : State) (i : Instr) (id : Nat) (op : Op) : State :=
  match i with
  | .old _ _ _ _ slot => m.onCore op.core (fun c => c.setSlot slot.toNat { c.slot slot.toNat with state := .filling op.wg id })
  | _ => m
theorem issueMx_go {s : State} {ts : List Thread} {t : Thread} {w : Workgroup} {i : Instr} {kinds : List Nat} {hd : HReg} {tag : Tag} {sp : SPair}
    {va : VReg} {n key target : Nat} {check : State → Op → Workgroup → MxIssue} {after : Nat → Op → State → State} {op' : Op} (h : s.Elects i ts t w)
    (hk : s.checkNear t.ref.wg t.handler (t.getV va.toNat) n 16 = .ok (key, target)) (hp : s.nearPoisoned key n = false)
    (hgo : check s { s.threadOp i t w sp with block := s.nearLoad key n, args := [BitVec.ofNat 32 key] } w = .go op') :
    issueMx i kinds hd tag sp va n check after s
      = .next (after s.nextId op' (s.withClash op' (fun op m => m.issueFor op hd (ts.map (·.ref))))).finish := by
  unfold issueMx
  rw [issueGroup_elects h, State.withBlock_ok hk hp]
  simp only [hgo]
theorem issueMx_param {s : State} {ts : List Thread} {t : Thread} {w : Workgroup} {i : Instr} {kinds : List Nat} {hd : HReg} {tag : Tag} {sp : SPair}
    {va : VReg} {n key target : Nat} {check : State → Op → Workgroup → MxIssue} {after : Nat → Op → State → State} (h : s.Elects i ts t w)
    (hk : s.checkNear t.ref.wg t.handler (t.getV va.toNat) n 16 = .ok (key, target)) (hp : s.nearPoisoned key n = false)
    (hparam : check s { s.threadOp i t w sp with block := s.nearLoad key n, args := [BitVec.ofNat 32 key] } w = .param) :
    issueMx i kinds hd tag sp va n check after s
      = .next (s.issueDone { s.threadOp i t w sp with block := s.nearLoad key n, args := [BitVec.ofNat 32 key] } hd (ts.map (·.ref)) stParam).finish := by
  unfold issueMx
  rw [issueGroup_elects h, State.withBlock_ok hk hp]
  simp only [hparam]

theorem exec_block_go {s : State} {ts : List Thread} {t : Thread} {w : Workgroup} {i : Instr} {key target : Nat} {x : Claims.BlockWord} {op' : Op}
    (h : s.Elects i ts t w) (hx : Claims.blockWord i target = some x)
    (hk : s.checkNear t.ref.wg t.handler (t.getV x.va.toNat) x.size 16 = .ok (key, target)) (hp : s.nearPoisoned key x.size = false)
    (hgo : x.check s { s.threadOp i t w x.sp with block := s.nearLoad key x.size, args := [BitVec.ofNat 32 key] } w = .go op') :
    exec i s = .next ((s.withClash op' (fun op m => m.issueFor op x.hd (ts.map (·.ref)))).fillsSlot i s.nextId op').finish := by
  unfold Claims.blockWord at hx
  split at hx <;> cases hx <;> dsimp only at hk hp hgo ⊢
  · next hd tag sp va slot =>
    change execOld hd tag sp va slot s = _
    unfold execOld
    rw [issueMx_go h hk hp hgo]
    rfl
  · next hd tag sp va ov =>
    change execMma hd tag sp va ov s = _
    unfold execMma issueMatrix
    rw [issueMx_go h hk hp hgo]
    rfl
  · next hd tag sp va ov n =>
    change execMmas hd tag sp va ov n s = _
    unfold execMmas issueMatrix
    rw [issueMx_go h hk hp hgo]
    rfl
  · next hd tag sp va tile mode =>
    change execMv hd tag sp va tile mode s = _
    unfold execMv
    rw [issueGroup_elects h, State.withBlock_ok hk hp]
    simp only [hgo]
    rfl
  · next hd tag sp va =>
    change execAccld hd tag sp va s = _
    unfold execAccld issueMatrix
    rw [issueMx_go h hk hp hgo]
    rfl
  · next hd tag sp va =>
    change execAccst hd tag sp va s = _
    unfold execAccst issueMatrix
    rw [issueMx_go h hk hp hgo]
    rfl
  · next hd tag sp va =>
    change execAcz hd tag sp va s = _
    unfold execAcz issueMatrix
    rw [issueMx_go h hk hp hgo]
    rfl
  · next hd tag va code =>
    change execScacc hd tag va code s = _
    unfold execScacc issueMatrix
    rw [issueMx_go h hk hp hgo]
    rfl
  · next hd tag va n =>
    change execNprune hd tag va n s = _
    unfold execNprune issueMatrix
    rw [issueMx_go h hk hp hgo]
    rfl

theorem opStarted_onCore {s n : State} {ts : List Thread} {w : Workgroup} {i : Instr} {hd : HReg} {tag : Tag} {id : Nat} {c : Nat} {f : CoreSt → CoreSt}
    (h : Claims.OpStarted s n ts w i hd tag id) (hf : ∀ k j, (f k).tag j = k.tag j) : Claims.OpStarted s (n.onCore c f) ts w i hd tag id := by
  refine ⟨h.op, h.threads, h.others, ?_, h.memory⟩
  by_cases hc : w.core = c
  · rw [← hc, State.core_onCore_self, hf, h.tag]
  · rw [State.core_onCore_ne n f hc, h.tag]
theorem State.fillsSlot_opStarted {s n : State} {ts : List Thread} {w : Workgroup} {i j : Instr} {hd : HReg} {tag : Tag} {id k : Nat} {op : Op}
    (h : Claims.OpStarted s n ts w i hd tag id) : Claims.OpStarted s (n.fillsSlot j k op) ts w i hd tag id := by
  unfold State.fillsSlot
  split
  · exact opStarted_onCore h fun _ _ => by rfl
  · exact h
theorem State.fillsSlot_traps (m : State) (j : Instr) (k : Nat) (op : Op) : (m.fillsSlot j k op).traps = m.traps := by
  unfold State.fillsSlot
  split <;> rfl
theorem CoreSt.slot_setSlot (c : CoreSt) (k : Nat) (x : Slot) : (c.setSlot k x).slot k = x := by
  simp [CoreSt.slot, CoreSt.setSlot, Tbl.get, Tbl.find_insert_self]

theorem State.fillsSlot_old (m : State) (hd : HReg) (tag : Tag) (sp : SPair) (va : VReg) (slot : BitVec 3) (id : Nat) (op : Op) :
    (((m.fillsSlot (.old hd tag sp va slot) id op).core op.core).slot slot.toNat).state = .filling op.wg id := by
  simp only [State.fillsSlot, State.core_onCore_self, CoreSt.slot_setSlot]
theorem blockWord_tag {i : Instr} {target : Nat} {x : Claims.BlockWord} (hx : Claims.blockWord i target = some x) : tagOf i = some x.tag := by
  unfold Claims.blockWord at hx
  split at hx <;> cases hx <;> rfl
/-- R196, R215, R216: a word whose block passes the checks. -/
theorem blockStarts {s : State} {ts : List Thread} {t : Thread} {w : Workgroup} {i : Instr} {key target : Nat} {x : Claims.BlockWord} {op' : Op}
    (h : s.Elects i ts t w) (hx : Claims.blockWord i target = some x)
    (hgo : x.check s { s.threadOp i t w x.sp with block := s.nearLoad key x.size, args := [BitVec.ofNat 32 key] } w = .go op') :
    let n := ((s.withClash op' (fun op m => m.issueFor op x.hd (ts.map (·.ref)))).fillsSlot i s.nextId op').finish
    Claims.OpStarted s n ts w i x.hd x.tag s.nextId
      ∧ ∀ hd tag sp va slot, i = .old hd tag sp va slot → ((n.core w.core).slot slot.toNat).state = .filling t.ref.wg s.nextId := by
  intro n
  obtain ⟨rects, reason, rfl⟩ := blockWord_go hx hgo
  set op : Op := { s.threadOp i t w x.sp with
    block := s.nearLoad key x.size, args := [BitVec.ofNat 32 key], rects := rects, reason := reason } with hop
  let m : State := { s with ops := s.ops.map (fun e => (e.1, { e.2 with torn := e.2.torn ++ op.clash e.2 })) }
  have hissued : m.Issued (s.withClash op (fun op m => m.issueFor op x.hd (ts.map (·.ref)))) ts { op with torn := s.ops.flatMap (fun e => op.clash e.2) }
      x.hd x.tag := State.issueFor_issued x.hd rfl (blockWord_tag hx) h.issues.resident h.issues.distinct
  have hstarted : Claims.OpStarted s _ ts w i x.hd x.tag s.nextId := hissued.opStarted rfl rfl
  have hquiet : ((s.withClash op (fun op m => m.issueFor op x.hd (ts.map (·.ref)))).fillsSlot i s.nextId op).traps = [] :=
    (State.fillsSlot_traps ..).trans (hissued.traps.trans h.issues.settled)
  refine ⟨opStarted_finish (State.fillsSlot_opStarted hstarted) hquiet, ?_⟩
  rintro hd tag sp va slot rfl
  have hn : n = { (s.withClash op (fun op m => m.issueFor op x.hd (ts.map (·.ref)))).fillsSlot (.old hd tag sp va slot) s.nextId op with issue := none } :=
    State.finish_quiet hquiet
  rw [hn]
  exact State.fillsSlot_old _ hd tag sp va slot s.nextId op

/-! Words whose block fails the first stage (R216) -/

/-- Threads, operations, cores, memory and traps are the same. -/
structure State.SameOps (m k : State) : Prop where
  threads : k.threads = m.threads
  ops     : k.ops = m.ops
  cores   : k.cores = m.cores
  mem     : k.mem = m.mem
  traps   : k.traps = m.traps
theorem State.SameOps.refl (m : State) : m.SameOps m := ⟨rfl, rfl, rfl, rfl, rfl⟩
theorem State.SameOps.trans {a b c : State} (h : a.SameOps b) (k : b.SameOps c) : a.SameOps c :=
  ⟨k.threads.trans h.threads, k.ops.trans h.ops, k.cores.trans h.cores, k.mem.trans h.mem, k.traps.trans h.traps⟩
theorem CoreSt.tag_tagDone_setTag (c : CoreSt) (k n : Nat) (b : Bool) :
    ((c.setTag k { count := n + 1, clear := b }).tagDone k).tag k = { count := n, clear := false } := by
  simp [CoreSt.tagDone, CoreSt.tag_setTag]
/-- R197: an operation that completes when it has been issued. -/
theorem issuedEnds {s m k : State} {ts : List Thread} {w : Workgroup} {op : Op} {hd : HReg} {tag : Tag} {status : Byte} (hs : s.Issues ts)
    (h : s.Issued m ts op hd tag) (hcore : op.core = w.core) (hk : m.SameOps k) (hfresh : ∀ u ∈ ts, ∀ j, u.getH j ≠ .pending s.nextId) :
    let n := (k.completeOp s.nextId status).finish
    Tbl.find n.ops s.nextId = none
      ∧ (∀ u ∈ ts, ∃ u', n.thread u.ref = some u' ∧ u'.pc = u.pc + 4 ∧ u'.v = u.v ∧ u'.getH hd = .done status ∧ ∀ j, j ≠ hd → u'.getH j = u.getH j)
      ∧ (n.core w.core).tag tag.toNat = { count := ((s.core w.core).tag tag.toNat).count, clear := false }
      ∧ n.mem = s.mem := by
  intro n
  obtain ⟨seqs, hop⟩ := h.record
  rw [← hk.ops] at hop
  have hdone := k.completeOp_completed status hop rfl rfl (by simpa [Function.comp_def] using hs.distinct)
  have hquiet : (k.completeOp s.nextId status).traps = [] := by
    rw [hdone.rest]
    exact hk.traps.trans (h.traps.trans hs.settled)
  have hn : n = { k.completeOp s.nextId status with issue := none } := State.finish_quiet hquiet
  refine ⟨?_, fun u hu => ?_, ?_, ?_⟩
  · rw [hn]
    change Tbl.find (k.completeOp s.nextId status).ops s.nextId = none
    rw [hdone.ops, Tbl.find_erase, if_pos rfl]
  · obtain ⟨⟨hpc, hstall⟩, ⟨hv, _, _, _, href⟩, hhandles, _, _⟩ := u.startOp_starts s.nextId hd (isTileOp op.instr)
    have hthread : k.thread u.ref = some (u.startOp s.nextId hd (isTileOp op.instr)).advance := by
      rw [State.thread, hk.threads]
      exact h.threads u hu
    obtain ⟨q, hended⟩ := hdone.threads (u.ref, u.batch) (List.mem_map_of_mem hu) _ hthread href hstall
    rw [hn]
    refine ⟨_, hended, hpc, hv, ?_, fun j hj => ?_⟩
    · rw [Thread.getH_finishOp, hhandles, if_pos rfl, if_pos rfl]
    · rw [Thread.getH_finishOp, hhandles, if_neg hj, if_neg (hfresh u hu j)]
  · rw [hn, ← hcore]
    change ((k.completeOp s.nextId status).core op.core).tag tag.toNat = _
    have hkcore : k.core op.core = m.core op.core := by rw [State.core, hk.cores]; rfl
    have hdonecore : (k.completeOp s.nextId status).core op.core = (k.core op.core).tagDone tag.toNat := hdone.core
    rw [hdonecore, hkcore, h.core, CoreSt.tag_tagDone_setTag]
  · rw [hn]
    change (k.completeOp s.nextId status).mem = s.mem
    rw [hdone.rest]
    exact hk.mem.trans (congrArg State.mem h.rest :)

theorem State.foldr_nearPut_sameOps (l : Tbl (Byte × List Nat)) (s : State) : s.SameOps (l.foldr (fun e s => s.nearPut e.1 [e.2.1]) s) := by
  induction l with
  | nil => exact .refl s
  | cons e l ih => exact ih.trans ⟨rfl, rfl, rfl, rfl, rfl⟩
theorem State.nearEngine_sameOps (s : State) (key : Nat) (bs : List Byte) : s.SameOps (s.nearEngine key bs) := by
  have hmarked : s.SameOps ((s.clearReserves true key bs.length).markNear key bs.length none) := ⟨rfl, rfl, rfl, rfl, rfl⟩
  exact (hmarked.trans (State.foldr_nearPut_sameOps _ _)).trans ⟨rfl, rfl, rfl, rfl, rfl⟩
theorem State.digestStore_sameOps (s : State) (g a : Nat) (bs : List Byte) (quiet : Bool) : s.SameOps (s.digestStore g a bs quiet) := by
  unfold State.digestStore
  split
  · exact .refl s
  · split
    · split
      · exact ⟨rfl, rfl, rfl, rfl, rfl⟩
      · exact .refl s
    · exact .refl s
theorem State.mvCount_sameOps (s : State) (op : Op) : s.SameOps (s.mvCount op) := by
  unfold State.mvCount
  split
  · dsimp only
    split <;> exact ⟨rfl, rfl, rfl, rfl, rfl⟩
  · exact .refl s
/-- R225: what an MV that ends without having run changes before its completion. -/
theorem State.mvEnd_eq (s : State) (id : Nat) (op : Op) (status : Byte) (htorn : op.torn = []) :
    ∃ k, s.SameOps k ∧ s.mvEnd id op status = k.completeOp id status := by
  refine ⟨(s.opNear op.wg ((op.args.getD 0 0).toNat + 28) [BitVec.ofNat 8 op.ran] op.quiet).mvCount op, ?_, ?_⟩
  · exact ((State.nearEngine_sameOps _ _ _).trans (State.digestStore_sameOps _ _ _ _ _)).trans (State.mvCount_sameOps _ _)
  · simp [State.mvEnd, State.endMx, State.tear, htorn]

/-- R216: a word whose block fails the first stage. -/
theorem exec_block_param {s : State} {ts : List Thread} {t : Thread} {w : Workgroup} {i : Instr} {key target : Nat} {x : Claims.BlockWord}
    (h : s.Elects i ts t w) (hx : Claims.blockWord i target = some x)
    (hk : s.checkNear t.ref.wg t.handler (t.getV x.va.toNat) x.size 16 = .ok (key, target)) (hp : s.nearPoisoned key x.size = false) {op : Op}
    (hop : op = { s.threadOp i t w x.sp with block := s.nearLoad key x.size, args := [BitVec.ofNat 32 key] })
    (hissued : s.Issued (s.issueFor op x.hd (ts.map (·.ref))) ts op x.hd x.tag) (hparam : x.check s op w = .param) :
    ∃ k, (s.issueFor op x.hd (ts.map (·.ref))).SameOps k ∧ exec i s = .next (k.completeOp s.nextId stParam).finish := by
  subst hop
  unfold Claims.blockWord at hx
  split at hx <;> cases hx <;> dsimp only at hk hp hparam hissued ⊢
  · next hd tag sp va slot =>
    refine ⟨_, .refl _, ?_⟩
    change execOld hd tag sp va slot s = _
    unfold execOld
    rw [issueMx_param h hk hp hparam]
    rfl
  · next hd tag sp va ov =>
    refine ⟨_, .refl _, ?_⟩
    change execMma hd tag sp va ov s = _
    unfold execMma issueMatrix
    rw [issueMx_param h hk hp hparam]
    rfl
  · next hd tag sp va ov n =>
    refine ⟨_, .refl _, ?_⟩
    change execMmas hd tag sp va ov n s = _
    unfold execMmas issueMatrix
    rw [issueMx_param h hk hp hparam]
    rfl
  · next hd tag sp va tile mode =>
    obtain ⟨seqs, hop⟩ := hissued.record
    obtain ⟨o, hfind, htorn⟩ : ∃ o, Tbl.find (State.ops _) s.nextId = some o ∧ o.torn = [] := ⟨_, hop, rfl⟩
    obtain ⟨k, hsame, hend⟩ := State.mvEnd_eq _ s.nextId o stParam htorn
    refine ⟨k, hsame, ?_⟩
    change execMv hd tag sp va tile mode s = _
    unfold execMv
    rw [issueGroup_elects h, State.withBlock_ok hk hp]
    simp only [hparam]
    rw [hfind]
    exact congrArg (fun m : State => Host.Outcome.next m.finish) hend
  · next hd tag sp va =>
    refine ⟨_, .refl _, ?_⟩
    change execAccld hd tag sp va s = _
    unfold execAccld issueMatrix
    rw [issueMx_param h hk hp hparam]
    rfl
  · next hd tag sp va =>
    refine ⟨_, .refl _, ?_⟩
    change execAccst hd tag sp va s = _
    unfold execAccst issueMatrix
    rw [issueMx_param h hk hp hparam]
    rfl
  · next hd tag sp va =>
    refine ⟨_, .refl _, ?_⟩
    change execAcz hd tag sp va s = _
    unfold execAcz issueMatrix
    rw [issueMx_param h hk hp hparam]
    rfl
  · next hd tag va code =>
    refine ⟨_, .refl _, ?_⟩
    change execScacc hd tag va code s = _
    unfold execScacc issueMatrix
    rw [issueMx_param h hk hp hparam]
    rfl
  · next hd tag va n =>
    refine ⟨_, .refl _, ?_⟩
    change execNprune hd tag va n s = _
    unfold execNprune issueMatrix
    rw [issueMx_param h hk hp hparam]
    rfl

/-- R196, R213, R215, R216: the words that read a block. -/
theorem matrixIssue : Claims.MatrixIssue := by
  intro s ts t w i key target x h hx hk hp op
  refine ⟨fun op' hgo => ?_, fun hparam hfresh => ?_⟩
  · obtain ⟨hstarted, hslot⟩ := blockStarts h hx hgo
    exact ⟨_, exec_block_go h hx hk hp hgo, hstarted, hslot⟩
  · have hissued : s.Issued (s.issueFor op x.hd (ts.map (·.ref))) ts op x.hd x.tag :=
      State.issueFor_issued x.hd rfl (blockWord_tag hx) h.issues.resident h.issues.distinct
    obtain ⟨k, hsame, hexec⟩ := exec_block_param h hx hk hp rfl hissued hparam
    exact ⟨_, hexec, issuedEnds h.issues hissued rfl hsame hfresh⟩

/-- Settles O29, from what the issue of an operation and its completion do. -/
theorem operationsIssue : Obligations.OperationsIssue := ⟨copiesIssue, matrixIssue⟩

end Sys2Proof.Machine
end

section
/-! SUPPORT. Cancellation of an operation that is in flight; with the refutation of the obligation on tag and slot words. -/
namespace Sys2Proof.Machine
open Sys2Proof.Tests

/-- R212: a request for cancellation of an operation that is in flight draws a free value (log entry 1). -/
theorem State.cancelOp_free {s : State} {id : Nat} {op : Op} (h : Tbl.find s.ops id = some op) : (s.cancelOp id).free = s.free + 1 := by
  unfold State.cancelOp
  rw [h]
  dsimp only [State.freshWord]
  repeat' split
  all_goals rfl
theorem State.cancelOp_traps (s : State) (id : Nat) : (s.cancelOp id).traps = s.traps := by
  unfold State.cancelOp
  split
  · rfl
  · dsimp only [State.freshWord]
    repeat' split
    all_goals rfl
theorem State.free_onThread_over (s : State) (r : ThreadRef) (f : Thread → Thread) : (s.onThread r f).over.free = s.free := rfl
/-- R212: HCAN of a pending handle asks for the cancellation of its operation. -/
theorem exec_hcan_pending {s : State} {t : Thread} {w : Workgroup} {h : HReg} {id : Nat} (hs : s.Issues [t]) (run : s.Runs (.hcan h) t w)
    (hpending : t.getH h = .pending id) : exec (.hcan h) s = .next ((s.onThread t.ref Thread.advance).cancelOp id).finish := by
  refine (issueLanes_one hs run).trans ?_
  rw [hpending]

/-- The demo state with an operation in flight: h1 of the thread, which executes a word, holds operation 1. -/
def cancelState : State := { setT heldT demo with ops := [(1, copyOp .gn 0x10 0x40)], nextId := 2 }
theorem cancelState_issues : cancelState.Issues [heldT] := issues (by decide +kernel)
theorem cancelState_runs : cancelState.Runs (.hcan 1) heldT demoW := runs (by decide +kernel)
theorem cancelState_pending : heldT.getH 1 = .pending 1 := by decide +kernel
theorem cancelState_other : heldT.getH 1 ≠ .pending 2 := by
  rw [cancelState_pending]
  simp
theorem cancelState_free : ∃ n, exec (.hcan 1) cancelState = .next n ∧ n.free = cancelState.free + 1 := by
  refine ⟨_, exec_hcan_pending cancelState_issues cancelState_runs cancelState_pending, ?_⟩
  rw [State.finish_quiet ((State.cancelOp_traps (cancelState.onThread heldT.ref Thread.advance) 1).trans cancelState_issues.settled)]
  exact State.cancelOp_free (s := cancelState.onThread heldT.ref Thread.advance) (id := 1) (op := copyOp .gn 0x10 0x40) rfl

/-- Refutes O31: the last clause of TagWords claims that HCAN only lets the thread go on, for every operation o that h is not the pending
handle of. Where h holds a pending operation, here 1, another number, here 2, meets that premise, yet HCAN asks for the cancellation of
operation 1, whose outcome draws a free value. -/
theorem not_tagAndSlotWords : ¬ Obligations.TagAndSlotWords := by
  intro h
  obtain ⟨htags, _, _⟩ := h
  obtain ⟨_, _, _, _, _, hcancels⟩ := htags cancelState heldT demoW 0 cancelState_issues
  obtain ⟨n, hexec, _, _, _, _, _, _, hquiet⟩ := hcancels 1 cancelState_runs
  obtain ⟨m, hexec', hfree⟩ := cancelState_free
  have hnm : n = m := Host.Outcome.next.inj (hexec.symm.trans hexec')
  have hn : n = (cancelState.onThread heldT.ref Thread.advance).over := hquiet 2 cancelState_other
  have hsame : n.free = cancelState.free := (congrArg State.free hn).trans (State.free_onThread_over _ _ _)
  rw [hnm, hfree] at hsame
  exact absurd hsame (Nat.succ_ne_self _)

end Sys2Proof.Machine
end

section
/-! SUPPORT. What the reads and writes of engines leave unchanged, and what placing a workgroup does; with the obligation on the visits of
the dispatcher and on restores. -/
namespace Sys2Proof.Machine

/-! Reads of the dispatcher -/

/-- Only the L2, DRAM rows, walkers' pointers, free values and messages have changed. -/
def State.EngineReads (s n : State) : Prop := n = { s with l2 := n.l2, l2cp := n.l2cp, acts := n.acts, ptrs := n.ptrs, free := n.free, sent := n.sent }
theorem State.EngineReads.refl (s : State) : s.EngineReads s := rfl
theorem State.EngineReads.trans {a b c : State} (h : a.EngineReads b) (k : b.EngineReads c) : a.EngineReads c := by
  unfold State.EngineReads at *
  rw [k, h]
theorem State.EngineReads.foldl {α : Type} {f : State → α → State} (hf : ∀ (s : State) (a : α), s.EngineReads (f s a)) (l : List α) (s : State) :
    s.EngineReads (l.foldl f s) := by
  induction l generalizing s with
  | nil => exact .refl s
  | cons a l ih => exact (hf s a).trans (ih _)
theorem State.L2Only.engineReads {s n : State} (h : s.L2Only n) : s.EngineReads n := by
  unfold State.EngineReads
  rw [h]
theorem State.l2Touch_engineReads (s : State) (line : Nat) (dirty : Bool) : s.EngineReads (s.l2Touch line dirty) :=
  (State.l2Touch_l2Only s line dirty).engineReads
theorem State.l2Read_engineReads (s : State) (pa n : Nat) : s.EngineReads (s.l2Read pa n) :=
  State.EngineReads.foldl (fun s l => State.l2Touch_engineReads s l false) _ s
theorem State.putPtr_engineReads (s : State) (qd : Nat) (e : PtrEntry) : s.EngineReads (s.putPtr qd e) := by
  unfold State.putPtr
  dsimp only
  split
  · exact .refl s
  · rw [State.holdEntry_free]
    rfl
/-- R309, R323: what a walk leaves behind. -/
theorem State.walkTrace_engineReads (s : State) (qd p va table level : Nat) : s.EngineReads (s.walkTrace qd p va table level) := by
  induction level generalizing s table with
  | zero =>
    unfold State.walkTrace
    dsimp only
    split <;> exact State.l2Touch_engineReads ..
  | succ level ih =>
    unfold State.walkTrace
    dsimp only
    split
    · exact State.l2Touch_engineReads ..
    · exact ((State.l2Touch_engineReads ..).trans (State.putPtr_engineReads ..)).trans (ih ..)
theorem State.walked_engineReads (s : State) (qd p va : Nat) : s.EngineReads (s.walked qd p va) := by
  unfold State.walked
  split
  · exact .refl s
  · exact State.walkTrace_engineReads ..
theorem State.translatedAll_engineReads (s : State) (p : Nat) (va : DWord) (n : Nat) : s.EngineReads (s.translatedAll p none va n) := by
  refine State.EngineReads.foldl (fun s e => ?_) _ s
  dsimp only
  split
  · exact (State.walked_engineReads s 0 p e.1).trans rfl
  · exact State.walked_engineReads s 0 p e.1
theorem State.asFunction_engineReads (s : State) (p pa n : Nat) (write : Bool) : s.EngineReads (s.asFunction p pa n write) := by
  unfold State.asFunction
  split
  · exact rfl
  · exact .refl s
theorem State.readTrace_engineReads (s : State) (p : Nat) (va : DWord) (n : Nat) : s.EngineReads (s.readTrace p none va n) := by
  refine (State.translatedAll_engineReads s p va n).trans (State.EngineReads.foldl (fun t e => ?_) _ _)
  split
  · exact State.l2Read_engineReads ..
  · exact State.l2Read_engineReads ..
  · exact .refl _
theorem State.readVa_engineReads {s m : State} {p n : Nat} {va : DWord} {b : List Byte} (h : s.readVa p none va n = .ok (b, m)) :
    s.EngineReads m := by
  unfold State.readVa at h
  split at h
  · cases h
  · have hm : _ = m := congrArg Prod.snd (Except.ok.inj h)
    rw [← hm]
    refine (State.translatedAll_engineReads s p va n).trans ?_
    generalize s.translatedAll p none va n = r
    generalize ([] : List Byte) = bs
    induction s.vaPieces p none va n false generalizing bs r with
    | nil => exact .refl r
    | cons e l ih =>
      exact ((State.asFunction_engineReads r p e.1 e.2 false).trans (State.l2Read_engineReads _ e.1 e.2)).trans (ih _ _)
theorem State.tryRead_engineReads (s : State) (p : Nat) (va : DWord) (n : Nat) : s.EngineReads (s.tryRead p none va n).2 := by
  unfold State.tryRead
  split
  · next h => exact State.readVa_engineReads h
  · exact State.readTrace_engineReads ..
/-- R390: reading a save header. -/
theorem State.headerAt_engineReads (s : State) (l : Launch) (x : SavedWg) : s.EngineReads (s.headerAt l x).2 := State.tryRead_engineReads ..

/-! Writes of the dispatcher -/

/-- Only caches, reservations, memory, free values and messages have changed. -/
def State.EngineWrites (s n : State) : Prop := n = { s with
  cores := n.cores, owners := n.owners, marks := n.marks, reserves := n.reserves, l2 := n.l2, l2cp := n.l2cp, acts := n.acts, ptrs := n.ptrs,
  free := n.free, sent := n.sent, mem := n.mem, frameWrote := n.frameWrote }
theorem State.EngineWrites.refl (s : State) : s.EngineWrites s := rfl
theorem State.EngineWrites.trans {a b c : State} (h : a.EngineWrites b) (k : b.EngineWrites c) : a.EngineWrites c := by
  unfold State.EngineWrites at *
  rw [k, h]
theorem State.EngineWrites.foldl {α : Type} {f : State → α → State} (hf : ∀ (s : State) (a : α), s.EngineWrites (f s a)) (l : List α) (s : State) :
    s.EngineWrites (l.foldl f s) := by
  induction l generalizing s with
  | nil => exact .refl s
  | cons a l ih => exact (hf s a).trans (ih _)
theorem State.EngineReads.engineWrites {s n : State} (h : s.EngineReads n) : s.EngineWrites n := by
  unfold State.EngineWrites
  rw [h]
theorem State.CachesOnly.engineWrites {s n : State} (h : s.CachesOnly n) : s.EngineWrites n := by
  unfold State.EngineWrites
  rw [h.rest]
theorem State.lineWritten_engineWrites (s : State) (line : Nat) : s.EngineWrites (s.lineWritten line none) :=
  ((State.recall_cachesOnly s line).engineWrites.trans (State.l2Touch_engineReads _ line true).engineWrites).trans rfl
theorem State.memEngine_engineWrites (s : State) (pa : Nat) (bs : List Byte) : s.EngineWrites (s.memEngine pa bs none) := by
  have hcleared : s.EngineWrites (s.clearReserves false pa bs.length) := rfl
  exact (hcleared.trans (State.EngineWrites.foldl (fun s l => State.lineWritten_engineWrites s l) _ _)).trans rfl
theorem State.writeVa_engineWrites {s m : State} {p : Nat} {va : DWord} {bs : List Byte} (h : s.writeVa p none va bs none = .ok m) :
    s.EngineWrites m := by
  unfold State.writeVa at h
  split at h
  · cases h
  · next pieces hpieces =>
    cases h
    clear hpieces
    refine (State.translatedAll_engineReads s p va bs.length).engineWrites.trans ?_
    generalize s.translatedAll p none va bs.length = r
    induction pieces generalizing bs r with
    | nil => exact .refl r
    | cons e l ih =>
      exact ((State.asFunction_engineReads r p e.1 e.2 true).engineWrites.trans (State.memEngine_engineWrites _ e.1 (bs.take e.2))).trans (ih _)
theorem State.tryWrite_engineWrites (s : State) (p : Nat) (va : DWord) (bs : List Byte) : s.EngineWrites (s.tryWrite p none va bs none).2 := by
  unfold State.tryWrite
  split
  · next h => exact State.writeVa_engineWrites h
  · exact (State.translatedAll_engineReads ..).engineWrites
theorem State.releaseCore_engineWrites (s : State) (core : Nat) : s.EngineWrites (s.releaseCore core) := by
  obtain ⟨m, hm, heq⟩ := State.releaseCore_eq s core
  rw [heq]
  exact hm.engineReads.engineWrites.trans rfl
/-- R293: a core acquires at device scope. -/
theorem State.acquireWide_engineWrites (s : State) (core : Nat) : s.EngineWrites (s.acquireWide core) :=
  (State.EngineWrites.foldl (fun s c => State.releaseCore_engineWrites s c) _ s).trans rfl

/-! Placing a workgroup (R302-R306, R363) -/

/-- What placing a workgroup leaves: it is there, and its near room and its record word are new. -/
structure State.Placed (s n : State) (g : Nat) (w : Workgroup) : Prop where
  wgs  : n.wgs = Tbl.insert s.wgs g w
  rest : n = { s with
    wgs := n.wgs, cores := n.cores, owners := n.owners, marks := n.marks, reserves := n.reserves, l2 := n.l2, l2cp := n.l2cp, acts := n.acts,
    ptrs := n.ptrs, free := n.free, sent := n.sent, mem := n.mem, frameWrote := n.frameWrote, near := n.near, nearWrote := n.nearWrote,
    merge := n.merge, empties := n.empties, nearPoison := n.nearPoison }
/-- The core's part of a placement: its generation grows with the room, and its FFU lines go (R302, R310). -/
def State.coreTaken (s : State) (k : Shape) (pl : Placement) : State :=
  ({ s with free := s.free + 1 + k.tiles } : State).onCore pl.core (fun c =>
    { c with gen := (s.core pl.core).gen + (if k.room = 0 then 0 else 1), ffu := [] })
/-- The workgroup at its place. -/
def State.placedWg (s : State) (lid : Nat) (l : Launch) (idx : Nat) (k : Shape) (pl : Placement) (old : Option Workgroup) : Workgroup :=
  (l.newWg lid idx s.mgmt.orbitDev.toNat k pl ((s.coreTaken k pl).freeSlot pl.core pl.quarter)
    ((s.core pl.core).gen + (if k.room = 0 then 0 else 1)) s.free ((s.coreTaken k pl).core pl.core).cyc.toNat old).ownTiles s.free
/-- The state with the workgroup at its place, before its record word is written. -/
def State.allotted (s : State) (g lid : Nat) (l : Launch) (idx : Nat) (k : Shape) (pl : Placement) (old : Option Workgroup) : State :=
  { (s.coreTaken k pl).freshNear pl.core pl.near k.room with wgs := Tbl.insert s.wgs g (s.placedWg lid l idx k pl old) }
theorem State.placeWg_eq (s : State) (g lid : Nat) (l : Launch) (idx : Nat) (k : Shape) (pl : Placement) (old : Option Workgroup) :
    ∃ bs, s.placeWg g lid l idx k pl old = ((s.allotted g lid l idx k pl old).tryWrite l.part none
      (l.record + 0x100 + BitVec.ofNat 64 (4 * idx)) bs none).2.acquireWide pl.core := ⟨_, rfl⟩
theorem State.placeWg_placed (s : State) (g lid : Nat) (l : Launch) (idx : Nat) (k : Shape) (pl : Placement) (old : Option Workgroup) :
    s.Placed (s.placeWg g lid l idx k pl old) g (s.placedWg lid l idx k pl old) := by
  obtain ⟨bs, heq⟩ := s.placeWg_eq g lid l idx k pl old
  have hwrites : (s.allotted g lid l idx k pl old).EngineWrites (s.placeWg g lid l idx k pl old) := by
    rw [heq]
    exact (State.tryWrite_engineWrites ..).trans (State.acquireWide_engineWrites ..)
  refine ⟨(congrArg State.wgs hwrites :), ?_⟩
  unfold State.EngineWrites at hwrites
  rw [hwrites]
  rfl

/-! Threads of a workgroup -/

theorem State.addThreads_eq (s : State) (g : Nat) (tids : List Nat) (f : ThreadRef → Thread) :
    s.addThreads g tids f = { s with threads := (s.addThreads g tids f).threads } := by
  induction tids generalizing s with
  | nil => rfl
  | cons i tids ih => exact (ih (s.putThread (f { wg := g, tid := i }))).trans rfl
theorem State.thread_putThread (s : State) (t : Thread) (r : ThreadRef) (h : refKey t.ref = refKey r) : (s.putThread t).thread r = some t := by
  rw [State.putThread, State.thread, h]
  exact Tbl.find_insert_self ..
theorem State.thread_putThread_ne (s : State) (t : Thread) (r : ThreadRef) (h : refKey r ≠ refKey t.ref) : (s.putThread t).thread r = s.thread r :=
  Tbl.find_insert_ne _ _ h
theorem State.thread_addThreads_ne (s : State) (g : Nat) {tids : List Nat} {f : ThreadRef → Thread} (hf : ∀ r, (f r).ref = r) {r : ThreadRef}
    (h : ∀ i ∈ tids, refKey r ≠ refKey { wg := g, tid := i }) : (s.addThreads g tids f).thread r = s.thread r := by
  induction tids generalizing s with
  | nil => rfl
  | cons i tids ih =>
    refine (ih (s.putThread (f { wg := g, tid := i })) fun j hj => h j (by simp [hj])).trans (State.thread_putThread_ne s _ r ?_)
    rw [hf]
    exact h i (by simp)
/-- The threads of a workgroup as they have been added. -/
theorem State.thread_addThreads (s : State) (g : Nat) {tids : List Nat} {f : ThreadRef → Thread} (hf : ∀ r, (f r).ref = r)
    {i : Nat} (h : i ∈ tids) : (s.addThreads g tids f).thread { wg := g, tid := i } = some (f { wg := g, tid := i }) := by
  induction tids generalizing s with
  | nil => cases h
  | cons j tids ih =>
    by_cases hi : i ∈ tids
    · exact ih _ hi
    · obtain rfl : i = j := by simpa [hi] using h
      refine (State.thread_addThreads_ne (s.putThread (f { wg := g, tid := i })) g hf fun k hk => ?_).trans
        (State.thread_putThread s _ _ (by rw [hf]))
      intro hkey
      have hik : i = k := Nat.add_left_cancel hkey
      exact hi (hik ▸ hk)

/-! The start of a workgroup (R39, R363) -/

theorem State.launches_onLaunch (s : State) (lid : Nat) (f : Launch → Launch) : (s.onLaunch lid f).launches = Tbl.modify s.launches lid f := rfl
/-- The launch once the workgroup of an index has started. -/
def Launch.nextFrom (idx : Nat) (l : Launch) : Launch := { l with next := max l.next (idx + 1) }
/-- The state in which the workgroup of a pending index has started. -/
structure State.Started (s n : State) (lid : Nat) (l : Launch) (idx : Nat) (w : Workgroup) : Prop where
  wgs      : n.wgs = Tbl.insert s.wgs s.nextId w
  launches : n.launches = Tbl.modify s.launches lid (Launch.nextFrom idx)
  threads  : ∀ tid, tid < l.width * l.depth → ∃ now, n.thread { wg := s.nextId, tid := tid } = some (Thread.start { wg := s.nextId, tid := tid } l.entry now)
  queues   : n.queues = s.queues
  traps    : n.traps = s.traps
theorem State.startWg_started (s : State) (lid : Nat) (l : Launch) (idx : Nat) (pl : Placement) :
    s.Started (s.startWg lid l idx pl) lid l idx (State.placedWg { s with nextId := s.nextId + 1 } lid l idx l.shape pl none) := by
  obtain ⟨hwgs, hrest⟩ := State.placeWg_placed { s with nextId := s.nextId + 1 } s.nextId lid l idx l.shape pl none
  let m := State.placeWg { s with nextId := s.nextId + 1 } s.nextId lid l idx l.shape pl none
  have hadded := State.addThreads_eq (m.onLaunch lid (Launch.nextFrom idx)) s.nextId (List.range (l.width * l.depth))
    (fun r => Thread.start r l.entry (m.core pl.core).cyc.toNat)
  have hstart : s.startWg lid l idx pl = (m.onLaunch lid (Launch.nextFrom idx)).addThreads s.nextId
    (List.range (l.width * l.depth)) (fun r => Thread.start r l.entry (m.core pl.core).cyc.toNat) := rfl
  refine ⟨?_, ?_, fun tid htid => ⟨(m.core pl.core).cyc.toNat, ?_⟩, ?_, ?_⟩
  · rw [hstart, hadded]
    exact hwgs
  · rw [hstart, hadded]
    have hlaunches : m.launches = s.launches := (congrArg State.launches hrest :)
    exact (m.launches_onLaunch lid _).trans (by rw [hlaunches])
  · rw [hstart]
    exact State.thread_addThreads _ _ (fun _ => by rfl) (List.mem_range.2 htid)
  · rw [hstart, hadded]
    exact (congrArg State.queues hrest :)
  · rw [hstart, hadded]
    exact (congrArg State.traps hrest :)

/-! Visits (R361) -/

theorem exec_queueVisit {s n : State} {k p : Nat} {pl : Placement} (howner : (s.queue k).owner = some p) (hnext : s.nextVisit p = some k)
    (hvisit : s.visitQueue p k pl = some n) (htraps : n.traps = []) : exec (.queueVisit k pl) s = .next n := by
  change execQueueVisit k pl s = _
  unfold execQueueVisit
  rw [howner]
  simp only [hnext, if_true, hvisit, Option.getD_some]
  rw [State.settleTraps_quiet htraps]
theorem State.visit_visited (s : State) (p k : Nat) : ((s.visited p k).part p).visit = k + 1 := by
  rw [State.visited, State.part_onPart_self]
theorem State.queueStart_some {s : State} {k lid : Nat} {l : Launch} {x : Start} (h : s.queueStart k = some (lid, l, x)) :
    s.queueHead k = some (lid, l) ∧ s.startable lid l = some x := by
  unfold State.queueStart at h
  obtain ⟨⟨a, b⟩, hhead, hstart⟩ := Option.bind_eq_some_iff.1 h
  obtain ⟨y, hy, heq⟩ := Option.map_eq_some_iff.1 hstart
  cases heq
  exact ⟨hhead, hy⟩
/-- A visit of a queue whose launch has a workgroup to start. -/
theorem State.visitQueue_start {s : State} {p k lid : Nat} {l : Launch} {x : Start} {pl : Placement} (hreserve : (s.part p).reserve = none)
    (herr : (s.queue k).err = false) (h : s.queueStart k = some (lid, l, x)) :
    s.visitQueue p k pl = (s.startHead k lid l x pl).map (fun s => s.visited p k) := by
  obtain ⟨hhead, hstart⟩ := State.queueStart_some h
  simp [State.visitQueue, hreserve, hhead, herr, hstart]
theorem State.deficit_setDeficit (s : State) (k : Nat) (d : Int) : (s.setDeficit k d).queue k = { s.queue k with deficit := BitVec.ofInt 64 d } :=
  State.queue_onQueue_self ..
theorem min_zero_toInt (d : DWord) : (BitVec.ofInt 64 (min d.toInt 0)).toInt = min d.toInt 0 := by
  rw [BitVec.toInt_ofInt_eq_self (by decide)]
  · have := BitVec.le_toInt d
    omega
  · omega

theorem visitIdle {s : State} {k p : Nat} {pl : Placement} (howner : (s.queue k).owner = some p) (hnext : s.nextVisit p = some k)
    (htraps : s.traps = []) (hreserve : (s.part p).reserve = none) (hhead : s.queueHead k = none) (hpacket : (s.queue k).packet = none) :
    ∃ n, exec (.queueVisit k pl) s = .next n ∧ (n.queue k).deficit.toInt = min (s.queue k).deficit.toInt 0
      ∧ (n.part p).visit = k + 1 ∧ n.wgs = s.wgs ∧ n.launches = s.launches ∧ n.threads = s.threads ∧ n.mem = s.mem := by
  have hvisit : s.visitQueue p k pl = some ((s.setDeficit k (min (s.queue k).deficit.toInt 0)).visited p k) := by
    simp [State.visitQueue, hreserve, hhead, State.idleQueue, hpacket]
  refine ⟨_, exec_queueVisit howner hnext hvisit htraps, ?_, State.visit_visited .., rfl, rfl, rfl, rfl⟩
  change ((s.setDeficit k _).queue k).deficit.toInt = _
  rw [State.deficit_setDeficit]
  exact min_zero_toInt _
theorem visitBlocked {s : State} {k p : Nat} {pl : Placement} (howner : (s.queue k).owner = some p) (hnext : s.nextVisit p = some k)
    (htraps : s.traps = []) (hreserve : (s.part p).reserve = none)
    (h : s.queueHead k = none ∧ (s.queue k).packet ≠ none ∨ (s.queueHead k).isSome = true ∧ s.queueStart k = none) :
    ∃ n, exec (.queueVisit k pl) s = .next n ∧ n.queue k = s.queue k ∧ (n.part p).visit = k + 1 ∧ n.wgs = s.wgs
      ∧ n.launches = s.launches ∧ n.threads = s.threads ∧ n.mem = s.mem := by
  have hvisit : s.visitQueue p k pl = some (s.visited p k) := by
    rcases h with ⟨hhead, hpacket⟩ | ⟨hhead, hstart⟩
    · have hsome := Option.isSome_iff_ne_none.2 hpacket
      simp [State.visitQueue, hreserve, hhead, State.idleQueue, hsome]
    · obtain ⟨⟨lid, l⟩, hhead⟩ := Option.isSome_iff_exists.1 hhead
      have hnone : s.startable lid l = none := by simpa [State.queueStart, hhead] using hstart
      simp [State.visitQueue, hreserve, hhead, hnone]
  exact ⟨_, exec_queueVisit howner hnext hvisit htraps, rfl, State.visit_visited .., rfl, rfl, rfl, rfl⟩

theorem State.fitsAt_setDeficit (s : State) (k : Nat) (d : Int) (lid : Nat) (l : Launch) (idx : Nat) (restore : Bool) (sh : Shape) (slots : BitVec 8)
    (books : BitVec 4) (pl : Placement) :
    (s.setDeficit k d).fitsAt lid l idx restore sh slots books pl = s.fitsAt lid l idx restore sh slots books pl := rfl
/-- A visit whose task has room: the queue has its credit, and the task is placed if that is positive (R361). -/
theorem State.startOne_room {s : State} {k lid : Nat} {l : Launch} {t : Task} {pl : Placement} (h : (s.taskPlace lid l t).isSome = true) :
    ((s.queue k).credit ≤ 0 → s.startOne k lid l t pl = some (s.setDeficit k (s.queue k).credit))
      ∧ (0 < (s.queue k).credit → (s.setDeficit k (s.queue k).credit).taskFits lid l t pl = true →
        s.startOne k lid l t pl = some ((s.setDeficit k (s.queue k).credit).putTask lid l t pl)) := by
  have hnone : (s.taskPlace lid l t).isNone = false := by simpa using h
  refine ⟨fun hc => ?_, fun hc hfits => ?_⟩
  · simp only [State.startOne, hnone, hc]
    rfl
  · simp only [State.startOne, hnone, Int.not_le.2 hc, hfits]
    rfl
theorem State.startHead_fresh (s : State) (k lid : Nat) (l : Launch) (pl : Placement) :
    s.startHead k lid l .fresh pl = s.startOne k lid l (.fresh l.next) pl := rfl

/-- What the workgroup of a pending index has at its start (R19, R124). -/
theorem State.placedWg_fresh (s : State) (lid : Nat) (l : Launch) (idx : Nat) (pl : Placement) :
    let w := s.placedWg lid l idx l.shape pl none
    (w.launch = lid ∧ w.log = idx ∧ w.core = pl.core ∧ w.quarter = pl.quarter ∧ w.lane = pl.lane)
      ∧ (w.width = l.width ∧ w.depth = l.depth ∧ w.nregs = l.nregs ∧ w.near = l.near ∧ w.preempt = none)
      ∧ w.getS 0 = fieldOf l.args 31 0 ∧ w.getS 1 = fieldOf l.args 63 32 ∧ w.getS 2 = fieldOf l.record 31 0 ∧ w.getS 3 = fieldOf l.record 63 32 := by
  refine ⟨⟨rfl, rfl, rfl, rfl, rfl⟩, ⟨rfl, rfl, rfl, rfl, rfl⟩, ?_⟩
  change Tbl.get 0 l.uniforms 0 = _ ∧ Tbl.get 0 l.uniforms 1 = _ ∧ Tbl.get 0 l.uniforms 2 = _ ∧ Tbl.get 0 l.uniforms 3 = _
  simp [Launch.uniforms, Tbl.get_put]
/-- R39: a thread at its start has every register zero and nothing outstanding. -/
theorem Thread.start_zero (r : ThreadRef) (pc : Pc) (now : Nat) :
    let t := Thread.start r pc now
    t.pc = pc ∧ (∀ k, t.getV k = 0) ∧ (∀ k, t.getP k = decide (k = 0)) ∧ (∀ k, t.getH k = .empty) ∧ t.depth = 0 ∧ t.ret = [] ∧ t.fpflags = 0
      ∧ t.outLd = [] ∧ t.outSt = [] ∧ t.outTl = [] ∧ t.ops = [] ∧ t.batch = 0 ∧ t.batches = [] ∧ t.draw = 0
      ∧ t.handler = false ∧ t.exited = false ∧ t.stall = .none := by
  refine ⟨rfl, fun _ => rfl, fun k => ?_, fun _ => rfl, rfl, rfl, rfl, rfl, rfl, rfl, rfl, rfl, rfl, rfl, rfl, rfl, rfl⟩
  simp [Thread.getP, Thread.start, beq_eq_decide]
/-- R39, R361, R363, R364: the visits of the dispatcher. -/
theorem queueVisits : Claims.QueueVisits := by
  intro s k p pl howner hnext htraps hreserve herr
  refine ⟨visitIdle howner hnext htraps hreserve, visitBlocked howner hnext htraps hreserve, fun lid l hstart hroom => ?_⟩
  intro c
  have hvisit := State.visitQueue_start (pl := pl) hreserve herr hstart
  rw [State.startHead_fresh] at hvisit
  obtain ⟨hdebt, hcredit⟩ := State.startOne_room (k := k) (pl := pl) hroom
  refine ⟨fun hc => ?_, fun hc hfits hlaunch _ => ?_⟩
  · rw [hdebt hc] at hvisit
    refine ⟨_, exec_queueVisit howner hnext hvisit htraps, ?_, State.visit_visited .., rfl, rfl, rfl, rfl⟩
    exact congrArg Queue.deficit (State.deficit_setDeficit s k c)
  · rw [hcredit hc hfits] at hvisit
    obtain ⟨hwgs, hlaunches, hthreads, hqueues, hquiet⟩ := State.startWg_started (s.setDeficit k c) lid l l.next pl
    obtain ⟨⟨hlid, hlog, hcore, hquarter, hlane⟩, ⟨hwidth, hdepth, hnregs, hnear, hpreempt⟩, hargs, hargs', hrecord, hrecord'⟩ :=
      State.placedWg_fresh { s.setDeficit k c with nextId := s.nextId + 1 } lid l l.next pl
    refine ⟨_, _, exec_queueVisit howner hnext hvisit (hquiet.trans htraps), ?_, State.visit_visited .., ?_, hlid, hlog, hcore, hquarter, hlane,
      hwidth, hdepth, hnregs, hnear, hpreempt, hargs, hargs', hrecord, hrecord', ?_, fun tid htid => ?_⟩
    · have hqueue : (State.startWg (s.setDeficit k c) lid l l.next pl).queue k = (s.setDeficit k c).queue k := by
        rw [State.queue, hqueues]
        rfl
      exact congrArg Queue.deficit (hqueue.trans (State.deficit_setDeficit s k c))
    · refine (congrArg (fun m => Tbl.find m s.nextId) hwgs).trans (Tbl.find_insert_self ..)
    · refine (congrArg (fun m => Tbl.find m lid) hlaunches).trans ((Tbl.find_modify_self ..).trans ?_)
      have hfind : Tbl.find (s.setDeficit k c).launches lid = some l := hlaunch
      rw [hfind, Option.map_some, Launch.nextFrom, Nat.max_eq_right (Nat.le_succ l.next)]
    · obtain ⟨now, hthread⟩ := hthreads tid htid
      exact ⟨_, hthread, Thread.start_zero ..⟩

/-! Restores (R370, R390) -/

theorem State.startHead_restore {s : State} {k lid : Nat} {l : Launch} {x : SavedWg} {pl : Placement} {h : Header} {m : State}
    (hheader : s.headerAt l x = (h, m)) (hok : m.restoreReasons l x.wg.log h = 0) :
    s.startHead k lid l (.restore x) pl = m.startOne k lid l (.restore x h) pl := by
  simp [State.startHead, State.tasksOf, hheader, State.refusal, hok]
theorem State.startHead_refused {s : State} {k lid : Nat} {l : Launch} {x : SavedWg} {pl : Placement} {h : Header} {m : State}
    (hheader : s.headerAt l x = (h, m)) (hbad : m.restoreReasons l x.wg.log h ≠ 0) :
    s.startHead k lid l (.restore x) pl = some (m.refuseRestore lid l x.wg.log (m.restoreReasons l x.wg.log h)) := by
  simp only [State.startHead, State.tasksOf, hheader, State.refusal, List.foldl_cons, List.foldl_nil, List.nil_append, List.findSome?_cons, if_neg hbad]
theorem exec_workgroupRestore {s : State} {g lid : Nat} {l : Launch} {x : SavedWg} {pl : Placement}
    (hfind : s.launches.find? (fun e => e.2.saved.any (fun y => y.id == g)) = some (lid, l)) (hid : x.id = g)
    (hstart : s.queueStart l.queue = some (lid, l, .restore x)) : exec (.workgroupRestore g pl) s = execQueueVisit l.queue pl s := by
  change execWorkgroupRestore g pl s = _
  unfold execWorkgroupRestore
  simp [hfind, hstart, hid]
/-- The checks of a place do not depend on what the dispatcher's reads change. -/
theorem State.EngineReads.restoreReasons {s m : State} (h : s.EngineReads m) (l : Launch) (idx : Nat) (x : Header) :
    m.restoreReasons l idx x = s.restoreReasons l idx x := by
  rw [h]
  rfl
theorem State.EngineReads.taskPlace {s m : State} (h : s.EngineReads m) (lid : Nat) (l : Launch) (t : Task) :
    m.taskPlace lid l t = s.taskPlace lid l t := by
  rw [h]
  rfl
theorem State.EngineReads.taskFits {s m : State} (h : s.EngineReads m) (lid : Nat) (l : Launch) (t : Task) (pl : Placement) :
    m.taskFits lid l t pl = s.taskFits lid l t pl := by
  rw [h]
  rfl

/-- A launch that starts no more workgroups (R391). -/
def Launch.held (l : Launch) : Launch := { l with hold := true }
/-- The interrupt bit of a partition set (R403). -/
def Partition.interrupted (bit : Nat) (x : Partition) : Partition := { x with irqStatus := x.irqStatus ||| (1#6 <<< bit) }
/-- The counts and the record of a refused restore (R391). -/
def Partition.restoreCounted (lid log : Nat) (why : BitVec 7) (x : Partition) : Partition :=
  let y := { x with rstCnt := x.rstCnt + 1 }
  if y.rstValid then y else { y with rstValid := true, rstLaunch := BitVec.ofNat 32 lid, rstReason := why, rstWg := BitVec.ofNat 32 log }
/-- What a refused restore does to its partition (R391, R403). -/
def Partition.restoreRefused (x : Partition) (lid log : Nat) (why : BitVec 7) : Partition :=
  let y := { x with rstCnt := x.rstCnt + 1, irqStatus := x.irqStatus ||| 8#6 }
  if x.rstValid then y else { y with rstValid := true, rstLaunch := BitVec.ofNat 32 lid, rstReason := why, rstWg := BitVec.ofNat 32 log }
theorem State.part_irqPart (s : State) (p bit : Nat) : (s.irqPart p bit).part p = (s.part p).interrupted bit := by
  have hset := State.part_onPart_self s p (Partition.interrupted bit)
  unfold State.irqPart
  dsimp only
  split <;> exact hset
theorem State.irqPart_eq (s : State) (p bit : Nat) : s.irqPart p bit = { s with parts := (s.irqPart p bit).parts, sent := (s.irqPart p bit).sent } := by
  unfold State.irqPart
  dsimp only
  split <;> rfl
theorem State.part_refuseRestore (s : State) (lid : Nat) (l : Launch) (log : Nat) (why : BitVec 7) :
    (s.refuseRestore lid l log why).part l.part = (s.part l.part).restoreRefused lid log why := by
  have hcounted := State.part_onPart_self (s.onLaunch lid Launch.held) l.part (Partition.restoreCounted lid log why)
  have hirq := State.part_irqPart ((s.onLaunch lid Launch.held).onPart l.part (Partition.restoreCounted lid log why)) l.part 3
  rw [hcounted] at hirq
  refine hirq.trans ?_
  change ((s.part l.part).restoreCounted lid log why).interrupted 3 = _
  cases h : (s.part l.part).rstValid <;> simp [Partition.restoreCounted, Partition.restoreRefused, Partition.interrupted, h]
theorem State.refuseRestore_eq (s : State) (lid : Nat) (l : Launch) (log : Nat) (why : BitVec 7) :
    s.refuseRestore lid l log why = { s with
      launches := Tbl.modify s.launches lid Launch.held, parts := (s.refuseRestore lid l log why).parts, sent := (s.refuseRestore lid l log why).sent } := by
  rw [State.refuseRestore, State.irqPart_eq]
  rfl
theorem Partition.restoreRefused_first {x : Partition} (lid log : Nat) (why : BitVec 7) (h : x.rstValid = false) :
    x.restoreRefused lid log why = { x with
      rstCnt := x.rstCnt + 1, irqStatus := x.irqStatus ||| 8#6, rstValid := true, rstLaunch := BitVec.ofNat 32 lid, rstReason := why, rstWg := BitVec.ofNat 32 log } := by
  simp [Partition.restoreRefused, h]
theorem Partition.restoreRefused_later {x : Partition} (lid log : Nat) (why : BitVec 7) (h : x.rstValid = true) :
    x.restoreRefused lid log why = { x with rstCnt := x.rstCnt + 1, irqStatus := x.irqStatus ||| 8#6 } := by
  simp [Partition.restoreRefused, h]
theorem Partition.restoreRefused_counts (x : Partition) (lid log : Nat) (why : BitVec 7) :
    (x.restoreRefused lid log why).rstCnt = x.rstCnt + 1 ∧ (x.restoreRefused lid log why).irqStatus = x.irqStatus ||| 8#6 := by
  cases h : x.rstValid
  · rw [Partition.restoreRefused_first lid log why h]
    exact ⟨rfl, rfl⟩
  · rw [Partition.restoreRefused_later lid log why h]
    exact ⟨rfl, rfl⟩
/-- R390, R391, R403: a refused restore holds its launch and counts. -/
theorem restoreRefused {s : State} {g lid : Nat} {l : Launch} {x : SavedWg} {p : Nat} {pl : Placement}
    (hfind : s.launches.find? (fun e => e.2.saved.any (fun y => y.id == g)) = some (lid, l)) (hlaunch : s.launch lid = some l) (hid : x.id = g)
    (howner : (s.queue l.queue).owner = some p) (hnext : s.nextVisit p = some l.queue) (htraps : s.traps = [])
    (hreserve : (s.part p).reserve = none) (hpart : l.part = p) (herr : (s.queue l.queue).err = false)
    (hstart : s.queueStart l.queue = some (lid, l, .restore x)) (hbad : s.restoreReasons l x.wg.log (s.headerAt l x).1 ≠ 0) :
    ∃ n, exec (.workgroupRestore g pl) s = .next n ∧ n.launch lid = some { l with hold := true } ∧ n.wgs = s.wgs ∧ n.threads = s.threads
      ∧ n.mem = s.mem ∧ (n.part p).rstCnt = (s.part p).rstCnt + 1 ∧ (n.part p).irqStatus = (s.part p).irqStatus ||| 8#6
      ∧ ((s.part p).rstValid = false → (n.part p).rstValid = true ∧ (n.part p).rstLaunch = BitVec.ofNat 32 lid
          ∧ (n.part p).rstReason = s.restoreReasons l x.wg.log (s.headerAt l x).1 ∧ (n.part p).rstWg = BitVec.ofNat 32 x.wg.log)
      ∧ ((s.part p).rstValid = true → (n.part p).rstLaunch = (s.part p).rstLaunch ∧ (n.part p).rstReason = (s.part p).rstReason) := by
  have hreads := State.headerAt_engineReads s l x
  rcases hheader : s.headerAt l x with ⟨h, m⟩
  rw [hheader] at hbad
  replace hreads : s.EngineReads m := by rwa [hheader] at hreads
  have hreasons := hreads.restoreReasons l x.wg.log h
  have hvisit := State.visitQueue_start (pl := pl) hreserve herr hstart
  rw [State.startHead_refused hheader (by rw [hreasons]; exact hbad), hreasons] at hvisit
  subst hpart
  have heq := m.refuseRestore_eq lid l x.wg.log (s.restoreReasons l x.wg.log h)
  have hpart : ((m.refuseRestore lid l x.wg.log (s.restoreReasons l x.wg.log h)).visited l.part l.queue).part l.part
      = { (s.part l.part).restoreRefused lid x.wg.log (s.restoreReasons l x.wg.log h) with visit := l.queue + 1 } := by
    have hm : m.part l.part = s.part l.part := by rw [hreads]; rfl
    rw [State.visited, State.part_onPart_self, State.part_refuseRestore, hm]
  obtain ⟨hcount, hirq⟩ := (s.part l.part).restoreRefused_counts lid x.wg.log (s.restoreReasons l x.wg.log h)
  refine ⟨_, (exec_workgroupRestore hfind hid hstart).trans (exec_queueVisit howner hnext hvisit ?_), ?_, ?_, ?_, ?_, ?_, ?_, fun hfirst => ?_, fun hlater => ?_⟩
  · rw [heq, hreads]
    exact htraps
  · rw [heq, hreads]
    exact (Tbl.find_modify_self s.launches lid Launch.held).trans (congrArg (Option.map Launch.held) hlaunch)
  · rw [heq, hreads]
    rfl
  · rw [heq, hreads]
    rfl
  · rw [heq, hreads]
    rfl
  · rw [hpart]
    exact hcount
  · rw [hpart]
    exact hirq
  · rw [hpart, Partition.restoreRefused_first _ _ _ hfirst]
    exact ⟨rfl, rfl, rfl, rfl⟩
  · rw [hpart, Partition.restoreRefused_later _ _ _ hlater]
    exact ⟨rfl, rfl⟩

/-- The launch without a saved workgroup. -/
def Launch.unsaved (g : Nat) (l : Launch) : Launch := { l with saved := l.saved.filter (fun y => y.id != g) }
/-- A thread of a restored workgroup (R276). -/
def State.restoredThread (l : Launch) (w : Workgroup) (now : Nat) (r : ThreadRef) : Thread :=
  (Thread.start r 0 now).restored (frameAddr l w r.tid) l.tvec
/-- The slots of a restored workgroup, claimed with one free value (R396). -/
def CoreSt.slotsClaimed (g ep : Nat) (slots : List Nat) (c : CoreSt) : CoreSt :=
  slots.foldl (fun c i => c.setSlot i { state := .claimed g, epoch := ep, bytes := [], damaged := false }) c
/-- The state with a saved workgroup at its place, before its threads are in it. -/
def State.restoreRoom (s : State) (lid : Nat) (l : Launch) (x : SavedWg) (h : Header) (pl : Placement) : State :=
  let m := (s.onLaunch lid (Launch.unsaved x.id)).placeWg x.id lid l x.wg.log h.shape pl (some x.wg)
  ({ m with free := m.free + 1 } : State).onCore pl.core (CoreSt.slotsClaimed x.id m.free (slotsOf h.slots))
theorem State.restoreWg_eq {s : State} {lid : Nat} {l : Launch} {x : SavedWg} {h : Header} {pl : Placement} {w : Workgroup}
    (hw : (s.restoreRoom lid l x h pl).wg x.id = some w) (htvec : l.tvec ≠ 0) (hbooks : x.books = []) (hfields : x.wg.fields = []) :
    s.restoreWg lid l x h pl = (s.restoreRoom lid l x h pl).addThreads x.id x.tids
      (State.restoredThread l w ((s.restoreRoom lid l x h pl).core pl.core).cyc.toNat) := by
  unfold State.restoreWg
  rw [hbooks, hfields]
  change (match (s.restoreRoom lid l x h pl).wg x.id with | none => _ | some w => _) = _
  rw [hw]
  exact if_neg htvec
/-- The state in which a saved workgroup has been restored. -/
structure State.Restored (s n : State) (lid : Nat) (l : Launch) (x : SavedWg) (w : Workgroup) : Prop where
  wgs      : n.wgs = Tbl.insert s.wgs x.id w
  launches : n.launches = Tbl.modify s.launches lid (Launch.unsaved x.id)
  threads  : ∀ i ∈ x.tids, ∃ now, n.thread { wg := x.id, tid := i } = some (State.restoredThread l w now { wg := x.id, tid := i })
  traps    : n.traps = s.traps
theorem State.restoreWg_restored {s : State} {lid : Nat} {l : Launch} {x : SavedWg} {h : Header} {pl : Placement}
    (htvec : l.tvec ≠ 0) (hbooks : x.books = []) (hfields : x.wg.fields = []) :
    s.Restored (s.restoreWg lid l x h pl) lid l x
      ((s.onLaunch lid (Launch.unsaved x.id)).placedWg lid l x.wg.log h.shape pl (some x.wg)) := by
  obtain ⟨hwgs, hrest⟩ := (s.onLaunch lid (Launch.unsaved x.id)).placeWg_placed x.id lid l x.wg.log h.shape pl (some x.wg)
  have hroom : (s.restoreRoom lid l x h pl).wg x.id
      = some ((s.onLaunch lid (Launch.unsaved x.id)).placedWg lid l x.wg.log h.shape pl (some x.wg)) :=
    (congrArg (fun m => Tbl.find m x.id) hwgs).trans (Tbl.find_insert_self ..)
  have heq := State.restoreWg_eq hroom htvec hbooks hfields
  let now := ((s.restoreRoom lid l x h pl).core pl.core).cyc.toNat
  have hadded := State.addThreads_eq (s.restoreRoom lid l x h pl) x.id x.tids (State.restoredThread l
    ((s.onLaunch lid (Launch.unsaved x.id)).placedWg lid l x.wg.log h.shape pl (some x.wg)) now)
  refine ⟨?_, ?_, fun i hi => ⟨now, ?_⟩, ?_⟩
  · rw [heq, hadded]
    exact hwgs
  · rw [heq, hadded]
    exact (congrArg State.launches hrest :)
  · rw [heq]
    exact State.thread_addThreads _ _ (fun _ => by rfl) hi
  · rw [heq, hadded]
    exact (congrArg State.traps hrest :)
theorem fieldOf_halves (d : DWord) : fieldOf d 63 32 ++ fieldOf d 31 0 = d := by
  have h := BitVec.extractLsb'_append_extractLsb'_eq_extractLsb' (x := d) (start₁ := 0) (start₂ := 32) (len₁ := 32) (len₂ := 32) rfl
  exact h.trans BitVec.extractLsb'_eq_self
/-- R269: v0 to v3 at the entry of the handler. -/
theorem Thread.getV_enterHandler (t : Thread) (frame tvec : DWord) (cls : Byte) (detail : Word) (k : Nat) :
    (t.enterHandler frame tvec cls detail).getV k =
      if k = 3 then detail else if k = 2 then cls.zeroExtend 32 else if k = 1 then fieldOf frame 63 32
      else if k = 0 then fieldOf frame 31 0 else t.getV k := by
  simp [Thread.enterHandler, Thread.setPair, Thread.setV, Thread.getV, Tbl.get_put]
theorem State.getV_restoredThread (l : Launch) (w : Workgroup) (now : Nat) (r : ThreadRef) (k : Nat) :
    (State.restoredThread l w now r).getV k =
      if k = 3 then 0 else if k = 2 then 0x19 else if k = 1 then fieldOf (frameAddr l w r.tid) 63 32
      else if k = 0 then fieldOf (frameAddr l w r.tid) 31 0 else 0 :=
  Thread.getV_enterHandler ..
/-- R276: a restored thread is in the handler, with its frame's address and the class of a restore. -/
theorem State.restoredThread_enters (l : Launch) (w : Workgroup) (now : Nat) (r : ThreadRef) :
    let t := State.restoredThread l w now r
    t.handler = true ∧ t.pc = fieldOf l.tvec 55 0 ∧ t.getPair 0 = frameAddr l w r.tid ∧ t.getV 2 = 0x19 ∧ t.getV 3 = 0
      ∧ ∀ k, 4 ≤ k → t.getV k = 0 := by
  refine ⟨rfl, rfl, ?_, State.getV_restoredThread .., State.getV_restoredThread .., fun k hk => ?_⟩
  · rw [Thread.getPair, State.getV_restoredThread, State.getV_restoredThread]
    exact fieldOf_halves _
  · rw [State.getV_restoredThread, if_neg (by omega), if_neg (by omega), if_neg (by omega), if_neg (by omega)]

/-- R276, R370, R396: a restore that passes the checks. -/
theorem restorePlaces {s : State} {g lid : Nat} {l : Launch} {x : SavedWg} {p : Nat} {pl : Placement}
    (hfind : s.launches.find? (fun e => e.2.saved.any (fun y => y.id == g)) = some (lid, l)) (hlaunch : s.launch lid = some l) (hid : x.id = g)
    (howner : (s.queue l.queue).owner = some p) (hnext : s.nextVisit p = some l.queue) (htraps : s.traps = [])
    (hreserve : (s.part p).reserve = none) (herr : (s.queue l.queue).err = false)
    (hstart : s.queueStart l.queue = some (lid, l, .restore x)) {h : Header} (hh : (s.headerAt l x).1 = h)
    (hok : s.restoreReasons l x.wg.log h = 0) (hroom : (s.taskPlace lid l (.restore x h)).isSome = true) (hcredit : 0 < (s.queue l.queue).credit)
    (hfits : s.fitsAt lid l x.wg.log true h.shape h.slots (fieldOf h.books 3 0) pl = true) (htvec : l.tvec ≠ 0) (hbooks : x.books = [])
    (hfields : x.wg.fields = []) :
    ∃ n w, exec (.workgroupRestore g pl) s = .next n ∧ n.wg g = some w ∧ w.launch = lid ∧ w.log = x.wg.log ∧ w.core = pl.core
      ∧ w.quarter = pl.quarter ∧ w.lane = pl.lane ∧ w.width = h.shape.width ∧ w.depth = h.shape.depth
      ∧ n.launch lid = some { l with saved := l.saved.filter (fun y => y.id != g) }
      ∧ ∀ i ∈ x.tids, ∃ t, n.thread { wg := g, tid := i } = some t ∧ t.handler = true ∧ t.pc = fieldOf l.tvec 55 0
        ∧ t.getPair 0 = frameAddr l w i ∧ t.getV 2 = 0x19 ∧ t.getV 3 = 0 ∧ ∀ k, 4 ≤ k → t.getV k = 0 := by
  have hreads := State.headerAt_engineReads s l x
  rcases hheader : s.headerAt l x with ⟨h', m⟩
  rw [hheader] at hh
  replace hreads : s.EngineReads m := by rwa [hheader] at hreads
  obtain rfl : h' = h := hh
  have hreasons : m.restoreReasons l x.wg.log h' = 0 := (hreads.restoreReasons ..).trans hok
  have hplace : (m.taskPlace lid l (.restore x h')).isSome = true := by rw [hreads.taskPlace]; exact hroom
  have hqueues : m.queues = s.queues := (congrArg State.queues hreads :)
  have hqueue : m.queue l.queue = s.queue l.queue := by rw [State.queue, hqueues]; rfl
  have hput := (State.startOne_room (k := l.queue) (pl := pl) hplace).2 (hqueue ▸ hcredit) ((hreads.taskFits lid l (.restore x h') pl).trans hfits)
  have hvisit := State.visitQueue_start (pl := pl) hreserve herr hstart
  rw [State.startHead_restore hheader hreasons, hput] at hvisit
  obtain ⟨hwgs, hlaunches, hthreads, hquiet⟩ := State.restoreWg_restored (s := m.setDeficit l.queue (m.queue l.queue).credit) (lid := lid)
    (h := h') (pl := pl) htvec hbooks hfields
  have hlaunched : m.launches = s.launches := (congrArg State.launches hreads :)
  have htrapped : m.traps = s.traps := (congrArg State.traps hreads :)
  subst hid
  refine ⟨_, _, (exec_workgroupRestore hfind rfl hstart).trans (exec_queueVisit howner hnext hvisit (hquiet.trans (htrapped.trans htraps))),
    (congrArg (fun m => Tbl.find m x.id) hwgs).trans (Tbl.find_insert_self ..), rfl, rfl, rfl, rfl, rfl, rfl, rfl, ?_, fun i hi => ?_⟩
  · refine (congrArg (fun m => Tbl.find m lid) (hlaunches.trans (congrArg (fun m => Tbl.modify m lid _) hlaunched))).trans ?_
    exact (Tbl.find_modify_self ..).trans (congrArg (Option.map _) hlaunch)
  · obtain ⟨now, hthread⟩ := hthreads i hi
    exact ⟨_, hthread, State.restoredThread_enters ..⟩

/-- R270, R276, R361, R370, R390, R391, R396, R403: restores. -/
theorem restores : Claims.Restores := by
  intro s g lid l x p pl hfind hlaunch hid howner hnext htraps hreserve hpart herr hstart h
  exact ⟨fun hok hroom hcredit hfits htvec hbooks hfields _ => restorePlaces hfind hlaunch hid howner hnext htraps hreserve herr hstart rfl hok
      hroom hcredit hfits htvec hbooks hfields,
    restoreRefused hfind hlaunch hid howner hnext htraps hreserve hpart herr hstart⟩

/-- Settles O46, from what a visit and the placing of a workgroup do. -/
theorem dispatch : Obligations.Dispatch := ⟨queueVisits, restores⟩

end Sys2Proof.Machine
end

section
/-! SUPPORT. The issue that ends a count pass, where its tag's count has reached the limit; with the refutation of the obligation on matrix
operations. -/
namespace Sys2Proof.Machine
open Sys2Proof.Tests

/-- R35, R230: a count pass whose issue waits for its tag leaves everything as it is. -/
theorem exec_cmpkSparseCountPass_waits {s : State} {id : Nat} {op : Op} (h : Tbl.find s.ops id = some op) (hwaits : s.passWaits op = true) :
    exec (.cmpkSparseCountPass id) s = .next s := by
  change execCmpkSparseCountPass id s = .next s
  simp [execCmpkSparseCountPass, h, hwaits]

/-- The state of a count pass under way, with 65,535 operations of the core's other threads in flight under the tag that the word names. -/
def fullTagState : State := coreState { demoC 0x20007F with tags := [(2, { count := 65535, clear := false })] } countState
theorem fullTagState_op : Tbl.find fullTagState.ops 1 = some countOp := by decide +kernel
/-- R35: the count is at its limit, so that the issue waits. -/
theorem fullTagState_waits : fullTagState.passWaits countOp = true := by decide +kernel
/-- No row overflows. -/
theorem fullTagState_rows : ∃ rows nv, fullTagState.sparseRows countOp = .ok (rows, nv)
    ∧ (rows.map List.length).foldl (· + ·) 0 ≤ min (bytesAt countOp.block 24 4) 65536 := counts_some (by decide +kernel)

/-- R35, R230: the second clause of CountPass claims of every pass without an overflow that its end issues the operation. Its premises say
nothing of the tag: where the tag's count is 65,535, the issue waits, as R35 has it, and the pass is still there. -/
theorem not_countPass : ¬ Claims.CountPass := by
  intro h
  obtain ⟨_, hends⟩ := h
  obtain ⟨rows, nv, hrows, hfit⟩ := fullTagState_rows
  obtain ⟨n, hexec, _, hgone⟩ := hends fullTagState 1 countOp demoT demoW 1 2 2 rows nv fullTagState_op rfl rfl rfl rfl rfl (by decide +kernel)
    (by decide +kernel) rfl (by decide +kernel) (by decide +kernel) hrows hfit
  have hstays : n = fullTagState :=
    Host.Outcome.next.inj (hexec.symm.trans (exec_cmpkSparseCountPass_waits fullTagState_op fullTagState_waits))
  rw [hstays, fullTagState_op] at hgone
  cases hgone

/-- Refutes O32: its part CountPass fails where the tag's count has reached its limit. -/
theorem not_matrixComplete : ¬ Obligations.MatrixComplete := by
  rintro ⟨_, _, _, _, _, hcount⟩
  exact not_countPass hcount

end Sys2Proof.Machine
end

section
/-! SUPPORT. The exact arithmetic of the scalar float words on rational numbers; with the statements on the words and on their exact sums,
products and special operands. -/
namespace Sys2Proof.Machine

/-! The words (R139, R140) -/

/-- A scalar float word that rounds gives each thread its value, rounded once, and its flags. -/
theorem exec_floatResult {i : Instr} {f : Thread → VReg × Val × Flags} (h : ∀ t, Claims.floatResult i t = some (f t)) (s : State) :
    exec i s = issueThread i (fun t _ => t.putFloat (f t).1 (f t).2) s ∧ blockOf i = none ∧ isBind i = false := by
  have hstart := h (Thread.start { wg := 0, tid := 0 } 0 0)
  obtain rfl : f = fun t => (Claims.floatResult i t).getD (0, .nan, 0) := funext fun t => by rw [h]; rfl
  unfold Claims.floatResult at hstart
  split at hstart
  case h_15 => cases hstart
  all_goals exact ⟨rfl, rfl, rfl⟩
/-- A scalar float word that is exact gives each thread its value. -/
theorem exec_quietResult {i : Instr} {f : Thread → VReg × Val} (h : ∀ t, Claims.quietResult i t = some (f t)) (s : State) :
    exec i s = issueThread i (fun t _ => t.putQuiet (f t).1 (f t).2) s ∧ blockOf i = none ∧ isBind i = false := by
  have hstart := h (Thread.start { wg := 0, tid := 0 } 0 0)
  obtain rfl : f = fun t => (Claims.quietResult i t).getD (0, .nan) := funext fun t => by rw [h]; rfl
  unfold Claims.quietResult at hstart
  split at hstart
  case h_6 => cases hstart
  all_goals exact ⟨rfl, rfl, rfl⟩

/-- R62, R139, R140: the results, the flags and the frames of the scalar float words. -/
theorem floatWords : Claims.FloatWords := by
  refine fun s ts i hs run => ⟨fun f hf => ?_, fun f hf => ?_⟩
  · obtain ⟨hexec, hb, hg⟩ := exec_floatResult hf s
    rw [hexec]
    exact issueThread_threadsBecome hs hb hg (fun _ => rfl) run
  · obtain ⟨hexec, hb, hg⟩ := exec_quietResult hf s
    rw [hexec]
    exact issueThread_threadsBecome hs hb hg (fun _ => rfl) run

/-! The number that a finite value stands for -/

/-- (-1)^neg x m x 2^e. -/
def ratOf (neg : Bool) (m : Nat) (e : Int) : ℚ := (if neg then -1 else 1) * (m : ℚ) * (2 : ℚ) ^ e

theorem real_fin (s : Bool) (m : Nat) (e : Int) : Claims.real (.fin s m e) = some (ratOf s m e) := rfl
/-- Only a finite value stands for a number. -/
theorem real_eq_some {v : Val} {a : ℚ} (h : Claims.real v = some a) : ∃ s m e, v = .fin s m e ∧ ratOf s m e = a := by
  cases v with
  | nan => cases h
  | inf s => cases h
  | fin s m e => exact ⟨s, m, e, rfl, Option.some.inj h⟩

@[simp] theorem ratOf_zero (s : Bool) (e : Int) : ratOf s 0 e = 0 := by simp [ratOf]
@[simp] theorem ratOf_eq_zero {s : Bool} {m : Nat} {e : Int} : ratOf s m e = 0 ↔ m = 0 := by
  have : (2 : ℚ) ^ e ≠ 0 := by positivity
  cases s <;> simp [ratOf, this]
theorem ratOf_not (s : Bool) (m : Nat) (e : Int) : ratOf (!s) m e = -ratOf s m e := by
  cases s <;> simp [ratOf]
theorem ratOf_true (m : Nat) (e : Int) : ratOf true m e = -ratOf false m e := ratOf_not false m e
theorem ratOf_false (m : Nat) (e : Int) : ratOf false m e = m * 2 ^ e := by simp [ratOf]
theorem ratOf_false_nonneg (m : Nat) (e : Int) : 0 ≤ ratOf false m e := by rw [ratOf_false]; positivity
theorem abs_ratOf (s : Bool) (m : Nat) (e : Int) : |ratOf s m e| = ratOf false m e := by
  cases s
  · exact abs_of_nonneg (ratOf_false_nonneg m e)
  · rw [ratOf_true, abs_neg, abs_of_nonneg (ratOf_false_nonneg m e)]
/-- The sign of a value that is not zero is the sign of its number. -/
theorem ratOf_neg_iff {s : Bool} {m : Nat} {e : Int} (h : m ≠ 0) : ratOf s m e < 0 ↔ s = true := by
  have hpos : 0 < ratOf false m e := lt_of_le_of_ne (ratOf_false_nonneg m e) (Ne.symm (by simpa using h))
  cases s
  · simpa using hpos.le
  · simpa [ratOf_true] using hpos
theorem ratOf_pos_iff {s : Bool} {m : Nat} {e : Int} (h : m ≠ 0) : 0 < ratOf s m e ↔ s = false := by
  have := ratOf_neg_iff (s := !s) (e := e) h
  rw [ratOf_not] at this
  simpa using this
theorem ratOf_mul (s t : Bool) (m n : Nat) (e f : Int) : ratOf s m e * ratOf t n f = ratOf (s != t) (m * n) (e + f) := by
  have : (2 : ℚ) ^ (e + f) = 2 ^ e * 2 ^ f := zpow_add₀ (by norm_num) e f
  cases s <;> cases t <;> simp [ratOf, this] <;> ring

/-- A value as an integer multiple of a power of two at most its own. -/
theorem scaled_mul {s : Bool} {m : Nat} {e q : Int} (h : q ≤ e) : (scaled s m e q : ℚ) * 2 ^ q = ratOf s m e := by
  have hpow : (2 : ℚ) ^ (e - q).toNat * 2 ^ q = 2 ^ e := by
    rw [← zpow_natCast, ← zpow_add₀ (by norm_num)]
    congr 1
    omega
  have hcut : ((m * 2 ^ (e - q).toNat : Nat) : ℚ) * 2 ^ q = ratOf false m e := by
    rw [ratOf_false, ← hpow]
    push_cast
    ring
  cases s
  · simpa [scaled] using hcut
  · simpa [scaled, ratOf_true] using hcut
/-- An integer multiple of a power of two as a value. -/
theorem ratOf_natAbs (k q : Int) : ratOf (decide (k < 0)) k.natAbs q = (k : ℚ) * 2 ^ q := by
  rcases lt_or_ge k 0 with h | h
  · have habs : |(k : ℚ)| = -k := abs_of_neg (by exact_mod_cast h)
    simp [h, ratOf, Nat.cast_natAbs, habs]
  · have habs : |(k : ℚ)| = k := abs_of_nonneg (by exact_mod_cast h)
    simp [not_lt.2 h, ratOf, Nat.cast_natAbs, habs]

/-! Sums, products and comparisons -/

/-- The exact sum of finite values; where they cancel it is +0. -/
theorem Val.add_fin (s t : Bool) (m n : Nat) (e f : Int) :
    (Val.add (.fin s m e) (.fin t n f)).2 = false ∧ Claims.real (Val.add (.fin s m e) (.fin t n f)).1 = some (ratOf s m e + ratOf t n f) := by
  unfold Val.add
  dsimp only
  have hsum : ((scaled s m e (min e f) + scaled t n f (min e f) : ℤ) : ℚ) * 2 ^ min e f = ratOf s m e + ratOf t n f := by
    rw [← scaled_mul (min_le_left e f), ← scaled_mul (min_le_right e f)]
    push_cast
    ring
  split_ifs with hz hm hn hk
  · obtain ⟨rfl, rfl⟩ := hz
    simp [Val.zero, real_fin]
  · subst hm
    simp [real_fin]
  · subst hn
    simp [real_fin]
  · rw [hk] at hsum
    simp [Val.zero, real_fin, ← hsum]
  · exact ⟨rfl, by rw [real_fin, ratOf_natAbs, hsum]⟩
/-- Opposite numbers cancel to +0. -/
theorem Val.add_cancel {s t : Bool} {m n : Nat} {e f : Int} (hm : m ≠ 0) (h : ratOf t n f = -ratOf s m e) :
    (Val.add (.fin s m e) (.fin t n f)).1 = .zero false := by
  have hn : n ≠ 0 := fun h0 => hm (by simpa [h0] using h.symm)
  have hsum : scaled s m e (min e f) + scaled t n f (min e f) = 0 := by
    have hreal : ((scaled s m e (min e f) : ℚ) + scaled t n f (min e f)) * 2 ^ min e f = 0 := by
      rw [add_mul, scaled_mul (min_le_left e f), scaled_mul (min_le_right e f), h, add_neg_cancel]
    have hpow : (2 : ℚ) ^ min e f ≠ 0 := by positivity
    exact_mod_cast (mul_eq_zero.1 hreal).resolve_right hpow
  simp [Val.add, hm, hn, hsum]
theorem Val.add_zeros (s t : Bool) (e f : Int) : Val.add (.fin s 0 e) (.fin t 0 f) = (.zero (s && t), false) := rfl
/-- The exact product of finite values. -/
theorem Val.mul_fin (s t : Bool) (m n : Nat) (e f : Int) :
    Val.mul (.fin s m e) (.fin t n f) = (.fin (s != t) (m * n) (if m * n = 0 then 0 else e + f), false) := rfl
theorem real_mul_fin (s t : Bool) (m n : Nat) (e f : Int) :
    Claims.real (Val.mul (.fin s m e) (.fin t n f)).1 = some (ratOf s m e * ratOf t n f) := by
  rw [Val.mul_fin, real_fin, ratOf_mul]
  split_ifs with h
  · simp [h]
  · rfl

/-- The order of finite values is that of their numbers. -/
theorem Val.cmp_lt {s t : Bool} {m n : Nat} {e f : Int} (h : ratOf s m e < ratOf t n f) : Val.cmp (.fin s m e) (.fin t n f) = some .lt := by
  unfold Val.cmp
  dsimp only
  split_ifs with hz hm ht hn hs
  · simp [hz] at h
  · rw [hm, ratOf_zero, ratOf_pos_iff fun hn => hz ⟨hm, hn⟩] at h
    rw [h] at ht
    cases ht
  · rfl
  · rfl
  · rw [hn, ratOf_zero, ratOf_neg_iff hm] at h
    exact absurd h hs
  · rw [← scaled_mul (min_le_left e f), ← scaled_mul (min_le_right e f), mul_lt_mul_iff_left₀ (by positivity)] at h
    rw [cmpFin, compare_lt_iff_lt.2 (by exact_mod_cast h)]
theorem Val.cmp_gt {s t : Bool} {m n : Nat} {e f : Int} (h : ratOf t n f < ratOf s m e) : Val.cmp (.fin s m e) (.fin t n f) = some .gt := by
  unfold Val.cmp
  dsimp only
  split_ifs with hz hm ht hn hs
  · simp [hz] at h
  · rfl
  · rw [hm, ratOf_zero, ratOf_neg_iff fun hn => hz ⟨hm, hn⟩] at h
    exact absurd h ht
  · rw [hn, ratOf_zero, ratOf_pos_iff hm] at h
    rw [h] at hs
    cases hs
  · rfl
  · rw [← scaled_mul (min_le_left e f), ← scaled_mul (min_le_right e f), mul_lt_mul_iff_left₀ (by positivity)] at h
    rw [cmpFin, compare_gt_iff_gt.2 (by exact_mod_cast h)]

end Sys2Proof.Machine
end

section
/-! SUPPORT. The scalar float words of R139 by their operands; with the statement on exact results. -/
namespace Sys2Proof.Machine

/-! FADD, FMUL, FFMA (R139) -/

/-- Only an exact zero takes the sign of RDN. -/
theorem real_sumSign {mode : BitVec 2} {x y v : Val} {a : ℚ} (h : Claims.real v = some a) : Claims.real (sumSign mode x y v) = some a := by
  unfold sumSign
  split
  · split_ifs
    · rw [real_fin, ratOf_zero] at h
      simpa [Val.zero, real_fin] using h
    · exact h
  · exact h
theorem sumSign_zero (mode : BitVec 2) (x y : Val) (s : Bool) :
    sumSign mode x y (.zero s) = .zero (if mode = 2 ∧ (x.sign = true ∨ y.sign = true) then true else s) := by
  unfold sumSign Val.zero
  simp only [Bool.and_eq_true, Bool.or_eq_true, beq_iff_eq]
  split_ifs <;> rfl

theorem fAdd_fin (mode : BitVec 2) (s t : Bool) (m n : Nat) (e f : Int) :
    Claims.real (fAdd mode (.fin s m e) (.fin t n f)).1 = some (ratOf s m e + ratOf t n f) ∧ (fAdd mode (.fin s m e) (.fin t n f)).2 = 0 := by
  obtain ⟨hnv, hreal⟩ := Val.add_fin s t m n e f
  exact ⟨real_sumSign hreal, by rw [fAdd, hnv]; rfl⟩
theorem fMul_fin (s t : Bool) (m n : Nat) (e f : Int) :
    Claims.real (fMul (.fin s m e) (.fin t n f)).1 = some (ratOf s m e * ratOf t n f) ∧ (fMul (.fin s m e) (.fin t n f)).2 = 0 :=
  ⟨real_mul_fin s t m n e f, rfl⟩
theorem fFma_fin (mode : BitVec 2) (s t u : Bool) (m n k : Nat) (e f g : Int) :
    Claims.real (fFma mode (.fin s m e) (.fin t n f) (.fin u k g)).1 = some (ratOf s m e * ratOf t n f + ratOf u k g)
      ∧ (fFma mode (.fin s m e) (.fin t n f) (.fin u k g)).2 = 0 := by
  have hmul := real_mul_fin s t m n e f
  obtain ⟨s', m', e', hprod, hnum⟩ := real_eq_some hmul
  obtain ⟨hnv, hreal⟩ := Val.add_fin s' u m' k e' g
  rw [hnum] at hreal
  unfold fFma
  dsimp only
  rw [hprod, hnv, Val.mul_fin]
  exact ⟨real_sumSign hreal, rfl⟩

/-- R139: an exact zero sum of opposite numbers is +0, or -0 under RDN. -/
theorem fAdd_cancel {mode : BitVec 2} {s t : Bool} {m n : Nat} {e f : Int} (hm : m ≠ 0) (h : ratOf t n f = -ratOf s m e) :
    (fAdd mode (.fin s m e) (.fin t n f)).1 = .zero (decide (mode = 2)) := by
  have hn : n ≠ 0 := fun h0 => hm (by simpa [h0] using h.symm)
  have hsign : s = true ∨ t = true := by
    rcases Bool.eq_false_or_eq_true s with hs | hs
    · exact .inl hs
    · rw [← ratOf_pos_iff hm] at hs
      exact .inr ((ratOf_neg_iff hn).1 (by rw [h]; exact neg_neg_of_pos hs))
  rw [fAdd, Val.add_cancel hm h, sumSign_zero]
  simp [Val.sign, hsign]
/-- R139: a sum of zeros has their sign; of opposite signs it is +0, or -0 under RDN. -/
theorem fAdd_zeros (mode : BitVec 2) (s t : Bool) (e f : Int) :
    (fAdd mode (.fin s 0 e) (.fin t 0 f)).1 = .zero (if s = t then s else decide (mode = 2)) := by
  rw [fAdd, Val.add_zeros, sumSign_zero]
  cases s <;> cases t <;> simp [Val.sign]

/-! FMIN, FMAX, FABS, FNEG, FSGNJ (R139) -/

theorem fMin_of_lt {s t : Bool} {m n : Nat} {e f : Int} (h : ratOf s m e < ratOf t n f) :
    fMin (.fin s m e) (.fin t n f) = .fin s m e ∧ fMin (.fin t n f) (.fin s m e) = .fin s m e := by
  simp [fMin, Val.cmp_lt h, Val.cmp_gt h]
theorem fMax_of_lt {s t : Bool} {m n : Nat} {e f : Int} (h : ratOf s m e < ratOf t n f) :
    fMax (.fin s m e) (.fin t n f) = .fin t n f ∧ fMax (.fin t n f) (.fin s m e) = .fin t n f := by
  simp [fMax, Val.cmp_lt h, Val.cmp_gt h]
theorem fMin_nan_left (x : Val) : fMin .nan x = x := rfl
theorem fMin_nan_right (x : Val) : fMin x .nan = x := by cases x <;> rfl
theorem fMax_nan_left (x : Val) : fMax .nan x = x := rfl
theorem fMax_nan_right (x : Val) : fMax x .nan = x := by cases x <;> rfl
theorem fMin_zeros (s t : Bool) : fMin (.zero s) (.zero t) = .zero (s || t) := by cases s <;> rfl
theorem fMax_zeros (s t : Bool) : fMax (.zero s) (.zero t) = .zero (s && t) := by cases s <;> rfl
theorem ratOf_withSign (s n : Bool) (m : Nat) (e : Int) : ratOf n m e = if n then -|ratOf s m e| else |ratOf s m e| := by
  rw [abs_ratOf]
  cases n
  · rfl
  · exact ratOf_true m e

/-! FDIV and FSQRT (R139) -/

/-- The quotient of finite values, cut far below any rounding, is 0 just where the dividend is. -/
theorem fDiv_fin {s t : Bool} {m n : Nat} {e f : Int} (hn : n ≠ 0) :
    (fDiv (.fin s m e) (.fin t n f)).2 = 0
      ∧ ∃ q, Claims.real (fDiv (.fin s m e) (.fin t n f)).1 = some q ∧ (q = 0 ↔ ratOf s m e = 0) := by
  unfold fDiv
  dsimp only
  rw [if_neg hn]
  split_ifs with hm hr
  · exact ⟨rfl, 0, by simp [Val.zero, real_fin], by simp [hm]⟩
  · refine ⟨rfl, _, real_fin _ _ _, ?_⟩
    have hq : m * 2 ^ 80 / n ≠ 0 := fun h => hm (by
      have := Nat.eq_mul_of_div_eq_left (Nat.dvd_of_mod_eq_zero hr) h
      omega)
    simp only [ratOf_eq_zero]
    omega
  · refine ⟨rfl, _, real_fin _ _ _, ?_⟩
    simp only [ratOf_eq_zero]
    omega
theorem fDiv_by_zero {s t : Bool} {m : Nat} {e f : Int} (hm : m ≠ 0) : fDiv (.fin s m e) (.fin t 0 f) = (.inf (s != t), flagDZ) := by
  simp [fDiv, hm]
theorem fDiv_zeros (s t : Bool) (e f : Int) : fDiv (.fin s 0 e) (.fin t 0 f) = (.nan, flagNV) := rfl
theorem fDiv_nan_right (x : Val) : fDiv x .nan = (.nan, 0) := by cases x <;> rfl
theorem fSqrt_neg {m : Nat} {e : Int} (hm : m ≠ 0) : fSqrt (.fin true m e) = (.nan, flagNV) := by simp [fSqrt, hm]
theorem fSqrt_zero (s : Bool) (e : Int) : fSqrt (.fin s 0 e) = (.zero s, 0) := rfl

/-! Special operands (R71, R139) -/

theorem fAdd_nan_right (mode : BitVec 2) (x : Val) : fAdd mode x .nan = (.nan, 0) := by cases x <;> rfl
theorem fMul_nan_right (x : Val) : fMul x .nan = (.nan, 0) := by cases x <;> rfl
theorem fAdd_opposite_inf (mode : BitVec 2) (s : Bool) : fAdd mode (.inf s) (.inf (!s)) = (.nan, flagNV) := by cases s <;> rfl
theorem Val.isZero_fin {x : Val} (h : x.isZero = true) : ∃ s e, x = .fin s 0 e := by
  unfold Val.isZero at h
  split at h
  · exact ⟨_, _, rfl⟩
  · cases h

/-- R71, R139: exact sums and products, special operands and exceptions. -/
theorem floatExact : Claims.FloatExact := by
  refine ⟨fun mode x y z a b c hx hy hz => ?_, fun mode x s => ?_, fun x s t m e => ?_⟩
  · obtain ⟨s, m, e, rfl, rfl⟩ := real_eq_some hx
    obtain ⟨t, n, f, rfl, rfl⟩ := real_eq_some hy
    obtain ⟨u, k, g, rfl, rfl⟩ := real_eq_some hz
    obtain ⟨hadd, haddFlags⟩ := fAdd_fin mode s t m n e f
    obtain ⟨hmul, hmulFlags⟩ := fMul_fin s t m n e f
    obtain ⟨hfma, hfmaFlags⟩ := fFma_fin mode s t u m n k e f g
    simp only [ne_eq, ratOf_eq_zero]
    refine ⟨hadd, haddFlags, hmul, hmulFlags, hfma, hfmaFlags, fun hm => fAdd_cancel hm, ?_, fun hlt => ?_, ?_, rfl, fun n => ⟨?_, rfl⟩,
      fun hn => ?_, ?_, ?_, fun hneg => ?_, ?_⟩
    · rintro rfl rfl
      exact fAdd_zeros mode s t e f
    · exact ⟨(fMin_of_lt hlt).1, (fMin_of_lt hlt).2, (fMax_of_lt hlt).1, (fMax_of_lt hlt).2⟩
    · rw [Val.neg, real_fin, ratOf_not]
    · rw [Val.withSign, real_fin, ratOf_withSign s]
    · obtain ⟨hflags, q, hq, hzero⟩ := fDiv_fin (s := s) (t := t) (m := m) (e := e) (f := f) hn
      exact ⟨hflags, q, hq, hzero.trans ratOf_eq_zero⟩
    · rintro hm rfl
      exact fDiv_by_zero hm
    · rintro rfl rfl
      exact fDiv_zeros s t e f
    · have hm : m ≠ 0 := fun h => by simp [h] at hneg
      rw [(ratOf_neg_iff hm).1 hneg]
      exact fSqrt_neg hm
    · rintro rfl
      exact fSqrt_zero s e
  · refine ⟨rfl, fAdd_nan_right mode x, rfl, fMul_nan_right x, rfl, fDiv_nan_right x, rfl, fAdd_opposite_inf mode s, fun hx => ?_⟩
    obtain ⟨t, e, rfl⟩ := Val.isZero_fin hx
    exact ⟨rfl, rfl, rfl⟩
  · exact ⟨rfl, rfl, rfl, rfl, rfl, fMin_nan_left x, fMin_nan_right x, fMax_nan_left x, fMax_nan_right x, fMin_zeros s t, fMax_zeros s t,
      rfl, rfl, rfl, rfl, rfl, rfl⟩

end Sys2Proof.Machine
end

section
/-! SUPPORT. Quotients and roots, which are cut far below any rounding: they lie on the same side of every FP32 number and of every midpoint of
two as the exact number. -/
namespace Sys2Proof.Machine

/-! A number and what is kept of it -/

/-- The number X lies at 2r units of 2^g, and j is 0, or strictly between 2r and 2r + 2 units, and j is 1. -/
def CutTo (X : ℝ) (r j : Nat) (g : Int) : Prop :=
  j = 0 ∧ X = 2 * r * 2 ^ g ∨ j = 1 ∧ 2 * r * 2 ^ g < X ∧ X < (2 * r + 2) * 2 ^ g
/-- The last unit kept of 2Y units tells whether Y is an integer. -/
theorem cutTo_of_floor {Y : ℝ} {r : Nat} {c : Prop} [Decidable c] (g : Int) (hlow : (r : ℝ) ≤ Y) (hhigh : Y < r + 1) (hc : c ↔ (r : ℝ) = Y) :
    CutTo (2 * Y * 2 ^ g) r (if c then 0 else 1) g := by
  have hu : (0 : ℝ) < 2 ^ g := by positivity
  split_ifs with h
  · exact .inl ⟨rfl, by rw [hc.1 h]⟩
  · have hlt : (r : ℝ) < Y := lt_of_le_of_ne hlow fun e => h (hc.2 e)
    refine .inr ⟨rfl, by gcongr, ?_⟩
    gcongr
    linarith

/-- A number of 26 significant bits is an even number of units, or less than 2^26 of them. -/
theorem even_or_small {k : ℤ} (hk : |k| < 2 ^ 26) (g u : ℤ) :
    (∃ i : ℤ, (k : ℝ) * 2 ^ g = 2 * i * 2 ^ u) ∨ (k : ℝ) * 2 ^ g < 2 ^ 26 * 2 ^ u := by
  rcases lt_or_ge u g with h | h
  · refine .inl ⟨k * 2 ^ (g - u - 1).toNat, ?_⟩
    have hpow : (2 : ℝ) ^ g = 2 * 2 ^ (g - u - 1).toNat * 2 ^ u := by
      rw [← zpow_natCast, ← zpow_one_add₀ (by norm_num), ← zpow_add₀ (by norm_num)]
      congr 1
      omega
    rw [hpow]
    push_cast
    ring
  · right
    have hk' : (k : ℝ) < 2 ^ 26 := by exact_mod_cast (abs_lt.1 hk).2
    calc (k : ℝ) * 2 ^ g < 2 ^ 26 * 2 ^ g := by gcongr
      _ ≤ 2 ^ 26 * 2 ^ u := by gcongr; norm_num

/-- What is kept of a number lies on its side of every number of 26 significant bits. -/
theorem CutTo.same_side {X : ℝ} {r j : Nat} {u : Int} (h : CutTo X r j u) (hr : 2 ^ 25 ≤ r) {k : ℤ} (hk : |k| < 2 ^ 26) (g : ℤ) :
    (((2 * r + j : ℕ) : ℝ) * 2 ^ u < k * 2 ^ g ↔ X < k * 2 ^ g) ∧ ((k : ℝ) * 2 ^ g < ((2 * r + j : ℕ) : ℝ) * 2 ^ u ↔ (k : ℝ) * 2 ^ g < X) := by
  have hu : (0 : ℝ) < 2 ^ u := by positivity
  rcases h with ⟨rfl, rfl⟩ | ⟨rfl, hlow, hhigh⟩
  · simp
  · push_cast
    rcases even_or_small hk g u with ⟨i, hi⟩ | hsmall
    · rw [hi, mul_lt_mul_iff_left₀ hu, mul_lt_mul_iff_left₀ hu]
      have hints : ((2 * r + 1 : ℝ) < 2 * i ↔ (r : ℤ) + 1 ≤ i) ∧ ((2 * i : ℝ) < 2 * r + 1 ↔ i ≤ (r : ℤ)) := by
        constructor <;> norm_cast <;> omega
      rw [hints.1, hints.2]
      refine ⟨⟨fun h => hhigh.trans_le ?_, fun h => ?_⟩, fun h => lt_of_le_of_lt ?_ hlow, fun h => ?_⟩
      · have : (r : ℝ) + 1 ≤ i := by exact_mod_cast h
        gcongr
        linarith
      · have := hlow.trans h
        rw [mul_lt_mul_iff_left₀ hu] at this
        have hri : (r : ℝ) < i := by linarith
        have : (r : ℤ) < i := by exact_mod_cast hri
        omega
      · have : (i : ℝ) ≤ r := by exact_mod_cast h
        gcongr
      · have := h.trans hhigh
        rw [mul_lt_mul_iff_left₀ hu] at this
        have hri : (i : ℝ) < r + 1 := by linarith
        have : i < (r : ℤ) + 1 := by exact_mod_cast hri
        omega
    · have hr' : (2 : ℝ) ^ 25 ≤ r := by exact_mod_cast hr
      have hbig : (2 : ℝ) ^ 26 * 2 ^ u ≤ 2 * r * 2 ^ u := by
        gcongr
        linarith
      have hkept : (2 * r * 2 ^ u : ℝ) < (2 * r + 1) * 2 ^ u := by
        gcongr
        linarith
      have ht : (k : ℝ) * 2 ^ g < 2 * r * 2 ^ u := hsmall.trans_le hbig
      exact ⟨⟨fun h => absurd h (ht.trans hkept).not_gt, fun h => absurd h (ht.trans hlow).not_gt⟩,
        fun _ => ht.trans hlow, fun _ => ht.trans hkept⟩

/-- A value whose magnitude has been cut stands for the number. -/
theorem CutTo.standsFor {X : ℝ} {r j : Nat} {u : Int} (h : CutTo X r j u) (hr : 2 ^ 25 ≤ r) (s : Bool) {below above : ℚ → Prop}
    (hbelow : ∀ t : ℚ, below t ↔ (if s then -X else X) < t) (habove : ∀ t : ℚ, above t ↔ (t : ℝ) < if s then -X else X) :
    Claims.StandsFor (.fin s (2 * r + j) u) below above := by
  refine ⟨_, real_fin s _ u, fun k g hk => ?_⟩
  dsimp only
  rw [hbelow, habove, ← Rat.cast_lt (K := ℝ), ← Rat.cast_lt (K := ℝ)]
  cases s
  · obtain ⟨hb, ha⟩ := h.same_side hr hk g
    rw [ratOf_false]
    push_cast at hb ha ⊢
    exact ⟨hb, ha⟩
  · obtain ⟨hb, ha⟩ := h.same_side hr (k := -k) (by rwa [abs_neg]) g
    rw [ratOf_true, ratOf_false]
    push_cast at hb ha ⊢
    rw [neg_mul] at hb ha
    simp only [if_true, neg_lt (a := X), lt_neg (b := X)]
    rw [neg_lt, lt_neg]
    exact ⟨ha, hb⟩

/-! FP32 operands -/

/-- The value of an FP32 number has at most 24 bits, and an exponent of at least -149. -/
theorem ofFp32_fin {u : Word} {a : ℚ} (h : Claims.real (ofFp32 u) = some a) :
    ∃ s m e, ofFp32 u = .fin s m e ∧ ratOf s m e = a ∧ m < 2 ^ 24 ∧ -149 ≤ e := by
  obtain ⟨s, m, e, hv, ha⟩ := real_eq_some h
  refine ⟨s, m, e, hv, ha, ?_⟩
  unfold ofFp32 decFloatVal magVal at hv
  dsimp only at hv
  have hf : u.toNat / 2 ^ 0 % 2 ^ (8 + 23) % 2 ^ 23 < 2 ^ 23 := Nat.mod_lt _ (by norm_num)
  split_ifs at hv with h1 h2 h3 h4 h5
  · obtain ⟨-, rfl, rfl⟩ := Val.fin.inj hv
    norm_num
  · obtain ⟨-, rfl, rfl⟩ := Val.fin.inj hv
    constructor <;> omega
  · obtain ⟨-, rfl, rfl⟩ := Val.fin.inj hv
    constructor <;> omega

/-! Quotients -/

theorem cutTo_div (N : Nat) {n : Nat} (hn : n ≠ 0) (g : Int) :
    CutTo (2 * ((N : ℝ) / n) * 2 ^ g) (N / n) (if N % n = 0 then 0 else 1) g := by
  have hn0 : (0 : ℝ) < n := by exact_mod_cast Nat.pos_of_ne_zero hn
  refine cutTo_of_floor g Nat.cast_div_le ?_ ?_
  · rw [div_lt_iff₀ hn0]
    exact_mod_cast (Nat.div_lt_iff_lt_mul (Nat.pos_of_ne_zero hn)).1 (Nat.lt_succ_self _)
  · rw [eq_div_iff hn0.ne', ← Nat.dvd_iff_mod_eq_zero]
    constructor
    · intro h
      exact_mod_cast Nat.div_mul_cancel h
    · intro h
      exact ⟨N / n, by rw [mul_comm]; exact_mod_cast h.symm⟩

/-- R139: the quotient of two FP32 numbers. -/
theorem fDiv_standsFor {s t : Bool} {m n : Nat} {e f : Int} (hn : n ≠ 0) (hn' : n < 2 ^ 24) :
    Claims.StandsFor (fDiv (.fin s m e) (.fin t n f)).1 (ratOf s m e / ratOf t n f < ·) (· < ratOf s m e / ratOf t n f) := by
  unfold fDiv
  dsimp only
  rw [if_neg hn]
  by_cases hm : m = 0
  · rw [if_pos hm]
    exact ⟨0, by simp [Val.zero, real_fin], fun k g _ => by simp [hm]⟩
  · rw [if_neg hm]
    have hbig : 2 ^ 25 ≤ m * 2 ^ 80 / n := by
      rw [Nat.le_div_iff_mul_le (Nat.pos_of_ne_zero hn)]
      calc 2 ^ 25 * n ≤ 1 * 2 ^ 80 := by omega
        _ ≤ m * 2 ^ 80 := Nat.mul_le_mul_right _ (Nat.pos_of_ne_zero hm)
    have habs : 2 * (((m * 2 ^ 80 : ℕ) : ℝ) / n) * 2 ^ (e - f - 81) = m * 2 ^ e / (n * 2 ^ f) := by
      have hpow : (2 : ℝ) ^ (e - f) = 2 * 2 ^ 80 * 2 ^ (e - f - 81) := by
        rw [show (2 : ℝ) * 2 ^ 80 = 2 ^ (81 : ℤ) by norm_num, ← zpow_add₀ (by norm_num)]
        congr 1
        ring
      rw [mul_div_mul_comm, ← zpow_sub₀ (by norm_num), hpow]
      push_cast
      ring
    have hX : ((ratOf s m e / ratOf t n f : ℚ) : ℝ) = if s != t then -(2 * (((m * 2 ^ 80 : ℕ) : ℝ) / n) * 2 ^ (e - f - 81))
        else 2 * (((m * 2 ^ 80 : ℕ) : ℝ) / n) * 2 ^ (e - f - 81) := by
      rw [habs]
      cases s <;> cases t <;> simp [ratOf, neg_div, div_neg]
    exact (cutTo_div (m * 2 ^ 80) hn (e - f - 81)).standsFor hbig (s != t) (fun q => by rw [← hX, Rat.cast_lt]) (fun q => by rw [← hX, Rat.cast_lt])

/-! Roots -/

/-- The loop that finds a root bit by bit. -/
theorem isqrtGo_spec (bits : Nat) {n r : Nat} (hlow : r * r ≤ n) (hhigh : n < (r + 2 ^ bits) * (r + 2 ^ bits)) :
    isqrtGo bits n r * isqrtGo bits n r ≤ n ∧ n < (isqrtGo bits n r + 1) * (isqrtGo bits n r + 1) := by
  induction bits generalizing r with
  | zero => exact ⟨hlow, hhigh⟩
  | succ b ih =>
    unfold isqrtGo
    split_ifs with h
    · refine ih h ?_
      rwa [Nat.add_assoc, ← Nat.two_mul, ← Nat.pow_succ']
    · exact ih hlow (by omega)
theorem isqrt_eq_sqrt (n : Nat) : isqrt n = Nat.sqrt n := by
  have hlog : n < 2 ^ (Nat.log2 n / 2 + 1) * 2 ^ (Nat.log2 n / 2 + 1) := by
    rw [← Nat.pow_add]
    exact Nat.lt_log2_self.trans_le (Nat.pow_le_pow_right (by norm_num) (by omega))
  obtain ⟨hlow, hhigh⟩ := isqrtGo_spec (Nat.log2 n / 2 + 1) (n := n) (r := 0) (by simp) (by simpa using hlog)
  exact Nat.eq_sqrt.2 ⟨hlow, hhigh⟩

/-- The root of y in half units, from that of its integer part. -/
theorem cutTo_sqrt {y : ℝ} (hy : 0 ≤ y) {c : Prop} [Decidable c] (g : Int) (hc : c ↔ (isqrt ⌊y⌋₊ : ℝ) * isqrt ⌊y⌋₊ = y) :
    CutTo (2 * √y * 2 ^ g) (isqrt ⌊y⌋₊) (if c then 0 else 1) g := by
  rw [isqrt_eq_sqrt] at *
  refine cutTo_of_floor g ?_ ?_ ?_
  · refine Real.le_sqrt_of_sq_le (le_trans ?_ (Nat.floor_le hy))
    exact_mod_cast Nat.sqrt_le' _
  · rw [Real.sqrt_lt' (by positivity)]
    refine (Nat.lt_floor_add_one y).trans_le ?_
    exact_mod_cast Nat.lt_succ_sqrt' _
  · rw [hc, eq_comm (b := √y), Real.sqrt_eq_iff_mul_self_eq hy (by positivity), eq_comm]

/-- A cut root stands for the root. -/
theorem CutTo.standsFor_sqrt {a : ℚ} (ha : 0 < a) {r j : Nat} {u : Int} (h : CutTo √(a : ℝ) r j u) (hr : 2 ^ 25 ≤ r) :
    Claims.StandsFor (.fin false (2 * r + j) u) (fun t => 0 < t ∧ a < t * t) (fun t => t ≤ 0 ∨ t * t < a) := by
  have ha' : (0 : ℝ) < √(a : ℝ) := Real.sqrt_pos.2 (by exact_mod_cast ha)
  refine h.standsFor hr false (fun t => ?_) (fun t => ?_)
  · rcases le_or_gt t 0 with ht | ht
    · have : (t : ℝ) ≤ 0 := by exact_mod_cast ht
      simp [ht.not_gt, (this.trans ha'.le)]
    · rw [if_neg (by simp), Real.sqrt_lt' (by exact_mod_cast ht), sq]
      norm_cast
      simp [ht]
  · rcases le_or_gt t 0 with ht | ht
    · have : (t : ℝ) ≤ 0 := by exact_mod_cast ht
      simp [ht, this.trans_lt ha']
    · rw [if_neg (by simp), Real.lt_sqrt (by exact_mod_cast ht.le), sq]
      norm_cast
      simp [ht.not_ge]

/-- The even exponent that a root halves. -/
theorem half_exponent (m : Nat) (e : Int) :
    ((if e % 2 == 1 then 2 * m else m : ℕ) : ℝ) * ((2 : ℝ) ^ ((if e % 2 == 1 then e - 1 else e) / 2)) ^ 2 = m * 2 ^ e := by
  obtain ⟨k, rfl | rfl⟩ := Int.even_or_odd' e
  · have hmod : (2 * k % 2 == 1) = false := by simp
    have hdiv : 2 * k / 2 = k := by omega
    simp only [hmod, Bool.false_eq_true, if_false, hdiv]
    rw [zpow_mul', zpow_ofNat]
  · have hmod : ((2 * k + 1) % 2 == 1) = true := by simp [Int.add_emod]
    have hdiv : (2 * k + 1 - 1) / 2 = k := by omega
    simp only [hmod, if_true, hdiv]
    rw [zpow_add_one₀ (by norm_num), zpow_mul', zpow_ofNat]
    push_cast
    ring

/-- A root scaled by powers of four under the root. -/
theorem sqrt_rescale {z : ℝ} (hz : 0 ≤ z) {k : Int} (p : Nat) {g : Int} (hg : g = k - p - 1) : 2 * √(z * (2 ^ p) ^ 2) * 2 ^ g = √(z * (2 ^ k) ^ 2) := by
  have hpow : (2 : ℝ) ^ k = 2 * 2 ^ p * 2 ^ g := by
    rw [← zpow_natCast, ← zpow_one_add₀ (by norm_num), ← zpow_add₀ (by norm_num), hg]
    congr 1
    ring
  rw [Real.sqrt_mul hz, Real.sqrt_mul hz, Real.sqrt_sq (by positivity), Real.sqrt_sq (by positivity), hpow]
  ring

/-- R139: the square root of an FP32 number. -/
theorem fSqrt_standsFor {m : Nat} {e : Int} (hm : m ≠ 0) :
    Claims.StandsFor (fSqrt (.fin false m e)).1 (fun t => 0 < t ∧ ratOf false m e < t * t) (fun t => t ≤ 0 ∨ t * t < ratOf false m e)
      ∧ (fSqrt (.fin false m e)).2 = 0 := by
  have hhalf := half_exponent m e
  have hpos : 0 < ratOf false m e := (ratOf_pos_iff hm).2 rfl
  have hreal : ((ratOf false m e : ℚ) : ℝ) = m * 2 ^ e := by rw [ratOf_false]; push_cast; rfl
  have hN : 0 < if e % 2 == 1 then 2 * m else m := by split_ifs <;> omega
  simp only [fSqrt, hm, if_false, Bool.false_eq_true, and_true]
  generalize (if e % 2 == 1 then 2 * m else m) = N at hhalf hN ⊢
  generalize (if e % 2 == 1 then e - 1 else e) / 2 = k at hhalf ⊢
  have hcut := cutTo_sqrt (y := ((N * 2 ^ 80 : ℕ) : ℝ)) (by positivity) (k - 41)
    (c := isqrt (N * 2 ^ 80) * isqrt (N * 2 ^ 80) = N * 2 ^ 80) (by rw [Nat.floor_natCast]; norm_cast)
  have hroot : 2 * √((N * 2 ^ 80 : ℕ) : ℝ) * 2 ^ (k - 41) = √((ratOf false m e : ℚ) : ℝ) := by
    rw [hreal, ← hhalf, ← sqrt_rescale (by positivity) 40 (g := k - 41) (by push_cast; ring)]
    push_cast
    norm_num
  rw [Nat.floor_natCast, hroot] at hcut
  refine CutTo.standsFor_sqrt hpos hcut ?_
  rw [isqrt_eq_sqrt, Nat.le_sqrt]
  calc 2 ^ 25 * 2 ^ 25 ≤ 1 * 2 ^ 80 := by norm_num
    _ ≤ N * 2 ^ 80 := Nat.mul_le_mul_right _ hN

/-- R140: the reciprocal root of an FP32 number. -/
theorem fRsq_standsFor {m : Nat} {e : Int} (hm : m ≠ 0) (hm' : m < 2 ^ 24) :
    Claims.StandsFor (fRsq (.fin false m e)).1 (fun t => 0 < t ∧ 1 < t * t * ratOf false m e) (fun t => t ≤ 0 ∨ t * t * ratOf false m e < 1)
      ∧ (fRsq (.fin false m e)).2 = 0 := by
  have hhalf := half_exponent m e
  have hpos : 0 < ratOf false m e := (ratOf_pos_iff hm).2 rfl
  have hreal : ((ratOf false m e : ℚ) : ℝ) = m * 2 ^ e := by rw [ratOf_false]; push_cast; rfl
  have hN : 0 < if e % 2 == 1 then 2 * m else m := by split_ifs <;> omega
  have hN' : (if e % 2 == 1 then 2 * m else m) < 2 ^ 25 := by split_ifs <;> omega
  simp only [fRsq, hm, if_false, Bool.false_eq_true, and_true]
  generalize (if e % 2 == 1 then 2 * m else m) = N at hhalf hN hN' ⊢
  generalize (if e % 2 == 1 then e - 1 else e) / 2 = k at hhalf ⊢
  have hN0 : (0 : ℝ) < N := by exact_mod_cast hN
  have hfloor : ⌊((2 ^ 160 : ℕ) : ℝ) / N⌋₊ = 2 ^ 160 / N := Nat.floor_div_eq_div _ _
  have hcut := cutTo_sqrt (y := ((2 ^ 160 : ℕ) : ℝ) / N) (by positivity) (-k - 81)
    (c := isqrt (2 ^ 160 / N) * isqrt (2 ^ 160 / N) * N = 2 ^ 160) (by
      rw [hfloor, eq_div_iff hN0.ne']
      norm_cast)
  have hroot : 2 * √(((2 ^ 160 : ℕ) : ℝ) / N) * 2 ^ (-k - 81) = √(((ratOf false m e)⁻¹ : ℚ) : ℝ) := by
    have hinv : ((((ratOf false m e)⁻¹ : ℚ)) : ℝ) = (N : ℝ)⁻¹ * (2 ^ (-k)) ^ 2 := by
      rw [Rat.cast_inv, hreal, ← hhalf, mul_inv, zpow_neg, inv_pow]
    rw [hinv, ← sqrt_rescale (by positivity) 80 (g := -k - 81) (by push_cast; ring), div_eq_inv_mul]
    push_cast
    norm_num
  rw [hfloor, hroot] at hcut
  have hbig : 2 ^ 25 ≤ isqrt (2 ^ 160 / N) := by
    rw [isqrt_eq_sqrt, Nat.le_sqrt, Nat.le_div_iff_mul_le hN]
    calc 2 ^ 25 * 2 ^ 25 * N ≤ 2 ^ 25 * 2 ^ 25 * 2 ^ 25 := Nat.mul_le_mul_left _ hN'.le
      _ ≤ 2 ^ 160 := by norm_num
  have hstands := CutTo.standsFor_sqrt (inv_pos.2 hpos) hcut hbig
  simp only [← one_div, div_lt_iff₀ hpos, lt_div_iff₀ hpos] at hstands
  exact hstands

end Sys2Proof.Machine
end

section
/-! SUPPORT. The special functions where their result is a rational number, and at the special operands; with the statement on them. -/
namespace Sys2Proof.Machine

/-- The binary magnitude of a number. -/
theorem log2_bounds {m : Nat} (hm : m ≠ 0) (e : Int) :
    (2 : ℚ) ^ Val.log2 m e ≤ ratOf false m e ∧ ratOf false m e < 2 ^ (Val.log2 m e + 1) := by
  have hlow : (2 : ℚ) ^ Nat.log2 m ≤ m := by exact_mod_cast Nat.log2_self_le hm
  have hhigh : (m : ℚ) < 2 ^ (Nat.log2 m + 1) := by exact_mod_cast Nat.lt_log2_self
  rw [Val.log2, ratOf_false, add_right_comm, zpow_add₀ (by norm_num), zpow_add₀ (by norm_num)]
  have hexp : (2 : ℚ) ^ ((Nat.log2 m : ℤ) + 1) = 2 ^ (Nat.log2 m + 1) := by norm_cast
  rw [zpow_natCast, hexp]
  exact ⟨by gcongr, by gcongr⟩

/-! Fixed point: halves -/

/-- One half in fixed point. -/
def fxHalf : Nat := 2 ^ (fxBits - 1)
theorem fxHalf_pos : 0 < fxHalf := Nat.two_pow_pos _
theorem fxOne_eq : fxOne = 2 * fxHalf := by
  have hbits : fxBits ≠ 0 := by decide
  unfold fxOne fxHalf
  generalize fxBits = b at hbits ⊢
  exact (mul_pow_sub_one hbits 2).symm
theorem fxOne_ne_zero : fxOne ≠ 0 := by
  rw [fxOne_eq]
  exact (Nat.mul_pos (by norm_num) fxHalf_pos).ne'
theorem two_zpow_toNat {e : Int} (he : -640 ≤ e) : (2 : ℚ) ^ (e + fxBits).toNat = 2 * 2 ^ e * fxHalf := by
  have hbits : 0 ≤ e + fxBits ∧ 1 ≤ fxBits := by constructor <;> simp only [fxBits] <;> omega
  unfold fxHalf
  generalize fxBits = b at hbits ⊢
  rw [Nat.cast_pow, Nat.cast_ofNat, ← zpow_natCast, ← zpow_natCast, ← zpow_one_add₀ (by norm_num), ← zpow_add₀ (by norm_num)]
  congr 1
  omega
/-- A multiple of one half in fixed point. -/
theorem fxOf_halves {m c : Nat} {e : Int} (he : -640 ≤ e) (h : 2 * ratOf false m e = c) : fxOf m e = c * fxHalf := by
  have hexp : 0 ≤ e + fxBits := by simp only [fxBits]; omega
  rw [fxOf, if_pos hexp]
  have hcast : ((m * 2 ^ (e + fxBits).toNat : ℕ) : ℚ) = ((c * fxHalf : ℕ) : ℚ) := by
    push_cast
    rw [← h, ratOf_false, two_zpow_toNat he]
    ring
  exact_mod_cast hcast
/-- A multiple of one half modulo 2: only the count modulo 4 matters. -/
theorem halfTurns_halves {m c : Nat} {e : Int} (he : -640 ≤ e) (h : 2 * ratOf false m e = c) : halfTurns m e = c % 4 * fxHalf := by
  unfold halfTurns
  split_ifs with h1
  · have hc : c = 4 * (m * 2 ^ (e - 1).toNat) := by
      have hpow : (2 : ℚ) ^ e = 2 * 2 ^ (e - 1).toNat := by
        rw [← zpow_natCast, ← zpow_one_add₀ (by norm_num)]
        congr 1
        omega
      rw [ratOf_false, hpow] at h
      have : (c : ℚ) = ((4 * (m * 2 ^ (e - 1).toNat) : ℕ) : ℚ) := by
        rw [← h]
        push_cast
        ring
      exact_mod_cast this
    rw [hc, Nat.mul_mod_right, Nat.zero_mul]
  · rw [fxOf_halves he h, fxOne_eq, ← Nat.mul_assoc, Nat.mul_mod_mul_right]

/-- sin(pi x) at the multiples of one half. -/
theorem sinTurn_halves {i : Nat} (hi : i < 4) :
    sinTurn (i * fxHalf) = (decide (2 ≤ i), if i % 2 = 0 then 0 else fxOne, true) := by
  have hpos := fxHalf_pos
  unfold sinTurn
  rw [fxOne_eq, Nat.mul_mod_mul_right]
  generalize fxHalf = H at hpos
  interval_cases i
  · simp [hpos.ne']
  · have : ¬ 2 * H ≤ H := by omega
    simp [hpos.ne', this]
  · simp
  · have : 2 * H ≤ 3 * H := by omega
    simp [hpos.ne', this]
/-- R140: sin(pi a) where 2|a| is a natural number c. -/
theorem fSin_halves {s : Bool} {m c : Nat} {e : Int} (he : -640 ≤ e) (h : 2 * ratOf false m e = c) :
    fSin (.fin s m e) = (if c % 2 = 0 then .zero s else .fin (s != decide (2 ≤ c % 4)) 1 0, 0) := by
  unfold fSin
  dsimp only
  rw [halfTurns_halves he h, sinTurn_halves (Nat.mod_lt _ (by norm_num)), Nat.mod_mod_of_dvd c (by norm_num : 2 ∣ 4)]
  by_cases hm : m = 0
  · have hc : c = 0 := by simpa [hm] using h.symm
    simp [hm, hc]
  · by_cases hc : c % 2 = 0
    · simp [hm, hc]
    · simp [hm, hc, fxOne_ne_zero]
/-- cos(pi a) of a turn whose sine is exact. The turn is named before the value is taken apart: the kernel would evaluate it. -/
theorem fCos_of_turn {v : Val} {s n : Bool} {m x : Nat} {e : Int} (hv : v = .fin s m e)
    (hturn : sinTurn ((halfTurns m e + fxOne / 2) % (2 * fxOne)) = (n, x, true)) :
    fCos v = (if x = 0 then .zero false else .fin n 1 0, 0) := by
  have hnamed : ∃ turn : Nat → Int → Bool × Nat × Bool, ∀ m e, sinTurn ((halfTurns m e + fxOne / 2) % (2 * fxOne)) = turn m e :=
    ⟨_, fun _ _ => rfl⟩
  obtain ⟨turn, hnamed⟩ := hnamed
  rw [hnamed] at hturn
  delta fCos
  conv =>
    lhs
    arg 5
    intro s m e
    rw [hnamed]
  subst hv
  simp only [hturn, if_true]
/-- R140: cos(pi a) where 2|a| is a natural number c. -/
theorem fCos_halves {s : Bool} {m c : Nat} {e : Int} (he : -640 ≤ e) (h : 2 * ratOf false m e = c) :
    fCos (.fin s m e) = (if c % 2 = 0 then .fin (decide (2 ≤ c % 4)) 1 0 else .zero false, 0) := by
  have hquarter : (c % 4 * fxHalf + 2 * fxHalf / 2) % (2 * (2 * fxHalf)) = (c + 1) % 4 * fxHalf := by
    generalize fxHalf = H
    rw [Nat.mul_div_cancel_left _ (by norm_num), ← Nat.mul_assoc, ← Nat.succ_mul, Nat.mul_mod_mul_right]
    congr 1
    omega
  have hturn : sinTurn ((halfTurns m e + fxOne / 2) % (2 * fxOne)) = (decide (2 ≤ (c + 1) % 4), if (c + 1) % 2 = 0 then 0 else fxOne, true) := by
    rw [halfTurns_halves he h, fxOne_eq, hquarter, sinTurn_halves (Nat.mod_lt _ (by norm_num)), Nat.mod_mod_of_dvd _ (by norm_num : 2 ∣ 4), fxOne_eq]
  rw [fCos_of_turn rfl hturn]
  by_cases hc : c % 2 = 0
  · have hodd : (c + 1) % 2 = 1 := by omega
    have hturned : 2 ≤ (c + 1) % 4 ↔ 2 ≤ c % 4 := by omega
    simp [hc, hodd, hturned, fxOne_ne_zero]
  · have heven : (c + 1) % 2 = 0 := by omega
    simp [hc, heven]

/-! Exact arguments (R140) -/

/-- R140: 2^a at an integer. -/
theorem fExp2_int {s : Bool} {m : Nat} {e k : Int} (he : -640 ≤ e) (h : ratOf s m e = k) (hk : |k| < 512) :
    Claims.real (fExp2 (.fin s m e)).1 = some (2 ^ k) ∧ (fExp2 (.fin s m e)).2 = 0 := by
  by_cases hm : m = 0
  · obtain rfl : k = 0 := by simpa [hm, eq_comm] using h
    simp [fExp2, hm, real_fin, ratOf]
  · have habs : ratOf false m e = k.natAbs := by rw [← abs_ratOf s, h, Nat.cast_natAbs, Int.cast_abs]
    have hlog : Val.log2 m e < 9 := by
      have hlt : (2 : ℚ) ^ Val.log2 m e < 2 ^ (9 : ℤ) := by
        refine (log2_bounds hm e).1.trans_lt ?_
        rw [habs, Nat.cast_natAbs]
        norm_num
        exact_mod_cast hk
      exact (zpow_lt_zpow_iff_right₀ (by norm_num)).1 hlt
    have hfx : fxOf m e = k.natAbs * fxOne := by
      rw [fxOf_halves he (c := 2 * k.natAbs) (by rw [habs]; push_cast; rfl), fxOne_eq]
      ring
    have hsign : (if s then -(k.natAbs : Int) else k.natAbs) = k := by
      have hneg := ratOf_neg_iff (s := s) (e := e) hm
      rw [h] at hneg
      norm_cast at hneg
      split_ifs with hs
      · have := hneg.2 hs
        omega
      · have := mt hneg.1 hs
        omega
    unfold fExp2
    dsimp only
    rw [if_neg hm, if_neg (by omega), hfx, Nat.mul_mod_left, if_pos rfl, Nat.mul_div_cancel _ (Nat.pos_of_ne_zero fxOne_ne_zero), hsign, real_fin,
      ratOf_false]
    simp
/-- R140: log2 of a power of two. -/
theorem fLog2_pow {s : Bool} {m : Nat} {e k : Int} (h : ratOf s m e = 2 ^ k) : fLog2 (.fin s m e) = (Val.ofInt k, 0) := by
  have hpow : (0 : ℚ) < 2 ^ k := by positivity
  have hm : m ≠ 0 := fun h0 => by
    rw [h0, ratOf_zero] at h
    exact hpow.ne h
  obtain rfl : s = false := (ratOf_pos_iff hm).1 (h ▸ hpow)
  obtain ⟨hlow, hhigh⟩ := log2_bounds hm e
  rw [h, zpow_le_zpow_iff_right₀ (by norm_num)] at hlow
  rw [h, zpow_lt_zpow_iff_right₀ (by norm_num)] at hhigh
  have hk : Val.log2 m e = k := by omega
  have hexact : m = 2 ^ Nat.log2 m := by
    rw [ratOf_false, ← hk, Val.log2, zpow_add₀ (by norm_num), zpow_natCast, mul_left_inj' (by positivity)] at h
    exact_mod_cast h
  unfold fLog2
  dsimp only
  rw [if_neg hm, if_neg (by simp), if_pos hexact, hk]

/-- A number whose double is an integer. -/
theorem twice_abs {s : Bool} {m : Nat} {e z : Int} (h : 2 * ratOf s m e = z) : 2 * ratOf false m e = z.natAbs := by
  rw [← abs_ratOf s, Nat.cast_natAbs, Int.cast_abs, ← h, abs_mul, abs_two]
/-- R140: the special functions at the zeros. -/
theorem special_zero (s : Bool) (e : Int) :
    fRcp (.fin s 0 e) = (.inf s, flagDZ) ∧ fRsq (.fin s 0 e) = (.inf s, flagDZ) ∧ fLog2 (.fin s 0 e) = (.inf true, flagDZ)
      ∧ fSin (.fin s 0 e) = (.zero s, 0) ∧ fTanh (.fin s 0 e) = (.zero s, 0) ∧ Claims.real (fSigm (.fin s 0 e)).1 = some (1 / 2)
      ∧ (fSigm (.fin s 0 e)).2 = 0 := by
  refine ⟨?_, rfl, rfl, rfl, rfl, ?_, rfl⟩
  · cases s <;> rfl
  · have hhalf : ratOf false 1 (-1) = 1 / 2 := by norm_num [ratOf]
    rw [← hhalf]
    rfl
/-- R140: the sine and the cosine at the integers. -/
theorem turns_int {s : Bool} {m : Nat} {e k : Int} (he : -640 ≤ e) (h : ratOf s m e = k) :
    fSin (.fin s m e) = (.zero s, 0) ∧ Claims.real (fCos (.fin s m e)).1 = some (if k % 2 = 0 then 1 else -1) ∧ (fCos (.fin s m e)).2 = 0 := by
  have hc := twice_abs (s := s) (m := m) (e := e) (z := 2 * k) (by rw [h]; push_cast; ring)
  have heven : (2 * k).natAbs % 2 = 0 := by omega
  rw [fSin_halves he hc, fCos_halves he hc, if_pos heven, if_pos heven]
  refine ⟨rfl, ?_, rfl⟩
  rw [real_fin]
  split_ifs with hk
  · have : ¬ 2 ≤ (2 * k).natAbs % 4 := by omega
    simp [this, ratOf]
  · have : 2 ≤ (2 * k).natAbs % 4 := by omega
    simp [this, ratOf]
/-- R140: the sine and the cosine halfway between the integers. -/
theorem turns_half {s : Bool} {m : Nat} {e k : Int} (he : -640 ≤ e) (h : ratOf s m e = k + 1 / 2) :
    fCos (.fin s m e) = (.zero false, 0) ∧ Claims.real (fSin (.fin s m e)).1 = some (if k % 2 = 0 then 1 else -1) ∧ (fSin (.fin s m e)).2 = 0 := by
  have hc := twice_abs (s := s) (m := m) (e := e) (z := 2 * k + 1) (by rw [h]; push_cast; ring)
  have hodd : ¬ (2 * k + 1).natAbs % 2 = 0 := by omega
  have hm : m ≠ 0 := by
    rintro rfl
    rw [ratOf_zero, mul_zero] at hc
    have : (2 * k + 1).natAbs = 0 := by exact_mod_cast hc.symm
    omega
  have hsign : s = decide (k < 0) := by
    have hneg := ratOf_neg_iff (s := s) (e := e) hm
    have hk : ratOf s m e < 0 ↔ k < 0 := by
      rw [h]
      constructor
      · intro hlt
        have : (k : ℚ) < 0 := by linarith
        exact_mod_cast this
      · intro hlt
        have : (k : ℚ) ≤ -1 := by exact_mod_cast (by omega : k ≤ -1)
        linarith
    rw [Bool.eq_iff_iff, decide_eq_true_iff, ← hneg, hk]
  rw [fSin_halves he hc, fCos_halves he hc, if_neg hodd, if_neg hodd]
  refine ⟨rfl, ?_, rfl⟩
  have hflip : (s != decide (2 ≤ (2 * k + 1).natAbs % 4)) = !decide (k % 2 = 0) := by
    rw [hsign, Bool.eq_iff_iff]
    simp only [bne_iff_ne, ne_eq, decide_eq_decide, Bool.not_eq_true', decide_eq_false_iff_not]
    omega
  rw [real_fin, hflip]
  by_cases hk : k % 2 = 0
  · simp [hk, ratOf]
  · simp [hk, ratOf]

/-- R139, R140: the quotient and the special functions. -/
theorem specialFunctions : Claims.SpecialFunctions := by
  refine ⟨fun u v a b hu hv => ?_, fun s => ?_, ?_⟩
  · obtain ⟨s, m, e, hx, rfl, hm24, he⟩ := ofFp32_fin hu
    obtain ⟨t, n, f, hy, rfl, hn24, -⟩ := ofFp32_fin hv
    rw [hx, hy]
    dsimp only
    simp only [ne_eq, ratOf_eq_zero]
    have hone : ratOf false 1 0 = 1 := by simp [ratOf]
    refine ⟨fun hn => fDiv_standsFor hn hn24, fun hm => ⟨?_, (fDiv_fin hm).1⟩, fun hpos => ?_, fun hneg => ?_, ?_, fun k hk => ⟨?_, ?_, ?_⟩, fun k hk => ⟨?_, ?_⟩,
      fun k hk => fLog2_pow hk⟩
    · rw [← hone]
      exact fDiv_standsFor hm hm24
    · have hm : m ≠ 0 := fun h => by simp [h] at hpos
      rw [(ratOf_pos_iff hm).1 hpos]
      exact ⟨(fSqrt_standsFor hm).1, (fSqrt_standsFor hm).2, (fRsq_standsFor hm hm24).1, (fRsq_standsFor hm hm24).2⟩
    · have hm : m ≠ 0 := fun h => by simp [h] at hneg
      rw [(ratOf_neg_iff hm).1 hneg]
      simp [fRsq, fLog2, hm]
    · rintro rfl
      exact special_zero s e
    · exact fun hsmall => fExp2_int (by omega) hk hsmall
    · exact (turns_int (by omega) hk).1
    · exact (turns_int (by omega) hk).2
    · exact (turns_half (by omega) hk).1
    · exact (turns_half (by omega) hk).2
  · have hone : ratOf false 1 0 = 1 := by simp [ratOf]
    have hminus : ratOf true 1 0 = -1 := by rw [ratOf_true, hone]
    cases s
    · exact ⟨rfl, rfl, rfl, rfl, rfl, rfl, congrArg some hone, rfl, congrArg some hone, rfl, rfl⟩
    · exact ⟨rfl, rfl, rfl, rfl, rfl, rfl, congrArg some hminus, rfl, congrArg some (ratOf_zero false 0), rfl, rfl⟩
  · exact ⟨rfl, rfl, rfl, rfl, rfl, rfl, rfl, rfl⟩

end Sys2Proof.Machine
end

section
/-! SUPPORT. The float and scale formats: what an element decodes to, and how a number is rounded to one; with the obligation on the float
words. -/
namespace Sys2Proof.Machine

/-! The ladder of magnitudes (R46) -/

/-- Where n units of 2^(k + 1 - b - m) stand on the ladder: at code k x 2^m + n. A leading bit of n counts into the exponent. -/
theorem magnitude_code {m b k n : Nat} (hsub : n < 2 ^ m → k = 0) (hn : n ≤ 2 ^ (m + 1)) :
    Claims.magnitude m b (k * 2 ^ m + n) = n * (2 : ℚ) ^ ((k : ℤ) + 1 - b - m) := by
  have hpos : 0 < 2 ^ m := Nat.two_pow_pos m
  rw [Nat.pow_succ'] at hn
  unfold Claims.magnitude
  rcases lt_or_ge n (2 ^ m) with h | h
  · rw [hsub h, Nat.zero_mul, Nat.zero_add, if_pos h, Nat.div_eq_of_lt h]
    congr 2
  · have hcode : ¬ k * 2 ^ m + n < 2 ^ m := by omega
    rw [if_neg hcode]
    rcases Nat.lt_or_ge n (2 * 2 ^ m) with h' | h'
    · have hdiv : (k * 2 ^ m + n) / 2 ^ m = k + 1 := by
        rw [Nat.mul_comm, Nat.mul_add_div hpos, Nat.div_eq_of_lt_le (k := 1) (by omega) (by omega)]
      have hmod : (k * 2 ^ m + n) % 2 ^ m = n - 2 ^ m := by
        rw [Nat.mul_comm, Nat.mul_add_mod, Nat.mod_eq_sub_mod h, Nat.mod_eq_of_lt (by omega)]
      rw [hdiv, hmod, Nat.add_sub_cancel' h, max_eq_left (by omega)]
      push_cast
      rfl
    · obtain rfl : n = 2 * 2 ^ m := by omega
      have hcode' : k * 2 ^ m + 2 * 2 ^ m = (k + 2) * 2 ^ m := by ring
      rw [hcode', Nat.mul_div_cancel _ hpos, Nat.mul_mod_left, max_eq_left (by omega)]
      have hexp : ((k : ℤ) + 2 - b - m) = 1 + (k + 1 - b - m) := by ring
      push_cast
      rw [hexp, zpow_one_add₀ (by norm_num)]
      ring
/-- Every code is reached so. -/
theorem code_split (m c : Nat) : ∃ k n, c = k * 2 ^ m + n ∧ (n < 2 ^ m → k = 0) ∧ n < 2 ^ (m + 1) := by
  have hpos : 0 < 2 ^ m := Nat.two_pow_pos m
  rw [Nat.pow_succ']
  rcases Nat.lt_or_ge c (2 ^ m) with h | h
  · exact ⟨0, c, by simp, fun _ => rfl, by omega⟩
  · have hdiv : 1 ≤ c / 2 ^ m := (Nat.one_le_div_iff hpos).2 h
    have hmod := Nat.mod_lt c hpos
    refine ⟨c / 2 ^ m - 1, 2 ^ m + c % 2 ^ m, ?_, fun hlt => absurd hlt (by omega), by omega⟩
    obtain ⟨d, hd⟩ := Nat.exists_eq_add_of_le' hdiv
    have hsplit := Nat.div_add_mod c (2 ^ m)
    rw [hd] at hsplit ⊢
    rw [Nat.add_sub_cancel]
    linarith
/-- R46: magnitudes rise with their code. -/
theorem magnitude_strictMono (m b : Nat) : StrictMono (Claims.magnitude m b) := by
  refine strictMono_nat_of_lt_succ fun c => ?_
  obtain ⟨k, n, rfl, hsub, hn⟩ := code_split m c
  rw [Nat.add_assoc, magnitude_code hsub hn.le, magnitude_code (fun h => hsub (by omega)) hn]
  gcongr
  exact Nat.lt_succ_self n

/-! Decoding (R46) -/

theorem real_fin_mul (s : Bool) (m : Nat) (e : Int) : Claims.real (.fin s m e) = some ((if s then -1 else 1) * ((m : ℚ) * 2 ^ e)) := by
  rw [real_fin, ratOf, mul_assoc]
/-- The value of a magnitude code. -/
theorem magVal_spec (p : FloatFmt) (b : Nat) (hb : p.bias = b) (neg : Bool) (c : Nat) :
    Claims.real (magVal p neg c) = some ((if neg then -1 else 1) * Claims.magnitude p.mbits b c) ∧ (magVal p neg c).sign = neg := by
  unfold magVal Claims.magnitude
  dsimp only
  rw [hb]
  have hzero : c / 2 ^ p.mbits = 0 ↔ c < 2 ^ p.mbits := Nat.div_eq_zero_iff_lt (Nat.two_pow_pos _)
  by_cases hlt : c < 2 ^ p.mbits
  · rw [if_pos (hzero.2 hlt), if_pos hlt, hzero.2 hlt, Nat.mod_eq_of_lt hlt]
    by_cases hc : c = 0
    · rw [if_pos hc, Val.zero, real_fin_mul, hc]
      exact ⟨by simp, rfl⟩
    · rw [if_neg hc, real_fin_mul]
      exact ⟨rfl, rfl⟩
  · have hone : 1 ≤ c / 2 ^ p.mbits := Nat.one_le_iff_ne_zero.2 (mt hzero.1 hlt)
    rw [if_neg (mt hzero.1 hlt), if_neg hlt, max_eq_left hone, real_fin_mul]
    exact ⟨rfl, rfl⟩

/-! Rounding (R61) -/

/-- Where x lies between two neighbours. -/
def Rest.Fits (r : Rest) (lo hi x : ℚ) : Prop :=
  match r with
  | .exact => x = lo
  | .low => lo < x ∧ x < (lo + hi) / 2
  | .half => x = (lo + hi) / 2
  | .high => (lo + hi) / 2 < x ∧ x < hi

theorem Rest.Fits.bounds {r : Rest} {lo hi x : ℚ} (h : r.Fits lo hi x) (hlt : lo < hi) : lo ≤ x ∧ x < hi := by
  cases r with
  | exact => exact ⟨h.ge, h.trans_lt hlt⟩
  | low => exact ⟨h.1.le, by linarith [h.2]⟩
  | half => exact ⟨by linarith [h.ge], by linarith [h.le]⟩
  | high => exact ⟨by linarith [h.1], h.2⟩
/-- Only an exact cut loses nothing. -/
theorem Rest.Fits.exact_iff {r : Rest} {lo hi x : ℚ} (h : r.Fits lo hi x) (hlt : lo < hi) : r = .exact ↔ x = lo := by
  cases r with
  | exact => exact ⟨fun _ => h, fun _ => rfl⟩
  | low => exact ⟨nofun, fun e => absurd e h.1.ne'⟩
  | half => exact ⟨nofun, fun e => absurd (h.symm.trans e) (by linarith)⟩
  | high => exact ⟨nofun, fun e => absurd (e ▸ h.1) (by linarith)⟩

/-- Where 2Hn + r units lie between 2Hn and 2H(n + 1), by the remainder. -/
theorem rest_fits {n r H : Nat} (hr : r < 2 * H) {w : ℚ} (hw : 0 < w) :
    (if r = 0 then Rest.exact else if r < H then .low else if r = H then .half else .high).Fits
      (n * (2 * H * w)) ((n + 1 : ℕ) * (2 * H * w)) ((2 * H * n + r : ℕ) * w) := by
  have hlo : (n : ℚ) * (2 * H * w) = (2 * H * n : ℕ) * w := by push_cast; ring
  have hhi : ((n + 1 : ℕ) : ℚ) * (2 * H * w) = (2 * H * n + 2 * H : ℕ) * w := by push_cast; ring
  have hmid : ((2 * H * n : ℕ) * w + (2 * H * n + 2 * H : ℕ) * w) / 2 = (2 * H * n + H : ℕ) * w := by push_cast; ring
  rw [hlo, hhi]
  split_ifs with h0 hlow hhalf <;> simp only [Rest.Fits, hmid, mul_lt_mul_iff_left₀ hw, Nat.cast_lt]
  · rw [h0, Nat.add_zero]
  · omega
  · rw [hhalf]
  · omega
/-- A magnitude cut to a multiple of 2^q. -/
theorem cutAt_fits (m : Nat) (e q : Int) :
    (cutAt m e q).2.Fits ((cutAt m e q).1 * 2 ^ q) (((cutAt m e q).1 + 1 : ℕ) * 2 ^ q) (ratOf false m e) := by
  unfold cutAt
  rw [ratOf_false]
  by_cases hq : q ≤ e
  · rw [if_pos hq]
    have hpow : (2 : ℚ) ^ e = 2 ^ (e - q).toNat * 2 ^ q := by
      rw [← zpow_natCast, ← zpow_add₀ (by norm_num)]
      congr 1
      omega
    change (m : ℚ) * 2 ^ e = ((m * 2 ^ (e - q).toNat : ℕ) : ℚ) * 2 ^ q
    rw [hpow]
    push_cast
    ring
  · rw [if_neg hq]
    dsimp only
    obtain ⟨k, hk⟩ : ∃ k, (q - e).toNat = k + 1 := ⟨(q - e).toNat - 1, by omega⟩
    have hw : (0 : ℚ) < 2 ^ e := by positivity
    have hpow : (2 : ℚ) ^ q = 2 * (2 ^ k : ℕ) * 2 ^ e := by
      rw [Nat.cast_pow, Nat.cast_ofNat, ← zpow_natCast, ← zpow_one_add₀ (by norm_num), ← zpow_add₀ (by norm_num)]
      congr 1
      omega
    rw [hk, Nat.add_sub_cancel, hpow]
    by_cases hsmall : Nat.log2 m + 1 < k + 1
    · have hlt : m < 2 ^ k := Nat.lt_log2_self.trans_le (Nat.pow_le_pow_right (by norm_num) (by omega))
      have hrest := rest_fits (n := 0) (r := m) (H := 2 ^ k) (by omega) hw
      rw [if_pos hlt] at hrest
      rw [if_pos hsmall]
      simpa using hrest
    · have hrest := rest_fits (n := m / 2 ^ (k + 1)) (r := m % 2 ^ (k + 1)) (H := 2 ^ k) (by rw [← Nat.pow_succ']; exact Nat.mod_lt _ (Nat.two_pow_pos _)) hw
      rw [← Nat.pow_succ', Nat.div_add_mod] at hrest
      rw [if_neg hsmall]
      exact hrest

/-! Picking a neighbour (R61) -/

/-- R61: to nearest, ties to the even code. -/
theorem roundsUp_nearest (neg odd : Bool) (r : Rest) : roundsUp 0 neg r odd = (r == .high || (r == .half && odd)) := by
  cases r <;> rfl
/-- R61: toward zero. -/
theorem roundsUp_towardZero {mode : BitVec 2} {neg : Bool} (h : Claims.TowardZero mode neg) (r : Rest) (odd : Bool) :
    roundsUp mode neg r odd = false := by
  rcases h with rfl | ⟨rfl, rfl⟩ | ⟨rfl, rfl⟩ <;> cases r <;> rfl
/-- R61: away from zero. -/
theorem roundsUp_away {mode : BitVec 2} {neg : Bool} (h0 : mode ≠ 0) (h : ¬ Claims.TowardZero mode neg) (r : Rest) (odd : Bool) :
    roundsUp mode neg r odd = (r != .exact) := by
  have hmodes : mode = 2 ∧ neg = true ∨ mode = 3 ∧ neg = false := by
    unfold Claims.TowardZero at h
    revert mode neg
    decide
  rcases hmodes with ⟨rfl, rfl⟩ | ⟨rfl, rfl⟩ <;> cases r <;> rfl

/-- Of a rising ladder, the neighbour of x that is not further away is the nearest, and only at equal distances is there another. -/
theorem nearest_of_neighbour {cand : Nat → ℚ} (hmono : StrictMono cand) {c c' : Nat} {x : ℚ} (hlow : cand c ≤ x) (hhigh : x < cand (c + 1))
    (hnear : c' = c ∧ x - cand c ≤ cand (c + 1) - x ∨ c' = c + 1 ∧ cand (c + 1) - x ≤ x - cand c)
    (htie : x - cand c = cand (c + 1) - x → c' % 2 = 0) (k : Nat) :
    |cand c' - x| ≤ |cand k - x| ∧ (k ≠ c' → |cand k - x| = |cand c' - x| → c' % 2 = 0) := by
  have hdistLow : |cand c - x| = x - cand c := by rw [abs_of_nonpos (by linarith)]; ring
  have hdistHigh : |cand (c + 1) - x| = cand (c + 1) - x := abs_of_nonneg (by linarith)
  rcases Nat.lt_or_ge c k with hk | hk
  · have hle := hmono.monotone hk
    have hne : k ≠ c + 1 → cand (c + 1) < cand k := fun hne => hmono (lt_of_le_of_ne hk (Ne.symm hne))
    rw [abs_of_nonneg (by linarith : 0 ≤ cand k - x)]
    rcases hnear with ⟨rfl, hd⟩ | ⟨rfl, hd⟩
    · rw [hdistLow]
      exact ⟨by linarith, fun _ heq => htie (by linarith)⟩
    · rw [hdistHigh]
      exact ⟨by linarith, fun hk' heq => absurd (hne hk') (by linarith)⟩
  · have hle := hmono.monotone hk
    have hne : k ≠ c → cand k < cand c := fun hne => hmono (lt_of_le_of_ne hk hne)
    rw [abs_of_nonpos (by linarith : cand k - x ≤ 0)]
    rcases hnear with ⟨rfl, hd⟩ | ⟨rfl, hd⟩
    · rw [hdistLow]
      exact ⟨by linarith, fun hk' heq => absurd (hne hk') (by linarith)⟩
    · rw [hdistHigh]
      exact ⟨by linarith, fun _ heq => htie (by linarith)⟩
/-- A number between two neighbours of a rising ladder is rounded as R61 has it. -/
theorem Rest.Fits.rounds {cand : Nat → ℚ} (hmono : StrictMono cand) {r : Rest} {c : Nat} {x : ℚ} (h : r.Fits (cand c) (cand (c + 1)) x)
    (mode : BitVec 2) (neg : Bool) :
    Claims.Rounds cand mode neg x (if roundsUp mode neg r (c % 2 == 1) then c + 1 else c) := by
  have hstep := hmono (Nat.lt_succ_self c)
  obtain ⟨hlow, hhigh⟩ := h.bounds hstep
  refine ⟨?_, fun hzero => ?_, fun hmode haway => ?_⟩
  · rintro rfl
    have hnear := fun c' => nearest_of_neighbour (c' := c') hmono hlow hhigh
    rw [roundsUp_nearest]
    cases r with
    | exact =>
      have hx : x = cand c := h
      exact hnear c (.inl ⟨rfl, by linarith⟩) fun he => absurd he (by linarith)
    | low => exact hnear c (.inl ⟨rfl, by linarith [h.2]⟩) fun he => absurd he (by linarith [h.2])
    | half =>
      have hx : x = (cand c + cand (c + 1)) / 2 := h
      rcases Nat.mod_two_eq_zero_or_one c with hc | hc
      · rw [hc]
        exact hnear c (.inl ⟨rfl, by linarith⟩) fun _ => hc
      · rw [hc]
        exact hnear (c + 1) (.inr ⟨rfl, by linarith⟩) fun _ => by omega
    | high => exact hnear (c + 1) (.inr ⟨rfl, by linarith [h.1]⟩) fun he => absurd he (by linarith [h.1])
  · rw [roundsUp_towardZero hzero]
    exact ⟨hlow, hhigh⟩
  · rw [roundsUp_away hmode haway]
    by_cases hexact : r = .exact
    · rw [hexact]
      have hx := (h.exact_iff hstep).1 hexact
      exact ⟨hx.le, fun k hk => hx ▸ hmono hk⟩
    · have hx : cand c < x := lt_of_le_of_ne hlow fun e => hexact ((h.exact_iff hstep).2 e.symm)
      have hup : (r != .exact) = true := by simpa using hexact
      rw [hup, if_pos rfl]
      exact ⟨hhigh.le, fun k hk => (hmono.monotone (Nat.lt_succ_iff.1 hk)).trans_lt hx⟩

/-! Rounding to a format (R64) -/

/-- The code of n units of 2^(k + 1 - b - m). -/
theorem magCode_code {p : FloatFmt} {b k n : Nat} (hb : p.bias = b) (hsub : n < 2 ^ p.mbits → k = 0) :
    magCode p n ((k : Int) + 1 - b - p.mbits) = (k * 2 ^ p.mbits + n : ℕ) := by
  unfold magCode
  split_ifs with h
  · rw [hsub h]
    simp
  · rw [hb]
    push_cast
    ring

/-- The units in which a number is cut have m + 1 bits at most, and m + 1 bits where the exponent is its own. -/
theorem units_bounds {M m n : Nat} (hm : m ≠ 0) {e q : Int} (hq : Val.log2 m e - M ≤ q) (hlow : (n : ℚ) * 2 ^ q ≤ ratOf false m e)
    (hhigh : ratOf false m e < (n + 1 : ℕ) * 2 ^ q) : n < 2 ^ (M + 1) ∧ (q = Val.log2 m e - M → 2 ^ M ≤ n) := by
  obtain ⟨hlog, hlog'⟩ := log2_bounds hm e
  have hq0 : (0 : ℚ) < 2 ^ q := by positivity
  constructor
  · have hpow : (2 : ℚ) ^ (Val.log2 m e + 1) ≤ (2 ^ (M + 1) : ℕ) * 2 ^ q := by
      rw [Nat.cast_pow, Nat.cast_ofNat, ← zpow_natCast, ← zpow_add₀ (by norm_num)]
      exact zpow_le_zpow_right₀ (by norm_num) (by push_cast; omega)
    have hlt := (hlow.trans_lt hlog').trans_le hpow
    rw [mul_lt_mul_iff_left₀ hq0] at hlt
    exact_mod_cast hlt
  · rintro rfl
    have hpow : (2 : ℚ) ^ Val.log2 m e = (2 ^ M : ℕ) * 2 ^ (Val.log2 m e - M) := by
      rw [Nat.cast_pow, Nat.cast_ofNat, ← zpow_natCast, ← zpow_add₀ (by norm_num)]
      congr 1
      ring
    have hlt := hlog.trans_lt hhigh
    rw [hpow, mul_lt_mul_iff_left₀ hq0] at hlt
    exact Nat.lt_succ_iff.1 (by exact_mod_cast hlt)

/-- Rounding a magnitude: it lies between two neighbours of the ladder, and the mode picks one. -/
theorem roundMag_spec (p : FloatFmt) {b : Nat} (hb : p.bias = b) (mode : BitVec 2) (neg : Bool) {m : Nat} (hm : m ≠ 0) (e : Int) :
    ∃ (c : Nat) (r : Rest), r.Fits (Claims.magnitude p.mbits b c) (Claims.magnitude p.mbits b (c + 1)) (ratOf false m e)
      ∧ roundMag p mode neg m e = (((if roundsUp mode neg r (c % 2 == 1) then c + 1 else c : ℕ) : Int), r != .exact) := by
  unfold roundMag
  dsimp only
  rw [hb]
  obtain ⟨k, hk⟩ : ∃ k : Nat, max (Val.log2 m e - p.mbits) (1 - (b : Int) - p.mbits) = (k : Int) + 1 - b - p.mbits :=
    ⟨(max (Val.log2 m e - p.mbits) (1 - (b : Int) - p.mbits) - (1 - b - p.mbits)).toNat, by omega⟩
  have hfits := cutAt_fits m e (max (Val.log2 m e - p.mbits) (1 - (b : Int) - p.mbits))
  rw [hk] at hfits ⊢
  generalize cutAt m e ((k : Int) + 1 - b - p.mbits) = cut at hfits ⊢
  obtain ⟨n, r⟩ := cut
  dsimp only at hfits ⊢
  have hunit : (0 : ℚ) < 2 ^ ((k : Int) + 1 - b - p.mbits) := by positivity
  obtain ⟨hlow, hhigh⟩ := hfits.bounds (by gcongr; exact Nat.lt_succ_self n)
  obtain ⟨hn, hlead⟩ := units_bounds (M := p.mbits) hm (hk ▸ le_max_left _ _) hlow hhigh
  have hsub : n < 2 ^ p.mbits → k = 0 := fun h => by
    by_contra hk0
    have := hlead (by omega)
    omega
  refine ⟨k * 2 ^ p.mbits + n, r, ?_, ?_⟩
  · rw [Nat.add_assoc, magnitude_code hsub hn.le, magnitude_code (fun h => hsub (by omega)) hn]
    exact hfits
  · rw [magCode_code hb hsub]
    generalize k * 2 ^ p.mbits + n = c
    have hodd : ((c : Int) % 2 == 1) = (c % 2 == 1) := by rw [Bool.eq_iff_iff, beq_iff_eq, beq_iff_eq]; omega
    rw [hodd]
    split_ifs <;> rfl

/-! Tiny results (R64) -/

/-- The bounds of R64 in units of the last place below the smallest normal. -/
theorem tiny_iff_units (M b : Nat) (mode : BitVec 2) (neg : Bool) (x : ℚ) :
    Claims.Tiny M b mode neg x ↔ (mode = 0 → x < (2 * (2 ^ M : ℕ) - 1 / 2) * 2 ^ (-(b : ℤ) - M))
      ∧ (Claims.TowardZero mode neg → x < 2 * (2 ^ M : ℕ) * 2 ^ (-(b : ℤ) - M))
      ∧ (mode ≠ 0 → ¬ Claims.TowardZero mode neg → x ≤ (2 * (2 ^ M : ℕ) - 1) * 2 ^ (-(b : ℤ) - M)) := by
  have hP : (2 : ℚ) ^ M ≠ 0 := by positivity
  have hone : (2 : ℚ) ^ (1 - (b : ℤ)) = 2 * 2 ^ (-(b : ℤ)) := by rw [sub_eq_add_neg, zpow_one_add₀ (by norm_num)]
  have hlast : (2 : ℚ) ^ (-(M : ℤ)) = ((2 : ℚ) ^ M)⁻¹ := by rw [zpow_neg, zpow_natCast]
  have hhalf : (2 : ℚ) ^ (-(M : ℤ) - 1) = ((2 : ℚ) ^ M)⁻¹ / 2 := by rw [zpow_sub_one₀ (by norm_num), hlast]; rfl
  have hunit : (2 : ℚ) ^ (-(b : ℤ) - M) = 2 ^ (-(b : ℤ)) * ((2 : ℚ) ^ M)⁻¹ := by rw [sub_eq_add_neg, zpow_add₀ (by norm_num), hlast]
  have hA : (2 * ((2 ^ M : ℕ) : ℚ) - 1 / 2) * 2 ^ (-(b : ℤ) - M) = (2 - 2 ^ (-(M : ℤ) - 1)) * 2 ^ (-(b : ℤ)) := by
    rw [hunit, hhalf]
    push_cast
    field_simp
  have hB : 2 * ((2 ^ M : ℕ) : ℚ) * 2 ^ (-(b : ℤ) - M) = 2 ^ (1 - (b : ℤ)) := by
    rw [hunit, hone]
    push_cast
    field_simp
  have hC : (2 * ((2 ^ M : ℕ) : ℚ) - 1) * 2 ^ (-(b : ℤ) - M) = (2 - 2 ^ (-(M : ℤ))) * 2 ^ (-(b : ℤ)) := by
    rw [hunit, hlast]
    push_cast
    field_simp
  rw [hA, hB, hC]
  rfl
/-- An odd code stays where x is nearer to it than to the next, or is taken toward zero, or is it. -/
theorem stays_iff {r : Rest} {lo hi x : ℚ} (h : r.Fits lo hi x) (hlt : lo < hi) (mode : BitVec 2) (neg : Bool) :
    roundsUp mode neg r true = false ↔ (mode = 0 → x < (lo + hi) / 2) ∧ (Claims.TowardZero mode neg → x < hi)
      ∧ (mode ≠ 0 → ¬ Claims.TowardZero mode neg → x ≤ lo) := by
  obtain ⟨hlow, hhigh⟩ := h.bounds hlt
  by_cases h0 : mode = 0
  · subst h0
    rw [roundsUp_nearest]
    have hside : (r == .high || (r == .half && true)) = false ↔ x < (lo + hi) / 2 := by
      cases r with
      | exact => exact ⟨fun _ => by linarith [h.le], fun _ => rfl⟩
      | low => exact ⟨fun _ => h.2, fun _ => rfl⟩
      | half => exact ⟨nofun, fun hx => absurd h hx.ne⟩
      | high => exact ⟨nofun, fun hx => absurd h.1 hx.not_gt⟩
    rw [hside]
    exact ⟨fun hx => ⟨fun _ => hx, fun _ => hhigh, fun hne => absurd rfl hne⟩, fun hx => hx.1 rfl⟩
  · by_cases hz : Claims.TowardZero mode neg
    · rw [roundsUp_towardZero hz]
      exact ⟨fun _ => ⟨fun e => absurd e h0, fun _ => hhigh, fun _ hnz => absurd hz hnz⟩, fun _ => rfl⟩
    · rw [roundsUp_away h0 hz, bne_eq_false_iff_eq, h.exact_iff hlt]
      exact ⟨fun hx => ⟨fun e => absurd e h0, fun hz' => absurd hz' hz, fun _ _ => hx.le⟩, fun hx => le_antisymm (hx.2.2 h0 hz) hlow⟩
/-- R64: a number of an exponent below the smallest normal's by two or more. -/
theorem tiny_of_lt {M b : Nat} {x : ℚ} (h : x < (2 ^ M : ℕ) * 2 ^ (-(b : ℤ) - M)) (mode : BitVec 2) (neg : Bool) :
    Claims.Tiny M b mode neg x := by
  have hP : (1 : ℚ) ≤ (2 ^ M : ℕ) := by exact_mod_cast Nat.one_le_two_pow
  have hu : (0 : ℚ) < 2 ^ (-(b : ℤ) - M) := by positivity
  rw [tiny_iff_units]
  exact ⟨fun _ => by nlinarith, fun _ => by nlinarith, fun _ _ => by nlinarith⟩
/-- R64: a number that is no less than the smallest normal. -/
theorem not_tiny_of_le {M b : Nat} {x : ℚ} (h : 2 * (2 ^ M : ℕ) * 2 ^ (-(b : ℤ) - M) ≤ x) (mode : BitVec 2) (neg : Bool) :
    ¬ Claims.Tiny M b mode neg x := by
  have hu : (0 : ℚ) < 2 ^ (-(b : ℤ) - M) := by positivity
  rw [tiny_iff_units]
  rintro ⟨hnear, hzero, haway⟩
  by_cases h0 : mode = 0
  · nlinarith [hnear h0]
  · by_cases hz : Claims.TowardZero mode neg
    · linarith [hzero hz]
    · nlinarith [haway h0 hz]
/-- In the units of the number's own exponent, where that is the one below the smallest normal: only the last code can reach it. -/
theorem tiny_iff_stays {M b n : Nat} {r : Rest} {x : ℚ} (hM : M ≠ 0) (hn : n < 2 ^ (M + 1))
    (h : r.Fits (n * (2 : ℚ) ^ (-(b : ℤ) - M)) ((n + 1 : ℕ) * 2 ^ (-(b : ℤ) - M)) x) (mode : BitVec 2) (neg : Bool) :
    Claims.Tiny M b mode neg x ↔ n + 1 < 2 * 2 ^ M ∨ roundsUp mode neg r (((n : Int) - (2 ^ M : ℕ)) % 2 == 1) = false := by
  have hu : (0 : ℚ) < 2 ^ (-(b : ℤ) - M) := by positivity
  have hstep : n * (2 : ℚ) ^ (-(b : ℤ) - M) < (n + 1 : ℕ) * 2 ^ (-(b : ℤ) - M) := by gcongr; exact Nat.lt_succ_self n
  obtain ⟨hlow, hhigh⟩ := h.bounds hstep
  rw [Nat.pow_succ'] at hn
  rcases Nat.lt_or_ge (n + 1) (2 * 2 ^ M) with hlt | hge
  · have hle : ((n + 1 : ℕ) : ℚ) ≤ 2 * (2 ^ M : ℕ) - 1 := by
      have : n + 1 + 1 ≤ 2 * 2 ^ M := hlt
      rw [le_sub_iff_add_le]
      exact_mod_cast this
    have hx : x < (2 * (2 ^ M : ℕ) - 1) * 2 ^ (-(b : ℤ) - M) := hhigh.trans_le (by gcongr)
    rw [tiny_iff_units]
    exact ⟨fun _ => .inl hlt, fun _ => ⟨fun _ => by nlinarith, fun _ => by nlinarith, fun _ _ => hx.le⟩⟩
  · have hlast : n + 1 = 2 * 2 ^ M := by omega
    have hodd : (((n : Int) - (2 ^ M : ℕ)) % 2 == 1) = true := by
      obtain ⟨d, rfl⟩ := Nat.exists_eq_succ_of_ne_zero hM
      rw [Nat.pow_succ'] at hlast ⊢
      rw [beq_iff_eq]
      push_cast
      omega
    have hcast : (n : ℚ) + 1 = 2 * (2 ^ M : ℕ) := by exact_mod_cast hlast
    have hlo : (n : ℚ) = 2 * (2 ^ M : ℕ) - 1 := by linarith
    rw [hodd, stays_iff h hstep, tiny_iff_units, Nat.cast_succ, hcast, hlo]
    have hmid : ((2 * ((2 ^ M : ℕ) : ℚ) - 1) * 2 ^ (-(b : ℤ) - M) + 2 * (2 ^ M : ℕ) * 2 ^ (-(b : ℤ) - M)) / 2
        = (2 * (2 ^ M : ℕ) - 1 / 2) * 2 ^ (-(b : ℤ) - M) := by ring
    rw [hmid]
    exact (or_iff_right (by omega)).symm
/-- R64: tiny where the number, rounded to its own exponent, lies below the smallest normal. -/
theorem isTiny_iff (p : FloatFmt) {b : Nat} (hb : p.bias = b) (hM : p.mbits ≠ 0) (mode : BitVec 2) (neg : Bool) {m : Nat} (hm : m ≠ 0) (e : Int) :
    isTiny p mode neg m e = true ↔ Claims.Tiny p.mbits b mode neg (ratOf false m e) := by
  obtain ⟨hlog, hlog'⟩ := log2_bounds hm e
  have hfits := cutAt_fits m e (Val.log2 m e - p.mbits)
  unfold isTiny
  dsimp only
  rw [hb, decide_eq_true_iff, sub_add_cancel]
  generalize cutAt m e (Val.log2 m e - p.mbits) = cut at hfits ⊢
  obtain ⟨n, r⟩ := cut
  dsimp only at hfits ⊢
  obtain ⟨hlow, hhigh⟩ := hfits.bounds (by gcongr; exact Nat.lt_succ_self n)
  obtain ⟨hn, hlead⟩ := units_bounds (M := p.mbits) hm le_rfl hlow hhigh
  replace hlead := hlead rfl
  have hpow : (2 : ℚ) ^ (-(b : ℤ)) = (2 ^ p.mbits : ℕ) * 2 ^ (-(b : ℤ) - p.mbits) := by
    rw [Nat.cast_pow, Nat.cast_ofNat, ← zpow_natCast, ← zpow_add₀ (by norm_num)]
    congr 1
    ring
  have hone : (2 : ℚ) ^ (1 - (b : ℤ)) = 2 * (2 ^ p.mbits : ℕ) * 2 ^ (-(b : ℤ) - p.mbits) := by
    rw [sub_eq_add_neg, zpow_one_add₀ (by norm_num), hpow, mul_assoc]
  generalize Val.log2 m e = L at *
  have hn' := hn
  rw [Nat.pow_succ'] at hn'
  rcases lt_trichotomy (L + b) 0 with hL | hL | hL
  · have htiny := tiny_of_lt (hlog'.trans_le ((zpow_le_zpow_right₀ (by norm_num) (by omega)).trans hpow.le)) mode neg
    refine iff_of_true ?_ htiny
    have hcode : (L + b) * (2 ^ p.mbits : ℕ) ≤ -1 * (2 ^ p.mbits : ℕ) := by gcongr; omega
    split_ifs <;> omega
  · obtain rfl : L = -b := by omega
    rw [tiny_iff_stays hM hn hfits, neg_add_cancel, zero_mul, zero_add]
    split_ifs with hup
    · rw [hup, or_iff_left nofun]
      omega
    · rw [Bool.not_eq_true] at hup
      exact iff_of_true (by omega) (.inr hup)
  · have htiny := not_tiny_of_le (hone.ge.trans ((zpow_le_zpow_right₀ (by norm_num) (by omega)).trans hlog)) mode neg
    refine iff_of_false ?_ htiny
    have hcode : 1 * (2 ^ p.mbits : ℕ) ≤ (L + b) * (2 ^ p.mbits : ℕ) := by gcongr; omega
    split_ifs <;> omega
end Sys2Proof.Machine
end

section
/-! SUPPORT. Every float and scale format of R42 by its layout; with the settlement of O13. -/
namespace Sys2Proof.Machine

/-! The formats by their layout (R45, R47, R48) -/

/-- The code of infinity, where a format has one (R45). -/
def infCode (x m : Nat) : Nat := (2 ^ x - 1) * 2 ^ m
/-- The largest finite code (R45, R47, R48). -/
def topCode (f : Fmt) (x m : Nat) : Nat :=
  if f.toNat ≤ 4 then infCode x m - 1 else if f = 5 ∨ 13 ≤ f.toNat then 2 ^ (x + m) - 2 else 2 ^ (x + m) - 1
/-- The spare bits of TF32 in storage, as a factor (R44). -/
def spareFactor (f : Fmt) : Nat := if f = 1 then 2 ^ 13 else 1
/-- A magnitude code with its sign, as stored. -/
def storedCode (f : Fmt) (x m : Nat) (neg : Bool) (c : Nat) : Nat := (c + if neg then 2 ^ (x + m) else 0) * spareFactor f
/-- The format with a layout. -/
def formatOf (f : Fmt) (x m b : Nat) : FloatFmt where
  ebits := x
  mbits := m
  bias := b
  maxc := topCode f x m
  ieee := decide (f.toNat ≤ 4)
  signed := !decide (13 ≤ f.toNat)
  nan := if f.toNat ≤ 4 then some (infCode x m + 2 ^ (m - 1)) else if f = 5 ∨ 13 ≤ f.toNat then some (2 ^ (x + m) - 1) else none
  shift := if f = 1 then 13 else 0

theorem floatFmt_eq : ∀ f : Fmt, floatFmt f = (Claims.layout f).map fun l => formatOf f l.1 l.2.1 l.2.2 := by decide
/-- Every layout has an exponent, and every one but E3M0's a fraction. -/
theorem layout_fields : ∀ f : Fmt, ∀ l ∈ Claims.layout f, l.1 ≠ 0 ∧ (f ≠ 11 → l.2.1 ≠ 0) := by decide

/-- Decoding goes by the layout. -/
theorem decodeFmt_of_layout {f : Fmt} {x m b : Nat} (h : Claims.layout f = some (x, m, b)) (raw : Nat) :
    decodeFmt f raw = (decFloatVal (formatOf f x m b) raw, false) := by
  have hf : floatFmt f = some (formatOf f x m b) := by rw [floatFmt_eq, h]; rfl
  simp only [decodeFmt, hf]
/-- Conversion goes by the layout. -/
theorem toFormat_of_layout {f : Fmt} {x m b : Nat} (h : Claims.layout f = some (x, m, b)) (mode : BitVec 2) (v : Val) :
    toFormat f mode v = encFloat (formatOf f x m b) mode v := by
  have hf : floatFmt f = some (formatOf f x m b) := by rw [floatFmt_eq, h]; rfl
  simp only [toFormat, hf]

theorem formatOf_spare (f : Fmt) (x m b : Nat) : 2 ^ (formatOf f x m b).shift = spareFactor f := by
  unfold formatOf spareFactor
  dsimp only
  split_ifs <;> rfl
theorem packFloat_formatOf (f : Fmt) (x m b : Nat) (neg : Bool) (c : Nat) :
    packFloat (formatOf f x m b) neg c = storedCode f x m (neg && !decide (13 ≤ f.toNat)) c := by
  rw [packFloat, formatOf_spare, Bool.and_comm]
  rfl

/-! Decoding a format -/

/-- The codes of a wide format above its largest finite one. -/
theorem infCode_le_iff {x m c : Nat} (hc : c < 2 ^ (x + m)) : c / 2 ^ m = 2 ^ x - 1 ↔ infCode x m ≤ c := by
  have hlt : c / 2 ^ m < 2 ^ x := Nat.div_lt_of_lt_mul (by rwa [← pow_add, Nat.add_comm])
  rw [infCode, ← Nat.le_div_iff_mul_le (Nat.two_pow_pos m)]
  omega
/-- Infinity is the one with a fraction of zero. -/
theorem eq_infCode_iff {x m c : Nat} (hc : c / 2 ^ m = 2 ^ x - 1) : c % 2 ^ m = 0 ↔ c = infCode x m := by
  have hsplit := Nat.div_add_mod' c (2 ^ m)
  rw [hc] at hsplit
  rw [infCode]
  omega

/-- R45: the codes of infinity and NaN in a wide format. -/
theorem formatOf_special (f : Fmt) (b : Nat) {x m c : Nat} (hc : c < 2 ^ (x + m)) :
    ((formatOf f x m b).ieee && c / 2 ^ m == 2 ^ x - 1) = decide (f.toNat ≤ 4 ∧ infCode x m ≤ c) := by
  rw [Bool.decide_and, Bool.beq_eq_decide_eq, decide_eq_decide.2 (infCode_le_iff hc)]
  rfl
/-- R47, R48: NaN is the top code of the other formats that have one. -/
theorem formatOf_nan (f : Fmt) (b : Nat) {x m c : Nat} (hx : x ≠ 0) (hc : c < 2 ^ (x + m)) :
    (!(formatOf f x m b).ieee && (formatOf f x m b).nan == some c) = decide (¬ f.toNat ≤ 4 ∧ topCode f x m < c) := by
  have htwo : 2 ≤ 2 ^ (x + m) := Nat.le_self_pow (by omega) 2
  unfold formatOf topCode
  by_cases hwide : f.toNat ≤ 4
  · simp [hwide]
  · rw [Bool.eq_iff_iff, decide_eq_true_iff, if_neg hwide, if_neg hwide, decide_eq_false hwide]
    by_cases hnan : f = 5 ∨ 13 ≤ f.toNat
    · rw [if_pos hnan, if_pos hnan, and_iff_right hwide]
      simp only [Bool.not_false, Bool.true_and, beq_iff_eq, Option.some.injEq]
      omega
    · rw [if_neg hnan, if_neg hnan]
      exact iff_of_false nofun (by omega)
/-- An element: a special code or a magnitude with its sign. -/
theorem decFloatVal_formatOf (f : Fmt) {x : Nat} (hx : x ≠ 0) (m b raw : Nat) :
    decFloatVal (formatOf f x m b) raw = (
      let c := raw / spareFactor f % 2 ^ (x + m)
      let neg := !decide (13 ≤ f.toNat) && (raw / spareFactor f).testBit (x + m)
      if f.toNat ≤ 4 ∧ infCode x m ≤ c then (if c = infCode x m then .inf neg else .nan)
      else if ¬ f.toNat ≤ 4 ∧ topCode f x m < c then .nan
      else magVal (formatOf f x m b) neg c) := by
  have hc : raw / spareFactor f % 2 ^ (x + m) < 2 ^ (x + m) := Nat.mod_lt _ (Nat.two_pow_pos _)
  have hebits : (formatOf f x m b).ebits = x := rfl
  have hmbits : (formatOf f x m b).mbits = m := rfl
  have hneg : ((formatOf f x m b).signed && raw / spareFactor f / 2 ^ (x + m) % 2 == 1)
      = (!decide (13 ≤ f.toNat) && (raw / spareFactor f).testBit (x + m)) := by
    rw [Nat.testBit_eq_decide_div_mod_eq]
    rfl
  simp only [decFloatVal, formatOf_spare, hebits, hmbits, hneg, formatOf_special f b hc, formatOf_nan f b hx hc, decide_eq_true_iff]
  by_cases hspecial : f.toNat ≤ 4 ∧ infCode x m ≤ raw / spareFactor f % 2 ^ (x + m)
  · simp only [if_pos hspecial, eq_infCode_iff ((infCode_le_iff hc).2 hspecial.2)]
  · simp only [if_neg hspecial]

/-! Rounding to a format -/

/-- Beyond the largest, a mode goes to infinity where it takes a next greater magnitude. -/
theorem overflow_up : ∀ (mode : BitVec 2) (neg : Bool),
    roundsUp mode neg .high true = decide (mode = 0 ∨ mode = 2 ∧ neg = true ∨ mode = 3 ∧ neg = false) := by decide

/-- What is picked is the number only where the cut was exact. -/
theorem Rest.Fits.exact_iff_picked {cand : Nat → ℚ} (hmono : StrictMono cand) {r : Rest} {c : Nat} {x : ℚ} (h : r.Fits (cand c) (cand (c + 1)) x)
    (mode : BitVec 2) (neg odd : Bool) : r = .exact ↔ cand (if roundsUp mode neg r odd then c + 1 else c) = x := by
  have hstep := hmono (Nat.lt_succ_self c)
  by_cases hup : roundsUp mode neg r odd = true
  · rw [if_pos hup]
    refine iff_of_false ?_ (h.bounds hstep).2.ne'
    rintro rfl
    exact absurd hup nofun
  · rw [if_neg hup, h.exact_iff hstep, eq_comm]

/-- A number that is not 0, rounded to a format that has its sign. -/
theorem encFloat_fin (p : FloatFmt) {b : Nat} (hb : p.bias = b) (mode : BitVec 2) {s : Bool} (hs : p.signed = false → s = false)
    {m : Nat} (hm : m ≠ 0) (e : Int) :
    ∃ c, Claims.Rounds (Claims.magnitude p.mbits b) mode s (ratOf false m e) c
      ∧ (c ≤ p.maxc → encFloat p mode (.fin s m e) = (packFloat p s c,
          if Claims.magnitude p.mbits b c = ratOf false m e then 0 else if isTiny p mode s m e then flagUF ||| flagNX else flagNX))
      ∧ (p.maxc < c → encFloat p mode (.fin s m e)
          = (packFloat p s (if p.ieee = true ∧ (mode = 0 ∨ mode = 2 ∧ s = true ∨ mode = 3 ∧ s = false) then infCode p.ebits p.mbits else p.maxc),
            flagOF ||| flagNX)) := by
  have hmono := magnitude_strictMono p.mbits b
  obtain ⟨c, r, hfits, hround⟩ := roundMag_spec p hb mode s hm e
  have hrounds := hfits.rounds hmono mode s
  have hexact := hfits.exact_iff_picked hmono mode s (c % 2 == 1)
  have hsign : ¬ ((!p.signed && s) = true) := by
    cases hp : p.signed
    · simp [hs hp]
    · simp
  generalize (if roundsUp mode s r (c % 2 == 1) then c + 1 else c) = c' at hround hrounds hexact
  refine ⟨c', hrounds, fun hle => ?_, fun hgt => ?_⟩
  · simp only [encFloat, if_neg hm, if_neg hsign, hround, gt_iff_lt, Nat.cast_lt, if_neg hle.not_gt, Int.toNat_natCast, bne_iff_ne, ne_eq, hexact]
    by_cases hx : Claims.magnitude p.mbits b c' = ratOf false m e
    · rw [if_pos hx, if_neg (not_not.2 hx)]
    · rw [if_neg hx, if_pos hx]
      cases isTiny p mode s m e <;> rfl
  · simp only [encFloat, if_neg hm, if_neg hsign, hround, gt_iff_lt, Nat.cast_lt, if_pos hgt]
    change (packFloat p s (if (p.ieee && roundsUp mode s .high true) = true then infCode p.ebits p.mbits else p.maxc), _) = _
    simp only [overflow_up, Bool.and_eq_true, decide_eq_true_iff]

/-! The clauses of O13 on formats -/

/-- R44 to R48: what an element decodes to. -/
theorem decode_float {f : Fmt} {x m b : Nat} (h : Claims.layout f = some (x, m, b)) (raw : Nat) :
    let c := raw / spareFactor f % 2 ^ (x + m)
    let neg := !decide (13 ≤ f.toNat) && (raw / spareFactor f).testBit (x + m)
    let v := (decodeFmt f raw).1
    (decodeFmt f raw).2 = false ∧ (f.toNat ≤ 4 → infCode x m ≤ c → v = if c = infCode x m then .inf neg else .nan)
    ∧ (¬ f.toNat ≤ 4 → topCode f x m < c → v = .nan)
    ∧ (c ≤ topCode f x m → Claims.real v = some ((if neg then -1 else 1) * Claims.magnitude m b c) ∧ v.sign = neg) := by
  intro c neg v
  obtain ⟨hx, -⟩ := layout_fields f _ h
  have hv : v = if f.toNat ≤ 4 ∧ infCode x m ≤ c then (if c = infCode x m then .inf neg else .nan)
      else if ¬ f.toNat ≤ 4 ∧ topCode f x m < c then .nan else magVal (formatOf f x m b) neg c := by
    change (decodeFmt f raw).1 = _
    rw [decodeFmt_of_layout h]
    exact decFloatVal_formatOf f hx m b raw
  refine ⟨by rw [decodeFmt_of_layout h], fun hwide hle => by rw [hv, if_pos ⟨hwide, hle⟩],
    fun hwide hlt => by rw [hv, if_neg fun hw => hwide hw.1, if_pos ⟨hwide, hlt⟩], fun hle => ?_⟩
  have hspecial : ¬ (f.toNat ≤ 4 ∧ infCode x m ≤ c) := fun hw => by
    have hpos : 0 < infCode x m := Nat.mul_pos (Nat.sub_pos_of_lt (Nat.one_lt_two_pow hx)) (Nat.two_pow_pos m)
    rw [topCode, if_pos hw.1] at hle
    omega
  rw [hv, if_neg hspecial, if_neg fun hn => hle.not_gt hn.2]
  exact magVal_spec (formatOf f x m b) b rfl neg c

/-- A magnitude with its sign, which a scale format must not need. -/
theorem packFloat_signed {f : Fmt} {s : Bool} (hs : 13 ≤ f.toNat → s = false) (x m b c : Nat) :
    packFloat (formatOf f x m b) s c = storedCode f x m s c := by
  rw [packFloat_formatOf]
  by_cases hf : 13 ≤ f.toNat
  · rw [hs hf, Bool.false_and]
  · rw [decide_eq_false hf, Bool.not_false, Bool.and_true]

/-- R64: a zero keeps its sign, where the format has one. -/
theorem encode_zero {f : Fmt} {x m b : Nat} (h : Claims.layout f = some (x, m, b)) (mode : BitVec 2) {v : Val} (hv : Claims.real v = some 0) :
    toFormat f mode v = (storedCode f x m (v.sign && !decide (13 ≤ f.toNat)) 0, 0) := by
  obtain ⟨s, n, e, rfl, hn⟩ := real_eq_some hv
  rw [toFormat_of_layout h, encFloat, if_pos (ratOf_eq_zero.1 hn), packFloat_formatOf]
  rfl

/-- R66: a scale format has no negative numbers. -/
theorem encode_negative_scale {f : Fmt} {x m b : Nat} (h : Claims.layout f = some (x, m, b)) (mode : BitVec 2) {v : Val} {a : ℚ}
    (hv : Claims.real v = some a) (ha : a < 0) (hscale : 13 ≤ f.toNat) : toFormat f mode v = (0, flagNV) := by
  obtain ⟨s, n, e, rfl, rfl⟩ := real_eq_some hv
  have hn : n ≠ 0 := mt ratOf_eq_zero.2 ha.ne
  have hs : s = true := (ratOf_neg_iff hn).1 ha
  have hsign : (!(formatOf f x m b).signed && s) = true := by simp [formatOf, hscale, hs]
  rw [toFormat_of_layout h, encFloat, if_neg hn, if_pos hsign]

/-- R61, R64, R65: one rounding, with OF beyond the largest, and NX and UF. -/
theorem encode_number {f : Fmt} {x m b : Nat} (h : Claims.layout f = some (x, m, b)) (mode : BitVec 2) {v : Val} {a : ℚ}
    (hv : Claims.real v = some a) (ha : a ≠ 0) (hscale : 13 ≤ f.toNat → 0 < a) :
    let neg := decide (a < 0)
    ∃ c, Claims.Rounds (Claims.magnitude m b) mode neg |a| c
      ∧ (c ≤ topCode f x m → (toFormat f mode v).1 = storedCode f x m neg c
        ∧ (f ≠ 11 → ∀ tiny, (tiny = true ↔ Claims.Tiny m b mode neg |a|) →
          (toFormat f mode v).2 = if Claims.magnitude m b c = |a| then 0 else if tiny then flagUF ||| flagNX else flagNX))
      ∧ (topCode f x m < c → toFormat f mode v = (storedCode f x m neg
          (if f.toNat ≤ 4 ∧ (mode = 0 ∨ mode = 2 ∧ neg = true ∨ mode = 3 ∧ neg = false) then infCode x m else topCode f x m), flagOF ||| flagNX)) := by
  obtain ⟨s, n, e, rfl, rfl⟩ := real_eq_some hv
  have hn : n ≠ 0 := mt ratOf_eq_zero.2 ha
  have hneg : decide (ratOf s n e < 0) = s := by rw [Bool.eq_iff_iff, decide_eq_true_iff, ratOf_neg_iff hn]
  have hs : 13 ≤ f.toNat → s = false := fun hf => (ratOf_pos_iff hn).1 (hscale hf)
  have hsigned : (formatOf f x m b).signed = false → s = false := fun hp => hs (by simpa [formatOf] using hp)
  obtain ⟨c, hrounds, hin, hout⟩ := encFloat_fin (formatOf f x m b) (b := b) rfl mode hsigned hn e
  rw [toFormat_of_layout h, abs_ratOf, hneg]
  refine ⟨c, hrounds, fun hle => ?_, fun hlt => ?_⟩
  · rw [hin hle, packFloat_signed hs]
    refine ⟨rfl, fun hf tiny htiny => ?_⟩
    have hm : m ≠ 0 := (layout_fields f _ h).2 hf
    have heq : tiny = isTiny (formatOf f x m b) mode s n e :=
      Bool.eq_iff_iff.2 (htiny.trans (isTiny_iff (formatOf f x m b) rfl hm mode s hn e).symm)
    rw [heq]
    rfl
  · rw [hout hlt, packFloat_signed hs]
    simp only [formatOf, decide_eq_true_iff]

/-- R65, R66: an infinity, or the largest where the format has none. -/
theorem encode_inf {f : Fmt} {x m b : Nat} (h : Claims.layout f = some (x, m, b)) (mode : BitVec 2) (s : Bool) :
    toFormat f mode (.inf s) = if f.toNat ≤ 4 then (storedCode f x m s (infCode x m), 0)
      else if 13 ≤ f.toNat ∧ s = true then (0, flagNV) else (storedCode f x m s (topCode f x m), flagNV) := by
  rw [toFormat_of_layout h, encFloat]
  by_cases hwide : f.toNat ≤ 4
  · have hieee : (formatOf f x m b).ieee = true := decide_eq_true hwide
    rw [if_pos hwide, if_pos hieee]
    rw [packFloat_signed fun hf => absurd hf (by omega)]
    rfl
  · have hieee : ¬ (formatOf f x m b).ieee = true := by simpa [formatOf] using hwide
    rw [if_neg hwide, if_neg hieee]
    by_cases hneg : 13 ≤ f.toNat ∧ s = true
    · rw [if_pos hneg, if_pos (by simp [formatOf, hneg])]
    · rw [if_neg hneg, if_neg (by simpa [formatOf] using hneg), packFloat_signed fun hf => by simpa [hf] using hneg]
      rfl

/-- R65, R66: the canonical NaN, or +0 where the format has none. -/
theorem encode_nan {f : Fmt} {x m b : Nat} (h : Claims.layout f = some (x, m, b)) (mode : BitVec 2) :
    toFormat f mode .nan = if f.toNat ≤ 4 then ((infCode x m + 2 ^ (m - 1)) * spareFactor f, 0)
      else if f = 5 ∨ 13 ≤ f.toNat then (2 ^ (x + m) - 1, 0) else (0, flagNV) := by
  rw [toFormat_of_layout h, encFloat, formatOf_spare]
  by_cases hwide : f.toNat ≤ 4
  · have hnan : (formatOf f x m b).nan = some (infCode x m + 2 ^ (m - 1)) := if_pos hwide
    rw [hnan, if_pos hwide]
  · rw [if_neg hwide]
    by_cases htop : f = 5 ∨ 13 ≤ f.toNat
    · have hnan : (formatOf f x m b).nan = some (2 ^ (x + m) - 1) := (if_neg hwide).trans (if_pos htop)
      have hspare : spareFactor f = 1 := if_neg (by rintro rfl; exact absurd hwide (by decide))
      simp only [hnan, if_pos htop, hspare, Nat.mul_one]
    · have hnan : (formatOf f x m b).nan = none := (if_neg hwide).trans (if_neg htop)
      rw [hnan, if_neg htop]

/-- R44 to R48, R61, R64 to R66: the float and scale formats. -/
theorem floatFormats : Claims.FloatFormats := by
  refine ⟨fun mode v w => ⟨rfl, rfl⟩, fun f x m b h => ⟨decode_float h, fun mode v a hv => ⟨?_, ?_, ?_⟩, encode_inf h, encode_nan h⟩⟩
  · rintro rfl
    exact encode_zero h mode hv
  · exact encode_negative_scale h mode hv
  · exact encode_number h mode hv

/-- Settles O13: the words from the rules for float results, the exact sums and products from the values of their operands, the rest from
cuts that lie on the number's side of every midpoint and from the ladder of each format's magnitudes. -/
theorem floatResults : Obligations.FloatResults := ⟨floatWords, floatExact, specialFunctions, floatFormats⟩

end Sys2Proof.Machine
end

section
/-! SUPPORT. Decoding by layout (R87 to R108): the parts of a field, the codes of the enumerated fields, the fields of a word and the word
they make, and what each major decodes its layout to; with the obligation that decoding gives an encoded instruction back. -/
namespace Sys2Proof

/-! Parts of a field -/

/-- A bit vector is the concatenation of its upper and its lower part. -/
theorem exists_append {m n : Nat} (x : BitVec (m + n)) : ∃ (a : BitVec m) (b : BitVec n), x = a ++ b :=
  ⟨_, _, BitVec.extractLsb'_append_extractLsb'.symm⟩
theorem eq_ofNat_of_toNat {n k : Nat} {b : BitVec n} (h : b.toNat = k) : b = BitVec.ofNat n k := by
  simp [← h]
theorem boolBit_bitOf {n : Nat} (w : BitVec n) (i : Nat) : boolBit (bitOf w i) = w.extractLsb' i 1 := by
  apply BitVec.eq_of_getLsbD_eq
  intro j hj
  obtain rfl : j = 0 := by omega
  simp
theorem bitOf_of_field {n i : Nat} {w : BitVec n} {b : Bool} (h : w.extractLsb' i 1 = boolBit b) : bitOf w i = b := by
  simpa using congrArg (·.getLsbD 0) h
theorem exists_append₃ {l m n : Nat} (x : BitVec (l + m + n)) : ∃ (k : BitVec l) (a : BitVec m) (b : BitVec n), x = k ++ a ++ b := by
  obtain ⟨y, b, rfl⟩ := exists_append x
  obtain ⟨k, a, rfl⟩ := exists_append y
  exact ⟨k, a, b, rfl⟩
theorem append_high {m n : Nat} (a : BitVec m) (b : BitVec n) : (a ++ b).extractLsb' n m = a := by
  rw [field_append_high _ _ _ _ le_rfl, Nat.sub_self, field_whole]
theorem append_low {m n : Nat} (a : BitVec m) (b : BitVec n) : (a ++ b).extractLsb' 0 n = b := by
  rw [field_append_low _ _ _ _ (by omega), field_whole]
theorem append_middle {l m n : Nat} (k : BitVec l) (a : BitVec m) (b : BitVec n) : (k ++ a ++ b).extractLsb' n m = a := by
  rw [field_append_high _ _ _ _ le_rfl, Nat.sub_self, append_low]
theorem append_top {l m n lo : Nat} (k : BitVec l) (a : BitVec m) (b : BitVec n) (h : lo = m + n) :
    (k ++ a ++ b).extractLsb' lo l = k := by
  rw [field_append_high _ _ _ _ (by omega), h, Nat.add_sub_cancel, append_high]
theorem bitOf_high {n : Nat} (x : Bool) (b : BitVec n) : bitOf (boolBit x ++ b) n = x := bitOf_of_field (append_high ..)
theorem bitOf_middle {l n : Nat} (k : BitVec l) (x : Bool) (b : BitVec n) : bitOf (k ++ boolBit x ++ b) n = x :=
  bitOf_of_field (append_middle ..)
theorem bitOf_top {m n lo : Nat} (x : Bool) (a : BitVec m) (b : BitVec n) (h : lo = m + n) : bitOf (boolBit x ++ a ++ b) lo = x :=
  bitOf_of_field (append_top _ _ _ h)
theorem bitOf_zero_high {n : Nat} (b : BitVec n) : bitOf (0#1 ++ b) n = false := bitOf_high false b
theorem bitOf_zero_top {m n lo : Nat} (a : BitVec m) (b : BitVec n) (h : lo = m + n) : bitOf (0#1 ++ a ++ b) lo = false :=
  bitOf_top false a b h
theorem exists_boolBit : ∀ x : BitVec 1, ∃ b, x = boolBit b := by decide
theorem bitField_insert (x y : Bool) (len pos : BitVec 5) : bitOf (boolBit x ++ boolBit y ++ len ++ pos) 11 = x := by
  simp only [BitVec.getLsbD_append]
  cases x <;> rfl
theorem bitField_signed (x y : Bool) (len pos : BitVec 5) : bitOf (boolBit x ++ boolBit y ++ len ++ pos) 10 = y := by
  simp only [BitVec.getLsbD_append]
  cases y <;> rfl

/-! The codes of the enumerated fields -/

@[simp] theorem ICond.ofBits?_bits (c : ICond) : ICond.ofBits? c.bits = some c := by cases c <;> rfl
theorem ICond.bits_of_ofBits? : ∀ b, ∀ c ∈ ICond.ofBits? b, c.bits = b := by decide
@[simp] theorem FCond.ofBits?_bits (c : FCond) : FCond.ofBits? c.bits = some c := by cases c <;> rfl
theorem FCond.bits_of_ofBits? : ∀ b, ∀ c ∈ FCond.ofBits? b, c.bits = b := by decide
@[simp] theorem Combine.ofBits?_bits (c : Combine) : Combine.ofBits? c.bits = some c := by cases c <;> rfl
theorem Combine.bits_of_ofBits? : ∀ b, ∀ c ∈ Combine.ofBits? b, c.bits = b := by decide
@[simp] theorem FWidth.ofBits?_bits (c : FWidth) : FWidth.ofBits? c.bits = some c := by cases c <;> rfl
theorem FWidth.bits_of_ofBits? : ∀ b, ∀ c ∈ FWidth.ofBits? b, c.bits = b := by decide
@[simp] theorem LdSize.ofBits?_bits (c : LdSize) : LdSize.ofBits? c.bits = some c := by cases c <;> rfl
theorem LdSize.bits_of_ofBits? : ∀ b, ∀ c ∈ LdSize.ofBits? b, c.bits = b := by decide
@[simp] theorem StSize.ofBits?_bits (c : StSize) : StSize.ofBits? c.bits = some c := by cases c <;> rfl
theorem StSize.bits_of_ofBits? : ∀ b, ∀ c ∈ StSize.ofBits? b, c.bits = b := by decide
@[simp] theorem AtomOp.ofBits?_bits (c : AtomOp) : AtomOp.ofBits? c.bits = some c := by cases c <;> rfl
theorem AtomOp.bits_of_ofBits? : ∀ b, ∀ c ∈ AtomOp.ofBits? b, c.bits = b := by decide
@[simp] theorem RedOp.ofBits?_bits (c : RedOp) : RedOp.ofBits? c.bits = some c := by cases c <;> rfl
theorem RedOp.bits_of_ofBits? : ∀ b, ∀ c ∈ RedOp.ofBits? b, c.bits = b := by decide
@[simp] theorem Scope.ofBits?_bits (c : Scope) : Scope.ofBits? c.bits = some c := by cases c <;> rfl
theorem Scope.bits_of_ofBits? : ∀ b, ∀ c ∈ Scope.ofBits? b, c.bits = b := by decide
@[simp] theorem FenceKind.ofBits?_bits (c : FenceKind) : FenceKind.ofBits? c.bits = some c := by cases c <;> rfl
theorem FenceKind.bits_of_ofBits? : ∀ b, ∀ c ∈ FenceKind.ofBits? b, c.bits = b := by decide
@[simp] theorem BraKind.ofBits?_bits (c : BraKind) : BraKind.ofBits? c.bits = some c := by cases c <;> rfl
theorem BraKind.bits_of_ofBits? : ∀ b, ∀ c ∈ BraKind.ofBits? b, c.bits = b := by decide
@[simp] theorem VecSize.ofBits?_bits (c : VecSize) : VecSize.ofBits? c.bits = some c := by cases c <;> rfl
theorem VecSize.bits_of_ofBits? : ∀ b, ∀ c ∈ VecSize.ofBits? b, c.bits = b := by decide
@[simp] theorem SparseN.ofBits?_bits (c : SparseN) : SparseN.ofBits? c.bits = some c := by cases c <;> rfl
theorem SparseN.bits_of_ofBits? : ∀ b, ∀ c ∈ SparseN.ofBits? b, c.bits = b := by decide
@[simp] theorem MvMode.ofBits?_bits (c : MvMode) : MvMode.ofBits? c.bits = some c := by cases c <;> rfl
theorem MvMode.bits_of_ofBits? : ∀ b, ∀ c ∈ MvMode.ofBits? b, c.bits = b := by decide
@[simp] theorem Payload.ofBits?_bits (c : Payload) : Payload.ofBits? c.bits = some c := by cases c <;> rfl
theorem Payload.bits_of_ofBits? : ∀ b, ∀ c ∈ Payload.ofBits? b, c.bits = b := by decide
theorem exists_spaceBits (x : BitVec 1) : ∃ sp : Space, x = sp.bits := by
  obtain ⟨b, rfl⟩ := exists_boolBit x
  cases b
  · exact ⟨.global, rfl⟩
  · exact ⟨.near, rfl⟩
theorem spaceOf_bits (sp : Space) (o : BitVec 4) : spaceOf (sp.bits ++ o) = sp := by
  cases sp <;> revert o <;> decide
@[simp] theorem CpyDir.ofField_bits (d : CpyDir) : CpyDir.ofField d.bits = d := by cases d <;> rfl
theorem exists_cpyDirBits (x : BitVec 2) : ∃ d : CpyDir, x = d.bits := ⟨.ofField x, by revert x; decide⟩

/-! The fields of a layout (R89) -/

theorem layR_apply {α : Type} (f : BitVec 7 → BitVec 7 → BitVec 7 → BitVec 5 → α) {w : Word} {m : BitVec 6}
    {vd va vb : BitVec 7} {fn : BitVec 5} (h : w = layR m vd va vb fn) :
    f (fieldOf w 25 19) (fieldOf w 18 12) (fieldOf w 11 5) (fieldOf w 4 0) = f vd va vb fn := by
  rw [h, layR_vd, layR_va, layR_vb, layR_fn]
theorem layI_apply {α : Type} (f : BitVec 7 → BitVec 7 → BitVec 12 → α) {w : Word} {m : BitVec 6}
    {vd va : BitVec 7} {imm : BitVec 12} (h : w = layI m vd va imm) :
    f (fieldOf w 25 19) (fieldOf w 18 12) (fieldOf w 11 0) = f vd va imm := by
  rw [h, layI_vd, layI_va, layI_imm]
theorem layU_apply {α : Type} (f : BitVec 7 → BitVec 19 → α) {w : Word} {m : BitVec 6}
    {vd : BitVec 7} {imm : BitVec 19} (h : w = layU m vd imm) :
    f (fieldOf w 25 19) (fieldOf w 18 0) = f vd imm := by
  rw [h, layU_vd, layU_imm]
theorem layM_apply {α : Type} (f : BitVec 7 → BitVec 7 → BitVec 5 → BitVec 3 → BitVec 4 → α) {w : Word} {m : BitVec 6}
    {vd vo : BitVec 7} {sb : BitVec 5} {sz : BitVec 3} {imm : BitVec 4} (h : w = layM m vd vo sb sz imm) :
    f (fieldOf w 25 19) (fieldOf w 18 12) (fieldOf w 11 7) (fieldOf w 6 4) (fieldOf w 3 0) = f vd vo sb sz imm := by
  rw [h, layM_vd, layM_vo, layM_sb, layM_sz, layM_imm]
theorem layP_apply {α : Type} (f : BitVec 3 → BitVec 4 → BitVec 7 → BitVec 7 → BitVec 5 → α) {w : Word} {m : BitVec 6}
    {pd : BitVec 3} {cond : BitVec 4} {va vb : BitVec 7} {fn : BitVec 5} (h : w = layP m pd cond va vb fn) :
    f (fieldOf w 25 23) (fieldOf w 22 19) (fieldOf w 18 12) (fieldOf w 11 5) (fieldOf w 4 0) = f pd cond va vb fn := by
  rw [h, layP_pd, layP_cond, layP_va, layP_vb, layP_fn]
theorem layB_apply {α : Type} (f : BitVec 3 → Bool → BitVec 2 → BitVec 20 → α) {w : Word} {m : BitVec 6}
    {ps : BitVec 3} {neg : Bool} {kind : BitVec 2} {off : BitVec 20} (h : w = layB m ps (boolBit neg) kind off) :
    f (fieldOf w 25 23) (bitOf w 22) (fieldOf w 21 20) (fieldOf w 19 0) = f ps neg kind off := by
  rw [h, layB_ps, bitOf_of_field (layB_neg ..), layB_kind, layB_off]
theorem layV_apply {α : Type} (f : BitVec 7 → BitVec 7 → BitVec 5 → BitVec 5 → BitVec 2 → α) {w : Word} {m : BitVec 6}
    {vd va : BitVec 7} {dfmt sfmt : BitVec 5} {z : BitVec 2} (h : w = layV m vd va dfmt sfmt z) :
    f (fieldOf w 25 19) (fieldOf w 18 12) (fieldOf w 11 7) (fieldOf w 6 2) (fieldOf w 1 0) = f vd va dfmt sfmt z := by
  rw [h, layV_vd, layV_va, layV_dfmt, layV_sfmt, layV_z]
theorem layW_apply {α : Type} (f : BitVec 6 → BitVec 6 → BitVec 4 → BitVec 4 → BitVec 6 → α) {w : Word} {m : BitVec 6}
    {nld nst : BitVec 6} {ncp ntl : BitVec 4} {z : BitVec 6} (h : w = layW m nld nst ncp ntl z) :
    f (fieldOf w 25 20) (fieldOf w 19 14) (fieldOf w 13 10) (fieldOf w 9 6) (fieldOf w 5 0) = f nld nst ncp ntl z := by
  rw [h, layW_nld, layW_nst, layW_ncp, layW_ntl, layW_z]
theorem layG_apply {α : Type} (f : BitVec 7 → BitVec 7 → BitVec 5 → BitVec 3 → BitVec 4 → α) {w : Word} {m : BitVec 6}
    {vd va : BitVec 7} {sm : BitVec 5} {pp : BitVec 3} {fn : BitVec 4} (h : w = layG m vd va sm pp fn) :
    f (fieldOf w 25 19) (fieldOf w 18 12) (fieldOf w 11 7) (fieldOf w 6 4) (fieldOf w 3 0) = f vd va sm pp fn := by
  rw [h, layG_vd, layG_va, layG_sm, layG_pp, layG_fn]
theorem layX_apply {α : Type} (f : BitVec 4 → BitVec 6 → BitVec 5 → BitVec 7 → BitVec 4 → α) {w : Word} {m : BitVec 6}
    {hd : BitVec 4} {tag : BitVec 6} {sp : BitVec 5} {va : BitVec 7} {fn : BitVec 4} (h : w = layX m hd tag sp va fn) :
    f (fieldOf w 25 22) (fieldOf w 21 16) (fieldOf w 15 11) (fieldOf w 10 4) (fieldOf w 3 0) = f hd tag sp va fn := by
  rw [h, layX_hd, layX_tag, layX_sp, layX_va, layX_fn]
theorem layS_apply {α : Type} (f : BitVec 2 → BitVec 8 → BitVec 16 → α) {w : Word} {m : BitVec 6}
    {op : BitVec 2} {mask : BitVec 8} {z : BitVec 16} (h : w = layS m op mask z) :
    f (fieldOf w 25 24) (fieldOf w 23 16) (fieldOf w 15 0) = f op mask z := by
  rw [h, layS_op, layS_mask, layS_z]
theorem layFB_apply {α : Type} (f : BitVec 3 → BitVec 5 → BitVec 7 → Bool → BitVec 10 → α) {w : Word} {m : BitVec 6}
    {fs : BitVec 3} {sp : BitVec 5} {va : BitVec 7} {near : Bool} {z : BitVec 10} (h : w = layFB m fs sp va (boolBit near) z) :
    f (fieldOf w 25 23) (fieldOf w 22 18) (fieldOf w 17 11) (bitOf w 10) (fieldOf w 9 0) = f fs sp va near z := by
  rw [h, layFB_fs, layFB_sp, layFB_va, bitOf_of_field (layFB_near ..), layFB_z]
theorem layF_apply {α : Type} (f : BitVec 7 → BitVec 7 → BitVec 3 → BitVec 9 → α) {w : Word} {m : BitVec 6}
    {vd va : BitVec 7} {fs : BitVec 3} {z : BitVec 9} (h : w = layF m vd va fs z) :
    f (fieldOf w 25 19) (fieldOf w 18 12) (fieldOf w 11 9) (fieldOf w 8 0) = f vd va fs z := by
  rw [h, layF_vd, layF_va, layF_fs, layF_z]
theorem layHD_apply {α : Type} (f : BitVec 4 → BitVec 4 → BitVec 4 → BitVec 2 → BitVec 7 → BitVec 5 → α) {w : Word} {m : BitVec 6}
    {ch snd rcv : BitVec 4} {pk : BitVec 2} {va : BitVec 7} {z : BitVec 5} (h : w = layHD m ch snd rcv pk va z) :
    f (fieldOf w 25 22) (fieldOf w 21 18) (fieldOf w 17 14) (fieldOf w 13 12) (fieldOf w 11 5) (fieldOf w 4 0) = f ch snd rcv pk va z := by
  rw [h, layHD_ch, layHD_snd, layHD_rcv, layHD_pk, layHD_va, layHD_z]
theorem layL_apply {α : Type} (f : Bool → BitVec 11 → BitVec 14 → α) {w : Word} {m : BitVec 6}
    {mode : Bool} {cnt : BitVec 11} {back : BitVec 14} (h : w = layL m (boolBit mode) cnt back) :
    f (bitOf w 25) (fieldOf w 24 14) (fieldOf w 13 0) = f mode cnt back := by
  rw [h, bitOf_of_field (layL_mode ..), layL_cnt, layL_back]
theorem layE_apply {α : Type} (f : BitVec 4 → BitVec 4 → BitVec 6 → BitVec 7 → BitVec 5 → α) {w : Word} {m : BitVec 6}
    {role eidx : BitVec 4} {z : BitVec 6} {va : BitVec 7} {z' : BitVec 5} (h : w = layE m role eidx z va z') :
    f (fieldOf w 25 22) (fieldOf w 21 18) (fieldOf w 17 12) (fieldOf w 11 5) (fieldOf w 4 0) = f role eidx z va z' := by
  rw [h, layE_role, layE_eidx, layE_z, layE_va, layE_z2]
theorem layC_apply {α : Type} (f : BitVec 16 → BitVec 10 → α) {w : Word} {m : BitVec 6}
    {rmask : BitVec 16} {len : BitVec 10} (h : w = layC m rmask len) :
    f (fieldOf w 25 10) (fieldOf w 9 0) = f rmask len := by
  rw [h, layC_rmask, layC_len]
theorem layH_apply {α : Type} (f : BitVec 4 → BitVec 22 → α) {w : Word} {m : BitVec 6}
    {kind : BitVec 4} {payload : BitVec 22} (h : w = layH m kind payload) :
    f (fieldOf w 25 22) (fieldOf w 21 0) = f kind payload := by
  rw [h, layH_kind, layH_payload]

/-! What each major decodes its layout to (R91 to R99) -/

theorem decode_sys (vd va vb : BitVec 7) (fn : BitVec 5) :
    decode (layR 0x0 vd va vb fn) = decSys vd va vb fn := by
  unfold decode
  rw [layR_major]
  exact layR_apply decSys rfl
theorem decode_int (vd va vb : BitVec 7) (fn : BitVec 5) :
    decode (layR 0x1 vd va vb fn) = decInt vd va vb fn := by
  unfold decode
  rw [layR_major]
  exact layR_apply decInt rfl
theorem decode_shiftI (vd va : BitVec 7) (imm : BitVec 12) :
    decode (layI 0x6 vd va imm) = decShiftI vd va imm := by
  unfold decode
  rw [layI_major]
  exact layI_apply decShiftI rfl
theorem decode_bitField (vd va : BitVec 7) (imm : BitVec 12) :
    decode (layI 0x8 vd va imm) = decBitField vd va imm := by
  unfold decode
  rw [layI_major]
  exact layI_apply decBitField rfl
theorem decode_icmp (pd : BitVec 3) (cond : BitVec 4) (va vb : BitVec 7) (fn : BitVec 5) :
    decode (layP 0x9 pd cond va vb fn) = decIcmp pd cond va vb fn := by
  unfold decode
  rw [layP_major]
  exact layP_apply decIcmp rfl
theorem decode_fcmp (pd : BitVec 3) (cond : BitVec 4) (va vb : BitVec 7) (fn : BitVec 5) :
    decode (layP 0xa pd cond va vb fn) = decFcmp pd cond va vb fn := by
  unfold decode
  rw [layP_major]
  exact layP_apply decFcmp rfl
theorem decode_float (vd va vb : BitVec 7) (fn : BitVec 5) :
    decode (layR 0xc vd va vb fn) = decFloat vd va vb fn := by
  unfold decode
  rw [layR_major]
  exact layR_apply decFloat rfl
theorem decode_special (vd va vb : BitVec 7) (fn : BitVec 5) :
    decode (layR 0xd vd va vb fn) = decSpecial vd va vb fn := by
  unfold decode
  rw [layR_major]
  exact layR_apply decSpecial rfl
theorem decode_packed (vd va vb : BitVec 7) (fn : BitVec 5) :
    decode (layR 0xf vd va vb fn) = decPacked vd va vb fn := by
  unfold decode
  rw [layR_major]
  exact layR_apply decPacked rfl
theorem decode_bra (ps : BitVec 3) (neg : Bool) (kind : BitVec 2) (off : BitVec 20) :
    decode (layB 0x10 ps (boolBit neg) kind off) = decBra ps neg kind off := by
  unfold decode
  rw [layB_major]
  exact layB_apply decBra rfl
theorem decode_call (ps : BitVec 3) (neg : Bool) (kind : BitVec 2) (off : BitVec 20) :
    decode (layB 0x11 ps (boolBit neg) kind off) = decCall ps neg kind off := by
  unfold decode
  rw [layB_major]
  exact layB_apply decCall rfl
theorem decode_jump (vd va vb : BitVec 7) (fn : BitVec 5) :
    decode (layR 0x12 vd va vb fn) = decJump vd va vb fn := by
  unfold decode
  rw [layR_major]
  exact layR_apply decJump rfl
theorem decode_predicate (pd : BitVec 3) (cond : BitVec 4) (va vb : BitVec 7) (fn : BitVec 5) :
    decode (layP 0x13 pd cond va vb fn) = decPredicate pd cond va vb fn := by
  unfold decode
  rw [layP_major]
  exact layP_apply decPredicate rfl
theorem decode_ld (vd vo : BitVec 7) (sb : BitVec 5) (sz : BitVec 3) (imm : BitVec 4) :
    decode (layM 0x14 vd vo sb sz imm) = decLd vd vo sb sz imm := by
  unfold decode
  rw [layM_major]
  exact layM_apply decLd rfl
theorem decode_st (vd vo : BitVec 7) (sb : BitVec 5) (sz : BitVec 3) (imm : BitVec 4) :
    decode (layM 0x15 vd vo sb sz imm) = decSt vd vo sb sz imm := by
  unfold decode
  rw [layM_major]
  exact layM_apply decSt rfl
theorem decode_ldn (vd vo : BitVec 7) (sb : BitVec 5) (sz : BitVec 3) (imm : BitVec 4) :
    decode (layM 0x16 vd vo sb sz imm) = decLdn vd vo sb sz imm := by
  unfold decode
  rw [layM_major]
  exact layM_apply decLdn rfl
theorem decode_stn (vd vo : BitVec 7) (sb : BitVec 5) (sz : BitVec 3) (imm : BitVec 4) :
    decode (layM 0x17 vd vo sb sz imm) = decStn vd vo sb sz imm := by
  unfold decode
  rw [layM_major]
  exact layM_apply decStn rfl
theorem decode_fullEmpty (vd va vb : BitVec 7) (fn : BitVec 5) :
    decode (layR 0x18 vd va vb fn) = decFullEmpty vd va vb fn := by
  unfold decode
  rw [layR_major]
  exact layR_apply decFullEmpty rfl
theorem decode_atom (vd va vb : BitVec 7) (fn : BitVec 5) :
    decode (layR 0x19 vd va vb fn) = decAtom vd va vb fn := by
  unfold decode
  rw [layR_major]
  exact layR_apply decAtom rfl
theorem decode_red (vd va vb : BitVec 7) (fn : BitVec 5) :
    decode (layR 0x1a vd va vb fn) = decRed vd va vb fn := by
  unfold decode
  rw [layR_major]
  exact layR_apply decRed rfl
theorem decode_reserve (vd va vb : BitVec 7) (fn : BitVec 5) :
    decode (layR 0x1b vd va vb fn) = decReserve vd va vb fn := by
  unfold decode
  rw [layR_major]
  exact layR_apply decReserve rfl
theorem decode_sync (vd va vb : BitVec 7) (fn : BitVec 5) :
    decode (layR 0x1c vd va vb fn) = decSync vd va vb fn := by
  unfold decode
  rw [layR_major]
  exact layR_apply decSync rfl
theorem decode_row (vd va : BitVec 7) (sm : BitVec 5) (pp : BitVec 3) (fn : BitVec 4) :
    decode (layG 0x1e vd va sm pp fn) = decRow vd va sm pp fn := by
  unfold decode
  rw [layG_major]
  exact layG_apply decRow rfl
theorem decode_uni (vd va vb : BitVec 7) (fn : BitVec 5) :
    decode (layR 0x1f vd va vb fn) = decUni vd va vb fn := by
  unfold decode
  rw [layR_major]
  exact layR_apply decUni rfl
theorem decode_cpy (hd : BitVec 4) (tag : BitVec 6) (sp : BitVec 5) (va : BitVec 7) (fn : BitVec 4) :
    decode (layX 0x20 hd tag sp va fn) = decCpy hd tag sp va fn := by
  unfold decode
  rw [layX_major]
  exact layX_apply decCpy rfl
theorem decode_cpym (hd : BitVec 4) (tag : BitVec 6) (sp : BitVec 5) (va : BitVec 7) (fn : BitVec 4) :
    decode (layX 0x21 hd tag sp va fn) = decCpym hd tag sp va fn := by
  unfold decode
  rw [layX_major]
  exact layX_apply decCpym rfl
theorem decode_cpyq (hd : BitVec 4) (tag : BitVec 6) (sp : BitVec 5) (va : BitVec 7) (fn : BitVec 4) :
    decode (layX 0x22 hd tag sp va fn) = decCpyq hd tag sp va fn := by
  unfold decode
  rw [layX_major]
  exact layX_apply decCpyq rfl
theorem decode_cbook (hd : BitVec 4) (tag : BitVec 6) (sp : BitVec 5) (va : BitVec 7) (fn : BitVec 4) :
    decode (layX 0x23 hd tag sp va fn) = decCbook hd tag sp va fn := by
  unfold decode
  rw [layX_major]
  exact layX_apply decCbook rfl
theorem decode_tags (vd va vb : BitVec 7) (fn : BitVec 5) :
    decode (layR 0x24 vd va vb fn) = decTags vd va vb fn := by
  unfold decode
  rw [layR_major]
  exact layR_apply decTags rfl
theorem decode_handles (vd va vb : BitVec 7) (fn : BitVec 5) :
    decode (layR 0x25 vd va vb fn) = decHandles vd va vb fn := by
  unfold decode
  rw [layR_major]
  exact layR_apply decHandles rfl
theorem decode_slots (op : BitVec 2) (mask : BitVec 8) (z : BitVec 16) :
    decode (layS 0x26 op mask z) = decSlots op mask z := by
  unfold decode
  rw [layS_major]
  exact layS_apply decSlots rfl
theorem decode_old (hd : BitVec 4) (tag : BitVec 6) (sp : BitVec 5) (va : BitVec 7) (fn : BitVec 4) :
    decode (layX 0x27 hd tag sp va fn) = decOld hd tag sp va fn := by
  unfold decode
  rw [layX_major]
  exact layX_apply decOld rfl
theorem decode_mma (hd : BitVec 4) (tag : BitVec 6) (sp : BitVec 5) (va : BitVec 7) (fn : BitVec 4) :
    decode (layX 0x28 hd tag sp va fn) = decMma hd tag sp va fn := by
  unfold decode
  rw [layX_major]
  exact layX_apply decMma rfl
theorem decode_mmas (hd : BitVec 4) (tag : BitVec 6) (sp : BitVec 5) (va : BitVec 7) (fn : BitVec 4) :
    decode (layX 0x29 hd tag sp va fn) = decMmas hd tag sp va fn := by
  unfold decode
  rw [layX_major]
  exact layX_apply decMmas rfl
theorem decode_mv (hd : BitVec 4) (tag : BitVec 6) (sp : BitVec 5) (va : BitVec 7) (fn : BitVec 4) :
    decode (layX 0x2a hd tag sp va fn) = decMv hd tag sp va fn := by
  unfold decode
  rw [layX_major]
  exact layX_apply decMv rfl
theorem decode_acc (hd : BitVec 4) (tag : BitVec 6) (sp : BitVec 5) (va : BitVec 7) (fn : BitVec 4) :
    decode (layX 0x2b hd tag sp va fn) = decAcc hd tag sp va fn := by
  unfold decode
  rw [layX_major]
  exact layX_apply decAcc rfl
theorem decode_scacc (hd : BitVec 4) (tag : BitVec 6) (sp : BitVec 5) (va : BitVec 7) (fn : BitVec 4) :
    decode (layX 0x2c hd tag sp va fn) = decScacc hd tag sp va fn := by
  unfold decode
  rw [layX_major]
  exact layX_apply decScacc rfl
theorem decode_sparse (hd : BitVec 4) (tag : BitVec 6) (sp : BitVec 5) (va : BitVec 7) (fn : BitVec 4) :
    decode (layX 0x2e hd tag sp va fn) = decSparse hd tag sp va fn := by
  unfold decode
  rw [layX_major]
  exact layX_apply decSparse rfl
theorem decode_fbind (fs : BitVec 3) (sp : BitVec 5) (va : BitVec 7) (near : Bool) (z : BitVec 10) :
    decode (layFB 0x2f fs sp va (boolBit near) z) = decFbind fs sp va near z := by
  unfold decode
  rw [layFB_major]
  exact layFB_apply decFbind rfl
theorem decode_chor (vd va vb : BitVec 7) (fn : BitVec 5) :
    decode (layR 0x33 vd va vb fn) = decChor vd va vb fn := by
  unfold decode
  rw [layR_major]
  exact layR_apply decChor rfl
theorem decode_hand (ch snd rcv : BitVec 4) (pk : BitVec 2) (va : BitVec 7) (z : BitVec 5) :
    decode (layHD 0x34 ch snd rcv pk va z) = decHand ch snd rcv pk va z := by
  unfold decode
  rw [layHD_major]
  exact layHD_apply decHand rfl
theorem decode_cloop (mode : Bool) (cnt : BitVec 11) (back : BitVec 14) :
    decode (layL 0x35 (boolBit mode) cnt back) = decCloop mode cnt back := by
  unfold decode
  rw [layL_major]
  exact layL_apply decCloop rfl
theorem decode_launch (hd : BitVec 4) (tag : BitVec 6) (sp : BitVec 5) (va : BitVec 7) (fn : BitVec 4) :
    decode (layX 0x37 hd tag sp va fn) = decLaunch hd tag sp va fn := by
  unfold decode
  rw [layX_major]
  exact layX_apply decLaunch rfl
theorem decode_gcinc (vd va vb : BitVec 7) (fn : BitVec 5) :
    decode (layR 0x38 vd va vb fn) = decGcinc vd va vb fn := by
  unfold decode
  rw [layR_major]
  exact layR_apply decGcinc rfl
theorem decode_queue (vd va vb : BitVec 7) (fn : BitVec 5) :
    decode (layR 0x39 vd va vb fn) = decQueue vd va vb fn := by
  unfold decode
  rw [layR_major]
  exact layR_apply decQueue rfl
theorem decode_rnd (vd va vb : BitVec 7) (fn : BitVec 5) :
    decode (layR 0x3a vd va vb fn) = decRnd vd va vb fn := by
  unfold decode
  rw [layR_major]
  exact layR_apply decRnd rfl
theorem decode_collective (hd : BitVec 4) (tag : BitVec 6) (sp : BitVec 5) (va : BitVec 7) (fn : BitVec 4) :
    decode (layX 0x3b hd tag sp va fn) = decCollective hd tag sp va fn := by
  unfold decode
  rw [layX_major]
  exact layX_apply decCollective rfl
theorem decode_digest (vd va vb : BitVec 7) (fn : BitVec 5) :
    decode (layR 0x3c vd va vb fn) = decDigest vd va vb fn := by
  unfold decode
  rw [layR_major]
  exact layR_apply decDigest rfl
theorem decode_hint (kind : BitVec 4) (payload : BitVec 22) :
    decode (layH 0x3f kind payload) = decHint kind payload := by
  unfold decode
  rw [layH_major]
  exact layH_apply decHint rfl
theorem decode_addi (vd va : BitVec 7) (imm : BitVec 12) :
    decode (layI 0x2 vd va imm) = .ok (.addi vd va imm) := by
  unfold decode
  rw [layI_major]
  exact layI_apply (fun vd va imm => (.ok (.addi vd va imm) : Decoded)) rfl
theorem decode_andi (vd va : BitVec 7) (imm : BitVec 12) :
    decode (layI 0x3 vd va imm) = .ok (.andi vd va imm) := by
  unfold decode
  rw [layI_major]
  exact layI_apply (fun vd va imm => (.ok (.andi vd va imm) : Decoded)) rfl
theorem decode_ori (vd va : BitVec 7) (imm : BitVec 12) :
    decode (layI 0x4 vd va imm) = .ok (.ori vd va imm) := by
  unfold decode
  rw [layI_major]
  exact layI_apply (fun vd va imm => (.ok (.ori vd va imm) : Decoded)) rfl
theorem decode_xori (vd va : BitVec 7) (imm : BitVec 12) :
    decode (layI 0x5 vd va imm) = .ok (.xori vd va imm) := by
  unfold decode
  rw [layI_major]
  exact layI_apply (fun vd va imm => (.ok (.xori vd va imm) : Decoded)) rfl
theorem decode_lui (vd : BitVec 7) (imm : BitVec 19) :
    decode (layU 0x7 vd imm) = .ok (.lui vd imm) := by
  unfold decode
  rw [layU_major]
  exact layU_apply (fun vd imm => (.ok (.lui vd imm) : Decoded)) rfl
theorem decode_fcvt (vd va : BitVec 7) (dfmt sfmt : BitVec 5) (z : BitVec 2) :
    decode (layV 0xe vd va dfmt sfmt z) = zeroFields (z == 0) (.fcvt vd va dfmt sfmt) := by
  unfold decode
  rw [layV_major]
  exact layV_apply (fun vd va dfmt sfmt z => (zeroFields (z == 0) (.fcvt vd va dfmt sfmt) : Decoded)) rfl
theorem decode_wait (nld nst : BitVec 6) (ncp ntl : BitVec 4) (z : BitVec 6) :
    decode (layW 0x1d nld nst ncp ntl z) = zeroFields (z == 0) (.wait nld nst ncp ntl) := by
  unfold decode
  rw [layW_major]
  exact layW_apply (fun nld nst ncp ntl z => (zeroFields (z == 0) (.wait nld nst ncp ntl) : Decoded)) rfl
theorem decode_fld (vd va : BitVec 7) (fs : BitVec 3) (z : BitVec 9) :
    decode (layF 0x30 vd va fs z) = zeroFields (z == 0) (.fld vd va fs) := by
  unfold decode
  rw [layF_major]
  exact layF_apply (fun vd va fs z => (zeroFields (z == 0) (.fld vd va fs) : Decoded)) rfl
theorem decode_fldg (vd va : BitVec 7) (fs : BitVec 3) (z : BitVec 9) :
    decode (layF 0x31 vd va fs z) = zeroFields (z == 0) (.fldg vd va fs) := by
  unfold decode
  rw [layF_major]
  exact layF_apply (fun vd va fs z => (zeroFields (z == 0) (.fldg vd va fs) : Decoded)) rfl
theorem decode_fspl (vd va : BitVec 7) (fs : BitVec 3) (z : BitVec 9) :
    decode (layF 0x32 vd va fs z) = zeroFields (z == 0) (.fspl vd va fs) := by
  unfold decode
  rw [layF_major]
  exact layF_apply (fun vd va fs z => (zeroFields (z == 0) (.fspl vd va fs) : Decoded)) rfl
theorem decode_epset (role eidx : BitVec 4) (z : BitVec 6) (va : BitVec 7) (z' : BitVec 5) :
    decode (layE 0x36 role eidx z va z') = zeroFields (z == 0 && z' == 0) (.epset role eidx va) := by
  unfold decode
  rw [layE_major]
  exact layE_apply (fun role eidx z va z' => (zeroFields (z == 0 && z' == 0) (.epset role eidx va) : Decoded)) rfl
theorem decode_cue (rmask : BitVec 16) (len : BitVec 10) :
    decode (layC 0x3e rmask len) = .ok (.cue rmask len) := by
  unfold decode
  rw [layC_major]
  exact layC_apply (fun rmask len => (.ok (.cue rmask len) : Decoded)) rfl
theorem decode_sel (vd va vb : BitVec 7) (wide inv : Bool) (p : PReg) :
    decode (layR 0xb vd va vb (boolBit wide ++ boolBit inv ++ p)) = .ok (.sel vd va vb wide inv p) := by
  have hlow : ∀ fn : BitVec 5, fieldOf (layR 0xb vd va vb fn) 2 0 = fieldOf fn 2 0 := fun _ => field_append_low _ _ _ _ (by decide)
  have hbit : ∀ k < 5, ∀ fn : BitVec 5, bitOf (layR 0xb vd va vb fn) k = bitOf fn k := by
    intro k hk fn
    simp only [layR, BitVec.getLsbD_append, hk, if_true]
  have hword : decode (layR 0xb vd va vb (boolBit wide ++ boolBit inv ++ p)) = .ok (.sel vd va vb
      (bitOf (layR 0xb vd va vb (boolBit wide ++ boolBit inv ++ p)) 4) (bitOf (layR 0xb vd va vb (boolBit wide ++ boolBit inv ++ p)) 3)
      (fieldOf (layR 0xb vd va vb (boolBit wide ++ boolBit inv ++ p)) 2 0)) := by
    unfold decode
    rw [layR_major]
    exact layR_apply (fun d a b _ => (.ok (.sel d a b _ _ _) : Decoded)) rfl
  simp only [hword, hlow, hbit 4 (by decide), hbit 3 (by decide), bitOf_top, bitOf_middle, append_low]
theorem decode_oprdy : decode (layU 0x2d 0 0) = .ok .oprdy := rfl

/-! Operands that the decoder reads back from part of a field -/

theorem decSys_ppt (sk : SReg) : decSys 0 (0#1 ++ sk) 0 7 = .ok (.ppt sk) := by
  simp only [decSys, assigned, bitOf_zero_high, append_low]; rfl
theorem decBitField_bfx (vd va : VReg) (sg : Bool) {len pos : BitVec 5} (h : bitFieldFits len pos = true) :
    decBitField vd va (0#1 ++ boolBit sg ++ len ++ pos) = .ok (.bfx vd va sg len pos) := by
  have hi : bitOf (0#1 ++ boolBit sg ++ len ++ pos) 11 = false := bitField_insert false sg len pos
  have hs : bitOf (0#1 ++ boolBit sg ++ len ++ pos) 10 = sg := bitField_signed false sg len pos
  simp only [decBitField, append_middle, append_low, hi, hs, assigned, h]; rfl
theorem decBitField_bfi (vd va : VReg) {len pos : BitVec 5} (h : bitFieldFits len pos = true) :
    decBitField vd va (1#1 ++ 0#1 ++ len ++ pos) = .ok (.bfi vd va len pos) := by
  have hi : bitOf (1#1 ++ 0#1 ++ len ++ pos) 11 = true := bitField_insert true false len pos
  have hz : bitOf (1#1 ++ 0#1 ++ len ++ pos) 10 = false := bitField_signed true false len pos
  simp only [decBitField, append_middle, append_low, hi, hz, assigned, h]; rfl

/-- Settles O1: each row's word, decoded by the fields of its layout. -/
theorem decodeEncode : Obligations.DecodeEncode := by
  intro i hwf
  cases i with
  | nop | exit | trap | eret | srd | swr | brk | dsav | drst => exact ⟨_, rfl, decode_sys ..⟩
  | ppt => exact ⟨_, rfl, (decode_sys ..).trans (decSys_ppt _)⟩
  | add | sub | mul | mulh | mulhu | and | or | xor | shl | shr | sar | rol | min | max | minu | maxu | div | divu | rem | remu
  | adds | subs | popc | clz | brev | add64 | sub64 => exact ⟨_, rfl, decode_int ..⟩
  | uadd | usub | umul | umulh | umulhu | uand | uor | uxor | ushl | ushr | usar | urol | umin | umax | uminu | umaxu | udiv
  | udivu | urem | uremu | uadds | usubs | upopc | uclz | ubrev | uadd64 | usub64 => exact ⟨_, rfl, decode_uni ..⟩
  | addi => exact ⟨_, rfl, decode_addi ..⟩
  | andi => exact ⟨_, rfl, decode_andi ..⟩
  | ori => exact ⟨_, rfl, decode_ori ..⟩
  | xori => exact ⟨_, rfl, decode_xori ..⟩
  | lui => exact ⟨_, rfl, decode_lui ..⟩
  | shli | shri | sari | roli =>
    refine ⟨_, rfl, (decode_shiftI ..).trans ?_⟩
    simp only [decShiftI, append_top, append_middle, append_low]; rfl
  | bfx _ _ sg => exact ⟨_, rfl, (decode_bitField ..).trans (decBitField_bfx _ _ sg hwf)⟩
  | bfi => exact ⟨_, rfl, (decode_bitField ..).trans (decBitField_bfi _ _ hwf)⟩
  | icmp =>
    refine ⟨_, rfl, (decode_icmp ..).trans ?_⟩
    simp only [decIcmp, append_low, append_top, bitOf_middle, ICond.ofBits?_bits, Combine.ofBits?_bits, withEnum]; rfl
  | fcmp =>
    refine ⟨_, rfl, (decode_fcmp ..).trans ?_⟩
    simp only [decFcmp, append_low, append_middle, bitOf_zero_top, FCond.ofBits?_bits, Combine.ofBits?_bits, FWidth.ofBits?_bits,
      withEnum]; rfl
  | sel => exact ⟨_, rfl, decode_sel ..⟩
  | fadd | fsub | fmul | ffma | fmin | fmax | fabs | fneg | fdiv | fsqrt | fsgnj => exact ⟨_, rfl, decode_float ..⟩
  | frcp | frsq | fexp2 | flog2 | fsin | fcos | ftanh | fsigm => exact ⟨_, rfl, decode_special ..⟩
  | fcvt => exact ⟨_, rfl, decode_fcvt ..⟩
  | pkadd | pkmul | pkfma | pkmin | pkmax | pksub | pkaddBf16 | pkmulBf16 | pkfmaBf16 | pkminBf16 | pkmaxBf16 | pksubBf16
  | fdot4E4m3 | fdot4E5m2 | idp4Ss | idp4Su | idp4Us | idp4Uu => exact ⟨_, rfl, decode_packed ..⟩
  | bra ps neg =>
    have hp : predAssigned ps neg = true := hwf
    refine ⟨_, rfl, (decode_bra ..).trans ?_⟩
    simp only [decBra, assigned, hp, BraKind.ofBits?_bits, withEnum]; rfl
  | call ps neg =>
    have hp : predAssigned ps neg = true := hwf
    refine ⟨_, rfl, (decode_call ..).trans ?_⟩
    simp only [decCall, assigned, hp]; rfl
  | jr | callr | ret => exact ⟨_, rfl, decode_jump ..⟩
  | pand | por | pxor | pandn | pnot | pmov | pset | pclr =>
    refine ⟨_, rfl, (decode_predicate ..).trans ?_⟩
    simp only [decPredicate, append_high, append_low]; rfl
  | ld => exact ⟨_, rfl, (decode_ld ..).trans (by simp only [decLd, LdSize.ofBits?_bits, withEnum])⟩
  | st => exact ⟨_, rfl, (decode_st ..).trans (by simp only [decSt, StSize.ofBits?_bits, withEnum])⟩
  | ldn => exact ⟨_, rfl, (decode_ldn ..).trans (by simp only [decLdn, LdSize.ofBits?_bits, withEnum]; rfl)⟩
  | stn => exact ⟨_, rfl, (decode_stn ..).trans (by simp only [decStn, StSize.ofBits?_bits, withEnum]; rfl)⟩
  | ldnf | ldnw | stne | stnf | fesetE | fesetF | feq => exact ⟨_, rfl, decode_fullEmpty ..⟩
  | atom =>
    refine ⟨_, rfl, (decode_atom ..).trans ?_⟩
    simp only [decAtom, append_low, spaceOf_bits, AtomOp.ofBits?_bits, withEnum]
  | red =>
    refine ⟨_, rfl, (decode_red ..).trans ?_⟩
    simp only [decRed, append_low, spaceOf_bits, RedOp.ofBits?_bits, withEnum]; rfl
  | lr | sc =>
    refine ⟨_, rfl, (decode_reserve ..).trans ?_⟩
    simp only [decReserve, append_low, spaceOf_bits]; rfl
  | fence k sc => exact ⟨_, rfl, (decode_sync ..).trans (by cases k <;> cases sc <;> rfl)⟩
  | fencePath => exact ⟨_, rfl, decode_sync ..⟩
  | bar n => exact ⟨_, rfl, (decode_sync ..).trans (by revert n; decide)⟩
  | tbar pd n => exact ⟨_, rfl, (decode_sync ..).trans (by revert pd n; decide)⟩
  | wait => exact ⟨_, rfl, decode_wait ..⟩
  | voteEvery | voteSome | voteMask | voteCount | shflAt | shflRot | shflRev | shflSwap | matchSame | matchUnif | confd | cmpk
  | matchLead => exact ⟨_, rfl, decode_row ..⟩
  | cpy _ _ sp _ dir =>
    have hbase : cpyBaseZero dir sp = true := hwf
    refine ⟨_, rfl, (decode_cpy ..).trans ?_⟩
    simp only [decCpy, append_high, append_low, CpyDir.ofField_bits, VecSize.ofBits?_bits, withEnum, zeroFields, hbase]; rfl
  | cpym _ _ _ _ n => exact ⟨_, rfl, (decode_cpym ..).trans (by cases n <;> rfl)⟩
  | cpyq =>
    refine ⟨_, rfl, (decode_cpyq ..).trans ?_⟩
    simp only [decCpyq, append_low, bitOf_middle, bitOf_zero_top]; rfl
  | cbook =>
    refine ⟨_, rfl, (decode_cbook ..).trans ?_⟩
    simp only [decCbook, append_high, append_low, VecSize.ofBits?_bits, withEnum]; rfl
  | bseal | twany | twall | tffr | tclr => exact ⟨_, rfl, decode_tags ..⟩
  | htest | hcan | hstat | hmov =>
    refine ⟨_, rfl, (decode_handles ..).trans ?_⟩
    simp only [decHandles, append_high, append_low]; rfl
  | oclm m | orel m =>
    have hm : (m != 0) = true := hwf
    refine ⟨_, rfl, (decode_slots ..).trans ?_⟩
    simp only [decSlots, assigned, hm]; rfl
  | old =>
    refine ⟨_, rfl, (decode_old ..).trans ?_⟩
    simp only [decOld, append_low, bitOf_zero_high]; rfl
  | mma _ _ _ _ ov => exact ⟨_, rfl, (decode_mma ..).trans (by cases ov <;> rfl)⟩
  | mmas =>
    refine ⟨_, rfl, (decode_mmas ..).trans ?_⟩
    simp only [decMmas, append_low, bitOf_middle, bitOf_zero_top, SparseN.ofBits?_bits, withEnum]; rfl
  | mv =>
    refine ⟨_, rfl, (decode_mv ..).trans ?_⟩
    simp only [decMv, append_low, bitOf_middle, bitOf_zero_top, MvMode.ofBits?_bits, withEnum]; rfl
  | accld | accst | acz => exact ⟨_, rfl, decode_acc ..⟩
  | scacc _ _ _ c => exact ⟨_, rfl, (decode_scacc ..).trans (by cases c <;> rfl)⟩
  | oprdy => exact ⟨_, rfl, decode_oprdy⟩
  | nprune _ _ _ n => exact ⟨_, rfl, (decode_sparse ..).trans (by cases n <;> rfl)⟩
  | cmpkSparse => exact ⟨_, rfl, decode_sparse ..⟩
  | fbind => exact ⟨_, rfl, decode_fbind (near := false) ..⟩
  | fbindNear => exact ⟨_, rfl, decode_fbind (near := true) ..⟩
  | fld => exact ⟨_, rfl, decode_fld ..⟩
  | fldg => exact ⟨_, rfl, decode_fldg ..⟩
  | fspl => exact ⟨_, rfl, decode_fspl ..⟩
  | chor =>
    refine ⟨_, rfl, (decode_chor ..).trans ?_⟩
    simp only [decChor, append_high, append_low]; rfl
  | cend => exact ⟨_, rfl, decode_chor ..⟩
  | hand _ snd rcv k va =>
    obtain ⟨hne, hpay⟩ := Bool.and_eq_true_iff.mp (show (snd != rcv && handPayloadOk k va) = true from hwf)
    refine ⟨_, rfl, (decode_hand ..).trans ?_⟩
    simp only [decHand, assigned, hne, Payload.ofBits?_bits, withEnum, hpay]; rfl
  | cloop c b =>
    obtain ⟨hc, hb⟩ := Bool.and_eq_true_iff.mp (show (c != 0 && b != 0) = true from hwf)
    refine ⟨_, rfl, (decode_cloop (mode := false) ..).trans ?_⟩
    simp only [decCloop, assigned, hc, hb]; rfl
  | cloopReg _ b =>
    have hb : (b != 0) = true := hwf
    refine ⟨_, rfl, (decode_cloop (mode := true) ..).trans ?_⟩
    simp only [decCloop, assigned, hb, append_high, append_low]; rfl
  | epset => exact ⟨_, rfl, decode_epset ..⟩
  | launch _ _ _ _ n => exact ⟨_, rfl, (decode_launch ..).trans (by cases n <;> rfl)⟩
  | gcinc => exact ⟨_, rfl, decode_gcinc ..⟩
  | qpush | qpop =>
    refine ⟨_, rfl, (decode_queue ..).trans ?_⟩
    simp only [decQueue, append_high, append_low]; rfl
  | rnd => exact ⟨_, rfl, decode_rnd ..⟩
  | ared | agath | bcast => exact ⟨_, rfl, decode_collective ..⟩
  | dgstRead | dgstFold => exact ⟨_, rfl, decode_digest ..⟩
  | cue => exact ⟨_, rfl, decode_cue ..⟩
  | imm | ipf | rmode =>
    refine ⟨_, rfl, (decode_hint ..).trans ?_⟩
    simp only [decHint, append_high, append_low]; rfl
  | pred p n =>
    have hp : predAssigned p n = true := hwf
    refine ⟨_, rfl, (decode_hint ..).trans ?_⟩
    simp only [decHint, append_top, append_low, bitOf_middle, assigned, hp]; rfl
  | sched =>
    refine ⟨_, rfl, (decode_hint ..).trans ?_⟩
    simp only [decHint, append_top, append_low, bitOf_middle]; rfl
  | _ => exact nomatch hwf

/-- Settles O3: each word is decoded by the fields of its layout. -/
theorem decodeWords : Obligations.DecodeWords := by
  unfold Obligations.DecodeWords
  decide

end Sys2Proof
end

section
/-! SUPPORT. What a decoder's answer says of the word (R87 to R108): the word that the fields of a layout make, and, for each major, that the
instruction answered is well formed and has that word; with the obligation that no bit of a word is ignored. -/
namespace Sys2Proof

/-! The word that the fields of a layout make (R89) -/

theorem layR_of_major {w : Word} {m : BitVec 6} (h : (fieldOf w 31 26).toNat = m.toNat) :
    layR m (fieldOf w 25 19) (fieldOf w 18 12) (fieldOf w 11 5) (fieldOf w 4 0) = w := by
  obtain rfl := BitVec.eq_of_toNat_eq h
  unfold layR
  iterate 4 rw [BitVec.extractLsb'_append_extractLsb'_eq_extractLsb']
  · exact field_whole w
  all_goals rfl
theorem layI_of_major {w : Word} {m : BitVec 6} (h : (fieldOf w 31 26).toNat = m.toNat) :
    layI m (fieldOf w 25 19) (fieldOf w 18 12) (fieldOf w 11 0) = w := by
  obtain rfl := BitVec.eq_of_toNat_eq h
  unfold layI
  iterate 3 rw [BitVec.extractLsb'_append_extractLsb'_eq_extractLsb']
  · exact field_whole w
  all_goals rfl
theorem layU_of_major {w : Word} {m : BitVec 6} (h : (fieldOf w 31 26).toNat = m.toNat) :
    layU m (fieldOf w 25 19) (fieldOf w 18 0) = w := by
  obtain rfl := BitVec.eq_of_toNat_eq h
  unfold layU
  iterate 2 rw [BitVec.extractLsb'_append_extractLsb'_eq_extractLsb']
  · exact field_whole w
  all_goals rfl
theorem layM_of_major {w : Word} {m : BitVec 6} (h : (fieldOf w 31 26).toNat = m.toNat) :
    layM m (fieldOf w 25 19) (fieldOf w 18 12) (fieldOf w 11 7) (fieldOf w 6 4) (fieldOf w 3 0) = w := by
  obtain rfl := BitVec.eq_of_toNat_eq h
  unfold layM
  iterate 5 rw [BitVec.extractLsb'_append_extractLsb'_eq_extractLsb']
  · exact field_whole w
  all_goals rfl
theorem layP_of_major {w : Word} {m : BitVec 6} (h : (fieldOf w 31 26).toNat = m.toNat) :
    layP m (fieldOf w 25 23) (fieldOf w 22 19) (fieldOf w 18 12) (fieldOf w 11 5) (fieldOf w 4 0) = w := by
  obtain rfl := BitVec.eq_of_toNat_eq h
  unfold layP
  iterate 5 rw [BitVec.extractLsb'_append_extractLsb'_eq_extractLsb']
  · exact field_whole w
  all_goals rfl
theorem layB_of_major {w : Word} {m : BitVec 6} (h : (fieldOf w 31 26).toNat = m.toNat) :
    layB m (fieldOf w 25 23) (boolBit (bitOf w 22)) (fieldOf w 21 20) (fieldOf w 19 0) = w := by
  obtain rfl := BitVec.eq_of_toNat_eq h
  rw [boolBit_bitOf]
  unfold layB
  iterate 4 rw [BitVec.extractLsb'_append_extractLsb'_eq_extractLsb']
  · exact field_whole w
  all_goals rfl
theorem layV_of_major {w : Word} {m : BitVec 6} (h : (fieldOf w 31 26).toNat = m.toNat) :
    layV m (fieldOf w 25 19) (fieldOf w 18 12) (fieldOf w 11 7) (fieldOf w 6 2) (fieldOf w 1 0) = w := by
  obtain rfl := BitVec.eq_of_toNat_eq h
  unfold layV
  iterate 5 rw [BitVec.extractLsb'_append_extractLsb'_eq_extractLsb']
  · exact field_whole w
  all_goals rfl
theorem layW_of_major {w : Word} {m : BitVec 6} (h : (fieldOf w 31 26).toNat = m.toNat) :
    layW m (fieldOf w 25 20) (fieldOf w 19 14) (fieldOf w 13 10) (fieldOf w 9 6) (fieldOf w 5 0) = w := by
  obtain rfl := BitVec.eq_of_toNat_eq h
  unfold layW
  iterate 5 rw [BitVec.extractLsb'_append_extractLsb'_eq_extractLsb']
  · exact field_whole w
  all_goals rfl
theorem layG_of_major {w : Word} {m : BitVec 6} (h : (fieldOf w 31 26).toNat = m.toNat) :
    layG m (fieldOf w 25 19) (fieldOf w 18 12) (fieldOf w 11 7) (fieldOf w 6 4) (fieldOf w 3 0) = w := by
  obtain rfl := BitVec.eq_of_toNat_eq h
  unfold layG
  iterate 5 rw [BitVec.extractLsb'_append_extractLsb'_eq_extractLsb']
  · exact field_whole w
  all_goals rfl
theorem layX_of_major {w : Word} {m : BitVec 6} (h : (fieldOf w 31 26).toNat = m.toNat) :
    layX m (fieldOf w 25 22) (fieldOf w 21 16) (fieldOf w 15 11) (fieldOf w 10 4) (fieldOf w 3 0) = w := by
  obtain rfl := BitVec.eq_of_toNat_eq h
  unfold layX
  iterate 5 rw [BitVec.extractLsb'_append_extractLsb'_eq_extractLsb']
  · exact field_whole w
  all_goals rfl
theorem layS_of_major {w : Word} {m : BitVec 6} (h : (fieldOf w 31 26).toNat = m.toNat) :
    layS m (fieldOf w 25 24) (fieldOf w 23 16) (fieldOf w 15 0) = w := by
  obtain rfl := BitVec.eq_of_toNat_eq h
  unfold layS
  iterate 3 rw [BitVec.extractLsb'_append_extractLsb'_eq_extractLsb']
  · exact field_whole w
  all_goals rfl
theorem layFB_of_major {w : Word} {m : BitVec 6} (h : (fieldOf w 31 26).toNat = m.toNat) :
    layFB m (fieldOf w 25 23) (fieldOf w 22 18) (fieldOf w 17 11) (boolBit (bitOf w 10)) (fieldOf w 9 0) = w := by
  obtain rfl := BitVec.eq_of_toNat_eq h
  rw [boolBit_bitOf]
  unfold layFB
  iterate 5 rw [BitVec.extractLsb'_append_extractLsb'_eq_extractLsb']
  · exact field_whole w
  all_goals rfl
theorem layF_of_major {w : Word} {m : BitVec 6} (h : (fieldOf w 31 26).toNat = m.toNat) :
    layF m (fieldOf w 25 19) (fieldOf w 18 12) (fieldOf w 11 9) (fieldOf w 8 0) = w := by
  obtain rfl := BitVec.eq_of_toNat_eq h
  unfold layF
  iterate 4 rw [BitVec.extractLsb'_append_extractLsb'_eq_extractLsb']
  · exact field_whole w
  all_goals rfl
theorem layHD_of_major {w : Word} {m : BitVec 6} (h : (fieldOf w 31 26).toNat = m.toNat) :
    layHD m (fieldOf w 25 22) (fieldOf w 21 18) (fieldOf w 17 14) (fieldOf w 13 12) (fieldOf w 11 5) (fieldOf w 4 0) = w := by
  obtain rfl := BitVec.eq_of_toNat_eq h
  unfold layHD
  iterate 6 rw [BitVec.extractLsb'_append_extractLsb'_eq_extractLsb']
  · exact field_whole w
  all_goals rfl
theorem layL_of_major {w : Word} {m : BitVec 6} (h : (fieldOf w 31 26).toNat = m.toNat) :
    layL m (boolBit (bitOf w 25)) (fieldOf w 24 14) (fieldOf w 13 0) = w := by
  obtain rfl := BitVec.eq_of_toNat_eq h
  rw [boolBit_bitOf]
  unfold layL
  iterate 3 rw [BitVec.extractLsb'_append_extractLsb'_eq_extractLsb']
  · exact field_whole w
  all_goals rfl
theorem layE_of_major {w : Word} {m : BitVec 6} (h : (fieldOf w 31 26).toNat = m.toNat) :
    layE m (fieldOf w 25 22) (fieldOf w 21 18) (fieldOf w 17 12) (fieldOf w 11 5) (fieldOf w 4 0) = w := by
  obtain rfl := BitVec.eq_of_toNat_eq h
  unfold layE
  iterate 5 rw [BitVec.extractLsb'_append_extractLsb'_eq_extractLsb']
  · exact field_whole w
  all_goals rfl
theorem layC_of_major {w : Word} {m : BitVec 6} (h : (fieldOf w 31 26).toNat = m.toNat) :
    layC m (fieldOf w 25 10) (fieldOf w 9 0) = w := by
  obtain rfl := BitVec.eq_of_toNat_eq h
  unfold layC
  iterate 2 rw [BitVec.extractLsb'_append_extractLsb'_eq_extractLsb']
  · exact field_whole w
  all_goals rfl
theorem layH_of_major {w : Word} {m : BitVec 6} (h : (fieldOf w 31 26).toNat = m.toNat) :
    layH m (fieldOf w 25 22) (fieldOf w 21 0) = w := by
  obtain rfl := BitVec.eq_of_toNat_eq h
  unfold layH
  iterate 2 rw [BitVec.extractLsb'_append_extractLsb'_eq_extractLsb']
  · exact field_whole w
  all_goals rfl

/-! What a decoder's answer says of the word -/

/-- If the decoder answers an instruction, it is well formed, and w is its word. -/
structure Reads (d : Decoded) (w : Word) : Prop where
  answer : ∀ i, d = .ok i → i.wellFormed = true ∧ encode i = some w

theorem Reads.of_eq {d : Decoded} {v w : Word} (h : Reads d v) (e : v = w) : Reads d w := e ▸ h
theorem reads_error {e : DecodeError} {w : Word} : Reads (.error e) w := ⟨fun _ h => by cases h⟩
theorem reads_ok {i : Instr} {w : Word} : Reads (.ok i) w ↔ i.wellFormed = true ∧ encode i = some w :=
  ⟨fun h => h.answer i rfl, fun h => ⟨fun _ e => by cases e; exact h⟩⟩
theorem reads_zeroFields {b : Bool} {i : Instr} {w : Word} :
    Reads (zeroFields b i) w ↔ (b = true → i.wellFormed = true ∧ encode i = some w) := by
  cases b <;> simp [zeroFields, reads_ok, reads_error]
theorem reads_assigned {b : Bool} {d : Decoded} {w : Word} : Reads (assigned b d) w ↔ (b = true → Reads d w) := by
  cases b <;> simp [assigned, reads_error]
theorem reads_withEnum {α : Type} {o : Option α} {k : α → Decoded} {w : Word} : Reads (withEnum o k) w ↔ ∀ a ∈ o, Reads (k a) w := by
  cases o <;> simp [withEnum, reads_error]

/-! The majors whose words are a table of function codes -/

theorem reads_sys (vd va vb : BitVec 7) (fn : BitVec 5) :
    Reads (decSys vd va vb fn) (layR 0x0 vd va vb fn) := by
  unfold decSys
  split
  case h_8 h =>
    obtain rfl := eq_ofNat_of_toNat h
    obtain ⟨a, sk, rfl⟩ := exists_append (m := 1) (n := 6) va
    obtain ⟨b, rfl⟩ := exists_boolBit a
    simp only [reads_assigned, reads_zeroFields, bitOf_high, append_low, Bool.not_eq_true', Bool.and_eq_true, beq_iff_eq, and_imp]
    intros; subst_vars; exact ⟨rfl, rfl⟩
  case h_11 => exact reads_error
  all_goals
    obtain rfl := eq_ofNat_of_toNat ‹fn.toNat = _›
    simp only [reads_zeroFields, beq_iff_eq, Bool.and_eq_true, and_imp]
    intros; subst_vars; exact ⟨rfl, rfl⟩
theorem reads_int (vd va vb : BitVec 7) (fn : BitVec 5) :
    Reads (decInt vd va vb fn) (layR 0x1 vd va vb fn) := by
  unfold decInt
  split
  case h_28 => exact reads_error
  all_goals
    obtain rfl := eq_ofNat_of_toNat ‹fn.toNat = _›
    simp only [reads_ok, reads_zeroFields, beq_iff_eq]
    intros; subst_vars; exact ⟨rfl, rfl⟩
theorem reads_uni (vd va vb : BitVec 7) (fn : BitVec 5) :
    Reads (decUni vd va vb fn) (layR 0x1f vd va vb fn) := by
  unfold decUni
  split
  case h_28 => exact reads_error
  all_goals
    obtain rfl := eq_ofNat_of_toNat ‹fn.toNat = _›
    simp only [reads_ok, reads_zeroFields, beq_iff_eq]
    intros; subst_vars; exact ⟨rfl, rfl⟩
theorem reads_float (vd va vb : BitVec 7) (fn : BitVec 5) :
    Reads (decFloat vd va vb fn) (layR 0xc vd va vb fn) := by
  unfold decFloat
  split
  case h_12 => exact reads_error
  all_goals
    obtain rfl := eq_ofNat_of_toNat ‹fn.toNat = _›
    simp only [reads_ok, reads_zeroFields, beq_iff_eq]
    intros; subst_vars; exact ⟨rfl, rfl⟩
theorem reads_special (vd va vb : BitVec 7) (fn : BitVec 5) :
    Reads (decSpecial vd va vb fn) (layR 0xd vd va vb fn) := by
  unfold decSpecial
  split
  case h_9 => exact reads_error
  all_goals
    obtain rfl := eq_ofNat_of_toNat ‹fn.toNat = _›
    simp only [reads_zeroFields, beq_iff_eq]
    intros; subst_vars; exact ⟨rfl, rfl⟩
theorem reads_packed (vd va vb : BitVec 7) (fn : BitVec 5) :
    Reads (decPacked vd va vb fn) (layR 0xf vd va vb fn) := by
  unfold decPacked
  split
  case h_19 => exact reads_error
  all_goals
    obtain rfl := eq_ofNat_of_toNat ‹fn.toNat = _›
    exact reads_ok.mpr ⟨rfl, rfl⟩
theorem reads_jump (vd va vb : BitVec 7) (fn : BitVec 5) :
    Reads (decJump vd va vb fn) (layR 0x12 vd va vb fn) := by
  unfold decJump
  split
  case h_4 => exact reads_error
  all_goals
    obtain rfl := eq_ofNat_of_toNat ‹fn.toNat = _›
    simp only [reads_zeroFields, beq_iff_eq, Bool.and_eq_true, and_imp]
    intros; subst_vars; exact ⟨rfl, rfl⟩
theorem reads_predicate (pd : BitVec 3) (cond : BitVec 4) (va vb : BitVec 7) (fn : BitVec 5) :
    Reads (decPredicate pd cond va vb fn) (layP 0x13 pd cond va vb fn) := by
  obtain ⟨a, pa, rfl⟩ := exists_append (m := 4) (n := 3) va
  obtain ⟨b, pb, rfl⟩ := exists_append (m := 4) (n := 3) vb
  unfold decPredicate
  simp only [append_high, append_low]
  split
  case h_9 => exact reads_error
  all_goals
    obtain rfl := eq_ofNat_of_toNat ‹fn.toNat = _›
    simp only [reads_zeroFields, beq_iff_eq, Bool.and_eq_true, and_imp]
    intros; subst_vars; exact ⟨rfl, rfl⟩
theorem reads_fullEmpty (vd va vb : BitVec 7) (fn : BitVec 5) :
    Reads (decFullEmpty vd va vb fn) (layR 0x18 vd va vb fn) := by
  unfold decFullEmpty
  split
  case h_8 => exact reads_error
  all_goals
    obtain rfl := eq_ofNat_of_toNat ‹fn.toNat = _›
    simp only [reads_zeroFields, beq_iff_eq, Bool.and_eq_true, and_imp]
    intros; subst_vars; exact ⟨rfl, rfl⟩
theorem reads_row (vd va : BitVec 7) (sm : BitVec 5) (pp : BitVec 3) (fn : BitVec 4) :
    Reads (decRow vd va sm pp fn) (layG 0x1e vd va sm pp fn) := by
  unfold decRow
  split
  case h_14 => exact reads_error
  all_goals
    obtain rfl := eq_ofNat_of_toNat ‹fn.toNat = _›
    simp only [reads_zeroFields, beq_iff_eq]
    intros; subst_vars; exact ⟨rfl, rfl⟩
theorem reads_cpym (hd : BitVec 4) (tag : BitVec 6) (sp : BitVec 5) (va : BitVec 7) (fn : BitVec 4) :
    Reads (decCpym hd tag sp va fn) (layX 0x21 hd tag sp va fn) := by
  unfold decCpym
  split
  case h_3 => exact reads_error
  all_goals
    obtain rfl := eq_ofNat_of_toNat ‹fn.toNat = _›
    exact reads_ok.mpr ⟨rfl, rfl⟩
theorem reads_tags (vd va vb : BitVec 7) (fn : BitVec 5) :
    Reads (decTags vd va vb fn) (layR 0x24 vd va vb fn) := by
  unfold decTags
  split
  case h_6 => exact reads_error
  all_goals
    obtain rfl := eq_ofNat_of_toNat ‹fn.toNat = _›
    simp only [reads_zeroFields, beq_iff_eq, Bool.and_eq_true, and_imp]
    intros; subst_vars; exact ⟨rfl, rfl⟩
theorem reads_handles (vd va vb : BitVec 7) (fn : BitVec 5) :
    Reads (decHandles vd va vb fn) (layR 0x25 vd va vb fn) := by
  obtain ⟨a, hs, rfl⟩ := exists_append (m := 3) (n := 4) va
  unfold decHandles
  simp only [append_high, append_low]
  split
  case h_4 h =>
    obtain rfl := eq_ofNat_of_toNat h
    obtain ⟨b, hd, rfl⟩ := exists_append (m := 3) (n := 4) vb
    simp only [reads_zeroFields, append_high, append_low, beq_iff_eq, Bool.and_eq_true, and_imp]
    intros; subst_vars; exact ⟨rfl, rfl⟩
  case h_5 => exact reads_error
  all_goals
    obtain rfl := eq_ofNat_of_toNat ‹fn.toNat = _›
    simp only [reads_zeroFields, beq_iff_eq, Bool.and_eq_true, and_imp]
    intros; subst_vars; exact ⟨rfl, rfl⟩
theorem reads_mma (hd : BitVec 4) (tag : BitVec 6) (sp : BitVec 5) (va : BitVec 7) (fn : BitVec 4) :
    Reads (decMma hd tag sp va fn) (layX 0x28 hd tag sp va fn) := by
  unfold decMma
  split
  case h_3 => exact reads_error
  all_goals
    obtain rfl := eq_ofNat_of_toNat ‹fn.toNat = _›
    exact reads_ok.mpr ⟨rfl, rfl⟩
theorem reads_acc (hd : BitVec 4) (tag : BitVec 6) (sp : BitVec 5) (va : BitVec 7) (fn : BitVec 4) :
    Reads (decAcc hd tag sp va fn) (layX 0x2b hd tag sp va fn) := by
  unfold decAcc
  split
  case h_4 => exact reads_error
  all_goals
    obtain rfl := eq_ofNat_of_toNat ‹fn.toNat = _›
    exact reads_ok.mpr ⟨rfl, rfl⟩
theorem reads_scacc (hd : BitVec 4) (tag : BitVec 6) (sp : BitVec 5) (va : BitVec 7) (fn : BitVec 4) :
    Reads (decScacc hd tag sp va fn) (layX 0x2c hd tag sp va fn) := by
  unfold decScacc
  split
  case h_3 => exact reads_error
  all_goals
    obtain rfl := eq_ofNat_of_toNat ‹fn.toNat = _›
    simp only [reads_zeroFields, beq_iff_eq]
    intros; subst_vars; exact ⟨rfl, rfl⟩
theorem reads_sparse (hd : BitVec 4) (tag : BitVec 6) (sp : BitVec 5) (va : BitVec 7) (fn : BitVec 4) :
    Reads (decSparse hd tag sp va fn) (layX 0x2e hd tag sp va fn) := by
  unfold decSparse
  split
  case h_5 => exact reads_error
  all_goals
    obtain rfl := eq_ofNat_of_toNat ‹fn.toNat = _›
    simp only [reads_zeroFields, beq_iff_eq]
    intros; subst_vars; exact ⟨rfl, rfl⟩
theorem reads_launch (hd : BitVec 4) (tag : BitVec 6) (sp : BitVec 5) (va : BitVec 7) (fn : BitVec 4) :
    Reads (decLaunch hd tag sp va fn) (layX 0x37 hd tag sp va fn) := by
  unfold decLaunch
  split
  case h_3 => exact reads_error
  all_goals
    obtain rfl := eq_ofNat_of_toNat ‹fn.toNat = _›
    exact reads_ok.mpr ⟨rfl, rfl⟩
theorem reads_queue (vd va vb : BitVec 7) (fn : BitVec 5) :
    Reads (decQueue vd va vb fn) (layR 0x39 vd va vb fn) := by
  obtain ⟨b, pr, rfl⟩ := exists_append (m := 2) (n := 5) vb
  unfold decQueue
  simp only [append_high, append_low]
  split
  case h_3 => exact reads_error
  all_goals
    obtain rfl := eq_ofNat_of_toNat ‹fn.toNat = _›
    simp only [reads_zeroFields, beq_iff_eq, Bool.and_eq_true, and_imp]
    intros; subst_vars; exact ⟨rfl, rfl⟩
theorem reads_collective (hd : BitVec 4) (tag : BitVec 6) (sp : BitVec 5) (va : BitVec 7) (fn : BitVec 4) :
    Reads (decCollective hd tag sp va fn) (layX 0x3b hd tag sp va fn) := by
  unfold decCollective
  split
  case h_4 => exact reads_error
  all_goals
    obtain rfl := eq_ofNat_of_toNat ‹fn.toNat = _›
    simp only [reads_zeroFields, beq_iff_eq]
    intros; subst_vars; exact ⟨rfl, rfl⟩
theorem reads_digest (vd va vb : BitVec 7) (fn : BitVec 5) :
    Reads (decDigest vd va vb fn) (layR 0x3c vd va vb fn) := by
  unfold decDigest
  split
  case h_3 => exact reads_error
  all_goals
    obtain rfl := eq_ofNat_of_toNat ‹fn.toNat = _›
    simp only [reads_zeroFields, beq_iff_eq, Bool.and_eq_true, and_imp]
    intros; subst_vars; exact ⟨rfl, rfl⟩
theorem reads_chor (vd va vb : BitVec 7) (fn : BitVec 5) :
    Reads (decChor vd va vb fn) (layR 0x33 vd va vb fn) := by
  unfold decChor
  split
  case h_1 h =>
    obtain rfl := eq_ofNat_of_toNat h
    obtain ⟨a, k, rfl⟩ := exists_append (m := 5) (n := 2) vd
    obtain ⟨b, pr, rfl⟩ := exists_append (m := 2) (n := 5) vb
    simp only [reads_zeroFields, append_high, append_low, beq_iff_eq, Bool.and_eq_true, and_imp]
    intros; subst_vars; exact ⟨rfl, rfl⟩
  case h_3 => exact reads_error
  all_goals
    obtain rfl := eq_ofNat_of_toNat ‹fn.toNat = _›
    simp only [reads_zeroFields, beq_iff_eq, Bool.and_eq_true, and_imp]
    intros; subst_vars; exact ⟨rfl, rfl⟩

/-! The majors with fields of their own -/

theorem sync_index : ∀ (k : BitVec 2) (x : BitVec 3), bitOf (k ++ x) 2 = false → k ++ 0#1 ++ fieldOf (k ++ x) 1 0 = k ++ x := by decide
theorem reads_shiftI (vd va : BitVec 7) (imm : BitVec 12) :
    Reads (decShiftI vd va imm) (layI 0x6 vd va imm) := by
  obtain ⟨k, z, c, rfl⟩ := exists_append₃ (l := 2) (m := 5) (n := 5) imm
  simp only [decShiftI, append_top, append_middle, append_low]
  split
  case h_4 h0 h1 h2 =>
    obtain rfl := (by decide : ∀ k : BitVec 2, k.toNat ≠ 0 → k.toNat ≠ 1 → k.toNat ≠ 2 → k = 3) k h0 h1 h2
    simp only [reads_zeroFields, beq_iff_eq]
    rintro rfl; exact ⟨rfl, rfl⟩
  all_goals
    obtain rfl := eq_ofNat_of_toNat ‹k.toNat = _›
    simp only [reads_zeroFields, beq_iff_eq]
    rintro rfl; exact ⟨rfl, rfl⟩
theorem reads_bitField (vd va : BitVec 7) (imm : BitVec 12) :
    Reads (decBitField vd va imm) (layI 0x8 vd va imm) := by
  obtain ⟨x, len, pos, rfl⟩ := exists_append₃ (l := 2) (m := 5) (n := 5) imm
  obtain ⟨y, z, rfl⟩ := exists_append (m := 1) (n := 1) x
  obtain ⟨bi, rfl⟩ := exists_boolBit y
  obtain ⟨sg, rfl⟩ := exists_boolBit z
  simp only [decBitField, append_middle, append_low, bitField_insert, bitField_signed, reads_assigned]
  intro hfit
  cases bi
  · exact reads_ok.mpr ⟨hfit, rfl⟩
  · rw [if_pos rfl, reads_zeroFields, Bool.not_eq_true']
    rintro rfl; exact ⟨hfit, rfl⟩
theorem reads_icmp (pd : BitVec 3) (cond : BitVec 4) (va vb : BitVec 7) (fn : BitVec 5) :
    Reads (decIcmp pd cond va vb fn) (layP 0x9 pd cond va vb fn) := by
  obtain ⟨z, x, m, rfl⟩ := exists_append₃ (l := 2) (m := 1) (n := 2) fn
  obtain ⟨w, rfl⟩ := exists_boolBit x
  simp only [decIcmp, append_low, append_top, bitOf_middle, reads_withEnum, reads_zeroFields, beq_iff_eq]
  rintro c hc mode hm rfl
  obtain rfl := ICond.bits_of_ofBits? _ _ hc
  obtain rfl := Combine.bits_of_ofBits? _ _ hm
  exact ⟨rfl, rfl⟩
theorem reads_fcmp (pd : BitVec 3) (cond : BitVec 4) (va vb : BitVec 7) (fn : BitVec 5) :
    Reads (decFcmp pd cond va vb fn) (layP 0xa pd cond va vb fn) := by
  obtain ⟨x, f, m, rfl⟩ := exists_append₃ (l := 1) (m := 2) (n := 2) fn
  obtain ⟨z, rfl⟩ := exists_boolBit x
  simp only [decFcmp, append_low, append_middle, bitOf_top, reads_withEnum, reads_zeroFields, Bool.not_eq_true']
  rintro c hc mode hm fmt hf rfl
  obtain rfl := FCond.bits_of_ofBits? _ _ hc
  obtain rfl := Combine.bits_of_ofBits? _ _ hm
  obtain rfl := FWidth.bits_of_ofBits? _ _ hf
  exact ⟨rfl, rfl⟩
theorem reads_bra (ps : BitVec 3) (neg : Bool) (kind : BitVec 2) (off : BitVec 20) :
    Reads (decBra ps neg kind off) (layB 0x10 ps (boolBit neg) kind off) := by
  simp only [decBra, reads_assigned, reads_withEnum, reads_ok]
  intro hp k hk
  obtain rfl := BraKind.bits_of_ofBits? _ _ hk
  exact ⟨hp, rfl⟩
theorem reads_call (ps : BitVec 3) (neg : Bool) (kind : BitVec 2) (off : BitVec 20) :
    Reads (decCall ps neg kind off) (layB 0x11 ps (boolBit neg) kind off) := by
  simp only [decCall, reads_assigned, reads_ok, Bool.and_eq_true, beq_iff_eq, and_imp]
  rintro hp rfl
  exact ⟨hp, rfl⟩
theorem reads_ld (vd vo : BitVec 7) (sb : BitVec 5) (sz : BitVec 3) (imm : BitVec 4) :
    Reads (decLd vd vo sb sz imm) (layM 0x14 vd vo sb sz imm) := by
  simp only [decLd, reads_withEnum, reads_ok]
  intro z hz
  obtain rfl := LdSize.bits_of_ofBits? _ _ hz
  exact ⟨rfl, rfl⟩
theorem reads_st (vd vo : BitVec 7) (sb : BitVec 5) (sz : BitVec 3) (imm : BitVec 4) :
    Reads (decSt vd vo sb sz imm) (layM 0x15 vd vo sb sz imm) := by
  simp only [decSt, reads_withEnum, reads_ok]
  intro z hz
  obtain rfl := StSize.bits_of_ofBits? _ _ hz
  exact ⟨rfl, rfl⟩
theorem reads_ldn (vd vo : BitVec 7) (sb : BitVec 5) (sz : BitVec 3) (imm : BitVec 4) :
    Reads (decLdn vd vo sb sz imm) (layM 0x16 vd vo sb sz imm) := by
  simp only [decLdn, reads_withEnum, reads_zeroFields, beq_iff_eq]
  rintro z hz rfl
  obtain rfl := LdSize.bits_of_ofBits? _ _ hz
  exact ⟨rfl, rfl⟩
theorem reads_stn (vd vo : BitVec 7) (sb : BitVec 5) (sz : BitVec 3) (imm : BitVec 4) :
    Reads (decStn vd vo sb sz imm) (layM 0x17 vd vo sb sz imm) := by
  simp only [decStn, reads_withEnum, reads_zeroFields, beq_iff_eq]
  rintro z hz rfl
  obtain rfl := StSize.bits_of_ofBits? _ _ hz
  exact ⟨rfl, rfl⟩
theorem reads_atom (vd va vb : BitVec 7) (fn : BitVec 5) :
    Reads (decAtom vd va vb fn) (layR 0x19 vd va vb fn) := by
  obtain ⟨x, o, rfl⟩ := exists_append (m := 1) (n := 4) fn
  obtain ⟨sp, rfl⟩ := exists_spaceBits x
  simp only [decAtom, append_low, spaceOf_bits, reads_withEnum, reads_ok]
  intro op hop
  obtain rfl := AtomOp.bits_of_ofBits? _ _ hop
  exact ⟨rfl, rfl⟩
theorem reads_red (vd va vb : BitVec 7) (fn : BitVec 5) :
    Reads (decRed vd va vb fn) (layR 0x1a vd va vb fn) := by
  obtain ⟨x, o, rfl⟩ := exists_append (m := 1) (n := 4) fn
  obtain ⟨sp, rfl⟩ := exists_spaceBits x
  simp only [decRed, append_low, spaceOf_bits, reads_withEnum, reads_zeroFields, beq_iff_eq]
  rintro op hop rfl
  obtain rfl := RedOp.bits_of_ofBits? _ _ hop
  exact ⟨rfl, rfl⟩
theorem reads_reserve (vd va vb : BitVec 7) (fn : BitVec 5) :
    Reads (decReserve vd va vb fn) (layR 0x1b vd va vb fn) := by
  obtain ⟨x, o, rfl⟩ := exists_append (m := 1) (n := 4) fn
  obtain ⟨sp, rfl⟩ := exists_spaceBits x
  simp only [decReserve, append_low, spaceOf_bits]
  split
  case h_3 => exact reads_error
  all_goals
    obtain rfl := eq_ofNat_of_toNat ‹o.toNat = _›
    simp only [reads_ok, reads_zeroFields, beq_iff_eq]
    intros; subst_vars; exact ⟨rfl, rfl⟩
theorem reads_fence (vd va vb : BitVec 7) (x : BitVec 3) :
    Reads (decFence vd va vb (0#2 ++ x)) (layR 0x1c vd va vb (0#2 ++ x)) := by
  obtain ⟨a, y, rfl⟩ := exists_append (m := 5) (n := 2) vd
  simp only [decFence, append_high, append_low, reads_withEnum]
  intro k hk
  obtain rfl := FenceKind.bits_of_ofBits? _ _ hk
  split
  case isTrue h =>
    obtain rfl := eq_of_beq h
    simp only [reads_assigned, reads_zeroFields, Bool.and_eq_true, beq_iff_eq, and_imp]
    rintro rfl rfl rfl rfl; exact ⟨rfl, rfl⟩
  case isFalse =>
    simp only [reads_withEnum, reads_zeroFields, Bool.and_eq_true, beq_iff_eq, and_imp]
    rintro sc hsc rfl rfl rfl
    obtain rfl := Scope.bits_of_ofBits? _ _ hsc
    exact ⟨rfl, rfl⟩
theorem reads_sync (vd va vb : BitVec 7) (fn : BitVec 5) :
    Reads (decSync vd va vb fn) (layR 0x1c vd va vb fn) := by
  obtain ⟨k, x, rfl⟩ := exists_append (m := 2) (n := 3) fn
  simp only [decSync, append_high]
  split
  case h_1 h =>
    obtain rfl := eq_ofNat_of_toNat h
    exact reads_fence vd va vb x
  case h_2 h =>
    obtain rfl := eq_ofNat_of_toNat h
    simp only [reads_zeroFields, Bool.and_eq_true, beq_iff_eq, Bool.not_eq_true', and_imp]
    rintro rfl rfl rfl hz
    exact ⟨rfl, congrArg (fun f => some (layR 0x1c 0 0 0 f)) (sync_index 1 x hz)⟩
  case h_3 h =>
    obtain rfl := eq_ofNat_of_toNat h
    obtain ⟨a, pd, rfl⟩ := exists_append (m := 4) (n := 3) vd
    simp only [reads_zeroFields, append_high, append_low, Bool.and_eq_true, beq_iff_eq, Bool.not_eq_true', and_imp]
    rintro rfl rfl rfl hz
    exact ⟨rfl, congrArg (fun f => some (layR 0x1c (0#4 ++ pd) 0 0 f)) (sync_index 2 x hz)⟩
  case h_4 => exact reads_error
theorem reads_cpy (hd : BitVec 4) (tag : BitVec 6) (sp : BitVec 5) (va : BitVec 7) (fn : BitVec 4) :
    Reads (decCpy hd tag sp va fn) (layX 0x20 hd tag sp va fn) := by
  obtain ⟨y, x, rfl⟩ := exists_append (m := 2) (n := 2) fn
  obtain ⟨dir, rfl⟩ := exists_cpyDirBits y
  simp only [decCpy, append_high, append_low, CpyDir.ofField_bits, reads_withEnum, reads_zeroFields]
  intro z hz hbase
  obtain rfl := VecSize.bits_of_ofBits? _ _ hz
  exact ⟨hbase, rfl⟩
theorem reads_cpyq (hd : BitVec 4) (tag : BitVec 6) (sp : BitVec 5) (va : BitVec 7) (fn : BitVec 4) :
    Reads (decCpyq hd tag sp va fn) (layX 0x22 hd tag sp va fn) := by
  obtain ⟨y, i, tb, rfl⟩ := exists_append₃ (l := 1) (m := 1) (n := 2) fn
  obtain ⟨b, rfl⟩ := exists_boolBit y
  obtain ⟨i8, rfl⟩ := exists_boolBit i
  simp only [decCpyq, append_low, bitOf_top, bitOf_middle, reads_zeroFields, Bool.not_eq_true']
  rintro rfl; exact ⟨rfl, rfl⟩
theorem reads_cbook (hd : BitVec 4) (tag : BitVec 6) (sp : BitVec 5) (va : BitVec 7) (fn : BitVec 4) :
    Reads (decCbook hd tag sp va fn) (layX 0x23 hd tag sp va fn) := by
  obtain ⟨x, tb, rfl⟩ := exists_append (m := 2) (n := 2) fn
  simp only [decCbook, append_high, append_low, reads_withEnum, reads_zeroFields, beq_iff_eq]
  rintro z hz rfl
  obtain rfl := VecSize.bits_of_ofBits? _ _ hz
  exact ⟨rfl, rfl⟩
theorem reads_slots (op : BitVec 2) (mask : BitVec 8) (z : BitVec 16) :
    Reads (decSlots op mask z) (layS 0x26 op mask z) := by
  simp only [decSlots, reads_assigned]
  intro hmask
  split
  case h_3 => exact reads_error
  all_goals
    obtain rfl := eq_ofNat_of_toNat ‹op.toNat = _›
    simp only [reads_zeroFields, beq_iff_eq]
    rintro rfl; exact ⟨hmask, rfl⟩
theorem reads_old (hd : BitVec 4) (tag : BitVec 6) (sp : BitVec 5) (va : BitVec 7) (fn : BitVec 4) :
    Reads (decOld hd tag sp va fn) (layX 0x27 hd tag sp va fn) := by
  obtain ⟨y, sl, rfl⟩ := exists_append (m := 1) (n := 3) fn
  obtain ⟨b, rfl⟩ := exists_boolBit y
  simp only [decOld, append_low, bitOf_high, reads_zeroFields, Bool.not_eq_true']
  rintro rfl; exact ⟨rfl, rfl⟩
theorem reads_mmas (hd : BitVec 4) (tag : BitVec 6) (sp : BitVec 5) (va : BitVec 7) (fn : BitVec 4) :
    Reads (decMmas hd tag sp va fn) (layX 0x29 hd tag sp va fn) := by
  obtain ⟨y, i, c, rfl⟩ := exists_append₃ (l := 1) (m := 1) (n := 2) fn
  obtain ⟨b, rfl⟩ := exists_boolBit y
  obtain ⟨o, rfl⟩ := exists_boolBit i
  simp only [decMmas, append_low, bitOf_top, bitOf_middle, reads_withEnum, reads_zeroFields, Bool.not_eq_true']
  rintro e he rfl
  obtain rfl := SparseN.bits_of_ofBits? _ _ he
  exact ⟨rfl, rfl⟩
theorem reads_mv (hd : BitVec 4) (tag : BitVec 6) (sp : BitVec 5) (va : BitVec 7) (fn : BitVec 4) :
    Reads (decMv hd tag sp va fn) (layX 0x2a hd tag sp va fn) := by
  obtain ⟨y, i, c, rfl⟩ := exists_append₃ (l := 1) (m := 1) (n := 2) fn
  obtain ⟨b, rfl⟩ := exists_boolBit y
  obtain ⟨o, rfl⟩ := exists_boolBit i
  simp only [decMv, append_low, bitOf_top, bitOf_middle, reads_withEnum, reads_zeroFields, Bool.not_eq_true']
  rintro e he rfl
  obtain rfl := MvMode.bits_of_ofBits? _ _ he
  exact ⟨rfl, rfl⟩
theorem reads_fbind (fs : BitVec 3) (sp : BitVec 5) (va : BitVec 7) (near : Bool) (z : BitVec 10) :
    Reads (decFbind fs sp va near z) (layFB 0x2f fs sp va (boolBit near) z) := by
  unfold decFbind
  cases near
  · rw [if_neg Bool.false_ne_true, reads_zeroFields, beq_iff_eq]
    rintro rfl; exact ⟨rfl, rfl⟩
  · rw [if_pos rfl, reads_zeroFields, Bool.and_eq_true, beq_iff_eq, beq_iff_eq]
    rintro ⟨rfl, rfl⟩; exact ⟨rfl, rfl⟩
theorem reads_hand (ch snd rcv : BitVec 4) (pk : BitVec 2) (va : BitVec 7) (z : BitVec 5) :
    Reads (decHand ch snd rcv pk va z) (layHD 0x34 ch snd rcv pk va z) := by
  simp only [decHand, reads_assigned, reads_withEnum, reads_zeroFields, Bool.and_eq_true, beq_iff_eq, and_imp]
  rintro hne k hk rfl hpay
  obtain rfl := Payload.bits_of_ofBits? _ _ hk
  exact ⟨Bool.and_eq_true_iff.mpr ⟨hne, hpay⟩, rfl⟩
theorem reads_cloop (mode : Bool) (cnt : BitVec 11) (back : BitVec 14) :
    Reads (decCloop mode cnt back) (layL 0x35 (boolBit mode) cnt back) := by
  obtain ⟨z, sk, rfl⟩ := exists_append (m := 5) (n := 6) cnt
  simp only [decCloop, append_high, append_low, reads_assigned]
  intro hback
  cases mode
  · rw [if_neg Bool.false_ne_true, reads_assigned, reads_ok]
    exact fun hcnt => ⟨Bool.and_eq_true_iff.mpr ⟨hcnt, hback⟩, rfl⟩
  · rw [if_pos rfl, reads_zeroFields, beq_iff_eq]
    rintro rfl; exact ⟨hback, rfl⟩
theorem reads_gcinc (vd va vb : BitVec 7) (fn : BitVec 5) :
    Reads (decGcinc vd va vb fn) (layR 0x38 vd va vb fn) := by
  simp only [decGcinc, reads_assigned, reads_zeroFields, beq_iff_eq]
  rintro rfl rfl; exact ⟨rfl, rfl⟩
theorem reads_rnd (vd va vb : BitVec 7) (fn : BitVec 5) :
    Reads (decRnd vd va vb fn) (layR 0x3a vd va vb fn) := by
  simp only [decRnd, reads_assigned, reads_zeroFields, Bool.and_eq_true, beq_iff_eq, and_imp]
  rintro rfl rfl rfl; exact ⟨rfl, rfl⟩
theorem reads_hint (kind : BitVec 4) (payload : BitVec 22) :
    Reads (decHint kind payload) (layH 0x3f kind payload) := by
  unfold decHint
  split
  case h_6 => exact reads_error
  all_goals obtain rfl := eq_ofNat_of_toNat ‹kind.toNat = _›
  case h_1 =>
    obtain ⟨z, p, rfl⟩ := exists_append (m := 2) (n := 20) payload
    simp only [append_high, append_low, reads_zeroFields, beq_iff_eq]
    rintro rfl; exact ⟨rfl, rfl⟩
  case h_2 =>
    obtain ⟨p, y, z, rfl⟩ := exists_append₃ (l := 3) (m := 1) (n := 18) payload
    obtain ⟨n, rfl⟩ := exists_boolBit y
    simp only [append_top, append_low, bitOf_middle, reads_assigned, reads_zeroFields, beq_iff_eq]
    rintro hp rfl; exact ⟨hp, rfl⟩
  case h_3 =>
    obtain ⟨c, o, rfl⟩ := exists_append (m := 4) (n := 18) payload
    simp only [append_high, append_low]
    exact reads_ok.mpr ⟨rfl, rfl⟩
  case h_4 =>
    obtain ⟨z, y, h, rfl⟩ := exists_append₃ (l := 17) (m := 1) (n := 4) payload
    obtain ⟨b, rfl⟩ := exists_boolBit y
    simp only [append_top, append_low, bitOf_middle, reads_zeroFields, beq_iff_eq]
    rintro rfl; exact ⟨rfl, rfl⟩
  case h_5 =>
    obtain ⟨z, m, rfl⟩ := exists_append (m := 20) (n := 2) payload
    simp only [append_high, append_low, reads_zeroFields, beq_iff_eq]
    rintro rfl; exact ⟨rfl, rfl⟩
theorem reads_fcvt (vd va : BitVec 7) (dfmt sfmt : BitVec 5) (z : BitVec 2) :
    Reads (zeroFields (z == 0) (.fcvt vd va dfmt sfmt)) (layV 0xe vd va dfmt sfmt z) := by
  simp only [reads_zeroFields, beq_iff_eq]
  rintro rfl; exact ⟨rfl, rfl⟩
theorem reads_wait (nld nst : BitVec 6) (ncp ntl : BitVec 4) (z : BitVec 6) :
    Reads (zeroFields (z == 0) (.wait nld nst ncp ntl)) (layW 0x1d nld nst ncp ntl z) := by
  simp only [reads_zeroFields, beq_iff_eq]
  rintro rfl; exact ⟨rfl, rfl⟩
theorem reads_fld (vd va : BitVec 7) (fs : BitVec 3) (z : BitVec 9) :
    Reads (zeroFields (z == 0) (.fld vd va fs)) (layF 0x30 vd va fs z) := by
  simp only [reads_zeroFields, beq_iff_eq]
  rintro rfl; exact ⟨rfl, rfl⟩
theorem reads_fldg (vd va : BitVec 7) (fs : BitVec 3) (z : BitVec 9) :
    Reads (zeroFields (z == 0) (.fldg vd va fs)) (layF 0x31 vd va fs z) := by
  simp only [reads_zeroFields, beq_iff_eq]
  rintro rfl; exact ⟨rfl, rfl⟩
theorem reads_fspl (vd va : BitVec 7) (fs : BitVec 3) (z : BitVec 9) :
    Reads (zeroFields (z == 0) (.fspl vd va fs)) (layF 0x32 vd va fs z) := by
  simp only [reads_zeroFields, beq_iff_eq]
  rintro rfl; exact ⟨rfl, rfl⟩
theorem reads_epset (role eidx : BitVec 4) (z : BitVec 6) (va : BitVec 7) (z' : BitVec 5) :
    Reads (zeroFields (z == 0 && z' == 0) (.epset role eidx va)) (layE 0x36 role eidx z va z') := by
  simp only [reads_zeroFields, Bool.and_eq_true, beq_iff_eq, and_imp]
  rintro rfl rfl; exact ⟨rfl, rfl⟩
theorem reads_oprdy {w : Word} (h : (fieldOf w 31 26).toNat = 45) : Reads (zeroFields (fieldOf w 25 0 == 0) .oprdy) w := by
  obtain ⟨m, z, rfl⟩ := exists_append (m := 6) (n := 26) w
  simp only [append_high, append_low, reads_zeroFields, beq_iff_eq] at h ⊢
  obtain rfl := eq_ofNat_of_toNat h
  rintro rfl; exact ⟨rfl, rfl⟩
theorem reads_sel {w : Word} (h : (fieldOf w 31 26).toNat = 11) :
    Reads (.ok (.sel (fieldOf w 25 19) (fieldOf w 18 12) (fieldOf w 11 5) (bitOf w 4) (bitOf w 3) (fieldOf w 2 0))) w := by
  have hfn : boolBit (bitOf w 4) ++ boolBit (bitOf w 3) ++ fieldOf w 2 0 = fieldOf w 4 0 := by
    rw [boolBit_bitOf, boolBit_bitOf]
    iterate 2 rw [BitVec.extractLsb'_append_extractLsb'_eq_extractLsb' (by rfl)]
  refine reads_ok.mpr ⟨rfl, ?_⟩
  change some (layR 0xb _ _ _ (boolBit (bitOf w 4) ++ boolBit (bitOf w 3) ++ fieldOf w 2 0)) = some w
  rw [hfn, layR_of_major (m := 0xb) h]

/-! The decoder's answers (R87) -/

/-- Whatever a word decodes to is well formed and has that word: the major selects the layout, and the layout's fields make the word. -/
theorem reads_decode (w : Word) : Reads (decode w) w := by
  unfold decode
  split
  case h_1 hm => exact (reads_sys ..).of_eq (layR_of_major hm)
  case h_2 hm => exact (reads_int ..).of_eq (layR_of_major hm)
  case h_3 hm => exact reads_ok.mpr ⟨rfl, congrArg some (layI_of_major hm)⟩
  case h_4 hm => exact reads_ok.mpr ⟨rfl, congrArg some (layI_of_major hm)⟩
  case h_5 hm => exact reads_ok.mpr ⟨rfl, congrArg some (layI_of_major hm)⟩
  case h_6 hm => exact reads_ok.mpr ⟨rfl, congrArg some (layI_of_major hm)⟩
  case h_7 hm => exact (reads_shiftI ..).of_eq (layI_of_major hm)
  case h_8 hm => exact reads_ok.mpr ⟨rfl, congrArg some (layU_of_major hm)⟩
  case h_9 hm => exact (reads_bitField ..).of_eq (layI_of_major hm)
  case h_10 hm => exact (reads_icmp ..).of_eq (layP_of_major hm)
  case h_11 hm => exact (reads_fcmp ..).of_eq (layP_of_major hm)
  case h_12 hm => exact reads_sel hm
  case h_13 hm => exact (reads_float ..).of_eq (layR_of_major hm)
  case h_14 hm => exact (reads_special ..).of_eq (layR_of_major hm)
  case h_15 hm => exact (reads_fcvt ..).of_eq (layV_of_major hm)
  case h_16 hm => exact (reads_packed ..).of_eq (layR_of_major hm)
  case h_17 hm => exact (reads_bra ..).of_eq (layB_of_major hm)
  case h_18 hm => exact (reads_call ..).of_eq (layB_of_major hm)
  case h_19 hm => exact (reads_jump ..).of_eq (layR_of_major hm)
  case h_20 hm => exact (reads_predicate ..).of_eq (layP_of_major hm)
  case h_21 hm => exact (reads_ld ..).of_eq (layM_of_major hm)
  case h_22 hm => exact (reads_st ..).of_eq (layM_of_major hm)
  case h_23 hm => exact (reads_ldn ..).of_eq (layM_of_major hm)
  case h_24 hm => exact (reads_stn ..).of_eq (layM_of_major hm)
  case h_25 hm => exact (reads_fullEmpty ..).of_eq (layR_of_major hm)
  case h_26 hm => exact (reads_atom ..).of_eq (layR_of_major hm)
  case h_27 hm => exact (reads_red ..).of_eq (layR_of_major hm)
  case h_28 hm => exact (reads_reserve ..).of_eq (layR_of_major hm)
  case h_29 hm => exact (reads_sync ..).of_eq (layR_of_major hm)
  case h_30 hm => exact (reads_wait ..).of_eq (layW_of_major hm)
  case h_31 hm => exact (reads_row ..).of_eq (layG_of_major hm)
  case h_32 hm => exact (reads_uni ..).of_eq (layR_of_major hm)
  case h_33 hm => exact (reads_cpy ..).of_eq (layX_of_major hm)
  case h_34 hm => exact (reads_cpym ..).of_eq (layX_of_major hm)
  case h_35 hm => exact (reads_cpyq ..).of_eq (layX_of_major hm)
  case h_36 hm => exact (reads_cbook ..).of_eq (layX_of_major hm)
  case h_37 hm => exact (reads_tags ..).of_eq (layR_of_major hm)
  case h_38 hm => exact (reads_handles ..).of_eq (layR_of_major hm)
  case h_39 hm => exact (reads_slots ..).of_eq (layS_of_major hm)
  case h_40 hm => exact (reads_old ..).of_eq (layX_of_major hm)
  case h_41 hm => exact (reads_mma ..).of_eq (layX_of_major hm)
  case h_42 hm => exact (reads_mmas ..).of_eq (layX_of_major hm)
  case h_43 hm => exact (reads_mv ..).of_eq (layX_of_major hm)
  case h_44 hm => exact (reads_acc ..).of_eq (layX_of_major hm)
  case h_45 hm => exact (reads_scacc ..).of_eq (layX_of_major hm)
  case h_46 hm => exact reads_oprdy hm
  case h_47 hm => exact (reads_sparse ..).of_eq (layX_of_major hm)
  case h_48 hm => exact (reads_fbind ..).of_eq (layFB_of_major hm)
  case h_49 hm => exact (reads_fld ..).of_eq (layF_of_major hm)
  case h_50 hm => exact (reads_fldg ..).of_eq (layF_of_major hm)
  case h_51 hm => exact (reads_fspl ..).of_eq (layF_of_major hm)
  case h_52 hm => exact (reads_chor ..).of_eq (layR_of_major hm)
  case h_53 hm => exact (reads_hand ..).of_eq (layHD_of_major hm)
  case h_54 hm => exact (reads_cloop ..).of_eq (layL_of_major hm)
  case h_55 hm => exact (reads_epset ..).of_eq (layE_of_major hm)
  case h_56 hm => exact (reads_launch ..).of_eq (layX_of_major hm)
  case h_57 hm => exact (reads_gcinc ..).of_eq (layR_of_major hm)
  case h_58 hm => exact (reads_queue ..).of_eq (layR_of_major hm)
  case h_59 hm => exact (reads_rnd ..).of_eq (layR_of_major hm)
  case h_60 hm => exact (reads_collective ..).of_eq (layX_of_major hm)
  case h_61 hm => exact (reads_digest ..).of_eq (layR_of_major hm)
  case h_62 => exact reads_error
  case h_63 hm => exact reads_ok.mpr ⟨rfl, congrArg some (layC_of_major hm)⟩
  case h_64 =>
    have hm : (fieldOf w 31 26).toNat = 63 := by
      have hlt := (fieldOf w 31 26).isLt
      simp only [imp_false] at *
      omega
    exact (reads_hint ..).of_eq (layH_of_major hm)

/-- Settles O2: the decoder reads every field of the layout that the major selects. -/
theorem encodeDecode : Obligations.EncodeDecode := fun w i h => (reads_decode w).answer i h

end Sys2Proof
end

section
/-! SUPPORT. The fetch of an issue group's word (R87, R311, R324); with the obligations on a step that fetches one. -/
namespace Sys2Proof.Machine

/-! Looking up twice -/

theorem State.holdEntry_head {α : Type} (s : State) (n : Nat) (l : List α) (x : α) : ∃ rest, (s.holdEntry n l x).1 = x :: rest := by
  unfold State.holdEntry
  split <;> exact ⟨_, rfl⟩
/-- R323: an entry put into a core's L1 TLB answers for its pages. -/
theorem State.tlb1_install1 (s : State) (core : Nat) {e : TlbEntry} {page : Nat} (h : e.has page = true) :
    (s.install1 core e).tlb1 core page = some e := by
  obtain ⟨rest, hrest⟩ := s.holdEntry_head 64 ((s.core core).tlb.filter (fun x => !x.meets e.page e.size)) e
  rw [State.tlb1, State.install1, State.core_onCore_self, hrest]
  exact List.find?_cons_of_pos h
@[simp] theorem State.part_tlbTouch (s : State) (core va p : Nat) : (s.tlbTouch core va).part p = s.part p := by
  rw [State.tlbTouch_coresOnly s core va]; rfl
@[simp] theorem State.icache_tlbTouch (s : State) (core va : Nat) : (s.tlbTouch core va).icache = s.icache := by
  rw [State.tlbTouch_coresOnly s core va]
/-- R324: a look-up that refills the L1 TLB finds there what the cluster's held. -/
@[simp] theorem State.tlbLook_tlbTouch (s : State) (p core va : Nat) : (s.tlbTouch core va).tlbLook p core va = s.tlbLook p core va := by
  cases h1 : s.tlb1 core (va / 4096) with
  | some e => rw [State.tlbTouch, h1]
  | none =>
    cases h2 : s.tlb2 core (va / 4096) with
    | none => rw [State.tlbTouch, h1]; simp only [h2]
    | some e =>
      have hhas : e.has (va / 4096) = true := List.find?_some (p := fun e : TlbEntry => e.has (va / 4096)) h2
      have htouch : s.tlbTouch core va = s.install1 core e := by rw [State.tlbTouch, h1]; simp only [h2]
      have hpart := s.part_tlbTouch core va p
      rw [htouch] at hpart ⊢
      simp only [State.tlbLook, hpart, State.tlb1_install1 s core hhas, h1, h2, Option.map_some]

/-! The word of an issue group -/

/-- R324: where the TLBs hold the page of the PC, the look-up of a quarter and that of an engine role are the same. -/
theorem State.fetchLook_held {s : State} {part core : Nat} {pc : Pc} {x : Xlate} (g : IssueGroup) (h : s.tlbLook part core pc.toNat = some x) :
    s.fetchLook g part core pc = s.tlbTouch core pc.toNat := by
  unfold State.fetchLook
  split
  · rfl
  · simp only [State.translated, h]
/-- R87, R311: the word at an executable address whose line the cluster's instruction cache holds. -/
theorem State.fetchAt_word {s : State} {part core : Nat} {pc : Pc} {x : Xlate} {line : List Byte} (hlook : s.tlbLook part core pc.toNat = some x)
    (hx : x.x = true) (hpoison : x.poison = false) (hrefuses : peerRefuses x.pa = false)
    (hline : Tbl.find s.icache (icacheKey (clusterOf core) (x.pa / 128)) = some line) :
    s.fetchAt part core pc = .word (BitVec.ofNat 32 (bytesAt line (x.pa % 128) 4)) := by
  simp [State.fetchAt, hlook, hx, hpoison, hrefuses, hline]

/-- Settles O4: the look-up leaves what the fetch reads as it was. -/
theorem stepRunsDecoded : Obligations.StepRunsDecoded := by
  intro s g part core pc x line i hissue hrun hplace hlook hx hpoison _ hrefuses hline hdecode
  have hword := State.fetchAt_word (s := s.tlbTouch core pc.toNat) (by rw [State.tlbLook_tlbTouch, hlook]) hx hpoison hrefuses
    (by rw [State.icache_tlbTouch, hline])
  have hfetch : s.fetchGroup g = .ok (i, s.tlbTouch core pc.toNat) := by
    simp only [State.fetchGroup, hplace, State.fetchLook_held g hlook, hword, hdecode]
  have hstep : step s = s.orWaits (exec i (s.tlbTouch core pc.toNat)) := by
    simp only [step, hissue, State.runIssue, hrun, hfetch]; rfl
  refine ⟨_, s.tlbTouch_looks core pc.toNat, hstep, fun t ht hwaits => ?_⟩
  rw [hstep, ht, State.orWaits, hwaits, if_neg Bool.false_ne_true]

/-- R105: a word that does not decode, in a lone thread. -/
theorem State.decodeFails_one {s : State} {t : Thread} {w : Workgroup} {g : IssueGroup} {core q : Nat} (e : DecodeError)
    (hunit : g.unit = .quarter core q) (hmembers : g.members = [t.ref]) (ht : s.thread t.ref = some t) (hw : s.wgOf t.ref = some w) :
    s.decodeFails g e = (s.trapWord t clIllegal e.detail).finish := by
  simp only [State.decodeFails, hunit, hmembers, State.eachMember, State.lanes, List.foldl_cons, List.foldl_nil, ht, hw]

/-- Settles O5: the fetch answers the trap of the lone thread, and no instruction. -/
theorem undecodableWordTraps : Obligations.UndecodableWordTraps := by
  intro s t part core pc x line e g hs hissue hrun hplace hlook hx hpoison _ hrefuses hline hdecode hwg
  obtain ⟨w, hw⟩ := hwg
  obtain ⟨c, q, pc', hgroup⟩ := hs.group
  obtain rfl : g = _ := Option.some.inj (hissue.symm.trans hgroup)
  have hword := State.fetchAt_word (s := s.tlbTouch core pc.toNat) (by rw [State.tlbLook_tlbTouch, hlook]) hx hpoison hrefuses
    (by rw [State.icache_tlbTouch, hline])
  have ht : (s.tlbTouch core pc.toNat).thread t.ref = some t := by rw [State.thread_tlbTouch, hs.resident t (by simp)]
  have hw' : (s.tlbTouch core pc.toNat).wgOf t.ref = some w := by rw [State.tlbTouch_coresOnly s core pc.toNat]; exact hw
  have hfetch : s.fetchGroup { unit := .quarter c q, pc := pc', members := [t].map (·.ref) }
      = .error ((s.tlbTouch core pc.toNat).trapWord t clIllegal e.detail).finish := by
    simp only [State.fetchGroup, hplace, State.fetchLook_held _ hlook, hword, hdecode]
    exact congrArg _ (State.decodeFails_one e rfl rfl ht hw')
  refine ⟨_, s.tlbTouch_looks core pc.toNat, ?_⟩
  simp only [step, hissue, State.runIssue, hrun, hfetch]; rfl

end Sys2Proof.Machine
end

section
/-! SUPPORT. Branches, jumps, calls and returns of one thread (R88, R145 to R147, R259); with the obligation on them. -/
namespace Sys2Proof.Machine

/-- R88, R107: the branch target's two forms. -/
theorem branchTarget_eq_target (pc : Pc) (off : BitVec 20) : branchTarget pc off = Claims.target pc off := by
  rw [branchTarget, Claims.target, BitVec.ofInt_mul]; rfl

/-! Jumps (R147, R259) -/

theorem State.jump_stays {s : State} {t : Thread} {dst : Pc} (h : t.leavesRun dst false = false) :
    s.jump t dst = s.onThread t.ref (fun u => u.goto dst) := if_neg (Bool.eq_false_iff.1 h)
theorem State.jump_leaves {s : State} {t : Thread} {dst : Pc} (h : t.leavesRun dst false = true) : s.jump t dst = s.trapWord t clChor 4 :=
  if_pos h

/-! The target of JR and CALLR (R88) -/

section
variable {s : State} {t : Thread} {va : VReg} (f : Pc → State)
theorem State.withTarget_beyond (h : fieldOf (t.getPair va.toNat) 63 56 ≠ 0) :
    s.withTarget t va f = s.trapData t clAddress 0 (t.getPair va.toNat) := if_pos (bne_iff_ne.mpr h)
theorem State.withTarget_misaligned (h : fieldOf (t.getPair va.toNat) 63 56 = 0) (ha : fieldOf (t.getPair va.toNat) 1 0 ≠ 0) :
    s.withTarget t va f = s.trapWord t clInsnAddress 0 := (if_neg (fun hn => bne_iff_ne.mp hn h)).trans (if_pos (bne_iff_ne.mpr ha))
theorem State.withTarget_word (h : fieldOf (t.getPair va.toNat) 63 56 = 0) (ha : fieldOf (t.getPair va.toNat) 1 0 = 0) :
    s.withTarget t va f = f (fieldOf (t.getPair va.toNat) 55 0) :=
  (if_neg (fun hn => bne_iff_ne.mp hn h)).trans (if_neg (fun hn => bne_iff_ne.mp hn ha))
end

/-! Calls (R146) -/

section
variable {s : State} {t : Thread} {w : Workgroup} {dst : Pc}
theorem State.callTo_full (h : t.depth = w.calls) : s.callTo t w dst = s.trapWord t clCallOver 0 := if_pos h
theorem State.callTo_far (h : t.depth ≠ w.calls) (hfar : fieldOf (t.pc + 4) 55 34 ≠ fieldOf dst 55 34) :
    s.callTo t w dst = s.trapWord t clInsnAddress 0 := (if_neg h).trans (if_pos (bne_iff_ne.mpr hfar))
theorem State.callTo_called (h : t.depth ≠ w.calls) (hnear : fieldOf (t.pc + 4) 55 34 = fieldOf dst 55 34) :
    s.callTo t w dst = Claims.called s t w dst :=
  (if_neg h).trans (if_neg (fun hn => bne_iff_ne.mp hn hnear))
@[simp] theorem State.called_traps : (Claims.called s t w dst).traps = s.traps := by
  unfold Claims.called
  split <;> rfl
end

/-! Returns (R147) -/

section
variable {s : State} {t : Thread} {w : Workgroup} {e : BitVec 32} {rest : List (BitVec 32)}
theorem State.ret_empty (h : t.ret = []) : s.ret t w = s.trapWord t clCallUnder 0 := by
  rw [State.ret, h]
theorem State.ret_leaves (h : t.ret = e :: rest) (hrun : t.leavesRun (fieldOf t.pc 55 34 ++ (e ++ 0#2)) true = true) :
    s.ret t w = s.trapWord t clChor 4 := by
  rw [State.ret, h]
  exact if_pos hrun
theorem State.ret_poisoned (h : t.ret = e :: rest) (hrun : t.leavesRun (fieldOf t.pc 55 34 ++ (e ++ 0#2)) true = false) (hdeep : 8 < t.depth)
    (hp : s.nearPoisoned (spillKey w t.ref.tid (t.depth - 9)) 4 = true) :
    s.ret t w = s.trapData t clMachine 2 ((s.nativeNear w (spillKey w t.ref.tid (t.depth - 9))).zeroExtend 64) := by
  rw [State.ret, h]
  exact (if_neg (Bool.eq_false_iff.1 hrun)).trans (if_pos ⟨hdeep, hp⟩)
/-- A return that no spilled entry follows. -/
theorem State.ret_shallow (h : t.ret = e :: rest) (hrun : t.leavesRun (fieldOf t.pc 55 34 ++ (e ++ 0#2)) true = false) (hdepth : t.depth ≤ 8) :
    s.ret t w = s.onThread t.ref (fun u =>
      ({ u with ret := rest, depth := u.depth - 1 } : Thread).goto (fieldOf t.pc 55 34 ++ (e ++ 0#2))) := by
  have hnine : ¬ 9 ≤ t.depth := by omega
  simp only [State.ret, h, hrun, hnine, false_and, if_false, List.append_nil, Bool.false_eq_true]
/-- A return that takes a spilled entry back. -/
theorem State.ret_deep (h : t.ret = e :: rest) (hrun : t.leavesRun (fieldOf t.pc 55 34 ++ (e ++ 0#2)) true = false) (hdeep : 8 < t.depth)
    (hp : s.nearPoisoned (spillKey w t.ref.tid (t.depth - 9)) 4 = false) :
    s.ret t w = s.onThread t.ref (fun u =>
      ({ u with ret := rest ++ [BitVec.ofNat 32 (leNat (s.nearLoad (spillKey w t.ref.tid (t.depth - 9)) 4))],
                depth := u.depth - 1 } : Thread).goto (fieldOf t.pc 55 34 ++ (e ++ 0#2))) := by
  have hnine : 9 ≤ t.depth := hdeep
  simp only [State.ret, h, hrun, hnine, hp, and_false, if_false, if_true, Bool.false_eq_true]
end

/-! The words -/

/-- A word of one thread whose effect raises no trap. -/
theorem issueLanes_quiet {s n : State} {t : Thread} {w : Workgroup} {i : Instr} {f : Thread → Workgroup → State → State}
    (hs : s.Issues [t]) (run : s.Runs i t w) (hf : f t w s = n) (hn : n.traps = s.traps) : issueLanes i f s = .next n.over := by
  rw [issueLanes_one hs run, hf, State.finish_over (hn.trans hs.settled)]
/-- A word of one thread whose effect is a trap's. -/
theorem issueLanes_traps {s n : State} {t : Thread} {w : Workgroup} {i : Instr} {f : Thread → Workgroup → State → State}
    (hs : s.Issues [t]) (run : s.Runs i t w) (hf : f t w s = n) : issueLanes i f s = .next n.finish := by
  rw [issueLanes_one hs run, hf]

theorem branches : Claims.Branches := by
  intro s t w ps neg kind off hs run
  refine ⟨fun hp => ?_, fun hp hstays => ?_, fun hp hleaves => ?_⟩
  · exact issueLanes_quiet hs run (if_neg (fun hn => bne_iff_ne.mp hn hp)) rfl
  · exact issueLanes_quiet hs run ((if_pos (bne_iff_ne.mpr hp)).trans (by rw [branchTarget_eq_target, State.jump_stays hstays])) rfl
  · exact issueLanes_traps hs run ((if_pos (bne_iff_ne.mpr hp)).trans (by rw [branchTarget_eq_target, State.jump_leaves hleaves]))

section
variable {s : State} {t : Thread} {w : Workgroup} (hs : s.Issues [t])
include hs
theorem call_cases {ps : PReg} {neg : Bool} {off : BitVec 20} (run : s.Runs (.call ps neg off) t w) :
    (t.getP ps = neg → exec (.call ps neg off) s = .next (s.onThread t.ref Thread.advance).over)
    ∧ (t.getP ps ≠ neg → exec (.call ps neg off) s = .next (s.callTo t w (Claims.target t.pc off)).finish) :=
  ⟨fun hp => issueLanes_quiet hs run (if_neg (fun hn => bne_iff_ne.mp hn hp)) rfl,
    fun hp => issueLanes_traps hs run ((if_pos (bne_iff_ne.mpr hp)).trans (by rw [branchTarget_eq_target]))⟩
theorem callr_eq {va : VReg} (run : s.Runs (.callr va) t w) :
    exec (.callr va) s = .next (s.withTarget t va (fun a => s.callTo t w a)).finish := issueLanes_one hs run
theorem jr_eq {va : VReg} (run : s.Runs (.jr va) t w) : exec (.jr va) s = .next (s.withTarget t va (fun a => s.jump t a)).finish :=
  issueLanes_one hs run
theorem ret_eq (run : s.Runs .ret t w) : exec .ret s = .next (s.ret t w).finish := issueLanes_one hs run
/-- A call that has gone to its target raises no trap. -/
theorem called_finish (dst : Pc) : (Claims.called s t w dst).finish = (Claims.called s t w dst).over :=
  State.finish_over (State.called_traps.trans hs.settled)
theorem onThread_finish (f : Thread → Thread) : (s.onThread t.ref f).finish = (s.onThread t.ref f).over := State.finish_over hs.settled
end

theorem callsAndReturns : Claims.CallsAndReturns := by
  intro s t w hs
  refine ⟨fun ps neg off run => ?_, fun va run => ?_, fun va run => ?_, fun run => ?_⟩
  case refine_1 =>
    obtain ⟨hskips, hcalls⟩ := call_cases hs run
    refine ⟨hskips, fun hp hfull => ?_, fun hp hroom hfar => ?_, fun hp hroom hnear => ?_⟩
    · rw [hcalls hp, State.callTo_full hfull]
    · rw [hcalls hp, State.callTo_far hroom hfar]
    · rw [hcalls hp, State.callTo_called hroom hnear, called_finish hs]
  case refine_2 =>
    rw [callr_eq hs run]
    refine ⟨fun hbeyond => ?_, fun h hmis => ?_, fun h hword hfull => ?_, fun h hword hroom hfar => ?_, fun h hword hroom hnear => ?_⟩
    · rw [State.withTarget_beyond _ hbeyond]
    · rw [State.withTarget_misaligned _ h hmis]
    · rw [State.withTarget_word _ h hword, State.callTo_full hfull]
    · rw [State.withTarget_word _ h hword, State.callTo_far hroom hfar]
    · rw [State.withTarget_word _ h hword, State.callTo_called hroom hnear, called_finish hs]
  case refine_3 =>
    rw [jr_eq hs run]
    refine ⟨fun hbeyond => ?_, fun h hmis => ?_, fun h hword hstays => ?_, fun h hword hleaves => ?_⟩
    · rw [State.withTarget_beyond _ hbeyond]
    · rw [State.withTarget_misaligned _ h hmis]
    · rw [State.withTarget_word _ h hword, State.jump_stays hstays, onThread_finish hs]
    · rw [State.withTarget_word _ h hword, State.jump_leaves hleaves]
  case refine_4 =>
    rw [ret_eq hs run]
    refine ⟨fun hempty => ?_, fun e rest h hleaves => ?_, fun e rest h hrun hdeep hp => ?_, fun e rest h hrun hdepth => ?_,
      fun e rest h hrun hdeep hp => ?_⟩
    · rw [State.ret_empty hempty]
    · rw [State.ret_leaves h hleaves]
    · rw [State.ret_poisoned h hrun hdeep hp]
    · rw [State.ret_shallow h hrun hdepth, onThread_finish hs]
    · rw [State.ret_deep h hrun hdeep hp, onThread_finish hs]

/-- Settles O16, by one lemma for each outcome of a jump's checks, a call and a return. -/
theorem controlFlow : Obligations.ControlFlow := ⟨branches, callsAndReturns⟩

end Sys2Proof.Machine
end

section
/-! SUPPORT. What prefetching instruction lines leaves unchanged (R102, R311, R323), and hints of one thread (R99 to R104); with the
obligation on hints. -/
namespace Sys2Proof.Machine

/-! Prefetching -/

/-- Only caches, TLBs, walkers' pointers, DRAM rows, free values and messages have changed; of a core, its L1 TLB alone. -/
structure State.FetchesAhead (s n : State) : Prop where
  rest : n = { s with cores := n.cores, ctlbs := n.ctlbs, ptrs := n.ptrs, l2 := n.l2, l2cp := n.l2cp, acts := n.acts, icache := n.icache,
                      free := n.free, sent := n.sent }
  cores : ∀ c, { n.core c with tlb := (s.core c).tlb } = s.core c
theorem State.FetchesAhead.refl (s : State) : s.FetchesAhead s := ⟨rfl, fun _ => rfl⟩
theorem State.FetchesAhead.trans {a b c : State} (h : a.FetchesAhead b) (k : b.FetchesAhead c) : a.FetchesAhead c where
  rest := by rw [k.rest, h.rest]
  cores d := by rw [← h.cores d, ← k.cores d]
theorem State.FetchesAhead.foldl {α : Type} {f : State → α → State} (hf : ∀ (s : State) (a : α), s.FetchesAhead (f s a)) (l : List α)
    (s : State) : s.FetchesAhead (l.foldl f s) := by
  induction l generalizing s with
  | nil => exact .refl s
  | cons a l ih => exact (hf s a).trans (ih _)
theorem State.EngineReads.fetchesAhead {s n : State} (h : s.EngineReads n) : s.FetchesAhead n := ⟨by rw [h], fun c => by rw [h]; rfl⟩
theorem State.holdEntry_fetchesAhead {α : Type} (s : State) (n : Nat) (l : List α) (x : α) : s.FetchesAhead (s.holdEntry n l x).2 := by
  rw [State.holdEntry_free]
  exact ⟨rfl, fun _ => rfl⟩
theorem State.onCore_tlb_fetchesAhead (s : State) (core : Nat) (tlb : List TlbEntry) :
    s.FetchesAhead (s.onCore core (fun c => { c with tlb := tlb })) where
  rest := rfl
  cores c := by
    by_cases h : c = core
    · rw [h, State.core_onCore_self]
    · rw [State.core_onCore_ne s _ h]
theorem State.install1_fetchesAhead (s : State) (core : Nat) (e : TlbEntry) : s.FetchesAhead (s.install1 core e) :=
  (s.holdEntry_fetchesAhead ..).trans (State.onCore_tlb_fetchesAhead ..)
theorem State.install2_fetchesAhead (s : State) (cluster : Nat) (e : TlbEntry) : s.FetchesAhead (s.install2 cluster e) :=
  (s.holdEntry_fetchesAhead ..).trans ⟨rfl, fun _ => rfl⟩
theorem State.tlbTouch_fetchesAhead (s : State) (core va : Nat) : s.FetchesAhead (s.tlbTouch core va) := by
  unfold State.tlbTouch
  split
  · exact .refl s
  · split
    · exact s.install1_fetchesAhead core _
    · exact .refl s
/-- R323, R324: the translation of an engine of a core. -/
theorem State.translated_fetchesAhead (s : State) (p : Nat) (via : Option Nat) (va : Nat) : s.FetchesAhead (s.translated p via va) := by
  cases via with
  | none => exact (s.walked_engineReads 0 p va).fetchesAhead
  | some c =>
    unfold State.translated
    dsimp only
    split
    · exact s.tlbTouch_fetchesAhead c va
    · have hwalked := (s.walked_engineReads (c / 64) p va).fetchesAhead
      split
      · exact hwalked.trans ((State.install2_fetchesAhead ..).trans (State.install1_fetchesAhead ..))
      · exact hwalked
theorem State.icacheFill_fetchesAhead (s : State) (cluster line : Nat) : s.FetchesAhead (s.icacheFill cluster line) := by
  unfold State.icacheFill
  split
  · exact .refl s
  · exact (s.l2Touch_engineReads line false).fetchesAhead.trans ⟨rfl, fun _ => rfl⟩
theorem State.l2Policy_fetchesAhead (s : State) (pa n cp : Nat) : s.FetchesAhead (s.l2Policy pa n cp) := ⟨rfl, fun _ => rfl⟩
/-- R102: the prefetch of a line. -/
theorem State.prefetch_fetchesAhead (s : State) (part core : Nat) (line : Int) : s.FetchesAhead (s.prefetch part core line) := by
  unfold State.prefetch
  split
  · exact .refl s
  · have htranslated := s.translated_fetchesAhead part (some core) (line.toNat * 128)
    dsimp only
    split
    · exact htranslated
    · next x _ =>
      have hpolicy := htranslated.trans (State.l2Policy_fetchesAhead _ x.pa 1 x.cp)
      split
      · exact htranslated
      · split
        · exact hpolicy.trans (State.l2Read_engineReads ..).fetchesAhead
        · exact hpolicy.trans (State.icacheFill_fetchesAhead ..)
theorem State.prefetchLines_fetchesAhead (s : State) (part core : Nat) (pc : Pc) (cntM1 : BitVec 4) (off : BitVec 18) :
    s.FetchesAhead (s.prefetchLines part core pc cntM1 off) := .foldl (fun s _ => s.prefetch_fetchesAhead part core _) _ s

/-! A hint of one thread -/

/-- What a hint of the run `r` joined by it leaves: the thread is past it, and only what a prefetch changes has changed beside. -/
def State.HintJoined (s : State) (t : Thread) (i : Instr) (r : HintRun) : Prop :=
  ∃ n u, exec i s = .next n ∧ n.thread t.ref = some u ∧ u = { t with hint := some r, pc := t.pc + 4, stall := .none }
    ∧ (∀ q, refKey q ≠ refKey t.ref → n.thread q = s.thread q) ∧ n.mem = s.mem ∧ n.near = s.near ∧ n.wgs = s.wgs
    ∧ ∀ c, { n.core c with tlb := (s.core c).tlb } = s.core c

section
variable {s : State} {t : Thread} {w : Workgroup} {dup : HintRun → Bool} {add : HintRun → HintRun} {role : Bool}
  {eff : Nat → Nat → Pc → State → State} (hs : s.Issues [t]) (hw : s.wgOf t.ref = some w)
include hs hw
/-- R103: what a hint does in a lone thread. -/
theorem issueHint_one : issueHint dup add role eff s = .next (if dup (t.hint.getD (emptyRun t.pc)) || (t.inRun && t.pc == t.runHi) then
    s.trapWord t clIllegal 6 else (eff w.core (s.partOf w) t.pc s).onThread t.ref (fun u =>
      { u with hint := some (add (t.hint.getD (emptyRun t.pc))), pc := u.pc + 4, stall := .none })).finish := by
  obtain ⟨c, q, pc, hgroup⟩ := hs.group
  simp only [issueHint, hgroup, State.lanes, List.map_cons, List.map_nil, List.foldl_cons, List.foldl_nil, hs.resident t (by simp), hw]
/-- R104: a second hint of a kind. -/
theorem issueHint_again (hdup : dup (t.hint.getD (emptyRun t.pc)) = true) :
    issueHint dup add role eff s = .next (s.trapWord t clIllegal 6).finish := by
  rw [issueHint_one hs hw, if_pos (by rw [hdup, Bool.true_or])]
/-- R103: a hint that joins its run. -/
theorem issueHint_joins {i : Instr} (hexec : exec i s = issueHint dup add role eff s) (hdup : dup (t.hint.getD (emptyRun t.pc)) = false)
    (hlast : t.inRun = false ∨ t.pc ≠ t.runHi) (heff : ∀ core part pc, s.FetchesAhead (eff core part pc s)) :
    s.HintJoined t i (add (t.hint.getD (emptyRun t.pc))) := by
  have hrun : ¬ (dup (t.hint.getD (emptyRun t.pc)) || (t.inRun && t.pc == t.runHi)) = true := by
    rcases hlast with h | h <;> simp [hdup, h]
  rw [issueHint_one hs hw, if_neg hrun] at hexec
  obtain ⟨hrest, hcores⟩ := heff w.core (s.partOf w) t.pc
  generalize eff w.core (s.partOf w) t.pc s = m at hexec hrest hcores
  have hthreads : ∀ q, m.thread q = s.thread q := fun q => by rw [hrest]; rfl
  have ht : m.thread t.ref = some t := (hthreads t.ref).trans (hs.resident t (by simp))
  have htraps : m.traps = [] := by rw [hrest]; exact hs.settled
  refine ⟨_, _, hexec.trans (congrArg _ (State.finish_over htraps)), State.thread_onThread_some ht (by rfl), rfl,
    fun q hq => (State.thread_onThread_ne m _ hq).trans (hthreads q), ?_, ?_, ?_, hcores⟩
  all_goals rw [hrest]; rfl
/-- R103, R104: both outcomes of a hint that is a duplicate where `dup` says so, and joins by `add` otherwise. -/
theorem issueHint_outcomes {i : Instr} (hexec : exec i s = issueHint dup add role eff s)
    (hjoined : ∀ run, Claims.joined i run = if dup run then none else some (add run)) (heff : ∀ core part pc, s.FetchesAhead (eff core part pc s))
    (hlast : t.inRun = false ∨ t.pc ≠ t.runHi) :
    (∀ r, Claims.joined i (t.hint.getD (emptyRun t.pc)) = some r → s.HintJoined t i r)
    ∧ (Claims.joined i (t.hint.getD (emptyRun t.pc)) = none → exec i s = .next (s.trapWord t clIllegal 6).finish) := by
  rw [hjoined]
  cases hdup : dup (t.hint.getD (emptyRun t.pc)) with
  | true => exact ⟨fun r hr => absurd hr (by simp), fun _ => hexec.trans (issueHint_again hs hw hdup)⟩
  | false =>
    refine ⟨fun r hr => ?_, fun hnone => absurd hnone (by simp)⟩
    obtain rfl := Option.some.inj hr
    exact issueHint_joins hs hw hexec hdup hlast heff
end

/-- Settles O40: each hint is the shared rule with its own kind; IPF prefetches beside. -/
theorem hintRuns : Obligations.HintRuns := by
  intro s t w i hs hw hhint hlast
  have hquiet : ∀ core part pc, s.FetchesAhead (noEffect core part pc s) := fun _ _ _ => .refl s
  cases i with
  | imm payload => exact issueHint_outcomes hs hw rfl (fun _ => rfl) hquiet hlast
  | pred p neg => exact issueHint_outcomes hs hw rfl (fun _ => rfl) hquiet hlast
  | ipf cntM1 off =>
    have hprefetch : ∀ core part pc, s.FetchesAhead (s.prefetchLines part core pc cntM1 off) :=
      fun part core pc => s.prefetchLines_fetchesAhead core part pc cntM1 off
    have hexec : exec (.ipf cntM1 off) s = issueHint (fun r => r.ipf) (fun r => { r with ipf := true }) true
        (fun core part pc s => s.prefetchLines part core pc cntM1 off) s := rfl
    exact issueHint_outcomes hs hw hexec (fun _ => rfl) hprefetch hlast
  | sched yield holdoff => exact issueHint_outcomes hs hw rfl (fun _ => rfl) hquiet hlast
  | rmode mode => exact issueHint_outcomes hs hw rfl (fun _ => rfl) hquiet hlast
  | _ => exact absurd hhint Bool.false_ne_true

end Sys2Proof.Machine
end

section
/-! SUPPORT. Turns of engine roles, holdoffs and instruction lines that arrive (R102, R151, R311); lines that are recalled, and lines that
the L2 holds dirty after a release (R291, R293, R309); with the obligation on them. -/
namespace Sys2Proof.Machine

/-! Threads whose fetch goes on (R311) -/

theorem State.thread_congr (s : State) {q r : ThreadRef} (h : refKey q = refKey r) : s.thread q = s.thread r :=
  congrArg (Tbl.find s.threads) h
/-- A change of some threads that leaves alone what it has changed: a thread among them has changed once, any other not. -/
theorem State.thread_foldl_onThread_idem {f : Thread → Thread} (hidem : ∀ u, Thread.kept f (Thread.kept f u) = Thread.kept f u)
    (ts : List Thread) (s : State) (r : ThreadRef) :
    (ts.foldl (fun s t => s.onThread t.ref f) s).thread r
      = if ∃ t ∈ ts, refKey t.ref = refKey r then (s.thread r).map (Thread.kept f) else s.thread r := by
  induction ts generalizing s with
  | nil => simp
  | cons t ts ih =>
    rw [List.foldl_cons, ih]
    by_cases h : refKey t.ref = refKey r
    · have hself : (s.onThread t.ref f).thread r = (s.thread r).map (Thread.kept f) := by
        rw [← State.thread_congr _ h, ← State.thread_congr s h, State.thread_onThread_self]
      have htwice : ((s.thread r).map (Thread.kept f)).map (Thread.kept f) = (s.thread r).map (Thread.kept f) := by
        rw [Option.map_map]; exact Option.map_congr fun u _ => hidem u
      simp [h, hself, htwice]
    · simp [h, State.thread_onThread_ne s f (Ne.symm h)]
theorem State.foldl_onThread_rest (f : Thread → Thread) (ts : List Thread) (s : State) :
    ts.foldl (fun s t => s.onThread t.ref f) s = { s with threads := (ts.foldl (fun s t => s.onThread t.ref f) s).threads } := by
  induction ts generalizing s with
  | nil => rfl
  | cons t ts ih => rw [List.foldl_cons, ih]; rfl
theorem State.foldl_onRole_rest {α : Type} (l tm r : α → Nat) (f : RoleSt → RoleSt) (rs : List α) (s : State) :
    rs.foldl (fun s a => s.onRole (l a) (tm a) (r a) f) s
      = { s with streams := (rs.foldl (fun s a => s.onRole (l a) (tm a) (r a) f) s).streams } := by
  induction rs generalizing s with
  | nil => rfl
  | cons a rs ih => rw [List.foldl_cons, ih]; rfl
theorem State.threadFetchWaits_of_held {s : State} {cluster line : Nat} {t : Thread} {w : Workgroup} {x : Xlate} (hstall : t.stall = .fetch)
    (hw : s.wgOf t.ref = some w) (hcluster : clusterOf w.core = cluster) (hlook : s.tlbLook (s.partOf w) w.core t.pc.toNat = some x)
    (hline : x.pa / 128 = line) : s.threadFetchWaits cluster line t = true := by
  simp [State.threadFetchWaits, State.fetchWaits, hstall, hw, hcluster, hlook, hline]

/-! The line that arrives (R311) -/

/-- R311: a line present stays; another holds the bytes of memory. -/
theorem State.icache_icacheFill (s : State) (cluster line : Nat) :
    Tbl.find (s.icacheFill cluster line).icache (icacheKey cluster line)
      = (match Tbl.find s.icache (icacheKey cluster line) with
        | some old => some old
        | none => some (s.memRead (line * 128) 128)) := by
  unfold State.icacheFill State.icacheHas
  cases h : Tbl.find s.icache (icacheKey cluster line) with
  | some old => rw [Option.isSome_some, if_pos rfl, h]
  | none =>
    rw [Option.isSome_none, if_neg Bool.false_ne_true]
    exact Tbl.find_insert_self _ _ _
/-- What the arrival of an instruction line changes, in a state where a fetch waits for it. -/
theorem instructionCacheFill_eq {s : State} {cluster line : Nat} {t : Thread} (hmem : t ∈ Tbl.vals s.threads)
    (hwaits : s.threadFetchWaits cluster line t = true) :
    exec (.instructionCacheFill cluster line) s = .next ((s.rolesFetching cluster line).foldl
      (fun s r => s.onRole r.1 r.2.1 r.2.2 (fun x => { x with stall := .none }))
      (((Tbl.vals s.threads).filter (s.threadFetchWaits cluster line)).foldl (fun s t => s.onThread t.ref (fun u => { u with stall := .none }))
        (s.icacheFill cluster line))) := by
  have hne : ((Tbl.vals s.threads).filter (s.threadFetchWaits cluster line)).isEmpty = false := by
    rw [List.isEmpty_eq_false_iff]
    exact List.ne_nil_of_mem (List.mem_filter.2 ⟨hmem, hwaits⟩)
  refine if_neg ?_
  rw [hne, Bool.false_and]
  exact Bool.false_ne_true

/-- The same by what it leaves: the line is in the cache, and of threads and engine roles the waiting ones go on. -/
theorem instructionCacheFill_next {s : State} {cluster line : Nat} {t : Thread} (hmem : t ∈ Tbl.vals s.threads)
    (hwaits : s.threadFetchWaits cluster line t = true) :
    ∃ n, exec (.instructionCacheFill cluster line) s = .next n
      ∧ n = { s.icacheFill cluster line with threads := n.threads, streams := n.streams }
      ∧ ∀ r, n.thread r = (((Tbl.vals s.threads).filter (s.threadFetchWaits cluster line)).foldl
        (fun s t => s.onThread t.ref (fun u => { u with stall := .none })) (s.icacheFill cluster line)).thread r := by
  have hroles := State.foldl_onRole_rest (fun r : Nat × Nat × Nat => r.1) (fun r => r.2.1) (fun r => r.2.2) (fun x => { x with stall := .none })
    (s.rolesFetching cluster line)
  refine ⟨_, instructionCacheFill_eq hmem hwaits, ?_, fun r => ?_⟩
  · rw [hroles, State.foldl_onThread_rest]
  · rw [hroles]; rfl

theorem turnEvents : Claims.TurnEvents := by
  refine ⟨fun s l tm r k role w hrole hready => ?_, fun s t ht hholdoff => ?_, fun s cluster line t w x _ ht hstall hw hcluster hlook hline => ?_⟩
  case refine_1 =>
    show execIssueGroupFormation (.engine l tm r) s = _
    simp only [execIssueGroupFormation, hrole, hready, if_true]
  case refine_2 =>
    have hexec : exec (.schedHoldoffExpiry t.ref) s = .next (s.onThread t.ref (fun u => { u with holdoff := 0 })) := by
      show execSchedHoldoffExpiry t.ref s = _
      simp only [execSchedHoldoffExpiry, ht, hholdoff, if_true]
    exact ⟨_, hexec, State.thread_onThread_some ht rfl, fun q hq => State.thread_onThread_ne s _ hq, rfl⟩
  case refine_3 =>
    have hmem : t ∈ Tbl.vals s.threads := List.mem_map.2 ⟨_, Tbl.mem_of_find ht, rfl⟩
    have hwaits := State.threadFetchWaits_of_held hstall hw hcluster hlook hline
    have hfill := (s.icacheFill_fetchesAhead cluster line).rest
    obtain ⟨n, hexec, hn, hthreads⟩ := instructionCacheFill_next hmem hwaits
    have hthread : n.thread t.ref = some { t with stall := .none } := by
      rw [hthreads, State.thread_foldl_onThread_idem (f := fun u => { u with stall := .none }) (fun _ => rfl),
        if_pos ⟨t, List.mem_filter.2 ⟨hmem, hwaits⟩, rfl⟩, hfill]
      exact congrArg (Option.map _) ht
    refine ⟨n, hexec, hthread, ?_, ?_, ?_, ?_⟩
    case refine_4 => rw [hn]; exact s.icache_icacheFill cluster line
    all_goals rw [hn, hfill]

/-! Lines that move (R291, R293, R309) -/

theorem Tbl.length_filter_insert_le {α : Type} (m : Tbl α) (k : Nat) (a : α) (p : Nat × α → Bool) :
    ((Tbl.insert m k a).filter p).length ≤ (m.filter p).length + 1 := by
  induction m with
  | nil => exact List.length_filter_le p [(k, a)]
  | cons e l ih =>
    obtain ⟨j, b⟩ := e
    have hnew : ∀ l : Tbl α, (((k, a) :: l).filter p).length ≤ (l.filter p).length + 1 := fun l => by rw [List.filter_cons]; split <;> simp
    have hgrows : (l.filter p).length ≤ (((j, b) :: l).filter p).length := by rw [List.filter_cons]; split <;> simp
    rw [Tbl.insert]
    split_ifs
    · exact hnew _
    · exact (hnew l).trans (Nat.succ_le_succ hgrows)
    · cases hp : p (j, b) <;> simp [hp, ih]

/-- The lines that the L2 of a quadrant holds. -/
def State.l2Count (s : State) (qd : Nat) : Nat := (s.l2.filter (fun e => quadOf e.1 == qd)).length

section
variable {s : State} {line : Nat}
/-- R309: where the L2 has room, a device line enters it and none leaves. -/
theorem State.l2_l2Touch (hroom : s.l2Count (quadOf line) < l2Lines) (hdev : isDevice (line * 128) = true) (dirty : Bool) :
    (s.l2Touch line dirty).l2 = Tbl.insert s.l2 line (dirty || Tbl.get false s.l2 line) := by
  have hstays : s.l2Room (quadOf line) = s := if_pos hroom
  simp only [State.l2Touch, hdev, if_true, hstays]
  split <;> rfl
theorem State.l2Touch_foreign (hdev : isDevice (line * 128) = false) (dirty : Bool) : s.l2Touch line dirty = s := by
  rw [State.l2Touch, hdev, if_neg Bool.false_ne_true]
theorem State.l2Count_l2Touch_le (hroom : s.l2Count (quadOf line) < l2Lines) (dirty : Bool) (qd : Nat) :
    (s.l2Touch line dirty).l2Count qd ≤ s.l2Count qd + 1 := by
  cases hdev : isDevice (line * 128) with
  | false => rw [State.l2Touch_foreign hdev]; exact Nat.le_succ _
  | true => rw [State.l2Count, State.l2_l2Touch hroom hdev]; exact Tbl.length_filter_insert_le ..
theorem State.l2Touch_dirty (hroom : s.l2Count (quadOf line) < l2Lines) (hdev : isDevice (line * 128) = true) :
    Tbl.get false (s.l2Touch line true).l2 line = true := by
  rw [State.l2_l2Touch hroom hdev, Tbl.get, Tbl.find_insert_self]; rfl
/-- R309: a dirty line stays dirty. -/
theorem State.l2Touch_keeps_dirty (hroom : s.l2Count (quadOf line) < l2Lines) {k : Nat} (hk : Tbl.get false s.l2 k = true) :
    Tbl.get false (s.l2Touch line true).l2 k = true := by
  cases hdev : isDevice (line * 128) with
  | false => rwa [State.l2Touch_foreign hdev]
  | true =>
    rw [State.l2_l2Touch hroom hdev, Tbl.get, Tbl.find_insert]
    split
    · rfl
    · exact hk
end

/-- Lines that the L2 has room for are all dirty in it once they have been written back, as are those that were before. -/
theorem State.foldl_l2Touch_dirty (ls : List Nat) (s : State) (hroom : ∀ qd, s.l2Count qd + ls.length ≤ l2Lines) :
    (∀ k, Tbl.get false s.l2 k = true → Tbl.get false (ls.foldl (fun s l => s.l2Touch l true) s).l2 k = true)
    ∧ ∀ l ∈ ls, isDevice (l * 128) = true → Tbl.get false (ls.foldl (fun s l => s.l2Touch l true) s).l2 l = true := by
  induction ls generalizing s with
  | nil => exact ⟨fun _ hk => hk, fun _ hl => absurd hl List.not_mem_nil⟩
  | cons a ls ih =>
    simp only [List.length_cons] at hroom
    have hone : s.l2Count (quadOf a) < l2Lines := by have := hroom (quadOf a); omega
    obtain ⟨hkeeps, hdirties⟩ := ih (s.l2Touch a true) fun qd => by
      have := State.l2Count_l2Touch_le hone true qd
      have := hroom qd
      omega
    refine ⟨fun k hk => hkeeps k (State.l2Touch_keeps_dirty hone hk), fun l hl hdev => ?_⟩
    rcases List.mem_cons.1 hl with rfl | hl
    · exact hkeeps _ (State.l2Touch_dirty hone hdev)
    · exact hdirties l hl hdev

theorem State.L2Only.core {s n : State} (h : s.L2Only n) (c : Nat) : n.core c = s.core c := by rw [h]; rfl
/-- R292, R308: a recall of an owned line. -/
theorem State.recall_owned {s : State} {line owner : Nat} (h : Tbl.find s.owners line = some owner) :
    (({ s with owners := Tbl.erase s.owners line } : State).onCore owner
      (fun k => { k with release := setErase k.release line })).L2Only (s.recall line) := by
  rw [State.recall, h]
  exact State.l2Touch_l2Only ..
theorem not_mem_setErase (l : List Nat) (k : Nat) : k ∉ setErase l k := by simp [setErase]

theorem linesMove : Claims.LinesMove := by
  refine ⟨fun s line core owner hown => ?_, fun s src dst => ?_⟩
  case refine_1 =>
    have hrecall := State.recall_owned hown
    have herased : Tbl.find (s.recall line).owners line = none := by
      rw [hrecall]; exact (Tbl.find_erase s.owners line line).trans (if_pos rfl)
    have hrelease : line ∉ ((s.recall line).core owner).release := by
      rw [hrecall.core, State.core_onCore_self]
      exact not_mem_setErase _ _
    by_cases hsame : owner = core
    · have hexec : exec (.lineRecall line core) s = .next (s.recall line) := by
        show execLineRecall line core s = _
        simp only [execLineRecall, hown, hsame, if_true]
      refine ⟨_, hexec, by rw [if_pos hsame.symm, herased], fun hne => absurd hsame.symm hne, hrelease, ?_, ?_, ?_⟩
      all_goals rw [hrecall]; rfl
    · have hexec : exec (.lineRecall line core) s = .next (({ s.recall line with
          owners := Tbl.insert (s.recall line).owners line core } : State).onCore core (fun c => { c with clean := Tbl.erase c.clean line })) := by
        show execLineRecall line core s = _
        simp only [execLineRecall, hown, hsame, if_false]
      refine ⟨_, hexec, ?_, fun _ => ?_, ?_, ?_, ?_, ?_⟩
      · rw [if_neg (Ne.symm hsame)]; exact Tbl.find_insert_self _ _ _
      · rw [State.core_onCore_self]; exact (Tbl.find_erase _ line line).trans (if_pos rfl)
      · rw [State.core_onCore_ne _ _ hsame]; exact hrelease
      all_goals rw [hrecall]; rfl
  case refine_2 =>
    have hl2 := State.foldl_l2Touch_dirty (s.core dst).release s
    have honly := State.L2Only.foldl (fun s l => s.l2Touch l true) (fun s l => s.l2Touch_l2Only l true) (s.core dst).release s
    have hexec : exec (.promotionRequest src dst) s = .next (((((s.core dst).release.foldl (fun s l => s.l2Touch l true) s).onCore dst
      (fun k => { k with release := [] })).onCore src (fun c => { c with promote := c.promote &&& ~~~(1#256 <<< dst) }))) := rfl
    generalize (s.core dst).release.foldl (fun s l => s.l2Touch l true) s = m at hl2 honly hexec
    refine ⟨_, hexec, ?_, ?_, fun hroom => (hl2 hroom).2, ?_, ?_, ?_, ?_⟩
    · by_cases h : dst = src
      · rw [h, State.core_onCore_self, State.core_onCore_self]
      · rw [State.core_onCore_ne _ _ h, State.core_onCore_self]
    · rw [State.core_onCore_self]
      by_cases h : src = dst
      · rw [h, State.core_onCore_self, honly.core]
      · rw [State.core_onCore_ne _ _ h, honly.core]
    all_goals rw [honly]; rfl

/-- Settles O42, from what the arrival of a line, a recall and a release change. -/
theorem turnsAndLines : Obligations.TurnsAndLines := ⟨turnEvents, linesMove⟩

end Sys2Proof.Machine
end

section
/-! SUPPORT. A step with no issue group (log entry 11), with the obligation on it. -/
namespace Sys2Proof.Machine

/-- The event at the head of the agenda, if the device may still make it. -/
theorem State.nextOutcome_agenda {s : State} {i : Instr} {rest : List Instr} (hagenda : s.agenda = i :: rest) (hevent : i.isEvent = true)
    (hallows : ({ s with agenda := rest } : State).allows i = true) : s.nextOutcome = exec i { s with agenda := rest } := by
  simp only [State.nextOutcome, hagenda, hevent, hallows, Bool.and_self, if_true]

/-- Settles O6: with no issue group the step makes the next event, which is the head of the agenda. -/
theorem stepRunsAgenda : Obligations.StepRunsAgenda := by
  intro s i rest hissue hagenda hevent hallows
  have hstep : step s = s.runEvent := by simp only [step, hissue]
  rw [← State.nextOutcome_agenda hagenda hevent hallows]
  exact hstep

end Sys2Proof.Machine
end

section
/-! SUPPORT. The integer words of one thread (R132, R134, R135, R137): the specified functions are the model's; with the obligation on
them. -/
namespace Sys2Proof.Machine

/-! Immediate forms (R94, R100, R134) -/

/-- R94, R100: the constant of LUI, with the payload of an IMM hint and without. -/
theorem immHint_append (h : BitVec 20) (imm : BitVec 19) : BitVec.ofNat 32 (h.toNat * 4096 + imm.toNat % 4096) = h ++ fieldOf imm 11 0 := by
  apply BitVec.eq_of_toNat_eq
  have hlow : (fieldOf imm 11 0).toNat = imm.toNat % 4096 := by simp [fieldOf, BitVec.extractLsb']
  have hlt : imm.toNat % 4096 < 2 ^ 12 := Nat.mod_lt _ (by norm_num)
  have hh := h.isLt
  rw [BitVec.toNat_append, hlow, ← Nat.shiftLeft_add_eq_or_of_lt hlt, Nat.shiftLeft_eq, BitVec.toNat_ofNat]
  exact Nat.mod_eq_of_lt (by omega)
theorem upperImm_append (imm : BitVec 19) : BitVec.ofNat 32 (imm.toNat * 8192) = imm ++ 0#13 := by
  apply BitVec.eq_of_toNat_eq
  have hi := imm.isLt
  rw [BitVec.toNat_append, BitVec.toNat_ofNat, BitVec.toNat_ofNat, Nat.zero_mod, Nat.or_zero, Nat.shiftLeft_eq]
  exact Nat.mod_eq_of_lt (by omega)

/-! Bit fields (R135) -/

/-- R135: a field read as signed wraps to 32 bits. -/
theorem wrap_field_eq_bitField (a : Word) (sign : Bool) (l p : BitVec 5) :
    Claims.wrap (if sign ∧ 2 ^ l.toNat ≤ a.toNat / 2 ^ p.toNat % 2 ^ (l.toNat + 1)
      then ((a.toNat / 2 ^ p.toNat % 2 ^ (l.toNat + 1) : ℕ) : Int) - 2 ^ (l.toNat + 1) else ((a.toNat / 2 ^ p.toNat % 2 ^ (l.toNat + 1) : ℕ) : Int))
      = bitField a sign l p := by
  have hpow : 2 ^ (l.toNat + 1) ≤ 2 ^ 32 := Nat.pow_le_pow_right (by norm_num) l.isLt
  unfold bitField Claims.wrap
  generalize a.toNat / 2 ^ p.toNat % 2 ^ (l.toNat + 1) = f
  simp only [Bool.and_eq_true, decide_eq_true_iff]
  split_ifs
  · rw [← BitVec.ofInt_natCast]
    apply BitVec.eq_of_toInt_eq
    rw [BitVec.toInt_ofInt, BitVec.toInt_ofInt]
    have hcast : ((f + 2 ^ 32 - 2 ^ (l.toNat + 1) : ℕ) : Int) = f - 2 ^ (l.toNat + 1) + (2 ^ 32 : ℕ) := by
      rw [Nat.cast_sub (by omega)]
      push_cast
      ring
    rw [hcast, Int.add_bmod_right]
  · exact BitVec.ofInt_natCast 32 f
/-- The mask of l + 1 bits from p on. -/
theorem getLsbD_fieldMask (l p : BitVec 5) {k : Nat} (hk : k < 32) :
    (BitVec.ofNat 32 ((2 ^ (l.toNat + 1) - 1) * 2 ^ p.toNat)).getLsbD k = decide (p.toNat ≤ k ∧ k ≤ p.toNat + l.toNat) := by
  rw [BitVec.getLsbD_ofNat, Nat.testBit_mul_two_pow, Nat.testBit_two_pow_sub_one, decide_eq_true hk, Bool.true_and, Bool.eq_iff_iff]
  simp only [Bool.and_eq_true, decide_eq_true_iff]
  omega
/-- R135: BFI by its bits. -/
theorem ofFnLE_field_eq_bitInsert (d a : Word) (l p : BitVec 5) :
    BitVec.ofFnLE (fun k : Fin 32 => if p.toNat ≤ k ∧ k ≤ p.toNat + l.toNat then a.getLsbD (k - p.toNat) else d.getLsbD k) = bitInsert d a l p := by
  apply BitVec.eq_of_getLsbD_eq
  intro k hk
  rw [BitVec.getLsbD_ofFnLE, dif_pos hk, bitInsert, BitVec.getLsbD_or, BitVec.getLsbD_and, BitVec.getLsbD_and, BitVec.getLsbD_not,
    getLsbD_fieldMask l p hk, BitVec.getLsbD_shiftLeft]
  by_cases hin : p.toNat ≤ k ∧ k ≤ p.toNat + l.toNat
  · simp [hin, hk]
  · simp [hin, hk]

/-- R137: which source SEL takes. -/
theorem sel_cond (t : Thread) (p : PReg) (inv : Bool) :
    ((p = 0 ∨ t.p.getLsbD p.toNat = true) ↔ inv = false) ↔ (t.getP p != inv) = true := by
  have hp : (p = 0 ∨ t.p.getLsbD p.toNat = true) ↔ t.getP p = true := by rw [Thread.getP, Bool.or_eq_true, beq_iff_eq]
  rw [hp]
  cases inv <;> cases t.getP p <;> decide

/-! The words -/

/-- A three-register word applies the function of R132. -/
theorem exec_alu2 {i : Instr} {d a b : VReg} {f : Word → Word → Word} (h : Claims.alu2 i = some (d, a, b, f)) (s : State) :
    exec i s = issueThread i (fun t _ => t.alu d a b f) s ∧ blockOf i = none ∧ isBind i = false := by
  have spec : ∀ {i : Instr} {d a b : VReg} {f g : Word → Word → Word}, (∀ x y, f x y = g x y) →
      issueThread i (fun t _ => t.alu d a b g) s = issueThread i (fun t _ => t.alu d a b f) s := fun e => by
    rw [funext fun x => funext (e x)]
  unfold Claims.alu2 at h
  split at h
  · cases h; exact ⟨spec wrap_toInt_add, rfl, rfl⟩
  · cases h; exact ⟨spec wrap_toInt_sub, rfl, rfl⟩
  · cases h; exact ⟨spec wrap_toInt_mul, rfl, rfl⟩
  · cases h; exact ⟨rfl, rfl, rfl⟩
  · cases h; exact ⟨rfl, rfl, rfl⟩
  · cases h; exact ⟨rfl, rfl, rfl⟩
  · cases h; exact ⟨rfl, rfl, rfl⟩
  · cases h; exact ⟨rfl, rfl, rfl⟩
  · cases h; exact ⟨spec shlSpec_eq_opShl, rfl, rfl⟩
  · cases h; exact ⟨spec shrSpec_eq_opShr, rfl, rfl⟩
  · cases h; exact ⟨spec sarSpec_eq_opSar, rfl, rfl⟩
  · cases h; exact ⟨spec rolSpec_eq_opRol, rfl, rfl⟩
  · cases h; exact ⟨spec wrap_min_toInt, rfl, rfl⟩
  · cases h; exact ⟨spec wrap_max_toInt, rfl, rfl⟩
  · cases h; exact ⟨spec ofNat_min_toNat, rfl, rfl⟩
  · cases h; exact ⟨spec ofNat_max_toNat, rfl, rfl⟩
  · cases h; exact ⟨rfl, rfl, rfl⟩
  · cases h; exact ⟨rfl, rfl, rfl⟩
  · cases h; exact ⟨spec remSpec_eq_opRem, rfl, rfl⟩
  · cases h; exact ⟨spec remuSpec_eq_opRemu, rfl, rfl⟩
  · cases h; exact ⟨spec fun _ _ => clampSpec_eq_clamp32 _, rfl, rfl⟩
  · cases h; exact ⟨spec fun _ _ => clampSpec_eq_clamp32 _, rfl, rfl⟩
  · cases h

/-- The effect of a three-register word. -/
theorem integerEffect_of_alu2 {i : Instr} {d a b : VReg} {f : Word → Word → Word} (h : Claims.alu2 i = some (d, a, b, f)) (t : Thread) :
    Claims.integerEffect i t = some (t.alu d a b f) := by
  unfold Claims.alu2 at h
  split at h
  case h_23 => cases h
  all_goals cases h; rfl

/-- An integer word gives each thread its result, in its own registers. -/
theorem exec_integer {i : Instr} {f : Thread → Thread} (h : ∀ t, Claims.integerEffect i t = some (f t)) (s : State) :
    exec i s = issueThread i (fun t _ => f t) s ∧ blockOf i = none ∧ isBind i = false ∧ ∀ t, (f t).ref = t.ref := by
  have hstart := h (Thread.start { wg := 0, tid := 0 } 0 0)
  obtain rfl : f = fun t => (Claims.integerEffect i t).getD t := funext fun t => by rw [h]; rfl
  rcases hi : Claims.alu2 i with - | ⟨d, a, b, g⟩
  case some =>
    obtain ⟨hexec, hb, hbind⟩ := exec_alu2 hi s
    simp only [integerEffect_of_alu2 hi]
    exact ⟨hexec, hb, hbind, fun _ => rfl⟩
  have spec : ∀ {i : Instr} {d : VReg} {f g : Thread → Word}, (∀ t, f t = g t) →
      issueThread i (fun t _ => t.setV d.toNat (g t)) s = issueThread i (fun t _ => t.setV d.toNat (f t)) s := fun e => by
    rw [funext e]
  unfold Claims.integerEffect at hstart
  split at hstart
  · exact ⟨rfl, rfl, rfl, fun _ => rfl⟩
  · exact ⟨rfl, rfl, rfl, fun _ => rfl⟩
  · exact ⟨rfl, rfl, rfl, fun _ => rfl⟩
  · exact ⟨rfl, rfl, rfl, fun _ => rfl⟩
  · exact ⟨rfl, rfl, rfl, fun _ => rfl⟩
  · exact ⟨rfl, rfl, rfl, fun _ => rfl⟩
  · exact ⟨rfl, rfl, rfl, fun _ => rfl⟩
  · exact ⟨rfl, rfl, rfl, fun _ => rfl⟩
  · exact ⟨rfl, rfl, rfl, fun _ => rfl⟩
  · exact ⟨spec fun _ => shlSpec_eq_opShl _ _, rfl, rfl, fun _ => rfl⟩
  · exact ⟨spec fun _ => shrSpec_eq_opShr _ _, rfl, rfl, fun _ => rfl⟩
  · exact ⟨spec fun _ => sarSpec_eq_opSar _ _, rfl, rfl, fun _ => rfl⟩
  · exact ⟨spec fun _ => rolSpec_eq_opRol _ _, rfl, rfl, fun _ => rfl⟩
  case h_14 d imm =>
    refine ⟨spec fun t => ?_, rfl, rfl, fun _ => rfl⟩
    cases t.immHint with
    | some h => exact immHint_append h imm
    | none => exact upperImm_append imm
  case h_15 d a sign l p => exact ⟨spec fun t => wrap_field_eq_bitField (t.getV a.toNat) sign l p, rfl, rfl, fun _ => rfl⟩
  case h_16 d a l p => exact ⟨spec fun t => ofFnLE_field_eq_bitInsert (t.getV d.toNat) (t.getV a.toNat) l p, rfl, rfl, fun _ => rfl⟩
  case h_17 d a b wide inv p =>
    refine ⟨congrArg (issueThread _ · s) (funext fun t => funext fun _ => ?_), rfl, rfl, fun t => ?_⟩
    · simp only [Claims.integerEffect, sel_cond, Option.getD_some]
    · simp only [Claims.integerEffect, Option.getD_some]
      cases wide <;> rfl
  case h_18 => rw [hi] at hstart; cases hstart

/-- R132, R134, R135, R137: the results and the frames of the integer words. -/
theorem integerResults : Claims.IntegerResults := by
  intro s ts i f hs run hf
  obtain ⟨hexec, hb, hbind, href⟩ := exec_integer hf s
  rw [hexec]
  exact issueThread_threadsBecome hs hb hbind href run

/-! Bit counts (R132) -/

/-- R132: POPC counts the bits that are set. -/
theorem opPopc_toNat (a : Word) : (opPopc a).toNat = (Finset.univ.filter (fun k : Fin 32 => a.getLsbD k = true)).card := by
  have hcard : ((List.range 32).filter (fun i => a.getLsbD i)).length = (Finset.univ.filter (fun k : Fin 32 => a.getLsbD k = true)).card := by
    rw [← List.map_coe_finRange_eq_range, List.filter_map, List.length_map, ← List.toFinset_finRange, ← List.toFinset_filter,
      List.toFinset_card_of_nodup ((List.nodup_finRange 32).filter _)]
    simp only [Function.comp_def]
  have hle := List.length_filter_le (fun i => a.getLsbD i) (List.range 32)
  rw [List.length_range] at hle
  rw [opPopc, BitVec.toNat_ofNat, Nat.mod_eq_of_lt (by omega), hcard]
/-- R132: CLZ counts the zero bits above the leading one. -/
theorem opClz_spec (a : Word) : (opClz a).toNat ≤ 32 ∧ (∀ k, 32 - (opClz a).toNat ≤ k → k < 32 → a.getLsbD k = false)
    ∧ ((opClz a).toNat < 32 → a.getLsbD (31 - (opClz a).toNat) = true) := by
  unfold opClz
  split_ifs with h0
  · subst h0
    simp
  · have hne : a.toNat ≠ 0 := fun h => h0 (BitVec.eq_of_toNat_eq h)
    have hlog : Nat.log2 a.toNat < 32 := (Nat.log2_lt hne).2 a.isLt
    rw [BitVec.toNat_ofNat, Nat.mod_eq_of_lt (by omega)]
    refine ⟨by omega, fun k hk _ => ?_, fun _ => ?_⟩
    · exact Nat.testBit_lt_two_pow (Nat.lt_log2_self.trans_le (Nat.pow_le_pow_right (by norm_num) (by omega)))
    · rw [Nat.sub_sub_self (by omega)]
      exact Nat.testBit_log2 hne
/-- Bits taken one after the other, each new one below: bit j of n is the one taken last but j. -/
theorem testBit_foldl_bits (p : Nat → Bool) (n j : Nat) :
    ((List.range n).foldl (fun r i => 2 * r + (p i).toNat) 0).testBit j = (decide (j < n) && p (n - 1 - j)) := by
  induction n generalizing j with
  | zero => simp
  | succ n ih =>
    rw [List.range_succ, List.foldl_append, List.foldl_cons, List.foldl_nil]
    cases j with
    | zero => cases hp : p n <;> simp [Nat.testBit_zero, hp]
    | succ j =>
      have hhalf : ∀ r : Nat, (2 * r + (p n).toNat) / 2 = r := fun r => by cases p n <;> simp; omega
      rw [Nat.testBit_succ, hhalf, ih]
      simp [Nat.sub_right_comm, Nat.sub_add_eq]
/-- R132: BREV reverses the bits. -/
theorem opBrev_getLsbD (a : Word) {k : Nat} (hk : k < 32) : (opBrev a).getLsbD k = a.getLsbD (31 - k) := by
  rw [opBrev, BitVec.getLsbD_ofNat, testBit_foldl_bits, decide_eq_true hk]
  rfl

/-- R132: what POPC, CLZ and BREV count and reverse. -/
theorem bitCounts : Claims.BitCounts := fun a => ⟨opPopc_toNat a, opClz_spec a, fun _ => opBrev_getLsbD a⟩

/-- Settles O11, from the function of each word and what a word of one thread does. -/
theorem integerWords : Obligations.IntegerWords := ⟨integerResults, bitCounts⟩

end Sys2Proof.Machine
end

section
/-! SUPPORT. The grouping table of a quarter and the issue group that is selected from it (R149 to R153), with the obligation on them. -/
namespace Sys2Proof.Machine

/-! Picking one of a list -/

/-- What is picked of a list, two at a time, is in the list. -/
theorem foldl_pick_mem {α : Type} {pick : α → α → α} (hpick : ∀ a b, pick a b = a ∨ pick a b = b) (a : α) (l : List α) :
    l.foldl pick a ∈ a :: l := by
  induction l generalizing a with
  | nil => simp
  | cons b l ih =>
    rw [List.foldl_cons]
    rcases List.mem_cons.1 (ih (pick a b)) with h | h
    · rw [h]
      rcases hpick a b with h | h <;> simp [h]
    · simp [h]
/-- Where each picking takes the lesser key, the least is picked. -/
theorem foldl_pick_le {α : Type} {pick : α → α → α} (key : α → Nat) (hpick : ∀ a b, pick a b = a ∨ pick a b = b) (a : α) (l : List α)
    (hle : ∀ b ∈ a :: l, ∀ c ∈ a :: l, key (pick b c) ≤ key b ∧ key (pick b c) ≤ key c) : ∀ b ∈ a :: l, key (l.foldl pick a) ≤ key b := by
  induction l generalizing a with
  | nil => simp
  | cons b l ih =>
    rw [List.foldl_cons]
    have hsub : ∀ c ∈ pick a b :: l, c ∈ a :: b :: l := fun c hc => by
      rcases List.mem_cons.1 hc with rfl | hc
      · rcases hpick a b with h | h <;> simp [h]
      · simp [hc]
    have hmin := ih (pick a b) fun c hc d hd => hle c (hsub c hc) d (hsub d hd)
    obtain ⟨ha, hb⟩ := hle a (by simp) b (by simp)
    have hfirst := hmin (pick a b) (by simp)
    intro c hc
    simp only [List.mem_cons] at hc
    rcases hc with rfl | rfl | hc
    · exact hfirst.trans ha
    · exact hfirst.trans hb
    · exact hmin c (by simp [hc])
/-- The least of some numbers of a list is no more than each of them, and is one of them or the number begun with. -/
theorem foldl_min_spec {α : Type} (f : α → Nat) (l : List α) (a : Nat) :
    (∀ t ∈ l, l.foldl (fun m t => min m (f t)) a ≤ f t) ∧ l.foldl (fun m t => min m (f t)) a ≤ a
      ∧ (l.foldl (fun m t => min m (f t)) a = a ∨ ∃ t ∈ l, l.foldl (fun m t => min m (f t)) a = f t) := by
  induction l generalizing a with
  | nil => simp
  | cons t l ih =>
    obtain ⟨hall, hstart, hone⟩ := ih (min a (f t))
    rw [List.foldl_cons]
    refine ⟨?_, hstart.trans (min_le_left _ _), ?_⟩
    · simp only [List.mem_cons, forall_eq_or_imp]
      exact ⟨hstart.trans (min_le_right _ _), hall⟩
    · rcases hone with h | ⟨u, hu, h⟩
      · rcases min_choice a (f t) with hm | hm
        · exact .inl (h.trans hm)
        · exact .inr ⟨t, by simp, h.trans hm⟩
      · exact .inr ⟨u, by simp [hu], h⟩

/-! The age of an entry, and the elder of two threads (R151) -/

theorem Entry.since_le {e : Entry} {t : Thread} (h : t ∈ e.threads) : e.since ≤ t.since :=
  (foldl_min_spec Thread.since e.threads _).1 t h
theorem Entry.exists_since {e : Entry} (h : e.threads ≠ []) : ∃ t ∈ e.threads, t.since = e.since := by
  obtain ⟨t, l, hl⟩ := List.exists_cons_of_ne_nil h
  rcases (foldl_min_spec Thread.since e.threads ((e.threads.head?.map (·.since)).getD 0)).2.2 with hs | ⟨u, hu, hs⟩
  · exact ⟨t, by simp [hl], by rw [Entry.since, hs, hl]; rfl⟩
  · exact ⟨u, hu, hs.symm⟩
theorem State.elder_choice (s : State) (a b : Thread) : s.elder a b = a ∨ s.elder a b = b := by
  unfold State.elder
  split_ifs
  · exact .inr rfl
  · exact .inl rfl
theorem State.elder_since (s : State) (a b : Thread) : (s.elder a b).since ≤ a.since ∧ (s.elder a b).since ≤ b.since := by
  unfold State.elder
  split_ifs with h
  · exact ⟨by rcases h with h | h <;> omega, le_rfl⟩
  · exact ⟨le_rfl, by omega⟩
/-- The eldest of some threads is one of them, and has been ready longest. -/
theorem State.foldl_elder (s : State) (a : Thread) (l : List Thread) :
    l.foldl s.elder a ∈ a :: l ∧ ∀ b ∈ a :: l, (l.foldl s.elder a).since ≤ b.since :=
  ⟨foldl_pick_mem s.elder_choice a l, foldl_pick_le Thread.since s.elder_choice a l fun b _ c _ => s.elder_since b c⟩
/-- Of entries that do not yield, the one selected before is no younger (R151). -/
theorem State.entryBefore_since {s : State} {a b : Entry} (ha : a.yields = false) (hb : b.yields = false) :
    (if s.entryBefore a b then b else a).since ≤ a.since ∧ (if s.entryBefore a b then b else a).since ≤ b.since := by
  simp only [State.entryBefore, ha, hb, bne_self_eq_false, Bool.false_eq_true, if_false]
  by_cases h : b.since = a.since
  · split_ifs <;> omega
  · by_cases hlt : b.since < a.since
    · simp [h, hlt, hlt.le]
    · simp [h, hlt]
      omega

/-! The grouping table (R150) -/

/-- Every entry of the table has threads, all of them among those named, of its PC and its partition. -/
def State.TableOf (s : State) (ready : List Thread) (l : List Entry) : Prop :=
  ∀ e ∈ l, e.threads ≠ [] ∧ ∀ t ∈ e.threads, t ∈ ready ∧ t.pc = e.pc ∧ s.partOfRef t.ref = e.part
/-- The thread stands in an entry of the table. -/
def Listed (l : List Entry) (t : Thread) : Prop := ∃ e ∈ l, t ∈ e.threads

theorem Entry.hasKey_iff {e : Entry} {pc : Pc} {part : Nat} : e.hasKey pc part = true ↔ e.pc = pc ∧ e.part = part := by
  simp [Entry.hasKey]
theorem State.joinEntry_tableOf {s : State} {ready : List Thread} {l : List Entry} {t : Thread} (h : s.TableOf ready l) (ht : t ∈ ready) :
    s.TableOf ready (joinEntry l t (s.partOfRef t.ref)) := by
  intro e he
  unfold joinEntry at he
  split_ifs at he
  · obtain ⟨e', he', rfl⟩ := List.mem_map.1 he
    obtain ⟨hne, hmem⟩ := h e' he'
    split_ifs with hkey
    · refine ⟨by simp, fun u hu => ?_⟩
      rcases List.mem_append.1 hu with hu | hu
      · exact hmem u hu
      · obtain rfl := List.mem_singleton.1 hu
        obtain ⟨hpc, hpart⟩ := Entry.hasKey_iff.1 hkey
        exact ⟨ht, hpc.symm, hpart.symm⟩
    · exact ⟨hne, hmem⟩
  · rcases List.mem_append.1 he with he | he
    · exact h e he
    · obtain rfl := List.mem_singleton.1 he
      refine ⟨by simp, fun u hu => ?_⟩
      obtain rfl := List.mem_singleton.1 hu
      exact ⟨ht, rfl, rfl⟩
theorem joinEntry_ne_nil (l : List Entry) (t : Thread) (p : Nat) : joinEntry l t p ≠ [] := by
  unfold joinEntry
  split_ifs with h
  · obtain ⟨e, he, -⟩ := List.any_eq_true.1 h
    simpa using List.ne_nil_of_mem he
  · simp
theorem joinEntry_length_le (l : List Entry) (t : Thread) (p : Nat) : (joinEntry l t p).length ≤ l.length + 1 := by
  unfold joinEntry
  split_ifs <;> simp
theorem joinEntry_listed_self (l : List Entry) (t : Thread) (p : Nat) : Listed (joinEntry l t p) t := by
  unfold joinEntry
  split_ifs with h
  · obtain ⟨e, he, hkey⟩ := List.any_eq_true.1 h
    exact ⟨_, List.mem_map_of_mem he, by rw [if_pos hkey]; simp⟩
  · exact ⟨_, List.mem_append_right _ (List.mem_singleton_self _), List.mem_singleton_self t⟩
theorem joinEntry_listed {l : List Entry} {u : Thread} (h : Listed l u) (t : Thread) (p : Nat) : Listed (joinEntry l t p) u := by
  obtain ⟨e, he, hu⟩ := h
  unfold joinEntry
  split_ifs
  · refine ⟨_, List.mem_map_of_mem he, ?_⟩
    split_ifs
    · simp [hu]
    · exact hu
  · exact ⟨e, by simp [he], hu⟩

/-! Filling the table -/

section
variable {s : State} {op : List Entry → Thread → List Entry}

/-- Threads that join, or wait outside, keep the table's entries of one key. -/
theorem State.foldl_tableOf (hop : ∀ l t, op l t = l ∨ op l t = joinEntry l t (s.partOfRef t.ref)) {ready ts : List Thread}
    (hts : ∀ t ∈ ts, t ∈ ready) {l : List Entry} (h : s.TableOf ready l) : s.TableOf ready (ts.foldl op l) :=
  List.foldlRecOn ts op h fun l hl t ht => by
    rcases hop l t with e | e
    · rwa [e]
    · rw [e]
      exact State.joinEntry_tableOf hl (hts t ht)
/-- The first thread of all finds an entry free. -/
theorem foldl_ne_nil (hop : ∀ l t, op l t ≠ []) {ts : List Thread} {l : List Entry} (h : l ≠ [] ∨ ts ≠ []) : ts.foldl op l ≠ [] := by
  induction ts generalizing l with
  | nil => exact h.resolve_right fun h => h rfl
  | cons t ts ih => exact ih (.inl (hop l t))
/-- Threads that are no more than the entries left free all find a place. -/
theorem State.foldl_listed (hop : ∀ l t, l.length < 256 → op l t = joinEntry l t (s.partOfRef t.ref)) {ts : List Thread} {l : List Entry}
    (hroom : l.length + ts.length ≤ 256) :
    (ts.foldl op l).length ≤ l.length + ts.length ∧ ∀ t, Listed l t ∨ t ∈ ts → Listed (ts.foldl op l) t := by
  induction ts generalizing l with
  | nil => exact ⟨le_rfl, fun t h => h.resolve_right nofun⟩
  | cons u ts ih =>
    rw [List.length_cons] at hroom ⊢
    rw [List.foldl_cons, hop l u (by omega)]
    have hlen := joinEntry_length_le l u (s.partOfRef u.ref)
    obtain ⟨hlength, hlisted⟩ := ih (l := joinEntry l u (s.partOfRef u.ref)) (by omega)
    refine ⟨by omega, fun t ht => hlisted t ?_⟩
    rcases ht with ht | ht
    · exact .inl (joinEntry_listed ht u _)
    · rcases List.mem_cons.1 ht with rfl | ht
      · exact .inl (joinEntry_listed_self l t _)
      · exact .inr ht

end

/-- Threads in the order in which they became ready are the same threads. -/
theorem insertReady_perm (t : Thread) (l : List Thread) : (insertReady t l).Perm (t :: l) := by
  induction l with
  | nil => exact List.Perm.refl _
  | cons x l ih =>
    unfold insertReady
    split_ifs
    · exact List.Perm.refl _
    · exact (ih.cons x).trans (List.Perm.swap t x l)
theorem foldl_insertReady_perm (ts l : List Thread) : (ts.foldl (fun a t => insertReady t a) l).Perm (ts ++ l) := by
  induction ts generalizing l with
  | nil => exact List.Perm.refl _
  | cons t ts ih => exact (ih _).trans (((insertReady_perm t l).append_left ts).trans List.perm_middle)

/-- The table is filled in three passes: the threads that are listed, those that wait, those that have become ready. -/
def State.joins (s : State) (l : List Entry) (t : Thread) : List Entry := joinEntry l t (s.partOfRef t.ref)
def State.joinsFree (s : State) (l : List Entry) (t : Thread) : List Entry := if l.length < 256 then s.joins l t else l
def State.joinsKey (s : State) (l : List Entry) (t : Thread) : List Entry :=
  if l.length < 256 ∨ l.any (fun e => e.hasKey t.pc (s.partOfRef t.ref)) = true then s.joins l t else l
/-- The ready threads that stand in one place of the grouping, as they are filed. -/
def queued (ready : List Thread) (g : Grouping) : List Thread :=
  (ready.filter (fun t => t.grouping == g)).foldl (fun a t => insertReady t a) []
theorem State.entries_eq (s : State) (ready : List Thread) : s.entries ready
    = (queued ready .out).foldl s.joinsKey ((queued ready .waiting).foldl s.joinsFree
        ((ready.filter (fun t => t.grouping == .listed)).foldl s.joins [])) := rfl

theorem queued_perm (ready : List Thread) (g : Grouping) : (queued ready g).Perm (ready.filter (fun t => t.grouping == g)) := by
  have h := foldl_insertReady_perm (ready.filter (fun t => t.grouping == g)) []
  rwa [List.append_nil] at h
theorem mem_queued {ready : List Thread} {g : Grouping} {t : Thread} : t ∈ queued ready g ↔ t ∈ ready ∧ t.grouping = g := by
  rw [(queued_perm ready g).mem_iff, List.mem_filter, beq_iff_eq]
/-- Every thread stands in one place. -/
theorem length_groupings (ready : List Thread) :
    (ready.filter (fun t => t.grouping == .listed)).length + (queued ready .waiting).length + (queued ready .out).length = ready.length := by
  rw [(queued_perm ready _).length_eq, (queued_perm ready _).length_eq]
  induction ready with
  | nil => rfl
  | cons t ready ih =>
    cases hg : t.grouping <;> simp [hg] <;> omega

theorem State.joinsFree_or (s : State) (l : List Entry) (t : Thread) : s.joinsFree l t = l ∨ s.joinsFree l t = s.joins l t := by
  unfold State.joinsFree
  split_ifs
  · exact .inr rfl
  · exact .inl rfl
theorem State.joinsKey_or (s : State) (l : List Entry) (t : Thread) : s.joinsKey l t = l ∨ s.joinsKey l t = s.joins l t := by
  unfold State.joinsKey
  split_ifs
  · exact .inr rfl
  · exact .inl rfl
theorem State.joinsFree_ne_nil (s : State) (l : List Entry) (t : Thread) : s.joinsFree l t ≠ [] := by
  unfold State.joinsFree
  split_ifs with h
  · exact joinEntry_ne_nil _ _ _
  · rintro rfl
    exact h (by norm_num)
theorem State.joinsKey_ne_nil (s : State) (l : List Entry) (t : Thread) : s.joinsKey l t ≠ [] := by
  unfold State.joinsKey
  split_ifs with h
  · exact joinEntry_ne_nil _ _ _
  · rintro rfl
    exact h (.inl (by norm_num))

/-- R150: the entries hold ready threads of one PC and one partition. -/
theorem State.entries_tableOf (s : State) (ready : List Thread) : s.TableOf ready (s.entries ready) := by
  rw [State.entries_eq]
  refine State.foldl_tableOf s.joinsKey_or (fun t ht => (mem_queued.1 ht).1) (State.foldl_tableOf s.joinsFree_or (fun t ht => (mem_queued.1 ht).1)
    (State.foldl_tableOf (fun _ _ => .inr rfl) (fun t ht => List.mem_of_mem_filter ht) ?_))
  exact fun e he => absurd he List.not_mem_nil
/-- R150: a ready thread makes an entry. -/
theorem State.entries_ne_nil (s : State) {ready : List Thread} {t : Thread} (ht : t ∈ ready) : s.entries ready ≠ [] := by
  rw [State.entries_eq]
  cases hg : t.grouping with
  | out => exact foldl_ne_nil s.joinsKey_ne_nil (.inr (List.ne_nil_of_mem (mem_queued.2 ⟨ht, hg⟩)))
  | waiting =>
    exact foldl_ne_nil s.joinsKey_ne_nil (.inl (foldl_ne_nil s.joinsFree_ne_nil (.inr (List.ne_nil_of_mem (mem_queued.2 ⟨ht, hg⟩)))))
  | listed =>
    refine foldl_ne_nil s.joinsKey_ne_nil (.inl (foldl_ne_nil s.joinsFree_ne_nil (.inl (foldl_ne_nil (fun l t => joinEntry_ne_nil _ _ _) (.inr ?_)))))
    exact List.ne_nil_of_mem (List.mem_filter.2 ⟨ht, by simp [hg]⟩)
/-- R150: 256 entries take as many ready threads. -/
theorem State.entries_listed (s : State) {ready : List Thread} (hroom : ready.length ≤ 256) {t : Thread} (ht : t ∈ ready) :
    Listed (s.entries ready) t := by
  have hlen := length_groupings ready
  rw [State.entries_eq]
  obtain ⟨hlength1, hlisted1⟩ := State.foldl_listed (s := s) (op := s.joins) (fun _ _ _ => rfl) (ts := ready.filter (fun t => t.grouping == .listed))
    (l := []) (by rw [List.length_nil]; omega)
  rw [List.length_nil] at hlength1
  obtain ⟨hlength2, hlisted2⟩ := State.foldl_listed (s := s) (op := s.joinsFree) (fun _ _ h => if_pos h) (ts := queued ready .waiting)
    (l := (ready.filter (fun t => t.grouping == .listed)).foldl s.joins []) (by omega)
  obtain ⟨-, hlisted3⟩ := State.foldl_listed (s := s) (op := s.joinsKey) (fun _ _ h => if_pos (.inl h)) (ts := queued ready .out)
    (l := (queued ready .waiting).foldl s.joinsFree ((ready.filter (fun t => t.grouping == .listed)).foldl s.joins [])) (by omega)
  refine hlisted3 t ?_
  cases hg : t.grouping with
  | out => exact .inr (mem_queued.2 ⟨ht, hg⟩)
  | waiting => exact .inl (hlisted2 t (.inr (mem_queued.2 ⟨ht, hg⟩)))
  | listed => exact .inl (hlisted2 t (.inl (hlisted1 t (.inr (List.mem_filter.2 ⟨ht, by simp [hg]⟩)))))

/-! The group of an entry (R151, R153) -/

theorem mem_setInsert {l : List Nat} {k x : Nat} : x ∈ setInsert l k ↔ x = k ∨ x ∈ l := by
  induction l with
  | nil => simp [setInsert]
  | cons j l ih =>
    unfold setInsert
    split_ifs with h1 h2
    · simp
    · simp [h2]
    · simp only [List.mem_cons, ih]
      tauto
/-- A set kept rising stays so. -/
theorem setInsert_pairwise {l : List Nat} (h : l.Pairwise (· < ·)) (k : Nat) : (setInsert l k).Pairwise (· < ·) := by
  induction l with
  | nil => simp [setInsert]
  | cons j l ih =>
    obtain ⟨hj, hl⟩ := List.pairwise_cons.1 h
    unfold setInsert
    split_ifs with h1 h2
    · refine List.pairwise_cons.2 ⟨fun x hx => ?_, h⟩
      rcases List.mem_cons.1 hx with rfl | hx
      · exact h1
      · exact h1.trans (hj x hx)
    · exact h
    · refine List.pairwise_cons.2 ⟨fun x hx => ?_, ih hl⟩
      rcases mem_setInsert.1 hx with rfl | hx
      · omega
      · exact hj x hx
/-- The lanes of some threads: each once. -/
def State.laneSet (s : State) (l : List Thread) : List Nat := l.foldl (fun l t => setInsert l (s.laneOfRef t.ref)) []
theorem State.mem_laneSet {s : State} {l : List Thread} {x : Nat} : x ∈ s.laneSet l ↔ ∃ t ∈ l, s.laneOfRef t.ref = x := by
  suffices h : ∀ a : List Nat, x ∈ l.foldl (fun l t => setInsert l (s.laneOfRef t.ref)) a ↔ x ∈ a ∨ ∃ t ∈ l, s.laneOfRef t.ref = x from
    (h []).trans (or_iff_right List.not_mem_nil)
  intro a
  induction l generalizing a with
  | nil => simp
  | cons t l ih =>
    rw [List.foldl_cons, ih, mem_setInsert, or_assoc, List.exists_mem_cons_iff, eq_comm (a := x)]
    tauto
theorem State.laneSet_nodup (s : State) (l : List Thread) : (s.laneSet l).Nodup := by
  have h : (s.laneSet l).Pairwise (· < ·) :=
    List.foldlRecOn l _ List.Pairwise.nil fun a ha t _ => setInsert_pairwise ha (s.laneOfRef t.ref)
  exact h.imp ne_of_lt

/-- On a lane, the thread ready longest (R151 step 2). -/
def State.eldestOn (s : State) (l : List Thread) (x : Nat) : Option ThreadRef :=
  match l.filter (fun t => s.laneOfRef t.ref == x) with
  | t :: rest => some (rest.foldl s.elder t).ref
  | [] => none
/-- On the lane of a thread there is one, which has been ready as long. -/
theorem State.eldestOn_lane {s : State} {l : List Thread} {t : Thread} (ht : t ∈ l) :
    ∃ u ∈ l, s.eldestOn l (s.laneOfRef t.ref) = some u.ref ∧ u.since ≤ t.since := by
  have hmem : t ∈ l.filter (fun u => s.laneOfRef u.ref == s.laneOfRef t.ref) := List.mem_filter.2 ⟨ht, beq_self_eq_true _⟩
  unfold State.eldestOn
  split
  case h_1 a rest hl =>
    obtain ⟨heldest, hold⟩ := s.foldl_elder a rest
    rw [hl] at hmem
    rw [← hl] at heldest
    exact ⟨_, List.mem_of_mem_filter heldest, rfl, hold t hmem⟩
  case h_2 hl =>
    rw [hl] at hmem
    cases hmem
/-- It is a thread of that lane. -/
theorem State.eldestOn_some {s : State} {l : List Thread} {x : Nat} {r : ThreadRef} (h : s.eldestOn l x = some r) :
    ∃ u ∈ l, u.ref = r ∧ s.laneOfRef r = x := by
  unfold State.eldestOn at h
  split at h
  case h_1 a rest hl =>
    obtain ⟨heldest, -⟩ := s.foldl_elder a rest
    rw [← hl, List.mem_filter, beq_iff_eq] at heldest
    obtain ⟨hmem, hlane⟩ := heldest
    obtain rfl := Option.some.inj h
    exact ⟨_, hmem, rfl, hlane⟩
  case h_2 => cases h

/-- Of the threads of an elected word, one that has been ready longest is taken: it is in its workgroup's row (R153). -/
theorem State.oneRow_eldest (s : State) {l : List Thread} {t : Thread} (ht : t ∈ l) : ∃ u ∈ s.oneRow l, u.since ≤ t.since := by
  have hmates : t ∈ l.filter (fun u => u.ref.wg == t.ref.wg) := List.mem_filter.2 ⟨ht, beq_self_eq_true _⟩
  obtain ⟨a, rest, hl⟩ := List.exists_cons_of_ne_nil (List.ne_nil_of_mem hmates)
  obtain ⟨hself, hold⟩ := s.foldl_elder a (a :: rest)
  have heldest : (a :: rest).foldl s.elder a ∈ l.filter (fun u => u.ref.wg == t.ref.wg) := by
    rw [hl]
    rcases List.mem_cons.1 hself with h | h
    · rw [h]
      exact List.mem_cons_self
    · exact h
  generalize hu : (a :: rest).foldl s.elder a = u at heldest hold
  obtain ⟨hmem, hwg⟩ := List.mem_filter.1 heldest
  rw [beq_iff_eq] at hwg
  refine ⟨u, List.mem_filter.2 ⟨hmem, ?_⟩, hold t (List.mem_cons_of_mem _ (hl ▸ hmates))⟩
  dsimp only
  rw [hwg, hl, List.headD_cons, hu]
  exact beq_self_eq_true _

/-- The group of an entry: of its threads, or of one row a workgroup, the eldest of each lane. -/
theorem State.groupOf_eq (s : State) (core : Nat) (e : Entry) :
    ∃ l, (l = e.threads ∨ l = s.oneRow e.threads) ∧ s.groupOf core e = (s.laneSet l).filterMap (s.eldestOn l) := by
  unfold State.groupOf
  dsimp only
  split_ifs
  · exact ⟨_, .inr rfl, rfl⟩
  · exact ⟨_, .inl rfl, rfl⟩
/-- R151, R153: the members are threads of the entry, at most one a lane, and one of them has been ready as long as any. -/
theorem State.groupOf_spec (s : State) (core : Nat) (e : Entry) :
    (∀ r ∈ s.groupOf core e, ∃ t ∈ e.threads, t.ref = r) ∧ ((s.groupOf core e).map s.laneOfRef).Nodup
      ∧ ∀ t ∈ e.threads, ∃ u ∈ e.threads, u.ref ∈ s.groupOf core e ∧ u.since ≤ t.since := by
  obtain ⟨l, hl, hgroup⟩ := s.groupOf_eq core e
  have hsub : ∀ t ∈ l, t ∈ e.threads := fun t ht => by
    rcases hl with rfl | rfl
    · exact ht
    · exact List.mem_of_mem_filter ht
  have hold : ∀ t ∈ e.threads, ∃ u ∈ l, u.since ≤ t.since := fun t ht => by
    rcases hl with rfl | rfl
    · exact ⟨t, ht, le_rfl⟩
    · exact s.oneRow_eldest ht
  rw [hgroup]
  refine ⟨fun r hr => ?_, ?_, fun t ht => ?_⟩
  · obtain ⟨x, -, hx⟩ := List.mem_filterMap.1 hr
    obtain ⟨u, hu, hur, -⟩ := State.eldestOn_some hx
    exact ⟨u, hsub u hu, hur⟩
  · refine (List.pairwise_map.2 (List.pairwise_filterMap.2 ((s.laneSet_nodup l).imp ?_)))
    intro x y hxy r hr q hq hlane
    obtain ⟨-, -, -, hrx⟩ := State.eldestOn_some hr
    obtain ⟨-, -, -, hqy⟩ := State.eldestOn_some hq
    exact hxy (hrx.symm.trans (hlane.trans hqy))
  · obtain ⟨u, hu, hut⟩ := hold t ht
    obtain ⟨v, hv, hvr, hvu⟩ := State.eldestOn_lane (s := s) hu
    exact ⟨v, hsub v hv, List.mem_filterMap.2 ⟨_, State.mem_laneSet.2 ⟨u, hu, rfl⟩, hvr⟩, hvu.trans hut⟩

/-! What a selection changes -/

/-- Only the threads have changed, and they at most in their turns. -/
structure State.Turns (s n : State) : Prop where
  rest  : n = { s with threads := n.threads }
  turns : Claims.OnlyTurns s n
theorem State.Turns.refl (s : State) : s.Turns s := by
  refine ⟨rfl, ⟨fun _ => Iff.rfl, fun r t u ht hu => ?_⟩⟩
  rw [ht] at hu
  obtain rfl := Option.some.inj hu
  rfl
theorem onlyTurns_trans {a b c : State} (h : Claims.OnlyTurns a b) (k : Claims.OnlyTurns b c) : Claims.OnlyTurns a c := by
  obtain ⟨hnone, hsome⟩ := h
  obtain ⟨knone, ksome⟩ := k
  refine ⟨fun r => (knone r).trans (hnone r), fun r t v ht hv => ?_⟩
  cases hu : b.thread r with
  | none => rw [(knone r).2 hu] at hv; cases hv
  | some u => rw [ksome r u v hu hv, hsome r t u ht hu]
theorem State.Turns.trans {a b c : State} (h : a.Turns b) (k : b.Turns c) : a.Turns c :=
  ⟨by rw [k.rest, h.rest], onlyTurns_trans h.turns k.turns⟩
theorem State.Turns.foldl {α : Type} {f : State → α → State} (hf : ∀ (s : State) (a : α), s.Turns (f s a)) (l : List α) (s : State) :
    s.Turns (l.foldl f s) := by
  induction l generalizing s with
  | nil => exact .refl s
  | cons a l ih => exact (hf s a).trans (ih _)
/-- A change of one thread's turn. -/
theorem State.onThread_turns (s : State) (r : ThreadRef) {f : Thread → Thread}
    (hf : ∀ u, f u = { u with holdoff := (f u).holdoff, since := (f u).since, yield := (f u).yield, grouping := (f u).grouping }) :
    s.Turns (s.onThread r f) := by
  have hthread : ∀ q, (s.onThread r f).thread q = s.thread q ∨ (s.onThread r f).thread q = (s.thread q).map (Thread.kept f) := fun q => by
    by_cases h : refKey q = refKey r
    · rw [State.thread_congr _ h, State.thread_congr s h]
      exact .inr (State.thread_onThread_self s r f)
    · exact .inl (State.thread_onThread_ne s f h)
  refine ⟨rfl, ⟨fun q => ?_, fun q t u ht hu => ?_⟩⟩
  · rcases hthread q with h | h <;> rw [h]
    exact Option.map_eq_none_iff
  · rcases hthread q with h | h
    · rw [h, ht] at hu
      obtain rfl := Option.some.inj hu
      rfl
    · rw [h, ht] at hu
      obtain rfl := Option.some.inj hu
      have hkept : Thread.kept f t = f t := Thread.kept_eq (by rw [hf])
      rw [hkept]
      exact hf t
theorem State.tickThreads_turns (s : State) (ts : List Thread) (es : List Entry) (now : Nat) : s.Turns (s.tickThreads ts es now) := by
  refine State.Turns.foldl ?_ ts s
  intro s t
  refine State.onThread_turns s t.ref ?_
  intro u
  cases s.threadReady t <;> rfl
theorem State.selected_turns (s : State) (es : List Entry) (members : List ThreadRef) (now : Nat) : s.Turns (s.selected es members now) := by
  refine State.Turns.trans (State.Turns.foldl ?_ es s) (State.Turns.foldl ?_ members _)
  · intro s e
    refine State.Turns.foldl ?_ e.threads s
    intro s t
    exact State.onThread_turns s t.ref (fun _ => rfl)
  · intro s r
    exact State.onThread_turns s r (fun _ => rfl)

/-! The issue group of a quarter -/

/-- The entry selected among some is one of them; where none yields, none is older. -/
theorem State.best_spec (s : State) (e : Entry) (rest : List Entry) :
    let best := rest.foldl (fun a b => if s.entryBefore a b then b else a) e
    best ∈ e :: rest ∧ ((∀ a ∈ e :: rest, a.yields = false) → ∀ a ∈ e :: rest, best.since ≤ a.since) := by
  have hpick : ∀ a b : Entry, (if s.entryBefore a b then b else a) = a ∨ (if s.entryBefore a b then b else a) = b := fun a b => by
    split_ifs
    · exact .inr rfl
    · exact .inl rfl
  exact ⟨foldl_pick_mem hpick e rest, fun hy =>
    foldl_pick_le Entry.since hpick e rest fun b hb c hc => State.entryBefore_since (hy b hb) (hy c hc)⟩

/-- A core's clock advances (log entry 19). -/
def State.tickCore (s : State) (core : Nat) : State := s.onCore core (fun c => { c with cyc := c.cyc + 1 })
/-- R150, R151: with a ready thread a group is formed, of one entry of the table. -/
theorem issueGroupFormation_eq {s : State} {core q : Nat} {t : Thread} (ht : t ∈ (s.quarterThreads core q).filter s.threadReady) :
    ∃ best n, exec (.issueGroupFormation (.quarter core q)) s
        = .next { n with issue := some { unit := .quarter core q, pc := best.pc, members := s.groupOf core best } }
      ∧ (best ∈ s.entries ((s.quarterThreads core q).filter s.threadReady)
        ∧ ((∀ a ∈ s.entries ((s.quarterThreads core q).filter s.threadReady), a.yields = false) →
          ∀ a ∈ s.entries ((s.quarterThreads core q).filter s.threadReady), best.since ≤ a.since))
      ∧ ∃ m, s.Turns m ∧ (m.tickCore core).Turns n := by
  obtain ⟨e, rest, hl⟩ := List.exists_cons_of_ne_nil (s.entries_ne_nil ht)
  have hexec : exec (.issueGroupFormation (.quarter core q)) s = execIssueGroupFormation (.quarter core q) s := rfl
  rw [hexec, hl]
  simp only [execIssueGroupFormation, hl]
  exact ⟨_, _, rfl, s.best_spec e rest, _, s.tickThreads_turns _ _ _, State.selected_turns _ _ _ _⟩
/-- What is left of a device whose threads have had their turns and whose clock has advanced. -/
theorem State.turns_rest {s m n : State} {core : Nat} (hm : s.Turns m) (hn : (m.tickCore core).Turns n) :
    Claims.OnlyTurns s n ∧ (n.core core).cyc = (s.core core).cyc + 1 ∧ n.mem = s.mem ∧ n.near = s.near ∧ n.wgs = s.wgs
      ∧ n.launches = s.launches ∧ n.reqs = s.reqs ∧ n.ops = s.ops := by
  refine ⟨onlyTurns_trans hm.turns hn.turns, ?_, ?_⟩
  · have hcore : n.core core = (m.tickCore core).core core := by rw [hn.rest]; rfl
    have hsame : m.core core = s.core core := by rw [hm.rest]; rfl
    rw [hcore, State.tickCore, State.core_onCore_self, hsame]
  · rw [hn.rest, hm.rest]
    exact ⟨rfl, rfl, rfl, rfl, rfl, rfl⟩

/-- A thread of a quarter is the one filed under its reference. -/
theorem State.thread_of_mem_quarterThreads {s : State} (hk : s.Keyed) {core q : Nat} {t : Thread} (ht : t ∈ s.quarterThreads core q) :
    s.thread t.ref = some t := by
  obtain ⟨hrising, hkeys⟩ := hk
  obtain ⟨⟨k, u⟩, hmem, rfl⟩ := List.mem_map.1 (List.mem_of_mem_filter ht)
  have hkey := hkeys _ hmem
  dsimp only at hkey
  subst hkey
  exact Tbl.find_of_mem hrising hmem
/-- R151: where no thread yields and the table takes every ready thread, a thread that has been ready longest is in the group. -/
theorem State.group_has_eldest {s : State} {ready : List Thread} {best : Entry} (hbest : best ∈ s.entries ready)
    (hold : (∀ a ∈ s.entries ready, a.yields = false) → ∀ a ∈ s.entries ready, best.since ≤ a.since)
    (hyield : ∀ t ∈ ready, t.yield = false) (hroom : ready.length ≤ 256) (core : Nat) :
    ∃ t ∈ best.threads, t.ref ∈ s.groupOf core best ∧ ∀ u ∈ ready, t.since ≤ u.since := by
  have htable := s.entries_tableOf ready
  obtain ⟨t, ht, hts⟩ := Entry.exists_since (htable best hbest).1
  obtain ⟨-, -, heldest⟩ := s.groupOf_spec core best
  obtain ⟨u, hu, hmem, hut⟩ := heldest t ht
  refine ⟨u, hu, hmem, fun v hv => ?_⟩
  obtain ⟨a, ha, hva⟩ := s.entries_listed hroom hv
  have hnone : ∀ a ∈ s.entries ready, a.yields = false := fun a ha =>
    List.any_eq_false.2 fun x hx => by simp [hyield x ((htable a ha).2 x hx).1]
  calc u.since ≤ best.since := hts ▸ hut
    _ ≤ a.since := hold hnone a ha
    _ ≤ v.since := Entry.since_le hva

/-- Settles O41: the group is taken of one entry of the grouping table, whose threads are ready and of one PC and partition. -/
theorem issueGroups : Obligations.IssueGroups := by
  rintro s core q hk ⟨t, ht, htready⟩
  obtain ⟨best, n, hexec, ⟨hbest, hold⟩, m, hm, hn⟩ := issueGroupFormation_eq (List.mem_filter.2 ⟨ht, htready⟩)
  obtain ⟨hne, hthreads⟩ := s.entries_tableOf _ best hbest
  obtain ⟨hmembers, hlanes, heldest⟩ := s.groupOf_spec core best
  have hmember : ∀ r ∈ s.groupOf core best, ∃ t, s.thread r = some t ∧ t.ref = r ∧ t ∈ s.quarterThreads core q ∧ s.threadReady t = true
      ∧ t.pc = best.pc ∧ s.partOfRef r = best.part := fun r hr => by
    obtain ⟨t, ht, rfl⟩ := hmembers r hr
    obtain ⟨hready, hpc, hpart⟩ := hthreads t ht
    obtain ⟨hquarter, hready⟩ := List.mem_filter.1 hready
    exact ⟨t, State.thread_of_mem_quarterThreads hk hquarter, rfl, hquarter, hready, hpc, hpart⟩
  have hrest := State.turns_rest hm hn
  refine ⟨_, _, hexec, rfl, rfl, ?_, fun r hr => ?_, hlanes, fun a ha b hb => ?_, fun hyield hroom => ?_, hrest⟩
  · obtain ⟨t, ht⟩ := List.exists_mem_of_ne_nil _ hne
    obtain ⟨u, -, hu, -⟩ := heldest t ht
    exact List.ne_nil_of_mem hu
  · obtain ⟨t, hthread, href, hquarter, hready, hpc, -⟩ := hmember r hr
    exact ⟨t, hthread, href, hquarter, hready, hpc⟩
  · obtain ⟨-, -, -, -, -, -, hpa⟩ := hmember a ha
    obtain ⟨-, -, -, -, -, -, hpb⟩ := hmember b hb
    exact hpa.trans hpb.symm
  · have hyield' : ∀ t ∈ (s.quarterThreads core q).filter s.threadReady, t.yield = false := fun t ht => by
      obtain ⟨hquarter, hready⟩ := List.mem_filter.1 ht
      exact hyield t hquarter hready
    obtain ⟨t, ht, hmem, hlow⟩ := State.group_has_eldest hbest hold hyield' hroom core
    obtain ⟨hquarter, -⟩ := List.mem_filter.1 (hthreads t ht).1
    exact ⟨t.ref, hmem, t, State.thread_of_mem_quarterThreads hk hquarter, fun u hu hready => hlow u (List.mem_filter.2 ⟨hu, hready⟩)⟩

end Sys2Proof.Machine
end

section
/-! SUPPORT. Conversions, packed and dot words (R141 to R144): the results, the flags and the frames. -/
namespace Sys2Proof.Machine

/-! Integer dot products (R144) -/

/-- A byte of a register, read as IDP4 reads it. -/
theorem byteOf_eq (w : Word) (signed : Bool) (k : Nat) :
    Claims.byteOf w signed k = if signed then (w.extractLsb' (8 * k) 8).toInt else ((w.extractLsb' (8 * k) 8).toNat : Int) := by
  have hbyte : (w.extractLsb' (8 * k) 8).toNat = w.toNat / 2 ^ (8 * k) % 256 := by
    rw [BitVec.extractLsb'_toNat, Nat.shiftRight_eq_div_pow]
  unfold Claims.byteOf
  rw [BitVec.toInt_eq_toNat_cond, hbyte]
  have hlt : w.toNat / 2 ^ (8 * k) % 256 < 256 := Nat.mod_lt _ (by norm_num)
  generalize w.toNat / 2 ^ (8 * k) % 256 = b at hlt ⊢
  cases signed
  · simp
  · simp only [if_true, true_and]
    split_ifs <;> omega
/-- R144: the four products of the bytes are added to the destination. -/
theorem idp4_eq (d a b : Word) (sa sb : Bool) :
    Claims.wrap (d.toNat + (Claims.byteOf a sa 0 * Claims.byteOf b sb 0 + Claims.byteOf a sa 1 * Claims.byteOf b sb 1
      + Claims.byteOf a sa 2 * Claims.byteOf b sb 2 + Claims.byteOf a sa 3 * Claims.byteOf b sb 3)) = idp4 d a b sa sb := by
  simp only [byteOf_eq, ← add_assoc]
  rfl

/-! The words -/

/-- A packed word gives each thread its two elements, each rounded once, and the flags of both. -/
theorem exec_packedResult {i : Instr} {f : Thread → VReg × Fmt × (Nat → Val × Flags)} (h : ∀ t, Claims.packedResult i t = some (f t))
    (s : State) : exec i s = issueThread i (fun t _ => t.putPacked (f t).1 (f t).2.1 (f t).2.2) s ∧ blockOf i = none ∧ isBind i = false := by
  have hstart := h (Thread.start { wg := 0, tid := 0 } 0 0)
  obtain rfl : f = fun t => (Claims.packedResult i t).getD (0, 0, fun _ => (.nan, 0)) := funext fun t => by rw [h]; rfl
  unfold Claims.packedResult at hstart
  split at hstart
  case h_13 => cases hstart
  all_goals exact ⟨rfl, rfl, rfl⟩
/-- An integer dot product gives each thread its sum. -/
theorem exec_idotResult {i : Instr} {f : Thread → VReg × Word} (h : ∀ t, Claims.idotResult i t = some (f t)) (s : State) :
    exec i s = issueThread i (fun t _ => t.setV (f t).1.toNat (f t).2) s ∧ blockOf i = none ∧ isBind i = false := by
  have hstart := h (Thread.start { wg := 0, tid := 0 } 0 0)
  obtain rfl : f = fun t => (Claims.idotResult i t).getD (0, 0) := funext fun t => by rw [h]; rfl
  have spec : ∀ {i : Instr} {d a b : VReg} (sa sb : Bool), issueThread i (fun t _ => t.alu d a b (fun x y => idp4 (t.getV d.toNat) x y sa sb)) s
      = issueThread i (fun t _ => t.setV d.toNat (Claims.wrap ((t.getV d.toNat).toNat
        + (Claims.byteOf (t.getV a.toNat) sa 0 * Claims.byteOf (t.getV b.toNat) sb 0
          + Claims.byteOf (t.getV a.toNat) sa 1 * Claims.byteOf (t.getV b.toNat) sb 1
          + Claims.byteOf (t.getV a.toNat) sa 2 * Claims.byteOf (t.getV b.toNat) sb 2
          + Claims.byteOf (t.getV a.toNat) sa 3 * Claims.byteOf (t.getV b.toNat) sb 3)))) s := fun sa sb => by
    simp only [idp4_eq]
    rfl
  unfold Claims.idotResult at hstart
  split at hstart
  · exact ⟨spec true true, rfl, rfl⟩
  · exact ⟨spec true false, rfl, rfl⟩
  · exact ⟨spec false true, rfl, rfl⟩
  · exact ⟨spec false false, rfl, rfl⟩
  · cases hstart
/-- FDOT4 gives each thread the rounded dot product. -/
theorem exec_fdot4 {i : Instr} {d a b : VReg} {f : Fmt} (h : Claims.fdotFormat i = some (d, a, b, f)) (s : State) :
    exec i s = issueThread i (fun t _ => t.fdot4 d a b f) s ∧ blockOf i = none ∧ isBind i = false := by
  unfold Claims.fdotFormat at h
  split at h
  · cases h; exact ⟨rfl, rfl, rfl⟩
  · cases h; exact ⟨rfl, rfl, rfl⟩
  · cases h

/-- R141 to R144: the results, the flags and the frames of conversions, packed and dot words. -/
theorem packedWords : Claims.PackedWords := by
  refine fun s ts i hs run => ⟨?_, fun f hf => ?_, fun f hf => ?_, fun d a b fmt hf => ?_⟩
  · rintro d a df sf rfl
    exact issueThread_threadsBecome hs rfl rfl (fun _ => rfl) run
  · obtain ⟨hexec, hb, hg⟩ := exec_packedResult hf s
    rw [hexec]
    exact issueThread_threadsBecome hs hb hg (fun _ => rfl) run
  · obtain ⟨hexec, hb, hg⟩ := exec_idotResult hf s
    rw [hexec]
    exact issueThread_threadsBecome hs hb hg (fun _ => rfl) run
  · obtain ⟨hexec, hb, hg⟩ := exec_fdot4 hf s
    rw [hexec]
    exact issueThread_threadsBecome hs hb hg (fun _ => rfl) run

end Sys2Proof.Machine
end

section
/-! SUPPORT. The integer formats and BIN1 (R49, R50, R67): what an element decodes to, and what a number becomes. -/
namespace Sys2Proof.Machine

/-! Comparing values -/

theorem Val.cmp_eq {s t : Bool} {m n : Nat} {e f : Int} (h : ratOf s m e = ratOf t n f) : Val.cmp (.fin s m e) (.fin t n f) = some .eq := by
  have hzero : m = 0 ↔ n = 0 := by rw [← ratOf_eq_zero (s := s) (e := e), h, ratOf_eq_zero]
  unfold Val.cmp
  dsimp only
  by_cases hm : m = 0
  · rw [if_pos ⟨hm, hzero.1 hm⟩]
  · rw [if_neg fun hz => hm hz.1, if_neg hm, if_neg (mt hzero.2 hm), cmpFin]
    have hscaled : scaled s m e (min e f) = scaled t n f (min e f) := by
      rw [← scaled_mul (min_le_left e f), ← scaled_mul (min_le_right e f)] at h
      exact_mod_cast mul_right_cancel₀ (by positivity) h
    rw [hscaled, compare_eq_iff_eq.2 rfl]
/-- Finite values compare as their numbers. -/
theorem Val.cmp_fin (s t : Bool) (m n : Nat) (e f : Int) :
    Val.cmp (.fin s m e) (.fin t n f) = some (compare (ratOf s m e) (ratOf t n f)) := by
  rcases lt_trichotomy (ratOf s m e) (ratOf t n f) with h | h | h
  · rw [Val.cmp_lt h, compare_lt_iff_lt.2 h]
  · rw [Val.cmp_eq h, compare_eq_iff_eq.2 h]
  · rw [Val.cmp_gt h, compare_gt_iff_gt.2 h]
theorem Val.cmp_real {u v : Val} {a b : ℚ} (hu : Claims.real u = some a) (hv : Claims.real v = some b) : u.cmp v = some (compare a b) := by
  obtain ⟨s, m, e, rfl, rfl⟩ := real_eq_some hu
  obtain ⟨t, n, f, rfl, rfl⟩ := real_eq_some hv
  exact Val.cmp_fin s t m n e f
theorem real_ofInt (i : Int) : Claims.real (Val.ofInt i) = some (i : ℚ) := by
  rw [Val.ofInt, real_fin, ratOf_natAbs, zpow_zero, mul_one]

/-! The formats (R49) -/

theorem intFmt_eq : ∀ f : Fmt, intFmt f = Claims.intRange f := by decide
/-- An integer format is no float format, has bits, and takes 0. -/
theorem intRange_fields : ∀ f : Fmt, ∀ r ∈ Claims.intRange f, floatFmt f = none ∧ r.2.1 ≤ 0 ∧ 0 < r.2.2 := by decide
theorem decodeFmt_of_intRange {f : Fmt} {w : Nat} {lo hi : Int} (h : Claims.intRange f = some (w, lo, hi)) (raw : Nat) :
    decodeFmt f raw = decInt' f w lo raw := by
  obtain ⟨hfloat, -⟩ := intRange_fields f _ h
  simp only [decodeFmt, hfloat, intFmt_eq, h]
theorem toFormat_of_intRange {f : Fmt} {w : Nat} {lo hi : Int} (h : Claims.intRange f = some (w, lo, hi)) (mode : BitVec 2) (v : Val) :
    toFormat f mode v = encInt w lo hi mode v := by
  obtain ⟨hfloat, -⟩ := intRange_fields f _ h
  simp only [toFormat, hfloat, intFmt_eq, h]

/-- R49, R50: an element has the value of its code; 10 of T2 is 0 with NV. -/
theorem decode_int {f : Fmt} {w : Nat} {lo hi : Int} (h : Claims.intRange f = some (w, lo, hi)) (raw : Nat) :
    let c : Nat := raw % 2 ^ w
    (f = 25 → c = 2 → Claims.real (decodeFmt f raw).1 = some 0 ∧ (decodeFmt f raw).2 = true)
      ∧ (¬ (f = 25 ∧ c = 2) → Claims.real (decodeFmt f raw).1 = some (if lo < 0 ∧ 2 ^ (w - 1) ≤ c then (c : ℚ) - 2 ^ w else c)
        ∧ (decodeFmt f raw).2 = false) := by
  intro c
  rw [decodeFmt_of_intRange h]
  unfold decInt'
  dsimp only
  refine ⟨fun hf hc => ?_, fun hne => ?_⟩
  · rw [if_pos ⟨hf, hc⟩]
    exact ⟨by simp [Val.zero, real_fin], rfl⟩
  · rw [if_neg hne]
    by_cases hneg : lo < 0 ∧ 2 ^ (w - 1) ≤ c
    · rw [if_pos hneg, if_pos hneg, real_ofInt]
      exact ⟨by push_cast; rfl, rfl⟩
    · rw [if_neg hneg, if_neg hneg, real_ofInt]
      exact ⟨by push_cast; rfl, rfl⟩

/-! Rounding to an integer (R61, R67) -/

/-- The number of a value by its sign and its magnitude. -/
theorem ratOf_sign_abs (s : Bool) (m : Nat) (e : Int) : ratOf s m e = if s then -ratOf false m e else ratOf false m e := by
  cases s
  · rfl
  · exact ratOf_true m e
/-- The nearest integers lie within one half, and of two such the even one is picked. -/
theorem nearest_int {x : ℚ} (hx : 0 ≤ x) {c : Nat} (h : ∀ k : Nat, |(c : ℚ) - x| ≤ |(k : ℚ) - x| ∧ (k ≠ c → |(k : ℚ) - x| = |(c : ℚ) - x| → c % 2 = 0)) :
    |(c : ℚ) - x| ≤ 1 / 2 ∧ (|(c : ℚ) - x| = 1 / 2 → c % 2 = 0) := by
  have hfloor : (⌊x⌋₊ : ℚ) ≤ x := Nat.floor_le hx
  have hnext : x < (⌊x⌋₊ : ℚ) + 1 := Nat.lt_floor_add_one x
  refine ⟨?_, fun he => ?_⟩
  · rcases le_total (x - ⌊x⌋₊) (1 / 2) with hd | hd
    · refine ((h ⌊x⌋₊).1).trans ?_
      rw [abs_le]
      constructor <;> linarith
    · refine ((h (⌊x⌋₊ + 1)).1).trans ?_
      rw [abs_le]
      push_cast
      constructor <;> linarith
  · rcases le_total (c : ℚ) x with hc | hc
    · refine (h (c + 1)).2 (by omega) ?_
      rw [he]
      rw [abs_of_nonpos (by linarith)] at he
      push_cast
      rw [abs_of_nonneg] <;> linarith
    · rw [abs_of_nonneg (by linarith)] at he
      have hc1 : 1 ≤ c := Nat.one_le_iff_ne_zero.2 fun h0 => by
        rw [h0] at he
        push_cast at he
        linarith
      refine (h (c - 1)).2 (by omega) ?_
      rw [abs_of_nonneg (by linarith : 0 ≤ (c : ℚ) - x), Nat.cast_sub hc1, abs_of_nonpos] <;> push_cast <;> linarith
/-- What R61 picks of the natural numbers for a magnitude, with the sign, is what it picks of the integers. -/
theorem roundsInt_of_rounds {mode : BitVec 2} {s : Bool} {x : ℚ} (hx : 0 ≤ x) (hs : s = true → x ≠ 0) {c : Nat}
    (h : Claims.Rounds (fun k : Nat => (k : ℚ)) mode s x c) : Claims.RoundsInt mode (if s then -x else x) (if s then -(c : ℤ) else c) := by
  obtain ⟨hnear, hzero, haway⟩ := h
  dsimp only at hnear hzero haway
  push_cast at hzero
  have hup : mode ≠ 0 → ¬ Claims.TowardZero mode s → x ≤ c ∧ (c : ℚ) - 1 < x := fun h0 hz => by
    obtain ⟨hle, hlt⟩ := haway h0 hz
    refine ⟨hle, ?_⟩
    rcases Nat.eq_zero_or_pos c with rfl | hc
    · push_cast
      linarith
    · have := hlt (c - 1) (by omega)
      rwa [Nat.cast_pred hc] at this
  cases s
  · simp only [Bool.false_eq_true, if_false]
    refine ⟨fun h0 => ?_, fun h1 => ?_, fun h2 => ?_, fun h3 => ?_⟩
    · obtain ⟨hhalf, heven⟩ := nearest_int hx (hnear h0)
      exact ⟨by exact_mod_cast hhalf, fun he => by exact_mod_cast heven (by exact_mod_cast he)⟩
    · rw [if_pos hx, eq_comm, Int.floor_eq_iff]
      exact_mod_cast hzero (.inl h1)
    · rw [eq_comm, Int.floor_eq_iff]
      exact_mod_cast hzero (.inr (.inl ⟨h2, rfl⟩))
    · rw [eq_comm, Int.ceil_eq_iff]
      obtain ⟨hle, hlt⟩ := hup (by rw [h3]; decide) (by rw [h3]; unfold Claims.TowardZero; decide)
      exact_mod_cast And.intro hlt hle
  · have hneg : ¬ (0 ≤ -x) := fun hn => hs rfl (le_antisymm (by linarith) hx)
    simp only [if_true]
    refine ⟨fun h0 => ?_, fun h1 => ?_, fun h2 => ?_, fun h3 => ?_⟩
    · obtain ⟨hhalf, heven⟩ := nearest_int hx (hnear h0)
      have hdist : |((-(c : ℤ) : ℤ) : ℚ) - -x| = |(c : ℚ) - x| := by
        rw [← abs_neg ((c : ℚ) - x)]
        congr 1
        push_cast
        ring
      rw [hdist, Int.neg_emod_two]
      exact ⟨hhalf, fun he => by exact_mod_cast heven he⟩
    · obtain ⟨hle, hlt⟩ := hzero (.inl h1)
      rw [if_neg hneg, eq_comm, Int.ceil_eq_iff]
      constructor <;> push_cast <;> linarith
    · obtain ⟨hle, hlt⟩ := hup (by rw [h2]; decide) (by rw [h2]; unfold Claims.TowardZero; decide)
      rw [eq_comm, Int.floor_eq_iff]
      constructor <;> push_cast <;> linarith
    · obtain ⟨hle, hlt⟩ := hzero (.inr (.inr ⟨h3, rfl⟩))
      rw [eq_comm, Int.ceil_eq_iff]
      constructor <;> push_cast <;> linarith

/-- R67: a number below the range. -/
theorem encInt_below (w : Nat) {lo : Int} (hi : Int) (mode : BitVec 2) {v : Val} {a : ℚ} (hv : Claims.real v = some a) (hlo : lo ≤ 0) (h : a < lo) :
    encInt w lo hi mode v = ((lo % 2 ^ w).toNat, flagNV) := by
  obtain ⟨s, m, e, rfl, rfl⟩ := real_eq_some hv
  have hlo' : (lo : ℚ) ≤ 0 := by exact_mod_cast hlo
  have hm : m ≠ 0 := mt (ratOf_eq_zero (s := s) (e := e)).2 (h.trans_le hlo').ne
  have hcmp := Val.cmp_real hv (real_ofInt lo)
  rw [compare_lt_iff_lt.2 h] at hcmp
  simp only [encInt, if_neg hm, hcmp, if_true]
  push_cast
  rfl
/-- R67: a number above the range. -/
theorem encInt_above (w : Nat) {lo hi : Int} (mode : BitVec 2) {v : Val} {a : ℚ} (hv : Claims.real v = some a) (hlo : lo ≤ 0) (hhi : 0 < hi)
    (h : hi < a) : encInt w lo hi mode v = ((hi % 2 ^ w).toNat, flagNV) := by
  obtain ⟨s, m, e, rfl, rfl⟩ := real_eq_some hv
  have hhi' : (0 : ℚ) < hi := by exact_mod_cast hhi
  have hlo' : (lo : ℚ) ≤ 0 := by exact_mod_cast hlo
  have hm : m ≠ 0 := mt (ratOf_eq_zero (s := s) (e := e)).2 (hhi'.trans h).ne'
  have hcmpLo := Val.cmp_real hv (real_ofInt lo)
  have hcmpHi := Val.cmp_real hv (real_ofInt hi)
  rw [compare_gt_iff_gt.2 (by linarith)] at hcmpLo
  rw [compare_gt_iff_gt.2 h] at hcmpHi
  simp only [encInt, if_neg hm, hcmpLo, hcmpHi, if_true]
  rw [if_neg (by decide)]
  push_cast
  rfl
/-- R61, R67: a number in the range becomes the integer that the mode picks. -/
theorem encInt_within (w : Nat) {lo hi : Int} (mode : BitVec 2) {v : Val} {a : ℚ} (hv : Claims.real v = some a) (hlo : lo ≤ a) (hhi : a ≤ hi) :
    ∃ n : ℤ, Claims.RoundsInt mode a n ∧ encInt w lo hi mode v = ((n % 2 ^ w).toNat, if (n : ℚ) = a then 0 else flagNX) := by
  obtain ⟨s, m, e, rfl, rfl⟩ := real_eq_some hv
  by_cases hm : m = 0
  · subst hm
    refine ⟨0, ?_, by simp [encInt]⟩
    rw [ratOf_zero]
    exact ⟨fun _ => by norm_num, fun _ => by simp, fun _ => by simp, fun _ => by simp⟩
  have hcmpLo : Val.cmp (.fin s m e) (Val.ofInt lo) ≠ some .lt := by
    rw [Val.cmp_real hv (real_ofInt lo), ne_eq, Option.some.injEq, compare_lt_iff_lt, not_lt]
    exact hlo
  have hcmpHi : Val.cmp (.fin s m e) (Val.ofInt hi) ≠ some .gt := by
    rw [Val.cmp_real hv (real_ofInt hi), ne_eq, Option.some.injEq, compare_gt_iff_gt, not_lt]
    exact hhi
  have hmono : StrictMono (fun k : Nat => (k : ℚ)) := Nat.strictMono_cast
  have hfits := cutAt_fits m e 0
  simp only [zpow_zero, mul_one] at hfits
  have hrounds := Rest.Fits.rounds hmono hfits mode s
  have hexact := Rest.Fits.exact_iff_picked hmono hfits mode s ((cutAt m e 0).1 % 2 == 1)
  simp only [encInt, if_neg hm, if_neg hcmpLo, if_neg hcmpHi]
  generalize (if roundsUp mode s (cutAt m e 0).2 ((cutAt m e 0).1 % 2 == 1) then (cutAt m e 0).1 + 1 else (cutAt m e 0).1) = c at hrounds hexact ⊢
  refine ⟨if s then -(c : ℤ) else c, ?_, Prod.ext ?_ ?_⟩
  · rw [ratOf_sign_abs]
    exact roundsInt_of_rounds (ratOf_false_nonneg m e) (fun _ => mt ratOf_eq_zero.1 hm) hrounds
  · push_cast
    rfl
  · have hnum : ((if s then -(c : ℤ) else c : ℤ) : ℚ) = ratOf s m e ↔ (c : ℚ) = ratOf false m e := by
      rw [ratOf_sign_abs]
      cases s <;> simp
    simp only [beq_iff_eq, hnum, hexact]

/-- R49, R61, R67: the integer formats. -/
theorem intFormat {f : Fmt} {w : Nat} {lo hi : Int} (h : Claims.intRange f = some (w, lo, hi)) (mode : BitVec 2) {v : Val} {a : ℚ}
    (hv : Claims.real v = some a) :
    (a < lo → toFormat f mode v = ((lo % 2 ^ w).toNat, flagNV)) ∧ (hi < a → toFormat f mode v = ((hi % 2 ^ w).toNat, flagNV))
      ∧ (lo ≤ a → a ≤ hi → ∃ n : ℤ, Claims.RoundsInt mode a n ∧ toFormat f mode v = ((n % 2 ^ w).toNat, if (n : ℚ) = a then 0 else flagNX)) := by
  obtain ⟨-, hlo, hhi⟩ := intRange_fields f _ h
  rw [toFormat_of_intRange h]
  exact ⟨encInt_below w hi mode hv hlo, encInt_above w mode hv hlo hhi, encInt_within w mode hv⟩
theorem intFormat_special {f : Fmt} {w : Nat} {lo hi : Int} (h : Claims.intRange f = some (w, lo, hi)) (mode : BitVec 2) (s : Bool) :
    toFormat f mode (.inf s) = (((if s then lo else hi) % 2 ^ w).toNat, flagNV) ∧ toFormat f mode .nan = (0, flagNV) := by
  rw [toFormat_of_intRange h, toFormat_of_intRange h]
  exact ⟨by simp only [encInt]; push_cast; rfl, rfl⟩

/-! BIN1 (R49, R67) -/

/-- R49: 0 is 1 and 1 is -1. -/
theorem decode_bin1 (raw : Nat) : Claims.real (decodeFmt 23 raw).1 = some (if raw % 2 = 0 then 1 else -1) ∧ (decodeFmt 23 raw).2 = false := by
  have hdec : decodeFmt 23 raw = (Val.ofInt (if raw % 2 = 0 then 1 else -1), false) := rfl
  rw [hdec, real_ofInt]
  refine ⟨?_, rfl⟩
  split_ifs <;> norm_num
/-- R67: 1 and -1, and what lies beyond them, become the one of their sign. -/
theorem encBin1_one (mode : BitVec 2) {v : Val} (hv : Claims.real v = some 1) : encBin1 mode v = (0, 0) := by
  obtain ⟨s, m, e, rfl, ha⟩ := real_eq_some hv
  have hm : m ≠ 0 := fun h => by simp [h] at ha
  obtain rfl : s = false := (ratOf_pos_iff hm).1 (ha ▸ one_pos)
  have hcmp := Val.cmp_real hv (real_ofInt 1)
  rw [Int.cast_one, compare_eq_iff_eq.2 rfl] at hcmp
  simp [encBin1, hcmp]
theorem encBin1_minus_one (mode : BitVec 2) {v : Val} (hv : Claims.real v = some (-1)) : encBin1 mode v = (1, 0) := by
  obtain ⟨s, m, e, rfl, ha⟩ := real_eq_some hv
  have hm : m ≠ 0 := fun h => by simp [h] at ha
  obtain rfl : s = true := (ratOf_neg_iff hm).1 (by rw [ha]; norm_num)
  have hcmp := Val.cmp_real hv (real_ofInt (-1))
  rw [Int.cast_neg, Int.cast_one, compare_eq_iff_eq.2 rfl] at hcmp
  simp [encBin1, hcmp]
theorem encBin1_above (mode : BitVec 2) {v : Val} {a : ℚ} (hv : Claims.real v = some a) (h : 1 < a) : encBin1 mode v = (0, flagNV) := by
  obtain ⟨s, m, e, rfl, rfl⟩ := real_eq_some hv
  have hm : m ≠ 0 := fun h0 => by rw [h0, ratOf_zero] at h; linarith
  obtain rfl : s = false := (ratOf_pos_iff hm).1 (one_pos.trans h)
  have hcmp := Val.cmp_real hv (real_ofInt 1)
  rw [Int.cast_one, compare_gt_iff_gt.2 h] at hcmp
  simp [encBin1, hcmp, hm]
theorem encBin1_below (mode : BitVec 2) {v : Val} {a : ℚ} (hv : Claims.real v = some a) (h : a < -1) : encBin1 mode v = (1, flagNV) := by
  obtain ⟨s, m, e, rfl, rfl⟩ := real_eq_some hv
  have hm : m ≠ 0 := fun h0 => by rw [h0, ratOf_zero] at h; linarith
  obtain rfl : s = true := (ratOf_neg_iff hm).1 (by linarith)
  have hcmp := Val.cmp_real hv (real_ofInt (-1))
  rw [Int.cast_neg, Int.cast_one, compare_lt_iff_lt.2 h] at hcmp
  simp [encBin1, hcmp, hm]
/-- R61, R67: between the two, RDN takes -1, RUP takes 1, and the others take the one of the number's sign. -/
theorem encBin1_within (mode : BitVec 2) {v : Val} {a : ℚ} (hv : Claims.real v = some a) (h : |a| < 1) :
    encBin1 mode v = (if mode = 2 ∨ mode ≠ 3 ∧ a < 0 then 1 else 0, flagNX) := by
  obtain ⟨s, m, e, rfl, rfl⟩ := real_eq_some hv
  obtain ⟨hlow, hhigh⟩ := abs_lt.1 h
  have hneg : ratOf s m e < 0 ↔ m ≠ 0 ∧ s = true := by
    by_cases hm : m = 0
    · simp [hm]
    · rw [ratOf_neg_iff hm, and_iff_right hm]
  have hmodes : mode = 0 ∨ mode = 1 ∨ mode = 2 ∨ mode = 3 := by
    revert mode
    decide
  simp only [hneg]
  cases s
  · have hcmp := Val.cmp_real hv (real_ofInt 1)
    rw [Int.cast_one, compare_lt_iff_lt.2 hhigh] at hcmp
    rcases hmodes with rfl | rfl | rfl | rfl <;> simp [encBin1, hcmp]
  · have hcmp := Val.cmp_real hv (real_ofInt (-1))
    rw [Int.cast_neg, Int.cast_one, compare_gt_iff_gt.2 hlow] at hcmp
    rcases hmodes with rfl | rfl | rfl | rfl <;> simp [encBin1, hcmp]

/-- R42: the bits of every format. -/
theorem storageBits_eq (f : Fmt) : storageBits f = if f ∈ [0, 1] then 32 else if f ∈ [2, 3, 16] then 16
    else if f ∈ [10, 11, 19, 20, 26, 27, 28, 31] then 4 else if f ∈ [21, 22, 25, 29] then 2 else if f ∈ [23, 24] then 1 else 8 := by
  revert f
  decide

/-- R42, R49, R50, R61, R67: the integer formats and BIN1. -/
theorem integerFormats : Claims.IntegerFormats := by
  refine ⟨storageBits_eq, fun f w lo hi h => ⟨decode_int h, fun mode v a hv => intFormat h mode hv, intFormat_special h⟩,
    fun raw mode v a s hv => ?_⟩
  obtain ⟨hreal, hnv⟩ := decode_bin1 raw
  refine ⟨hreal, hnv, ?_, ?_, encBin1_above mode hv, encBin1_below mode hv, encBin1_within mode hv, rfl, rfl⟩
  · rintro rfl
    exact encBin1_one mode hv
  · rintro rfl
    exact encBin1_minus_one mode hv

end Sys2Proof.Machine
end

section
/-! SUPPORT. UE8M0 and the logarithmic formats (R48, R53, R66, R69): the values of their codes, and the code that a number becomes. -/
namespace Sys2Proof.Machine

/-! Where a number lies between two neighbours -/

/-- By its distances. -/
def restOf (lo hi x : ℚ) : Rest :=
  if x = lo then .exact else match compare (2 * x) (lo + hi) with
    | .lt => .low
    | .eq => .half
    | .gt => .high
theorem restOf_exact {lo hi x : ℚ} : restOf lo hi x = .exact ↔ x = lo := by
  unfold restOf
  split_ifs with h
  · exact iff_of_true rfl h
  · exact iff_of_false (by split <;> nofun) h
theorem restOf_fits {lo hi x : ℚ} (hlow : lo ≤ x) (hhigh : x < hi) : (restOf lo hi x).Fits lo hi x := by
  unfold restOf
  split_ifs with h
  · exact h
  · rcases lt_trichotomy (2 * x) (lo + hi) with hc | hc | hc
    · rw [compare_lt_iff_lt.2 hc]
      exact ⟨lt_of_le_of_ne hlow (Ne.symm h), by linarith⟩
    · rw [compare_eq_iff_eq.2 hc]
      change x = (lo + hi) / 2
      linarith
    · rw [compare_gt_iff_gt.2 hc]
      exact ⟨by linarith, hhigh⟩
/-- R61: what a mode does with an inexact number, the nearest by twice the number. -/
theorem roundsUp_restOf {lo hi x : ℚ} (h : x ≠ lo) (mode : BitVec 2) (neg odd : Bool) : roundsUp mode neg (restOf lo hi x) odd
    = match mode.toNat with
      | 0 => (match compare (2 * x) (lo + hi) with
        | .lt => false
        | .gt => true
        | .eq => odd)
      | 1 => false
      | 2 => neg
      | _ => !neg := by
  unfold restOf
  rw [if_neg h]
  cases compare (2 * x) (lo + hi) <;> rfl

theorem Val.add_real {u v : Val} {a b : ℚ} (hu : Claims.real u = some a) (hv : Claims.real v = some b) :
    Claims.real (u.add v).1 = some (a + b) ∧ (u.add v).2 = false := by
  obtain ⟨s, m, e, rfl, rfl⟩ := real_eq_some hu
  obtain ⟨t, n, f, rfl, rfl⟩ := real_eq_some hv
  exact ⟨(Val.add_fin s t m n e f).2, (Val.add_fin s t m n e f).1⟩
theorem ratOf_succ (s : Bool) (m : Nat) (e : Int) : ratOf s m (e + 1) = 2 * ratOf s m e := by
  rw [ratOf, ratOf, zpow_add_one₀ (by norm_num)]
  ring
/-- Twice a number, compared with the sum of its neighbours. -/
theorem cmp_twice {u v : Val} {lo hi : ℚ} (hu : Claims.real u = some lo) (hv : Claims.real v = some hi) (s : Bool) (m : Nat) (e : Int) :
    (Val.fin s m (e + 1)).cmp (u.add v).1 = some (compare (2 * ratOf s m e) (lo + hi)) := by
  rw [Val.cmp_real (real_fin s m (e + 1)) (Val.add_real hu hv).1, ratOf_succ]

/-! UE8M0 (R48, R66) -/

/-- The value of a code of UE8M0. -/
def scaleOf (c : Nat) : ℚ := 2 ^ ((c : ℤ) - 127)
theorem scaleOf_strictMono : StrictMono scaleOf :=
  strictMono_nat_of_lt_succ fun c => zpow_lt_zpow_right₀ (by norm_num) (by push_cast; omega)
/-- R48: a code is a power of two, or NaN. -/
theorem decode_ue8m0 (raw : Nat) :
    (raw % 256 = 255 → (decodeFmt 12 raw).1 = .nan) ∧ (raw % 256 ≠ 255 → Claims.real (decodeFmt 12 raw).1 = some (scaleOf (raw % 256))) := by
  have hdec : decodeFmt 12 raw = (if raw % 256 = 255 then .nan else .fin false 1 (Int.ofNat (raw % 256) - 127), false) := rfl
  rw [hdec]
  refine ⟨fun h => if_pos h, fun h => ?_⟩
  dsimp only
  rw [if_neg h, real_fin, ratOf_false, Nat.cast_one, one_mul]
  rfl
/-- R66: UE8M0 has no number that is 0 or less. -/
theorem encUe8m0_nonpos (mode : BitVec 2) {v : Val} {a : ℚ} (hv : Claims.real v = some a) (h : a ≤ 0) : encUe8m0 mode v = (0xFF, flagNV) := by
  obtain ⟨s, m, e, rfl, rfl⟩ := real_eq_some hv
  have hsign : m = 0 ∨ s = true := by
    by_contra hne
    obtain ⟨hm, hs⟩ := not_or.1 hne
    exact absurd ((ratOf_pos_iff (e := e) hm).2 (Bool.not_eq_true s ▸ hs)) h.not_gt
  simp only [encUe8m0, if_pos hsign]
/-- A number above 0 has a magnitude and no sign. -/
theorem pos_fin {v : Val} {a : ℚ} (hv : Claims.real v = some a) (h : 0 < a) : ∃ m e, m ≠ 0 ∧ v = .fin false m e ∧ ratOf false m e = a := by
  obtain ⟨s, m, e, rfl, rfl⟩ := real_eq_some hv
  have hm : m ≠ 0 := fun hm => by simp [hm] at h
  obtain rfl : s = false := (ratOf_pos_iff hm).1 h
  exact ⟨m, e, hm, rfl, rfl⟩
/-- A number between 0 and the least power of two of the format. -/
theorem encUe8m0_small (mode : BitVec 2) {v : Val} {a : ℚ} (hv : Claims.real v = some a) (h0 : 0 < a) (h : a < scaleOf 0) :
    encUe8m0 mode v = (0, flagUF ||| flagNX) := by
  obtain ⟨m, e, hm, rfl, rfl⟩ := pos_fin hv h0
  have hlog : Val.log2 m e < -127 := (zpow_lt_zpow_iff_right₀ (by norm_num : (1 : ℚ) < 2)).1 ((log2_bounds hm e).1.trans_lt h)
  have hsign : ¬ (m = 0 ∨ false = true) := by simpa using hm
  simp only [encUe8m0, if_neg hsign, if_pos hlog]
/-- A number lies between two neighbouring powers of two, and the mode picks one. -/
theorem encUe8m0_fin (mode : BitVec 2) {m : Nat} (hm : m ≠ 0) {e : Int} (h : scaleOf 0 ≤ ratOf false m e) :
    ∃ (c : Nat) (r : Rest), r.Fits (scaleOf c) (scaleOf (c + 1)) (ratOf false m e)
      ∧ encUe8m0 mode (.fin false m e) = (let c' := if roundsUp mode false r (c % 2 == 1) then c + 1 else c
        if 254 < c' then (0xFE, flagOF ||| flagNX) else (c', if r = .exact then 0 else flagNX)) := by
  have hsign : ¬ (m = 0 ∨ false = true) := by simpa using hm
  have hlog : ¬ Val.log2 m e < -127 := fun hlt => by
    have hle : (2 : ℚ) ^ (Val.log2 m e + 1) ≤ scaleOf 0 := zpow_le_zpow_right₀ (by norm_num) (by push_cast; omega)
    exact absurd ((log2_bounds hm e).2.trans_le hle) h.not_gt
  obtain ⟨c, hc⟩ : ∃ c : Nat, Val.log2 m e + 127 = c := ⟨(Val.log2 m e + 127).toNat, by omega⟩
  have hfits := cutAt_fits m e (Val.log2 m e)
  simp only [encUe8m0, if_neg hsign, if_neg hlog]
  rw [hc]
  generalize cutAt m e (Val.log2 m e) = cut at hfits ⊢
  obtain ⟨n, r⟩ := cut
  dsimp only at hfits ⊢
  obtain ⟨hlow, hhigh⟩ := hfits.bounds (by gcongr; exact Nat.lt_succ_self n)
  obtain ⟨hn, hlead⟩ := units_bounds (M := 0) hm (by simp) hlow hhigh
  obtain rfl : n = 1 := by
    have := hlead (by simp)
    omega
  have hk : Val.log2 m e = (c : ℤ) - 127 := by omega
  refine ⟨c, r, ?_, ?_⟩
  · have hnext : scaleOf (c + 1) = 2 * 2 ^ Val.log2 m e := by
      rw [scaleOf, hk, ← zpow_one_add₀ (by norm_num)]
      congr 1
      push_cast
      ring
    rw [hnext, scaleOf, ← hk]
    simpa using hfits
  · have hodd : ((c : Int) % 2 == 1) = (c % 2 == 1) := by rw [Bool.eq_iff_iff, beq_iff_eq, beq_iff_eq]; omega
    have hpick : (if roundsUp mode false r (c % 2 == 1) then (c : ℤ) + 1 else c)
        = ((if roundsUp mode false r (c % 2 == 1) then c + 1 else c : ℕ) : ℤ) := (Nat.cast_ite _ _ _).symm
    rw [hodd, hpick]
    simp only [beq_iff_eq, gt_iff_lt, Nat.ofNat_lt_cast, Int.toNat_natCast]
/-- R61, R66: a number becomes the power of two that the mode picks, or the largest with OF. -/
theorem encUe8m0_number (mode : BitVec 2) {v : Val} {a : ℚ} (hv : Claims.real v = some a) (h : scaleOf 0 ≤ a) :
    ∃ c, Claims.Rounds scaleOf mode false a c ∧ (c ≤ 254 → encUe8m0 mode v = (c, if scaleOf c = a then 0 else flagNX))
      ∧ (254 < c → encUe8m0 mode v = (0xFE, flagOF ||| flagNX)) := by
  obtain ⟨m, e, hm, rfl, rfl⟩ := pos_fin hv (lt_of_lt_of_le (by unfold scaleOf; positivity) h)
  obtain ⟨c, r, hfits, henc⟩ := encUe8m0_fin mode hm h
  refine ⟨_, hfits.rounds scaleOf_strictMono mode false, fun hle => ?_, fun hlt => ?_⟩
  · rw [henc, ← ite_congr (propext (hfits.exact_iff_picked scaleOf_strictMono mode false (c % 2 == 1))) (fun _ => rfl) (fun _ => rfl)]
    exact if_neg hle.not_gt
  · rw [henc]
    exact if_pos hlt

/-! The logarithmic formats (R53) -/

/-- The eight mantissas of a logarithm. -/
def logT (k : Nat) : ℚ := [1, 1.09375, 1.1875, 1.296875, 1.4140625, 1.5390625, 1.6796875, 1.8359375].getD k 0
theorem logT_pos : ∀ k < 8, 0 < logT k := by
  intro k hk
  interval_cases k <;> norm_num [logT]
theorem lnsT_eq : ∀ k < 8, (lnsT k : ℚ) = 2 ^ 7 * logT k := by
  intro k hk
  interval_cases k <;> norm_num [logT, lnsT]
/-- They rise, and stay below the next power of two. -/
theorem logT_lt : ∀ k < 7, logT k < logT (k + 1) := by
  intro k hk
  interval_cases k <;> norm_num [logT]
theorem logT_ends : logT 0 < logT 4 ∧ logT 4 < 2 * logT 0 ∧ logT 7 < 2 * logT 0 := by norm_num [logT]

theorem logMagnitude_eight (L : ℤ) : Claims.logMagnitude true L = logT (L % 8).toNat * 2 ^ (L / 8) := rfl
theorem logMagnitude_four (L : ℤ) : Claims.logMagnitude false L = logT (4 * (L % 2)).toNat * 2 ^ (L / 2) := rfl
theorem logMagnitude_pos (eight : Bool) (L : ℤ) : 0 < Claims.logMagnitude eight L := by
  cases eight
  · rw [logMagnitude_four]
    exact mul_pos (logT_pos _ (by omega)) (by positivity)
  · rw [logMagnitude_eight]
    exact mul_pos (logT_pos _ (by omega)) (by positivity)
/-- R53: magnitudes rise with their logarithm. -/
theorem logMagnitude_strictMono (eight : Bool) : StrictMono (Claims.logMagnitude eight) := by
  refine strictMono_int_of_lt_succ fun L => ?_
  cases eight
  · rw [logMagnitude_four, logMagnitude_four]
    have hu : (0 : ℚ) < 2 ^ (L / 2) := by positivity
    rcases (by omega : L % 2 = 0 ∧ (L + 1) % 2 = 1 ∧ (L + 1) / 2 = L / 2 ∨ L % 2 = 1 ∧ (L + 1) % 2 = 0 ∧ (L + 1) / 2 = 1 + L / 2)
      with ⟨h, h', hq⟩ | ⟨h, h', hq⟩
    · rw [h, h', hq]
      exact mul_lt_mul_of_pos_right logT_ends.1 hu
    · rw [h, h', hq, zpow_one_add₀ (by norm_num), ← mul_assoc, mul_comm _ (2 : ℚ)]
      exact mul_lt_mul_of_pos_right logT_ends.2.1 hu
  · rw [logMagnitude_eight, logMagnitude_eight]
    have hu : (0 : ℚ) < 2 ^ (L / 8) := by positivity
    rcases (by omega : L % 8 < 7 ∧ (L + 1) % 8 = L % 8 + 1 ∧ (L + 1) / 8 = L / 8 ∨ L % 8 = 7 ∧ (L + 1) % 8 = 0 ∧ (L + 1) / 8 = 1 + L / 8)
      with ⟨h, h', hq⟩ | ⟨h, h', hq⟩
    · rw [h', hq, Int.toNat_add (by omega) (by norm_num)]
      exact mul_lt_mul_of_pos_right (logT_lt _ (by omega)) hu
    · rw [h, h', hq, zpow_one_add₀ (by norm_num), ← mul_assoc, mul_comm _ (2 : ℚ)]
      exact mul_lt_mul_of_pos_right logT_ends.2.2 hu

/-- The bits of a code without its sign. -/
def logBits (eight : Bool) : Nat := if eight then 7 else 3
/-- The ladder of the magnitudes, which begins with 0. -/
def logCand (eight : Bool) (c : Nat) : ℚ := if c = 0 then 0 else Claims.logMagnitude eight ((c : ℤ) - 2 ^ (logBits eight - 1))
theorem logCand_strictMono (eight : Bool) : StrictMono (logCand eight) := by
  refine strictMono_nat_of_lt_succ fun c => ?_
  rw [logCand, logCand, if_neg (Nat.succ_ne_zero c)]
  split_ifs
  · exact logMagnitude_pos eight _
  · exact logMagnitude_strictMono eight (by push_cast; omega)
/-- A logarithm's value is its place on the ladder, from the least logarithm on, which stands for 0. -/
theorem lnsVal_spec (eight neg : Bool) (c : Nat) :
    Claims.real (lnsVal eight neg ((c : ℤ) - 2 ^ (logBits eight - 1))) = some ((if neg then -1 else 1) * logCand eight c)
      ∧ (lnsVal eight neg ((c : ℤ) - 2 ^ (logBits eight - 1))).sign = neg := by
  have hmag : ∀ {k : Nat} (q : ℤ), k < 8 → ratOf neg (lnsT k) (q - 7) = (if neg then -1 else 1) * (logT k * 2 ^ q) := fun q hk => by
    have hpow : (2 : ℚ) ^ 7 * 2 ^ (q - 7) = 2 ^ q := by
      rw [← zpow_natCast, ← zpow_add₀ (by norm_num)]
      congr 1
      push_cast
      ring
    rw [ratOf, lnsT_eq _ hk, ← hpow]
    ring
  unfold lnsVal logCand
  by_cases hc : c = 0
  · subst hc
    cases eight <;> simp [logBits, Val.zero, Val.sign, real_fin]
  · cases eight
    · have hL : ¬ (c : ℤ) - 2 ^ (logBits false - 1) = -4 := by
        change ¬ (c : ℤ) - 4 = -4
        omega
      rw [if_neg nofun, if_neg hL, if_neg hc, logMagnitude_four, real_fin, hmag _ (by omega)]
      exact ⟨rfl, rfl⟩
    · have hL : ¬ (c : ℤ) - 2 ^ (logBits true - 1) = -64 := by
        change ¬ (c : ℤ) - 64 = -64
        omega
      rw [if_pos rfl, if_neg hL, if_neg hc, logMagnitude_eight, real_fin, hmag _ (by omega)]
      exact ⟨rfl, rfl⟩

/-- The logarithmic formats. -/
def logFmt (eight : Bool) : Fmt := if eight then 30 else 31
theorem decodeFmt_log (eight : Bool) (raw : Nat) : decodeFmt (logFmt eight) raw = (decLns eight raw, false) := by cases eight <;> rfl
theorem toFormat_log (eight : Bool) (mode : BitVec 2) (v : Val) : toFormat (logFmt eight) mode v = encLns eight mode v := by cases eight <;> rfl

/-- Two's complement: a code, counted from the least number on. -/
theorem twosComplement_eq (raw H : Nat) : (if raw % (2 * H) ≥ H then ((raw % (2 * H) : ℕ) : ℤ) - (2 * H : ℕ) else ((raw % (2 * H) : ℕ) : ℤ))
    = (((raw + H) % (2 * H) : ℕ) : ℤ) - H := by
  rcases Nat.eq_zero_or_pos H with rfl | hH
  · simp
  have hlt := Nat.mod_lt raw (by omega : 2 * H > 0)
  rw [Nat.add_mod, Nat.mod_eq_of_lt (by omega : H < 2 * H)]
  generalize raw % (2 * H) = r at hlt ⊢
  split_ifs with h
  · rw [Nat.mod_eq_sub_mod (by omega), Nat.mod_eq_of_lt (by omega)]
    omega
  · rw [Nat.mod_eq_of_lt (by omega)]
    omega
/-- R53: an element is a sign and a logarithm in two's complement. -/
theorem decode_log (eight : Bool) (raw : Nat) :
    let neg := raw.testBit (logBits eight)
    Claims.real (decodeFmt (logFmt eight) raw).1
        = some ((if neg then -1 else 1) * logCand eight ((raw + 2 ^ (logBits eight - 1)) % 2 ^ logBits eight))
      ∧ (decodeFmt (logFmt eight) raw).1.sign = neg ∧ (decodeFmt (logFmt eight) raw).2 = false := by
  intro neg
  obtain ⟨hreal, hsign⟩ := lnsVal_spec eight neg ((raw + 2 ^ (logBits eight - 1)) % 2 ^ logBits eight)
  have hdec : decLns eight raw
      = lnsVal eight neg (((raw + 2 ^ (logBits eight - 1)) % 2 ^ logBits eight : ℕ) - 2 ^ (logBits eight - 1)) := by
    have hneg : (raw / 2 ^ logBits eight % 2 == 1) = neg := (Nat.testBit_eq_decide_div_mod_eq).symm
    change lnsVal eight (raw / 2 ^ logBits eight % 2 == 1) _ = _
    rw [hneg]
    congr 1
    cases eight
    · exact twosComplement_eq raw 4
    · exact twosComplement_eq raw 64
  rw [decodeFmt_log, hdec]
  exact ⟨hreal, hsign, rfl⟩

/-! Conversion to a logarithmic format (R69) -/

/-- The search stops at the last logarithm not above the number, or when its fuel is spent. -/
theorem lnsBelow_spec (eight : Bool) {v : Val} {a : ℚ} (hv : Claims.real v = some a) (fuel c : Nat) :
    ∃ n ≤ fuel, lnsBelow fuel eight ((c : ℤ) - 2 ^ (logBits eight - 1)) v = ((c + n : ℕ) : ℤ) - 2 ^ (logBits eight - 1)
      ∧ (n = 0 ∨ logCand eight (c + n) ≤ a) ∧ (n < fuel → a < logCand eight (c + n + 1)) := by
  induction fuel generalizing c with
  | zero => exact ⟨0, le_rfl, rfl, .inl rfl, nofun⟩
  | succ fuel ih =>
    have hnext : (c : ℤ) - 2 ^ (logBits eight - 1) + 1 = ((c + 1 : ℕ) : ℤ) - 2 ^ (logBits eight - 1) := by push_cast; ring
    have hreal := (lnsVal_spec eight false (c + 1)).1
    simp only [Bool.false_eq_true, if_false, one_mul] at hreal
    have hcmp : (lnsVal eight false (((c + 1 : ℕ) : ℤ) - 2 ^ (logBits eight - 1))).cmp v = some .gt ↔ a < logCand eight (c + 1) := by
      rw [Val.cmp_real hreal hv, Option.some.injEq, compare_gt_iff_gt]
    rw [lnsBelow, hnext]
    by_cases hgt : a < logCand eight (c + 1)
    · rw [if_pos (hcmp.2 hgt)]
      exact ⟨0, by omega, rfl, .inl rfl, fun _ => hgt⟩
    · rw [if_neg (mt hcmp.1 hgt)]
      obtain ⟨n, hn, hbelow, hle, hlt⟩ := ih (c + 1)
      have hadd : c + 1 + n = c + (n + 1) := by omega
      rw [hadd] at hbelow hle hlt
      refine ⟨n + 1, by omega, hbelow, .inr ?_, fun h => hlt (by omega)⟩
      rcases hle with rfl | hle
      · exact not_lt.1 hgt
      · exact hle
/-- A code counts its logarithm from the least one on, in two's complement. -/
theorem logCode_eq (eight : Bool) (c : Nat) :
    (((c : ℤ) - 2 ^ (logBits eight - 1)) % (2 ^ logBits eight : ℕ)).toNat = (c + 2 ^ (logBits eight - 1)) % 2 ^ logBits eight := by
  cases eight
  · change (((c : ℤ) - 4) % 8).toNat = (c + 4) % 8
    omega
  · change (((c : ℤ) - 64) % 128).toNat = (c + 64) % 128
    omega
/-- The conversion of a number that is not 0, with the logarithms counted from the least one on. -/
theorem encLns_eq (eight : Bool) (mode : BitVec 2) (s : Bool) {m : Nat} (hm : m ≠ 0) (e : Int) : encLns eight mode (.fin s m e) =
    let at_ := fun (c : Nat) => (c : ℤ) - 2 ^ (logBits eight - 1)
    let code := fun (L : Int) => (L % (2 ^ logBits eight : ℕ)).toNat + if s then 2 ^ logBits eight else 0
    if (Val.fin false m e).cmp (lnsVal eight false (at_ (2 ^ logBits eight - 1))) = some .gt then (code (at_ (2 ^ logBits eight - 1)), flagOF ||| flagNX)
    else
      let L := lnsBelow 127 eight (at_ 0) (.fin false m e)
      if (Val.fin false m e).cmp (lnsVal eight false L) = some .eq then (code L, 0)
      else
        let up := match mode.toNat with
          | 0 => match (Val.fin false m (e + 1)).cmp ((lnsVal eight false L).add (lnsVal eight false (L + 1))).1 with
            | some .lt => false
            | some .gt => true
            | _ => L % 2 == 1 && L != at_ 0
          | 1 => false
          | 2 => s
          | _ => !s
        (code (if up then L + 1 else L), if L = at_ 0 then flagUF ||| flagNX else flagNX) := by
  unfold encLns
  dsimp only
  rw [if_neg hm]
  cases eight <;> rfl
theorem logCand_zero (eight : Bool) : logCand eight 0 = 0 := if_pos rfl
theorem real_lnsVal (eight : Bool) (c : Nat) : Claims.real (lnsVal eight false ((c : ℤ) - 2 ^ (logBits eight - 1))) = some (logCand eight c) := by
  have h := (lnsVal_spec eight false c).1
  rwa [if_neg nofun, one_mul] at h
/-- R69: the search finds the neighbours of a number in range. -/
theorem lnsBelow_bounds (eight : Bool) (m : Nat) (e : Int) (htop : ratOf false m e ≤ logCand eight (2 ^ logBits eight - 1)) :
    ∃ c : Nat, lnsBelow 127 eight (((0 : ℕ) : ℤ) - 2 ^ (logBits eight - 1)) (.fin false m e) = (c : ℤ) - 2 ^ (logBits eight - 1)
      ∧ logCand eight c ≤ ratOf false m e ∧ ratOf false m e < logCand eight (c + 1) := by
  obtain ⟨c, hc, hbelow, hle, hlt⟩ := lnsBelow_spec eight (real_fin false m e) 127 0
  rw [Nat.zero_add] at hbelow hle hlt
  refine ⟨c, hbelow, ?_, ?_⟩
  · rcases hle with rfl | hle
    · rw [logCand_zero]
      exact ratOf_false_nonneg m e
    · exact hle
  · rcases Nat.lt_or_ge c 127 with h | h
    · exact hlt h
    · refine htop.trans_lt (logCand_strictMono eight ?_)
      cases eight
      · change 7 < c + 1
        omega
      · change 127 < c + 1
        omega
/-- R69: the code of a number in range, by its place on the ladder. -/
theorem encLns_fin (eight : Bool) (mode : BitVec 2) (s : Bool) {m : Nat} (hm : m ≠ 0) (e : Int)
    (htop : ratOf false m e ≤ logCand eight (2 ^ logBits eight - 1)) :
    ∃ (c : Nat) (r : Rest), r.Fits (logCand eight c) (logCand eight (c + 1)) (ratOf false m e)
      ∧ encLns eight mode (.fin s m e) = (((if roundsUp mode s r (c % 2 == 1) then c + 1 else c) + 2 ^ (logBits eight - 1)) % 2 ^ logBits eight
          + if s then 2 ^ logBits eight else 0, if c = 0 then flagUF ||| flagNX else if r = .exact then 0 else flagNX) := by
  obtain ⟨c, hbelow, hlow, hhigh⟩ := lnsBelow_bounds eight m e htop
  refine ⟨c, restOf (logCand eight c) (logCand eight (c + 1)) (ratOf false m e), restOf_fits hlow hhigh, ?_⟩
  have hpos : 0 < ratOf false m e := (ratOf_pos_iff hm).2 rfl
  have htopCmp : (Val.fin false m e).cmp (lnsVal eight false (((2 ^ logBits eight - 1 : ℕ) : ℤ) - 2 ^ (logBits eight - 1))) ≠ some .gt := by
    rw [Val.cmp_real (real_fin false m e) (real_lnsVal eight _), ne_eq, Option.some.injEq, compare_gt_iff_gt]
    exact htop.not_gt
  have hcmp : (Val.fin false m e).cmp (lnsVal eight false ((c : ℤ) - 2 ^ (logBits eight - 1))) = some .eq ↔ ratOf false m e = logCand eight c := by
    rw [Val.cmp_real (real_fin false m e) (real_lnsVal eight c), Option.some.injEq, compare_eq_iff_eq]
  have hnext : (c : ℤ) - 2 ^ (logBits eight - 1) + 1 = ((c + 1 : ℕ) : ℤ) - 2 ^ (logBits eight - 1) := by push_cast; ring
  rw [encLns_eq eight mode s hm]
  dsimp only
  rw [if_neg htopCmp, hbelow]
  by_cases hexact : ratOf false m e = logCand eight c
  · have hc : c ≠ 0 := fun h => by
      rw [h, logCand_zero] at hexact
      exact hpos.ne' hexact
    rw [if_pos (hcmp.2 hexact), logCode_eq, restOf_exact.2 hexact, if_neg hc, if_pos rfl]
    rfl
  · have hodd : (((c : ℤ) - 2 ^ (logBits eight - 1)) % 2 == 1 && (c : ℤ) - 2 ^ (logBits eight - 1) != ((0 : ℕ) : ℤ) - 2 ^ (logBits eight - 1))
        = (c % 2 == 1) := by
      have heven : (2 : ℤ) ^ (logBits eight - 1) % 2 = 0 := by cases eight <;> rfl
      rw [Bool.eq_iff_iff, Bool.and_eq_true, beq_iff_eq, beq_iff_eq, bne_iff_ne]
      omega
    have hzero : (c : ℤ) - 2 ^ (logBits eight - 1) = ((0 : ℕ) : ℤ) - 2 ^ (logBits eight - 1) ↔ c = 0 := by omega
    have hcode : ∀ up : Bool, ((if up then ((c + 1 : ℕ) : ℤ) - 2 ^ (logBits eight - 1) else (c : ℤ) - 2 ^ (logBits eight - 1))
        % (2 ^ logBits eight : ℕ)).toNat = ((if up then c + 1 else c) + 2 ^ (logBits eight - 1)) % 2 ^ logBits eight := fun up => by
      cases up
      · exact logCode_eq eight c
      · exact logCode_eq eight (c + 1)
    rw [if_neg (mt hcmp.1 hexact), hnext, cmp_twice (real_lnsVal eight c) (real_lnsVal eight (c + 1)), hodd, roundsUp_restOf hexact, hcode,
      if_neg (mt restOf_exact.1 hexact)]
    simp only [hzero]
    cases compare (2 * ratOf false m e) (logCand eight c + logCand eight (c + 1)) <;> rfl

/-- R53, R61, R69: what a number becomes. -/
theorem encode_log (eight : Bool) (mode : BitVec 2) {v : Val} {a : ℚ} (hv : Claims.real v = some a) :
    let neg := decide (a < 0)
    let code := fun (neg : Bool) (c : Nat) => (c + 2 ^ (logBits eight - 1)) % 2 ^ logBits eight + if neg then 2 ^ logBits eight else 0
    (a = 0 → toFormat (logFmt eight) mode v = (code v.sign 0, 0))
      ∧ (logCand eight (2 ^ logBits eight - 1) < |a| → toFormat (logFmt eight) mode v = (code neg (2 ^ logBits eight - 1), flagOF ||| flagNX))
      ∧ (a ≠ 0 → |a| ≤ logCand eight (2 ^ logBits eight - 1) → ∃ c, Claims.Rounds (logCand eight) mode neg |a| c
        ∧ toFormat (logFmt eight) mode v = (code neg c, if |a| < logCand eight 1 then flagUF ||| flagNX
          else if logCand eight c = |a| then 0 else flagNX)) := by
  intro neg code
  obtain ⟨s, m, e, rfl, rfl⟩ := real_eq_some hv
  have hneg : m ≠ 0 → neg = s := fun hm => by rw [Bool.eq_iff_iff, decide_eq_true_iff, ratOf_neg_iff hm]
  rw [toFormat_log, abs_ratOf]
  refine ⟨fun h0 => ?_, fun hover => ?_, fun h0 htop => ?_⟩
  · have hm := ratOf_eq_zero.1 h0
    simp only [encLns, if_pos hm]
    cases eight <;> rfl
  · have hm : m ≠ 0 := fun hm => by
      rw [hm, ratOf_zero] at hover
      have hle := (logCand_strictMono eight).monotone (Nat.zero_le (2 ^ logBits eight - 1))
      rw [logCand_zero] at hle
      exact absurd hover hle.not_gt
    have hcmp := Val.cmp_real (real_fin false m e) (real_lnsVal eight (2 ^ logBits eight - 1))
    rw [compare_gt_iff_gt.2 hover] at hcmp
    rw [encLns_eq eight mode s hm]
    dsimp only
    rw [if_pos hcmp, logCode_eq, hneg hm]
  · have hm := mt ratOf_eq_zero.2 h0
    obtain ⟨c, r, hfits, henc⟩ := encLns_fin eight mode s hm e htop
    have hmono := logCand_strictMono eight
    rw [hneg hm]
    refine ⟨_, hfits.rounds hmono mode s, ?_⟩
    rw [henc]
    refine Prod.ext rfl ?_
    have hexact := hfits.exact_iff_picked hmono mode s (c % 2 == 1)
    have hleast : c = 0 ↔ ratOf false m e < logCand eight 1 := by
      obtain ⟨hlow, hhigh⟩ := hfits.bounds (hmono (Nat.lt_succ_self c))
      refine ⟨fun hc => by rwa [hc] at hhigh, fun hlt => ?_⟩
      by_contra hc
      exact absurd (hlow.trans_lt hlt) (hmono.monotone (Nat.one_le_iff_ne_zero.2 hc)).not_gt
    simp only [hleast, hexact]
/-- R69: the infinities become the largest of their sign, and NaN becomes 0. -/
theorem encode_log_special (eight : Bool) (mode : BitVec 2) (s : Bool) :
    let code := fun (neg : Bool) (c : Nat) => (c + 2 ^ (logBits eight - 1)) % 2 ^ logBits eight + if neg then 2 ^ logBits eight else 0
    toFormat (logFmt eight) mode (.inf s) = (code s (2 ^ logBits eight - 1), flagNV)
      ∧ toFormat (logFmt eight) mode .nan = (code false 0, flagNV) := by
  rw [toFormat_log, toFormat_log]
  cases eight <;> cases s <;> exact ⟨rfl, rfl⟩

end Sys2Proof.Machine
end

section
/-! SUPPORT. The codebook formats (R51, R52, R68), with the statement on the formats that are no floats and no integers. -/
namespace Sys2Proof.Machine

/-! Levels (R51, R52) -/

/-- A level of a codebook, in units of 1/512. -/
theorem real_levelVal (k : Int) : Claims.real (levelVal k) = some ((k : ℚ) / 512) := by
  unfold levelVal
  split_ifs with h
  · simp [h, Val.zero, real_fin]
  · rw [real_fin, ratOf_natAbs]
    norm_num [div_eq_mul_inv]
theorem sign_levelVal (k : Int) : (levelVal k).sign = decide (k < 0) := by
  unfold levelVal
  split_ifs with h
  · simp [h, Val.zero, Val.sign]
  · rfl
theorem isZero_eq (s : Bool) (m : Nat) (e : Int) : (Val.fin s m e).isZero = decide (m = 0) := by
  cases m <;> rfl
theorem isZero_levelVal (k : Int) : (levelVal k).isZero = decide (k = 0) := by
  unfold levelVal
  split_ifs with h
  · rw [Val.zero, isZero_eq, h]
    rfl
  · rw [isZero_eq]
    exact decide_eq_decide.2 Int.natAbs_eq_zero

/-- Level i of a codebook. -/
def levelAt (l : List Int) (i : Nat) : ℚ := (l.getD i 0 : ℚ) / 512
/-- What the levels of a codebook are: from -1 to 1, rising, and only opposite levels have 0 strictly between them. -/
structure IsCodebook (l : List Int) : Prop where
  first  : l.getD 0 0 = -512
  last   : l.getD (l.length - 1) 0 = 512
  rising : ∀ i < l.length - 1, l.getD i 0 < l.getD (i + 1) 0
  about0 : ∀ i < l.length - 1, l.getD i 0 < 0 → 0 < l.getD (i + 1) 0 → l.getD i 0 = -l.getD (i + 1) 0
/-- The code that NaN becomes: that of 0, or of the level above it (R68). -/
def zeroCode (l : List Int) : Nat := if l.contains 0 then l.idxOf 0 else 2

theorem getD_levels (l : List Int) (i : Nat) : (l.map (fun k : Int => (k : ℚ) / 512)).getD i 0 = levelAt l i := by
  have h := List.getD_map (n := i) (l := l) (d := 0) (fun k : Int => (k : ℚ) / 512)
  rwa [Int.cast_zero, zero_div] at h
/-- R51, R52: the codebooks. -/
theorem codebook_levels {f : Fmt} {l : List ℚ} (h : Claims.codebook f = some l) : ∃ k : List Int, levels f = some k
    ∧ l = k.map (fun k : Int => (k : ℚ) / 512) ∧ IsCodebook k ∧ zeroCode k = (if f = 28 then 3 else if f = 29 then 2 else 7)
    ∧ floatFmt f = none ∧ intFmt f = none := by
  unfold Claims.codebook at h
  split at h
  case h_1 hf =>
    obtain rfl : f = 26 := BitVec.eq_of_toNat_eq hf
    cases h
    exact ⟨_, rfl, by norm_num, ⟨rfl, rfl, by decide, by decide⟩, by decide, rfl, rfl⟩
  case h_2 hf =>
    obtain rfl : f = 27 := BitVec.eq_of_toNat_eq hf
    cases h
    exact ⟨_, rfl, by norm_num, ⟨rfl, rfl, by decide, by decide⟩, by decide, rfl, rfl⟩
  case h_3 hf =>
    obtain rfl : f = 28 := BitVec.eq_of_toNat_eq hf
    cases h
    exact ⟨_, rfl, by norm_num, ⟨rfl, rfl, by decide, by decide⟩, by decide, rfl, rfl⟩
  case h_4 hf =>
    obtain rfl : f = 29 := BitVec.eq_of_toNat_eq hf
    cases h
    exact ⟨_, rfl, by norm_num, ⟨rfl, rfl, by decide, by decide⟩, by decide, rfl, rfl⟩
  case h_5 => cases h

/-! The ladder of levels -/

/-- The levels, and after the last one further numbers that rise. -/
def ladder (l : List Int) (i : Nat) : ℚ := if i < l.length then levelAt l i else i + 1
theorem ladder_of_lt {l : List Int} {i : Nat} (h : i < l.length) : ladder l i = levelAt l i := if_pos h

section
variable {l : List Int} (hl : IsCodebook l)
include hl

theorem IsCodebook.length_pos : 0 < l.length := by
  rcases List.eq_nil_or_concat l with rfl | ⟨k, x, rfl⟩
  · exact absurd hl.first (by decide)
  · simp
theorem IsCodebook.levelAt_first : levelAt l 0 = -1 := by
  rw [levelAt, hl.first]
  norm_num
theorem IsCodebook.levelAt_last : levelAt l (l.length - 1) = 1 := by
  rw [levelAt, hl.last]
  norm_num
theorem IsCodebook.ladder_strictMono : StrictMono (ladder l) := by
  refine strictMono_nat_of_lt_succ fun i => ?_
  have hlen := hl.length_pos
  unfold ladder
  split_ifs with h h' h'
  · rw [levelAt, levelAt]
    have := hl.rising i (by omega)
    gcongr
  · obtain rfl : i = l.length - 1 := by omega
    rw [hl.levelAt_last]
    push_cast
    have : (0 : ℚ) ≤ (l.length - 1 : ℕ) := Nat.cast_nonneg _
    linarith
  · omega
  · push_cast
    linarith

end

/-! The search for a level -/

/-- The search finds the last of the first levels that are not above the number. -/
theorem levelBelow_spec {v : Val} {a : ℚ} (hv : Claims.real v = some a) (l : List Int) (i best : Nat) :
    ∃ n ≤ l.length, (∀ j < n, levelAt l j ≤ a) ∧ (n < l.length → a < levelAt l n) ∧ levelBelow l i v best = if n = 0 then best else i + n - 1 := by
  induction l generalizing i best with
  | nil => exact ⟨0, le_rfl, nofun, nofun, rfl⟩
  | cons k l ih =>
    have hcmp : (levelVal k).cmp v = some .gt ↔ a < (k : ℚ) / 512 := by
      rw [Val.cmp_real (real_levelVal k) hv, Option.some.injEq, compare_gt_iff_gt]
    rw [levelBelow]
    by_cases hgt : a < (k : ℚ) / 512
    · rw [if_pos (hcmp.2 hgt)]
      exact ⟨0, by simp, nofun, fun _ => hgt, rfl⟩
    · rw [if_neg (mt hcmp.1 hgt)]
      obtain ⟨n, hn, hle, hlt, hbelow⟩ := ih (i + 1) i
      refine ⟨n + 1, by simpa using hn, fun j hj => ?_, fun h => hlt (by simpa using h), ?_⟩
      · cases j with
        | zero => exact not_lt.1 hgt
        | succ j => exact hle j (by omega)
      · rw [hbelow, if_neg (Nat.succ_ne_zero n)]
        split_ifs <;> omega
/-- A number from -1 to 1 has a level at or below it, and the next one, if any, is above it. -/
theorem IsCodebook.levelBelow_bounds {l : List Int} (hl : IsCodebook l) {v : Val} {a : ℚ} (hv : Claims.real v = some a) (hlo : -1 ≤ a) (hhi : a ≤ 1) :
    levelBelow l 0 v 0 < l.length ∧ levelAt l (levelBelow l 0 v 0) ≤ a ∧ a < ladder l (levelBelow l 0 v 0 + 1) := by
  obtain ⟨n, hn, hle, hlt, hbelow⟩ := levelBelow_spec hv l 0 0
  have hlen := hl.length_pos
  have hpos : n ≠ 0 := by
    rintro rfl
    exact absurd (hlt hlen) (by rw [hl.levelAt_first]; exact hlo.not_gt)
  rw [hbelow, if_neg hpos, Nat.zero_add, Nat.sub_add_cancel (Nat.one_le_iff_ne_zero.2 hpos)]
  refine ⟨by omega, hle _ (by omega), ?_⟩
  rcases Nat.lt_or_ge n l.length with h | h
  · rw [ladder_of_lt h]
    exact hlt h
  · rw [ladder, if_neg h.not_gt]
    have : (0 : ℚ) < n := by exact_mod_cast Nat.pos_of_ne_zero hpos
    linarith

/-! Conversion (R61, R68) -/

/-- The code that a mode picks of the two levels about a number. -/
def pickLevel (l : List Int) (mode : BitVec 2) (s : Bool) (a : ℚ) (i : Nat) : Nat :=
  let nearest := if roundsUp 0 false (restOf (levelAt l i) (levelAt l (i + 1)) a) (i % 2 == 1) then i + 1 else i
  match mode.toNat with
  | 0 => nearest
  | 1 => if l.getD i 0 < 0 ∧ 0 < l.getD (i + 1) 0 then nearest else if s then i + 1 else i
  | 2 => i
  | _ => i + 1
/-- The level 0, where a codebook has it. -/
theorem levelAt_idxOf_zero {l : List Int} (h : l.contains 0 = true) : l.idxOf 0 < l.length ∧ levelAt l (l.idxOf 0) = 0 := by
  have hlt : l.idxOf 0 < l.length := List.idxOf_lt_length_of_mem (List.contains_iff_mem.1 h)
  refine ⟨hlt, ?_⟩
  rw [levelAt, List.getD_eq_getElem _ _ hlt, List.getElem_idxOf]
  norm_num
theorem levelAt_head (l : List Int) : Claims.real (levelVal (l.headD 0)) = some (levelAt l 0) := by
  rw [real_levelVal, levelAt]
  cases l <;> rfl
theorem real_levelAt (l : List Int) (i : Nat) : Claims.real (levelVal (l.getD i 0)) = some (levelAt l i) := real_levelVal _
/-- Of the levels about a number, the one taken by its magnitude is the nearest where 0 lies strictly between them (R68). -/
theorem straddles_iff (j k : Int) : ((levelVal j).sign && !(levelVal k).isZero && !(levelVal k).sign) = true ↔ j < 0 ∧ 0 < k := by
  rw [sign_levelVal, sign_levelVal, isZero_levelVal]
  simp only [Bool.and_eq_true, Bool.not_eq_true', decide_eq_true_iff, decide_eq_false_iff_not]
  omega
theorem pickLevel_choice (l : List Int) (mode : BitVec 2) (s : Bool) (a : ℚ) (i : Nat) :
    pickLevel l mode s a i = i ∨ pickLevel l mode s a i = i + 1 := by
  have hif : ∀ c : Prop, [Decidable c] → (if c then i + 1 else i) = i ∨ (if c then i + 1 else i) = i + 1 := fun c _ => by
    split_ifs
    · exact .inr rfl
    · exact .inl rfl
  unfold pickLevel
  dsimp only
  split
  · exact hif _
  · split
    · exact hif _
    · exact hif _
  · exact .inl rfl
  · exact .inr rfl
/-- R68: a number that is a level has its code; one between two levels that which the mode picks. -/
theorem encLevel_fin {l : List Int} (hl : IsCodebook l) (mode : BitVec 2) {s : Bool} {m : Nat} {e : Int} (hlo : -1 ≤ ratOf s m e) (hhi : ratOf s m e ≤ 1) :
    (∃ i < l.length, levelAt l i = ratOf s m e ∧ encLevel l mode (.fin s m e) = (i, 0))
      ∨ ∃ i, i + 1 < l.length ∧ levelAt l i < ratOf s m e ∧ ratOf s m e < levelAt l (i + 1)
        ∧ encLevel l mode (.fin s m e) = (pickLevel l mode s (ratOf s m e) i, flagNX) := by
  have hv := real_fin s m e
  by_cases hzero : m = 0 ∧ l.contains 0 = true
  · obtain ⟨hlt, hlevel⟩ := levelAt_idxOf_zero hzero.2
    refine .inl ⟨_, hlt, by rw [hlevel, hzero.1, ratOf_zero], ?_⟩
    simp only [encLevel, if_pos hzero, if_pos hzero.2]
  have hfirst : (Val.fin s m e).cmp (levelVal (l.headD 0)) ≠ some .lt := by
    rw [Val.cmp_real hv (levelAt_head l), hl.levelAt_first, ne_eq, Option.some.injEq, compare_lt_iff_lt]
    exact hlo.not_gt
  have hlast : (Val.fin s m e).cmp (levelVal (l.getD (l.length - 1) 0)) ≠ some .gt := by
    rw [Val.cmp_real hv (real_levelVal _), ← levelAt, hl.levelAt_last, ne_eq, Option.some.injEq, compare_gt_iff_gt]
    exact hhi.not_gt
  obtain ⟨hlt, hle, hnext⟩ := hl.levelBelow_bounds hv hlo hhi
  simp only [encLevel, if_neg hzero, if_neg hfirst, if_neg hlast]
  generalize levelBelow l 0 (.fin s m e) 0 = i at hlt hle hnext ⊢
  have hcmp : (Val.fin s m e).cmp (levelVal (l.getD i 0)) = some .eq ↔ ratOf s m e = levelAt l i := by
    rw [Val.cmp_real hv (real_levelVal _), Option.some.injEq, compare_eq_iff_eq, levelAt]
  by_cases hexact : ratOf s m e = levelAt l i
  · rw [if_pos (hcmp.2 hexact)]
    exact .inl ⟨i, hlt, hexact.symm, rfl⟩
  · have hi : i + 1 < l.length := by
      by_contra hge
      obtain rfl : i = l.length - 1 := by omega
      rw [hl.levelAt_last] at hle hexact
      exact hexact (le_antisymm hhi hle)
    rw [ladder_of_lt hi] at hnext
    rw [if_neg (mt hcmp.1 hexact)]
    refine .inr ⟨i, hi, lt_of_le_of_ne hle (Ne.symm hexact), hnext, Prod.ext ?_ rfl⟩
    have hnearest : (match compare (2 * ratOf s m e) (levelAt l i + levelAt l (i + 1)) with
        | .lt => i
        | .gt => i + 1
        | .eq => if i % 2 = 0 then i else i + 1)
        = if roundsUp 0 false (restOf (levelAt l i) (levelAt l (i + 1)) (ratOf s m e)) (i % 2 == 1) then i + 1 else i := by
      rw [roundsUp_restOf hexact]
      cases compare (2 * ratOf s m e) (levelAt l i + levelAt l (i + 1))
      · rfl
      · rcases Nat.mod_two_eq_zero_or_one i with h | h <;> simp [h]
      · rfl
    rw [pickLevel, ← hnearest, cmp_twice (real_levelAt l i) (real_levelAt l (i + 1))]
    simp only [straddles_iff]
    cases compare (2 * ratOf s m e) (levelAt l i + levelAt l (i + 1)) <;> rfl

/-! What a mode picks (R61, R68) -/

/-- Of two levels the nearer one is the nearest of all. -/
theorem IsCodebook.nearest {l : List Int} (hl : IsCodebook l) {i : Nat} (hi : i + 1 < l.length) {a : ℚ} (hlow : levelAt l i < a)
    (hhigh : a < levelAt l (i + 1)) (j : Nat) (hj : j < l.length) :
    let c := if roundsUp 0 false (restOf (levelAt l i) (levelAt l (i + 1)) a) (i % 2 == 1) then i + 1 else i
    |levelAt l c - a| ≤ |levelAt l j - a| ∧ (j ≠ c → |levelAt l j - a| = |levelAt l c - a| → c % 2 = 0) := by
  intro c
  have hfits := restOf_fits hlow.le hhigh
  rw [← ladder_of_lt hi, ← ladder_of_lt (Nat.lt_of_succ_lt hi)] at hfits
  have h := (hfits.rounds hl.ladder_strictMono 0 false).1 rfl j
  rw [ladder_of_lt hi, ladder_of_lt (Nat.lt_of_succ_lt hi)] at h
  have hc : c < l.length := by
    change (if _ then i + 1 else i) < _
    split_ifs <;> omega
  rwa [ladder_of_lt hj, ladder_of_lt hc] at h

theorem IsCodebook.levelAt_mono {l : List Int} (hl : IsCodebook l) {i j : Nat} (h : i ≤ j) (hj : j < l.length) : levelAt l i ≤ levelAt l j := by
  rw [← ladder_of_lt hj, ← ladder_of_lt (h.trans_lt hj)]
  exact hl.ladder_strictMono.monotone h
theorem levelAt_neg {l : List Int} {i : Nat} : l.getD i 0 < 0 ↔ levelAt l i < 0 := by
  rw [levelAt, div_neg_iff]
  norm_num
theorem levelAt_pos {l : List Int} {i : Nat} : 0 < l.getD i 0 ↔ 0 < levelAt l i := by
  rw [levelAt, div_pos_iff]
  norm_num

section
variable {l : List Int} (hl : IsCodebook l) {i : Nat} (hi : i + 1 < l.length) {a : ℚ} (hlow : levelAt l i < a) (hhigh : a < levelAt l (i + 1))
include hl hi hlow hhigh

/-- Where 0 lies strictly between the two levels about a number, no level has a magnitude as small as the number's. -/
theorem IsCodebook.none_within (hneg : l.getD i 0 < 0) (hpos : 0 < l.getD (i + 1) 0) {j : Nat} (hj : j < l.length) : |a| < |levelAt l j| := by
  have hopp : levelAt l i = -levelAt l (i + 1) := by
    rw [levelAt, levelAt, hl.about0 i (by omega) hneg hpos]
    push_cast
    ring
  have ha : |a| < levelAt l (i + 1) := abs_lt.2 ⟨by linarith, hhigh⟩
  rcases Nat.lt_or_ge i j with h | h
  · exact ha.trans_le ((hl.levelAt_mono h hj).trans (le_abs_self _))
  · have := hl.levelAt_mono h (by omega)
    exact ha.trans_le ((by linarith : levelAt l (i + 1) ≤ -levelAt l j).trans (neg_le_abs _))
/-- R61: toward zero of a number above 0 is the level below it. -/
theorem IsCodebook.lower_within (h0 : 0 ≤ levelAt l i) : |levelAt l i| ≤ |a|
    ∧ ∀ j < l.length, |levelAt l j| ≤ |a| → |levelAt l i - a| ≤ |levelAt l j - a| := by
  rw [abs_of_nonneg h0, abs_of_pos (by linarith : 0 < a)]
  refine ⟨hlow.le, fun j hj hle => ?_⟩
  have hji : j ≤ i := by
    by_contra h
    exact absurd ((hl.levelAt_mono (not_le.1 h) hj).trans ((le_abs_self _).trans hle)) hhigh.not_ge
  have := hl.levelAt_mono hji (by omega)
  rw [abs_of_nonpos (by linarith), abs_of_nonpos (by linarith)]
  linarith
/-- R61: toward zero of a number below 0 is the level above it. -/
theorem IsCodebook.upper_within (h0 : levelAt l (i + 1) ≤ 0) : |levelAt l (i + 1)| ≤ |a|
    ∧ ∀ j < l.length, |levelAt l j| ≤ |a| → |levelAt l (i + 1) - a| ≤ |levelAt l j - a| := by
  rw [abs_of_nonpos h0, abs_of_neg (by linarith : a < 0)]
  refine ⟨by linarith, fun j hj hle => ?_⟩
  have hji : i + 1 ≤ j := by
    by_contra h
    have := hl.levelAt_mono (Nat.lt_succ_iff.1 (not_le.1 h)) (by omega)
    linarith [neg_le_abs (levelAt l j)]
  have := hl.levelAt_mono hji hj
  rw [abs_of_nonneg (by linarith), abs_of_nonneg (by linarith)]
  linarith
/-- R61, R68: toward zero is the nearest level where none is as small as the number, else the nearest of those that are. -/
theorem IsCodebook.towardZero {s : Bool} (hs : a ≠ 0 → (s = true ↔ a < 0)) :
    ((∀ j < l.length, ¬ |levelAt l j| ≤ |a|) ∧ pickLevel l 1 s a i = pickLevel l 0 s a i)
      ∨ |levelAt l (pickLevel l 1 s a i)| ≤ |a| ∧ ∀ j < l.length, |levelAt l j| ≤ |a| → |levelAt l (pickLevel l 1 s a i) - a| ≤ |levelAt l j - a| := by
  by_cases hstraddles : l.getD i 0 < 0 ∧ 0 < l.getD (i + 1) 0
  · exact .inl ⟨fun j hj => (hl.none_within hi hlow hhigh hstraddles.1 hstraddles.2 hj).not_ge, if_pos hstraddles⟩
  · have hpick : pickLevel l 1 s a i = if s then i + 1 else i := if_neg hstraddles
    rw [hpick]
    rw [levelAt_neg, levelAt_pos, not_and_or, not_lt, not_lt] at hstraddles
    rcases hstraddles with h0 | h0
    · have hs' : ¬ s = true := fun h => absurd ((hs (by linarith)).1 h) (by linarith)
      rw [if_neg hs']
      exact .inr (hl.lower_within hi hlow hhigh h0)
    · have ha : a < 0 := by linarith
      rw [if_pos ((hs ha.ne).2 ha)]
      exact .inr (hl.upper_within hi hlow hhigh h0)
/-- R61, R68: the level that a mode picks. -/
theorem IsCodebook.pickLevel_rounds (mode : BitVec 2) {s : Bool} (hs : a ≠ 0 → (s = true ↔ a < 0)) :
    Claims.RoundsLevel (l.map (fun k : Int => (k : ℚ) / 512)) mode a (pickLevel l mode s a i) := by
  have hnearest := hl.nearest hi hlow hhigh
  have hzero := hl.towardZero hi hlow hhigh hs
  have hmodes : mode = 0 ∨ mode = 1 ∨ mode = 2 ∨ mode = 3 := by
    revert mode
    decide
  have hlen : pickLevel l mode s a i < l.length := by
    rcases pickLevel_choice l mode s a i with h | h <;> omega
  simp only [Claims.RoundsLevel, getD_levels, List.length_map]
  refine ⟨hlen, ?_⟩
  rcases hmodes with rfl | rfl | rfl | rfl
  · exact ⟨fun _ => hnearest, nofun, nofun, nofun, nofun⟩
  · refine ⟨nofun, fun _ hnone => ?_, fun _ hsome => ?_, nofun, nofun⟩
    · rcases hzero with ⟨-, hpick⟩ | ⟨hwithin, -⟩
      · rw [hpick]
        exact hnearest
      · exact absurd ⟨hlen, hwithin⟩ (hnone _)
    · rcases hzero with ⟨hnone, -⟩ | ⟨hwithin, hleast⟩
      · obtain ⟨j, hj, hle⟩ := hsome
        exact absurd hle (hnone j hj)
      · exact ⟨⟨hlen, hwithin⟩, fun j hj => hleast j hj.1 hj.2⟩
  · refine ⟨nofun, nofun, nofun, fun _ => ⟨hlow.le, fun j hj hle => hl.levelAt_mono ?_ (Nat.lt_of_succ_lt hi)⟩, nofun⟩
    by_contra h
    exact absurd ((hl.levelAt_mono (not_le.1 h) hj).trans hle) hhigh.not_ge
  · refine ⟨nofun, nofun, nofun, nofun, fun _ => ⟨hhigh.le, fun j hj hle => hl.levelAt_mono ?_ hj⟩⟩
    by_contra h
    exact absurd (hle.trans (hl.levelAt_mono (Nat.lt_succ_iff.1 (not_le.1 h)) (Nat.lt_of_succ_lt hi))) hlow.not_ge

end

/-- A number that is a level is rounded to it. -/
theorem IsCodebook.exact_rounds {l : List Int} (hl : IsCodebook l) {i : Nat} (hi : i < l.length) (mode : BitVec 2) :
    Claims.RoundsLevel (l.map (fun k : Int => (k : ℚ) / 512)) mode (levelAt l i) i := by
  have hself : |levelAt l i - levelAt l i| = 0 := by rw [sub_self, abs_zero]
  have hnearest : ∀ j < l.length, |levelAt l i - levelAt l i| ≤ |levelAt l j - levelAt l i|
      ∧ (j ≠ i → |levelAt l j - levelAt l i| = |levelAt l i - levelAt l i| → i % 2 = 0) := fun j hj => by
    rw [hself]
    refine ⟨abs_nonneg _, fun hne h => absurd (sub_eq_zero.1 (abs_eq_zero.1 h)) fun heq => hne ?_⟩
    rw [← ladder_of_lt hi, ← ladder_of_lt hj] at heq
    exact hl.ladder_strictMono.injective heq
  simp only [Claims.RoundsLevel, getD_levels, List.length_map]
  exact ⟨hi, fun _ => hnearest, fun _ _ => hnearest, fun _ _ => ⟨⟨hi, le_rfl⟩, fun j hj => (hnearest j hj.1).1⟩,
    fun _ => ⟨le_rfl, fun _ _ h => h⟩, fun _ => ⟨le_rfl, fun _ _ h => h⟩⟩

/-! The formats -/

theorem decodeFmt_of_levels {f : Fmt} {l : List Int} (hl : levels f = some l) (hfloat : floatFmt f = none) (hint : intFmt f = none) (raw : Nat) :
    decodeFmt f raw = (levelVal (l.getD (raw % l.length) 0), false) := by
  simp only [decodeFmt, hfloat, hint, hl]
theorem toFormat_of_levels {f : Fmt} {l : List Int} (hl : levels f = some l) (hfloat : floatFmt f = none) (hint : intFmt f = none) (mode : BitVec 2)
    (v : Val) : toFormat f mode v = encLevel l mode v := by
  simp only [toFormat, hfloat, hint, hl]

/-- R68: a number beyond the levels. -/
theorem IsCodebook.encLevel_below {l : List Int} (hl : IsCodebook l) (mode : BitVec 2) {v : Val} {a : ℚ} (hv : Claims.real v = some a) (h : a < -1) :
    encLevel l mode v = (0, flagOF ||| flagNX) := by
  have hcmp := Val.cmp_real hv (levelAt_head l)
  rw [hl.levelAt_first, compare_lt_iff_lt.2 h] at hcmp
  obtain ⟨s, m, e, rfl, rfl⟩ := real_eq_some hv
  have hm : ¬ (m = 0 ∧ l.contains 0 = true) := fun hm => by
    rw [hm.1, ratOf_zero] at h
    linarith
  simp only [encLevel, if_neg hm, if_pos hcmp]
theorem IsCodebook.encLevel_above {l : List Int} (hl : IsCodebook l) (mode : BitVec 2) {v : Val} {a : ℚ} (hv : Claims.real v = some a) (h : 1 < a) :
    encLevel l mode v = (l.length - 1, flagOF ||| flagNX) := by
  have hcmpFirst := Val.cmp_real hv (levelAt_head l)
  have hcmpLast := Val.cmp_real hv (real_levelAt l (l.length - 1))
  rw [hl.levelAt_first, compare_gt_iff_gt.2 (by linarith)] at hcmpFirst
  rw [hl.levelAt_last, compare_gt_iff_gt.2 h] at hcmpLast
  have hfirst : v.cmp (levelVal (l.headD 0)) ≠ some .lt := by
    rw [hcmpFirst]
    decide
  obtain ⟨s, m, e, rfl, rfl⟩ := real_eq_some hv
  have hm : ¬ (m = 0 ∧ l.contains 0 = true) := fun hm => by
    rw [hm.1, ratOf_zero] at h
    linarith
  simp only [encLevel, if_neg hm, if_neg hfirst, if_pos hcmpLast]
/-- R61, R68: a number between the levels. -/
theorem IsCodebook.encLevel_within {l : List Int} (hl : IsCodebook l) (mode : BitVec 2) {v : Val} {a : ℚ} (hv : Claims.real v = some a) (h : |a| ≤ 1) :
    ∃ i, Claims.RoundsLevel (l.map (fun k : Int => (k : ℚ) / 512)) mode a i ∧ encLevel l mode v = (i, if levelAt l i = a then 0 else flagNX) := by
  obtain ⟨s, m, e, rfl, rfl⟩ := real_eq_some hv
  obtain ⟨hlo, hhi⟩ := abs_le.1 h
  rcases encLevel_fin hl mode hlo hhi with ⟨i, hi, hlevel, henc⟩ | ⟨i, hi, hlow, hhigh, henc⟩
  · exact ⟨i, hlevel ▸ hl.exact_rounds hi mode, by rw [henc, if_pos hlevel]⟩
  · have hs : ratOf s m e ≠ 0 → (s = true ↔ ratOf s m e < 0) := fun h0 => (ratOf_neg_iff (mt ratOf_eq_zero.2 h0)).symm
    refine ⟨_, hl.pickLevel_rounds hi hlow hhigh mode hs, ?_⟩
    have hne : levelAt l (pickLevel l mode s (ratOf s m e) i) ≠ ratOf s m e := by
      rcases pickLevel_choice l mode s (ratOf s m e) i with hp | hp <;> rw [hp]
      · exact hlow.ne
      · exact hhigh.ne'
    rw [henc, if_neg hne]

/-- R51, R52, R61, R68: the codebook formats. -/
theorem codebookFormat {f : Fmt} {l : List ℚ} (h : Claims.codebook f = some l) :
    (∀ raw : Nat, Claims.real (decodeFmt f raw).1 = some (l.getD (raw % l.length) 0) ∧ (decodeFmt f raw).2 = false)
      ∧ (∀ (mode : BitVec 2) (v : Val) (a : ℚ), Claims.real v = some a →
        (a < -1 → toFormat f mode v = (0, flagOF ||| flagNX)) ∧ (1 < a → toFormat f mode v = (l.length - 1, flagOF ||| flagNX))
        ∧ (|a| ≤ 1 → ∃ i, Claims.RoundsLevel l mode a i ∧ toFormat f mode v = (i, if l.getD i 0 = a then 0 else flagNX)))
      ∧ (∀ (mode : BitVec 2) (s : Bool), toFormat f mode (.inf s) = (if s then 0 else l.length - 1, flagNV)
        ∧ toFormat f mode .nan = (if f = 28 then 3 else if f = 29 then 2 else 7, flagNV)) := by
  obtain ⟨k, hlevels, rfl, hk, hnan, hfloat, hint⟩ := codebook_levels h
  simp only [getD_levels, List.length_map, toFormat_of_levels hlevels hfloat hint, decodeFmt_of_levels hlevels hfloat hint, ← hnan]
  exact ⟨fun raw => ⟨real_levelAt k _, trivial⟩,
    fun mode v a hv => ⟨hk.encLevel_below mode hv, hk.encLevel_above mode hv, hk.encLevel_within mode hv⟩, fun mode s => ⟨rfl, rfl⟩⟩

/-- R48, R51, R52, R53, R66, R68, R69: the formats that are no floats and no integers. -/
theorem otherFormats : Claims.OtherFormats := by
  refine ⟨fun raw mode v a s hv => ?_, fun f l h => codebookFormat h, fun eight => ⟨decode_log eight, fun mode v a hv => encode_log eight mode hv,
    encode_log_special eight⟩⟩
  obtain ⟨hnan, hreal⟩ := decode_ue8m0 raw
  exact ⟨hnan, hreal, encUe8m0_nonpos mode hv, encUe8m0_small mode hv, encUe8m0_number mode hv, by cases s <;> rfl, rfl⟩

end Sys2Proof.Machine
end

section
/-! SUPPORT. Rounding into the accumulator format (R57 to R60, R73): the number is rounded to 25 bits, and stays where it has no more. -/
namespace Sys2Proof.Machine

/-! Numbers in units of a power of two -/

/-- An integer multiple of 2^q. -/
def UnitsOf (q : ℤ) (a : ℚ) : Prop := ∃ k : ℤ, a = k * 2 ^ q
theorem UnitsOf.zero (q : ℤ) : UnitsOf q 0 := ⟨0, by simp⟩
theorem UnitsOf.add {q : ℤ} {a b : ℚ} (ha : UnitsOf q a) (hb : UnitsOf q b) : UnitsOf q (a + b) := by
  obtain ⟨j, rfl⟩ := ha
  obtain ⟨k, rfl⟩ := hb
  exact ⟨j + k, by push_cast; ring⟩
theorem UnitsOf.mono {q r : ℤ} {a : ℚ} (h : UnitsOf r a) (hqr : q ≤ r) : UnitsOf q a := by
  obtain ⟨k, rfl⟩ := h
  refine ⟨k * 2 ^ (r - q).toNat, ?_⟩
  have hpow : (2 : ℚ) ^ r = 2 ^ (r - q).toNat * 2 ^ q := by
    rw [← zpow_natCast, ← zpow_add₀ (by norm_num)]
    congr 1
    omega
  rw [hpow]
  push_cast
  ring
/-- One that is not 0 is no less than one unit. -/
theorem UnitsOf.le_abs {q : ℤ} {a : ℚ} (h : UnitsOf q a) (h0 : a ≠ 0) : (2 : ℚ) ^ q ≤ |a| := by
  obtain ⟨k, rfl⟩ := h
  have hk : (1 : ℚ) ≤ |(k : ℚ)| := by
    have hne : k ≠ 0 := fun hk => h0 (by rw [hk]; simp)
    exact_mod_cast Int.one_le_abs hne
  rw [abs_mul, abs_of_pos (by positivity : (0 : ℚ) < 2 ^ q)]
  exact le_mul_of_one_le_left (by positivity) hk
theorem unitsOf_ratOf (s : Bool) (m : Nat) (e : Int) : UnitsOf e (ratOf s m e) := by
  refine ⟨if s then -(m : ℤ) else m, ?_⟩
  cases s <;> simp [ratOf]

/-! Rounding to 25 bits (R73) -/

/-- To nearest, ties to even, in units u. -/
theorem Rest.Fits.near {r : Rest} {n : Nat} {u x : ℚ} (h : r.Fits (n * u) ((n + 1 : ℕ) * u) x) (hu : 0 < u) (neg : Bool) :
    let c := if roundsUp 0 neg r (n % 2 == 1) then n + 1 else n
    |(c : ℚ) * u - x| ≤ u / 2 ∧ (|(c : ℚ) * u - x| = u / 2 → c % 2 = 0) := by
  have hmid : ((n : ℚ) * u + (n + 1 : ℕ) * u) / 2 = n * u + u / 2 := by push_cast; ring
  have hhi : ((n + 1 : ℕ) : ℚ) * u = n * u + u := by push_cast; ring
  rw [roundsUp_nearest]
  unfold Rest.Fits at h
  rw [hmid, hhi] at h
  cases r with
  | exact =>
    have hx : x = n * u := h
    change |(n : ℚ) * u - x| ≤ u / 2 ∧ (|(n : ℚ) * u - x| = u / 2 → n % 2 = 0)
    rw [hx, sub_self, abs_zero]
    exact ⟨by positivity, fun h0 => absurd h0 (by positivity)⟩
  | low =>
    obtain ⟨hlow, hhigh⟩ := h
    change |(n : ℚ) * u - x| ≤ u / 2 ∧ (|(n : ℚ) * u - x| = u / 2 → n % 2 = 0)
    rw [abs_of_neg (by linarith)]
    exact ⟨by linarith, fun h0 => absurd h0 (by linarith)⟩
  | half =>
    have hx : x = n * u + u / 2 := h
    have hup : |((n + 1 : ℕ) : ℚ) * u - x| = u / 2 := by
      rw [hhi, hx, abs_of_pos] <;> linarith
    have hdown : |(n : ℚ) * u - x| = u / 2 := by
      rw [hx, abs_of_neg] <;> linarith
    rcases Nat.mod_two_eq_zero_or_one n with hn | hn
    · rw [hn]
      exact ⟨hdown.le, fun _ => hn⟩
    · rw [hn]
      exact ⟨hup.le, fun _ => by change (n + 1) % 2 = 0; omega⟩
  | high =>
    obtain ⟨hlow, hhigh⟩ := h
    change |((n + 1 : ℕ) : ℚ) * u - x| ≤ u / 2 ∧ (|((n + 1 : ℕ) : ℚ) * u - x| = u / 2 → (n + 1) % 2 = 0)
    rw [hhi, abs_of_pos (by linarith)]
    exact ⟨by linarith, fun h0 => absurd h0 (by linarith)⟩

/-- R73: a number that is not 0 and no limit of the format is rounded to 25 bits. -/
theorem accRound_fin (s : Bool) {m : Nat} (hm : m ≠ 0) {e : Int} (hlow : -510 ≤ Val.log2 m e) (hhigh : Val.log2 m e < 511) :
    ∃ n, accRound (.fin s m e) = .fin s n (Val.log2 m e - 24)
      ∧ |(n : ℚ) * 2 ^ (Val.log2 m e - 24) - ratOf false m e| ≤ 2 ^ (Val.log2 m e - 24) / 2
      ∧ (|(n : ℚ) * 2 ^ (Val.log2 m e - 24) - ratOf false m e| = 2 ^ (Val.log2 m e - 24) / 2 → n % 2 = 0) := by
  have hfits := cutAt_fits m e (Val.log2 m e - 24)
  have hnear := hfits.near (by positivity) s
  obtain ⟨hlo, hhi⟩ := hfits.bounds (by gcongr; exact Nat.lt_succ_self _)
  obtain ⟨hn, hlead⟩ := units_bounds (M := 24) hm le_rfl hlo hhi
  replace hlead := hlead rfl
  simp only [accRound, if_neg hm]
  generalize cutAt m e (Val.log2 m e - 24) = cut at hnear hn hlead ⊢
  obtain ⟨n, r⟩ := cut
  dsimp only at hnear hn hlead ⊢
  generalize hc : (if roundsUp 0 s r (n % 2 == 1) = true then n + 1 else n) = c at hnear ⊢
  have hrange : 2 ^ 24 ≤ c ∧ c ≤ 2 ^ 25 := by
    rw [← hc]
    split_ifs <;> omega
  have hlog : 24 ≤ Nat.log2 c ∧ Nat.log2 c < 26 := by
    have hc0 : c ≠ 0 := by omega
    exact ⟨(Nat.le_log2 hc0).2 hrange.1, (Nat.log2_lt hc0).2 (by omega)⟩
  rw [if_neg (by unfold Val.log2 at *; omega), if_neg (by unfold Val.log2 at *; omega)]
  exact ⟨c, rfl, hnear⟩

/-- R73: what a number becomes in the accumulator. -/
theorem real_accRound {v : Val} {a : ℚ} (hv : Claims.real v = some a) (hlow : UnitsOf (-510) a) (hhigh : |a| < 2 ^ (511 : ℤ)) :
    ∃ r, Claims.real (accRound v) = some r ∧ Claims.AccRounds a r := by
  obtain ⟨s, m, e, rfl, rfl⟩ := real_eq_some hv
  by_cases hm : m = 0
  · subst hm
    have hzero : accRound (.fin s 0 e) = .zero s := by simp [accRound]
    rw [hzero, ratOf_zero]
    exact ⟨0, by simp [Val.zero, real_fin], fun _ => rfl, fun h => absurd rfl h⟩
  · have hne : ratOf s m e ≠ 0 := mt ratOf_eq_zero.1 hm
    obtain ⟨hlog, hlog'⟩ := log2_bounds hm e
    rw [abs_ratOf] at hhigh
    have hmin := hlow.le_abs hne
    rw [abs_ratOf] at hmin
    have hL : -510 ≤ Val.log2 m e := by
      have := (zpow_lt_zpow_iff_right₀ (by norm_num : (1 : ℚ) < 2)).1 (hmin.trans_lt hlog')
      omega
    have hL' : Val.log2 m e < 511 := (zpow_lt_zpow_iff_right₀ (by norm_num : (1 : ℚ) < 2)).1 (hlog.trans_lt hhigh)
    obtain ⟨n, hround, hnear, htie⟩ := accRound_fin s hm hL hL'
    have hhalf : (2 : ℚ) ^ (Val.log2 m e - 24 - 1) = 2 ^ (Val.log2 m e - 24) / 2 := by rw [zpow_sub_one₀ (by norm_num)]; rfl
    have hdist : |ratOf s n (Val.log2 m e - 24) - ratOf s m e| = |(n : ℚ) * 2 ^ (Val.log2 m e - 24) - ratOf false m e| := by
      rw [← ratOf_false]
      cases s
      · rfl
      · rw [ratOf_true, ratOf_true, neg_sub_neg, abs_sub_comm]
    refine ⟨_, by rw [hround, real_fin], fun h0 => absurd h0 hne, fun _ => ⟨if s then -(n : ℤ) else n, Val.log2 m e - 24, ?_, ?_, ?_, ?_, ?_⟩⟩
    · cases s <;> simp [ratOf]
    · rw [abs_ratOf, show 24 + (Val.log2 m e - 24) = Val.log2 m e by ring]
      exact hlog
    · rw [abs_ratOf, show 25 + (Val.log2 m e - 24) = Val.log2 m e + 1 by ring]
      exact hlog'
    · rw [hdist, hhalf]
      exact hnear
    · rw [hdist, hhalf]
      intro htie'
      have := htie htie'
      cases s <;> simp <;> omega

/-- A number of at most 25 bits, or the next power of two. -/
def AccExact (a : ℚ) : Prop := ∃ k e : ℤ, |k| ≤ 2 ^ 25 ∧ a = k * 2 ^ e
/-- What has been rounded has no more than 25 bits. -/
theorem AccExact.of_accRounds {a r : ℚ} (h : Claims.AccRounds a r) : AccExact r := by
  obtain ⟨hzero, hne⟩ := h
  by_cases ha : a = 0
  · rw [hzero ha]
    exact ⟨0, 0, by norm_num, by simp⟩
  · obtain ⟨k, e, rfl, -, hhigh, hnear, -⟩ := hne ha
    refine ⟨k, e, ?_, rfl⟩
    have hu : (0 : ℚ) < 2 ^ e := by positivity
    have hhalf : (2 : ℚ) ^ (e - 1) = 2 ^ e / 2 := by rw [zpow_sub_one₀ (by norm_num)]; rfl
    have hpow : (2 : ℚ) ^ (25 + e) = 2 ^ 25 * 2 ^ e := by
      rw [zpow_add₀ (by norm_num)]
      rfl
    have hk : |(k : ℚ)| * 2 ^ e < (2 ^ 25 + 1) * 2 ^ e := by
      have habs : |(k : ℚ) * 2 ^ e| = |(k : ℚ)| * 2 ^ e := by rw [abs_mul, abs_of_pos hu]
      have htri := abs_sub_abs_le_abs_sub ((k : ℚ) * 2 ^ e) a
      rw [hpow] at hhigh
      rw [hhalf] at hnear
      rw [← habs]
      linarith
    rw [mul_lt_mul_iff_left₀ hu] at hk
    have hk' : |k| < 2 ^ 25 + 1 := by exact_mod_cast hk
    omega
/-- A number of no more than 25 bits stays as it is. -/
theorem accRounds_exact {a r : ℚ} (h : Claims.AccRounds a r) (ha : AccExact a) : r = a := by
  obtain ⟨hzero, hne⟩ := h
  by_cases h0 : a = 0
  · rw [hzero h0, h0]
  obtain ⟨k, e, rfl, hlow, -, hnear, -⟩ := hne h0
  obtain ⟨j, g, hj, rfl⟩ := ha
  have hu : (0 : ℚ) < 2 ^ e := by positivity
  have hhalf : (2 : ℚ) ^ (e - 1) = 2 ^ e / 2 := by rw [zpow_sub_one₀ (by norm_num)]; rfl
  have hunits : UnitsOf e ((j : ℚ) * 2 ^ g) := by
    rcases le_or_gt e g with hge | hlt
    · exact UnitsOf.mono ⟨j, rfl⟩ hge
    · have hg : (0 : ℚ) < 2 ^ g := by positivity
      rw [abs_mul, abs_of_pos hg] at hlow
      have hj' : |(j : ℚ)| ≤ 2 ^ 25 := by exact_mod_cast hj
      have hsplit : ∀ n : ℕ, (2 : ℚ) ^ ((n : ℤ) + g) = 2 ^ n * 2 ^ g := fun n => by rw [zpow_add₀ (by norm_num), zpow_natCast]
      have heg : e = g + 1 := by
        have hle : (2 : ℚ) ^ (24 + e) ≤ 2 ^ ((25 : ℕ) + g) := by
          rw [hsplit]
          exact hlow.trans (by gcongr)
        have := (zpow_le_zpow_iff_right₀ (by norm_num : (1 : ℚ) < 2)).1 hle
        push_cast at this
        omega
      subst heg
      have hbig : (2 : ℚ) ^ 25 ≤ |(j : ℚ)| := by
        rw [show 24 + (g + 1) = ((25 : ℕ) : ℤ) + g by push_cast; ring, hsplit, mul_le_mul_iff_left₀ hg] at hlow
        exact hlow
      have hjabs : |j| = 2 ^ 25 := le_antisymm hj (by exact_mod_cast hbig)
      obtain ⟨i, rfl⟩ : ∃ i, j = 2 * i := ⟨j / 2, by rcases abs_eq (by norm_num) |>.1 hjabs with h | h <;> omega⟩
      exact ⟨i, by rw [zpow_add_one₀ (by norm_num)]; push_cast; ring⟩
  obtain ⟨i, hi⟩ := hunits
  rw [hi, ← sub_mul, abs_mul, abs_of_pos hu, hhalf] at hnear
  have hlt : |(k : ℚ) - i| < 1 := by nlinarith
  have hki : |k - i| < 1 := by exact_mod_cast hlt
  rw [hi, show k = i by rw [Int.abs_lt_one_iff] at hki; omega]

/-- Rounding again changes nothing. -/
theorem real_accRound_exact {v : Val} {a : ℚ} (hv : Claims.real v = some a) (ha : AccExact a) (hlow : UnitsOf (-510) a) (hhigh : |a| < 2 ^ (511 : ℤ)) :
    Claims.real (accRound v) = some a := by
  obtain ⟨r, hr, hrounds⟩ := real_accRound hv hlow hhigh
  rw [hr, accRounds_exact hrounds ha]
/-- Rounding keeps a number's units where they are no finer than the 25 bits, and at most doubles it. -/
theorem accRounds_bounds {a r : ℚ} (h : Claims.AccRounds a r) {q : ℤ} (ha : UnitsOf q a) : UnitsOf (q - 25) r ∧ |r| ≤ 2 * |a| := by
  obtain ⟨hzero, hne⟩ := h
  by_cases h0 : a = 0
  · rw [hzero h0, h0]
    exact ⟨.zero _, by norm_num⟩
  obtain ⟨k, e, rfl, hlow, hhigh, hnear, -⟩ := hne h0
  have hmin := ha.le_abs h0
  constructor
  · have := (zpow_lt_zpow_iff_right₀ (by norm_num : (1 : ℚ) < 2)).1 (hmin.trans_lt hhigh)
    exact UnitsOf.mono ⟨k, rfl⟩ (by omega)
  · have hpow : (2 : ℚ) ^ (e - 1) ≤ 2 ^ (24 + e) := zpow_le_zpow_right₀ (by norm_num) (by omega)
    have htri := abs_sub_abs_le_abs_sub ((k : ℚ) * 2 ^ e) a
    linarith

end Sys2Proof.Machine
end

section
/-! SUPPORT. The canonical order of FDOT4 (R71, R72, R74, R81): products, their sum as one chunk, and the accumulator. -/
namespace Sys2Proof.Machine

/-! Products (R71, R81) -/

/-- An infinity. -/
def Val.IsInf (v : Val) : Prop := ∃ s, v = .inf s
theorem Val.mul_invalid_iff (a b : Val) : (a.mul b).2 = true ↔ a.IsInf ∧ b.isZero = true ∨ b.IsInf ∧ a.isZero = true := by
  unfold Val.IsInf
  cases a with
  | nan => cases b <;> simp [Val.mul, Val.isZero]
  | inf s =>
    cases b with
    | nan => simp [Val.mul, Val.isZero]
    | inf t => simp [Val.mul, Val.isZero]
    | fin t n f =>
      rw [isZero_eq]
      by_cases hn : n = 0 <;> simp [Val.mul, hn]
  | fin s m e =>
    cases b with
    | nan => simp [Val.mul]
    | inf t =>
      rw [isZero_eq]
      by_cases hm : m = 0 <;> simp [Val.mul, hm]
    | fin t n f => simp [Val.mul]
theorem Val.mul_nan_iff (a b : Val) : (a.mul b).1 = .nan ↔ a = .nan ∨ b = .nan ∨ (a.mul b).2 = true := by
  cases a with
  | nan => simp [Val.mul]
  | inf s =>
    cases b with
    | nan => simp [Val.mul]
    | inf t => simp [Val.mul]
    | fin t n f => by_cases hn : n = 0 <;> simp [Val.mul, hn]
  | fin s m e =>
    cases b with
    | nan => simp [Val.mul]
    | inf t => by_cases hm : m = 0 <;> simp [Val.mul, hm]
    | fin t n f => simp [Val.mul]
/-- R71: an infinity times what is no zero and no NaN is an infinity, with the sign of the product. -/
theorem Val.mul_inf_iff (a b : Val) (s : Bool) : (a.mul b).1 = .inf s ↔ a.sign = (s != b.sign)
    ∧ (a.IsInf ∧ b.isZero = false ∧ b ≠ .nan ∨ b.IsInf ∧ a.isZero = false ∧ a ≠ .nan) := by
  have hsign : ∀ t u : Bool, (t != u) = s ↔ t = (s != u) := by decide +revert
  unfold Val.IsInf
  cases a with
  | nan => cases b <;> simp [Val.mul]
  | inf t =>
    cases b with
    | nan => simp [Val.mul]
    | inf u => simp [Val.mul, Val.isZero, Val.sign, hsign]
    | fin u n f =>
      rw [isZero_eq]
      by_cases hn : n = 0 <;> simp [Val.mul, Val.sign, hn, hsign]
  | fin t m e =>
    cases b with
    | nan => simp [Val.mul]
    | inf u =>
      rw [isZero_eq]
      by_cases hm : m = 0 <;> simp [Val.mul, Val.sign, hm, hsign]
    | fin u n f => simp [Val.mul]

/-- The products of n pairs. -/
def productsOf (n : Nat) (x y : Nat → Val) : List Val := (List.range n).map (fun k => ((x k).mul (y k)).1)
theorem products_range (n : Nat) (x y : Nat → Val) : products ((List.range n).map (fun k => some (x k))) ((List.range n).map (fun k => some (y k)))
    = ((productsOf n x y).map some, (List.range n).any (fun k => ((x k).mul (y k)).2)) := by
  simp only [products, productsOf, List.zip_map', List.map_map, List.any_map, Function.comp_def]
theorem mem_productsOf {n : Nat} {x y : Nat → Val} {v : Val} : v ∈ productsOf n x y ↔ ∃ k < n, ((x k).mul (y k)).1 = v := by
  simp [productsOf]

/-! A chunk with NaNs or infinities (R72) -/

theorem chunkSum_nan {q : List Val} (h : .nan ∈ q) : chunkSum q = (.nan, false) := by
  have hne : q.isEmpty = false := by simpa using List.ne_nil_of_mem h
  have hany : q.any (· == .nan) = true := List.any_eq_true.2 ⟨_, h, beq_self_eq_true _⟩
  simp only [chunkSum, hne, hany, Bool.false_eq_true, if_true, if_false]
theorem chunkSum_opposite {q : List Val} (hnan : .nan ∉ q) (hpos : .inf false ∈ q) (hneg : .inf true ∈ q) : chunkSum q = (.nan, true) := by
  have hne : q.isEmpty = false := by simpa using List.ne_nil_of_mem hpos
  have hany : q.any (· == .nan) = false := List.any_eq_false.2 fun v hv h => hnan (beq_iff_eq.1 h ▸ hv)
  simp [chunkSum, hne, hany, hpos, hneg]
theorem chunkSum_inf {q : List Val} (hnan : .nan ∉ q) {s : Bool} (hs : .inf s ∈ q) (hother : .inf (!s) ∉ q) : chunkSum q = (.inf s, false) := by
  have hne : q.isEmpty = false := by simpa using List.ne_nil_of_mem hs
  have hany : q.any (· == .nan) = false := List.any_eq_false.2 fun v hv h => hnan (beq_iff_eq.1 h ▸ hv)
  cases s
  · simp only [Bool.not_false] at hother
    simp [chunkSum, hne, hany, hs, hother]
  · simp only [Bool.not_true] at hother
    simp [chunkSum, hne, hany, hs, hother]

end Sys2Proof.Machine
end

section
/-! SUPPORT. A chunk of finite products (R72, R73): the window that is aligned to the greatest of them loses nothing where it reaches the last
bit of each, so that the chunk is their exact sum, rounded once. -/
namespace Sys2Proof.Machine

/-! A finite chunk (R72) -/

/-- The number of a value; 0 where it has none. -/
def numOf (v : Val) : ℚ := (Claims.real v).getD 0
theorem numOf_fin (s : Bool) (m : Nat) (e : Int) : numOf (.fin s m e) = ratOf s m e := rfl
/-- A finite value which, where it is not 0, is a multiple of 2^A and lies below 2^(B + 1). -/
def Within (A B : ℤ) (v : Val) : Prop := ∃ s m e, v = .fin s m e ∧ (m ≠ 0 → A ≤ e ∧ Val.log2 m e ≤ B)

/-- Aligning a magnitude in the window loses nothing where the window reaches its last bit. -/
theorem jamAt_exact {s : Bool} {m : Nat} {e lsb : Int} (h : lsb ≤ e) : (jamAt s m e lsb : ℚ) * 2 ^ lsb = ratOf s m e := by
  have hjam : jamAt s m e lsb = scaled s m e lsb := by
    simp only [jamAt, cutAt, if_pos h]
    rfl
  rw [hjam, scaled_mul h]
/-- The aligned magnitudes add up to the sum of the numbers. -/
theorem foldl_jamAt {f : Int → Val → Int} {lsb : Int} (hf : ∀ a s m e, f a (.fin s m e) = a + jamAt s m e lsb) {z : List Val}
    (hz : ∀ v ∈ z, ∃ s m e, v = .fin s m e ∧ lsb ≤ e) (a : Int) : ((z.foldl f a : ℤ) : ℚ) * 2 ^ lsb = a * 2 ^ lsb + (z.map numOf).sum := by
  induction z generalizing a with
  | nil => simp
  | cons v z ih =>
    obtain ⟨s, m, e, rfl, he⟩ := hz v (by simp)
    rw [List.foldl_cons, ih (fun u hu => hz u (by simp [hu])), hf, List.map_cons, List.sum_cons, numOf_fin, ← jamAt_exact he]
    push_cast
    ring
/-- The top of the window is the magnitude of one of the products. -/
theorem foldl_log2 {f : Option Int → Val → Option Int} (hsome : ∀ t s m e, f (some t) (.fin s m e) = some (max t (Val.log2 m e)))
    (hnone : ∀ s m e, f none (.fin s m e) = some (Val.log2 m e)) {A B : Int} {z : List Val}
    (hz : ∀ v ∈ z, ∃ s m e, v = .fin s m e ∧ A ≤ Val.log2 m e ∧ Val.log2 m e ≤ B) (hne : z ≠ []) :
    ∃ t, z.foldl f none = some t ∧ A ≤ t ∧ t ≤ B := by
  have hrest : ∀ (z : List Val), (∀ v ∈ z, ∃ s m e, v = .fin s m e ∧ A ≤ Val.log2 m e ∧ Val.log2 m e ≤ B) → ∀ t, A ≤ t → t ≤ B →
      ∃ t', z.foldl f (some t) = some t' ∧ A ≤ t' ∧ t' ≤ B := by
    intro z
    induction z with
    | nil => exact fun _ t hA hB => ⟨t, rfl, hA, hB⟩
    | cons v z ih =>
      intro hz t hA hB
      obtain ⟨s, m, e, rfl, hlo, hhi⟩ := hz v (by simp)
      rw [List.foldl_cons, hsome]
      exact ih (fun u hu => hz u (by simp [hu])) _ (by omega) (by omega)
  obtain ⟨v, z, rfl⟩ := List.exists_cons_of_ne_nil hne
  obtain ⟨s, m, e, rfl, hlo, hhi⟩ := hz v (by simp)
  rw [List.foldl_cons, hnone]
  exact hrest z (fun u hu => hz u (by simp [hu])) _ hlo hhi
/-- Zeros add nothing. -/
theorem sum_filter_isZero {q : List Val} (hq : ∀ v ∈ q, ∃ s m e, v = .fin s m e) :
    ((q.filter (fun v => !v.isZero)).map numOf).sum = (q.map numOf).sum := by
  induction q with
  | nil => rfl
  | cons v q ih =>
    obtain ⟨s, m, e, rfl⟩ := hq v (by simp)
    rw [List.filter_cons, isZero_eq, List.map_cons, List.sum_cons, ← ih fun u hu => hq u (by simp [hu])]
    by_cases hm : m = 0
    · simp [hm, numOf_fin]
    · simp [hm]
/-- The greatest magnitude of the products so far. -/
def topStep (a : Option Int) (v : Val) : Option Int :=
  match v, a with
  | .fin _ m e, some t => some (max t (Val.log2 m e))
  | .fin _ m e, none => some (Val.log2 m e)
  | _, a => a
/-- The aligned magnitudes so far. -/
def jamStep (lsb a : Int) (v : Val) : Int :=
  match v with
  | .fin s m e => a + jamAt s m e lsb
  | _ => a
/-- The sum of products that are not 0, in the window below the greatest of them, rounded. -/
def windowSum (z : List Val) : Val × Bool :=
  let lsb := (z.foldl topStep none).getD 0 - 89
  let total := z.foldl (jamStep lsb) 0
  if total = 0 then (.zero false, false) else (accRound (.fin (decide (total < 0)) total.natAbs lsb), false)
/-- It is the exact sum, rounded once, where the window reaches the last bit of each. -/
theorem windowSum_fin {z : List Val} (hne : z ≠ []) {A B : ℤ} (hz : ∀ v ∈ z, ∃ s m e, v = .fin s m e ∧ m ≠ 0 ∧ A ≤ e ∧ Val.log2 m e ≤ B)
    (hAB : B ≤ A + 89) (hlow : UnitsOf (-510) (z.map numOf).sum) (hhigh : |(z.map numOf).sum| < 2 ^ (511 : ℤ)) :
    ∃ h, Claims.real (windowSum z).1 = some h ∧ (windowSum z).2 = false ∧ Claims.AccRounds (z.map numOf).sum h := by
  obtain ⟨top, htop, hA, hB⟩ := foldl_log2 (f := topStep) (A := A) (B := B) (z := z) (fun _ _ _ _ => rfl) (fun _ _ _ => rfl)
    (fun v hv => by
      obtain ⟨s, m, e, rfl, hm, hA, hB⟩ := hz v hv
      exact ⟨s, m, e, rfl, by unfold Val.log2; omega, hB⟩) hne
  have hsum := foldl_jamAt (f := jamStep (top - 89)) (lsb := top - 89) (z := z) (fun _ _ _ _ => rfl)
    (fun v hv => by
      obtain ⟨s, m, e, rfl, -, hA, -⟩ := hz v hv
      exact ⟨s, m, e, rfl, by omega⟩) 0
  rw [Int.cast_zero, zero_mul, zero_add] at hsum
  simp only [windowSum, htop, Option.getD_some]
  by_cases htotal : z.foldl (jamStep (top - 89)) 0 = 0
  · rw [htotal, Int.cast_zero, zero_mul] at hsum
    rw [if_pos htotal, ← hsum]
    exact ⟨0, by simp [Val.zero, real_fin], rfl, fun _ => rfl, fun h => absurd rfl h⟩
  · rw [if_neg htotal]
    obtain ⟨h, hreal, hrounds⟩ := real_accRound (v := .fin _ _ (top - 89)) (by rw [real_fin, ratOf_natAbs, hsum]) hlow hhigh
    exact ⟨h, hreal, rfl, hrounds⟩
/-- R72, R73: a chunk of finite products whose magnitudes the window holds is their exact sum, rounded once. -/
theorem chunkSum_fin {q : List Val} {A B : ℤ} (hq : ∀ v ∈ q, Within A B v) (hAB : B ≤ A + 89)
    (hlow : UnitsOf (-510) (q.map numOf).sum) (hhigh : |(q.map numOf).sum| < 2 ^ (511 : ℤ)) :
    ∃ h, Claims.real (chunkSum q).1 = some h ∧ (chunkSum q).2 = false ∧ Claims.AccRounds (q.map numOf).sum h := by
  have hfin : ∀ v ∈ q, ∃ s m e, v = .fin s m e := fun v hv => by
    obtain ⟨s, m, e, rfl, -⟩ := hq v hv
    exact ⟨s, m, e, rfl⟩
  have hzeroRounds : Claims.AccRounds 0 0 := ⟨fun _ => rfl, fun h => absurd rfl h⟩
  have hnan : q.any (· == .nan) = false := List.any_eq_false.2 fun v hv h => by
    obtain ⟨s, m, e, rfl⟩ := hfin v hv
    cases beq_iff_eq.1 h
  have hinf : ∀ s, q.contains (.inf s) = false := fun s => by
    rw [← Bool.not_eq_true, List.contains_iff_mem]
    intro hs
    obtain ⟨_, _, _, h⟩ := hfin _ hs
    cases h
  rw [← sum_filter_isZero hfin] at hlow hhigh ⊢
  unfold chunkSum
  by_cases hempty : q.isEmpty = true
  · rw [if_pos hempty]
    obtain rfl := List.isEmpty_iff.1 hempty
    exact ⟨0, by simp [Val.zero, real_fin], rfl, hzeroRounds⟩
  simp only [if_neg hempty, hnan, hinf, Bool.false_and, Bool.false_eq_true, if_false]
  have hz : ∀ v ∈ q.filter (fun v => !v.isZero), ∃ s m e, v = .fin s m e ∧ m ≠ 0 ∧ A ≤ e ∧ Val.log2 m e ≤ B := fun v hv => by
    obtain ⟨hmem, hne⟩ := List.mem_filter.1 hv
    obtain ⟨s, m, e, rfl, hbounds⟩ := hq v hmem
    have hm : m ≠ 0 := by simpa [isZero_eq] using hne
    exact ⟨s, m, e, rfl, hm, hbounds hm⟩
  generalize q.filter (fun v => !v.isZero) = z at hlow hhigh hz ⊢
  split
  case h_1 => exact ⟨0, by simp [Val.zero, real_fin], rfl, hzeroRounds⟩
  case h_2 hne =>
    change ∃ h, Claims.real (windowSum z).1 = some h ∧ (windowSum z).2 = false ∧ _
    exact windowSum_fin hne hz hAB hlow hhigh

end Sys2Proof.Machine
end

section
/-! SUPPORT. FDOT4 (R71 to R74, R81): the range of its elements and products, and the one chunk that they make; with the obligation on the
conversions, packed and dot words. -/
namespace Sys2Proof.Machine

/-! The range of the elements (R44 to R46) -/

theorem Within.mono {A B C D : ℤ} {v : Val} (h : Within A B v) (hA : C ≤ A) (hB : B ≤ D) : Within C D v := by
  obtain ⟨s, m, e, rfl, hv⟩ := h
  exact ⟨s, m, e, rfl, fun hm => ⟨hA.trans (hv hm).1, (hv hm).2.trans hB⟩⟩
theorem within_zero (A B : ℤ) (s : Bool) : Within A B (.zero s) := ⟨s, 0, 0, rfl, fun h => absurd rfl h⟩
theorem within_fin {A B e : ℤ} {s : Bool} {m k : Nat} (hm : m < 2 ^ (k + 1)) (hA : A ≤ e) (hB : k + e ≤ B) : Within A B (.fin s m e) := by
  refine ⟨s, m, e, rfl, fun h0 => ⟨hA, ?_⟩⟩
  have := (Nat.log2_lt h0).2 hm
  unfold Val.log2
  omega
/-- A magnitude code of the format is a multiple of the least subnormal, and below the power of two past the greatest exponent. -/
theorem within_magVal (p : FloatFmt) (neg : Bool) {c : Nat} (hc : c < 2 ^ (p.ebits + p.mbits)) (hone : 1 < 2 ^ p.ebits) :
    Within (1 - p.bias - p.mbits) ((2 ^ p.ebits : Nat) - 1 - p.bias) (magVal p neg c) := by
  have hone' : (1 : ℤ) < (2 ^ p.ebits : Nat) := by exact_mod_cast hone
  have hf : c % 2 ^ p.mbits < 2 ^ p.mbits := Nat.mod_lt _ (by positivity)
  have he : c / 2 ^ p.mbits < 2 ^ p.ebits := Nat.div_lt_of_lt_mul (by rwa [mul_comm, ← pow_add])
  unfold magVal
  dsimp only
  split_ifs with h0 h1
  · exact within_zero _ _ _
  · exact within_fin (k := p.mbits) (hf.trans (by rw [pow_succ]; omega)) le_rfl (by push_cast at hone' ⊢; omega)
  · have hpos : 1 ≤ c / 2 ^ p.mbits := Nat.one_le_iff_ne_zero.2 h0
    exact within_fin (k := p.mbits) (by rw [pow_succ]; omega) (by omega) (by omega)
theorem within_decFloatVal {p : FloatFmt} {raw : Nat} {a : ℚ} (h : Claims.real (decFloatVal p raw) = some a) (hone : 1 < 2 ^ p.ebits) :
    Within (1 - p.bias - p.mbits) ((2 ^ p.ebits : Nat) - 1 - p.bias) (decFloatVal p raw) := by
  unfold decFloatVal at h ⊢
  dsimp only at h ⊢
  split_ifs at h ⊢
  · cases h
  · cases h
  · cases h
  · exact within_magVal p _ (Nat.mod_lt _ (by positivity)) hone
theorem within_ofFp32 {u : Word} {a : ℚ} (h : Claims.real (ofFp32 u) = some a) : Within (-149) 128 (ofFp32 u) :=
  (within_decFloatVal h (by norm_num)).mono (by norm_num) (by norm_num)
/-- The elements of FDOT4. -/
theorem within_dotElement {f : Fmt} (hf : f = 4 ∨ f = 5) {raw : Nat} {a : ℚ} (h : Claims.real (decodeFmt f raw).1 = some a) :
    Within (-16) 16 (decodeFmt f raw).1 := by
  rcases hf with rfl | rfl
  · exact (within_decFloatVal (p := ⟨5, 2, 15, 0x7B, true, true, some 0x7E, 0⟩) h (by norm_num)).mono (by norm_num) (by norm_num)
  · exact (within_decFloatVal (p := ⟨4, 3, 7, 0x7E, false, true, some 0x7F, 0⟩) h (by norm_num)).mono (by norm_num) (by norm_num)
theorem Within.mul {A B C D : ℤ} {u v : Val} (hu : Within A B u) (hv : Within C D v) : Within (A + C) (B + D + 1) (u.mul v).1 := by
  obtain ⟨s, m, e, rfl, hu⟩ := hu
  obtain ⟨t, n, f, rfl, hv⟩ := hv
  rw [Val.mul_fin]
  refine ⟨_, _, _, rfl, fun h0 => ?_⟩
  obtain ⟨hm, hn⟩ := mul_ne_zero_iff.1 h0
  obtain ⟨hA, hB⟩ := hu hm
  obtain ⟨hC, hD⟩ := hv hn
  have hlog : Nat.log2 (m * n) < Nat.log2 m + 1 + (Nat.log2 n + 1) := by
    rw [Nat.log2_lt h0, pow_add]
    exact Nat.mul_lt_mul'' Nat.lt_log2_self Nat.lt_log2_self
  rw [if_neg h0]
  unfold Val.log2 at *
  omega
theorem Within.bounds {A B : ℤ} {v : Val} (h : Within A B v) : UnitsOf A (numOf v) ∧ |numOf v| < 2 ^ (B + 1) := by
  obtain ⟨s, m, e, rfl, hv⟩ := h
  rw [numOf_fin]
  by_cases hm : m = 0
  · subst hm
    rw [ratOf_zero, abs_zero]
    exact ⟨.zero A, by positivity⟩
  · obtain ⟨hA, hB⟩ := hv hm
    rw [abs_ratOf]
    exact ⟨(unitsOf_ratOf s m e).mono hA, (log2_bounds hm e).2.trans_le (zpow_le_zpow_right₀ (by norm_num) (by omega))⟩
theorem Within.sum_bounds {A B : ℤ} {q : List Val} (h : ∀ v ∈ q, Within A B v) :
    UnitsOf A (q.map numOf).sum ∧ |(q.map numOf).sum| ≤ q.length * 2 ^ (B + 1) := by
  induction q with
  | nil => simpa using UnitsOf.zero A
  | cons v q ih =>
    obtain ⟨hunits, hsize⟩ := (h v (by simp)).bounds
    obtain ⟨hunits', hsize'⟩ := ih fun u hu => h u (by simp [hu])
    rw [List.map_cons, List.sum_cons, List.length_cons]
    refine ⟨hunits.add hunits', (abs_add_le _ _).trans ?_⟩
    push_cast
    linarith

/-! One chunk, one segment (R74) -/

theorem piecesOf_short {α : Type} {l : List α} (hne : l ≠ []) {n : Nat} (h : l.length < n) : piecesOf (l.length / n + 1) n l = [l] := by
  have hempty : l.isEmpty = false := by simpa using hne
  rw [Nat.div_eq_of_lt h, piecesOf, hempty, piecesOf, List.take_of_length_le h.le]
  rfl
/-- The dot product of a single chunk: its sum, added to the -0 that a segment starts with, and that to the accumulator. -/
def chunkDot (q : List Val) (init : Val) : Val × Bool :=
  let h := chunkSum q
  let g := accAdd (.zero true) h.1
  let u := accAdd init g.1
  (u.1, h.2 || g.2 || u.2)
theorem dotCanonical_short {q : List Val} (hne : q ≠ []) (hlen : q.length < 16) (init : Val) :
    dotCanonical (q.map some) init = chunkDot q init := by
  have hne' : q.map some ≠ [] := by simpa using hne
  have hlen' : (q.map some).length < 16 := by simpa using hlen
  have hid : (q.map some).filterMap id = q := by simp [List.filterMap_map]
  simp only [dotCanonical, segmentSum, piecesOf_short hne' hlen', piecesOf_short hne' (hlen'.trans (by norm_num : 16 < 512)),
    List.foldl_cons, List.foldl_nil, hid, Bool.false_or, chunkDot]

theorem accAdd_nan_right (v : Val) : accAdd v .nan = (.nan, false) := by cases v <;> rfl
theorem chunkDot_nan_init (q : List Val) : (chunkDot q .nan).1 = .nan := rfl
theorem chunkDot_nan {q : List Val} (h : .nan ∈ q) (init : Val) : (chunkDot q init).1 = .nan := by
  simp only [chunkDot, chunkSum_nan h, accAdd_nan_right]
/-- R72: infinities of both signs. -/
theorem chunkDot_opposite {q : List Val} (hnan : .nan ∉ q) (hpos : .inf false ∈ q) (hneg : .inf true ∈ q) (init : Val) :
    chunkDot q init = (.nan, true) := by
  simp only [chunkDot, chunkSum_opposite hnan hpos hneg, accAdd_nan_right, Bool.or_false]
/-- R72, R74: infinities of one sign, in an accumulator that is not NaN. -/
theorem chunkDot_inf {q : List Val} (hnan : .nan ∉ q) {s : Bool} (hs : .inf s ∈ q) (hother : .inf (!s) ∉ q) {init : Val} (hinit : init ≠ .nan) :
    chunkDot q init = if init = .inf (!s) then (.nan, true) else (.inf s, false) := by
  have hsegment : accAdd (.zero true) (.inf s) = (.inf s, false) := rfl
  simp only [chunkDot, chunkSum_inf hnan hs hother, hsegment, Bool.false_or]
  cases init with
  | nan => exact absurd rfl hinit
  | inf t => cases s <;> cases t <;> rfl
  | fin t m e => rfl
/-- Numbers that are far from the accumulator's limit. -/
theorem lt_accLimit {a : ℚ} (h : |a| ≤ 2 ^ (130 : ℤ)) : |a| < 2 ^ (511 : ℤ) :=
  h.trans_lt (zpow_lt_zpow_right₀ (by norm_num) (by norm_num))
/-- R72 to R74: the exact sum, rounded, and its sum with the accumulator, rounded. -/
theorem chunkDot_fin {q : List Val} (hlen : q.length ≤ 4) (hq : ∀ v ∈ q, Within (-32) 33 v) {init : Val} {c : ℚ} (hinit : Claims.real init = some c)
    (hunits : UnitsOf (-149) c) (hsize : |c| < 2 ^ (129 : ℤ)) :
    ∃ h u, Claims.AccRounds (q.map numOf).sum h ∧ Claims.AccRounds (c + h) u ∧ Claims.real (chunkDot q init).1 = some u ∧ (chunkDot q init).2 = false := by
  obtain ⟨hsum, hsumSize⟩ := Within.sum_bounds hq
  have hsumSize' : |(q.map numOf).sum| ≤ 4 * 2 ^ (34 : ℤ) := hsumSize.trans (mul_le_mul_of_nonneg_right (by exact_mod_cast hlen) (by positivity))
  obtain ⟨h, hreal, hflag, hrounds⟩ := chunkSum_fin hq (by norm_num) (hsum.mono (by norm_num)) (lt_accLimit (hsumSize'.trans (by norm_num)))
  obtain ⟨hh, hhSize⟩ := accRounds_bounds hrounds hsum
  have hhSize' : |h| ≤ 8 * 2 ^ (34 : ℤ) := by linarith
  obtain ⟨hadd, haddFlag⟩ := Val.add_real (u := .zero true) (a := 0) (by simp [Val.zero, real_fin]) hreal
  rw [zero_add] at hadd
  have hsegment := real_accRound_exact hadd (.of_accRounds hrounds) (hh.mono (by norm_num)) (lt_accLimit (hhSize'.trans (by norm_num)))
  obtain ⟨hlast, hlastFlag⟩ := Val.add_real hinit hsegment
  obtain ⟨u, hu, hurounds⟩ := real_accRound hlast ((hunits.add (hh.mono (by norm_num))).mono (by norm_num))
    (lt_accLimit ((abs_add_le _ _).trans ((add_le_add hsize.le hhSize').trans (by norm_num))))
  refine ⟨h, u, hrounds, hurounds, hu, ?_⟩
  simp only [chunkDot, accAdd, hflag, haddFlag, hlastFlag, Bool.or_false]


/-- An FP32 number is one of the accumulator. -/
theorem accRound_ofFp32 {z : Word} {c : ℚ} (h : Claims.real (ofFp32 z) = some c) :
    Claims.real (accRound (ofFp32 z)) = some c ∧ UnitsOf (-149) c ∧ |c| < 2 ^ (129 : ℤ) := by
  obtain ⟨hunits, hsize⟩ := (within_ofFp32 h).bounds
  obtain ⟨s, m, e, hz, rfl, hm, -⟩ := ofFp32_fin h
  rw [hz, numOf_fin] at hunits hsize
  have hexact : AccExact (ratOf s m e) := by
    refine ⟨if s then -(m : ℤ) else m, e, ?_, by cases s <;> simp [ratOf]⟩
    cases s <;> simp <;> omega
  exact ⟨real_accRound_exact h hexact (hunits.mono (by norm_num)) (lt_accLimit (hsize.le.trans (by norm_num))), hunits, hsize⟩
/-- The NaNs and infinities of the accumulator are those of the FP32 word. -/
theorem accRound_ofFp32_special {z : Word} {v : Val} (hv : Claims.real v = none) : accRound (ofFp32 z) = v ↔ ofFp32 z = v := by
  cases hz : ofFp32 z with
  | nan => rfl
  | inf t => rfl
  | fin t m e =>
    have hreal := (accRound_ofFp32 (z := z) (by rw [hz, real_fin])).1
    rw [hz] at hreal
    constructor
    · intro h
      rw [h, hv] at hreal
      cases hreal
    · rintro rfl
      cases hv

/-! The statement -/

theorem productsOf_fin {f : Fmt} (hf : f = 4 ∨ f = 5) {x y : Nat → Nat} {a b : Nat → ℚ}
    (h : ∀ k, k < 4 → Claims.real (decodeFmt f (x k)).1 = some (a k) ∧ Claims.real (decodeFmt f (y k)).1 = some (b k)) :
    let q := productsOf 4 (fun k => (decodeFmt f (x k)).1) (fun k => (decodeFmt f (y k)).1)
    (∀ v ∈ q, Within (-32) 33 v) ∧ (q.map numOf).sum = a 0 * b 0 + a 1 * b 1 + a 2 * b 2 + a 3 * b 3 := by
  intro q
  constructor
  · intro v hv
    obtain ⟨k, hk, rfl⟩ := mem_productsOf.1 hv
    exact (within_dotElement hf (h k hk).1).mul (within_dotElement hf (h k hk).2)
  · have hnum : ∀ k < 4, numOf ((decodeFmt f (x k)).1.mul (decodeFmt f (y k)).1).1 = a k * b k := fun k hk => by
      obtain ⟨ha, hb⟩ := h k hk
      obtain ⟨s, m, e, hx, hxa⟩ := real_eq_some ha
      obtain ⟨t, n, g, hy, hyb⟩ := real_eq_some hb
      rw [numOf, hx, hy, real_mul_fin, hxa, hyb, Option.getD_some]
    have hsplit : q.map numOf = [a 0 * b 0, a 1 * b 1, a 2 * b 2, a 3 * b 3] := by
      rw [← hnum 0 (by norm_num), ← hnum 1 (by norm_num), ← hnum 2 (by norm_num), ← hnum 3 (by norm_num)]
      rfl
    rw [hsplit]
    simp only [List.sum_cons, List.sum_nil]
    ring

theorem dotOrder : Claims.DotOrder := by
  intro f x y z hf dx dy p r isInf becomes invalid
  have hp : p = ((productsOf 4 dx dy).map some, (List.range 4).any (fun k => ((dx k).mul (dy k)).2)) := products_range 4 dx dy
  have hlen : (productsOf 4 dx dy).length = 4 := rfl
  have hr : r = chunkDot (productsOf 4 dx dy) (accRound (ofFp32 z)) := by
    change dotCanonical p.1 _ = _
    rw [hp]
    exact dotCanonical_short (by rw [← List.length_pos_iff, hlen]; norm_num) (by rw [hlen]; norm_num) _
  have hinvalid : p.2 = true ↔ invalid := by
    rw [hp, List.any_eq_true]
    exact exists_congr fun k => and_congr List.mem_range (Val.mul_invalid_iff (dx k) (dy k))
  have hnan : .nan ∈ productsOf 4 dx dy ↔ (∃ k, k < 4 ∧ (dx k = .nan ∨ dy k = .nan)) ∨ invalid := by
    rw [mem_productsOf, ← exists_or]
    refine exists_congr fun k => ?_
    rw [Val.mul_nan_iff, ← and_or_left, or_assoc]
    exact and_congr_right fun _ => or_congr_right (or_congr_right (Val.mul_invalid_iff (dx k) (dy k)))
  have hinf : ∀ s, .inf s ∈ productsOf 4 dx dy ↔ becomes s := fun s => by
    rw [mem_productsOf]
    exact exists_congr fun k => and_congr_right fun _ => Val.mul_inf_iff (dx k) (dy k) s
  rw [hr]
  refine ⟨fun a b c hab hc => ?_, fun h => ?_, hinvalid, fun h => chunkDot_nan (hnan.2 (.inr h)) _, fun hvalid hxy hz => ?_⟩
  · obtain ⟨hwithin, hsum⟩ := productsOf_fin (x := fun k => x k % 256) (y := fun k => y k % 256) hf hab
    obtain ⟨hinit, hunits, hsize⟩ := accRound_ofFp32 hc
    obtain ⟨h, u, hrounds, hurounds, hu, hflag⟩ := chunkDot_fin hlen.le hwithin hinit hunits hsize
    rw [hsum] at hrounds
    refine ⟨h, u, hrounds, hurounds, hu, hflag, ?_⟩
    rw [← Bool.not_eq_true, hinvalid]
    rintro ⟨k, hk, ⟨⟨s, hs⟩, -⟩ | ⟨⟨s, hs⟩, -⟩⟩
    · exact absurd ((congrArg Claims.real hs).symm.trans (hab k hk).1) (by simp [Claims.real])
    · exact absurd ((congrArg Claims.real hs).symm.trans (hab k hk).2) (by simp [Claims.real])
  · rcases h with hz | h
    · rw [hz]
      exact chunkDot_nan_init _
    · exact chunkDot_nan (hnan.2 (.inl h)) _
  · have hq : .nan ∉ productsOf 4 dx dy := by
      rw [hnan]
      rintro (⟨k, hk, h⟩ | h)
      · exact h.elim (hxy k hk).1 (hxy k hk).2
      · exact hvalid h
    refine ⟨fun ht hf => chunkDot_opposite hq ((hinf false).2 hf) ((hinf true).2 ht) _, fun s hs hother => ?_⟩
    rw [chunkDot_inf hq ((hinf s).2 hs) (mt (hinf _).1 hother) (mt (accRound_ofFp32_special rfl).1 hz)]
    simp only [accRound_ofFp32_special (v := .inf (!s)) rfl]

/-- Settles O14, from the words, the integer formats, the other formats and the order of FDOT4. -/
theorem packedAndDotResults : Obligations.PackedAndDotResults := ⟨packedWords, integerFormats, otherFormats, dotOrder⟩

end Sys2Proof.Machine
end

section
/-! SUPPORT. What leaves every byte and every thread as it was, and moves lines and translations between caches alone; what a write of
global memory changes beside its bytes (R172, R290 to R293, R308). -/
namespace Sys2Proof.Machine

/-! Lines that move between caches -/

/-- Only caches, their owners and writer marks, translations held, free values and messages have changed. -/
def State.CachesMove (s n : State) : Prop := n = { s with
  cores := n.cores, owners := n.owners, marks := n.marks, l2 := n.l2, l2cp := n.l2cp, acts := n.acts, ctlbs := n.ctlbs, ptrs := n.ptrs,
  free := n.free, sent := n.sent }
theorem State.CachesMove.refl (s : State) : s.CachesMove s := rfl
theorem State.CachesMove.trans {a b c : State} (h : a.CachesMove b) (k : b.CachesMove c) : a.CachesMove c := by
  unfold State.CachesMove at *
  rw [k, h]
theorem State.CachesMove.foldl {α : Type} {f : State → α → State} (hf : ∀ (s : State) (a : α), s.CachesMove (f s a)) (l : List α) (s : State) :
    s.CachesMove (l.foldl f s) := by
  induction l generalizing s with
  | nil => exact .refl s
  | cons a l ih => exact (hf s a).trans (ih _)
theorem State.EngineReads.cachesMove {s n : State} (h : s.EngineReads n) : s.CachesMove n := by
  unfold State.CachesMove
  rw [h]
theorem State.CachesOnly.cachesMove {s n : State} (h : s.CachesOnly n) : s.CachesMove n := by
  unfold State.CachesMove
  rw [h.rest]
theorem State.CoresOnly.cachesMove {s n : State} (h : s.CoresOnly n) : s.CachesMove n := by
  unfold State.CachesMove
  rw [h]

section
variable {s n : State} (h : s.CachesMove n)
include h
theorem State.CachesMove.thread (r : ThreadRef) : n.thread r = s.thread r := by rw [h]; rfl
theorem State.CachesMove.wg (g : Nat) : n.wg g = s.wg g := by rw [h]; rfl
theorem State.CachesMove.wgOf (r : ThreadRef) : n.wgOf r = s.wgOf r := by rw [h]; rfl
theorem State.CachesMove.bank (k : Nat) : n.bank k = s.bank k := by rw [h]; rfl
theorem State.CachesMove.part (p : Nat) : n.part p = s.part p := by rw [h]; rfl
theorem State.CachesMove.nearSeen (a : Nat) : n.nearSeen a = s.nearSeen a := by rw [h]; rfl
theorem State.CachesMove.memRead (a k : Nat) : n.memRead a k = s.memRead a k := by rw [h]; rfl
theorem State.CachesMove.memPoisoned (a k : Nat) : n.memPoisoned a k = s.memPoisoned a k := by rw [h]; rfl
theorem State.CachesMove.nearPoisoned (a k : Nat) : n.nearPoisoned a k = s.nearPoisoned a k := by rw [h]; rfl
theorem State.CachesMove.mem : n.mem = s.mem := by rw [h]
theorem State.CachesMove.near : n.near = s.near := by rw [h]
theorem State.CachesMove.merge : n.merge = s.merge := by rw [h]
theorem State.CachesMove.wgs : n.wgs = s.wgs := by rw [h]
theorem State.CachesMove.launches : n.launches = s.launches := by rw [h]
theorem State.CachesMove.threads : n.threads = s.threads := by rw [h]
theorem State.CachesMove.reqs : n.reqs = s.reqs := by rw [h]
theorem State.CachesMove.reserves : n.reserves = s.reserves := by rw [h]
theorem State.CachesMove.empties : n.empties = s.empties := by rw [h]
theorem State.CachesMove.ops : n.ops = s.ops := by rw [h]
theorem State.CachesMove.traps : n.traps = s.traps := by rw [h]
end

theorem State.l2Touch_cachesMove (s : State) (line : Nat) (dirty : Bool) : s.CachesMove (s.l2Touch line dirty) :=
  (State.l2Touch_engineReads s line dirty).cachesMove
theorem State.l2Policy_cachesMove (s : State) (pa n cp : Nat) : s.CachesMove (s.l2Policy pa n cp) := rfl
theorem State.dropClean_cachesMove (s : State) (core line : Nat) : s.CachesMove (s.dropClean core line) := rfl
theorem State.asFunction_cachesMove (s : State) (p pa n : Nat) (write : Bool) : s.CachesMove (s.asFunction p pa n write) :=
  (State.asFunction_engineReads s p pa n write).cachesMove
theorem State.gather_cachesMove (s : State) (core : Nat) (mark : Option Nat) : s.CachesMove (s.gather core mark) := by
  unfold State.gather
  split
  · exact .refl s
  · split
    · exact .refl s
    · exact rfl
theorem State.lineWritten_cachesMove (s : State) (line : Nat) (mark : Option Nat) : s.CachesMove (s.lineWritten line mark) := by
  refine ((State.recall_cachesOnly s line).cachesMove.trans (State.l2Touch_cachesMove _ line true)).trans ?_
  unfold State.lineWritten
  dsimp only
  split <;> exact rfl
/-- A thread's load moves lines alone (R291, R292, R308). -/
theorem State.memLoad_cachesMove (s : State) (pa n core cp : Nat) : s.CachesMove (s.memLoad pa n core cp).2 := by
  have hgather : s.CachesMove ((s.gather core (Tbl.find s.marks (pa / 128))).l2Policy pa n cp) :=
    (State.gather_cachesMove s core _).trans rfl
  simp only [State.memLoad]
  split
  · exact (hgather.trans (State.l2Touch_cachesMove ..)).trans rfl
  · split
    · exact hgather
    · split
      · exact hgather
      · exact (hgather.trans (State.l2Touch_cachesMove ..)).trans rfl
theorem State.releaseCore_cachesMove (s : State) (core : Nat) : s.CachesMove (s.releaseCore core) := by
  obtain ⟨m, hm, heq⟩ := State.releaseCore_eq s core
  rw [heq]
  exact hm.engineReads.cachesMove.trans rfl
theorem State.acquireWide_cachesMove (s : State) (core : Nat) : s.CachesMove (s.acquireWide core) :=
  (State.CachesMove.foldl (fun s c => State.releaseCore_cachesMove s c) _ s).trans rfl

/-! Writes of global memory -/

/-- Bytes of global memory have been written: the reservations on their lines are gone (R172), and beside lines that moved nothing else
has changed. -/
structure State.MemWritten (s n : State) (pa : Nat) (bs : List Byte) : Prop where
  bytes    : Claims.Writes s.mem n.mem pa bs
  reserves : n.reserves = (s.clearReserves false pa bs.length).reserves
  rest     : ({ s with reserves := n.reserves, mem := n.mem, frameWrote := n.frameWrote } : State).CachesMove n

theorem State.CachesMove.memPut {s m : State} {pa : Nat} {bs : List Byte} (h : (s.clearReserves false pa bs.length).CachesMove m) :
    s.MemWritten (m.memPut pa bs) pa bs := by
  refine ⟨fun j => ?_, h.reserves, ?_⟩
  · rw [State.mem_memPut, h.mem]
    rfl
  · unfold State.CachesMove
    rw [State.memPut, h]
    rfl
theorem State.memEngine_written (s : State) (pa : Nat) (bs : List Byte) (mark : Option Nat) : s.MemWritten (s.memEngine pa bs mark) pa bs :=
  (State.CachesMove.foldl (fun s l => State.lineWritten_cachesMove s l mark) _ _).memPut
theorem State.CachesMove.memWritten {s m n : State} {pa : Nat} {bs : List Byte} (h : s.CachesMove m) (k : m.MemWritten n pa bs) :
    s.MemWritten n pa bs := by
  obtain ⟨hbytes, hreserves, hrest⟩ := k
  refine ⟨by rwa [h.mem] at hbytes, by rw [hreserves, State.clearReserves, h.reserves, State.clearReserves], ?_⟩
  unfold State.CachesMove at hrest ⊢
  rw [h] at hrest
  exact hrest
/-- A thread's store, on a line that its core then owns or through to the L2 (R290, R291, R308, R309). -/
theorem State.memStore_written (s : State) (pa : Nat) (bs : List Byte) (core cp : Nat) : s.MemWritten (s.memStore pa bs core cp) pa bs := by
  refine (State.l2Policy_cachesMove s pa bs.length cp).memWritten ?_
  unfold State.memStore
  dsimp only
  split
  · exact State.memEngine_written ..
  · refine (State.CachesMove.foldl (fun s l => ?_) _ _).memPut
    refine State.CachesMove.trans (b := if Tbl.find s.owners l == some core then s else (s.recall l).l2Touch l false) ?_ rfl
    split
    · exact .refl s
    · exact (State.recall_cachesOnly s l).cachesMove.trans (State.l2Touch_cachesMove ..)

section
variable {s n : State} {pa : Nat} {bs : List Byte} (h : s.MemWritten n pa bs)
include h
theorem State.MemWritten.threads : n.threads = s.threads := h.rest.threads
theorem State.MemWritten.near : n.near = s.near := h.rest.near
theorem State.MemWritten.merge : n.merge = s.merge := h.rest.merge
theorem State.MemWritten.wgs : n.wgs = s.wgs := h.rest.wgs
theorem State.MemWritten.launches : n.launches = s.launches := h.rest.launches
theorem State.MemWritten.reqs : n.reqs = s.reqs := h.rest.reqs
theorem State.MemWritten.traps : n.traps = s.traps := h.rest.traps
end
/-- No reservation of global memory stays on a line of the bytes written (R172). -/
theorem State.not_mem_clearReserves {s : State} {near : Bool} {a n : Nat} {r : Reserve} (h : r ∈ (s.clearReserves near a n).reserves)
    (hnear : r.near = near) : (linesOf a n).contains r.line = false := by
  have := (List.mem_filter.1 h).2
  simpa [hnear] using this

end Sys2Proof.Machine
end

section
/-! SUPPORT. Near bytes after a write, as threads see them and as engines do (R161, R164, R292, R306); what a write adds to the digest
(R282); with the obligation on stores that are performed. -/
namespace Sys2Proof.Machine

/-! Sets kept as lists -/

theorem mem_setErase {l : List Nat} {k j : Nat} : j ∈ setErase l k ↔ j ≠ k ∧ j ∈ l := by
  simp [setErase, and_comm]
theorem mem_foldl_setInsert (key n : Nat) (l : List Nat) (j : Nat) :
    j ∈ (List.range n).foldl (fun w i => setInsert w (key + i)) l ↔ (key ≤ j ∧ j < key + n) ∨ j ∈ l := by
  induction n with
  | zero => simp
  | succ n ih =>
    rw [List.range_succ, List.foldl_append, List.foldl_cons, List.foldl_nil, mem_setInsert, ih, ← or_assoc]
    exact or_congr_left (by omega)

/-! The slice arrays and the write-merge buffer -/

/-- What threads see: the write-merge buffer's byte, else the slice array's. -/
theorem State.nearSeen_eq (s : State) (a : Nat) : s.nearSeen a = ((Tbl.find s.merge a).map Prod.fst).getD (s.nearByte a) := by
  unfold State.nearSeen
  cases Tbl.find s.merge a <;> rfl
theorem State.nearByte_nearPut (s : State) (key a : Nat) (bs : List Byte) :
    (s.nearPut key bs).nearByte a = if key ≤ a ∧ a < key + bs.length then bs.getD (a - key) 0 else s.nearByte a := by
  have hwrote : (s.nearPut key bs).nearWrote.contains a = decide ((key ≤ a ∧ a < key + bs.length) ∨ a ∈ s.nearWrote) := by
    rw [List.contains_eq_mem]
    exact decide_eq_decide.2 (mem_foldl_setInsert key bs.length s.nearWrote a)
  have hepoch : (s.nearPut key bs).nearEpoch a = s.nearEpoch a := rfl
  simp only [State.nearByte, hwrote, hepoch, State.near_nearPut, decide_eq_true_eq, List.contains_eq_mem]
  by_cases h : key ≤ a ∧ a < key + bs.length
  · simp only [h, true_or, if_true, and_self]
  · simp only [h, false_or, if_false]
theorem State.find_merge_nearPut (s : State) (key a : Nat) (bs : List Byte) :
    Tbl.find (s.nearPut key bs).merge a = if key ≤ a ∧ a < key + bs.length then none else Tbl.find s.merge a := by
  refine (Tbl.find_filter_key s.merge (fun k => !(decide (key ≤ k) && decide (k < key + bs.length))) a).trans ?_
  by_cases h : key ≤ a ∧ a < key + bs.length
  · simp [h]
  · rw [if_neg h, if_pos]
    simp only [Bool.not_eq_true', Bool.and_eq_false_iff, decide_eq_false_iff_not]
    omega

/-- Entries of the buffer that move to the slice arrays, one after the other: the first of a byte stands. -/
theorem State.foldr_nearPut (l : Tbl (Byte × List Nat)) (s : State) (a : Nat) :
    (l.foldr (fun e s => s.nearPut e.1 [e.2.1]) s).nearByte a = ((Tbl.find l a).map Prod.fst).getD (s.nearByte a)
      ∧ Tbl.find (l.foldr (fun e s => s.nearPut e.1 [e.2.1]) s).merge a = if (Tbl.find l a).isSome then none else Tbl.find s.merge a := by
  induction l with
  | nil => exact ⟨rfl, rfl⟩
  | cons e l ih =>
    obtain ⟨j, b, ws⟩ := e
    obtain ⟨hbyte, hmerge⟩ := ih
    rw [List.foldr_cons, State.nearByte_nearPut, State.find_merge_nearPut, hbyte, hmerge]
    by_cases h : a = j
    · subst h
      simp [Tbl.find]
    · have hout : ¬ (j ≤ a ∧ a < j + [b].length) := by
        rw [List.length_singleton]
        omega
      rw [if_neg hout, if_neg hout, Tbl.find, if_neg h]
      exact ⟨rfl, rfl⟩

/-- A byte lies in a 16-byte block that a drain of the buffer takes (R164). -/
def State.drains (s : State) (p : Nat → Nat → Bool) (a : Nat) : Bool := s.merge.any (fun x => x.1 / 16 == a / 16 && x.2.2.any (p x.1))
theorem State.drainMerge_eq (s : State) (p : Nat → Nat → Bool) :
    s.drainMerge p = (s.merge.filter (fun e => s.drains p e.1)).foldr (fun e s => s.nearPut e.1 [e.2.1]) s := rfl
theorem State.find_drained (s : State) (p : Nat → Nat → Bool) (a : Nat) :
    Tbl.find (s.merge.filter (fun e => s.drains p e.1)) a = if s.drains p a then Tbl.find s.merge a else none := Tbl.find_filter_key ..
/-- The bytes of the blocks that a drain takes are in the slice arrays as threads saw them. -/
theorem State.nearByte_drainMerge (s : State) (p : Nat → Nat → Bool) (a : Nat) :
    (s.drainMerge p).nearByte a = if s.drains p a then s.nearSeen a else s.nearByte a := by
  rw [State.drainMerge_eq, (State.foldr_nearPut _ s a).1, State.find_drained, State.nearSeen_eq]
  split <;> rfl
theorem State.find_merge_drainMerge (s : State) (p : Nat → Nat → Bool) (a : Nat) :
    Tbl.find (s.drainMerge p).merge a = if s.drains p a then none else Tbl.find s.merge a := by
  rw [State.drainMerge_eq, (State.foldr_nearPut _ s a).2, State.find_drained]
  cases s.drains p a
  · rfl
  · cases h : Tbl.find s.merge a <;> simp
/-- A drain changes nothing that threads see (R164). -/
theorem State.nearSeen_drainMerge (s : State) (p : Nat → Nat → Bool) (a : Nat) : (s.drainMerge p).nearSeen a = s.nearSeen a := by
  rw [State.nearSeen_eq, State.find_merge_drainMerge, State.nearByte_drainMerge]
  split
  · rfl
  · rw [State.nearSeen_eq]

/-- Only near bytes, the write-merge buffer, writer marks and reservations have changed. -/
def State.NearMoves (s n : State) : Prop := n = { s with
  near := n.near, nearWrote := n.nearWrote, merge := n.merge, nearMarks := n.nearMarks, reserves := n.reserves }
theorem State.drainMerge_rest (s : State) (p : Nat → Nat → Bool) :
    s.drainMerge p = { s with near := (s.drainMerge p).near, nearWrote := (s.drainMerge p).nearWrote, merge := (s.drainMerge p).merge } := by
  rw [State.drainMerge_eq]
  generalize s.merge.filter (fun e => s.drains p e.1) = l
  induction l with
  | nil => rfl
  | cons e l ih => rw [List.foldr_cons, ih]; rfl
theorem State.nearOver_rest (s : State) (key : Nat) (bs : List Byte) : s.nearOver key bs
    = { s with near := (s.nearOver key bs).near, nearWrote := (s.nearOver key bs).nearWrote, merge := (s.nearOver key bs).merge } := by
  unfold State.nearOver
  rw [State.drainMerge_rest]
  rfl

/-- Bytes written into the slice arrays after every earlier store to their blocks (R164). -/
theorem State.nearOver_writes (s : State) (key : Nat) (bs : List Byte) : Claims.NearWrites s (s.nearOver key bs) key bs := by
  refine ⟨fun a => ?_, fun k hk => ?_, fun a ha => ?_⟩
  · rw [State.nearSeen_eq, State.nearOver, State.find_merge_nearPut, State.nearByte_nearPut]
    split
    · rfl
    · rw [← State.nearSeen_eq, State.nearSeen_drainMerge]
  · rw [State.nearOver, State.nearByte_nearPut, if_pos (by omega), Nat.add_sub_cancel_left]
  · rw [State.nearOver, State.nearByte_nearPut, if_neg (by omega), State.nearByte_drainMerge, if_neg]
    simp only [State.drains, List.any_eq_true, Bool.and_eq_true, beq_iff_eq, decide_eq_true_eq, not_exists, not_and]
    rintro x - hblock y - hlo hhi
    omega

/-- Bytes that enter the buffer: threads see them, and the slice arrays do not change (R164). -/
theorem State.foldl_insert_merge (bs : List Byte) (by_ key i : Nat) (m : Tbl (Byte × List Nat)) (a : Nat) :
    (Tbl.find ((bs.zipIdx i).foldl (fun m e => Tbl.insert m (key + e.2) (e.1, setInsert (mergeWriters m (key + e.2)) by_)) m) a).map Prod.fst
      = if key + i ≤ a ∧ a < key + i + bs.length then some (bs.getD (a - (key + i)) 0) else (Tbl.find m a).map Prod.fst := by
  induction bs generalizing i m with
  | nil =>
    rw [if_neg (by simp)]
    rfl
  | cons b bs ih =>
    rw [List.zipIdx_cons, List.foldl_cons, ih, Tbl.find_insert, List.length_cons]
    by_cases h1 : a = key + i
    · subst h1
      rw [if_neg (by omega), if_pos rfl, if_pos (by omega)]
      simp
    · by_cases h2 : key + (i + 1) ≤ a ∧ a < key + (i + 1) + bs.length
      · have hsub : a - (key + i) = a - (key + (i + 1)) + 1 := by omega
        rw [if_pos h2, if_pos (by omega), hsub, List.getD_cons_succ]
      · rw [if_neg h2, if_neg h1, if_neg (by omega)]
theorem State.nearSeen_mergePut (s : State) (key a by_ : Nat) (bs : List Byte) :
    (s.mergePut key bs by_).nearSeen a = if key ≤ a ∧ a < key + bs.length then bs.getD (a - key) 0 else s.nearSeen a := by
  have hbyte : (s.mergePut key bs by_).nearByte a = s.nearByte a := rfl
  have hmerge := State.foldl_insert_merge bs by_ key 0 s.merge a
  rw [State.nearSeen_eq, hbyte, State.nearSeen_eq, State.mergePut]
  dsimp only
  rw [hmerge, Nat.add_zero]
  split <;> rfl

/-- A thread's near store in the merge buffer. -/
theorem State.nearStore_merges (s : State) (key core by_ : Nat) (bs : List Byte) :
    s.NearMoves (s.nearStore key bs core by_ false) ∧ (s.nearStore key bs core by_ false).near = s.near
      ∧ (∀ a, (s.nearStore key bs core by_ false).nearByte a = s.nearByte a)
      ∧ ∀ a, (s.nearStore key bs core by_ false).nearSeen a = if key ≤ a ∧ a < key + bs.length then bs.getD (a - key) 0 else s.nearSeen a :=
  ⟨rfl, rfl, fun _ => rfl, fun a => State.nearSeen_mergePut ((s.clearReserves true key bs.length).markNear key bs.length (some core)) key a by_ bs⟩
theorem State.nearStore_drained (s : State) (key core by_ : Nat) (bs : List Byte) :
    s.nearStore key bs core by_ true = s.nearHome key bs (some core) := rfl
theorem State.nearHome_writes (s : State) (key : Nat) (bs : List Byte) (core : Option Nat) :
    s.NearMoves (s.nearHome key bs core) ∧ Claims.NearWrites s (s.nearHome key bs core) key bs := by
  constructor
  · unfold State.NearMoves State.nearHome
    rw [State.nearOver_rest]
    rfl
  · obtain ⟨hthreads, hengines, hothers⟩ := ((s.clearReserves true key bs.length).markNear key bs.length core).nearOver_writes key bs
    exact ⟨hthreads, hengines, hothers⟩
theorem State.nearHome_reserves (s : State) (key : Nat) (bs : List Byte) (core : Option Nat) :
    (s.nearHome key bs core).reserves = (s.clearReserves true key bs.length).reserves := by
  unfold State.nearHome
  rw [State.nearOver_rest]
  rfl

/-! The digest (R282) -/

/-- What a write of a request's bytes folds into the digest of its workgroup: at its address or, near, at the native form. -/
def State.foldDigest (s : State) (q : Req) (bs : List Byte) : State :=
  if q.near then s.digestNear q bs else s.digestStore q.thread.wg q.va.toNat bs q.quiet
/-- The address at which a request's bytes are folded. -/
def State.digestAddr (s : State) (w : Workgroup) (q : Req) : Nat := if q.near = true then (s.nativeNear w q.addr).toNat else q.va.toNat
theorem State.foldDigest_eq {s : State} {q : Req} {w : Workgroup} (bs : List Byte) (hw : s.wgOf q.thread = some w) :
    s.foldDigest q bs = s.digestStore q.thread.wg (s.digestAddr w q) bs q.quiet := by
  unfold State.foldDigest State.digestAddr State.digestNear
  rw [hw]
  split <;> rfl
theorem State.digestStore_none {s : State} {g : Nat} (a : Nat) (bs : List Byte) (quiet : Bool) (h : s.wg g = none) :
    s.digestStore g a bs quiet = s := by
  unfold State.digestStore
  rw [h]
  split <;> rfl
theorem State.digestStore_some {s : State} {g : Nat} {w : Workgroup} {l : Launch} (a : Nat) (bs : List Byte) (quiet : Bool)
    (hw : s.wg g = some w) (hl : s.launchOf w = some l) : s.digestStore g a bs quiet
      = if quiet = false ∧ 2 ≤ l.det then s.onWg g (fun w => { w with digest := w.digest + digestOf a bs }) else s := by
  unfold State.digestStore
  rw [hw, Option.bind_some, hl]
  cases quiet <;> simp
/-- Only digests have changed, and of one workgroup at most. -/
structure State.DigestOnly (s n : State) (g : Nat) : Prop where
  rest   : n = { s with wgs := n.wgs }
  others : ∀ k, k ≠ g → n.wg k = s.wg k
  epochs : ∀ a, n.nearEpoch a = s.nearEpoch a
theorem State.DigestOnly.refl (s : State) (g : Nat) : s.DigestOnly s g := ⟨rfl, fun _ _ => rfl, fun _ => rfl⟩
theorem State.allocAt_onWg (s : State) (g core off : Nat) {f : Workgroup → Workgroup}
    (hf : ∀ w, (f w).core = w.core ∧ (f w).base = w.base ∧ (f w).near = w.near) :
    (s.onWg g f).allocAt core off = (s.allocAt core off).map (fun e => if e.1 = g then (e.1, f e.2) else e) := by
  unfold State.allocAt State.onWg Tbl.modify
  rw [List.find?_map]
  congr 2
  funext e
  dsimp only [Function.comp_apply]
  split
  · obtain ⟨hcore, hbase, hnear⟩ := hf e.2
    simp only [Workgroup.nearSize, hcore, hbase, hnear]
    rfl
  · rfl
theorem State.nearEpoch_onWg (s : State) (g a : Nat) {f : Workgroup → Workgroup}
    (hf : ∀ w, (f w).core = w.core ∧ (f w).base = w.base ∧ (f w).near = w.near ∧ (f w).epoch = w.epoch) :
    (s.onWg g f).nearEpoch a = s.nearEpoch a := by
  unfold State.nearEpoch
  rw [State.allocAt_onWg s g _ _ fun w => ⟨(hf w).1, (hf w).2.1, (hf w).2.2.1⟩]
  cases s.allocAt (a / 2 ^ 19) (a % 2 ^ 19) with
  | none => rfl
  | some e =>
    simp only [Option.map_some]
    split <;> simp [(hf e.2).2.2.2]
theorem State.digestStore_only (s : State) (g a : Nat) (bs : List Byte) (quiet : Bool) : s.DigestOnly (s.digestStore g a bs quiet) g := by
  unfold State.digestStore
  split
  · exact .refl s g
  · split
    · split
      · exact ⟨rfl, fun k hk => State.wg_onWg_ne s _ hk, fun a => State.nearEpoch_onWg s g a fun _ => ⟨rfl, rfl, rfl, rfl⟩⟩
      · exact .refl s g
    · exact .refl s g
theorem State.foldDigest_only (s : State) (q : Req) (bs : List Byte) : s.DigestOnly (s.foldDigest q bs) q.thread.wg := by
  unfold State.foldDigest State.digestNear
  split
  · split
    · exact State.digestStore_only ..
    · exact .refl ..
  · exact State.digestStore_only ..
theorem State.DigestOnly.nearByte {s n : State} {g : Nat} (h : s.DigestOnly n g) (a : Nat) : n.nearByte a = s.nearByte a := by
  unfold State.nearByte
  rw [h.epochs, h.rest]
theorem State.DigestOnly.nearSeen {s n : State} {g : Nat} (h : s.DigestOnly n g) (a : Nat) : n.nearSeen a = s.nearSeen a := by
  rw [State.nearSeen_eq, State.nearSeen_eq, h.nearByte, h.rest]

/-- What the fold makes of the digest, where the write before it changed no workgroup and no launch. -/
theorem State.wg_foldDigest {s m : State} {q : Req} {w : Workgroup} {l : Launch} (bs : List Byte) (hwgs : m.wgs = s.wgs)
    (hlaunches : m.launches = s.launches) (hw : s.wgOf q.thread = some w) (hl : s.launchOf w = some l) :
    (m.foldDigest q bs).wg q.thread.wg = some (if q.quiet = false ∧ 2 ≤ l.det
      then { w with digest := w.digest + digestOf (s.digestAddr w q) bs } else w) := by
  have hmw : m.wg q.thread.wg = some w := by rw [State.wg, hwgs]; exact hw
  have hml : m.launchOf w = some l := by rw [State.launchOf, State.launch, hlaunches]; exact hl
  have haddr : m.digestAddr w q = s.digestAddr w q := by
    unfold State.digestAddr State.nativeNear
    rw [hml, hl]
  rw [State.foldDigest_eq bs hmw, haddr, State.digestStore_some _ bs _ hmw hml]
  split
  · rw [State.wg_onWg_self, hmw, Option.map_some]
  · exact hmw
theorem State.foldDigest_quiet {s m : State} {q : Req} (bs : List Byte) (hwgs : m.wgs = s.wgs) (hlaunches : m.launches = s.launches)
    (h : q.quiet = true ∨ ∀ w l, s.wgOf q.thread = some w → s.launchOf w = some l → l.det < 2) : m.foldDigest q bs = m := by
  have hmw : m.wgOf q.thread = s.wgOf q.thread := by rw [State.wgOf, State.wg, hwgs]; rfl
  cases hw : s.wgOf q.thread with
  | none =>
    rw [hw] at hmw
    unfold State.foldDigest State.digestNear
    rw [hmw]
    split
    · rfl
    · exact State.digestStore_none _ _ _ hmw
  | some w =>
    rw [hw] at hmw
    have hml : m.launchOf w = s.launchOf w := by rw [State.launchOf, State.launch, hlaunches]; rfl
    rw [State.foldDigest_eq bs hmw]
    cases hl : s.launchOf w with
    | none =>
      have hbind : (m.wg q.thread.wg).bind m.launchOf = none := by
        rw [show m.wg q.thread.wg = some w from hmw, Option.bind_some, hml, hl]
      unfold State.digestStore
      split
      · rfl
      · rw [hbind]
    | some l =>
      rw [State.digestStore_some _ bs _ hmw (hml.trans hl), if_neg]
      rintro ⟨hquiet, hdet⟩
      rcases h with h | h
      · rw [h] at hquiet; cases hquiet
      · have := h w l hw hl; omega

/-! Stores (R161, R290) -/

/-- The bytes of a store at their place. -/
def State.storeBytes (s : State) (q : Req) (drain : Bool) : State :=
  if q.near then s.nearStore q.addr q.data q.core (refKey q.thread) drain
  else (s.asFunction (s.reqPart q) q.addr q.data.length true).memStore q.addr q.data q.core q.cp
theorem exec_storePerformed {s : State} {id : Nat} {q : Req} {drain : Bool} (hreq : Tbl.find s.reqs id = some q) (hkind : q.kind = .store)
    (horder : s.inOrder id q = true) : exec (.storePerformed id drain) s
      = .next ((((s.storeBytes q drain).foldDigest q q.data).onThread q.thread (fun t => t.storeDone q.seq)).dropReq id) := by
  show execStorePerformed id drain s = _
  unfold execStorePerformed State.storeBytes State.foldDigest
  simp only [hreq, hkind, State.storePerformed, horder, Bool.not_true, Bool.false_eq_true, if_false]
  split <;> rfl
theorem State.storeBytes_global {s : State} {q : Req} (drain : Bool) (hnear : q.near = false) :
    s.MemWritten (s.storeBytes q drain) q.addr q.data := by
  unfold State.storeBytes
  rw [hnear, if_neg Bool.false_ne_true]
  exact (State.asFunction_cachesMove ..).memWritten (State.memStore_written ..)
theorem State.storeBytes_near {s : State} {q : Req} (drain : Bool) (hnear : q.near = true) :
    s.NearMoves (s.storeBytes q drain) ∧ (s.storeBytes q drain).reserves = (s.clearReserves true q.addr q.data.length).reserves
      ∧ (∀ a, (s.storeBytes q drain).nearSeen a
          = if q.addr ≤ a ∧ a < q.addr + q.data.length then q.data.getD (a - q.addr) 0 else s.nearSeen a)
      ∧ (drain = false → (s.storeBytes q drain).near = s.near ∧ ∀ a, (s.storeBytes q drain).nearByte a = s.nearByte a)
      ∧ (drain = true → Claims.NearWrites s (s.storeBytes q drain) q.addr q.data) := by
  unfold State.storeBytes
  rw [hnear, if_pos rfl]
  cases drain with
  | false =>
    obtain ⟨hmoves, hnears, hbytes, hseen⟩ := s.nearStore_merges q.addr q.core (refKey q.thread) q.data
    exact ⟨hmoves, rfl, hseen, fun _ => ⟨hnears, hbytes⟩, nofun⟩
  | true =>
    rw [State.nearStore_drained]
    obtain ⟨hmoves, hwrites⟩ := s.nearHome_writes q.addr q.data (some q.core)
    exact ⟨hmoves, s.nearHome_reserves .., hwrites.threads, nofun, fun _ => hwrites⟩
/-- A store's bytes change no thread, no workgroup and no launch. -/
theorem State.storeBytes_frame (s : State) (q : Req) (drain : Bool) : (s.storeBytes q drain).threads = s.threads
    ∧ (s.storeBytes q drain).wgs = s.wgs ∧ (s.storeBytes q drain).launches = s.launches ∧ (s.storeBytes q drain).reqs = s.reqs := by
  cases hnear : q.near with
  | false =>
    have h := s.storeBytes_global drain hnear
    exact ⟨h.threads, h.wgs, h.launches, h.reqs⟩
  | true =>
    have h := (s.storeBytes_near drain hnear).1
    exact ⟨by rw [h], by rw [h], by rw [h], by rw [h]⟩

/-- What a performed store leaves of global memory and of its reservations (R161, R172, R290). -/
theorem State.MemWritten.stored {s m : State} {pa : Nat} {bs : List Byte} (h : s.MemWritten m pa bs) :
    m.near = s.near ∧ m.merge = s.merge ∧ (∀ k, k < bs.length → Memory.read m.mem (pa + k) = bs.getD k 0)
      ∧ (∀ a, (a < pa ∨ pa + bs.length ≤ a) → Memory.read m.mem a = Memory.read s.mem a)
      ∧ ∀ r ∈ m.reserves, r.near = false → (linesOf pa bs.length).contains r.line = false := by
  refine ⟨h.near, h.merge, fun k hk => ?_, fun a ha => ?_, fun r hr hnear => ?_⟩
  · rw [h.bytes, if_pos (by omega), Nat.add_sub_cancel_left]
  · rw [h.bytes, if_neg (by omega)]
  · rw [h.reserves] at hr
    exact State.not_mem_clearReserves hr hnear
/-- The state after a store is performed: its bytes, the digest, the store counter and the request. -/
def State.stored (s : State) (id : Nat) (q : Req) (drain : Bool) : State :=
  (((s.storeBytes q drain).foldDigest q q.data).onThread q.thread (fun t => t.storeDone q.seq)).dropReq id
theorem State.stored_threads {s : State} {id : Nat} {q : Req} {drain : Bool} {t : Thread} (ht : s.thread q.thread = some t) :
    (s.stored id q drain).thread q.thread = some (t.storeDone q.seq)
      ∧ ∀ r, refKey r ≠ refKey q.thread → (s.stored id q drain).thread r = s.thread r := by
  have hsame : ∀ r, ((s.storeBytes q drain).foldDigest q q.data).thread r = s.thread r := fun r => by
    rw [(State.foldDigest_only ..).rest]
    exact congrArg (fun T => Tbl.find T (refKey r)) (s.storeBytes_frame q drain).1
  exact ⟨State.thread_onThread_some ((hsame _).trans ht) rfl, fun r hr => (State.thread_onThread_ne _ _ hr).trans (hsame r)⟩
theorem State.stored_fields (s : State) (id : Nat) (q : Req) (drain : Bool) :
    (s.stored id q drain).mem = (s.storeBytes q drain).mem ∧ (s.stored id q drain).near = (s.storeBytes q drain).near
      ∧ (s.stored id q drain).merge = (s.storeBytes q drain).merge ∧ (s.stored id q drain).reserves = (s.storeBytes q drain).reserves
      ∧ (∀ a, (s.stored id q drain).nearByte a = (s.storeBytes q drain).nearByte a)
      ∧ ∀ a, (s.stored id q drain).nearSeen a = (s.storeBytes q drain).nearSeen a := by
  have h := (s.storeBytes q drain).foldDigest_only q q.data
  refine ⟨?_, ?_, ?_, ?_, h.nearByte, h.nearSeen⟩ <;> · unfold State.stored; rw [h.rest]; rfl
theorem State.stored_global {s : State} {q : Req} (id : Nat) (drain : Bool) (hnear : q.near = false) :
    (s.stored id q drain).near = s.near ∧ (s.stored id q drain).merge = s.merge
      ∧ (∀ k, k < q.data.length → Memory.read (s.stored id q drain).mem (q.addr + k) = q.data.getD k 0)
      ∧ (∀ a, (a < q.addr ∨ q.addr + q.data.length ≤ a) → Memory.read (s.stored id q drain).mem a = Memory.read s.mem a)
      ∧ ∀ r ∈ (s.stored id q drain).reserves, r.near = false → (linesOf q.addr q.data.length).contains r.line = false := by
  obtain ⟨hmem, hnears, hmerge, hreserves, -, -⟩ := s.stored_fields id q drain
  rw [hmem, hnears, hmerge, hreserves]
  exact (State.storeBytes_global drain hnear).stored
theorem State.stored_near {s : State} {q : Req} (id : Nat) (drain : Bool) (hnear : q.near = true) :
    (s.stored id q drain).mem = s.mem ∧ (∀ k, k < q.data.length → (s.stored id q drain).nearSeen (q.addr + k) = q.data.getD k 0)
      ∧ (∀ a, (a < q.addr ∨ q.addr + q.data.length ≤ a) → (s.stored id q drain).nearSeen a = s.nearSeen a)
      ∧ (drain = false → (s.stored id q drain).near = s.near ∧ ∀ a, (s.stored id q drain).nearByte a = s.nearByte a)
      ∧ (drain = true → (∀ k, k < q.data.length → (s.stored id q drain).nearByte (q.addr + k) = q.data.getD k 0)
          ∧ ∀ a, (a < q.addr / 16 * 16 ∨ (q.addr + q.data.length + 15) / 16 * 16 ≤ a) → (s.stored id q drain).nearByte a = s.nearByte a)
      ∧ ∀ r ∈ (s.stored id q drain).reserves, r.near = true → (linesOf q.addr q.data.length).contains r.line = false := by
  obtain ⟨hmem, hnears, -, hreserves, hbyte, hseen⟩ := s.stored_fields id q drain
  obtain ⟨hmoves, hcleared, hthreads, hmerged, hdrained⟩ := State.storeBytes_near (s := s) drain hnear
  simp only [hmem, hnears, hreserves, hbyte, hseen]
  refine ⟨by rw [hmoves], fun k hk => ?_, fun a ha => ?_, hmerged, fun hd => ⟨(hdrained hd).engines, (hdrained hd).others⟩, fun r hr hnr => ?_⟩
  · rw [hthreads, if_pos (by omega), Nat.add_sub_cancel_left]
  · rw [hthreads, if_neg (by omega)]
  · rw [hcleared] at hr
    exact State.not_mem_clearReserves hr hnr

/-- Settles O23, with what a store's bytes change, global or near, and what the digest adds. -/
theorem storesPerform : Obligations.StoresPerform := by
  intro s id q t drain hreq hkind horder ht
  obtain ⟨-, hwgs, hlaunches, -⟩ := s.storeBytes_frame q drain
  obtain ⟨hself, hothers⟩ := State.stored_threads (id := id) (drain := drain) ht
  have honly := (s.storeBytes q drain).foldDigest_only q q.data
  refine ⟨s.stored id q drain, t.storeDone q.seq, exec_storePerformed hreq hkind horder, ?_, hself, rfl, hothers,
    State.stored_global id drain, State.stored_near id drain, fun w l hw hl hquiet hdet => ?_, fun h => ?_, fun g hg => ?_, ?_⟩
  · exact (Tbl.find_erase ..).trans (if_pos rfl)
  · refine (State.wg_foldDigest q.data hwgs hlaunches hw hl).trans ?_
    rw [if_pos ⟨hquiet, hdet⟩]
    rfl
  · exact (congrArg State.wgs (State.foldDigest_quiet q.data hwgs hlaunches h)).trans hwgs
  · exact (honly.others g hg).trans (congrArg (fun W => Tbl.find W g) hwgs)
  · unfold State.stored
    rw [honly.rest]
    exact hlaunches

end Sys2Proof.Machine
end

section
/-! SUPPORT. Full/empty operations at their word and at their slice (R165 to R168, R292, R297, R306); with the obligation on them. -/
namespace Sys2Proof.Machine

/-! Issue -/

theorem feLoads_eq_true {fn : Nat} : feLoads fn = true ↔ fn = 0 ∨ fn = 1 ∨ fn = 6 := by
  simp [feLoads, or_assoc]
theorem feLoads_eq_false {fn : Nat} : feLoads fn = false ↔ ¬ (fn = 0 ∨ fn = 1 ∨ fn = 6) := by
  rw [← feLoads_eq_true, Bool.not_eq_true]
theorem feStoresData_eq_true {fn : Nat} : feStoresData fn = true ↔ fn = 2 ∨ fn = 3 := by
  simp [feStoresData]
theorem feStoresData_eq_false {fn : Nat} : feStoresData fn = false ↔ ¬ (fn = 2 ∨ fn = 3) := by
  rw [← feStoresData_eq_true, Bool.not_eq_true]
theorem feAfter_eq {fn : Nat} (full : Bool) (h : fn < 7) : feAfter fn full = Claims.fullAfter fn full := by
  interval_cases fn <;> rfl

/-- R165: the words of full/empty operations do one thing. -/
theorem exec_fullEmptyWord {s : State} {t : Thread} {w : Workgroup} {i : Instr} {fn dest : Nat} {va : VReg} {data : List Byte} (hs : s.Issues [t])
    (run : s.Runs i t w) (hword : Claims.fullEmptyWord i t = some (fn, va, dest, data)) :
    exec i s = .next (s.feIssue t w fn va dest data).finish := by
  unfold Claims.fullEmptyWord at hword
  split at hword <;> cases hword <;> exact issueLanes_one hs run
/-- The thread that waits at its word keeps its registers and its word. -/
theorem Thread.waitFor_keeps (t : Thread) (id : Nat) (load : Bool) :
    Claims.Keeps t (t.waitFor id load (!load)) 0 0 ∧ (t.waitFor id load (!load)).pc = t.pc ∧ (t.waitFor id load (!load)).stall = .request id := by
  cases load <;> exact ⟨⟨fun k _ => by simp [Thread.waitFor, Thread.park, Thread.joinStore, Thread.getV],
    by simp [Thread.waitFor, Thread.park, Thread.joinStore]⟩, by simp [Thread.waitFor, Thread.park, Thread.joinStore], rfl⟩
theorem Thread.waitFor_counters (t : Thread) (id : Nat) (load : Bool) :
    (load = true → (t.waitFor id load (!load)).outLd = (t.nld + 1) :: t.outLd ∧ (t.waitFor id load (!load)).outSt = t.outSt)
      ∧ (load = false → (t.waitFor id load (!load)).outSt = (t.nst + 1) :: t.outSt ∧ (t.waitFor id load (!load)).outLd = t.outLd) := by
  cases load <;> simp [Thread.waitFor, Thread.park, Thread.joinStore]
/-- The state in which a thread waits for a request at its word, at the end of the issue (R166). -/
theorem State.startWaiting_issued {m : State} {t : Thread} (q : Req) (load store : Bool) (h : m.thread t.ref = some t) (htraps : m.traps = []) :
    Claims.OnlyRequests m (m.startWaiting t q load store).finish t (t.waitFor m.nextId load store)
      ∧ (m.startWaiting t q load store).finish.free = m.free ∧ (m.startWaiting t q load store).finish.nextId = m.nextId + 1
      ∧ (m.startWaiting t q load store).finish.reqs
          = Tbl.insert m.reqs m.nextId { q with seq := if load then t.nld + 1 else if store then t.nst + 1 else 0 } := by
  obtain ⟨hthread, hothers, hrest⟩ := m.startWaiting_spec t q load store h
  have hfinish := State.finish_quiet (s := m.startWaiting t q load store) (by rw [hrest]; exact htraps)
  rw [hfinish]
  refine ⟨⟨hthread, hothers, ?_⟩, ?_, ?_, ?_⟩
  all_goals rw [hrest]

/-- R165, R166: a word that passes its checks waits for its request. -/
theorem fullEmptyIssues {s : State} {t : Thread} {w : Workgroup} {i : Instr} {fn dest key target : Nat} {va : VReg} {data : List Byte}
    (hs : s.Issues [t]) (run : s.Runs i t w) (hword : Claims.fullEmptyWord i t = some (fn, va, dest, data))
    (hkey : s.checkNear t.ref.wg t.handler (t.getV va.toNat) 4 4 = .ok (key, target)) :
    ∃ n u q, exec i s = .next n ∧ Claims.OnlyRequests s n t u ∧ Claims.Keeps t u 0 0 ∧ u.pc = t.pc ∧ u.stall = .request s.nextId
      ∧ n.free = s.free ∧ n.nextId = s.nextId + 1 ∧ n.reqs = Tbl.insert s.reqs s.nextId q ∧ q.data = data
      ∧ (feLoads fn = true → u.outLd = (t.nld + 1) :: t.outLd ∧ u.outSt = t.outSt)
      ∧ (feLoads fn = false → u.outSt = (t.nst + 1) :: t.outSt ∧ u.outLd = t.outLd)
      ∧ Claims.RequestIs q t w (.fullEmpty fn) true key 4 dest (if feLoads fn then t.nld + 1 else t.nst + 1) := by
  have hissue : s.feIssue t w fn va dest data = s.startWaiting t { newReq t w (.fullEmpty fn) true key ((t.getV va.toNat).zeroExtend 64) 4 with
      data := data, dest := dest } (feLoads fn) (!feLoads fn) := State.nearAccess_ok hkey
  have hexec := exec_fullEmptyWord hs run hword
  rw [hissue] at hexec
  obtain ⟨honly, hfree, hid, hreqs⟩ := State.startWaiting_issued
    { newReq t w (.fullEmpty fn) true key ((t.getV va.toNat).zeroExtend 64) 4 with data := data, dest := dest }
    (feLoads fn) (!feLoads fn) (hs.resident t (by simp)) hs.settled
  obtain ⟨hkeeps, hpc, hstall⟩ := t.waitFor_keeps s.nextId (feLoads fn)
  obtain ⟨hload, hstore⟩ := t.waitFor_counters s.nextId (feLoads fn)
  refine ⟨_, _, _, hexec, honly, hkeeps, hpc, hstall, hfree, hid, hreqs, rfl, hload, hstore, rfl, ⟨rfl, rfl, rfl⟩, ⟨rfl, rfl, rfl⟩, ⟨rfl, ?_⟩, rfl, rfl⟩
  cases feLoads fn <;> rfl

/-! At the slice -/

theorem State.isFull_eq (s : State) (key : Nat) : s.isFull key = !s.empties.contains (key / 4) := rfl
theorem State.contains_setFull (s : State) (key k : Nat) (full : Bool) :
    (s.setFull key full).empties.contains k = if k = key / 4 then !full else s.empties.contains k := by
  rw [List.contains_eq_mem, List.contains_eq_mem]
  cases full <;> by_cases h : k = key / 4 <;> simp [State.setFull, mem_setInsert, mem_setErase, h]

/-- What an operation does beside the bit and its thread: a load acquires, STNE and STNF store at the slice (R292, R297). -/
def State.feWork (s : State) (q : Req) (fn : Nat) : State :=
  let s := if feLoads fn && fn != 6 then (s.gatherNear q.core q.addr).acquireWide q.core else s
  if feStoresData fn then (s.nearHome q.addr q.data (some q.core)).digestNear q q.data else s
/-- The word that an operation gives its thread: FEQ the bit, the others the memory word (R165). -/
def State.feValue (s : State) (q : Req) (fn : Nat) : Word :=
  if fn = 6 then (if s.isFull q.addr then 1 else 0) else BitVec.ofNat 32 (leNat (s.nearLoad q.addr 4))
/-- The operation is performed. -/
def State.feEnd (s : State) (id : Nat) (q : Req) (fn : Nat) : State :=
  (((s.feWork q fn).setFull q.addr (feAfter fn (s.isFull q.addr))).onThread q.thread (fun t => t.feDone q fn (s.feValue q fn))).dropReq id
theorem State.fePerform_clean {s : State} {q : Req} {fn : Nat} (id : Nat) (h : (feLoads fn && s.nearPoisoned q.addr 4) = false) :
    s.fePerform id q fn = s.feEnd id q fn := by
  simp only [State.fePerform, h, Bool.false_eq_true, if_false]
  rfl
theorem State.fePerform_poisoned {s : State} {q : Req} {t : Thread} {fn : Nat} (id : Nat) (ht : s.thread q.thread = some t)
    (h : (feLoads fn && s.nearPoisoned q.addr 4) = true) :
    s.fePerform id q fn = ((s.dropReq id).onThread q.thread (fun u => u.dropReq q)).trapData t 0x08 2 q.va := by
  simp only [State.fePerform, h, if_true, ht]
  rfl

/-- Only what a full/empty operation works on has changed: caches, near bytes and digests, no thread, bit, request or trap. -/
structure State.FeWorks (s n : State) (g : Nat) : Prop where
  rest   : n = { s with
    cores := n.cores, owners := n.owners, marks := n.marks, l2 := n.l2, l2cp := n.l2cp, acts := n.acts, ctlbs := n.ctlbs, ptrs := n.ptrs,
    free := n.free, sent := n.sent, near := n.near, nearWrote := n.nearWrote, merge := n.merge, nearMarks := n.nearMarks,
    reserves := n.reserves, wgs := n.wgs }
  others : ∀ k, k ≠ g → n.wg k = s.wg k
theorem State.feWork_moves {s : State} {q : Req} {fn : Nat} (h : feStoresData fn = false) : s.CachesMove (s.feWork q fn) := by
  simp only [State.feWork, h, Bool.false_eq_true, if_false]
  split
  · exact (State.gather_cachesMove ..).trans (State.acquireWide_cachesMove ..)
  · exact .refl s
theorem State.feWork_stores {s : State} {q : Req} {fn : Nat} (h : feStoresData fn = true) (hnear : q.near = true) :
    s.feWork q fn = (s.nearHome q.addr q.data (some q.core)).foldDigest q q.data := by
  have hload : feLoads fn = false := by
    rcases feStoresData_eq_true.1 h with rfl | rfl <;> rfl
  simp only [State.feWork, State.foldDigest, h, hload, hnear, Bool.false_and, Bool.false_eq_true, if_false, if_true]
theorem State.feWork_works {s : State} {q : Req} (fn : Nat) (hnear : q.near = true) : s.FeWorks (s.feWork q fn) q.thread.wg := by
  cases h : feStoresData fn with
  | false =>
    have hmoves := State.feWork_moves (s := s) (q := q) h
    refine ⟨?_, fun k _ => hmoves.wg k⟩
    rw [hmoves]
  | true =>
    obtain ⟨hmoves, -⟩ := s.nearHome_writes q.addr q.data (some q.core)
    have honly := (s.nearHome q.addr q.data (some q.core)).foldDigest_only q q.data
    rw [State.feWork_stores h hnear]
    refine ⟨?_, fun k hk => (honly.others k hk).trans (by rw [hmoves]; rfl)⟩
    rw [honly.rest, hmoves]
/-- The bytes that STNE and STNF leave, for threads and for engines (R165, R292). -/
theorem State.feWork_bytes {s : State} {q : Req} {fn : Nat} (h : feStoresData fn = true) (hnear : q.near = true) :
    Claims.NearWrites s (s.feWork q fn) q.addr q.data := by
  obtain ⟨-, hthreads, hengines, hothers⟩ := s.nearHome_writes q.addr q.data (some q.core)
  have honly := (s.nearHome q.addr q.data (some q.core)).foldDigest_only q q.data
  rw [State.feWork_stores h hnear]
  exact ⟨fun a => (honly.nearSeen a).trans (hthreads a), fun k hk => (honly.nearByte _).trans (hengines k hk),
    fun a ha => (honly.nearByte a).trans (hothers a ha)⟩

section
variable {s : State} {q : Req} (id fn : Nat)
theorem State.feEnd_fields : (s.feEnd id q fn).mem = (s.feWork q fn).mem ∧ (s.feEnd id q fn).near = (s.feWork q fn).near
    ∧ (s.feEnd id q fn).wgs = (s.feWork q fn).wgs ∧ (s.feEnd id q fn).launches = (s.feWork q fn).launches
    ∧ (s.feEnd id q fn).ops = (s.feWork q fn).ops ∧ (s.feEnd id q fn).traps = (s.feWork q fn).traps
    ∧ (s.feEnd id q fn).reqs = Tbl.erase (s.feWork q fn).reqs id ∧ (∀ a, (s.feEnd id q fn).nearSeen a = (s.feWork q fn).nearSeen a)
    ∧ ∀ a, (s.feEnd id q fn).nearByte a = (s.feWork q fn).nearByte a :=
  ⟨rfl, rfl, rfl, rfl, rfl, rfl, rfl, fun _ => rfl, fun _ => rfl⟩
theorem State.feEnd_empties (hnear : q.near = true) (k : Nat) : (s.feEnd id q fn).empties.contains k
    = if k = q.addr / 4 then !feAfter fn (s.isFull q.addr) else s.empties.contains k := by
  have hempties : (s.feWork q fn).empties = s.empties := by rw [(State.feWork_works fn hnear).rest]
  refine (State.contains_setFull ..).trans ?_
  rw [hempties]
theorem Thread.feDone_ref (t : Thread) (q : Req) (fn : Nat) (x : Word) : (t.feDone q fn x).ref = t.ref := by
  simp only [Thread.feDone]
  split <;> exact Thread.advance_ref _
theorem State.feEnd_thread (hnear : q.near = true) (r : ThreadRef) : (s.feEnd id q fn).thread r
    = if refKey r = refKey q.thread then (s.thread r).map (fun t => t.feDone q fn (s.feValue q fn)) else s.thread r := by
  have hthreads : ∀ r, ((s.feWork q fn).setFull q.addr (feAfter fn (s.isFull q.addr))).thread r = s.thread r := fun r => by
    rw [(State.feWork_works fn hnear).rest]
    rfl
  by_cases h : refKey r = refKey q.thread
  · rw [if_pos h]
    have hself := State.thread_onThread_self ((s.feWork q fn).setFull q.addr (feAfter fn (s.isFull q.addr))) q.thread
      (fun t => t.feDone q fn (s.feValue q fn))
    have hr : ∀ m : State, m.thread r = m.thread q.thread := fun m => by rw [State.thread, h]; rfl
    rw [hr, hr]
    refine hself.trans ?_
    rw [hthreads]
    refine Option.map_congr fun t _ => ?_
    exact Thread.kept_eq (Thread.feDone_ref ..)
  · rw [if_neg h]
    exact (State.thread_onThread_ne _ _ h).trans (hthreads r)
end

/-- The thread of an operation that is performed goes on at the next word (R166). -/
theorem Thread.feDone_spec (t : Thread) (q : Req) (fn : Nat) (x : Word) :
    (t.feDone q fn x).pc = t.pc + 4 ∧ (t.feDone q fn x).stall = .none ∧ (t.feDone q fn x).p = t.p ∧ (t.feDone q fn x).h = t.h
      ∧ (feLoads fn = true → (t.feDone q fn x).getV q.dest = x)
      ∧ ∀ k, (k ≠ q.dest ∨ feLoads fn = false) → (t.feDone q fn x).getV k = t.getV k := by
  cases h : feLoads fn with
  | true =>
    have hget : ∀ k, (t.feDone q fn x).getV k = (t.setV q.dest x).getV k := fun k => by
      simp only [Thread.feDone, h, if_true, Thread.getV_advance]
      rfl
    refine ⟨by simp [Thread.feDone, h], by simp [Thread.feDone, h], by simp [Thread.feDone, h], by simp [Thread.feDone, h],
      fun _ => (hget _).trans (Thread.getV_setV_self ..), fun k hk => (hget k).trans (Thread.getV_setV_ne _ _ ?_)⟩
    exact hk.resolve_right nofun
  | false =>
    refine ⟨by simp [Thread.feDone, h, Thread.storeDone], by simp [Thread.feDone, h], by simp [Thread.feDone, h, Thread.storeDone],
      by simp [Thread.feDone, h, Thread.storeDone], nofun, fun k _ => ?_⟩
    simp only [Thread.feDone, h, Bool.false_eq_true, if_false, Thread.getV_advance]
    rfl

/-! Arrival and parking (R167) -/

theorem State.serveParked_none {s : State} {key : Nat} (fuel : Nat) (h : ∀ e ∈ s.reqs, e.2.parked = true → e.2.addr ≠ key) :
    s.serveParked fuel key = s := by
  have hnone : s.nextParked key = none := by
    unfold State.nextParked
    rw [List.findSome?_eq_none_iff]
    intro e he
    split
    · have := h e he
      rw [if_neg]
      simp only [Bool.and_eq_true, beq_iff_eq, not_and]
      rintro ⟨hparked, haddr⟩
      exact absurd haddr (this hparked)
    · rfl
  cases fuel with
  | zero => rfl
  | succ f => rw [State.serveParked, hnone]
/-- Where no operation is parked on the word, one that can perform is the only one served. -/
theorem exec_fullEmptyPerform {s m : State} {id fn : Nat} {q : Req} (hreq : Tbl.find s.reqs id = some q) (hkind : q.kind = .fullEmpty fn)
    (hfree : ∀ e ∈ s.reqs, e.2.parked = true → e.2.addr ≠ q.addr) (hparked : q.parked = false) (horder : s.inOrder id q = true)
    (hreleased : s.feReleased q fn = true) (hready : feReady fn (s.isFull q.addr) = true) (hm : s.fePerform id q fn = m)
    (hreqs : m.reqs = Tbl.erase s.reqs id) : exec (.fullEmptyPerform id) s = .next m.settleTraps := by
  show execFullEmptyPerform id s = _
  unfold execFullEmptyPerform
  simp only [hreq, hkind, State.feArrive, hparked, horder, hreleased, hready, Bool.not_true, Bool.or_false, Bool.false_eq_true, if_false,
    if_true, hm]
  rw [State.serveParked_none]
  rw [hreqs]
  exact fun e he => hfree e (List.mem_of_mem_filter he)
theorem exec_fullEmptyPark {s : State} {id fn : Nat} {q : Req} {t : Thread} (hreq : Tbl.find s.reqs id = some q) (hkind : q.kind = .fullEmpty fn)
    (htraps : s.traps = []) (hparked : q.parked = false) (horder : s.inOrder id q = true) (hreleased : s.feReleased q fn = true)
    (hready : feReady fn (s.isFull q.addr) = false) (ht : s.thread q.thread = some t) :
    ∃ n, exec (.fullEmptyPerform id) s = .next n ∧ n = { s with threads := n.threads, reqs := n.reqs, nextId := s.nextId + 1 }
      ∧ n.thread q.thread = some { t with stall := .request s.nextId } ∧ (∀ r, refKey r ≠ refKey q.thread → n.thread r = s.thread r)
      ∧ n.reqs = Tbl.insert (Tbl.erase s.reqs id) s.nextId { q with parked := true } := by
  refine ⟨{ s.onThread q.thread (fun t => { t with stall := .request s.nextId }) with
    reqs := Tbl.insert (Tbl.erase s.reqs id) s.nextId { q with parked := true }, nextId := s.nextId + 1 }, ?_, rfl,
    State.thread_onThread_some (f := fun t => { t with stall := .request s.nextId }) ht rfl, fun r hr => State.thread_onThread_ne s _ hr, rfl⟩
  show execFullEmptyPerform id s = _
  unfold execFullEmptyPerform
  simp only [hreq, hkind, State.feArrive, hparked, horder, hreleased, hready, Bool.not_true, Bool.or_false, Bool.false_eq_true, if_false]
  exact congrArg _ (State.settleTraps_quiet htraps)
theorem State.feReleased_of {s : State} {q : Req} {t : Thread} {fn : Nat} (ht : s.thread q.thread = some t)
    (h : feStoresData fn = true → t.outLd = [] ∧ t.outSt = [q.seq]) : s.feReleased q fn = true := by
  unfold State.feReleased
  rw [ht]
  cases hfn : feStoresData fn with
  | false => rfl
  | true =>
    obtain ⟨hld, hst⟩ := h hfn
    simp [hld, hst]

theorem State.feReady_of {s : State} {key fn : Nat} (hfull : fn = 0 ∨ fn = 1 → s.empties.contains (key / 4) = false)
    (hempty : fn = 2 → s.empties.contains (key / 4) = true) : feReady fn (s.isFull key) = true := by
  rw [State.isFull_eq]
  match fn with
  | 0 => rw [hfull (.inl rfl)]; rfl
  | 1 => rw [hfull (.inr rfl)]; rfl
  | 2 => rw [hempty rfl]; rfl
  | _ + 3 => rfl

/-- Settles O24: at its word, performed, parked, and on a poisoned span. -/
theorem fullEmpty : Obligations.FullEmpty := by
  refine ⟨?_, ?_, ?_, ?_⟩
  · intro s t w i fn dest key target va data hs run hword hkey load
    obtain ⟨n, u, q, hexec, honly, hkeeps, hpc, hstall, hfree, hid, hreqs, hdata, hload, hstore, his⟩ := fullEmptyIssues hs run hword hkey
    refine ⟨n, u, q, hexec, honly, hkeeps, hpc, hstall, hfree, hid, hreqs, hdata, fun h => hload (feLoads_eq_true.2 h),
      fun h => hstore (feLoads_eq_false.2 h), ?_⟩
    simpa only [feLoads_eq_true] using his
  · intro s id fn q t hreq hkind hfn htraps hfree hparked horder hnear hclean ht hfull hempty hdata _
    have hworks := State.feWork_works (s := s) fn hnear
    obtain ⟨hmem, hnearEq, hwgs, hlaunches, hops, htrapsEq, hreqs, hseen, hbyte⟩ := s.feEnd_fields (q := q) id fn
    obtain ⟨hpc, hstall, hp, hh, hdest, hkeeps⟩ := t.feDone_spec q fn (s.feValue q fn)
    have hreqs' : (s.feEnd id q fn).reqs = Tbl.erase s.reqs id := by rw [hreqs, hworks.rest]
    have hreleased : s.feReleased q fn = true := State.feReleased_of ht fun h => by
      obtain ⟨hld, hst, -⟩ := hdata (feStoresData_eq_true.1 h)
      exact ⟨hld, hst⟩
    have hunpoisoned : (feLoads fn && s.nearPoisoned q.addr 4) = false := by
      cases h : feLoads fn
      · rfl
      · exact hclean (feLoads_eq_true.1 h)
    have hexec := exec_fullEmptyPerform hreq hkind hfree hparked horder hreleased (State.feReady_of hfull hempty)
      (State.fePerform_clean id hunpoisoned) hreqs'
    have htraps' : (s.feEnd id q fn).traps = [] := by rw [htrapsEq, hworks.rest]; exact htraps
    rw [State.settleTraps_quiet htraps'] at hexec
    refine ⟨_, _, hexec, ?_, (State.feEnd_thread id fn hnear q.thread).trans ?_, hpc, hstall, fun h => ?_, fun h => ?_, fun k hk => hkeeps k ?_,
      hp, hh, fun h k hk => ?_, fun a ha => ?_, fun h => ?_, ?_, fun k hk => ?_, fun r hr => ?_, ?_, ?_, ?_, fun g hg => hworks.others g hg⟩
    · rw [hreqs', Tbl.find_erase, if_pos rfl]
    · rw [if_pos rfl, ht, Option.map_some]
    · rw [hdest (feLoads_eq_true.2 (by omega)), State.feValue, if_neg (by omega)]
    · rw [hdest (feLoads_eq_true.2 (by omega)), State.feValue, if_pos h, State.isFull_eq]
      cases s.empties.contains (q.addr / 4) <;> rfl
    · exact hk.imp_right fun h => feLoads_eq_false.2 (by omega)
    · obtain ⟨-, -, hlength⟩ := hdata h
      have hwrites := State.feWork_bytes (s := s) (feStoresData_eq_true.2 h) hnear
      rw [hseen, hbyte, hwrites.threads, if_pos (by omega), Nat.add_sub_cancel_left]
      exact ⟨rfl, hwrites.engines k (by omega)⟩
    · rw [hseen]
      cases hstores : feStoresData fn with
      | false => exact (State.feWork_moves hstores).nearSeen a
      | true =>
        have h23 := feStoresData_eq_true.1 hstores
        obtain ⟨-, -, hlength⟩ := hdata h23
        rw [(State.feWork_bytes hstores hnear).threads, if_neg (by omega)]
    · have hmoves := State.feWork_moves (s := s) (q := q) (feStoresData_eq_false.2 (by omega : ¬ (fn = 2 ∨ fn = 3)))
      exact ⟨hnearEq.trans hmoves.near, hwgs.trans hmoves.wgs⟩
    · rw [State.feEnd_empties id fn hnear, if_pos rfl, feAfter_eq _ hfn, State.isFull_eq]
    · rw [State.feEnd_empties id fn hnear, if_neg hk]
    · rw [State.feEnd_thread id fn hnear, if_neg hr]
    · rw [hmem, hworks.rest]
    · rw [hlaunches, hworks.rest]
    · rw [hops, hworks.rest]
  · intro s id fn q t hreq hkind htraps hparked horder ht hwaits
    refine exec_fullEmptyPark hreq hkind htraps hparked horder (State.feReleased_of ht fun h => ?_) ?_ ht
    · have h23 := feStoresData_eq_true.1 h
      obtain ⟨h01, -⟩ | ⟨-, -, hld, hst⟩ := hwaits
      · omega
      · exact ⟨hld, hst⟩
    · rw [State.isFull_eq]
      obtain ⟨rfl | rfl, hempty⟩ | ⟨rfl, hempty, -⟩ := hwaits <;> rw [hempty] <;> rfl
  · intro s id fn q t hreq hkind hloads hfree hparked horder ht hfull hpoisoned
    have hload := feLoads_eq_true.2 hloads
    have hdrop : (fun u : Thread => u.dropReq q) = fun u => { u with stall := .none, outLd := u.outLd.filter (· != q.seq) } := by
      funext u
      rcases hloads with rfl | rfl | rfl <;> simp [Thread.dropReq, hkind, ReqKind.loading, ReqKind.storing]
    refine exec_fullEmptyPerform hreq hkind hfree hparked horder (State.feReleased_of ht fun h => ?_)
      (State.feReady_of hfull fun h => ?_) ?_ rfl
    · have h23 := feStoresData_eq_true.1 h
      omega
    · omega
    · rw [State.fePerform_poisoned id ht (by rw [hload, hpoisoned]; rfl), hdrop]
      rfl

end Sys2Proof.Machine
end

section
/-! SUPPORT. A request at its home: the word made or left, the reservation, the record of a poisoned word, and its reply (R171, R172, R282,
R317, R318, R376, R384); with the obligation on atomics that are served. -/
namespace Sys2Proof.Machine

/-! The word -/

/-- The home has made the word of a request `new`, or left it, and has answered nobody yet. -/
structure State.WordMade (s n : State) (q : Req) (new : Option Word) : Prop where
  word     : Claims.WordBecomes s n q new
  threads  : n.threads = s.threads
  reqs     : n.reqs = s.reqs
  launches : n.launches = s.launches
  groups   : ∀ g, g ≠ q.thread.wg → n.wg g = s.wg g
  digest   : ∀ x w l, new = some x → s.wgOf q.thread = some w → s.launchOf w = some l →
    n.wg q.thread.wg = some (if q.quiet = false ∧ 2 ≤ l.det
      then { w with digest := w.digest + digestOf (s.digestAddr w q) (leBytes 4 x.toNat) } else w)
  unread   : new = none → n.wgs = s.wgs

/-- A request whose home leaves its word. -/
theorem State.WordMade.left {s n : State} (q : Req) (hmem : n.mem = s.mem) (hnear : n.near = s.near) (hmerge : n.merge = s.merge)
    (hseen : ∀ a, n.nearSeen a = s.nearSeen a) (hthreads : n.threads = s.threads) (hreqs : n.reqs = s.reqs)
    (hlaunches : n.launches = s.launches) (hwgs : n.wgs = s.wgs) : s.WordMade n q none := by
  refine ⟨?_, hthreads, hreqs, hlaunches, fun g _ => by rw [State.wg, hwgs]; rfl, fun _ _ _ h => (nomatch h), fun _ => hwgs⟩
  unfold Claims.WordBecomes
  cases q.near with
  | true => exact ⟨hmem, hseen, fun _ => hnear, fun _ h => nomatch h⟩
  | false => exact ⟨hnear, hmerge, fun a => by rw [hmem]⟩
theorem State.CachesMove.wordMade {s n : State} (h : s.CachesMove n) (q : Req) : s.WordMade n q none :=
  State.WordMade.left q h.mem h.near h.merge (fun a => h.nearSeen a) h.threads h.reqs h.launches h.wgs

theorem State.homeWrite_eq (s : State) (q : Req) (x : Word) : s.homeWrite q x
    = (if q.near then s.nearHome q.addr (leBytes 4 x.toNat) (some q.core) else s.memEngine q.addr (leBytes 4 x.toNat) (some q.core)).foldDigest q
        (leBytes 4 x.toNat) := by
  unfold State.homeWrite State.foldDigest
  dsimp only
  split <;> rfl
/-- The bytes of the word at their place, before the digest. -/
theorem State.homeBytes_made {s m : State} {q : Req} (x : Word) (h : s.CachesMove m) :
    let n := if q.near then m.nearHome q.addr (leBytes 4 x.toNat) (some q.core) else m.memEngine q.addr (leBytes 4 x.toNat) (some q.core)
    Claims.WordBecomes s n q (some x) ∧ n.threads = s.threads ∧ n.reqs = s.reqs ∧ n.launches = s.launches ∧ n.wgs = s.wgs := by
  have hlength := leBytes_length 4 x.toNat
  cases hnear : q.near with
  | true =>
    obtain ⟨hmoves, hthreads, hengines, -⟩ := m.nearHome_writes q.addr (leBytes 4 x.toNat) (some q.core)
    rw [hlength] at hthreads hengines
    simp only [if_true]
    refine ⟨?_, by rw [hmoves]; exact h.threads, by rw [hmoves]; exact h.reqs, by rw [hmoves]; exact h.launches, by rw [hmoves]; exact h.wgs⟩
    unfold Claims.WordBecomes
    rw [hnear, if_pos rfl]
    refine ⟨by rw [hmoves]; exact h.mem, fun a => ?_, nofun, fun y hy k hk => ?_⟩
    · rw [hthreads, h.nearSeen]
    · cases hy
      exact hengines k hk
  | false =>
    have hwritten := h.memWritten (m.memEngine_written q.addr (leBytes 4 x.toNat) (some q.core))
    simp only [Bool.false_eq_true, if_false]
    refine ⟨?_, hwritten.threads, hwritten.reqs, hwritten.launches, hwritten.wgs⟩
    unfold Claims.WordBecomes
    rw [hnear, if_neg Bool.false_ne_true]
    have hbytes := hwritten.bytes
    rw [Claims.Writes, hlength] at hbytes
    exact ⟨hwritten.near, hwritten.merge, hbytes⟩
/-- What a fold of the digest leaves of the word. -/
theorem State.DigestOnly.wordBecomes {s m n : State} {g : Nat} {q : Req} {new : Option Word} (h : m.DigestOnly n g)
    (hword : Claims.WordBecomes s m q new) : Claims.WordBecomes s n q new := by
  have hmem : n.mem = m.mem := by rw [h.rest]
  have hnear : n.near = m.near := by rw [h.rest]
  have hmerge : n.merge = m.merge := by rw [h.rest]
  unfold Claims.WordBecomes at *
  simp only [hmem, hnear, hmerge, h.nearSeen, h.nearByte]
  exact hword
/-- R171, R282: the home writes the word of a request, once lines have moved to it. -/
theorem State.homeWrite_made {s m : State} (q : Req) (x : Word) (h : s.CachesMove m) : s.WordMade (m.homeWrite q x) q (some x) := by
  rw [State.homeWrite_eq]
  obtain ⟨hword, hthreads, hreqs, hlaunches, hwgs⟩ := State.homeBytes_made (q := q) x h
  generalize (if q.near then m.nearHome q.addr (leBytes 4 x.toNat) (some q.core) else m.memEngine q.addr (leBytes 4 x.toNat) (some q.core)) = n at *
  have honly := n.foldDigest_only q (leBytes 4 x.toNat)
  refine ⟨honly.wordBecomes hword, by rw [honly.rest]; exact hthreads, by rw [honly.rest]; exact hreqs, by rw [honly.rest]; exact hlaunches,
    fun g hg => (honly.others g hg).trans (congrArg (fun W => Tbl.find W g) hwgs), fun y w l hy hw hl => ?_, nofun⟩
  cases hy
  exact State.wg_foldDigest _ hwgs hlaunches hw hl

theorem redNew_eq (op : RedOp) (a b : Word) : redNew op a b = Claims.reduced op a b := by
  cases op with
  | min => simp only [redNew, Claims.reduced, BitVec.slt_iff_toInt_lt, ← not_lt, ite_not]
  | max =>
    simp only [redNew, Claims.reduced, BitVec.slt_iff_toInt_lt]
    split_ifs with hle hlt hlt
    · rfl
    · exact BitVec.toInt_inj.1 (by omega)
    · omega
    · rfl
  | minu => simp only [redNew, Claims.reduced, BitVec.lt_def, ← not_lt, ite_not]
  | maxu =>
    simp only [redNew, Claims.reduced, BitVec.lt_def]
    split_ifs with hle hlt hlt
    · rfl
    · exact BitVec.toNat_inj.1 (by omega)
    · omega
    · rfl
  | _ => rfl
theorem atomNew_eq (op : AtomOp) (a b c : Word) : atomNew op a b c = Claims.swapped op a b c := by
  cases op <;> simp only [atomNew, Claims.swapped, redNew_eq]

/-! Answers -/

section
variable {s n : State} {q : Req} {id : Nat} {new : Option Word} {t : Thread}
theorem State.WordMade.thread (h : s.WordMade n q new) (r : ThreadRef) : n.thread r = s.thread r := by
  rw [State.thread, h.threads]
  rfl
/-- The reply of a request waits in its return slot (R318). -/
theorem State.WordMade.replies (h : s.WordMade n q new) (data : List Byte) (ht : s.thread q.thread = some t) (hreq : Tbl.find s.reqs id = some q) :
    Claims.HomeServed s (n.onReq id (fun q => { q with served := true, data := data })) id q new t (some { q with served := true, data := data }) := by
  refine ⟨h.word, (h.thread _).trans ht, ?_, fun r _ => h.thread r, h.launches, h.groups, h.digest, h.unread⟩
  rw [State.onReq, Tbl.find_modify_self, h.reqs, hreq, Option.map_some]
/-- A RED has no reply: it leaves the store counter, and is over. -/
theorem State.WordMade.ends (h : s.WordMade n q new) (ht : s.thread q.thread = some t) :
    Claims.HomeServed s ((n.onThread q.thread (fun t => t.storeDone q.seq)).dropReq id) id q new { t with outSt := t.outSt.filter (· != q.seq) } none := by
  refine ⟨h.word, State.thread_onThread_some ((h.thread _).trans ht) rfl, ?_, fun r hr => (State.thread_onThread_ne n _ hr).trans (h.thread r),
    h.launches, h.groups, h.digest, h.unread⟩
  exact (Tbl.find_erase ..).trans (if_pos rfl)
/-- A change of reservations alone. -/
theorem State.WordMade.reserves (h : s.WordMade n q new) (l : List Reserve) : s.WordMade { n with reserves := l } q new :=
  ⟨h.word, h.threads, h.reqs, h.launches, h.groups, h.digest, h.unread⟩
end

/-! Reservations (R172) -/

theorem State.reserved_reserve (s : State) (q : Req) : (s.reserve q).reserved q = true := by
  simp [State.reserved, State.reserve, State.setReserve]
theorem State.reserved_dropReserve (s : State) (q : Req) : (s.dropReserve q.thread).reserved q = false := by
  simp only [State.reserved, State.dropReserve, List.any_eq_false, List.mem_filter]
  rintro r ⟨-, hr⟩
  simp only [Bool.not_eq_true', Bool.and_eq_false_iff] at hr
  simp only [Bool.and_eq_true]
  rintro ⟨⟨⟨hpeer, hthread⟩, -⟩, -⟩
  rw [hpeer, hthread] at hr
  simp at hr

/-! The home's step -/

/-- The line of a global word moves to its home (R291, R309). -/
theorem State.homeTouch_cachesMove (s : State) (q : Req) : s.CachesMove (s.homeTouch q) := by
  unfold State.homeTouch
  split
  · exact .refl s
  · exact (((State.asFunction_cachesMove ..).trans (State.l2Touch_cachesMove ..)).trans (State.l2Policy_cachesMove ..)).trans
      (State.dropClean_cachesMove ..)
theorem State.homeGather_cachesMove (s : State) (q : Req) : s.CachesMove (s.homeGather q) := by
  unfold State.homeGather
  split <;> exact State.gather_cachesMove ..
theorem State.homeRead_cachesMove (s : State) (q : Req) : s.CachesMove ((s.homeTouch q).homeGather q) :=
  (s.homeTouch_cachesMove q).trans (State.homeGather_cachesMove _ q)
theorem State.CachesMove.homePoisoned {s n : State} (h : s.CachesMove n) (q : Req) : n.homePoisoned q = s.homePoisoned q := by
  unfold State.homePoisoned
  rw [h.nearPoisoned, h.memPoisoned]
theorem State.CachesMove.reserved {s n : State} (h : s.CachesMove n) (q : Req) : n.reserved q = s.reserved q := by
  unfold State.reserved
  rw [h.reserves]
theorem exec_homeRequestServe {s : State} {id : Nat} {q : Req} (hreq : Tbl.find s.reqs id = some q) (hserved : q.served = false)
    (horder : s.inOrder id q = true) : exec (.homeRequestServe id) s = .next (s.homeServe id q) := by
  show execHomeRequestServe id s = _
  simp only [execHomeRequestServe, hreq, hserved, horder, Bool.not_true, Bool.or_self, Bool.false_eq_true, if_false]

/-- The home writes a word, where there is one to write (R171). -/
def State.homeSwap (s : State) (q : Req) (new : Option Word) : State :=
  match new with
  | some x => s.homeWrite q x
  | none => s
theorem State.homeSwap_made {s m : State} (q : Req) (new : Option Word) (h : s.CachesMove m) : s.WordMade (m.homeSwap q new) q new := by
  cases new with
  | some x => exact State.homeWrite_made q x h
  | none => exact h.wordMade q

section
variable {s : State} {q : Req} (id : Nat)
theorem State.homeServe_red {op : RedOp} (hkind : q.kind = .red op) (hclean : s.homePoisoned q = false) : s.homeServe id q
    = (((s.homeTouch q).homeWrite q (redNew op (s.homeWord q) (q.args.getD 0 0))).onThread q.thread (fun t => t.storeDone q.seq)).dropReq id := by
  simp only [State.homeServe, hkind, (s.homeTouch_cachesMove q).homePoisoned, hclean, Bool.false_eq_true, if_false]
theorem State.homeServe_atom {op : AtomOp} (hkind : q.kind = .atom op) (hclean : s.homePoisoned q = false) : s.homeServe id q
    = (((s.homeTouch q).homeGather q).homeSwap q (atomNew op (s.homeWord q) (q.args.getD 0 0) (q.args.getD 1 0))).homeReply id (s.homeWord q) := by
  simp only [State.homeServe, hkind, (s.homeTouch_cachesMove q).homePoisoned, hclean, Bool.false_eq_true, if_false]
  rfl
theorem State.homeServe_lr (hkind : q.kind = .lr) (hclean : s.homePoisoned q = false) :
    s.homeServe id q = (((s.homeTouch q).homeGather q).reserve q).homeReply id (s.homeWord q) := by
  simp only [State.homeServe, hkind, (s.homeTouch_cachesMove q).homePoisoned, hclean, Bool.false_eq_true, if_false]
theorem State.homeServe_sc (hkind : q.kind = .sc) (hclean : s.homePoisoned q = false) : s.homeServe id q
    = if s.reserved q then ((((s.homeTouch q).homeGather q).homeWrite q (q.args.getD 0 0)).dropReserve q.thread).homeReply id 0
      else (((s.homeTouch q).homeGather q).dropReserve q.thread).homeReply id 1 := by
  simp only [State.homeServe, hkind, (s.homeTouch_cachesMove q).homePoisoned, (s.homeTouch_cachesMove q).reserved, hclean, Bool.false_eq_true,
    if_false]
end

/-- R171, R172, R282, R317: words that are not poisoned. -/
theorem atomicsServe : Claims.AtomicsServe := by
  intro s id q t hreq hserved horder ht hclean old reply
  have hpoison : s.homePoisoned q = false := by
    unfold State.homePoisoned
    cases hnear : q.near <;> simpa [hnear] using hclean
  have hexec := exec_homeRequestServe hreq hserved horder
  refine ⟨fun op b hkind hargs => ?_, fun op b c hkind hargs => ?_, fun hkind => ?_, fun b hkind hargs hres => ?_, fun b hkind hargs hres => ?_⟩
  · refine ⟨_, hexec, ?_⟩
    rw [State.homeServe_red id hkind hpoison, hargs, redNew_eq]
    exact (State.homeWrite_made q _ (s.homeTouch_cachesMove q)).ends ht
  · refine ⟨_, hexec, ?_⟩
    rw [State.homeServe_atom id hkind hpoison, hargs, atomNew_eq]
    exact (State.homeSwap_made q _ (s.homeRead_cachesMove q)).replies _ ht hreq
  · refine ⟨_, hexec, ?_, ?_⟩ <;> rw [State.homeServe_lr id hkind hpoison]
    · exact (((s.homeRead_cachesMove q).wordMade q).reserves _).replies _ ht hreq
    · exact State.reserved_reserve ..
  · refine ⟨_, hexec, ?_, ?_⟩ <;> rw [State.homeServe_sc id hkind hpoison, if_pos hres, hargs]
    · exact ((State.homeWrite_made q b (s.homeRead_cachesMove q)).reserves _).replies _ ht hreq
    · exact State.reserved_dropReserve ..
  · refine ⟨_, hexec, ?_, ?_⟩ <;> rw [State.homeServe_sc id hkind hpoison, hres, if_neg Bool.false_ne_true]
    · exact (((s.homeRead_cachesMove q).wordMade q).reserves _).replies _ ht hreq
    · exact State.reserved_dropReserve ..

/-! Poisoned words (R376, R384) -/

theorem State.irqPf_eq (s : State) (bit : Nat) : s.irqPf bit = { s with mgmt := (s.irqPf bit).mgmt, sent := (s.irqPf bit).sent } := by
  unfold State.irqPf
  dsimp only
  split <;> rfl
/-- Only counts, records, interrupts and free values have changed. -/
def State.Reports (s n : State) : Prop := n = { s with
  free := n.free, banks := n.banks, mgmt := n.mgmt, parts := n.parts, sent := n.sent }
theorem State.mcCount_reports (s : State) (cls : BitVec 2) (written : Bool) (launch : Word) :
    s.Reports (s.mcCount cls written launch) ∧ (s.mcCount cls written launch).banks = s.banks := by
  unfold State.mcCount State.Reports
  split
  · exact ⟨rfl, rfl⟩
  · split
    · dsimp only
      have hpf : ∀ m : State, (if written then ({ m with mgmt := { m.mgmt with mcCont := m.mgmt.mcCont + 1 } }).irqPf 1 else m)
          = { m with mgmt := (if written then ({ m with mgmt := { m.mgmt with mcCont := m.mgmt.mcCont + 1 } }).irqPf 1 else m).mgmt,
                     sent := (if written then ({ m with mgmt := { m.mgmt with mcCont := m.mgmt.mcCont + 1 } }).irqPf 1 else m).sent } := fun m => by
        split
        · rw [State.irqPf_eq]
        · rfl
      rw [hpf]
      split
      · rw [State.irqPart_eq]
        exact ⟨rfl, rfl⟩
      · exact ⟨rfl, rfl⟩
    · exact ⟨rfl, rfl⟩
/-- A record enters an empty bank (R385). -/
theorem State.bankStore_empty {s : State} {id : Nat} (r : McRecord) (hempty : (s.bank id).slots = []) :
    ∃ b, s.bankStore id r = { s with banks := Tbl.insert s.banks id b } ∧ b.next = (s.bank id).next + 1 := by
  simp only [State.bankStore, hempty, Tbl.find, Option.isNone_none, if_true]
  exact ⟨_, rfl, rfl⟩
/-- An event of a unit other than a core is one record of its bank, where the bank was empty (R384, R385). -/
theorem State.mcEvent_reports {s : State} {type inst : Nat} (cls : BitVec 2) (source akind : Byte) (addr : DWord) (syndrome launch wglog : Word)
    (htype : 6 < type) (hempty : (s.bank (bankId type inst)).slots = []) :
    s.Reports (s.mcEvent type inst cls source akind addr syndrome launch wglog)
      ∧ ((s.mcEvent type inst cls source akind addr syndrome launch wglog).bank (bankId type inst)).next = (s.bank (bankId type inst)).next + 1 := by
  obtain ⟨b, hstore, hnext⟩ := State.bankStore_empty (s := { s with free := s.free + 1 })
    { seq := 0, cls := cls, source := source, akind := akind, addr := addr, syndrome := syndrome, launch := launch, wglog := wglog, cyc := Config.freeWord s.free } hempty
  simp only [State.mcEvent, if_neg (not_le.2 htype), State.freshWord, hstore]
  generalize hm : ({ s with free := s.free + 1, banks := Tbl.insert s.banks (bankId type inst) b } : State) = m
  obtain ⟨hrest, hbanks⟩ := m.mcCount_reports cls (Bank.takes (({ s with free := s.free + 1 } : State).bank (bankId type inst)) cls) launch
  constructor
  · unfold State.Reports at hrest ⊢
    rw [hrest, ← hm]
  · rw [State.bank, hbanks, ← hm, Tbl.get, Tbl.find_insert_self]
    exact hnext

/-- The record of a request's poisoned word: none for a peer's, else one in its home's bank (R173, R376). -/
theorem State.homeRecord_reports {s : State} {q : Req} {w : Workgroup} (hw : s.wgOf q.thread = some w)
    (hempty : (s.bank (bankId 0x08 (if q.near = true then clusterOf (q.addr / 2 ^ 19) else homeOf q.addr))).slots = []) :
    s.Reports (s.homeRecord q)
      ∧ ((s.homeRecord q).bank (bankId 0x08 (if q.near = true then clusterOf (q.addr / 2 ^ 19) else homeOf q.addr))).next
        = if q.near = false ∧ regionOf q.addr = 1
          then (s.bank (bankId 0x08 (if q.near = true then clusterOf (q.addr / 2 ^ 19) else homeOf q.addr))).next
          else (s.bank (bankId 0x08 (if q.near = true then clusterOf (q.addr / 2 ^ 19) else homeOf q.addr))).next + 1 := by
  unfold State.homeRecord State.poisonRecord
  rw [hw]
  by_cases hpeer : q.near = false ∧ regionOf q.addr = 1
  · obtain ⟨hnear, hregion⟩ := hpeer
    simp only [hnear, hregion, Bool.not_false, beq_self_eq_true, Bool.and_self, if_true, and_self]
    exact ⟨rfl, trivial⟩
  · have hhere : (!q.near && regionOf q.addr == 1) = false := by
      simpa [← Bool.not_eq_true] using hpeer
    simp only [hhere, if_neg hpeer, Bool.false_eq_true, if_false]
    exact State.mcEvent_reports _ _ _ _ _ _ _ (by omega) hempty
theorem State.Reports.wordMade {s m n : State} (h : s.CachesMove m) (k : m.Reports n) (q : Req) : s.WordMade n q none := by
  unfold State.Reports at k
  rw [k]
  exact State.WordMade.left q h.mem h.near h.merge (fun a => h.nearSeen a) h.threads h.reqs h.launches h.wgs
/-- What the home does with a poisoned word (R376). -/
theorem State.homeServe_poisoned {s : State} {q : Req} (id : Nat) (hpoison : s.homePoisoned q = true) :
    (∀ op, q.kind = .red op →
      s.homeServe id q = (((s.homeTouch q).homeRecord q).onThread q.thread (fun t => t.storeDone q.seq)).dropReq id)
    ∧ (∀ op, q.kind = .atom op →
      s.homeServe id q = ((s.homeTouch q).homeRecord q).onReq id (fun q => { q with served := true, data := [] }))
    ∧ (q.kind = .lr ∨ q.kind = .sc →
      s.homeServe id q = (((s.homeTouch q).homeRecord q).dropReserve q.thread).onReq id (fun q => { q with served := true, data := [] })) := by
  refine ⟨fun op hkind => ?_, fun op hkind => ?_, fun hkind => ?_⟩
  · simp only [State.homeServe, hkind, (s.homeTouch_cachesMove q).homePoisoned, hpoison, if_true]
  · simp only [State.homeServe, hkind, (s.homeTouch_cachesMove q).homePoisoned, hpoison, if_true]
  · rcases hkind with hkind | hkind <;> simp only [State.homeServe, hkind, (s.homeTouch_cachesMove q).homePoisoned, hpoison, if_true]

/-- R376: words that are poisoned. -/
theorem atomicsPoisoned : Claims.AtomicsPoisoned := by
  intro s id q t w hreq hserved horder ht hw hpoisoned bank hempty next
  have hpoison : s.homePoisoned q = true := by
    unfold State.homePoisoned
    cases hnear : q.near <;> simpa [hnear] using hpoisoned
  have hmoves := s.homeTouch_cachesMove q
  obtain ⟨hreports, hnext⟩ := State.homeRecord_reports (s := s.homeTouch q) ((hmoves.wgOf _).trans hw) (by rw [hmoves.bank]; exact hempty)
  rw [hmoves.bank] at hnext
  have hmade := State.Reports.wordMade hmoves hreports q
  have hexec := exec_homeRequestServe hreq hserved horder
  obtain ⟨hred, hatom, hreserving⟩ := State.homeServe_poisoned id hpoison
  refine ⟨fun op hkind => ⟨_, hexec, ?_, ?_⟩, fun hkind => ⟨_, hexec, ?_, ?_, ?_⟩⟩
  · rw [hred op hkind]
    exact hmade.ends ht
  · rw [hred op hkind]
    exact hnext
  · obtain ⟨op, hkind⟩ | hkind := hkind
    · rw [hatom op hkind]
      exact hmade.replies _ ht hreq
    · rw [hreserving hkind]
      exact (hmade.reserves _).replies _ ht hreq
  · obtain ⟨op, hkind⟩ | hkind := hkind
    · rw [hatom op hkind]
      exact hnext
    · rw [hreserving hkind]
      exact hnext
  · intro hkind
    rw [hreserving hkind]
    exact State.reserved_dropReserve ..

/-! The reply (R318) -/

/-- A load's reply reaches its record and the load counter alone (R162, R318). -/
theorem Thread.loadDone_replied (t : Thread) (seq : Nat) (value : Option (List Word)) (poison : Option DWord) :
    Claims.Replied t (t.loadDone seq value poison) seq value poison := ⟨⟨rfl, rfl, rfl, rfl, rfl, rfl, rfl⟩, rfl, rfl⟩
/-- R171, R318, R376: the reply arrives. -/
theorem atomicReplyArrives : Claims.AtomicReplyArrives := by
  intro s id q t w hreq hserved ht href hw
  have hexec : exec (.atomicReply id) s = .next (s.atomicReply id q) := by
    show execAtomicReply id s = _
    simp only [execAtomicReply, hreq, hserved, if_true]
  have hfree : s.freeReturn q.thread = s.onCore w.core (fun c => c.freeReturn (laneKey w q.thread.tid)) := by
    unfold State.freeReturn
    rw [hw]
  refine ⟨_, _, hexec, State.thread_onThread_some (by rw [hfree]; exact ht) rfl, ?_, (Tbl.find_erase ..).trans (if_pos rfl), ?_, fun hdata => ?_,
    fun hdata => ?_⟩
  · unfold State.atomicReply
    rw [hfree]
    exact ⟨⟨rfl, rfl, rfl, rfl⟩, ⟨rfl, rfl, rfl⟩, fun r hr => State.thread_onThread_ne _ _ (by rwa [href] at hr)⟩
  · have hcore : (s.atomicReply id q).core w.core = (s.core w.core).freeReturn (laneKey w t.ref.tid) := by
      unfold State.atomicReply
      rw [hfree, href]
      show (s.onCore w.core (fun c => c.freeReturn (laneKey w q.thread.tid))).core w.core = _
      exact State.core_onCore_self ..
    rw [hcore]
    exact (Tbl.get_put ..).trans (if_pos rfl)
  · have hsome : q.data.isEmpty = false := by simpa using hdata
    rw [hsome]
    exact Thread.loadDone_replied ..
  · rw [hdata]
    exact Thread.loadDone_replied ..

/-- Settles O26, from the words that are served, those that are poisoned, and the reply. -/
theorem atomicsComplete : Obligations.AtomicsComplete := ⟨atomicsServe, atomicsPoisoned, atomicReplyArrives⟩

end Sys2Proof.Machine
end

section
/-! SUPPORT. The data of a load and what a core's L1 gives (R162, R291); the covering WAIT (R182, R376); with the obligation on loads that
complete. -/
namespace Sys2Proof.Machine

/-! The data -/

theorem State.asFunction_rest (s : State) (p pa n : Nat) (write : Bool) :
    (s.asFunction p pa n write).cores = s.cores ∧ (s.asFunction p pa n write).owners = s.owners := by
  unfold State.asFunction
  split <;> exact ⟨rfl, rfl⟩
theorem State.l1Bytes_asFunction (s : State) (p a k : Nat) (write : Bool) (pa n core cp : Nat) :
    Claims.l1Bytes (s.asFunction p a k write) pa n core cp = Claims.l1Bytes s pa n core cp := by
  obtain ⟨hcores, howners⟩ := s.asFunction_rest p a k write
  unfold Claims.l1Bytes State.core
  rw [hcores, howners, (s.asFunction_cachesMove p a k write).memRead]
/-- With the clean copy gone, the bytes are those of memory (R291). -/
theorem State.l1Bytes_dropClean (s : State) (pa n core cp : Nat) :
    Claims.l1Bytes (s.dropClean core (pa / 128)) pa n core cp = s.memRead pa n := by
  have hgone : Tbl.find (((s.dropClean core (pa / 128)).core core).clean) (pa / 128) = none := by
    rw [State.dropClean, State.core_onCore_self, Tbl.find_erase, if_pos rfl]
  unfold Claims.l1Bytes
  rw [hgone]
  rfl
/-- Bytes of one line, cut out of the line. -/
theorem State.memRead_line (s : State) {pa n : Nat} (h : pa % 128 + n ≤ 128) :
    ((s.memRead (pa / 128 * 128) 128).drop (pa % 128)).take n = s.memRead pa n := by
  refine List.ext_getElem (by simp [State.memRead]; omega) fun i h1 h2 => ?_
  have hbyte : pa / 128 * 128 + (pa % 128 + i) = pa + i := by omega
  simp [State.memRead, hbyte]
theorem State.clean_gather (s : State) (core : Nat) (mark : Option Nat) : ((s.gather core mark).core core).clean = (s.core core).clean := by
  unfold State.gather
  split
  · rfl
  · split
    · rfl
    · rw [State.core_onCore_self]
theorem State.owners_gather (s : State) (core : Nat) (mark : Option Nat) : (s.gather core mark).owners = s.owners := by
  unfold State.gather
  split
  · rfl
  · split <;> rfl
/-- R291: what a core's load of bytes in one line gives. -/
theorem State.memLoad_l1Bytes (s : State) {pa n : Nat} (core cp : Nat) (h : pa % 128 + n ≤ 128) :
    (s.memLoad pa n core cp).1 = Claims.l1Bytes s pa n core cp := by
  have hmoves : s.CachesMove ((s.gather core (Tbl.find s.marks (pa / 128))).l2Policy pa n cp) :=
    (State.gather_cachesMove ..).trans (State.l2Policy_cachesMove ..)
  have howners : ((s.gather core (Tbl.find s.marks (pa / 128))).l2Policy pa n cp).owners = s.owners := State.owners_gather ..
  have hclean : (((s.gather core (Tbl.find s.marks (pa / 128))).l2Policy pa n cp).core core).clean = (s.core core).clean := State.clean_gather ..
  simp only [State.memLoad, Claims.l1Bytes, howners, hclean, hmoves.memRead, State.memRead_line s h]
  by_cases hpast : (!isDevice pa || cp == 1) = true
  · have hpage : ¬ (isDevice pa = true ∧ cp ≠ 1 ∧ Tbl.find s.owners (pa / 128) ≠ some core) := by
      rintro ⟨hdevice, hcp, -⟩
      simp [hdevice, hcp] at hpast
    rw [if_pos hpast]
    split
    · rw [if_neg hpage]
    · rfl
  · have hpage : isDevice pa = true ∧ cp ≠ 1 := by simpa using hpast
    rw [if_neg hpast]
    by_cases howner : Tbl.find s.owners (pa / 128) = some core
    · rw [if_pos (beq_iff_eq.2 howner)]
      split
      · rw [if_neg (fun h => h.2.2 howner)]
      · rfl
    · rw [if_neg (by simpa using howner)]
      cases Tbl.find (s.core core).clean (pa / 128) with
      | some bs => exact (if_pos ⟨hpage.1, hpage.2, howner⟩).symm
      | none => rfl

/-- R162: a load whose data are its thread's own to take. -/
theorem exec_loadReturn {s m : State} {id : Nat} {q : Req} {sz : LdSize} {evict : Bool} {bs : List Byte} (hreq : Tbl.find s.reqs id = some q)
    (hkind : q.kind = .load sz) (horder : s.inOrder id q = true)
    (hdata : (if q.near then (s.nearLoad q.addr q.size, s.gatherNear q.core q.addr)
      else ((if evict then s.dropClean q.core (q.addr / 128) else s).asFunction
        ((if evict then s.dropClean q.core (q.addr / 128) else s).reqPart q) q.addr q.size false).memLoad q.addr q.size q.core q.cp) = (bs, m)) :
    exec (.loadReturn id evict) s
      = .next ((m.onThread q.thread (fun t => t.loadDone q.seq (some (ldWords sz bs)) none)).dropReq id) := by
  show execLoadReturn id evict s = _
  simp only [execLoadReturn, hreq, hkind, State.loadReturn, State.loadAnswer, horder, if_true]
  rw [hdata]
/-- A load's data arrive where lines have moved (R162). -/
theorem State.CachesMove.loadArrives {s m : State} {q : Req} {t : Thread} (h : s.CachesMove m) (id : Nat) (words : List Word)
    (ht : s.thread q.thread = some t) (href : t.ref = q.thread) :
    let n := (m.onThread q.thread (fun t => t.loadDone q.seq (some words) none)).dropReq id
    ∃ u, n.thread q.thread = some u ∧ Claims.SameButCores s n t ∧ Tbl.find n.reqs id = none ∧ Claims.Replied t u q.seq (some words) none := by
  refine ⟨_, State.thread_onThread_some ((h.thread _).trans ht) rfl, ⟨⟨h.mem, h.near, h.merge, h.empties⟩, ⟨h.wgs, h.launches, h.ops⟩, fun r hr => ?_⟩,
    (Tbl.find_erase ..).trans (if_pos rfl), Thread.loadDone_replied ..⟩
  exact (State.thread_onThread_ne _ _ (by rwa [href] at hr)).trans (h.thread r)

/-- R162, R291: the data of a load. -/
theorem loadArrives : Claims.LoadArrives := by
  intro s id q sz t hreq hkind horder ht href
  refine ⟨fun hnear hline => ?_, fun hnear hline => ?_, fun evict hnear => ?_⟩
  · have hmoves : s.CachesMove ((s.asFunction (s.reqPart q) q.addr q.size false).memLoad q.addr q.size q.core q.cp).2 :=
      (State.asFunction_cachesMove ..).trans (State.memLoad_cachesMove ..)
    obtain ⟨u, hthread, hsame, hover, hreplied⟩ := hmoves.loadArrives id (ldWords sz (Claims.l1Bytes s q.addr q.size q.core q.cp)) ht href
    refine ⟨_, u, exec_loadReturn hreq hkind horder ?_, hthread, hsame, hover, hreplied⟩
    rw [hnear]
    exact Prod.ext ((State.memLoad_l1Bytes _ _ _ hline).trans (State.l1Bytes_asFunction ..)) rfl
  · have hmoves : s.CachesMove (((s.dropClean q.core (q.addr / 128)).asFunction (s.reqPart q) q.addr q.size false).memLoad
        q.addr q.size q.core q.cp).2 :=
      ((State.dropClean_cachesMove ..).trans (State.asFunction_cachesMove ..)).trans (State.memLoad_cachesMove ..)
    obtain ⟨u, hthread, hsame, hover, hreplied⟩ := hmoves.loadArrives id (ldWords sz (s.memRead q.addr q.size)) ht href
    refine ⟨_, u, exec_loadReturn hreq hkind horder ?_, hthread, hsame, hover, hreplied⟩
    rw [hnear]
    exact Prod.ext (((State.memLoad_l1Bytes _ _ _ hline).trans (State.l1Bytes_asFunction ..)).trans (State.l1Bytes_dropClean ..)) rfl
  · obtain ⟨u, hthread, hsame, hover, hreplied⟩ := (State.gather_cachesMove s q.core (Tbl.find s.nearMarks (spanOf q.addr))).loadArrives id
      (ldWords sz (s.nearLoad q.addr q.size)) ht href
    refine ⟨_, u, exec_loadReturn hreq hkind horder ?_, hthread, hsame, hover, hreplied⟩
    rw [hnear]
    rfl

/-! The covering WAIT -/

section
variable {s : State} {t : Thread} {w : Workgroup} {nld nst : BitVec 6} {ncp ntl : BitVec 4} (hs : s.Issues [t])
  (run : s.Runs (.wait nld nst ncp ntl) t w)
include hs run
theorem exec_wait_none (hnld : nld = 63) : exec (.wait nld nst ncp ntl) s = .next (s.onThread t.ref Thread.advance).finish := by
  refine (issueLanes_one hs run).trans ?_
  rw [if_pos hnld]
theorem exec_wait_poisoned {l : LoadRec} (hnld : nld ≠ 63) (hp : t.poisonedUpTo (t.nld - nld.toNat) = some l) :
    exec (.wait nld nst ncp ntl) s = .next (s.poisonTrap t l).finish := by
  refine (issueLanes_one hs run).trans ?_
  rw [if_neg hnld, hp]
theorem exec_wait_covers (hnld : nld ≠ 63) (hp : t.poisonedUpTo (t.nld - nld.toNat) = none) :
    exec (.wait nld nst ncp ntl) s = .next ((s.cover t (t.nld - nld.toNat)).onThread t.ref Thread.advance).finish := by
  refine (issueLanes_one hs run).trans ?_
  rw [if_neg hnld, hp]
end
/-- Where one load is covered, its reply is the one that can be poisoned (R376). -/
theorem Thread.poisonedUpTo_one {t : Thread} {seq : Nat} {l : LoadRec} (h : t.loads.filter (fun x => decide (x.seq ≤ seq)) = [l]) :
    t.poisonedUpTo seq = if l.poison.isSome then some l else none := by
  have hfind : t.poisonedUpTo seq = (t.loads.filter (fun x => decide (x.seq ≤ seq))).find? (fun x => x.poison.isSome) := by
    simp only [List.find?_filter, Thread.poisonedUpTo, Bool.decide_and, Bool.decide_eq_true]
  rw [hfind, h, List.find?_singleton]

/-- What a thread holds once the first n registers of a covered load show their values (R162). -/
structure Thread.Covered (t u : Thread) (l : LoadRec) (ws : List Word) (n : Nat) : Prop where
  only   : t.OnlyV u l.dest n
  shown  : ∀ k, k < n → l.dirty.contains (l.dest + k) = false → l.gone.contains (l.dest + k) = false → u.getV (l.dest + k) = ws.getD k 0
  gone   : ∀ k, k < n → l.gone.contains (l.dest + k) = true → u.getV (l.dest + k) = t.getV (l.dest + k)
  loads  : u.loads.map (·.seq) = t.loads.map (·.seq)
theorem Thread.Covered.refl (t : Thread) (l : LoadRec) (ws : List Word) : t.Covered t l ws 0 :=
  ⟨⟨fun _ _ => rfl, rfl⟩, fun _ h => absurd h (Nat.not_lt_zero _), fun _ h => absurd h (Nat.not_lt_zero _), rfl⟩
theorem Thread.seqs_setV (t : Thread) (k : Nat) (x : Word) : (t.setV k x).loads.map (·.seq) = t.loads.map (·.seq) := by
  rw [Thread.setV, List.map_map]
  refine List.map_congr_left fun l _ => ?_
  dsimp only [Function.comp_apply]
  split <;> rfl
/-- A register that a trap's frame has taken stays. -/
theorem Thread.Covered.stays {t u : Thread} {l : LoadRec} {ws : List Word} {n : Nat} (h : t.Covered u l ws n)
    (hgone : l.gone.contains (l.dest + n) = true) : t.Covered u l ws (n + 1) := by
  refine ⟨⟨fun k hk => h.only.v k (by omega), h.only.rest⟩, fun k hk hdirty hstays => ?_, fun k hk hg => ?_, h.loads⟩
  · rcases Nat.lt_succ_iff_lt_or_eq.1 hk with hlt | rfl
    · exact h.shown k hlt hdirty hstays
    · rw [hgone] at hstays
      cases hstays
  · rcases Nat.lt_succ_iff_lt_or_eq.1 hk with hlt | rfl
    · exact h.gone k hlt hg
    · exact h.only.v _ (by omega)
/-- The others show the value, or a free one where the thread wrote them meanwhile. -/
theorem Thread.Covered.shows {t u : Thread} {l : LoadRec} {ws : List Word} {n : Nat} {x : Word} (h : t.Covered u l ws n)
    (hgone : l.gone.contains (l.dest + n) = false) (hx : l.dirty.contains (l.dest + n) = false → x = ws.getD n 0) :
    t.Covered (u.setV (l.dest + n) x) l ws (n + 1) := by
  refine ⟨⟨fun k hk => ?_, ?_⟩, fun k hk hdirty hstays => ?_, fun k hk hg => ?_, (Thread.seqs_setV ..).trans h.loads⟩
  · rw [Thread.getV_setV_ne _ _ (by omega)]
    exact h.only.v k (by omega)
  · rw [Thread.setV, h.only.rest]
  · rcases Nat.lt_succ_iff_lt_or_eq.1 hk with hlt | rfl
    · rw [Thread.getV_setV_ne _ _ (by omega)]
      exact h.shown k hlt hdirty hstays
    · rw [Thread.getV_setV_self]
      exact hx hdirty
  · rcases Nat.lt_succ_iff_lt_or_eq.1 hk with hlt | rfl
    · rw [Thread.getV_setV_ne _ _ (by omega)]
      exact h.gone k hlt hg
    · rw [hgone] at hg
      cases hg
/-- One covered load shows its value (R162). -/
theorem State.coverLoad_spec {s : State} {r : ThreadRef} {t : Thread} {l : LoadRec} {ws : List Word} (ht : s.thread r = some t)
    (hvalue : l.value = some ws) :
    ∃ u, (s.coverLoad r l).thread r = some u ∧ t.Covered u l ws l.count ∧ s.OnlyThread (s.coverLoad r l) r := by
  unfold State.coverLoad
  generalize l.count = n
  induction n with
  | zero => exact ⟨t, ht, .refl t l ws, .refl s r⟩
  | succ n ih =>
    obtain ⟨u, hu, hcovered, honly⟩ := ih
    rw [List.range_succ, List.foldl_append, List.foldl_cons, List.foldl_nil]
    generalize (List.range n).foldl _ s = m at hu honly ⊢
    cases hgone : l.gone.contains (l.dest + n) with
    | true => exact ⟨u, hu, hcovered.stays hgone, honly⟩
    | false =>
      cases hdirty : l.dirty.contains (l.dest + n) with
      | true =>
        obtain ⟨hthread, hstep⟩ := State.freshStep (l.dest + n) hu
        exact ⟨_, hthread, hcovered.shows hgone fun h => absurd (hdirty.symm.trans h) (by simp), honly.trans hstep⟩
      | false =>
        rw [hvalue]
        exact ⟨_, State.thread_onThread_some (f := fun t => t.setV (l.dest + n) (ws.getD n 0)) hu rfl, hcovered.shows hgone fun _ => rfl,
          honly.trans (State.onThread_onlyThread ..)⟩

/-- R162, R182: the state after a WAIT that covers one load. -/
theorem State.cover_one {s : State} {t : Thread} {l : LoadRec} {ws : List Word} {seq : Nat} (ht : s.thread t.ref = some t)
    (hone : t.loads.filter (fun x => decide (x.seq ≤ seq)) = [l]) (hvalue : l.value = some ws) :
    ∃ u, (s.cover t seq).thread t.ref = some u ∧ s.OnlyThread (s.cover t seq) t.ref
      ∧ Thread.Covered { t with loads := t.loads.filter (fun l => !decide (l.seq ≤ seq)) } u l ws l.count := by
  have hdropped : (s.onThread t.ref (fun u => { u with loads := u.loads.filter (fun l => !decide (l.seq ≤ seq)) })).thread t.ref
      = some { t with loads := t.loads.filter (fun l => !decide (l.seq ≤ seq)) } := State.thread_onThread_some ht rfl
  obtain ⟨u, hu, hcovered, honly⟩ := State.coverLoad_spec hdropped hvalue
  unfold State.cover
  rw [hone]
  exact ⟨u, hu, (State.onThread_onlyThread ..).trans honly, hcovered⟩

/-- R162, R182, R376: what a WAIT shows, and where it traps. -/
theorem waitCovers : Claims.WaitCovers := by
  intro s t w nld nst ncp ntl hs run
  have ht := hs.resident t (by simp)
  refine ⟨fun l ws hnld hone hvalue hclean => ?_, fun hnld => ?_, fun l va hnld hone hpoison => ?_⟩
  · obtain ⟨u, hu, honly, hcovered⟩ := State.cover_one ht hone hvalue
    have hexec := exec_wait_covers hs run hnld (by rw [Thread.poisonedUpTo_one hone, hclean]; rfl)
    have htraps : ((s.cover t (t.nld - nld.toNat)).onThread t.ref Thread.advance).traps = [] := by
      rw [State.onThread_traps, honly.rest]
      exact hs.settled
    rw [State.finish_over htraps] at hexec
    have hrest := hcovered.only.rest
    refine ⟨_, u.advance, hexec, ⟨State.thread_onThread_some hu (Thread.advance_ref u), fun r hr => ?_, ?_⟩, ?_, ⟨⟨fun k hk => ?_, ?_⟩, ?_, rfl⟩, ?_, ?_,
      fun k hk hdirty hgone => ?_, fun k hk hgone => ?_, fun x hx => ?_⟩
    · exact (State.thread_onThread_ne _ _ hr).trans (honly.others r hr)
    · rw [honly.rest]
      rfl
    · rw [honly.rest]
      rfl
    · exact (Thread.getV_advance ..).trans (hcovered.only.v k hk)
    · rw [hrest]
      simp
    · rw [hrest]
      rfl
    · rw [hrest]
      simp
    · rw [hrest]
      simp
    · exact (Thread.getV_advance ..).trans (hcovered.shown k hk hdirty hgone)
    · exact (Thread.getV_advance ..).trans (hcovered.gone k hk hgone)
    · rw [Thread.advance_loads] at hx
      have hseq : x.seq ∈ (t.loads.filter (fun l => !decide (l.seq ≤ t.nld - nld.toNat))).map (·.seq) := by
        rw [← hcovered.loads]
        exact List.mem_map_of_mem hx
      obtain ⟨y, hy, hyx⟩ := List.mem_map.1 hseq
      have hlater := (List.mem_filter.1 hy).2
      simp only [Bool.not_eq_true', decide_eq_false_iff_not] at hlater
      omega
  · rw [exec_wait_none hs run hnld]
    exact congrArg _ (State.finish_over hs.settled)
  · rw [exec_wait_poisoned hs run hnld (by rw [Thread.poisonedUpTo_one hone, hpoison]; rfl), State.poisonTrap, hpoison]
    rfl

/-- Settles O22, from the data of a load and the covering WAIT. -/
theorem loadsComplete : Obligations.LoadsComplete := ⟨loadArrives, waitCovers⟩

end Sys2Proof.Machine
end

section
/-! SUPPORT. Accesses that fail a check: their traps, the wait for a walk and the store that a lost link drops (R156 to R159, R306, R324,
R404, R406); with the obligation on them. -/
namespace Sys2Proof.Machine

/-! Checks that fail -/

/-- The failures of a word whose effect is a global access (R156, R159, R324, R404). -/
theorem globalFails {s : State} {t : Thread} {w : Workgroup} {i : Instr} {va : DWord} {n kind : Nat} {read write : Bool}
    {k : Xlate → State → State} {right : Xlate → Bool} (hs : s.Issues [t])
    (hexec : exec i s = .next (s.globalAccess t w va n kind read write false k).finish)
    (hright : ∀ x, (read && !x.r || write && !x.w) = !right x) : Claims.GlobalFails s t w i va n kind right := by
  refine ⟨fun hhigh => ?_, fun hhigh halign => ?_, fun hhigh halign hlook => ?_, fun x hhigh halign hlook hforbids => ?_⟩ <;> rw [hexec]
  · rw [State.globalAccess, if_pos (by simpa using hhigh)]
    rfl
  · rw [State.globalAccess, if_neg (by simpa using hhigh), if_pos halign]
    rfl
  · rw [State.globalAccess, if_neg (by simpa using hhigh), if_neg (not_not.2 halign), hlook]
    exact congrArg _ (State.finish_over hs.settled)
  · rw [State.globalAccess, if_neg (by simpa using hhigh), if_neg (not_not.2 halign), hlook]
    dsimp only
    rw [hright, if_pos]
    · rfl
    · rcases hforbids with hforbids | ⟨hrefuses, hlinked⟩
      · simp [hforbids]
      · simp [hrefuses, hlinked]
/-- The failures of a word whose effect is a near access (R157, R158). -/
theorem nearFails {s : State} {t : Thread} {i : Instr} {na : Word} {n : Nat} {k : Nat → State}
    (hexec : exec i s = .next (s.nearAccess t na n k).finish) : Claims.NearFails s t i na n := by
  constructor
  · intro hcheck
    rw [hexec, State.nearAccess, hcheck]
    rfl
  · intro c hcheck
    rw [hexec, State.nearAccess, hcheck]
    rfl

/-! Loads that pass the checks and fail later -/

section
variable {s : State} {t : Thread} {w : Workgroup} {va : DWord} {sz : LdSize} {x : Xlate} (vd : VReg) (hc : fieldOf va 63 56 = 0)
  (ha : va.toNat % ldBytes sz = 0) (hx : s.tlbLook (s.partOf w) w.core va.toNat = some x) (hr : x.r = true)
include hc ha hx hr
/-- R406: a load through a lost link. -/
theorem State.loadGlobal_lost (hl : s.linkLost x.pa = true) :
    s.loadGlobal t w va sz vd = (s.tlbTouch w.core va.toNat).trapData t 0x08 3 va := by
  simp only [State.loadGlobal]
  rw [State.globalAccess_ok hc ha hx (fun _ => hr) (by simp) (by simp) (fun _ => hl), State.linkLost_tlbTouch, if_pos hl]
  rfl
/-- R159, R306: a load of poisoned bytes; the L2 has read its lines. -/
theorem State.loadGlobal_poisoned (hl : s.linkLost x.pa = false) (he : peerRefuses x.pa = false)
    (hp : x.poison = true ∨ s.memPoisoned x.pa (ldBytes sz) = true) : s.loadGlobal t w va sz vd
      = (((s.tlbTouch w.core va.toNat).l2Read x.pa (ldBytes sz)).l2Policy x.pa (ldBytes sz) x.cp).trapData t 0x08 2 va := by
  simp only [State.loadGlobal]
  rw [State.globalAccess_ok hc ha hx (fun _ => hr) (by simp) (by simp) (by simp [he]), State.linkLost_tlbTouch, hl, if_neg Bool.false_ne_true,
    State.memPoisoned_tlbTouch, if_pos (by simpa using hp)]
  rfl
end

/-! Stores that are dropped (R406) -/

theorem State.linkDrop_eq (s : State) (p : Nat) : s.linkDrop p = { s with parts := (s.linkDrop p).parts, sent := (s.linkDrop p).sent } := by
  rw [State.linkDrop, State.irqPart_eq]
  rfl
theorem State.part_linkDrop (s : State) (p : Nat) : ((s.linkDrop p).part p).linkDrop = (s.part p).linkDrop + 1 := by
  rw [State.linkDrop, State.part_irqPart, State.part_onPart_self]
  rfl
/-- After a look-up, the thread of a dropped store goes on; the store is counted and nothing else of it happens. -/
theorem State.dropStore_drops {s m : State} {t : Thread} (w : Workgroup) (h : s.CoresOnly m) (ht : s.thread t.ref = some t) (htraps : s.traps = []) :
    ∃ u, (m.dropStore t w).finish.thread t.ref = some u ∧ Claims.GoesOn t u 0 0 ∧ u.outSt = t.outSt ∧ u.outLd = t.outLd
      ∧ (m.dropStore t w).finish.reqs = s.reqs ∧ (m.dropStore t w).finish.mem = s.mem ∧ (m.dropStore t w).finish.near = s.near
      ∧ (∀ r, refKey r ≠ refKey t.ref → (m.dropStore t w).finish.thread r = s.thread r)
      ∧ ((m.dropStore t w).finish.part (s.partOf w)).linkDrop = (s.part (s.partOf w)).linkDrop + 1 := by
  have hmoves := h.cachesMove
  have hpart : m.partOf w = s.partOf w := by rw [h]; rfl
  have hdrop : m.dropStore t w = (m.onThread t.ref (fun u => { u with nst := u.nst + 1 }.advance)).linkDrop (s.partOf w) := by
    rw [State.dropStore, hpart]
  have hrest := (m.onThread t.ref (fun u => { u with nst := u.nst + 1 }.advance)).linkDrop_eq (s.partOf w)
  rw [← hdrop] at hrest
  have hthread : m.thread t.ref = some t := (hmoves.thread _).trans ht
  have hadvanced := State.thread_onThread_some (f := fun u => { u with nst := u.nst + 1 }.advance) hthread (Thread.advance_ref _)
  rw [State.finish_over (by rw [hrest]; exact hmoves.traps.trans htraps)]
  refine ⟨{ t with nst := t.nst + 1 }.advance, ?_, ⟨⟨fun k _ => Thread.getV_advance _ k, by simp⟩, rfl, rfl⟩, by simp, by simp, ?_, ?_, ?_, fun r hr => ?_, ?_⟩
  · rw [hrest]
    exact hadvanced
  · rw [hrest]
    exact hmoves.reqs
  · rw [hrest]
    exact hmoves.mem
  · rw [hrest]
    exact hmoves.near
  · rw [hrest]
    exact (State.thread_onThread_ne m _ hr).trans (hmoves.thread r)
  · rw [hdrop]
    refine (State.part_linkDrop ..).trans ?_
    rw [State.part_onThread, hmoves.part]

/-! The words -/

section
variable {s : State} {t : Thread} {w : Workgroup} {vd vo : VReg} {imm : BitVec 4} (hs : s.Issues [t])
include hs
theorem exec_ldn_nearAccess {sz : LdSize} (run : s.Runs (.ldn vd vo sz imm) t w) : exec (.ldn vd vo sz imm) s
    = .next (s.nearAccess t (nearAddr t vo (ldBytes sz) imm) (ldBytes sz) (fun key =>
      if s.nearPoisoned key (ldBytes sz) then s.trapData t clMachine 2 ((nearAddr t vo (ldBytes sz) imm).zeroExtend 64)
      else s.startLoad t (newReq t w (.load sz) true key ((nearAddr t vo (ldBytes sz) imm).zeroExtend 64) (ldBytes sz)) vd.toNat (ldRegs sz))).finish :=
  issueLanes_one hs run
theorem exec_ldn_poisoned {sz : LdSize} {key target : Nat} (run : s.Runs (.ldn vd vo sz imm) t w)
    (hk : s.checkNear t.ref.wg t.handler (nearAddr t vo (ldBytes sz) imm) (ldBytes sz) (ldBytes sz) = .ok (key, target))
    (hp : s.nearPoisoned key (ldBytes sz) = true) :
    exec (.ldn vd vo sz imm) s = .next (s.trapData t 0x08 2 ((nearAddr t vo (ldBytes sz) imm).zeroExtend 64)).finish := by
  rw [exec_ldn_nearAccess hs run, State.nearAccess_ok hk, if_pos hp]
  rfl
theorem exec_stn_nearAccess {sz : StSize} (run : s.Runs (.stn vd vo sz imm) t w) : exec (.stn vd vo sz imm) s
    = .next (s.nearAccess t (nearAddr t vo (stBytes sz) imm) (stBytes sz) (fun key =>
      s.startStore t { newReq t w .store true key ((nearAddr t vo (stBytes sz) imm).zeroExtend 64) (stBytes sz) with
        data := t.storeData vd sz })).finish := issueLanes_one hs run
end

/-- Settles O21, from the checks that fail, the poisoned loads, and the links that are lost. -/
theorem accessTraps : Obligations.AccessTraps := by
  intro s t w vd vo imm hs
  have ht := hs.resident t (by simp)
  refine ⟨fun sb sz run => ⟨globalFails hs (exec_ld hs run) fun x => by cases x.r <;> rfl, fun x hc ha hx hr => ⟨fun hl => ?_, fun hl he hp => ?_⟩⟩,
    fun sb sz run => ⟨?_, fun x hc ha hx hw hl => ?_⟩, fun sz run => ⟨nearFails (exec_ldn_nearAccess hs run), fun key target hk hp => ?_⟩,
    fun sz run => nearFails (exec_stn_nearAccess hs run)⟩
  · exact ⟨_, State.tlbTouch_looks .., (exec_ld hs run).trans
      (congrArg (fun m : State => Host.Outcome.next m.finish) (State.loadGlobal_lost vd hc ha hx hr hl))⟩
  · exact ⟨_, State.tlbTouch_looks .., (exec_ld hs run).trans
      (congrArg (fun m : State => Host.Outcome.next m.finish) (State.loadGlobal_poisoned vd hc ha hx hr hl he hp))⟩
  · have hexec := exec_st hs run
    rw [State.storeGlobal, t.storeData_length] at hexec
    exact globalFails hs hexec fun x => by cases x.w <;> rfl
  · have hstore := State.storeGlobal_lost (t := t) (bs := t.storeData vd sz) hc (by rw [t.storeData_length]; exact ha) hx hl hw
    obtain ⟨u, hdrops⟩ := State.dropStore_drops w (State.tlbTouch_coresOnly s w.core (globalAddr t w vo sb (stBytes sz) imm).toNat) ht hs.settled
    exact ⟨_, u, (exec_st hs run).trans (congrArg (fun m : State => Host.Outcome.next m.finish) hstore), hdrops⟩
  · exact exec_ldn_poisoned hs run hk hp

end Sys2Proof.Machine
end

section
/-! SUPPORT. Words that the host and peers read and write at their home (R171 to R173, R301, R401, R404); with the obligation on remote
atomics. -/
namespace Sys2Proof.Machine

/-! The word at its home -/

theorem State.l2Read_l2Only (s : State) (pa n : Nat) : s.L2Only (s.l2Read pa n) :=
  State.L2Only.foldl _ (fun s l => State.l2Touch_l2Only s l false) _ s
/-- A write of global memory sends no message (R290). -/
theorem State.sent_lineWritten (s : State) (line : Nat) (mark : Option Nat) : (s.lineWritten line mark).sent = s.sent := by
  have hlines : ((s.recall line).l2Touch line true).sent = s.sent := by
    rw [State.l2Touch_l2Only, (State.recall_cachesOnly s line).rest]
  unfold State.lineWritten
  dsimp only
  split <;> exact hlines
theorem State.sent_memEngine (s : State) (pa : Nat) (bs : List Byte) (mark : Option Nat) : (s.memEngine pa bs mark).sent = s.sent := by
  have hlines : ∀ (l : List Nat) (m : State), (l.foldl (fun s k => s.lineWritten k mark) m).sent = m.sent := fun l => by
    induction l with
    | nil => exact fun _ => rfl
    | cons k l ih => exact fun m => (ih _).trans (State.sent_lineWritten ..)
  exact hlines ..

/-- The four bytes at an address have become a word, or are as before; no message has been sent, and beside caches and reservations
nothing else has changed. -/
structure State.WordWritten (s n : State) (pa : Nat) (new : Option Word) : Prop where
  word    : (∀ x, new = some x → Claims.Writes s.mem n.mem pa (leBytes 4 x.toNat)) ∧ (new = none → n.mem = s.mem)
  near    : n.near = s.near
  threads : n.threads = s.threads
  sent    : n.sent = s.sent
  cleared : (∀ x, new = some x → n.reserves = (s.clearReserves false pa 4).reserves) ∧ (new = none → n.reserves = s.reserves)
/-- What a home leaves of a word that it has read. -/
def State.homeWrites (s : State) (pa : Nat) (new : Option Word) : State :=
  match new with
  | some x => (s.l2Read pa 4).memEngine pa (leBytes 4 x.toNat) none
  | none => s.l2Read pa 4
theorem State.homeWrites_written (s : State) (pa : Nat) (new : Option Word) : s.WordWritten (s.homeWrites pa new) pa new := by
  have hread := s.l2Read_l2Only pa 4
  have hmoves := (s.l2Read_engineReads pa 4).cachesMove
  have hsent : (s.l2Read pa 4).sent = s.sent := by rw [hread]
  cases new with
  | none => exact ⟨⟨nofun, fun _ => hmoves.mem⟩, hmoves.near, hmoves.threads, hsent, ⟨nofun, fun _ => hmoves.reserves⟩⟩
  | some x =>
    have hwritten := hmoves.memWritten ((s.l2Read pa 4).memEngine_written pa (leBytes 4 x.toNat) none)
    refine ⟨⟨fun y hy => ?_, nofun⟩, hwritten.near, hwritten.threads, (State.sent_memEngine ..).trans hsent, ⟨fun y _ => ?_, nofun⟩⟩
    · cases hy
      exact hwritten.bytes
    · have hreserves := hwritten.reserves
      rw [leBytes_length] at hreserves
      exact hreserves
/-! AtomicOps of the host (R301, R401) -/

theorem State.hostAtomic_clean {s : State} {pa : Nat} (kind : HostAtom) (value cmp : Word) (h : s.memPoisoned pa 4 = false) :
    s.hostAtomic pa kind value cmp = (s.homeWrites pa (hostNew kind (BitVec.ofNat 32 (leNat (s.memRead pa 4))) value cmp)).send
      (.atomicOld (BitVec.ofNat 32 (leNat (s.memRead pa 4)))) := by
  simp only [State.hostAtomic, h, Bool.false_eq_true, if_false]
  rfl
/-- A frame of which a function reaches four bytes holds device memory (R399). -/
theorem State.reaches_device {s : State} {fn : PcieFn} {off : Nat} (h : s.reaches fn off 4 = true) : off < 2 ^ 39 ∧ off % 2 ^ 37 < stackBytes := by
  simp only [State.reaches, Bool.and_eq_true, decide_eq_true_eq, List.all_eq_true] at h
  obtain ⟨⟨-, hend⟩, hframes⟩ := h
  have hfirst := (hframes (off / 2 ^ 21 * 2 ^ 21) (List.mem_map.2 ⟨0, List.mem_range.2 (Nat.succ_pos _), by rw [Nat.add_zero]⟩)).1
  unfold stackBytes at *
  omega
/-- A refused AtomicOp is counted at the owner of the frame (R401). -/
theorem State.refuseAtomic_counts {s : State} {fn : PcieFn} {off p : Nat} (hpower : s.mgmt.power = true) (hreach : s.reaches fn off 4 = true)
    (howner : s.frameOwner (frameOf off) = some p) :
    (s.refuseAtomic fn 2 off).sent = s.sent ++ [.unsupported] ∧ (s.refuseAtomic fn 2 off).mem = s.mem
      ∧ ((s.refuseAtomic fn 2 off).part p).aturCnt = (s.part p).aturCnt + 1
      ∧ ((s.refuseAtomic fn 2 off).part p).aturLast = BitVec.ofNat 64 (off % 2 ^ 39) := by
  obtain ⟨hend, hdevice⟩ := State.reaches_device hreach
  have hlast : (BitVec.ofNat 39 off).zeroExtend 64 = BitVec.ofNat 64 (off % 2 ^ 39) := by
    apply BitVec.eq_of_toNat_eq
    simp
  have hpart := State.part_onPart_self s p fun x => { x with aturCnt := x.aturCnt + 1, aturLast := (BitVec.ofNat 39 off).zeroExtend 64 }
  have hrefused : s.refuseAtomic fn 2 off = (s.onPart p fun x =>
      { x with aturCnt := x.aturCnt + 1, aturLast := (BitVec.ofNat 39 off).zeroExtend 64 }).unsupported fn := by
    unfold State.refuseAtomic
    rw [if_pos (show 2 = 2 ∧ off < 2 ^ 39 ∧ off % 2 ^ 37 < stackBytes from ⟨rfl, hend, hdevice⟩), howner]
  rw [hrefused, State.unsupported, if_pos (by exact hpower)]
  refine ⟨rfl, rfl, ?_, ?_⟩
  · exact congrArg Partition.aturCnt hpart
  · exact (congrArg Partition.aturLast hpart).trans hlast
theorem exec_hostAtomicop_served {s : State} {fn : PcieFn} {off p : Nat} (kind : HostAtom) (value cmp : Word) (hserves : s.serves fn 2 = true)
    (halign : off % 4 = 0) (hreach : s.reaches fn off 4 = true) (howner : s.frameOwner (frameOf off) = some p) (hpage : s.saPage p off = true) :
    exec (.hostAtomicop fn 2 off 4 kind value cmp) s = .next (s.hostAtomic off kind value cmp) := by
  have hpower : s.mgmt.power = true := by
    simp only [State.serves, Bool.and_eq_true] at hserves
    exact hserves.1.1.1
  show execHostAtomicop fn 2 off 4 kind value cmp s = _
  simp [execHostAtomicop, hpower, hserves, halign, hreach, howner, hpage]
theorem exec_hostAtomicop_refused {s : State} {fn : PcieFn} {off p size : Nat} (kind : HostAtom) (value cmp : Word) (hserves : s.serves fn 2 = true)
    (hpower : s.mgmt.power = true) (howner : s.frameOwner (frameOf off) = some p) (hrefused : s.saPage p off = false ∨ size ≠ 4) :
    exec (.hostAtomicop fn 2 off size kind value cmp) s = .next (s.refuseAtomic fn 2 off) := by
  show execHostAtomicop fn 2 off size kind value cmp s = _
  unfold execHostAtomicop
  rw [hpower, hserves, if_neg (by simp), if_neg (by simp), howner]
  split
  · rfl
  · next hok =>
    have hpage : s.saPage p off = false := hrefused.resolve_right fun h => hok (.inr (.inl h))
    dsimp only
    rw [hpage]
    rfl

/-! Requests of peers (R173, R404) -/

section
variable {s : State} {dev off : Nat} (hpower : s.mgmt.power = true) (hboot : s.mgmt.bootState = 2) (hfatal : s.mgmt.fatal = false)
include hpower hboot hfatal
theorem exec_peerRequest_read (n : Nat) : exec (.peerRequest dev (.read off n)) s = .next (s.forPeer dev off n (fun s =>
    (s.hostBytes off n).2.send (if s.memPoisoned off n then .peerPoison else .peerData (s.hostBytes off n).1))) :=
  if_neg (by simp [hpower, hboot, hfatal])
theorem exec_peerRequest_write (data : List Byte) : exec (.peerRequest dev (.write off data)) s
    = .next (s.forPeer dev off data.length (fun s => s.memEngine off data none)) := if_neg (by simp [hpower, hboot, hfatal])
theorem exec_peerRequest_atomic (op : AtomOp) (b c : Word) : exec (.peerRequest dev (.atomic off op b c)) s
    = .next (s.forPeer dev (off / 4 * 4) 4 (fun s => peerReply (s.peerAtomic (off / 4 * 4) (fun old => atomNew op old b c)))) :=
  if_neg (by simp [hpower, hboot, hfatal])
theorem exec_peerRequest_lr (thread : Nat) : exec (.peerRequest dev (.lr off thread)) s
    = .next (s.forPeer dev (off / 4 * 4) 4 (fun s => s.peerLr dev (off / 4 * 4) thread)) := if_neg (by simp [hpower, hboot, hfatal])
theorem exec_peerRequest_sc (thread : Nat) (b : Word) : exec (.peerRequest dev (.sc off thread b)) s
    = .next (s.forPeer dev (off / 4 * 4) 4 (fun s => s.peerSc dev (off / 4 * 4) thread b)) := if_neg (by simp [hpower, hboot, hfatal])
end
theorem State.forPeer_exported {s : State} {dev off n : Nat} (f : State → State) (h : s.exported dev off n = true) :
    s.forPeer dev off n f = f s := if_pos h
theorem State.forPeer_refused {s : State} {dev off n : Nat} (f : State → State) (h : s.exported dev off n = false) :
    s.forPeer dev off n f = s.send .peerNegative := if_neg (by simp [h])
/-- R173: the home performs a peer's request on a word that is not poisoned. -/
theorem State.peerAtomic_clean {s : State} {off : Nat} (new : Word → Option Word) (h : s.memPoisoned off 4 = false) :
    s.peerAtomic off new = (some (BitVec.ofNat 32 (leNat (s.memRead off 4))), s.homeWrites off (new (BitVec.ofNat 32 (leNat (s.memRead off 4))))) := by
  simp only [State.peerAtomic, h, Bool.false_eq_true, if_false]
  rfl

/-! Reservations of peers (R172) -/

/-- A reservation is of a peer's thread, on a line. -/
def Reserve.peerHolds (r : Reserve) (dev thread line : Nat) : Prop := r.peer = some dev ∧ r.thread.tid = thread ∧ r.line = line
theorem State.peerLr_clean {s : State} {dev off : Nat} (thread : Nat) (h : s.memPoisoned off 4 = false) :
    s.peerLr dev off thread = (((s.homeWrites off none).dropPeer dev thread).setReserve (peerReserve dev thread off)).send
      (.peerData (leBytes 4 (BitVec.ofNat 32 (leNat (s.memRead off 4))).toNat)) := by
  simp only [State.peerLr, State.peerAtomic_clean _ h]
  rfl
theorem State.peerSc_clean {s : State} {dev off thread : Nat} (b : Word) (h : s.memPoisoned off 4 = false) :
    ((∃ r ∈ s.reserves, r.peerHolds dev thread (off / 128)) →
      s.peerSc dev off thread b = ((s.homeWrites off (some b)).dropPeer dev thread).send (.peerData [0, 0, 0, 0]))
    ∧ ((∀ r ∈ s.reserves, ¬ r.peerHolds dev thread (off / 128)) →
      s.peerSc dev off thread b = ((s.homeWrites off none).dropPeer dev thread).send (.peerData [1, 0, 0, 0])) := by
  have hheld : s.reserves.any (fun r => r.peer == some dev && r.thread.tid == thread && r.line == off / 128) = true
      ↔ ∃ r ∈ s.reserves, r.peerHolds dev thread (off / 128) := by
    simp [Reserve.peerHolds, and_assoc]
  constructor
  · intro hholds
    simp only [State.peerSc, State.peerAtomic_clean _ h, hheld.2 hholds, if_true]
    exact congrArg (fun l => State.send _ (.peerData l)) (by decide : leBytes 4 (0 : Word).toNat = [0, 0, 0, 0])
  · intro hholds
    have hnone : s.reserves.any (fun r => r.peer == some dev && r.thread.tid == thread && r.line == off / 128) = false := by
      rw [← Bool.not_eq_true, hheld]
      simpa using hholds
    simp only [State.peerSc, State.peerAtomic_clean _ h, hnone, Bool.false_eq_true, if_false]
    exact congrArg (fun l => State.send _ (.peerData l)) (by decide : leBytes 4 (1 : Word).toNat = [1, 0, 0, 0])
theorem State.setReserve_rest (s : State) (r : Reserve) : (s.setReserve r).mem = s.mem ∧ (s.setReserve r).sent = s.sent := ⟨rfl, rfl⟩
theorem State.peerReserve_mem (s : State) (dev thread off : Nat) :
    ∃ r ∈ (s.setReserve (peerReserve dev thread off)).reserves, r.peerHolds dev thread (off / 128) :=
  ⟨peerReserve dev thread off, List.mem_append_right _ (List.mem_singleton.2 rfl), rfl, rfl, rfl⟩
theorem State.not_peerHolds_dropPeer {s : State} {dev thread : Nat} {r : Reserve} (line : Nat) (h : r ∈ (s.dropPeer dev thread).reserves) :
    ¬ r.peerHolds dev thread line := by
  rintro ⟨hpeer, hthread, -⟩
  simp [State.dropPeer, hpeer, hthread] at h

/-- Settles O53, from what the home makes of a word for the host and for peers. -/
theorem remoteAtomics : Obligations.RemoteAtomics := by
  constructor
  · intro s fn off p kind value cmp hserves halign hreach howner old new
    have hpower : s.mgmt.power = true := by
      simp only [State.serves, Bool.and_eq_true] at hserves
      exact hserves.1.1.1
    refine ⟨fun hpage hclean => ?_, fun size hrefused => ?_⟩
    · have hnew : hostNew kind old value cmp = new := by cases kind <;> rfl
      clear_value new
      have hwritten := s.homeWrites_written off new
      refine ⟨_, exec_hostAtomicop_served kind value cmp hserves halign hreach howner hpage, ?_⟩
      rw [State.hostAtomic_clean kind value cmp hclean, hnew]
      refine ⟨congrArg (· ++ _) hwritten.sent, hwritten.near, hwritten.threads, ?_⟩
      split
      · next x => exact hwritten.word.1 x rfl
      · exact hwritten.word.2 rfl
    · exact ⟨_, exec_hostAtomicop_refused kind value cmp hserves hpower howner hrefused, State.refuseAtomic_counts hpower hreach howner⟩
  · intro s dev off hpower hboot hfatal
    refine ⟨fun n hexported hclean => ?_, fun data hexported => ?_, ?_, ?_, fun n data op b c hread hwrite hatomic => ?_⟩
    · have hbytes : s.hostBytes off n = (s.memRead off n, s.l2Read off n) := by
        simp only [State.hostBytes, hclean, Bool.false_eq_true, if_false]
        rfl
      have honly := s.l2Read_l2Only off n
      refine ⟨_, exec_peerRequest_read hpower hboot hfatal n, ?_⟩
      rw [State.forPeer_exported _ hexported, hbytes, hclean]
      exact ⟨congrArg (· ++ _) (by rw [honly]), by rw [State.send, honly]⟩
    · have hwritten := s.memEngine_written off data none
      refine ⟨_, exec_peerRequest_write hpower hboot hfatal data, ?_⟩
      rw [State.forPeer_exported _ hexported]
      exact ⟨hwritten.bytes, hwritten.near⟩
    · intro op b c hexported halign hclean old
      have hword : off / 4 * 4 = off := by omega
      have hwritten := s.homeWrites_written off (Claims.swapped op old b c)
      refine ⟨_, exec_peerRequest_atomic hpower hboot hfatal op b c, ?_⟩
      rw [hword, State.forPeer_exported _ hexported, State.peerAtomic_clean _ hclean, atomNew_eq]
      refine ⟨congrArg (· ++ _) hwritten.sent, ?_⟩
      split
      · next x hx => exact hwritten.word.1 x hx
      · next hx => exact hwritten.word.2 hx
    · intro thread b hexported halign hclean old holds
      have hword : off / 4 * 4 = off := by omega
      have hlr := exec_peerRequest_lr (dev := dev) (off := off) hpower hboot hfatal thread
      have hsc := exec_peerRequest_sc (dev := dev) (off := off) hpower hboot hfatal thread b
      rw [hword, State.forPeer_exported _ hexported] at hlr hsc
      obtain ⟨hheld, hfree⟩ := State.peerSc_clean (dev := dev) (thread := thread) b hclean
      have hleft := s.homeWrites_written off none
      refine ⟨⟨_, hlr, ?_⟩, fun h => ⟨_, hsc, ?_⟩, fun h => ⟨_, hsc, ?_⟩⟩
      · rw [State.peerLr_clean thread hclean]
        obtain ⟨hmem, hsent⟩ := State.setReserve_rest ((s.homeWrites off none).dropPeer dev thread) (peerReserve dev thread off)
        exact ⟨congrArg (· ++ _) (hsent.trans hleft.sent), hmem.trans (hleft.word.2 rfl), State.peerReserve_mem ..⟩
      · have hwritten := s.homeWrites_written off (some b)
        rw [hheld h]
        exact ⟨congrArg (· ++ _) hwritten.sent, hwritten.word.1 b rfl, fun r hr => State.not_peerHolds_dropPeer (off / 128) hr⟩
      · rw [hfree h]
        exact ⟨congrArg (· ++ _) hleft.sent, hleft.word.2 rfl⟩
    · rw [exec_peerRequest_read hpower hboot hfatal, exec_peerRequest_write hpower hboot hfatal, exec_peerRequest_atomic hpower hboot hfatal,
        State.forPeer_refused _ hread, State.forPeer_refused _ hwrite, State.forPeer_refused _ hatomic]
      exact ⟨rfl, rfl, rfl⟩

end Sys2Proof.Machine
end

section
/-! SUPPORT. Fences and what drains the merge buffer (R164, R175, R222, R293); with the part of an obligation on them. -/
namespace Sys2Proof.Machine

/-! The release set of a core -/

theorem State.release_releaseCore (s : State) (c d : Nat) :
    ((s.releaseCore c).core d).release = if d = c then [] else (s.core d).release := by
  obtain ⟨m, hm, heq⟩ := State.releaseCore_eq s c
  have hcore : m.core d = s.core d := by rw [hm]; rfl
  rw [heq]
  by_cases h : d = c
  · subst h
    rw [State.core_onCore_self, if_pos rfl]
  · rw [State.core_onCore_ne m _ h, if_neg h, hcore]
theorem State.promote_releaseCore (s : State) (c d : Nat) : ((s.releaseCore c).core d).promote = (s.core d).promote := by
  obtain ⟨m, hm, heq⟩ := State.releaseCore_eq s c
  have hcore : m.core d = s.core d := by rw [hm]; rfl
  rw [heq]
  by_cases h : d = c
  · subst h
    rw [State.core_onCore_self, ← hcore]
  · rw [State.core_onCore_ne m _ h, hcore]
theorem State.release_foldl_releaseCore (l : List Nat) (s : State) (d : Nat) :
    ((l.foldl (fun s c => s.releaseCore c) s).core d).release = if d ∈ l then [] else (s.core d).release := by
  induction l generalizing s with
  | nil => rfl
  | cons c l ih =>
    rw [List.foldl_cons, ih, State.release_releaseCore]
    by_cases h1 : d ∈ l <;> by_cases h2 : d = c <;> simp [h1, h2]
theorem mem_promoted {v : BitVec 256} {c : Nat} : c ∈ promoted v ↔ c < 256 ∧ v.getLsbD c = true := by
  simp [promoted]
/-- R293: an acquire has the promoted cores release. -/
theorem State.release_acquireWide (s : State) (core d : Nat) :
    ((s.acquireWide core).core d).release = if d ∈ promoted (s.core core).promote then [] else (s.core d).release := by
  refine Eq.trans ?_ (State.release_foldl_releaseCore (promoted (s.core core).promote) s d)
  unfold State.acquireWide State.discardClean
  dsimp only
  by_cases h : d = core
  · subst h
    rw [State.core_onCore_self, State.core_onCore_self]
  · rw [State.core_onCore_ne _ _ h, State.core_onCore_ne _ _ h]
theorem State.release_acquireWide_nil {s : State} (core : Nat) {d : Nat} (h : (s.core d).release = []) :
    ((s.acquireWide core).core d).release = [] := by
  rw [State.release_acquireWide, h, ite_self]
/-- R293, R310: an acquire leaves a core no clean line and no FFU line. -/
theorem State.core_acquireWide (s : State) (core : Nat) : ((s.acquireWide core).core core).clean = []
    ∧ ((s.acquireWide core).core core).ffu = [] ∧ ((s.acquireWide core).core core).promote = 0 := by
  unfold State.acquireWide State.discardClean
  dsimp only
  rw [State.core_onCore_self, State.core_onCore_self]
  exact ⟨rfl, rfl, rfl⟩

/-! Fences -/

theorem scopeWide_eq_true {c : Scope} : scopeWide c = true ↔ c = .cluster ∨ c = .device ∨ c = .system := by
  simp [scopeWide, or_assoc]
/-- What a fence does in its core (R175). -/
def State.fenced (s : State) (core : Nat) (kind : FenceKind) (scope : Scope) : State :=
  match kind with
  | .release => s.release core scope
  | .acquire => s.acquire core scope
  | .full => (s.release core scope).acquire core scope
theorem State.release_cachesMove (s : State) (core : Nat) (scope : Scope) : s.CachesMove (s.release core scope) := by
  unfold State.release
  split
  · exact State.releaseCore_cachesMove ..
  · exact .refl s
theorem State.acquire_cachesMove (s : State) (core : Nat) (scope : Scope) : s.CachesMove (s.acquire core scope) := by
  unfold State.acquire
  split
  · exact State.acquireWide_cachesMove ..
  · exact .refl s
theorem State.fenced_cachesMove (s : State) (core : Nat) (kind : FenceKind) (scope : Scope) : s.CachesMove (s.fenced core kind scope) := by
  cases kind with
  | release => exact State.release_cachesMove ..
  | acquire => exact State.acquire_cachesMove ..
  | full => exact (State.release_cachesMove ..).trans (State.acquire_cachesMove ..)
theorem State.fenced_narrow (s : State) (core : Nat) (kind : FenceKind) {scope : Scope} (h : scopeWide scope = false) :
    s.fenced core kind scope = s := by
  cases kind <;> simp only [State.fenced, State.release, State.acquire, h, Bool.false_eq_true, if_false]
theorem State.fenced_releases (s : State) (core : Nat) {kind : FenceKind} {scope : Scope} (h : scopeWide scope = true) (hkind : kind ≠ .acquire) :
    ((s.fenced core kind scope).core core).release = [] := by
  have hreleased : ((s.releaseCore core).core core).release = [] := by rw [State.release_releaseCore, if_pos rfl]
  cases kind with
  | release =>
    simp only [State.fenced, State.release, h, if_true]
    exact hreleased
  | acquire => exact absurd rfl hkind
  | full =>
    simp only [State.fenced, State.release, State.acquire, h, if_true]
    exact State.release_acquireWide_nil core hreleased
theorem State.fenced_acquires (s : State) (core : Nat) {kind : FenceKind} {scope : Scope} (h : scopeWide scope = true) (hkind : kind ≠ .release) :
    ((s.fenced core kind scope).core core).clean = [] ∧ ((s.fenced core kind scope).core core).ffu = []
      ∧ ((s.fenced core kind scope).core core).promote = 0
      ∧ ∀ c, c < 256 → (s.core core).promote.getLsbD c = true → ((s.fenced core kind scope).core c).release = [] := by
  have hacquires : ∀ m : State, (m.core core).promote = (s.core core).promote → ((m.acquireWide core).core core).clean = []
      ∧ ((m.acquireWide core).core core).ffu = [] ∧ ((m.acquireWide core).core core).promote = 0
      ∧ ∀ c, c < 256 → (s.core core).promote.getLsbD c = true → ((m.acquireWide core).core c).release = [] := fun m hm => by
    obtain ⟨hclean, hffu, hpromote⟩ := m.core_acquireWide core
    refine ⟨hclean, hffu, hpromote, fun c hc hbit => ?_⟩
    rw [State.release_acquireWide, hm, if_pos (mem_promoted.2 ⟨hc, hbit⟩)]
  cases kind with
  | release => exact absurd rfl hkind
  | acquire =>
    simp only [State.fenced, State.acquire, h, if_true]
    exact hacquires s rfl
  | full =>
    simp only [State.fenced, State.release, State.acquire, h, if_true]
    exact hacquires _ (State.promote_releaseCore s core core)
theorem exec_fence {s : State} {t : Thread} {w : Workgroup} {kind : FenceKind} {scope : Scope} (hs : s.Issues [t])
    (run : s.Runs (.fence kind scope) t w) :
    exec (.fence kind scope) s = .next ((s.onThread t.ref Thread.advance).fenced w.core kind scope).finish := by
  refine (issueLanes_one hs run).trans (congrArg (fun m : State => Host.Outcome.next m.finish) ?_)
  cases kind <;> rfl

/-! What drains the merge buffer (R164) -/

/-- The bytes of a buffer before and after a drain, where the drain takes those that `p` tells. -/
structure State.Drains (s n : State) (p : Nat → Prop) : Prop where
  seen  : ∀ a, n.nearSeen a = s.nearSeen a
  taken : ∀ a, p a → n.nearByte a = s.nearSeen a ∧ Tbl.find n.merge a = none
  left  : ∀ a, ¬ p a → n.nearByte a = s.nearByte a ∧ Tbl.find n.merge a = Tbl.find s.merge a
theorem State.drainMerge_drains (s : State) (p : Nat → Nat → Bool) : s.Drains (s.drainMerge p) (fun a => s.drains p a = true) := by
  refine ⟨fun a => State.nearSeen_drainMerge .., fun a ha => ?_, fun a ha => ?_⟩
  · rw [State.nearByte_drainMerge, State.find_merge_drainMerge, if_pos ha, if_pos ha]
    exact ⟨rfl, rfl⟩
  · rw [State.nearByte_drainMerge, State.find_merge_drainMerge, if_neg ha, if_neg ha]
    exact ⟨rfl, rfl⟩
/-- R175, R222: FENCE.PATH drains the blocks that its thread has stored to, OPRDY those of its core's slice. -/
theorem State.drains_iff (s : State) (t : Thread) (core a : Nat) :
    (s.drains (fun _ by_ => by_ == refKey t.ref) a = true ↔ ∃ x ∈ s.merge, x.1 / 16 = a / 16 ∧ refKey t.ref ∈ x.2.2)
      ∧ (s.drains (fun a by_ => by_ == refKey t.ref && a / 2 ^ 19 == core) a = true
        ↔ ∃ x ∈ s.merge, x.1 / 16 = a / 16 ∧ refKey t.ref ∈ x.2.2 ∧ a / 2 ^ 19 = core) := by
  have hwriter : ∀ l : List Nat, l.any (fun by_ => by_ == refKey t.ref) = true ↔ refKey t.ref ∈ l := fun l => by
    simp
  simp only [State.drains, List.any_eq_true, Bool.and_eq_true, beq_iff_eq]
  constructor
  · exact exists_congr fun x => and_congr_right fun _ => and_congr_right fun _ => ⟨by rintro ⟨y, hy, rfl⟩; exact hy, fun h => ⟨_, h, rfl⟩⟩
  · refine exists_congr fun x => and_congr_right fun _ => and_congr_right fun hblock => ?_
    have hslice : x.1 / 2 ^ 19 = a / 2 ^ 19 := by omega
    rw [hslice]
    exact ⟨by rintro ⟨y, hy, rfl, h⟩; exact ⟨hy, h⟩, fun ⟨h, hc⟩ => ⟨_, h, rfl, hc⟩⟩

/-- The end of a word that drains blocks, and at most discards FFU lines beside. -/
theorem State.drainMerge_over {s m : State} {t : Thread} (p : Nat → Nat → Bool) (ht : s.thread t.ref = some t)
    (hm : m = { (s.onThread t.ref Thread.advance).drainMerge p with cores := m.cores }) (htraps : s.traps = []) :
    m.finish.thread t.ref = some t.advance ∧ m.finish.mem = s.mem ∧ m.finish.reqs = s.reqs ∧ m.finish.wgs = s.wgs
      ∧ (∀ r, refKey r ≠ refKey t.ref → m.finish.thread r = s.thread r) ∧ s.Drains m.finish (fun a => s.drains p a = true) := by
  have hrest := (s.onThread t.ref Thread.advance).drainMerge_rest p
  obtain ⟨hseen, htaken, hleft⟩ := (s.onThread t.ref Thread.advance).drainMerge_drains p
  rw [State.finish_over (by rw [hm, hrest]; exact htraps)]
  refine ⟨?_, ?_, ?_, ?_, fun r hr => ?_, ⟨fun a => ?_, fun a ha => ?_, fun a ha => ?_⟩⟩
  · rw [hm, hrest]
    exact State.thread_onThread_some ht (Thread.advance_ref t)
  · rw [hm, hrest]
    rfl
  · rw [hm, hrest]
    rfl
  · rw [hm, hrest]
    rfl
  · rw [hm, hrest]
    exact State.thread_onThread_ne s _ hr
  · rw [hm]
    exact hseen a
  · rw [hm]
    exact htaken a ha
  · rw [hm]
    exact hleft a ha
theorem State.Drains.congr {s n : State} {p q : Nat → Prop} (h : s.Drains n p) (hpq : ∀ a, p a ↔ q a) : s.Drains n q :=
  ⟨h.seen, fun a ha => h.taken a ((hpq a).2 ha), fun a ha => h.left a fun hp => ha ((hpq a).1 hp)⟩
/-- R164, R175, R222: FENCE.PATH and OPRDY. -/
theorem exec_drain {s : State} {t : Thread} {w : Workgroup} {i : Instr} (hs : s.Issues [t]) (hi : i = .fencePath ∨ i = .oprdy) (run : s.Runs i t w) :
    ∃ m, exec i s = .next m ∧ m.thread t.ref = some t.advance ∧ m.mem = s.mem ∧ m.reqs = s.reqs ∧ m.wgs = s.wgs
      ∧ (∀ r, refKey r ≠ refKey t.ref → m.thread r = s.thread r)
      ∧ s.Drains m (fun a => ∃ x ∈ s.merge, x.1 / 16 = a / 16 ∧ refKey t.ref ∈ x.2.2 ∧ (i = .fencePath ∨ a / 2 ^ 19 = w.core)) := by
  have ht := hs.resident t (by simp)
  rcases hi with rfl | rfl
  · obtain ⟨hthread, hmem, hreqs, hwgs, hothers, hdrains⟩ := State.drainMerge_over
      (m := ((s.onThread t.ref Thread.advance).drainMerge (fun _ by_ => by_ == refKey t.ref)).onCore w.core (fun c => { c with ffu := [] }))
      (fun _ by_ => by_ == refKey t.ref) ht rfl hs.settled
    exact ⟨_, issueLanes_one hs run, hthread, hmem, hreqs, hwgs, hothers, hdrains.congr fun a => by simpa using (s.drains_iff t w.core a).1⟩
  · obtain ⟨hthread, hmem, hreqs, hwgs, hothers, hdrains⟩ := State.drainMerge_over
      (m := (s.onThread t.ref Thread.advance).drainMerge (fun a by_ => by_ == refKey t.ref && a / 2 ^ 19 == w.core))
      (fun a by_ => by_ == refKey t.ref && a / 2 ^ 19 == w.core) ht rfl hs.settled
    exact ⟨_, issueLanes_one hs run, hthread, hmem, hreqs, hwgs, hothers, hdrains.congr fun a => by simpa using (s.drains_iff t w.core a).2⟩

/-- R175, R222, R289, R293, R310: fences, FENCE.PATH and OPRDY. -/
theorem fences : Claims.Fences := by
  intro s t w hs
  have ht := hs.resident t (by simp)
  refine ⟨fun kind scope run => ?_, fun i hi run => ?_⟩
  · have hmoves := (s.onThread t.ref Thread.advance).fenced_cachesMove w.core kind scope
    have hfinish := State.finish_over (s := (s.onThread t.ref Thread.advance).fenced w.core kind scope) (hmoves.traps.trans hs.settled)
    have hexec := exec_fence hs run
    rw [hfinish] at hexec
    refine ⟨_, hexec, (hmoves.thread _).trans (State.thread_onThread_some ht (Thread.advance_ref t)),
      ⟨⟨hmoves.mem, hmoves.near, hmoves.merge, hmoves.empties⟩, ⟨hmoves.wgs, hmoves.launches, hmoves.ops⟩,
        fun r hr => (hmoves.thread r).trans (State.thread_onThread_ne s _ hr)⟩, hmoves.reqs, fun hcluster hdevice hsystem => ?_, fun hwide hkind => ?_,
      fun hwide hkind => ?_⟩
    · have hnarrow : scopeWide scope = false := by
        rw [← Bool.not_eq_true, scopeWide_eq_true]
        simp [hcluster, hdevice, hsystem]
      rw [State.fenced_narrow _ _ _ hnarrow]
    · exact State.fenced_releases _ _ (scopeWide_eq_true.2 hwide) hkind
    · exact State.fenced_acquires (s.onThread t.ref Thread.advance) _ (scopeWide_eq_true.2 hwide) hkind
  · obtain ⟨m, hexec, hthread, hmem, hreqs, hwgs, hothers, hdrains⟩ := exec_drain hs hi run
    refine ⟨m, hexec, hthread, hmem, hreqs, hwgs, hothers, hdrains.seen, fun a => ?_⟩
    have hseen := s.nearSeen_eq a
    cases hfind : Tbl.find s.merge a with
    | some e =>
      rw [hfind] at hseen
      refine ⟨fun hp => ?_, fun hp => ?_⟩
      · obtain ⟨hbyte, hmerge⟩ := hdrains.taken a hp
        exact ⟨hbyte.trans hseen, hmerge⟩
      · obtain ⟨hbyte, hmerge⟩ := hdrains.left a hp
        exact ⟨hbyte, hmerge.trans hfind⟩
    | none =>
      rw [hfind] at hseen
      by_cases hp : ∃ x ∈ s.merge, x.1 / 16 = a / 16 ∧ refKey t.ref ∈ x.2.2 ∧ (i = .fencePath ∨ a / 2 ^ 19 = w.core)
      · obtain ⟨hbyte, hmerge⟩ := hdrains.taken a hp
        exact ⟨hbyte.trans hseen, hmerge⟩
      · obtain ⟨hbyte, hmerge⟩ := hdrains.left a hp
        exact ⟨hbyte, hmerge.trans hfind⟩

end Sys2Proof.Machine
end

section
/-! SUPPORT. Threads of a workgroup when one of them stops or all go on; the barriers of a workgroup (R177, R178); with the part of an
obligation on them. -/
namespace Sys2Proof.Machine

/-! Live threads -/

/-- In a keyed state a live thread is filed under its own reference. -/
theorem State.thread_of_live {s : State} {g : Nat} {u : Thread} (hk : s.Keyed) (hu : u ∈ s.live g) : s.thread u.ref = some u := by
  obtain ⟨⟨k, hmem⟩, -, -⟩ := State.mem_live.1 hu
  have hkey : k = refKey u.ref := hk.2 _ hmem
  exact Tbl.find_of_mem hk.1 (hkey ▸ hmem)
theorem State.eq_of_live {s : State} {g : Nat} {t u : Thread} (hk : s.Keyed) (ht : s.thread t.ref = some t) (hu : u ∈ s.live g)
    (h : refKey u.ref = refKey t.ref) : u = t := by
  have hthread := State.thread_of_live hk hu
  rw [State.thread_congr s h, ht] at hthread
  exact (Option.some.inj hthread).symm
/-- A change of a thread that is filed once tells by what becomes of that thread. -/
theorem State.onThread_congr {s : State} {r : ThreadRef} {t : Thread} {f g : Thread → Thread} (hk : s.Keyed) (ht : s.thread r = some t)
    (h : f t = g t) : s.onThread r f = s.onThread r g := by
  unfold State.onThread Tbl.modify
  congr 1
  refine List.map_congr_left fun e he => ?_
  by_cases hkey : e.1 = refKey r
  · have hfind := Tbl.find_of_mem hk.1 (k := e.1) (a := e.2) he
    rw [hkey] at hfind
    have het : e.2 = t := Option.some.inj (hfind.symm.trans ht)
    rw [if_pos hkey, if_pos hkey, het, Thread.kept, Thread.kept, h]
  · rw [if_neg hkey, if_neg hkey]

section
variable {s : State} {t : Thread} {f : Thread → Thread} (hk : s.Keyed) (ht : s.thread t.ref = some t) (hf : (f t).ref = t.ref)
include ht hf
theorem State.mem_live_onThread_self (hexited : (f t).exited = false) : f t ∈ (s.onThread t.ref f).live t.ref.wg := by
  refine State.mem_live.2 ⟨⟨refKey t.ref, Tbl.mem_modify.2 (.inr ⟨t, Tbl.mem_of_find ht, ?_⟩)⟩, by rw [hf], hexited⟩
  rw [Thread.kept_eq hf]
include hk
/-- After a change of a live thread: that one has changed, and the others are live as they were. -/
theorem State.live_onThread {g : Nat} {P : Thread → Prop} (hself : t.ref.wg = g → P (f t)) (hothers : ∀ u ∈ s.live g, u.ref ≠ t.ref → P u) :
    ∀ v ∈ (s.onThread t.ref f).live g, P v := by
  intro v hv
  rcases State.mem_live_onThread hk hv with ⟨hlive, hne⟩ | ⟨a, ha, hva⟩
  · exact hothers v hlive fun e => hne (by rw [e])
  · rw [ht] at ha
    cases ha
    rw [Thread.kept_eq hf] at hva
    subst hva
    exact hself (by rw [← hf]; exact (State.mem_live.1 hv).2.1)
/-- A live thread as it is filed after the change. -/
theorem State.thread_onThread_live {g : Nat} {u : Thread} (hu : u ∈ s.live g) :
    (s.onThread t.ref f).thread u.ref = some (if u = t then f t else u) := by
  by_cases h : refKey u.ref = refKey t.ref
  · have hut := State.eq_of_live hk ht hu h
    rw [if_pos hut, hut]
    exact State.thread_onThread_some ht hf
  · rw [if_neg fun e => h (by rw [e]), State.thread_onThread_ne s f h]
    exact State.thread_of_live hk hu
end
theorem State.live_isEmpty_false {s : State} {g : Nat} {u : Thread} (hu : u ∈ s.live g) : (s.live g).isEmpty = false := by
  rw [List.isEmpty_eq_false_iff_exists_mem]
  exact ⟨u, hu⟩

/-- A thread after a change of every live thread of a workgroup. -/
theorem State.thread_onLive (s : State) (g : Nat) (f : Thread → Thread) (r : ThreadRef) : (s.onLive g f).thread r
    = (s.thread r).map (fun a => if (a.ref.wg == g && !a.exited) = true then Thread.kept f a else a) :=
  Tbl.find_mapIf s.threads (fun a => (a.ref.wg == g && !a.exited) = true) (Thread.kept f) (refKey r)
theorem State.thread_onLive_some {s : State} {g : Nat} {f : Thread → Thread} {r : ThreadRef} {u : Thread} (h : s.thread r = some u)
    (hg : u.ref.wg = g) (hexited : u.exited = false) (hf : (f u).ref = u.ref) : (s.onLive g f).thread r = some (f u) := by
  rw [State.thread_onLive, h, Option.map_some, hg, hexited, Thread.kept_eq hf]
  simp
theorem State.thread_onLive_ne {s : State} {g : Nat} {f : Thread → Thread} {r : ThreadRef} {u : Thread} (h : s.thread r = some u)
    (hg : u.ref.wg ≠ g) : (s.onLive g f).thread r = some u := by
  rw [State.thread_onLive, h, Option.map_some, beq_false_of_ne hg, Bool.false_and, if_neg Bool.false_ne_true]

/-! A thread that waits, then goes on -/

/-- A thread that has waited at its word goes on as one that has not: the SCHED hint of a word arms once (R102). -/
theorem Thread.advance_park (t : Thread) (x : Stall) : (t.park x).advance = t.advance := by
  cases h : t.hint.bind (·.sched) with
  | none =>
    simp only [Thread.advance, Thread.goto, Thread.park, Thread.arm, h, Thread.leaveRun, Thread.runHas]
    split <;> rfl
  | some e =>
    obtain ⟨hint, hhint, hsched⟩ := Option.bind_eq_some_iff.1 h
    simp only [Thread.advance, Thread.goto, Thread.park, Thread.arm, hhint, hsched, Option.map_some, Option.bind_some, Thread.leaveRun, Thread.runHas]
    split <;> rfl
theorem Thread.park_bars (t : Thread) (x : Stall) (b : BitVec 4) : { t.park x with bars := b } = ({ t with bars := b } : Thread).park x := by
  unfold Thread.park Thread.arm
  dsimp only
  split <;> rfl
theorem Thread.setP_eq (t : Thread) (k : PReg) (b : Bool) : t.setP k b = { t with p := (t.setP k b).p } := by
  unfold Thread.setP
  split <;> rfl
theorem Thread.park_setP (t : Thread) (x : Stall) (pd : PReg) (flag : Bool) : (t.park x).setP pd flag = (t.setP pd flag).park x := by
  unfold Thread.setP
  by_cases h : (pd == 0) = true
  · rw [if_pos h, if_pos h]
  · rw [if_neg h, if_neg h]
    unfold Thread.park Thread.arm
    dsimp only
    split <;> rfl

/-! Barriers of a workgroup -/

/-- The bit of one barrier of four. -/
theorem getLsbD_barrierBit (n k : BitVec 2) : (1#4 <<< n.toNat).getLsbD k.toNat = decide (k = n) := by
  revert n k
  decide
theorem filter_barrier (n : BitVec 2) : ([0, 1, 2, 3] : List (BitVec 2)).filter (fun k => decide (k = n)) = [n] := by
  revert n
  decide
theorem barrierBit_cleared (n : BitVec 2) : (1#4 <<< n.toNat) &&& ~~~(1#4 <<< n.toNat) = 0 := by
  revert n
  decide
/-- Where every live thread waits at one barrier, that one completes (R177). -/
theorem State.barrierCheck_complete {s : State} {g : Nat} {n : BitVec 2} {u : Thread} (hu : u ∈ s.live g)
    (hall : ∀ v ∈ s.live g, v.bars = 1#4 <<< n.toNat ∧ v.stall = .barrier n) : s.barrierCheck g = s.barrierDone g n := by
  have hone : ∀ k : BitVec 2, (s.live g).all (fun t => t.arrivedAt k) = decide (k = n) := fun k => by
    have harrived : ∀ v ∈ s.live g, v.arrivedAt k = decide (k = n) := fun v hv => by
      obtain ⟨hbars, hstall⟩ := hall v hv
      rw [Thread.arrivedAt, hbars, hstall, getLsbD_barrierBit]
      by_cases h : k = n <;> simp [h]
    by_cases h : k = n
    · rw [decide_eq_true h, List.all_eq_true]
      exact fun v hv => by rw [harrived v hv, decide_eq_true h]
    · rw [decide_eq_false h, List.all_eq_false]
      exact ⟨u, hu, by rw [harrived u hu, decide_eq_false h]; exact Bool.false_ne_true⟩
  have hfilter := filter_barrier n
  unfold State.barrierCheck
  simp only [State.live_isEmpty_false hu, Bool.false_eq_true, if_false, hone, hfilter, List.foldl_cons, List.foldl_nil]
/-- A thread that waits at the barrier that completes (R177). -/
theorem State.thread_barrierDone {s : State} {g : Nat} {n : BitVec 2} {r : ThreadRef} {v : Thread} (h : s.thread r = some v) (hg : v.ref.wg = g)
    (hexited : v.exited = false) (hbars : v.bars = 1#4 <<< n.toNat) (hstall : v.stall = .barrier n) :
    (s.barrierDone g n).thread r = some ({ v with bars := 0 } : Thread).advance := by
  refine (State.thread_onLive_some (s := s.onWg g (fun w => { w with phases := w.phases ^^^ (1#4 <<< n.toNat) })) h hg hexited ?_).trans ?_
  · dsimp only
    rw [if_pos hstall, Thread.advance_ref]
  · dsimp only
    rw [if_pos hstall, hbars, barrierBit_cleared]

theorem State.wg_barrierDone_self (s : State) (g : Nat) (n : BitVec 2) :
    (s.barrierDone g n).wg g = (s.wg g).map (fun w => { w with phases := w.phases ^^^ (1#4 <<< n.toNat) }) :=
  State.wg_onWg_self s g (fun w => { w with phases := w.phases ^^^ (1#4 <<< n.toNat) })
theorem State.wg_barrierDone_ne (s : State) {g k : Nat} (n : BitVec 2) (h : k ≠ g) : (s.barrierDone g n).wg k = s.wg k :=
  State.wg_onWg_ne s (fun w => { w with phases := w.phases ^^^ (1#4 <<< n.toNat) }) h
/-- A thread with no other arrival that waits as arrived at barrier n. -/
def Thread.arriveAt (t : Thread) (n : BitVec 2) : Thread := { t.park (.barrier n) with bars := 1#4 <<< n.toNat }
theorem Thread.arriveAt_ref (t : Thread) (n : BitVec 2) : (t.arriveAt n).ref = t.ref := Thread.arm_ref t
theorem Thread.arriveAt_exited (t : Thread) (n : BitVec 2) : (t.arriveAt n).exited = t.exited := Thread.arm_exited t
theorem Thread.arriveAt_passes (t : Thread) (n : BitVec 2) :
    ({ t.arriveAt n with bars := 0 } : Thread).advance = ({ t with bars := 0 } : Thread).advance := by
  rw [← Thread.advance_park { t with bars := 0 } (.barrier n), ← Thread.park_bars]
  rfl
theorem exec_bar {s : State} {t : Thread} {w : Workgroup} {n : BitVec 2} (hs : s.Issues [t]) (run : s.Runs (.bar n) t w) (hk : s.Keyed)
    (hbars : t.bars = 0) (hrebars : t.rebars = 0) :
    exec (.bar n) s = .next ((s.onThread t.ref (fun u => u.arriveAt n)).barrierCheck t.ref.wg).finish := by
  refine (issueLanes_one hs run).trans (congrArg (fun m : State => Host.Outcome.next m.finish) ?_)
  rw [State.arrive, hrebars, BitVec.ofNat_eq_ofNat, BitVec.getLsbD_zero, if_neg Bool.false_ne_true]
  refine congrArg (fun m : State => m.barrierCheck t.ref.wg) (State.onThread_congr hk (hs.resident t (by simp)) ?_)
  dsimp only
  rw [hbars, BitVec.ofNat_eq_ofNat, BitVec.zero_or]
  rfl

/-- R177, R178: the barriers of a workgroup. -/
theorem barriers : Claims.Barriers := by
  intro s t w n hs run htogether hbars hrebars
  obtain ⟨hk, ⟨ht, hw, hexited, -⟩, -⟩ := htogether
  have hexec := exec_bar hs run hk hbars hrebars
  have href := t.arriveAt_ref n
  refine ⟨?_, fun hall => ?_⟩
  · rintro ⟨u, hu, hne, hubars, hstall⟩
    have hlive := State.mem_live_onThread_ne (f := fun u => u.arriveAt n) hk hu fun e => hne (by rw [State.eq_of_live hk ht hu e])
    rw [hexec, State.barrierCheck_running hlive hubars hstall, State.finish_over (by exact hs.settled)]
    rfl
  · have hself := State.mem_live_onThread_self (f := fun u => u.arriveAt n) ht href ((t.arriveAt_exited n).trans hexited)
    have hwaits : ∀ v ∈ (s.onThread t.ref fun u => u.arriveAt n).live t.ref.wg, v.bars = 1#4 <<< n.toNat ∧ v.stall = .barrier n :=
      State.live_onThread (f := fun u => u.arriveAt n) hk ht href (fun _ => ⟨rfl, rfl⟩) hall
    rw [State.barrierCheck_complete hself hwaits, State.finish_over (by exact hs.settled)] at hexec
    refine ⟨_, hexec, ?_, fun u hu => ?_, fun g hg => (s.onThread t.ref fun u => u.arriveAt n).wg_barrierDone_ne n hg, rfl, rfl, rfl⟩
    · refine ((s.onThread t.ref fun u => u.arriveAt n).wg_barrierDone_self t.ref.wg n).trans ?_
      rw [State.wg_onThread, show s.wg t.ref.wg = some w from hw, Option.map_some]
    · obtain ⟨-, hwg, hlives⟩ := State.mem_live.1 hu
      have hthread := State.thread_onThread_live (f := fun u => u.arriveAt n) hk ht href hu
      by_cases h : u = t
      · rw [if_pos h] at hthread
        rw [h, ← t.arriveAt_passes n, ← h]
        rw [← h] at hthread
        exact State.thread_barrierDone hthread (by rw [Thread.arriveAt_ref, hwg]) ((u.arriveAt_exited n).trans hlives) rfl rfl
      · rw [if_neg h] at hthread
        have hne : u.ref ≠ t.ref := fun e => h (State.eq_of_live hk ht hu (by rw [e]))
        exact State.thread_barrierDone hthread hwg hlives (hall u hu hne).1 (hall u hu hne).2

end Sys2Proof.Machine
end

section
/-! SUPPORT. Team barriers of one and of two workgroups: who arrives, and how the members are released (R180, R181); with the obligation on
fences and barriers. -/
namespace Sys2Proof.Machine

/-! Arrivals at a team barrier -/

/-- The index of a member that now arrives: its workgroup has not arrived before, and every live thread of it waits at the TBAR. -/
def State.teamJoin (s : State) (launch team : Nat) (bar : TeamBar) (m : MemberWord) : Option Nat :=
  match s.resident launch m.index with
  | some g => match s.wg g with
    | some w => if !bar.arrived.contains m.index && !(s.live g).isEmpty && (s.live g).all (waitsTeam w team) then some m.index else none
    | none => none
  | none => none
/-- The barrier as a launch's team finds it. -/
def State.teamBar (s : State) (launch team : Nat) : TeamBar := Tbl.get { arrived := [], owed := [] } s.teamBars (teamKey launch team)
/-- The barrier with its new arrivals. -/
def State.teamArrive (s : State) (launch team : Nat) (arrived : List Nat) : State :=
  { s with teamBars := Tbl.insert s.teamBars (teamKey launch team) { s.teamBar launch team with arrived := arrived } }
/-- What the arrivals at a team barrier come to (R180, R181). -/
def State.teamSettle (s : State) (launch team : Nat) (l : Launch) (arrived : List Nat) : State :=
  let waiting := arrived.filter (fun i => !l.retired.contains i)
  if waiting.isEmpty || !l.local_ s.mgmt.orbitDev.toNat team then s.teamArrive launch team arrived
  else if (l.members s.mgmt.orbitDev.toNat team).all (fun m => arrived.contains m.index || l.retired.contains m.index) then
    (s.teamArrive launch team arrived).teamDone launch team waiting (if 1 ≤ l.det then some (waiting.foldl max 0) else waiting.getLast?)
  else s.teamArrive launch team arrived
theorem State.teamCheck_eq {s : State} {launch team : Nat} {l : Launch} (hl : s.launch launch = some l) : s.teamCheck launch team
    = s.teamSettle launch team l ((s.teamBar launch team).arrived
      ++ (l.members s.mgmt.orbitDev.toNat team).filterMap (s.teamJoin launch team (s.teamBar launch team))) := by
  unfold State.teamCheck
  rw [hl]
  rfl
section
variable {s : State} {launch team : Nat} {l : Launch} {arrived : List Nat} (hretired : l.retired = [])
include hretired
/-- Where a member is still to come, those that have arrived wait. -/
theorem State.teamSettle_waits (h : arrived = [] ∨ ∃ m ∈ l.members s.mgmt.orbitDev.toNat team, m.index ∉ arrived) :
    s.teamSettle launch team l arrived = s.teamArrive launch team arrived := by
  unfold State.teamSettle
  dsimp only
  split
  · rfl
  · next hsome =>
    rw [if_neg]
    rcases h with rfl | ⟨m, hm, hout⟩
    · exact absurd (by rfl) hsome
    · rw [List.all_eq_true]
      intro hall
      have := hall m hm
      simp [hretired, hout] at this
/-- With every member there, the barrier completes. -/
theorem State.teamSettle_completes (hlocal : l.local_ s.mgmt.orbitDev.toNat team = true) (hsome : arrived ≠ [])
    (hall : ∀ m ∈ l.members s.mgmt.orbitDev.toNat team, m.index ∈ arrived) : s.teamSettle launch team l arrived
      = (s.teamArrive launch team arrived).teamDone launch team arrived (if 1 ≤ l.det then some (arrived.foldl max 0) else arrived.getLast?) := by
  have hwaiting : arrived.filter (fun i => !l.retired.contains i) = arrived := by simp [hretired]
  have hcome : (l.members s.mgmt.orbitDev.toNat team).all (fun m => arrived.contains m.index || l.retired.contains m.index) = true :=
    List.all_eq_true.2 fun m hm => by simp [hall m hm]
  unfold State.teamSettle
  simp only [hwaiting, hlocal, hcome, List.isEmpty_eq_false_iff.2 hsome, Bool.not_true, Bool.or_false, Bool.false_eq_true, if_false, if_true]
end

section
variable {s : State} {launch team g : Nat} {bar : TeamBar} {m : MemberWord} {w : Workgroup} (hres : s.resident launch m.index = some g)
  (hw : s.wg g = some w)
include hres hw
theorem State.teamJoin_waits {u : Thread} (hnew : m.index ∉ bar.arrived) (hu : u ∈ s.live g) (hall : ∀ v ∈ s.live g, waitsTeam w team v = true) :
    s.teamJoin launch team bar m = some m.index := by
  unfold State.teamJoin
  rw [hres]
  dsimp only
  rw [hw]
  simp [hnew, State.live_isEmpty_false hu, List.all_eq_true.2 hall]
theorem State.teamJoin_running {u : Thread} (hu : u ∈ s.live g) (hstall : u.stall = .none) : s.teamJoin launch team bar m = none := by
  have hout : (s.live g).all (waitsTeam w team) = false := List.all_eq_false.2 ⟨u, hu, by simp [waitsTeam, hstall]⟩
  unfold State.teamJoin
  rw [hres]
  dsimp only
  rw [hw]
  simp [hout]
theorem State.teamJoin_arrived (hold : m.index ∈ bar.arrived) : s.teamJoin launch team bar m = none := by
  unfold State.teamJoin
  rw [hres]
  dsimp only
  rw [hw]
  simp [hold]
end

/-! The release of a member -/

/-- What the completion of a team barrier makes of a thread that waits there (R181). -/
def releaseWaiting (w : Workgroup) (team : Nat) (flag : Bool) (t : Thread) : Thread :=
  match t.stall with
  | .team k pd => if teamIndex (w.team k.toNat) = team then passTeam pd flag t else t
  | _ => t
theorem passTeam_ref (pd : PReg) (flag : Bool) (t : Thread) : (passTeam pd flag t).ref = t.ref := by
  rw [passTeam, Thread.advance_ref, Thread.setP_eq]
theorem releaseWaiting_waits {w : Workgroup} {team : Nat} {t : Thread} {k : BitVec 2} {pd : PReg} (flag : Bool) (hstall : t.stall = .team k pd)
    (hteam : teamIndex (w.team k.toNat) = team) : releaseWaiting w team flag t = passTeam pd flag t := by
  unfold releaseWaiting
  rw [hstall]
  exact if_pos hteam
theorem State.teamRelease_fst {s : State} {launch team log g : Nat} {w : Workgroup} (flag : Bool) (hres : s.resident launch log = some g)
    (hw : s.wg g = some w) : (s.teamRelease launch team log flag).1
      = ((s.releaseCore w.core).acquireWide w.core).onLive g (releaseWaiting w team flag) := by
  unfold State.teamRelease
  rw [hres]
  dsimp only
  rw [hw]
  rfl
/-- The members of a completed barrier have been released one after the other, and what they are owed is filed. -/
theorem State.teamDone_one (s : State) (launch team a : Nat) (e : Option Nat) :
    ∃ b, s.teamDone launch team [a] e = { (s.teamRelease launch team a (e == some a)).1 with teamBars := b } := ⟨_, rfl⟩
theorem State.teamDone_two (s : State) (launch team a b : Nat) (e : Option Nat) :
    ∃ bars, s.teamDone launch team [a, b] e
      = { ((s.teamRelease launch team a (e == some a)).1.teamRelease launch team b (e == some b)).1 with teamBars := bars } := ⟨_, rfl⟩

/-- A workgroup that waited at a team barrier has been released from it with a flag: its core has made its release and its acquire. -/
structure State.TeamReleased (s n : State) (g : Nat) (w : Workgroup) (team : Nat) (flag : Bool) : Prop where
  passed   : ∀ r u k pd, s.thread r = some u → u.ref.wg = g → u.exited = false → u.stall = .team k pd → teamIndex (w.team k.toNat) = team →
    n.thread r = some (u.setP pd flag).advance
  others   : ∀ r u, s.thread r = some u → u.ref.wg ≠ g → n.thread r = some u
  clean    : (n.core w.core).clean = []
  released : (n.core w.core).release = []
  keeps    : ∀ c, (s.core c).release = [] → (n.core c).release = []
  rest     : n.mem = s.mem ∧ n.near = s.near ∧ n.wgs = s.wgs ∧ n.traps = s.traps
theorem State.teamRelease_released {s : State} {launch team log g : Nat} {w : Workgroup} (flag : Bool) (hres : s.resident launch log = some g)
    (hw : s.wg g = some w) : s.TeamReleased (s.teamRelease launch team log flag).1 g w team flag := by
  have hmoves := (State.releaseCore_cachesMove s w.core).trans (State.acquireWide_cachesMove (s.releaseCore w.core) w.core)
  obtain ⟨hclean, -, -⟩ := (s.releaseCore w.core).core_acquireWide w.core
  have hown : ((s.releaseCore w.core).core w.core).release = [] := by rw [State.release_releaseCore, if_pos rfl]
  rw [State.teamRelease_fst flag hres hw]
  refine ⟨fun r u k pd hu hg hexited hstall hteam => ?_, fun r u hu hg => ?_, hclean, State.release_acquireWide_nil w.core hown, fun c hc => ?_,
    hmoves.mem, hmoves.near, hmoves.wgs, hmoves.traps⟩
  · have hpass := releaseWaiting_waits flag hstall hteam
    rw [State.thread_onLive_some ((hmoves.thread r).trans hu) hg hexited (by rw [hpass, passTeam_ref]), hpass]
    rfl
  · exact State.thread_onLive_ne ((hmoves.thread r).trans hu) hg
  · refine State.release_acquireWide_nil w.core ?_
    rw [State.release_releaseCore, hc, ite_self]

/-! TBAR -/

/-- The members of a team that are all workgroups of this device. -/
theorem Launch.members_eq {l : Launch} {own team : Nat} {ms : List MemberWord} (hteam : Tbl.get [] l.teams team = ms)
    (hall : ∀ m ∈ ms, m.kind = 0 ∧ m.dev = own) : l.members own team = ms ∧ l.local_ own team = true := by
  unfold Launch.members Launch.local_
  rw [hteam]
  refine ⟨List.filter_eq_self.2 fun m hm => ?_, List.all_eq_true.2 fun m hm => ?_⟩ <;> simp [hall m hm]
theorem exec_tbar_invalid {s : State} {t : Thread} {w : Workgroup} {pd : PReg} {k : BitVec 2} (hs : s.Issues [t]) (run : s.Runs (.tbar pd k) t w)
    (h : (w.team k.toNat).getLsbD 31 = false) : exec (.tbar pd k) s = .next (s.trapWord t 0x0C 0).finish := by
  refine (issueLanes_one hs run).trans (congrArg (fun m : State => Host.Outcome.next m.finish) ?_)
  simp only [State.arriveTeam, teamValid, h, Bool.not_false, if_true]
  rfl

section
variable {s : State} {t : Thread} {w : Workgroup} {pd : PReg} {k : BitVec 2}
/-- The state in which a thread waits at its TBAR. -/
def State.atTeam (s : State) (t : Thread) (pd : PReg) (k : BitVec 2) : State := s.onThread t.ref (fun u => u.park (.team k pd))
theorem exec_tbar_arrives {l : Launch} (hs : s.Issues [t]) (run : s.Runs (.tbar pd k) t w) (hvalid : (w.team k.toNat).getLsbD 31 = true)
    (hl : s.launchOf w = some l) (howed : (s.teamBar w.launch (teamIndex (w.team k.toNat))).owed = []) (arrived : List Nat)
    (harrived : (s.teamBar w.launch (teamIndex (w.team k.toNat))).arrived ++ (l.members s.mgmt.orbitDev.toNat (teamIndex (w.team k.toNat))).filterMap
      ((s.atTeam t pd k).teamJoin w.launch (teamIndex (w.team k.toNat)) (s.teamBar w.launch (teamIndex (w.team k.toNat)))) = arrived) :
    exec (.tbar pd k) s = .next ((s.atTeam t pd k).teamSettle w.launch (teamIndex (w.team k.toNat)) l arrived).finish := by
  refine (issueLanes_one hs run).trans (congrArg (fun m : State => Host.Outcome.next m.finish) ?_)
  have hflag : s.owedFlag (teamKey w.launch (teamIndex (w.team k.toNat))) w.log t.ref.tid = none := by
    unfold State.owedFlag
    split
    · next b hb =>
      have hbar : s.teamBar w.launch (teamIndex (w.team k.toNat)) = b := by rw [State.teamBar, Tbl.get, hb]; rfl
      rw [← hbar, howed]
      rfl
    · rfl
  simp only [State.arriveTeam, teamValid, hvalid, Bool.not_true, Bool.false_eq_true, if_false, hflag]
  rw [← harrived]
  exact State.teamCheck_eq (s := s.atTeam t pd k) hl

variable (hk : s.Keyed) (ht : s.thread t.ref = some t)
include hk ht
/-- Every live thread of the workgroup waits at the TBAR, once the last has come. -/
theorem State.atTeam_waits (hall : ∀ u ∈ s.live t.ref.wg, u.ref ≠ t.ref → u.stall = .team k pd) :
    ∀ v ∈ (s.atTeam t pd k).live t.ref.wg, waitsTeam w (teamIndex (w.team k.toNat)) v = true := by
  have hstall : ∀ v ∈ (s.atTeam t pd k).live t.ref.wg, v.stall = .team k pd :=
    State.live_onThread (f := fun u => u.park (.team k pd)) hk ht (Thread.arm_ref t) (fun _ => rfl) hall
  intro v hv
  simp [waitsTeam, hstall v hv]
/-- A thread of the workgroup as it is filed then: it waits, and goes on as it would have without waiting. -/
theorem State.thread_atTeam (hall : ∀ u ∈ s.live t.ref.wg, u.ref ≠ t.ref → u.stall = .team k pd) {u : Thread} (hu : u ∈ s.live t.ref.wg) :
    ∃ v, (s.atTeam t pd k).thread u.ref = some v ∧ v.ref = u.ref ∧ v.exited = false ∧ v.stall = .team k pd
      ∧ ∀ flag, (v.setP pd flag).advance = (u.setP pd flag).advance := by
  have hthread := State.thread_onThread_live (f := fun u => u.park (.team k pd)) hk ht (Thread.arm_ref t) hu
  obtain ⟨-, -, hexited⟩ := State.mem_live.1 hu
  refine ⟨_, hthread, ?_⟩
  by_cases h : u = t
  · rw [if_pos h, ← h]
    exact ⟨Thread.arm_ref u, (Thread.arm_exited u).trans hexited, rfl, fun flag => by rw [Thread.park_setP, Thread.advance_park]⟩
  · rw [if_neg h]
    exact ⟨rfl, hexited, hall u hu fun e => h (State.eq_of_live hk ht hu (by rw [e])), fun _ => rfl⟩
theorem State.mem_live_atTeam {g : Nat} {u : Thread} (hu : u ∈ s.live g) (hne : u.ref ≠ t.ref) : u ∈ (s.atTeam t pd k).live g :=
  State.mem_live_onThread_ne hk hu fun e => hne (by rw [State.eq_of_live hk ht hu e])
omit hk in
/-- Where the barrier does not complete, the thread waits and nothing else has changed but the barrier. -/
theorem State.teamArrive_waits (launch team : Nat) (arrived : List Nat) (htraps : s.traps = []) :
    ((s.atTeam t pd k).teamArrive launch team arrived).finish.thread t.ref = some (t.park (.team k pd))
      ∧ Claims.SameButCores s ((s.atTeam t pd k).teamArrive launch team arrived).finish t
      ∧ ((s.atTeam t pd k).teamArrive launch team arrived).finish.cores = s.cores := by
  rw [State.finish_over (by exact htraps)]
  exact ⟨State.thread_onThread_some (f := fun u => u.park (.team k pd)) ht (Thread.arm_ref t),
    ⟨⟨rfl, rfl, rfl, rfl⟩, ⟨rfl, rfl, rfl⟩, fun r hr => State.thread_onThread_ne s _ hr⟩, rfl⟩
end

theorem State.teamBar_none {s : State} {launch team : Nat} (h : Tbl.find s.teamBars (teamKey launch team) = none) :
    s.teamBar launch team = { arrived := [], owed := [] } := by
  rw [State.teamBar, Tbl.get, h]
  rfl
theorem State.teamBar_some {s : State} {launch team : Nat} {b : TeamBar} (h : Tbl.find s.teamBars (teamKey launch team) = some b) :
    s.teamBar launch team = b := by
  rw [State.teamBar, Tbl.get, h]
  rfl
/-- R181: the epilogue flag of two members, b having come last. -/
theorem epilogue_two {a b : Nat} (det : Nat) (h : a ≠ b) :
    let mine := if 1 ≤ det then decide (a < b) else true
    ((if 1 ≤ det then some ([a, b].foldl max 0) else [a, b].getLast?) == some a) = !mine
      ∧ ((if 1 ≤ det then some ([a, b].foldl max 0) else [a, b].getLast?) == some b) = mine := by
  by_cases hdet : 1 ≤ det
  · have hmax : [a, b].foldl max 0 = max a b := by simp
    simp only [if_pos hdet, hmax]
    rcases Nat.lt_or_gt_of_ne h with hlt | hlt
    · simp [max_eq_right hlt.le, hlt, h.symm]
    · simp [max_eq_left hlt.le, hlt.not_gt, h]
  · simp [if_neg hdet, h.symm]

/-- R180, R181: a team of one workgroup. -/
theorem teamBarrierOne {s : State} {t : Thread} {w : Workgroup} {pd : PReg} {k : BitVec 2} {l : Launch} {m : MemberWord} (hs : s.Issues [t])
    (run : s.Runs (.tbar pd k) t w) (htogether : Claims.Together s t w) (hvalid : (w.team k.toNat).getLsbD 31 = true)
    (hl : s.launchOf w = some l) (hteam : Tbl.get [] l.teams (teamIndex (w.team k.toNat)) = [m]) (hkind : m.kind = 0)
    (hdev : m.dev = s.mgmt.orbitDev.toNat) (hindex : m.index = w.log) (hres : s.resident w.launch w.log = some t.ref.wg) (hretired : l.retired = [])
    (hbar : Tbl.find s.teamBars (teamKey w.launch (teamIndex (w.team k.toNat))) = none) :
    ((∃ u ∈ s.live t.ref.wg, u.ref ≠ t.ref ∧ u.stall = .none) →
      ∃ n, exec (.tbar pd k) s = .next n ∧ n.thread t.ref = some (t.park (.team k pd)) ∧ Claims.SameButCores s n t ∧ n.cores = s.cores)
    ∧ ((∀ u ∈ s.live t.ref.wg, u.ref ≠ t.ref → u.stall = .team k pd) →
      ∃ n, exec (.tbar pd k) s = .next n ∧ (∀ u ∈ s.live t.ref.wg, n.thread u.ref = some (u.setP pd true).advance)
        ∧ n.mem = s.mem ∧ n.near = s.near ∧ n.wgs = s.wgs ∧ (n.core w.core).clean = [] ∧ (n.core w.core).release = []) := by
  obtain ⟨hk, ⟨ht, hw, hexited, -⟩, -⟩ := htogether
  obtain ⟨hmembers, hlocal⟩ := Launch.members_eq hteam (own := s.mgmt.orbitDev.toNat) (by simp [hkind, hdev])
  have hempty := State.teamBar_none hbar
  have hres' : (s.atTeam t pd k).resident w.launch m.index = some t.ref.wg := by rw [hindex]; exact hres
  have hself := State.mem_live_onThread_self (f := fun u => u.park (.team k pd)) ht (Thread.arm_ref t) ((Thread.arm_exited t).trans hexited)
  refine ⟨?_, fun hall => ?_⟩
  · rintro ⟨u, hu, hne, hstall⟩
    have hexec := exec_tbar_arrives hs run hvalid hl (by rw [hempty]) [] (by
      rw [hmembers, hempty, List.filterMap_cons_none (State.teamJoin_running hres' hw (State.mem_live_atTeam hk ht hu hne) hstall)]
      rfl)
    rw [State.teamSettle_waits hretired (.inl rfl)] at hexec
    exact ⟨_, hexec, State.teamArrive_waits ht _ _ _ hs.settled⟩
  · have hjoin : (s.atTeam t pd k).teamJoin w.launch (teamIndex (w.team k.toNat)) { arrived := [], owed := [] } m = some m.index :=
      State.teamJoin_waits hres' hw (by simp) hself (State.atTeam_waits hk ht hall)
    have hexec := exec_tbar_arrives hs run hvalid hl (by rw [hempty]) [m.index] (by
      rw [hmembers, hempty, List.filterMap_cons_some hjoin]
      rfl)
    rw [State.teamSettle_completes (s := s.atTeam t pd k) hretired hlocal (by simp)
      (by rw [show (s.atTeam t pd k).mgmt = s.mgmt from rfl, hmembers]; simp)] at hexec
    obtain ⟨b, hdone⟩ := ((s.atTeam t pd k).teamArrive w.launch (teamIndex (w.team k.toNat)) [m.index]).teamDone_one w.launch
      (teamIndex (w.team k.toNat)) m.index (if 1 ≤ l.det then some ([m.index].foldl max 0) else [m.index].getLast?)
    have hflag : ((if 1 ≤ l.det then some ([m.index].foldl max 0) else [m.index].getLast?) == some m.index) = true := by
      split <;> simp
    rw [hflag] at hdone
    obtain ⟨hpassed, -, hclean, hreleased, -, hmem, hnear, hwgs, htraps⟩ := State.teamRelease_released
      (s := (s.atTeam t pd k).teamArrive w.launch (teamIndex (w.team k.toNat)) [m.index]) (launch := w.launch) (team := teamIndex (w.team k.toNat))
      true hres' hw
    rw [hdone, State.finish_over (by exact htraps.trans hs.settled)] at hexec
    refine ⟨_, hexec, fun u hu => ?_, hmem, hnear, hwgs, hclean, hreleased⟩
    obtain ⟨v, hv, href, hvexited, hstall, hsame⟩ := State.thread_atTeam hk ht hall hu
    rw [← hsame]
    exact hpassed u.ref v k pd hv (by rw [href]; exact (State.mem_live.1 hu).2.1) hvexited hstall rfl

theorem Thread.setP_true (t : Thread) (pd : PReg) :
    t.setP pd true = if pd = 0 then t else { t with p := t.p ||| (1#8 <<< pd.toNat) } := by
  unfold Thread.setP
  by_cases h : pd = 0 <;> simp [h]

/-- Two workgroups of a launch that are the members of one team, that of thread t at its TBAR. -/
structure TeamOfTwo (s : State) (t : Thread) (w : Workgroup) (k : BitVec 2) (l : Launch) (m m' : MemberWord) (g' : Nat) (w' : Workgroup) : Prop where
  launch  : s.launchOf w = some l
  members : l.members s.mgmt.orbitDev.toNat (teamIndex (w.team k.toNat)) = [m, m']
  local_  : l.local_ s.mgmt.orbitDev.toNat (teamIndex (w.team k.toNat)) = true
  index   : m.index = w.log
  other   : m'.index ≠ w.log
  mine    : s.resident w.launch m.index = some t.ref.wg
  theirs  : s.resident w.launch m'.index = some g'
  apart   : g' ≠ t.ref.wg
  wg      : s.wg g' = some w'
  retired : l.retired = []

section
variable {s : State} {t : Thread} {w : Workgroup} {pd : PReg} {k : BitVec 2} {l : Launch} {m m' : MemberWord} {g' : Nat} {w' : Workgroup}
  (hs : s.Issues [t]) (run : s.Runs (.tbar pd k) t w) (htogether : Claims.Together s t w) (hvalid : (w.team k.toNat).getLsbD 31 = true)
  (htwo : TeamOfTwo s t w k l m m' g' w') (hall : ∀ u ∈ s.live t.ref.wg, u.ref ≠ t.ref → u.stall = .team k pd)
include htogether htwo hall
/-- The workgroup of the thread arrives with it. -/
theorem TeamOfTwo.joins {bar : TeamBar} (hnew : m.index ∉ bar.arrived) :
    (s.atTeam t pd k).teamJoin w.launch (teamIndex (w.team k.toNat)) bar m = some m.index := by
  obtain ⟨hk, ⟨ht, hw, hexited, -⟩, -⟩ := htogether
  exact State.teamJoin_waits htwo.mine hw hnew
    (State.mem_live_onThread_self (f := fun u => u.park (.team k pd)) ht (Thread.arm_ref t) ((Thread.arm_exited t).trans hexited))
    (State.atTeam_waits hk ht hall)
include hs run hvalid
/-- R180: the first of two workgroups waits. -/
theorem teamBarrierFirst (hbar : Tbl.find s.teamBars (teamKey w.launch (teamIndex (w.team k.toNat))) = none) (hother : ∃ u ∈ s.live g', u.stall = .none) :
    ∃ n, exec (.tbar pd k) s = .next n ∧ n.thread t.ref = some (t.park (.team k pd)) ∧ Claims.SameButCores s n t ∧ n.cores = s.cores := by
  have hjoin := htwo.joins htogether hall (bar := { arrived := [], owed := [] }) (by simp)
  obtain ⟨hk, ⟨ht, hw, hexited, -⟩, -⟩ := htogether
  have hempty := State.teamBar_none hbar
  obtain ⟨u, hu, hstall⟩ := hother
  have hlive : u ∈ (s.atTeam t pd k).live g' :=
    State.mem_live_atTeam hk ht hu fun e => htwo.apart (by rw [← e]; exact (State.mem_live.1 hu).2.1.symm)
  have hnone : (s.atTeam t pd k).teamJoin w.launch (teamIndex (w.team k.toNat)) { arrived := [], owed := [] } m' = none :=
    State.teamJoin_running htwo.theirs htwo.wg hlive hstall
  have hexec := exec_tbar_arrives hs run hvalid htwo.launch (by rw [hempty]) [m.index] (by
    rw [htwo.members, hempty, List.filterMap_cons_some hjoin, List.filterMap_cons_none hnone]
    rfl)
  rw [State.teamSettle_waits htwo.retired (.inr ⟨m', by rw [show (s.atTeam t pd k).mgmt = s.mgmt from rfl, htwo.members]; simp,
    by rw [htwo.index]; simpa using htwo.other⟩)] at hexec
  exact ⟨_, hexec, State.teamArrive_waits ht _ _ _ hs.settled⟩
/-- R180, R181: with the second of two workgroups both go on. -/
theorem teamBarrierSecond {k' : BitVec 2} {pd' : PReg} (hteam : teamIndex (w'.team k'.toNat) = teamIndex (w.team k.toNat))
    (hbar : Tbl.find s.teamBars (teamKey w.launch (teamIndex (w.team k.toNat))) = some { arrived := [m'.index], owed := [] })
    (htheirs : ∀ u ∈ s.live g', u.stall = .team k' pd') :
    let mine := if 1 ≤ l.det then decide (m'.index < w.log) else true
    ∃ n, exec (.tbar pd k) s = .next n ∧ (∀ u ∈ s.live t.ref.wg, n.thread u.ref = some (u.setP pd mine).advance)
      ∧ (∀ u ∈ s.live g', n.thread u.ref = some (u.setP pd' (!mine)).advance)
      ∧ n.mem = s.mem ∧ n.near = s.near ∧ n.wgs = s.wgs ∧ (∀ c, (c = w.core ∨ c = w'.core) → (n.core c).release = []) := by
  intro mine
  have hjoin := htwo.joins htogether hall (bar := { arrived := [m'.index], owed := [] }) (by rw [htwo.index]; simpa using htwo.other.symm)
  obtain ⟨hk, ⟨ht, hw, hexited, -⟩, -⟩ := htogether
  have hold := State.teamBar_some hbar
  have hnone : (s.atTeam t pd k).teamJoin w.launch (teamIndex (w.team k.toNat)) { arrived := [m'.index], owed := [] } m' = none :=
    State.teamJoin_arrived htwo.theirs htwo.wg (by simp)
  have hexec := exec_tbar_arrives hs run hvalid htwo.launch (by rw [hold]) [m'.index, m.index] (by
    rw [htwo.members, hold, List.filterMap_cons_some hjoin, List.filterMap_cons_none hnone]
    rfl)
  rw [State.teamSettle_completes (s := s.atTeam t pd k) htwo.retired htwo.local_ (by simp)
    (by rw [show (s.atTeam t pd k).mgmt = s.mgmt from rfl, htwo.members]; simp), htwo.index] at hexec
  obtain ⟨hfirst, hsecond⟩ := epilogue_two (a := m'.index) (b := w.log) l.det htwo.other
  obtain ⟨b, hdone⟩ := ((s.atTeam t pd k).teamArrive w.launch (teamIndex (w.team k.toNat)) [m'.index, w.log]).teamDone_two w.launch
    (teamIndex (w.team k.toNat)) m'.index w.log (if 1 ≤ l.det then some ([m'.index, w.log].foldl max 0) else [m'.index, w.log].getLast?)
  rw [hfirst, hsecond] at hdone
  have hone := State.teamRelease_released (s := (s.atTeam t pd k).teamArrive w.launch (teamIndex (w.team k.toNat)) [m'.index, w.log])
    (launch := w.launch) (team := teamIndex (w.team k.toNat)) (!mine) htwo.theirs htwo.wg
  obtain ⟨hmem, hnear, hwgs, htraps⟩ := hone.rest
  have hmine : ∀ n : State, n.wgs = s.wgs → n.resident w.launch w.log = some t.ref.wg ∧ n.wg t.ref.wg = some w := fun n hn => by
    unfold State.resident State.wg
    rw [hn]
    exact ⟨htwo.index ▸ htwo.mine, hw⟩
  obtain ⟨hres, hwg⟩ := hmine _ hwgs
  have htwice := State.teamRelease_released (team := teamIndex (w.team k.toNat)) mine hres hwg
  obtain ⟨hmem', hnear', hwgs', htraps'⟩ := htwice.rest
  rw [hdone, State.finish_over (by exact htraps'.trans (htraps.trans hs.settled))] at hexec
  refine ⟨_, hexec, fun u hu => ?_, fun u hu => ?_, hmem'.trans hmem, hnear'.trans hnear, hwgs'.trans hwgs, ?_⟩
  · obtain ⟨v, hv, href, hvexited, hstall, hsame⟩ := State.thread_atTeam hk ht hall hu
    obtain ⟨-, hg, -⟩ := State.mem_live.1 hu
    rw [← hsame]
    exact htwice.passed u.ref v k pd (hone.others u.ref v hv (by rw [href, hg]; exact htwo.apart.symm)) (by rw [href, hg]) hvexited hstall rfl
  · obtain ⟨-, hg, huexited⟩ := State.mem_live.1 hu
    have hne : refKey u.ref ≠ refKey t.ref := fun e => htwo.apart (by rw [← hg, State.eq_of_live hk ht hu e])
    have hthread : (s.atTeam t pd k).thread u.ref = some u :=
      (State.thread_onThread_ne s _ hne).trans (State.thread_of_live hk hu)
    exact htwice.others u.ref _ (hone.passed u.ref u k' pd' hthread hg huexited (htheirs u hu) hteam)
      (by rw [Thread.advance_ref, Thread.setP_eq]; exact fun e => htwo.apart (hg.symm.trans e))
  · rintro c (rfl | rfl)
    · exact htwice.released
    · exact htwice.keeps _ hone.released
end

/-- TBAR in each kind of team: an invalid one, one of one workgroup and one of two (R180, R181). -/
theorem teamBarriers : Claims.TeamBarriers := by
  intro s t w pd k hs run htogether
  refine ⟨exec_tbar_invalid hs run, fun l m hvalid hl hteam hkind hdev hindex hres hretired hbar => ?_,
    fun l m m' g' w' hvalid hl hteam hdevice hindex hother hres htheirs hapart hw' hretired hall => ?_⟩
  · simp only [← Thread.setP_true]
    exact teamBarrierOne hs run htogether hvalid hl hteam hkind hdev hindex hres hretired hbar
  · obtain ⟨hmembers, hlocal⟩ := Launch.members_eq hteam hdevice
    have htwo : TeamOfTwo s t w k l m m' g' w' :=
      ⟨hl, hmembers, hlocal, hindex, hother, by rw [hindex]; exact hres, htheirs, hapart, hw', hretired⟩
    exact ⟨teamBarrierFirst hs run htogether hvalid htwo hall,
      fun k' pd' hsame harrived hwaiting => teamBarrierSecond hs run htogether hvalid htwo hall hsame harrived hwaiting⟩
/-- Settles O27: the fences of each scope, the workgroup barriers and the team barriers. -/
theorem fencesAndBarriers : Obligations.FencesAndBarriers := ⟨fences, barriers, teamBarriers⟩

end Sys2Proof.Machine
end

section
/-! SUPPORT. Walks: which threads one walk serves, what its leaf leaves in their cores, and the threads filed once each (R323, R324); with the
obligation on walks and faults. -/
namespace Sys2Proof.Machine

/-! Threads, each filed once -/

theorem State.mem_vals_iff {s : State} (hk : s.Keyed) {u : Thread} : u ∈ Tbl.vals s.threads ↔ s.thread u.ref = some u := by
  refine ⟨fun hu => ?_, fun hu => List.mem_map.2 ⟨_, Tbl.mem_of_find hu, rfl⟩⟩
  obtain ⟨⟨k, v⟩, hmem, rfl⟩ := List.mem_map.1 hu
  have hkey : k = refKey v.ref := hk.2 _ hmem
  exact Tbl.find_of_mem hk.1 (hkey ▸ hmem)
theorem State.nodup_vals {s : State} (hk : s.Keyed) : (Tbl.vals s.threads).Nodup := by
  refine List.pairwise_map.2 ((Tbl.rising_pairwise hk.1).2.imp_of_mem fun {a b} ha hb hlt e => ?_)
  rw [hk.2 a ha, hk.2 b hb, e] at hlt
  exact lt_irrefl _ hlt
/-- Where of all threads t alone meets a condition, it is the list of those that do. -/
theorem State.filter_vals_eq {s : State} {t : Thread} {q : Thread → Bool} (hk : s.Keyed) (ht : s.thread t.ref = some t) (hq : q t = true)
    (h : ∀ u ∈ Tbl.vals s.threads, u.ref ≠ t.ref → q u = false) : (Tbl.vals s.threads).filter q = [t] := by
  refine List.perm_singleton.1 ((List.perm_ext_iff_of_nodup ((State.nodup_vals hk).filter q) (List.nodup_singleton t)).2 fun u => ?_)
  rw [List.mem_filter, List.mem_singleton]
  constructor
  · rintro ⟨hu, hqu⟩
    by_contra hne
    have href : u.ref ≠ t.ref := fun e => hne (by
      have := (State.mem_vals_iff hk).1 hu
      rw [e, ht] at this
      exact (Option.some.inj this).symm)
    rw [h u hu href] at hqu
    cases hqu
  · rintro rfl
    exact ⟨(State.mem_vals_iff hk).2 ht, hq⟩
theorem Tbl.rising_modify {α : Type} {lo : Nat} {m : Tbl α} (k : Nat) (f : α → α) (h : Tbl.risingFrom lo m = true) :
    Tbl.risingFrom lo (Tbl.modify m k f) = true := by
  induction m generalizing lo with
  | nil => rfl
  | cons e l ih =>
    obtain ⟨j, b⟩ := e
    simp only [Tbl.risingFrom, Bool.and_eq_true] at h
    unfold Tbl.modify at ih ⊢
    rw [List.map_cons]
    split <;> simp only [Tbl.risingFrom, Bool.and_eq_true] <;> exact ⟨h.1, ih h.2⟩
theorem State.Keyed.onThread {s : State} (hk : s.Keyed) (r : ThreadRef) (f : Thread → Thread) : (s.onThread r f).Keyed := by
  refine ⟨Tbl.rising_modify _ _ hk.1, fun e he => ?_⟩
  rcases Tbl.mem_modify.1 he with ⟨hmem, -⟩ | ⟨u, hmem, rfl⟩
  · exact hk.2 e hmem
  · have hkey : refKey r = refKey u.ref := hk.2 _ hmem
    exact hkey
/-- What holds of every thread holds after a change of one that keeps it. -/
theorem State.forall_vals_onThread {P : Thread → Prop} {s : State} {f : Thread → Thread} (hf : ∀ u, P u → P (Thread.kept f u)) (r : ThreadRef)
    (h : ∀ u ∈ Tbl.vals s.threads, P u) : ∀ u ∈ Tbl.vals (s.onThread r f).threads, P u := by
  intro u hu
  obtain ⟨e, he, rfl⟩ := List.mem_map.1 hu
  rcases Tbl.mem_modify.1 he with ⟨hmem, -⟩ | ⟨v, hmem, rfl⟩
  · exact h _ (List.mem_map.2 ⟨e, hmem, rfl⟩)
  · exact hf v (h v (List.mem_map.2 ⟨_, hmem, rfl⟩))

/-! Threads that execute their word again -/

/-- The threads of a list wait no longer. -/
def State.again (s : State) (refs : List ThreadRef) : State := refs.foldl (fun s r => s.onThread r (fun t => { t with stall := .none })) s
theorem State.again_rest (s : State) (refs : List ThreadRef) : s.again refs = { s with threads := (s.again refs).threads } := by
  unfold State.again
  induction refs generalizing s with
  | nil => rfl
  | cons q refs ih => rw [List.foldl_cons, ih]; rfl
theorem State.thread_again_ne {s : State} {refs : List ThreadRef} {r : ThreadRef} (h : ∀ q ∈ refs, refKey q ≠ refKey r) :
    (s.again refs).thread r = s.thread r := by
  unfold State.again
  induction refs generalizing s with
  | nil => rfl
  | cons q refs ih =>
    rw [List.forall_mem_cons] at h
    rw [List.foldl_cons, ih h.2, State.thread_onThread_ne s _ h.1.symm]
theorem State.thread_again {s : State} {refs : List ThreadRef} {t : Thread}
    (h : (s.thread t.ref = some t ∧ t.ref ∈ refs) ∨ s.thread t.ref = some { t with stall := .none }) :
    (s.again refs).thread t.ref = some { t with stall := .none } := by
  unfold State.again
  induction refs generalizing s with
  | nil => exact h.resolve_left fun hmem => List.not_mem_nil hmem.2
  | cons q refs ih =>
    by_cases heq : refKey q = refKey t.ref
    · refine ih (.inr ?_)
      rw [← State.thread_congr _ heq, State.thread_onThread_self, State.thread_congr s heq]
      rcases h with ⟨ht, -⟩ | ht <;> rw [ht] <;> rfl
    · refine ih ?_
      rw [State.thread_onThread_ne s _ (Ne.symm heq)]
      exact h.imp_left fun ⟨ht, hmem⟩ => ⟨ht, (List.mem_cons.1 hmem).resolve_left fun e => heq (by rw [e])⟩
theorem State.thread_again_of_mem {s : State} {refs : List ThreadRef} {t : Thread} (ht : s.thread t.ref = some t) (hmem : t.ref ∈ refs) :
    (s.again refs).thread t.ref = some { t with stall := .none } := State.thread_again (.inl ⟨ht, hmem⟩)
theorem State.forall_vals_again {P : Thread → Prop} (hP : ∀ u : Thread, P u → P { u with stall := .none }) (refs : List ThreadRef) {s : State}
    (h : ∀ u ∈ Tbl.vals s.threads, P u) : ∀ u ∈ Tbl.vals (s.again refs).threads, P u := by
  unfold State.again
  induction refs generalizing s with
  | nil => exact h
  | cons r refs ih => exact ih (State.forall_vals_onThread (f := fun t => { t with stall := .none }) (fun u hu => hP u hu) r h)

/-! The leaf of a walk (R323) -/

theorem leafBytes_pages (level : Nat) (contig : Bool) : ∃ k, leafBytes level contig = 4096 * k ∧ 0 < k := by
  have hshift : ∃ k, 2 ^ levelShift level = 4096 * k ∧ 0 < k := by
    unfold levelShift
    split
    · exact ⟨2 ^ 35, rfl, by decide⟩
    · exact ⟨2 ^ 26, rfl, by decide⟩
    · exact ⟨2 ^ 17, rfl, by decide⟩
    · exact ⟨2 ^ 9, rfl, by decide⟩
    · exact ⟨1, rfl, by decide⟩
  obtain ⟨k, hk, hpos⟩ := hshift
  unfold leafBytes
  rw [hk]
  split
  · exact ⟨k * 16, by ring, by omega⟩
  · exact ⟨k, by ring, hpos⟩
theorem TlbEntry.has_leaf (va : Nat) (leaf : DWord) (level : Nat) (contig : Bool) :
    ({ page := va / leafBytes level contig * (leafBytes level contig / 4096), leaf := leaf, size := leafBytes level contig / 4096 } : TlbEntry).has
      (va / 4096) = true := by
  obtain ⟨k, hk, hpos⟩ := leafBytes_pages level contig
  have hpage : va / leafBytes level contig = va / 4096 / k := by rw [hk, Nat.div_div_eq_div_mul]
  have hsize : leafBytes level contig / 4096 = k := by rw [hk, Nat.mul_div_cancel_left k (by decide)]
  rw [hpage, hsize, TlbEntry.has, Bool.and_eq_true, decide_eq_true_eq, decide_eq_true_eq]
  exact ⟨Nat.div_mul_le_self _ _, Nat.lt_div_mul_add hpos⟩
/-- The table entry that a level of a walk reads. -/
def State.walkEntry (s : State) (va table level : Nat) : DWord := BitVec.ofNat 64 (leNat (s.memRead (table + 8 * levelIndex level va) 8))
/-- A leaf that a walk finds, where the partition may map its page. -/
def State.walkLeaf (s : State) (p va level : Nat) (e : DWord) : Except (Nat × Nat) TlbEntry :=
  let bytes := leafBytes level (e.getLsbD 10)
  let base := (fieldOf e 51 12).toNat * 4096 / bytes * bytes
  if s.partMayMap p base bytes then
    .ok { page := va / bytes * (bytes / 4096), leaf := (BitVec.ofNat 64 base) ||| (e &&& 0x3FF), size := bytes / 4096 }
  else .error (level, 1)
/-- One level of a walk: a failure, a leaf, or what the next level gives. -/
def State.walkOn (s : State) (p va table level : Nat) (next : Except (Nat × Nat) TlbEntry) : Except (Nat × Nat) TlbEntry :=
  let e := s.walkEntry va table level
  if !e.getLsbD 0 then .error (level, 0)
  else if malformed s.mgmt.orbitDev.toNat level va e then .error (level, 1)
  else if e.getLsbD 1 then s.walkLeaf p va level e
  else next
theorem State.walkFrom_zero (s : State) (p va table : Nat) : s.walkFrom p va table 0 = s.walkOn p va table 0 (.error (0, 1)) := rfl
theorem State.walkFrom_succ (s : State) (p va table level : Nat) : s.walkFrom p va table (level + 1)
    = s.walkOn p va table (level + 1) (s.walkFrom p va ((fieldOf (s.walkEntry va table (level + 1)) 51 12).toNat * 4096) level) := rfl
theorem State.walkOn_has {s : State} {p va table level : Nat} {next : Except (Nat × Nat) TlbEntry} {e : TlbEntry}
    (hnext : next = .ok e → e.has (va / 4096) = true) (h : s.walkOn p va table level next = .ok e) : e.has (va / 4096) = true := by
  unfold State.walkOn at h
  dsimp only at h
  split at h
  · cases h
  split at h
  · cases h
  split at h
  · unfold State.walkLeaf at h
    dsimp only at h
    split at h
    · rw [← Except.ok.inj h]
      exact TlbEntry.has_leaf va _ level _
    · cases h
  · exact hnext h
/-- R320: the leaf found for an address maps its page. -/
theorem State.walkFrom_has {s : State} {p va table level : Nat} {e : TlbEntry} (h : s.walkFrom p va table level = .ok e) :
    e.has (va / 4096) = true := by
  induction level generalizing table with
  | zero =>
    rw [State.walkFrom_zero] at h
    exact State.walkOn_has (next := .error (0, 1)) (fun hnext => nomatch hnext) h
  | succ level ih => exact State.walkOn_has ih ((State.walkFrom_succ ..).symm.trans h)
/-- R324: a walk made for a page gives an entry that maps it. -/
theorem State.walk_has {s : State} {qd p page : Nat} {e : TlbEntry} (h : s.walk qd p (page * 4096) = .ok e) : e.has page = true := by
  unfold State.walk at h
  split at h
  · cases h
  · have := State.walkFrom_has h
    rwa [Nat.mul_div_cancel _ (by decide)] at this

/-! The entry that a walk leaves in the TLBs (R323, R324) -/

theorem State.install2_cachesMove (s : State) (cluster : Nat) (e : TlbEntry) : s.CachesMove (s.install2 cluster e) := by
  have h : s.CachesMove (s.holdEntry 1024 ((Tbl.get [] s.ctlbs cluster).filter (fun x => !x.meets e.page e.size)) e).2 := by
    rw [State.holdEntry_free]
    rfl
  exact h.trans rfl
theorem State.core_holdEntry {α : Type} (s : State) (n : Nat) (l : List α) (x : α) (c : Nat) : (s.holdEntry n l x).2.core c = s.core c := by
  rw [State.holdEntry_free]
  rfl
theorem State.tlbInstall_cachesMove (s : State) (core : Nat) (e : TlbEntry) : s.CachesMove (s.tlbInstall core e) :=
  (State.install2_cachesMove s (clusterOf core) e).trans (State.install1_coresOnly _ core e).cachesMove
theorem State.tlb1_tlbInstall_self (s : State) (core : Nat) {e : TlbEntry} {page : Nat} (h : e.has page = true) :
    (s.tlbInstall core e).tlb1 core page = some e := State.tlb1_install1 _ core h
theorem State.tlb1_tlbInstall_ne (s : State) {core c : Nat} (e : TlbEntry) (page : Nat) (h : c ≠ core) :
    (s.tlbInstall core e).tlb1 c page = s.tlb1 c page := by
  have hcores : (s.tlbInstall core e).core c = s.core c := by
    rw [State.tlbInstall, State.install1, State.core_onCore_ne _ _ h, State.core_holdEntry]
    exact State.core_holdEntry ..
  rw [State.tlb1, State.tlb1, hcores]
/-- Once a walked entry has gone to a list of cores, each core of it holds the entry. -/
theorem State.tlb1_foldl_tlbInstall {e : TlbEntry} {page core : Nat} (h : e.has page = true) (cores : List Nat) (s : State)
    (hcore : core ∈ cores ∨ s.tlb1 core page = some e) : (cores.foldl (fun s c => s.tlbInstall c e) s).tlb1 core page = some e := by
  induction cores generalizing s with
  | nil => exact hcore.resolve_left (by simp)
  | cons c cores ih =>
    refine ih (s.tlbInstall c e) ?_
    by_cases hc : core = c
    · subst hc
      exact .inr (State.tlb1_tlbInstall_self s core h)
    · rw [State.tlb1_tlbInstall_ne s e page hc]
      exact hcore.imp (fun hmem => (List.mem_cons.1 hmem).resolve_left hc) id

/-! The threads that a walk serves (R324) -/

theorem State.waitsWalk_of {s : State} {t : Thread} {w : Workgroup} {l : Launch} {page kind : Nat} {va cyc : DWord}
    (hstall : t.stall = .walk page kind va cyc) (hexited : t.exited = false) (hw : s.wgOf t.ref = some w) (hl : s.launchOf w = some l) :
    s.waitsWalk l.part page t = true := by
  simp [State.waitsWalk, State.partOfRef, State.partOf, hstall, hexited, hw, hl]
/-- Where every waiter is in one quadrant, its walk serves them all, and the issues of their words whose threads have all had their walk get
their records (R326). -/
theorem exec_translationWalk {s : State} {p page qd : Nat} {t : Thread} (ht : t ∈ s.walkers p page)
    (hquad : ∀ u ∈ s.walkers p page, s.quadOfRef u.ref = qd) : exec (.translationWalk p page) s
      = .next ((((s.walkers p page).filterMap walkKey).eraseDups.foldl (fun (s : State) k => s.reportFaults p k)
        (s.walkEnds qd p page ((s.walkers p page).map (·.ref)))).settleTraps) := by
  have hserved : s.served p page = s.walkers p page := by
    unfold State.served
    cases h : s.walkers p page with
    | nil => rfl
    | cons u us =>
      rw [h] at hquad
      exact List.filter_eq_self.2 fun v hv => by rw [hquad v hv, hquad u (by simp), beq_self_eq_true]
  refine (show exec (.translationWalk p page) s = execTranslationWalk p page s from rfl).trans ?_
  unfold execTranslationWalk
  rw [hserved]
  cases h : s.walkers p page with
  | nil => rw [h] at ht; cases ht
  | cons u us =>
    rw [h] at hquad
    rw [← hquad u (by simp)]

/-! The walk finds a leaf -/

/-- No record is due where no thread has failed. -/
theorem State.reportFaults_none {s : State} (h : ∀ u ∈ Tbl.vals s.threads, failKey u = none) (p : Nat) (k : FaultKey) : s.reportFaults p k = s := by
  have hnone : (Tbl.vals s.threads).filter (fun t => failKey t == some k && !(s.part p).waits.any (fun f => f.threads.contains t.ref)) = [] :=
    List.filter_eq_nil_iff.2 fun u hu => by simp [h u hu]
  unfold State.reportFaults
  split
  · rfl
  · dsimp only
    rw [hnone]
    split
    · next heq => cases heq
    · rfl
theorem State.foldl_reportFaults_none {s : State} (h : ∀ u ∈ Tbl.vals s.threads, failKey u = none) (p : Nat) (ks : List FaultKey) :
    ks.foldl (fun (s : State) k => s.reportFaults p k) s = s := by
  induction ks with
  | nil => rfl
  | cons k ks ih => rw [List.foldl_cons, State.reportFaults_none h, ih]
/-- The walk of a page has been made, and its leaf has gone to some cores. -/
def State.leafHeld (s : State) (qd p page : Nat) (leaf : TlbEntry) (cores : List Nat) : State :=
  cores.foldl (fun (s : State) c => s.tlbInstall c leaf) (s.walked qd p (page * 4096))
theorem State.leafHeld_cachesMove (s : State) (qd p page : Nat) (leaf : TlbEntry) (cores : List Nat) :
    s.CachesMove (s.leafHeld qd p page leaf cores) :=
  (State.walked_engineReads s qd p _).cachesMove.trans (State.CachesMove.foldl (fun m c => State.tlbInstall_cachesMove m c leaf) _ _)
/-- R324: the cores of the threads hold the leaf, and each of them executes its word again. -/
theorem State.walkEnds_leaf {s : State} {qd p page : Nat} {leaf : TlbEntry} (h : s.walk qd p (page * 4096) = .ok leaf) (refs : List ThreadRef) :
    s.walkEnds qd p page refs = (s.leafHeld qd p page leaf (refs.map s.coreOfRef).eraseDups).again refs := by
  unfold State.walkEnds
  rw [h]
  rfl
/-- R324: with a leaf, the threads of the quadrant go on. -/
theorem translationWalk_leaf {s : State} {p page : Nat} {t : Thread} {w : Workgroup} {leaf : TlbEntry} (hk : s.Keyed) (htraps : s.traps = [])
    (ht : s.thread t.ref = some t) (hw : s.wgOf t.ref = some w) (hwaits : s.waitsWalk p page t = true)
    (hfails : ∀ u ∈ Tbl.vals s.threads, failKey u = none)
    (hquad : ∀ u ∈ Tbl.vals s.threads, s.waitsWalk p page u = true → s.quadOfRef u.ref = w.core / 64)
    (hleaf : s.walk (w.core / 64) p (page * 4096) = .ok leaf) :
    ∃ n, exec (.translationWalk p page) s = .next n ∧ n.thread t.ref = some { t with stall := .none }
      ∧ n.tlb1 w.core page = some leaf ∧ n.mem = s.mem ∧ n.near = s.near ∧ n.wgs = s.wgs
      ∧ ∀ u, s.thread u.ref = some u → s.waitsWalk p page u = false → n.thread u.ref = some u := by
  have hmem : t ∈ s.walkers p page := List.mem_filter.2 ⟨(State.mem_vals_iff hk).2 ht, hwaits⟩
  have hcore : s.coreOfRef t.ref = w.core := by rw [State.coreOfRef, hw]; rfl
  have hexec := exec_translationWalk hmem fun u hu => hquad u (List.mem_of_mem_filter hu) (List.mem_filter.1 hu).2
  rw [State.walkEnds_leaf hleaf] at hexec
  have hinstalled : w.core ∈ (((s.walkers p page).map (·.ref)).map s.coreOfRef).eraseDups :=
    List.mem_eraseDups.2 (List.mem_map.2 ⟨t.ref, List.mem_map.2 ⟨t, hmem, rfl⟩, hcore⟩)
  have hheld := State.tlb1_foldl_tlbInstall (State.walk_has hleaf) _ (s.walked (w.core / 64) p (page * 4096)) (.inl hinstalled)
  have hmoves := s.leafHeld_cachesMove (w.core / 64) p page leaf (((s.walkers p page).map (·.ref)).map s.coreOfRef).eraseDups
  have hrest := State.again_rest (s.leafHeld (w.core / 64) p page leaf (((s.walkers p page).map (·.ref)).map s.coreOfRef).eraseDups)
    ((s.walkers p page).map (·.ref))
  rw [State.foldl_reportFaults_none (State.forall_vals_again (P := fun u => failKey u = none) (fun _ _ => rfl) _ (by rwa [hmoves.threads])),
    State.settleTraps_quiet (by rw [hrest]; exact hmoves.traps.trans htraps)] at hexec
  refine ⟨_, hexec, State.thread_again_of_mem ((hmoves.thread _).trans ht) (List.mem_map_of_mem hmem), ?_, ?_, ?_, ?_, fun u hu hnot => ?_⟩
  · rw [hrest]; exact hheld
  · rw [hrest]; exact hmoves.mem
  · rw [hrest]; exact hmoves.near
  · rw [hrest]; exact hmoves.wgs
  · refine (State.thread_again_ne fun r hr e => ?_).trans ((hmoves.thread _).trans hu)
    obtain ⟨v, hv, rfl⟩ := List.mem_map.1 hr
    obtain ⟨hvals, hvwaits⟩ := List.mem_filter.1 hv
    have hthread := (State.mem_vals_iff hk).1 hvals
    rw [State.thread_congr s e, hu] at hthread
    rw [← Option.some.inj hthread, hnot] at hvwaits
    cases hvwaits

end Sys2Proof.Machine
end

section
/-! SUPPORT. Walks that fail: the record of a word's threads in the fault ring, and the answers of the driver (R326, R327); with the obligation on
walks and faults. -/
namespace Sys2Proof.Machine

/-! The bytes of a record (R326) -/

theorem leNat_leBytes (n v : Nat) : leNat (leBytes n v) = v % 256 ^ n := by
  induction n generalizing v with
  | zero => rw [Nat.pow_zero, Nat.mod_one]; rfl
  | succ n ih =>
    rw [leBytes, leNat, ih, BitVec.toNat_ofNat, show (2 : Nat) ^ 8 = 256 from rfl, Nat.pow_succ', Nat.mod_mul]
/-- A part of the bytes written, as a number. -/
theorem State.memNat_of_writes {s n : State} {a : Nat} {bs : List Byte} (h : Claims.Writes s.mem n.mem a bs) (off k : Nat)
    (hin : off + k ≤ bs.length) : Claims.memNat n (a + off) k = leNat ((bs.drop off).take k) := by
  refine congrArg leNat (List.ext_getElem ?_ fun i hi hj => ?_)
  · simp only [Memory.readN, List.length_map, List.length_range, List.length_take, List.length_drop]
    omega
  · have hik : i < k := by simpa [Memory.readN] using hi
    simp only [Memory.readN, List.getElem_map, List.getElem_range, List.getElem_take, List.getElem_drop]
    rw [h, if_pos (by omega), show a + off + i - a = off + i by omega, List.getD_eq_getElem _ _ (by omega)]
theorem FaultWait.bytes_length (f : FaultWait) (phase : Bool) : (f.bytes phase).length = 32 := rfl
theorem FaultWait.memNat {s n : State} {a : Nat} (f : FaultWait) {phase : Bool} (h : Claims.Writes s.mem n.mem a (f.bytes phase)) (off k : Nat)
    (hin : off + k ≤ 32) : Claims.memNat n (a + off) k = leNat (((f.bytes phase).drop off).take k) := State.memNat_of_writes h off k hin
/-- A record stands in memory at an address. -/
structure FaultWait.StandsAt (f : FaultWait) (phase : Bool) (n : State) (a : Nat) : Prop where
  va      : Claims.memNat n a 8 = f.va.toNat
  lanes   : Claims.memNat n (a + 8) 8 = f.lanes.toNat
  launch  : Claims.memNat n (a + 16) 4 = f.launch.toNat
  wglog   : Claims.memNat n (a + 20) 4 = f.wglog.toNat
  core    : Claims.memNat n (a + 24) 1 = f.core.toNat
  quarter : Claims.memNat n (a + 25) 1 = f.quarter.toNat
  kind    : Claims.memNat n (a + 26) 1 = f.kind % 256
  walk    : Memory.read n.mem (a + 27) = if phase then f.walk ||| 0x80 else f.walk
  zero    : Claims.memNat n (a + 28) 4 = 0
theorem FaultWait.standsAt {s n : State} {a : Nat} {f : FaultWait} {phase : Bool} (h : Claims.Writes s.mem n.mem a (f.bytes phase)) :
    f.StandsAt phase n a where
  va := (f.memNat h 0 8 (by decide)).trans ((leNat_leBytes 8 _).trans (Nat.mod_eq_of_lt f.va.isLt))
  lanes := (f.memNat h 8 8 (by decide)).trans ((leNat_leBytes 8 _).trans (Nat.mod_eq_of_lt f.lanes.isLt))
  launch := (f.memNat h 16 4 (by decide)).trans ((leNat_leBytes 4 _).trans (Nat.mod_eq_of_lt f.launch.isLt))
  wglog := (f.memNat h 20 4 (by decide)).trans ((leNat_leBytes 4 _).trans (Nat.mod_eq_of_lt f.wglog.isLt))
  core := f.memNat h 24 1 (by decide)
  quarter := f.memNat h 25 1 (by decide)
  kind := f.memNat h 26 1 (by decide)
  walk := (h (a + 27)).trans ((if_pos ⟨Nat.le_add_right _ _, Nat.add_lt_add_left (show 27 < 32 by decide) a⟩).trans (by rw [Nat.add_sub_cancel_left]; rfl))
  zero := f.memNat h 28 4 (by decide)

/-! The record goes to the ring (R326) -/

/-- A partition whose ring has taken one more record, its FAULT bit set (R326, R403). -/
def Partition.ringFilled (x : Partition) : Partition :=
  { x with fqHead := x.fqHead + 1, fqLap := if x.fqHead = 0xFFF then !x.fqLap else x.fqLap, irqStatus := x.irqStatus ||| 2#6 }
/-- A record has been written at HEAD, and FAULT raised. -/
structure State.RingWritten (s n : State) (p : Nat) (f : FaultWait) : Prop where
  bytes   : Claims.Writes s.mem n.mem ((fieldOf (s.part p).fqBase 51 17).toNat * 2 ^ 17 + 32 * (s.part p).fqHead.toNat) (f.bytes (s.part p).fqLap)
  part    : n.part p = (s.part p).ringFilled
  threads : n.threads = s.threads
  near    : n.near = s.near
  traps   : n.traps = s.traps
theorem State.ringWrite_written (s : State) (p : Nat) (f : FaultWait) : s.RingWritten (s.ringWrite p f) p f := by
  have hwritten := (State.asFunction_cachesMove s p ((fieldOf (s.part p).fqBase 51 17).toNat * 2 ^ 17 + 32 * (s.part p).fqHead.toNat) 32 true).memWritten
    (State.memEngine_written _ ((fieldOf (s.part p).fqBase 51 17).toNat * 2 ^ 17 + 32 * (s.part p).fqHead.toNat) (f.bytes (s.part p).fqLap) none)
  unfold State.ringWrite
  dsimp only
  generalize State.memEngine _ _ (f.bytes (s.part p).fqLap) none = m at hwritten ⊢
  have hpart : m.part p = s.part p := hwritten.rest.part p
  refine ⟨?_, ?_, ?_, ?_, ?_⟩
  · rw [State.irqPart_eq]
    exact hwritten.bytes
  · rw [State.part_irqPart, State.part_onPart_self, hpart]
    rfl
  · rw [State.irqPart_eq]
    exact hwritten.threads
  · rw [State.irqPart_eq]
    exact hwritten.near
  · rw [State.irqPart_eq]
    exact hwritten.traps

/-- A failed thread waits at an index of the ring then. -/
theorem State.thread_nameRecord {s : State} {t : Thread} {at_ : Option Nat} {kind : Nat} {va cyc : DWord} {walk : Byte} (i : Nat)
    (ht : s.thread t.ref = some t) (hstall : t.stall = .fault at_ kind va walk cyc) :
    (s.nameRecord [t.ref] i).thread t.ref = some { t with stall := .fault (some i) kind va walk cyc } := by
  refine (State.thread_onThread_self s t.ref _).trans ?_
  rw [ht, Option.map_some, Thread.kept, hstall]
/-- A record of a partition has been written at an index of the ring. -/
def Partition.recordNamed (f : FaultWait) (i : Nat) (x : Partition) : Partition :=
  let named := fun (g : FaultWait) => if g.index.isNone && g.threads == f.threads then { g with index := some i } else g
  { x with waits := (x.waits.filter (fun g => g.index != some i)).map named }
/-- The partition's only record waits at an index. -/
def Partition.waitsAt (f : FaultWait) (i : Nat) (x : Partition) : Partition := { x with waits := [{ f with index := some i }] }
theorem State.onPart_congr {s : State} {p : Nat} {f g : Partition → Partition} (h : f (s.part p) = g (s.part p)) : s.onPart p f = s.onPart p g :=
  congrArg (fun x => { s with parts := Tbl.insert s.parts p x }) h
section
variable {s : State} {p : Nat} {f : FaultWait} {r : ThreadRef} (hwaits : (s.part p).waits = [f]) (hindex : f.index = none) (hthreads : f.threads = [r])
  (hen : (s.part p).fqEn = true) (hroom : (s.part p).fqHead + 1 ≠ (s.part p).fqTail)
include hwaits hindex hthreads hen hroom
/-- R326: the one record of a partition goes to the ring, and its thread waits at its index. -/
theorem State.serveFaults_one : s.serveFaults p
    = ((s.ringWrite p f).onPart p (Partition.waitsAt f (s.part p).fqHead.toNat)).nameRecord [r] (s.part p).fqHead.toNat := by
  have hfind : (s.part p).waits.find? (fun g => g.index.isNone) = some f := by simp [hwaits, hindex]
  have hroom' : (s.part p).ringFull = false := by simpa [Partition.ringFull] using hroom
  have hpart := (State.ringWrite_written s p f).part
  have hfiled : (s.ringWrite p f).onPart p (Partition.recordNamed f (s.part p).fqHead.toNat)
      = (s.ringWrite p f).onPart p (Partition.waitsAt f (s.part p).fqHead.toNat) := State.onPart_congr (by
    rw [hpart]
    simp [Partition.recordNamed, Partition.waitsAt, Partition.ringFilled, hwaits, hindex])
  have hlast : ∀ m : State, (m.part p).waits = [{ f with index := some (s.part p).fqHead.toNat }] → State.flushFaults 1 m p = m := fun m hm => by
    rw [State.flushFaults]
    simp [hm]
  unfold State.serveFaults
  rw [hwaits, State.flushFaults]
  simp only [hfind, hen, hroom', Bool.not_true, Bool.false_eq_true, if_false]
  refine (congrArg (fun m : State => State.flushFaults 1 (m.nameRecord f.threads (s.part p).fqHead.toNat) p) hfiled).trans ?_
  refine (congrArg (fun refs => State.flushFaults 1 (State.nameRecord _ refs (s.part p).fqHead.toNat) p) hthreads).trans (hlast _ ?_)
  exact congrArg Partition.waits (State.part_onPart_self _ _ _)
end

/-! The walk fails (R324, R326) -/

/-- One record of the partition waits to be written. -/
def State.owes (s : State) (p : Nat) (f : FaultWait) : State := s.onPart p (fun x => { x with waits := [f] })
theorem State.part_owes (s : State) (p : Nat) (f : FaultWait) : (s.owes p f).part p = { s.part p with waits := [f] } :=
  State.part_onPart_self s p _
/-- A record has been written at HEAD, and FAULT is raised. -/
structure State.Recorded (s n : State) (p : Nat) (f : FaultWait) : Prop where
  head   : (n.part p).fqHead = (s.part p).fqHead + 1
  irq    : (n.part p).irqStatus = (s.part p).irqStatus ||| 2#6
  bytes  : Claims.Writes s.mem n.mem ((fieldOf (s.part p).fqBase 51 17).toNat * 2 ^ 17 + 32 * (s.part p).fqHead.toNat) (f.bytes (s.part p).fqLap)
  near   : n.near = s.near
  traps  : n.traps = s.traps
/-- R326: with the fault ring on and not full, the record goes there, and its thread waits at its index. -/
theorem State.serveFaults_owes {s : State} {p : Nat} {f : FaultWait} {t : Thread} {at_ : Option Nat} {kind : Nat} {va cyc : DWord} {walk : Byte}
    (ht : s.thread t.ref = some t) (hstall : t.stall = .fault at_ kind va walk cyc) (hindex : f.index = none) (hthreads : f.threads = [t.ref])
    (hen : (s.part p).fqEn = true) (hroom : (s.part p).fqHead + 1 ≠ (s.part p).fqTail) :
    s.Recorded ((s.owes p f).serveFaults p) p f
      ∧ ((s.owes p f).serveFaults p).thread t.ref = some { t with stall := .fault (some (s.part p).fqHead.toNat) kind va walk cyc } := by
  have hpart := s.part_owes p f
  obtain ⟨hbytes, hring, hkept, hnear, htraps⟩ := State.ringWrite_written (s.owes p f) p f
  have hserve := State.serveFaults_one (congrArg Partition.waits hpart) hindex hthreads ((congrArg Partition.fqEn hpart).trans hen)
    (by rw [hpart]; exact hroom)
  rw [hpart] at hbytes hring hserve
  have hfiled := State.part_onPart_self ((s.owes p f).ringWrite p f) p (Partition.waitsAt f (s.part p).fqHead.toNat)
  rw [hring] at hfiled
  have hthread : ((s.owes p f).ringWrite p f).thread t.ref = some t := (congrArg (fun m => Tbl.find m (refKey t.ref)) hkept).trans ht
  rw [hserve]
  exact ⟨⟨congrArg Partition.fqHead hfiled, congrArg Partition.irqStatus hfiled, hbytes, hnear, htraps⟩,
    State.thread_nameRecord (s := ((s.owes p f).ringWrite p f).onPart p _) _ hthread hstall⟩
/-- R326: of the threads of a word one has failed and no other waits: its record is due. -/
theorem State.reportFaults_one {s : State} {p : Nat} {k : FaultKey} {t : Thread} {w : Workgroup} (hk : s.Keyed) (ht : s.thread t.ref = some t)
    (hfail : failKey t = some k) (hothers : ∀ u ∈ Tbl.vals s.threads, u.ref ≠ t.ref → failKey u = none)
    (hwalks : ∀ u ∈ Tbl.vals s.threads, walkKey u = none) (hwaits : (s.part p).waits = []) (hw : s.wg k.wg = some w) :
    s.reportFaults p k = (s.owes p (s.faultFor w k.kind [t])).serveFaults p := by
  have hnone : (Tbl.vals s.threads).any (fun t => walkKey t == some k) = false := List.any_eq_false.2 fun u hu => by simp [hwalks u hu]
  have hone : (Tbl.vals s.threads).filter (fun t => failKey t == some k && !(s.part p).waits.any (fun f => f.threads.contains t.ref)) = [t] :=
    State.filter_vals_eq hk ht (by simp [hfail, hwaits]) fun u hu hne => by simp [hothers u hu hne]
  unfold State.reportFaults
  rw [hnone, if_neg Bool.false_ne_true]
  dsimp only
  rw [hone, hw]
  exact congrArg (fun m : State => m.serveFaults p) (State.onPart_congr (by rw [hwaits]; rfl))
theorem State.walkEnds_fault {s : State} {qd p page level cause : Nat} (h : s.walk qd p (page * 4096) = .error (level, cause)) (r : ThreadRef) :
    s.walkEnds qd p page [r] = (s.walked qd p (page * 4096)).onThread r (Thread.failWalk (BitVec.ofNat 8 (level + 8 * cause))) := by
  unfold State.walkEnds
  rw [h]
  rfl

/-- R326: the record of one thread. -/
def faultRecord (w : Workgroup) (l : Launch) (t : Thread) (kind : Nat) : FaultWait where
  index := none
  va := (failOf t).1
  lanes := 1#64 <<< w.laneOf t.ref.tid
  launch := BitVec.ofNat 32 w.launch
  wglog := BitVec.ofNat 32 w.log
  core := BitVec.ofNat 8 (l.logicalOf w.core)
  quarter := BitVec.ofNat 8 w.quarter
  kind := kind
  walk := (failOf t).2
  threads := [t.ref]
theorem State.faultFor_one {s : State} {w : Workgroup} {l : Launch} (hl : s.launchOf w = some l) (t : Thread) (kind : Nat) :
    s.faultFor w kind [t] = faultRecord w l t kind := by
  simp [State.faultFor, faultRecord, hl]
theorem State.waitsWalk_false {s : State} {u : Thread} (p page : Nat) (h : walkKey u = none) : s.waitsWalk p page u = false := by
  unfold State.waitsWalk
  split
  · next hstall =>
    rw [walkKey, hstall] at h
    cases h
  · rfl
/-- What the failure of its walk makes of the only thread that waits for one. -/
theorem State.failKeys {s : State} {t : Thread} {f : Thread → Thread} (hk : s.Keyed) (ht : s.thread t.ref = some t) (href : (f t).ref = t.ref)
    (hwalk : walkKey (f t) = none) (hfails : ∀ u ∈ Tbl.vals s.threads, failKey u = none)
    (hothers : ∀ u ∈ Tbl.vals s.threads, u.ref ≠ t.ref → walkKey u = none) :
    ∀ u ∈ Tbl.vals (s.onThread t.ref f).threads, walkKey u = none ∧ (u.ref ≠ t.ref → failKey u = none) := by
  intro u hu
  have hthread := (State.mem_vals_iff (hk.onThread t.ref f)).1 hu
  by_cases h : refKey u.ref = refKey t.ref
  · rw [State.thread_congr _ h, State.thread_onThread_some ht href] at hthread
    rw [← Option.some.inj hthread]
    exact ⟨hwalk, fun hne => absurd href hne⟩
  · rw [State.thread_onThread_ne s f h] at hthread
    have hvals := (State.mem_vals_iff hk).2 hthread
    exact ⟨hothers u hvals fun e => h (by rw [e]), fun _ => hfails u hvals⟩
/-- The walk for the only thread that waits for one has failed, and made it v. -/
structure State.WalkFailed (s m : State) (v : Thread) : Prop where
  keyed  : m.Keyed
  thread : m.thread v.ref = some v
  alone  : ∀ u ∈ Tbl.vals m.threads, walkKey u = none ∧ (u.ref ≠ v.ref → failKey u = none)
  rest   : ({ s with threads := m.threads } : State).CachesMove m
theorem State.walkEnds_failed {s : State} {qd p page at_ kind level cause : Nat} {va cyc : DWord} {t : Thread} (hk : s.Keyed)
    (ht : s.thread t.ref = some t) (hstall : t.stall = .walk at_ kind va cyc) (hfails : ∀ u ∈ Tbl.vals s.threads, failKey u = none)
    (hothers : ∀ u ∈ Tbl.vals s.threads, u.ref ≠ t.ref → walkKey u = none) (herror : s.walk qd p (page * 4096) = .error (level, cause)) :
    s.WalkFailed (s.walkEnds qd p page [t.ref]) { t with stall := .fault none kind va (BitVec.ofNat 8 (level + 8 * cause)) cyc } := by
  have hmoves := (State.walked_engineReads s qd p (page * 4096)).cachesMove
  have hfail : t.failWalk (BitVec.ofNat 8 (level + 8 * cause)) = { t with stall := .fault none kind va (BitVec.ofNat 8 (level + 8 * cause)) cyc } := by
    rw [Thread.failWalk, hstall]
  rw [State.walkEnds_fault herror]
  generalize s.walked qd p (page * 4096) = m at hmoves ⊢
  have hkm : m.Keyed := by unfold State.Keyed; rwa [hmoves.threads]
  have htm : m.thread t.ref = some t := (hmoves.thread _).trans ht
  refine ⟨hkm.onThread _ _, (State.thread_onThread_some htm (by rw [hfail])).trans (by rw [hfail]),
    State.failKeys hkm htm (by rw [hfail]) (by rw [hfail]; rfl) (by rwa [hmoves.threads]) (by rwa [hmoves.threads]), ?_⟩
  unfold State.CachesMove at hmoves ⊢
  rw [hmoves]
  rfl
/-- R324, R326: with none, the thread stops, and its record goes to the ring. -/
theorem translationWalk_fault {s : State} {page kind level cause : Nat} {va cyc : DWord} {t : Thread} {w : Workgroup} {l : Launch} (hk : s.Keyed)
    (htraps : s.traps = []) (ht : s.thread t.ref = some t) (hexited : t.exited = false) (hstall : t.stall = .walk page kind va cyc)
    (hw : s.wgOf t.ref = some w) (hl : s.launchOf w = some l) (hfails : ∀ u ∈ Tbl.vals s.threads, failKey u = none)
    (hwaits : (s.part l.part).waits = []) (herror : s.walk (w.core / 64) l.part (page * 4096) = .error (level, cause))
    (hen : (s.part l.part).fqEn = true) (hroom : (s.part l.part).fqHead + 1 ≠ (s.part l.part).fqTail)
    (hothers : ∀ u ∈ Tbl.vals s.threads, u.ref ≠ t.ref → walkKey u = none) :
    let info := BitVec.ofNat 8 (level + 8 * cause)
    ∃ n, exec (.translationWalk l.part page) s = .next n
      ∧ s.Recorded n l.part (faultRecord w l { t with stall := .fault none kind va info cyc } kind)
      ∧ n.thread t.ref = some { t with stall := .fault (some (s.part l.part).fqHead.toNat) kind va info cyc } := by
  intro info
  have hkey : walkKey t = some { wg := t.ref.wg, pc := t.pc, kind := kind, cyc := cyc } := by rw [walkKey, hstall]
  have hwalkers : s.walkers l.part page = [t] :=
    State.filter_vals_eq hk ht (State.waitsWalk_of hstall hexited hw hl) fun u hu hne => State.waitsWalk_false _ _ (hothers u hu hne)
  have hquad : s.quadOfRef t.ref = w.core / 64 := by rw [State.quadOfRef, State.coreOfRef, hw]; rfl
  have hexec := exec_translationWalk (qd := w.core / 64) (by rw [hwalkers]; exact List.mem_singleton_self t)
    (by rw [hwalkers]; exact List.forall_mem_singleton.2 hquad)
  rw [hwalkers, List.filterMap_cons_some hkey, List.map_singleton] at hexec
  obtain ⟨hkm, hthread, halone, hmoves⟩ := State.walkEnds_failed hk ht hstall hfails hothers herror
  generalize s.walkEnds (w.core / 64) l.part page [t.ref] = m at *
  have hpart : m.part l.part = s.part l.part := hmoves.part _
  have hreport := State.reportFaults_one hkm hthread rfl (fun u hu => (halone u hu).2) (fun u hu => (halone u hu).1)
    (by rw [hpart]; exact hwaits) ((hmoves.wg _).trans hw)
  rw [State.faultFor_one ((congrArg (fun x => Tbl.find x w.launch) hmoves.launches).trans hl)] at hreport
  obtain ⟨⟨hhead, hirq, hbytes, hnear, hquiet⟩, hwaiting⟩ := State.serveFaults_owes hthread rfl
    (f := faultRecord w l { t with stall := .fault none kind va info cyc } kind) rfl rfl (by rw [hpart]; exact hen) (by rw [hpart]; exact hroom)
  rw [hpart] at hhead hirq hbytes hwaiting
  rw [hmoves.mem] at hbytes
  have htraps' := hquiet.trans (hmoves.traps.trans htraps)
  exact ⟨_, hexec.trans (congrArg Host.Outcome.next ((congrArg State.settleTraps hreport).trans (State.settleTraps_quiet htraps'))),
    ⟨hhead, hirq, hbytes, hnear.trans hmoves.near, hquiet.trans hmoves.traps⟩, hwaiting⟩

/-! Walks -/

/-- R159, R324, R326. -/
theorem walks : Claims.Walks := by
  intro s p page kind va cyc t w l hk htraps ht hexited hstall hw hl hp hfails hwaits hquad
  subst hp
  refine ⟨fun leaf hleaf => translationWalk_leaf hk htraps ht hw (State.waitsWalk_of hstall hexited hw hl) hfails hquad hleaf,
    fun level cause herror hen hroom hothers => ?_⟩
  obtain ⟨n, hexec, ⟨hhead, hirq, hbytes, hnear, -⟩, hthread⟩ :=
    translationWalk_fault hk htraps ht hexited hstall hw hl hfails hwaits herror hen hroom hothers
  obtain ⟨hva, hlanes, hlaunch, hwglog, hcore, hquarter, hkind, hwalk, hzero⟩ := FaultWait.standsAt hbytes
  exact ⟨n, hexec, hthread, hhead, hirq, hva, hlanes, hlaunch.trans (BitVec.toNat_ofNat ..), hwglog.trans (BitVec.toNat_ofNat ..),
    hcore.trans (BitVec.toNat_ofNat ..), hquarter.trans (BitVec.toNat_ofNat ..), hkind, hzero, hwalk,
    fun b hb => (hbytes b).trans (if_neg (by rw [FaultWait.bytes_length]; omega)), hnear⟩

/-! The answers of the driver (R327) -/

theorem State.waiting_answered (s : State) (p i : Nat) : ((s.answered p i).part p).waiting i = none := by
  rw [State.answered, State.part_onPart_self]
  simp [Partition.waiting]
section
variable {s : State} {p i : Nat} (hserves : s.serves (.vf p) 0 = true)
include hserves
theorem exec_fqRespReplay_none (h : (s.part p).waiting i = none) : exec (.fqRespReplay p i) s = .next s := by
  change execFqRespReplay p i s = _
  rw [execFqRespReplay, State.hostSets_of_serves _ hserves, h]
theorem exec_fqRespDecline_none (h : (s.part p).waiting i = none) : exec (.fqRespDecline p i) s = .next s := by
  change execFqRespDecline p i s = _
  rw [execFqRespDecline, State.hostSets_of_serves _ hserves, h]
theorem exec_fqRespReplay_some {f : FaultWait} (h : (s.part p).waiting i = some f) :
    exec (.fqRespReplay p i) s = .next ((s.answered p i).again f.threads) := by
  change execFqRespReplay p i s = _
  rw [execFqRespReplay, State.hostSets_of_serves _ hserves, h]
  rfl
theorem exec_fqRespDecline_some {f : FaultWait} (h : (s.part p).waiting i = some f) :
    exec (.fqRespDecline p i) s = .next ((s.answered p i).declineAll f.threads).settleTraps := by
  change execFqRespDecline p i s = _
  rw [execFqRespDecline, State.hostSets_of_serves _ hserves, h]
end
theorem State.declineAll_one {s : State} {t : Thread} (ht : s.thread t.ref = some t) :
    s.declineAll [t.ref] = (s.onThread t.ref (fun u => { u with stall := .none })).trapData t 0x06 0 (failOf t).1 := by
  rw [State.declineAll, List.foldl_cons, List.foldl_nil, ht]
  rfl
/-- The answers of the driver, to an index without a waiting record and to one with a record. -/
theorem faultAnswers : Claims.FaultAnswers := by
  intro s p i hserves
  refine ⟨fun hnone => ⟨exec_fqRespReplay_none hserves hnone, exec_fqRespDecline_none hserves hnone⟩,
    fun f hf => ⟨⟨_, exec_fqRespReplay_some hserves hf, ?_⟩, fun t kind va walk cyc hthreads ht hstall => ?_⟩⟩
  · have hrest := State.again_rest (s.answered p i) f.threads
    refine ⟨?_, fun t ht hmem => State.thread_again_of_mem ht hmem, fun r hr => State.thread_again_ne hr, ?_, ?_, ?_⟩
    · rw [hrest]
      exact s.waiting_answered p i
    · rw [hrest]; rfl
    · rw [hrest]; rfl
    · rw [hrest]; rfl
  · have hva : (failOf t).1 = va := by rw [failOf, hstall]
    rw [exec_fqRespDecline_some hserves hf, hthreads, State.declineAll_one (s := s.answered p i) ht, hva]
    rfl
/-- Settles O49: walks with and without a leaf, and the answers of the driver. -/
theorem walksAndFaults : Obligations.WalksAndFaults := ⟨walks, faultAnswers⟩

end Sys2Proof.Machine
end
